-- ==== Sys2Proof/Word.lean ====
section
/-!
DEFINITION. Word.lean: the word types of the Brixha model and the unit numbers of R5.
-/

namespace Sys2Proof

/-- One byte of memory, of a packet or of an image. -/
abbrev Byte := BitVec 8
abbrev U16 := BitVec 16
abbrev U32 := BitVec 32
abbrev U64 := BitVec 64

/-- A byte string, first byte first. -/
abbrev Bytes := List Byte

/-- Core C0 to C11 (R5). -/
abbrev CoreId := Fin 12
/-- Partition P0 to P3 (R5). -/
abbrev PartId := Fin 4
/-- Context 0 to 15 (R32). -/
abbrev CtxId := Fin 16
/-- I/O die: 0 N0, 1 N1 (R4). -/
abbrev DieId := Fin 2
/-- CSI-2 port of one I/O die (R11). -/
abbrev PortId := Fin 8
/-- Ethernet MAC of one I/O die (R11). -/
abbrev MacId := Fin 4
/-- Memory stack M0 to M7 (R6). -/
abbrev StackId := Fin 8

end Sys2Proof
end

