-- ==== Sys2Proof/Syntax.lean ====
section
/-!
DEFINITION. Syntax.lean: the commands the Brixha takes, one constructor of `Instr` for each row of the
table of operations and events, with the operands each row's rule gives it.
-/

namespace Sys2Proof

/-- The four orderable parts (R2, R3). -/
inductive Part where
  | gb1241 | gb1242 | gb1281 | gb1282
  deriving DecidableEq, Repr

/-- The ARR divider of a partition (R469, R470). -/
inductive Divider where
  | d5 | d6 | d8 | d10
  deriving DecidableEq, Repr

/-- The four hardware queues of a core (R46). -/
inductive QKind where
  | aq | sq | xq | mq
  deriving DecidableEq, Repr

/-- A hardware queue: one of a core's four, or the Dresser queue of a partition (R46). -/
inductive QueueId where
  | core (c : CoreId) (k : QKind)
  | dq (p : PartId)
  deriving DecidableEq, Repr

/-- What a SECDED read finds: nothing, a corrected single-bit error, an uncorrectable word (R239). -/
inductive Finding where
  | clean | single | double
  deriving DecidableEq, Repr

/-- What the header ECC of a CSI-2 packet finds (R267). -/
inductive HdrEcc where
  | ok | corrected | bad
  deriving DecidableEq, Repr

/-- The port, virtual channel and header status of a CSI-2 packet (R266, R267). -/
structure CsiHdr where
  die : DieId
  port : PortId
  vc : Fin 4
  /-- VCX non-zero: an extended virtual channel. -/
  vcx : Bool := false
  ecc : HdrEcc := .ok
  /-- What the read-out of the recorder buffer finds (R259, R328). -/
  buffered : Finding := .clean
  deriving DecidableEq, Repr

/-- A completion of the head of a queue: the queue, and the difference that the pair hub finds in its signal (R337). -/
structure Completion where
  q : QueueId
  diff : Option (Fin 4 × BitVec 12) := none
  deriving DecidableEq, Repr

/-- What a received Ethernet frame finds in the buffers: the receive buffer full, and the read-out of the recorder buffer (R259, R328). -/
structure RxBuffers where
  full : Bool
  buffered : Finding := .clean
  deriving DecidableEq, Repr

/-- A FLOW record that closes: its MAC, and the read-out of the recorder buffer (R259, R328). -/
structure FlowClose where
  mac : MacId
  buffered : Finding := .clean
  deriving DecidableEq, Repr

/-- How a self-test segment ends: its signature, and the hub's repeated self-check after the second core of a pair (R347). -/
structure SegResult where
  sigOk : Bool
  checkFails : Bool := false
  deriving DecidableEq, Repr

/-- The die-to-die links (R13). -/
inductive DieLink where
  | d0d1 | d0n0 | d1n0 | d0n1 | d1n1
  deriving DecidableEq, Repr

/-- An operation that a residue checker watches, with its operands (R331). -/
inductive ResidueOp where
  | add (a b : Int)
  | sub (a b : Int)
  | mul (a b : Int)
  | shl (v : Int) (s : Nat)
  | rneShr (v : Int) (s : Nat)
  | select (a b : Int) (second : Bool)
  | clamp (v lo hi : Int)
  | rescale (p : Int) (sc : Nat)
  deriving DecidableEq, Repr

/-- An upset of a datapath: it flips a bit of the result of an operation (R331). -/
structure ResidueUpset where
  op : ResidueOp
  bit : Nat
  deriving DecidableEq, Repr

/-- What the physical world adds to one run of an engine: words found uncorrectable or corrected, residue
and parity errors, transport errors, differences at the pair hub, arrival order in relaxed mode and cycles
lost to stalls (R108, R97, R331, R239, R256, R337, R209, R96). All empty in a run without an upset. -/
structure Facts where
  /-- 64-bit words (device addresses) that turn out uncorrectable. -/
  ue : List Nat := []
  /-- 64-bit words (device addresses) corrected on a read. -/
  ce : List Nat := []
  /-- DRAM transfers of the run that fail their link ECC: device address, and whether the one retry fails too (R244). -/
  linkEcc : List (Nat × Bool) := []
  /-- An upset of a result in the engine's own datapath. -/
  residue : Option ResidueUpset := none
  /-- An upset of a result in the accumulate path (ACC_RESIDUE). -/
  accResidue : Option ResidueUpset := none
  /-- The sum D of a vector comes out wrong by 1: issue position, quarter and half (0 west, 1 east) (R107, R108). -/
  check : List (Nat × Fin 4 × Fin 2) := []
  /-- The row queues of a group hold another tag at this issue position: problem, group and the difference, as after a lost
  or duplicated entry (R94, R127). -/
  skew : Option (Nat × Fin 8 × Fin 4 × BitVec 4) := none
  /-- Words of the Tally's SRAM that are corrected while it judges (R297, R324). -/
  tallyCe : Nat := 0
  /-- A bit of this accumulator entry flips before the run: channel, column, bit (R99, R332). -/
  accFlip : Option (Fin 1024 × Fin 128 × Fin 48) := none
  /-- The parity bit of a row queue entry flips: issue position, problem and row (R94, R97). -/
  parity : Option (Nat × Fin 8 × Fin 128) := none
  /-- The residue, check or parity upset is in the trailing core of the pair, not in the leading one (R116, R338). -/
  trail : Bool := false
  /-- A pair-comparator difference: kind and position (R351). -/
  pair : Option (Fin 4 × BitVec 12) := none
  /-- A lane of this die-to-die link fails during the run (R14, R29). -/
  link : Option DieLink := none
  /-- An end-to-end CRC mismatch of a transaction of this run, at this device address. -/
  xport : Option (BitVec 48) := none
  /-- Arrival order of the input elements in relaxed mode. -/
  order : List Nat := []
  /-- Cycles stalled: on queues, scales, input rows or Ledge banks; on the fill; on the output. -/
  stallFeed : Nat := 0
  stallFill : Nat := 0
  stallOut : Nat := 0
  deriving DecidableEq, Repr

/-- A transaction that reaches its destination endpoint on the Haul road (R14, R255, R256). -/
structure HaulTxn where
  ctx : CtxId
  gen : BitVec 12
  write : Bool
  addr : BitVec 48
  data : Bytes := []
  len : Nat := 0
  crcOk : Bool := true
  /-- The destination's source ID for its error record (R356). -/
  src : U16 := 0
  /-- A lane of this die-to-die link fails under it, on its only route (R14, R29). -/
  link : Option DieLink := none
  deriving DecidableEq, Repr

/-- The ring ports (R406). -/
inductive RingPort where
  | e | w
  deriving DecidableEq, Repr

/-- The two virtual channels of a ring port (R412). -/
inductive RingChannel where
  | req | rsp
  deriving DecidableEq, Repr

/-- What a ring flit carries to this device: nothing, a request of member `src` with the verdict of its end-to-end CRC, the
acknowledgement of a write or signal that this device sent to member `src`, or a transaction for another member with its
channel and dateline class, B or A (R14, R412, R413, R415). -/
inductive RingTxn where
  | idle
  | write (src : BitVec 2) (e2eOk : Bool) (c : CtxId) (gen : BitVec 12) (addr : BitVec 48) (data : Bytes)
  | read (src : BitVec 2) (e2eOk : Bool) (c : CtxId) (gen : BitVec 12) (addr : BitVec 48) (len : Nat)
  | signal (src : BitVec 2) (e2eOk : Bool) (c : CtxId) (gen : BitVec 12) (bead : BitVec 14) (inc : BitVec 4)
  | ack (src : BitVec 2)
  | transit (dst : BitVec 2) (chan : RingChannel) (inB : Bool) (data : Bytes)
  deriving DecidableEq, Repr

/-- The firmware processors, in the numbering of R457. -/
inductive Proc where
  | svp | pwp | seq0 | seq1 | seq2 | seq3 | tally
  deriving DecidableEq, Repr

/-- How the hardware departs from the expected events in the start-up error injection (R341 to R344): the step (0: it does
not), the kind of R344 and the source of the first deviation; and how long the sequence takes. -/
structure StartTest where
  failStep : Fin 13 := 0
  failKind : Fin 6 := 0
  failSrc : U16 := 0
  durationUs : U32 := 0
  /-- A processor that faults between steps 3 and 4 of the first pass of the start (R452). -/
  proc : Option Proc := none
  deriving DecidableEq, Repr

/-- The header of a management message (R422), the port that it came in by and its dateline class, B or A (R413). -/
structure MgmtHdr where
  src : BitVec 2
  dst : BitVec 2 := 0
  broadcast : Bool := false
  epoch : U32 := 0
  seq : U32 := 0
  crcOk : Bool := true
  via : RingPort := .e
  inB : Bool := false
  deriving DecidableEq, Repr

/-- The wake sources (R478). -/
inductive WakeSrc where
  | csi (die : DieId) (port : PortId)
  | ethernet (die : DieId) (mac : MacId) (frame : Bytes)
  | ring
  | pcie
  /-- The level at WAKE_N changes. -/
  | wakeN (low : Bool)
  deriving DecidableEq, Repr

/-- One command of the Brixha: one constructor for each row of spec/opcode_table.json. Operands that a
physical event carries (readings, packets, findings) stand in the command; everything else comes from State. -/
inductive Instr where
  /-- POWER_GOOD (R452). -/
  | powerGood (ringId : BitVec 2) (xspiSplit : Bool) (t : StartTest)
  /-- DEVICE_RESET (R511). -/
  | deviceReset (lowNs : Nat)
  /-- VDD_AON_LOSS (R510). -/
  | vddAonLoss (mv : Nat)
  /-- VOLT_MON (R334). -/
  | voltMon (die : Fin 4) (mon : BitVec 6) (value : U32)
  /-- CLK_MON (R333). -/
  | clkMon (die : Fin 4) (mon : BitVec 6) (value : U32)
  /-- TEMP_SAMPLE (R335). -/
  | tempSample (readings : Vector Int 64)
  /-- THERMAL_EMERGENCY_CLEAR (R482). -/
  | thermalEmergencyClear
  /-- DROOP_DETECT (R473). -/
  | droopDetect (p : PartId)
  /-- DROOP_STRETCH_END (R473). -/
  | droopStretchEnd (p : PartId)
  /-- AVS_LOOP_UPDATE (R472). -/
  | avsLoopUpdate (p : PartId) (margin : Nat)
  /-- PWP_THERMAL_STEP (R480). -/
  | pwpThermalStep (die : Fin 2)
  /-- POWER_EMERGENCY (R481). -/
  | powerEmergency (power : U16) (heaviest : PartId)
  /-- POWER_EMERGENCY_CLEAR (R481). -/
  | powerEmergencyClear (power : U16) (voltOk : Bool)
  /-- ARR_DIVIDER_CHANGE (R471). -/
  | arrDividerChange (p : PartId) (div : Divider)
  /-- CTX_START (R503). -/
  | ctxStart (tag : U16) (args : Bytes)
  /-- CTX_STOP (R503). -/
  | ctxStop (tag : U16) (args : Bytes)
  /-- LISTS_LOADED (R34). -/
  | listsLoaded (c : CtxId)
  /-- SCHEDULE_TRIGGER (R37). -/
  | scheduleTrigger (c : CtxId)
  /-- ARRIVAL_TIMEOUT (R38). -/
  | arrivalTimeout (c : CtxId)
  /-- DESCRIPTOR_ACCEPT (R52). -/
  | descriptorAccept (q : QueueId) (side : CtxId) (origin : Fin 4) (raw : Option Bytes)
  /-- NOP (R53). -/
  | nop (q : QueueId)
  /-- FENCE (R62). -/
  | fence (q : QueueId)
  /-- MOVE (R67). -/
  | move (core : CoreId) (f : Facts)
  /-- DIGEST (R73). -/
  | digest (core : CoreId) (f : Facts)
  /-- CHECKPOINT (R75). -/
  | checkpoint (core : CoreId) (f : Facts)
  /-- SEAL (R77). -/
  | sealOp (core : CoreId) (f : Facts)
  /-- PAIR (R70). -/
  | pair (core : CoreId)
  /-- SPLIT (R70). -/
  | splitOp (core : CoreId)
  /-- ARRAY (R111). -/
  | array (core : CoreId) (f : Facts)
  /-- SCALE_ADAPT (R144). -/
  | scaleAdapt (core : CoreId) (f : Facts)
  /-- SETT (R191). -/
  | sett (core : CoreId) (f : Facts)
  /-- GATHER (R218). -/
  | gather (core : CoreId) (f : Facts)
  /-- SCATTER (R219). -/
  | scatter (core : CoreId) (f : Facts)
  /-- SORT (R220). -/
  | sort (core : CoreId) (f : Facts)
  /-- TOPK (R221). -/
  | topk (core : CoreId) (f : Facts)
  /-- VOXEL (R224). -/
  | voxel (core : CoreId) (f : Facts)
  /-- NEIGHBOUR (R225). -/
  | neighbour (core : CoreId) (f : Facts)
  /-- SEGRED (R226). -/
  | segred (core : CoreId) (f : Facts)
  /-- COMPACT (R227). -/
  | compact (core : CoreId) (f : Facts)
  /-- MATCH (R228). -/
  | matchOp (core : CoreId) (f : Facts)
  /-- EDGE (R229). -/
  | edge (core : CoreId) (f : Facts)
  /-- DRESS (R202). -/
  | dress (p : PartId) (f : Facts)
  /-- DESCRIPTOR_COMPLETE (R57). -/
  | descriptorComplete (k : Completion)
  /-- BEAD_SIGNAL (R57). -/
  | beadSignal (c : CtxId) (gen : BitVec 12) (p : PartId) (bead : BitVec 12) (inc : BitVec 4)
  /-- BEAD_TIMEOUT (R59). -/
  | beadTimeout (q : QueueId)
  /-- STAGE_EVENT (R316). -/
  | stageEvent (c : CtxId) (st : Fin 32) (isEnd : Bool) (elapsedUs : Nat)
  /-- WDG_LATE (R316). -/
  | wdgLate (c : CtxId) (st : Fin 32) (elapsedUs : Nat)
  /-- TEST_STAGE_END (R42). -/
  | testStageEnd (c : CtxId) (st : Fin 32)
  /-- PAIR_HANDOVER (R339). -/
  | pairHandover (p : PartId) (selfcheckFails : Bool)
  /-- CSI_FRAME_START (R266). -/
  | csiFrameStart (k : CsiHdr) (frameNo : U16)
  /-- CSI_FRAME_END (R266). -/
  | csiFrameEnd (k : CsiHdr) (frameNo : U16)
  /-- CSI_LONG_PACKET (R266). -/
  | csiLongPacket (k : CsiHdr) (dt : BitVec 6) (payload : Bytes) (crcOk : Bool)
  /-- CRUSHER_LINE (R177). -/
  | crusherLine (die : DieId) (cru : Fin 2) (finding : Finding)
  /-- ETH_FRAME_RECEIVE (R270). -/
  | ethFrameReceive (die : DieId) (mac : MacId) (frame : Bytes) (buf : RxBuffers)
  /-- SWEEP_TIMEOUT (R278). -/
  | sweepTimeout (die : DieId) (profile : Fin 16)
  /-- SRV_OFFSET_WRITE (R285). -/
  | srvOffsetWrite (theta : BitVec 48)
  /-- SYNC_RECEIPT_TIMEOUT (R287). -/
  | syncReceiptTimeout
  /-- HAUL_TRANSACTION (R255). -/
  | haulTransaction (t : HaulTxn)
  /-- SRAM_SCRUB (R242). -/
  | sramScrub (addr : Nat) (finding : Finding)
  /-- DRAM_SCRUB (R248). -/
  | dramScrub (stack : StackId) (addr : Nat) (finding : Finding) (raced : Bool) (passEnd : Bool)
  /-- CAL_REQUEST (R247). -/
  | calRequest (stack : StackId)
  /-- CAL_SLICE (R247). -/
  | calSlice (stack : StackId) (slices : Fin 4)
  /-- CAL_FORCED_SLICE (R247). -/
  | calForcedSlice (stack : StackId) (slices : Fin 4)
  /-- COALESCE_FLUSH (R355). -/
  | coalesceFlush (src : U16) (code : U16) (ctx : Option CtxId)
  /-- DRAIN_COMPLETE (R361). -/
  | drainComplete (c : CtxId) (drainNs : U32)
  /-- DRAIN_TIMEOUT (R362). -/
  | drainTimeout (c : CtxId) (holders : BitVec 4)
  /-- PARTITION_RESET_END (R369). -/
  | partitionResetEnd (p : PartId) (us : U32)
  /-- WEIGHT_RELOAD (R261). -/
  | weightReload (p : PartId) (us : U32)
  /-- DEVICE_EVENT_RESTART (R372). -/
  | deviceEventRestart
  /-- HOST_HEARTBEAT_TIMEOUT (R373). -/
  | hostHeartbeatTimeout
  /-- PCIE_LINK_DOWN (R373). -/
  | pcieLinkDown
  /-- TALLY_VERDICT (R312). -/
  | tallyVerdict (evalNs : U32) (f : Facts)
  /-- VERDICT_DEADLINE (R315). -/
  | verdictDeadline (c : CtxId)
  /-- TALLY_LOCKSTEP (R297). -/
  | tallyLockstep (sram : Bool)
  /-- ERR_HOLD_EXPIRY (R321). -/
  | errHoldExpiry
  /-- LST_SEGMENT_START (R346). -/
  | lstSegmentStart (core : CoreId) (remainUs : Nat)
  /-- LST_SEGMENT_END (R345). -/
  | lstSegmentEnd (core : CoreId) (r : SegResult) (us : U32)
  /-- LATENT_OVERDUE (R349). -/
  | latentOverdue (core : CoreId)
  /-- PROC_WDG (R454). -/
  | procWdg (proc : Proc)
  /-- PROC_FAULT (R455). -/
  | procFault (proc : Proc)
  /-- PROC_RESTART_DONE (R455). -/
  | procRestartDone (proc : Proc)
  /-- SEQUENCER_RESTART (R456). -/
  | sequencerRestart (p : PartId)
  /-- REC_CMD_FREEZE (R394). -/
  | recCmdFreeze
  /-- REC_CMD_RELEASE (R394). -/
  | recCmdRelease
  /-- RECORDER_POST_WINDOW_END (R394). -/
  | recorderPostWindowEnd
  /-- REP_CTRL_START (R396). -/
  | repCtrlStart
  /-- REP_CTRL_END (R399). -/
  | repCtrlEnd
  /-- REPLAY_INJECT (R397). -/
  | replayInject
  /-- LKS_MESSAGE (R402). -/
  | lksMessage (c : CtxId) (msg : Bytes)
  /-- LKS_CTRL_REARM (R405). -/
  | lksCtrlRearm (slot : Fin 4)
  /-- RING_FLIT_RECEIVE (R410). -/
  | ringFlitReceive (port : RingPort) (crcOk : Bool) (t : RingTxn)
  /-- RING_LINK_FAULT (R410). -/
  | ringLinkFault (port : RingPort)
  /-- RING_LINK_TRAINED (R411). -/
  | ringLinkTrained (port : RingPort) (peer : BitVec 2) (own : Bool)
  /-- RING_CREDIT_TIMEOUT (R430). -/
  | ringCreditTimeout (port : RingPort)
  /-- HELLO_INTERVAL (R422). -/
  | helloInterval
  /-- HELLO (R422). -/
  | hello (h : MgmtHdr) (port : RingPort) (id : BitVec 2) (mgrCapable : Bool) (idleEn : Bool)
  /-- MEMBERSHIP (R423). -/
  | membership (h : MgmtHdr) (members : BitVec 4) (mgr : BitVec 2) (chain : Bool) (down : BitVec 2)
  /-- RING_START (R427). -/
  | ringStart (h : MgmtHdr) (c : CtxId) (gen : BitVec 12) (members : BitVec 4)
  /-- CTX_FAIL (R428). -/
  | ctxFail (h : MgmtHdr) (c : CtxId) (gen : BitVec 12) (failing : BitVec 2) (code : U16)
  /-- DRAIN_ACK (R428). -/
  | drainAck (h : MgmtHdr) (c : CtxId) (gen : BitVec 12)
  /-- CTX_DRAINED (R428). -/
  | ctxDrained (h : MgmtHdr) (c : CtxId) (gen : BitVec 12) (acked : BitVec 4)
  /-- RING_DIGEST (R427). -/
  | ringDigest (h : MgmtHdr) (c : CtxId) (prog : Bytes) (wgt : Bytes)
  /-- RING_IDLE (R425). -/
  | ringIdle (h : MgmtHdr) (ack : Bool)
  /-- RING_WAKE (R425). -/
  | ringWake (port : RingPort)
  /-- T_SYNC_INTERVAL (R424). -/
  | tSyncInterval
  /-- T_SYNC (R424). -/
  | tSync (h : MgmtHdr) (port : RingPort)
  /-- T_FOLLOW (R424). -/
  | tFollow (h : MgmtHdr) (port : RingPort) (sent : U64) (received : U64)
  /-- DOMAIN_IDLE_TIMEOUT (R476). -/
  | domainIdleTimeout (id : BitVec 6)
  /-- DOMAIN_WAKE (R478). -/
  | domainWake (w : WakeSrc)
  /-- WAKE_CLOCK_SWITCH (R479). -/
  | wakeClockSwitch (id : BitVec 6)
  /-- MBOX_NOP (R503). -/
  | mboxNop (tag : U16) (args : Bytes)
  /-- HOST_ATTACH (R500). -/
  | hostAttach (tag : U16) (args : Bytes)
  /-- HOST_DETACH (R500). -/
  | hostDetach (tag : U16) (args : Bytes)
  /-- FENCE_CLEAR (R503). -/
  | fenceClear (tag : U16) (args : Bytes)
  /-- SELFTEST_REQ (R350). -/
  | selftestReq (tag : U16) (args : Bytes)
  /-- CAL_REQ (R503). -/
  | calReq (tag : U16) (args : Bytes)
  /-- PWR_DOMAIN (R476). -/
  | pwrDomain (tag : U16) (args : Bytes)
  /-- WAKE_MODE (R478). -/
  | wakeMode (tag : U16) (args : Bytes)
  /-- POWER_CAP (R481). -/
  | powerCap (tag : U16) (args : Bytes)
  /-- STAGE_OPEN (R460). -/
  | stageOpen (tag : U16) (args : Bytes)
  /-- STAGE_WRITE (R460). -/
  | stageWrite (tag : U16) (args : Bytes)
  /-- STAGE_CLOSE (R460). -/
  | stageClose (tag : U16) (args : Bytes)
  /-- STAGE_ABORT (R460). -/
  | stageAbort (tag : U16) (args : Bytes)
  /-- ACTIVATE (R461). -/
  | activate (tag : U16) (args : Bytes)
  /-- LIVE_ACTIVATION_STEP (R461). -/
  | liveActivationStep
  /-- EMERGENCY_DEFER_RESUME (R462). -/
  | emergencyDeferResume
  /-- EMERGENCY_DEFER_CANCEL (R462). -/
  | emergencyDeferCancel
  /-- COMMIT (R440). -/
  | commit (tag : U16) (args : Bytes)
  /-- RESET (R503). -/
  | resetCmd (tag : U16) (args : Bytes)
  /-- ATTEST (R465). -/
  | attest (tag : U16) (args : Bytes)
  /-- GET_CERT (R464). -/
  | getCert (tag : U16) (args : Bytes)
  /-- LOG_READ (R503). -/
  | logRead (tag : U16) (args : Bytes)
  /-- CLR_STAT (R503). -/
  | clrStat (tag : U16) (args : Bytes)
  /-- MBOX_BAD_CMD (R503). -/
  | mboxBadCmd (opcode : Byte) (tag : U16) (args : Bytes)
  /-- MBOX_PENDING_COMPLETE (R501). -/
  | mboxPendingComplete (tag : U16) (flashOk : Bool)
  /-- DB_HEARTBEAT (R500). -/
  | dbHeartbeat (value : U32)
  /-- DB_RING_HEAD (R494). -/
  | dbRingHead (r : Fin 17) (value : U32)
  /-- RING_CTRL_WRITE (R496). -/
  | ringCtrlWrite (r : Fin 17) (value : U32)
  /-- RING_IRQ_TIMEOUT (R495). -/
  | ringIrqTimeout (r : Fin 17)
  /-- BAR2_READ (R492). -/
  | bar2Read (off : BitVec 30) (len : Nat)
  /-- BAR2_WRITE (R492). -/
  | bar2Write (off : BitVec 30) (data : Bytes)
  /-- TB_SEC_LO_READ (R291). -/
  | tbSecLoRead
  /-- REGISTER_WRITE (R488): at an offset of BAR0, or of BAR4 (R499). -/
  | registerWrite (bar4 : Bool) (off : BitVec 26) (data : Bytes)
  /-- PCIE_REJECTED_TLP (R486). -/
  | pcieRejectedTlp (poisoned : Bool)
  /-- PCIE_FUNCTION_RESET (R500). -/
  | pcieFunctionReset
  /-- D3HOT_ENTRY (R500). -/
  | d3hotEntry
  /-- ARR_INJECT_WRITE (R117). -/
  | arrInjectWrite (core : CoreId) (value : U32)
  /-- PHB_INJECT_WRITE (R351). -/
  | phbInjectWrite (p : PartId) (value : U32)
  /-- ODOMETER_APPEND (R459). -/
  | odometerAppend
  /-- INGRESS_FIFO_DRAIN (R259). -/
  | ingressFifoDrain (die : DieId) (finding : Finding)
  /-- MIRROR_RECOPY_COMPLETE (R370). -/
  | mirrorRecopyComplete (stack : StackId)
  /-- FLOW_RECORD_TIMEOUT (R390). -/
  | flowRecordTimeout (die : DieId) (k : FlowClose)
  /-- PEER_DRAIN_TIMEOUT (R362). -/
  | peerDrainTimeout (c : CtxId)
  /-- ETH_LINK_CHANGE (R293). -/
  | ethLinkChange (die : DieId) (mac : MacId) (speed : BitVec 2) (anDone : Bool)
  /-- GPTP_SYNC_INTERVAL (R286). -/
  | gptpSyncInterval
  /-- RING_SIGNAL_DETECT (R411). -/
  | ringSignalDetect (port : RingPort)
  deriving DecidableEq, Repr

end Sys2Proof
end

