-- ==== Sys2Proof/WellFormed.lean ====
section
/-!
DEFINITION. WellFormed.lean: the sizes that a command's operands must have. A command that the outside world can
form has them; the meanings are total and never rest on them.
-/

namespace Sys2Proof

/-- The length of a message of the ring or of a descriptor: 64 bytes (R49, R422). -/
def isUnit64 (b : List Byte) : Bool := decide (b.length = 64)

/-- The arguments of a mailbox command fit the 4 KiB data area (R502). -/
def argsFit (b : List Byte) : Bool := decide (b.length ≤ 4096)

/-- A write of the host port of 1, 2, 4 or 8 bytes at a multiple of its size, inside BAR0 or BAR4 (R487, R488). -/
def hostWordOk (bar4 : Bool) (off : Nat) (b : List Byte) : Bool :=
  [1, 2, 4, 8].contains b.length && decide (off % b.length = 0) && (!bar4 || decide (off < 0x10000))

/-- The 64-bit words that the findings of an engine run name are word addresses (R239). -/
def Facts.wf (f : Facts) : Bool := (f.ue ++ f.ce).all fun a => decide (a % 8 = 0)

/-- A command is well formed. -/
def Instr.wf : Instr → Bool
  | .descriptorAccept _ _ _ (some raw) => isUnit64 raw
  | .ctxStart _ a | .ctxStop _ a | .mboxNop _ a | .hostAttach _ a | .hostDetach _ a | .fenceClear _ a
  | .selftestReq _ a | .calReq _ a | .pwrDomain _ a | .wakeMode _ a | .powerCap _ a | .stageOpen _ a
  | .stageWrite _ a | .stageClose _ a | .stageAbort _ a | .activate _ a | .commit _ a | .resetCmd _ a
  | .attest _ a | .getCert _ a | .logRead _ a | .clrStat _ a | .mboxBadCmd _ _ a => argsFit a
  | .move _ f | .digest _ f | .checkpoint _ f | .sealOp _ f | .array _ f | .scaleAdapt _ f | .sett _ f
  | .gather _ f | .scatter _ f | .sort _ f | .topk _ f | .voxel _ f | .neighbour _ f | .segred _ f
  | .compact _ f | .matchOp _ f | .edge _ f | .dress _ f | .tallyVerdict _ f => f.wf
  | .registerWrite bar4 off data => hostWordOk bar4 off.toNat data
  | .lksMessage _ m => decide (m.length = 32)
  | .ringDigest _ _ p w => decide (p.length = 32) && decide (w.length = 16)
  | _ => true

end Sys2Proof
end

