-- ==== Sys2Proof/Machine/Bytes.lean ====
section
/-!
DEFINITION. Machine/Bytes.lean: byte order, bit fields, saturating counters, checksums and the sparse memory.
-/

namespace Sys2Proof.Machine

/-- `n` bytes of `x`, least significant first ("Conventions": multi-byte fields are little-endian). -/
def le (n x : Nat) : Bytes := (List.range n).map fun i => BitVec.ofNat 8 (x >>> (8 * i))

/-- The number that little-endian bytes hold. -/
def unle : Bytes → Nat
  | [] => 0
  | b :: bs => b.toNat + 256 * unle bs

/-- `n` bytes of `x`, most significant first (R435, network byte order). -/
def be (n x : Nat) : Bytes := (le n x).reverse

/-- The number that big-endian bytes hold. -/
def unbe (b : Bytes) : Nat := unle b.reverse

/-- `n` bytes from offset `o`; bytes beyond the end read zero. -/
def slice (b : Bytes) (o n : Nat) : Bytes :=
  let x := (b.drop o).take n
  x ++ List.replicate (n - x.length) 0

/-- The little-endian field of `n` bytes at offset `o`. -/
def fld (b : Bytes) (o n : Nat) : Nat := unle ((b.drop o).take n)

/-- Byte `o`, zero beyond the end. -/
def byteAt (b : Bytes) (o : Nat) : Nat := ((b.drop o).headD 0).toNat

/-- Bits [hi:lo] of a number. -/
def bits (x hi lo : Nat) : Nat := (x >>> lo) % 2 ^ (hi + 1 - lo)

/-- Bit `i` of a number. -/
def bit (x i : Nat) : Bool := x.testBit i

/-- A number of `w` bits read as two's complement. -/
def sgn (w x : Nat) : Int := if 2 * (x % 2 ^ w) < 2 ^ w then (x % 2 ^ w : Nat) else (x % 2 ^ w : Nat) - (2 ^ w : Nat)

/-- The `w`-bit two's complement pattern of an integer. -/
def twos (w : Nat) (x : Int) : Nat := (x % (2 ^ w : Nat)).toNat

/-- Clamp of an integer to [lo, hi]. -/
def clampI (x lo hi : Int) : Int := if x < lo then lo else if hi < x then hi else x

/-- Saturation to a signed range of `w` bits. -/
def satS (w : Nat) (x : Int) : Int := clampI x (-(2 ^ (w - 1) : Nat)) ((2 ^ (w - 1) : Nat) - 1)

/-- A bit as a number. -/
def b2n (b : Bool) : Nat := if b then 1 else 0

/-- Pads with zero to at least `n` bytes. -/
def padTo (n : Nat) (b : Bytes) : Bytes := b ++ List.replicate (n - b.length) 0

/-- Pads with zero to a multiple of `m`. -/
def padMul (m : Nat) (b : Bytes) : Bytes := b ++ List.replicate ((m - b.length % m) % m) 0

/-- Overwrites the bytes from offset `o`. -/
def patch (b : Bytes) (o : Nat) (x : Bytes) : Bytes := slice b 0 o ++ x ++ b.drop (o + x.length)

/-- Zero bytes. -/
def zeros (n : Nat) : Bytes := List.replicate n 0

/-- A saturating 32-bit counter plus `n` ("saturating" in the register tables). -/
def sat32 (x : U32) (n : Nat := 1) : U32 := if x.toNat + n < 2 ^ 32 then x + BitVec.ofNat 32 n else 0xFFFFFFFF

/-- A saturating 16-bit counter plus one. -/
def sat16 (x : U16) : U16 := if x = 0xFFFF then x else x + 1

/-- A saturating 8-bit counter plus one. -/
def sat8 (x : Byte) : Byte := if x = 0xFF then x else x + 1

/-- Sum of a list. -/
def sumN (l : List Nat) : Nat := l.foldl (· + ·) 0

/-! ### Checksums -/

/-- Eight shifts of CRC-16, most significant bit first. -/
def crc16Shift (c : BitVec 16) : BitVec 16 :=
  (List.range 8).foldl (fun c _ => if c.msb then (c <<< 1) ^^^ 0x1021#16 else c <<< 1) c

/-- One byte of CRC-16, polynomial 0x1021, no reflection (R51). -/
def crc16Step (c : BitVec 16) (b : Byte) : BitVec 16 := crc16Shift (c ^^^ (b.setWidth 16 <<< 8))

/-- CRC-16 with initial value 0xFFFF and no final XOR (R51). -/
def crc16 (b : Bytes) : BitVec 16 := b.foldl crc16Step 0xFFFF#16

/-- One byte of the reflected CRC-32 of IEEE 802.3. -/
def crc32Step (c : BitVec 32) (b : Byte) : BitVec 32 :=
  (List.range 8).foldl (fun c _ => if c.getLsbD 0 then (c >>> 1) ^^^ 0xEDB88320#32 else c >>> 1) (c ^^^ b.setWidth 32)

/-- CRC-32 (IEEE 802.3 polynomial), as R79, R313 and R386 use it. -/
def crc32 (b : Bytes) : U32 := ~~~ (b.foldl crc32Step 0xFFFFFFFF#32)

/-- One byte of CRC-64, polynomial 0x42F0_E1EB_A9EA_3693, no reflection (R401). -/
def crc64Step (c : BitVec 64) (b : Byte) : BitVec 64 :=
  (List.range 8).foldl (fun c _ => if c.msb then (c <<< 1) ^^^ 0x42F0E1EBA9EA3693#64 else c <<< 1)
    (c ^^^ (b.setWidth 64 <<< 56))

/-- CRC-64 with initial value and final XOR all ones (R401). -/
def crc64 (b : Bytes) : U64 := ~~~ (b.foldl crc64Step 0xFFFFFFFFFFFFFFFF#64)

/-- The little-endian CRC-32 of some bytes, appended to them. -/
def withCrc32 (b : Bytes) : Bytes := b ++ le 4 (crc32 b).toNat

/-! ### Sparse memory -/

/-- The byte at address `a`; an unlisted address reads as `d`. -/
def memGet (d : Byte) : List Host.Cell → Nat → Byte
  | [], _ => d
  | (k, v) :: m, a => if k = a then v else memGet d m a

/-- The cells that hold `b` from address `a`, those equal to `d` left out. -/
def memCells (d : Byte) : Nat → Bytes → List Host.Cell
  | _, [] => []
  | a, x :: b => if x = d then memCells d (a + 1) b else (a, x) :: memCells d (a + 1) b

/-- Writes the bytes `b` from address `a`. -/
def memPut (d : Byte) (m : List Host.Cell) (a : Nat) (b : Bytes) : List Host.Cell :=
  m.filter (·.1 < a) ++ memCells d a b ++ m.filter (fun c => decide (a + b.length ≤ c.1))

/-- Makes `n` bytes from address `a` read as `d`. -/
def memErase (m : List Host.Cell) (a n : Nat) : List Host.Cell :=
  m.filter (fun c => decide (c.1 < a) || decide (a + n ≤ c.1))

/-- `n` bytes from address `a` of cells that all lie at `a` or above, in rising order. -/
def memScan (d : Byte) : Nat → Nat → List Host.Cell → Bytes
  | 0, _, _ => []
  | n + 1, a, [] => d :: memScan d n (a + 1) []
  | n + 1, a, (k, v) :: m =>
    if k = a then v :: memScan d n (a + 1) m else d :: memScan d n (a + 1) ((k, v) :: m)

/-- Reads `n` bytes from address `a`. -/
def memRead (d : Byte) (m : List Host.Cell) (a n : Nat) : Bytes :=
  memScan d n a (m.filter fun c => decide (a ≤ c.1) && decide (c.1 < a + n))

/-- The canonical form: addresses strictly rising, no entry equal to what an unlisted address reads as. -/
abbrev memWf (d : Byte) (m : List Host.Cell) : Prop :=
  m.Pairwise (fun x y => x.1 < y.1) ∧ ∀ c ∈ m, c.2 ≠ d

end Sys2Proof.Machine
end

