-- ==== Sys2Proof/Machine/Crypto.lean ====
section
/-!
DEFINITION. Machine/Crypto.lean: SHA-256 (R81, R381 to R384) and RSASSA-PSS with SHA-256 (R435, R465).
The functions are those of FIPS 180-4 and RFC 8017, which the rules name.
-/

namespace Sys2Proof.Machine

/-- The 64 round constants of SHA-256. -/
def shaK : List U32 :=
  [0x428a2f98, 0x71374491, 0xb5c0fbcf, 0xe9b5dba5, 0x3956c25b, 0x59f111f1, 0x923f82a4, 0xab1c5ed5] ++
  [0xd807aa98, 0x12835b01, 0x243185be, 0x550c7dc3, 0x72be5d74, 0x80deb1fe, 0x9bdc06a7, 0xc19bf174] ++
  [0xe49b69c1, 0xefbe4786, 0x0fc19dc6, 0x240ca1cc, 0x2de92c6f, 0x4a7484aa, 0x5cb0a9dc, 0x76f988da] ++
  [0x983e5152, 0xa831c66d, 0xb00327c8, 0xbf597fc7, 0xc6e00bf3, 0xd5a79147, 0x06ca6351, 0x14292967] ++
  [0x27b70a85, 0x2e1b2138, 0x4d2c6dfc, 0x53380d13, 0x650a7354, 0x766a0abb, 0x81c2c92e, 0x92722c85] ++
  [0xa2bfe8a1, 0xa81a664b, 0xc24b8b70, 0xc76c51a3, 0xd192e819, 0xd6990624, 0xf40e3585, 0x106aa070] ++
  [0x19a4c116, 0x1e376c08, 0x2748774c, 0x34b0bcb5, 0x391c0cb3, 0x4ed8aa4a, 0x5b9cca4f, 0x682e6ff3] ++
  [0x748f82ee, 0x78a5636f, 0x84c87814, 0x8cc70208, 0x90befffa, 0xa4506ceb, 0xbef9a3f7, 0xc67178f2]

/-- The eight working words of SHA-256. -/
structure Sha where
  a : U32
  b : U32
  c : U32
  d : U32
  e : U32
  f : U32
  g : U32
  h : U32
  deriving DecidableEq, Repr

/-- The initial hash value. -/
def shaInit : Sha :=
  ⟨0x6a09e667, 0xbb67ae85, 0x3c6ef372, 0xa54ff53a, 0x510e527f, 0x9b05688c, 0x1f83d9ab, 0x5be0cd19⟩

/-- One round with the sum of round constant and schedule word. -/
def shaRound (s : Sha) (kw : U32) : Sha :=
  let t1 := s.h + (s.e.rotateRight 6 ^^^ s.e.rotateRight 11 ^^^ s.e.rotateRight 25)
    + ((s.e &&& s.f) ^^^ (~~~s.e &&& s.g)) + kw
  let t2 := (s.a.rotateRight 2 ^^^ s.a.rotateRight 13 ^^^ s.a.rotateRight 22)
    + ((s.a &&& s.b) ^^^ (s.a &&& s.c) ^^^ (s.b &&& s.c))
  ⟨t1 + t2, s.a, s.b, s.c, s.d + t1, s.e, s.f, s.g⟩

/-- The message schedule, newest word first: 48 further words from 16. -/
def shaSched : Nat → List U32 → List U32
  | 0, w => w
  | n + 1, w =>
    let x2 := w.getD 1 0
    let x15 := w.getD 14 0
    let s1 := x2.rotateRight 17 ^^^ x2.rotateRight 19 ^^^ (x2 >>> 10)
    let s0 := x15.rotateRight 7 ^^^ x15.rotateRight 18 ^^^ (x15 >>> 3)
    shaSched n ((s1 + w.getD 6 0 + s0 + w.getD 15 0) :: w)

/-- Big-endian words of a block. -/
def beWords : Nat → Bytes → List U32
  | 0, _ => []
  | n + 1, b => BitVec.ofNat 32 (unbe (b.take 4)) :: beWords n (b.drop 4)

/-- One 64-byte block. -/
def shaBlock (s : Sha) (blk : Bytes) : Sha :=
  let w := (shaSched 48 (beWords 16 blk).reverse).reverse
  let r := (List.zipWith (· + ·) shaK w).foldl shaRound s
  ⟨s.a + r.a, s.b + r.b, s.c + r.c, s.d + r.d, s.e + r.e, s.f + r.f, s.g + r.g, s.h + r.h⟩

/-- `n` blocks. -/
def shaBlocks : Nat → Sha → Bytes → Sha
  | 0, s, _ => s
  | n + 1, s, b => shaBlocks n (shaBlock s (b.take 64)) (b.drop 64)

/-- Padding of a message. -/
def shaPad (b : Bytes) : Bytes :=
  b ++ [0x80] ++ zeros ((119 - b.length % 64) % 64) ++ be 8 (8 * b.length)

/-- SHA-256 of a message, 32 bytes. -/
def sha256 (b : Bytes) : Bytes :=
  let p := shaPad b
  let s := shaBlocks (p.length / 64) shaInit p
  [s.a, s.b, s.c, s.d, s.e, s.f, s.g, s.h].flatMap fun w => be 4 w.toNat

/-- `x ^ e mod n` by the bits of `e`, `k` of them. -/
def powMod (n : Nat) : Nat → Nat → Nat → Nat
  | 0, _, _ => 1 % n
  | k + 1, x, e =>
    let r := powMod n k (x * x % n) (e / 2)
    if e % 2 = 1 then r * x % n else r

/-- MGF1 with SHA-256, `n` bytes (RFC 8017). -/
def mgf1 (seed : Bytes) (n : Nat) : Bytes :=
  ((List.range (n / 32 + 1)).flatMap fun i => sha256 (seed ++ be 4 i)).take n

/-- Exclusive-or of two byte strings. -/
def xorBytes (a b : Bytes) : Bytes := List.zipWith (· ^^^ ·) a b

/-- The encoded message of EMSA-PSS for a modulus of 3,072 bits and a 32-byte salt. -/
def pssEncode (msg salt : Bytes) : Bytes :=
  let h := sha256 (zeros 8 ++ sha256 msg ++ salt)
  let db := zeros 318 ++ [0x01] ++ salt
  let masked := xorBytes db (mgf1 h 351)
  (match masked with
    | [] => []
    | x :: r => (x &&& 0x7F) :: r) ++ h ++ [0xBC]

/-- Whether `sig` (big-endian, 384 bytes) is a signature of `msg` under the modulus and exponent (R435). -/
def pssVerify (msg sig : Bytes) (n e : Nat) : Bool :=
  let s := unbe sig
  let em := be 384 (powMod n 32 s e)
  let h := slice em 351 32
  let db := match xorBytes (em.take 351) (mgf1 h 351) with
    | [] => []
    | x :: r => (x &&& 0x7F) :: r
  let salt := db.drop 319
  sig.length = 384 && decide (s < n) && em.getLast? = some 0xBC && decide (byteAt em 0 < 128)
    && db.take 319 = zeros 318 ++ [0x01] && h = sha256 (zeros 8 ++ sha256 msg ++ salt)

/-- The signature of `msg` with private exponent `d` and this salt (R465). -/
def pssSign (msg salt : Bytes) (n d : Nat) : Bytes :=
  be 384 (powMod n 3072 (unbe (pssEncode msg salt)) d)

end Sys2Proof.Machine
end

