-- ==== Sys2Proof/Machine/State.lean ====
section
/-!
DEFINITION. Machine/State.lean: everything the spec gives the device, as plain data, with its reset value.
A field's docstring names the rule and the reset value; "model" marks a field that is the model's own.
-/

namespace Sys2Proof.Machine

/-- States of a context (R34). -/
inductive CtxState where
  | idle | starting | run | draining | faulted
  deriving DecidableEq, Repr

/-- Device states (R7). -/
inductive DevState where
  | boot | selftest | configured | run | degraded | safe | replay
  deriving DecidableEq, Repr

/-- Frame verdicts (R7); none is a pending verdict. -/
inductive Verdict where
  | none | pass | degraded | fail
  deriving DecidableEq, Repr

/-- Where a stage stands in the current frame (R42). -/
inductive StagePhase where
  | notStarted | running | ended
  deriving DecidableEq, Repr

/-- What `PRT_STATUS.STATE` shows (R376). -/
inductive PrtState where
  | service | isolating | sampling | resetting | training | restoring | starting | offline
  deriving DecidableEq, Repr

/-- The recorder's state (R386). -/
inductive RecState where
  | recording | postWindow | frozen | disabled
  deriving DecidableEq, Repr

/-- What `FWP_STATUS.STATE` shows (R468). -/
inductive ProcState where
  | halted | running | restarting | deferred | disabled
  deriving DecidableEq, Repr

/-- What `PWR_DOM.STATE` shows (R484). -/
inductive DomState where
  | off | ret | onFio | onPll
  deriving DecidableEq, Repr

/-- What `RNG_PORT.STATE` shows (R432). -/
inductive LinkState where
  | off | training | up | idle | ownId | clash | wrongNeighbour
  deriving DecidableEq, Repr

/-- What `UPD_STATUS.STATE` shows (R467). -/
inductive UpdState where
  | idle | staging | staged | live | deferredEmergency | deferredReset
  deriving DecidableEq, Repr

/-- What `LKS_STATUS.STATE` shows (R405). -/
inductive LksState where
  | off | armed | mismatch | imageMismatch | notAllowed | peerLost
  deriving DecidableEq, Repr

/-- One section of the loaded image (R441, R442): its entry and its bytes. -/
structure Section where
  /-- Section type (R442). -/
  ty : U16
  /-- Context, or 0xFF (R441). -/
  ctx : Byte
  /-- SFLAGS: bit 0 PROGRAM (R441). -/
  sflags : Byte
  /-- INDEX (R441). -/
  index : U16
  /-- SHA-256 of the section entry (R441). -/
  digest : Bytes
  /-- The LENGTH bytes (R441). -/
  bytes : Bytes
  deriving DecidableEq, Repr

/-- An entry of a hardware queue: a descriptor and its sideband (R47, R49, R359). -/
structure QEntry where
  /-- The 64 bytes (R49). -/
  bytes : Bytes
  /-- Sideband: the context of the list (R359). -/
  ctx : CtxId
  /-- Sideband: the origin index (R47). -/
  origin : Fin 4
  /-- model: the engine has executed it; it completes with DESCRIPTOR_COMPLETE. -/
  executed : Bool := false
  /-- Its signal has been sent to a ring peer and awaits the acknowledgement. [R57, R415; reset false] -/
  sent : Bool := false
  /-- Write elements of the descriptor, their sum. [R401; 0] -/
  sum : U64 := 0
  /-- Write elements of the descriptor, their count. [R401; 0] -/
  cnt : U64 := 0
  deriving DecidableEq, Repr

/-- A hardware queue (R46 to R48). -/
structure QueueRt where
  /-- Descriptors in the queue, head first, at most 64. [R46; reset empty] -/
  entries : List QEntry := []
  /-- Expected QSEQ by context and origin index. [R48; reset 0] -/
  expect : Vector (Vector (BitVec 12) 4) 16 := Vector.replicate 16 (Vector.replicate 4 0)
  /-- Stage of the last descriptor started, by context and origin. [R44; reset 0] -/
  lastStage : Vector (Vector (BitVec 5) 4) 16 := Vector.replicate 16 (Vector.replicate 4 0)
  /-- GOLDEN descriptors completed in the frame: (context, origin, stage, count). [R45; reset empty] -/
  golden : List ((CtxId × Fin 4 × Nat) × Nat) := []
  deriving DecidableEq, Repr

/-- A stage of the current frame (R42, R43). -/
structure StageRt where
  /-- Not started, running or ended. [R42; reset notStarted] -/
  phase : StagePhase := .notStarted
  /-- The queues whose STAGE_END descriptor has completed. [R42; reset empty] -/
  ended : List QueueId := []
  /-- The window watchdog has reported a late expiry. [R316; reset false] -/
  late : Bool := false
  /-- The stage's end has reached its window watchdog. [R43, R316; reset false] -/
  told : Bool := false
  deriving DecidableEq, Repr

/-- A digest slot (R73, R74). -/
structure DigestSlot where
  /-- The queue that opened the slot; none when closed. [R74; reset none] -/
  owner : Option QueueId := none
  /-- The bytes hashed so far. [R73; reset empty] -/
  fed : Bytes := []
  /-- The digest of the last finalisation. [R73; reset empty] -/
  value : Bytes := []
  deriving DecidableEq, Repr

/-- A buffer of an ingress stream that a frame consumes (R384, R392). -/
structure Consumed where
  /-- Stream number, 0 to 63 (R264). -/
  stream : Fin 64
  /-- Kind: true a lidar flow, false a camera (R442 type 0x0025). -/
  flow : Bool
  /-- I/O die (R442). -/
  die : DieId
  /-- Profile index on the die (R442). -/
  profile : Nat
  /-- The buffer, 0 or 1; none when no buffer was opened (R384). -/
  buf : Option (Fin 2)
  deriving DecidableEq, Repr

/-- What belongs to the frame in flight (R39, R79, R80). -/
structure FrameRt where
  /-- A frame is in flight. [R39; reset false] -/
  inFlight : Bool := false
  /-- The frame has started: its stages stand until the next frame start. [R42; reset false] -/
  begun : Bool := false
  /-- Stages that ended in the frame before and whose end has not reached the watchdog, each with the minimum of its
  window. [R43, R316; reset empty] -/
  ends : List (Fin 32 × Nat) := []
  /-- TEST stages of earlier frames whose maximum window has not expired. [R42; reset empty] -/
  tests : List (Fin 32) := []
  /-- Time of the trigger, TS64. [R79; reset 0] -/
  tTrigger : U64 := 0
  /-- FLAGS latched so far. [R80; reset 0] -/
  flags : U32 := 0
  /-- Streams marked INCOMPLETE. [R79, R283; reset 0] -/
  incomplete : U64 := 0
  /-- Streams that report a skipped golden run for the frame. [R310; reset 0] -/
  goldSkip : U64 := 0
  /-- Items truncated. [R79; reset 0] -/
  truncated : U32 := 0
  /-- Non-determinism count. [R79, R209; reset 0] -/
  ndc : U32 := 0
  /-- Buffers the frame consumes. [R384; reset empty] -/
  consumed : List Consumed := []
  /-- GOLDEN descriptors completed, over all queues. [R309; reset 0] -/
  goldDone : U32 := 0
  /-- The frame has executed its SEAL. [R77; reset false] -/
  hasSealed : Bool := false
  /-- The output digest (ROLE 1). [R73, R384; reset none] -/
  outDigest : Option Bytes := none
  /-- The 32 stages. [R41; reset notStarted] -/
  stages : Vector StageRt 32 := Vector.replicate 32 {}
  /-- The half of the scale table the frame reads: false 0, true 1. [R141; reset 0] -/
  scaleHalf : Bool := false
  /-- The stripe split picked for balanced stages. [R64; reset 0] -/
  split : Nat := 0
  /-- Degraded windows apply. [R43; reset false] -/
  degradedWin : Bool := false
  /-- The context was faulted in the frame. [R312; reset false] -/
  faulted : Bool := false
  /-- A device-scoped event fell in the frame. [R312; reset false] -/
  devFault : Bool := false
  /-- The thermal emergency held in the frame. [R312; reset false] -/
  thermal : Bool := false
  /-- Fault-path events of the context in the frame. [R313; reset 0] -/
  nFault : U32 := 0
  /-- The aggregator's class counters sampled at the trigger. [R304; reset 0] -/
  classAtTrig : Vector U32 16 := Vector.replicate 16 0
  /-- Position in each list: (section INDEX, descriptors fed). [R47; reset empty] -/
  fed : List (U16 × Nat) := []
  /-- Partitions whose sequencer was lost in the frame: it feeds no more of it. [R456; reset none] -/
  seqLost : List PartId := []
  deriving DecidableEq, Repr

/-- A latched trigger (R39). -/
structure Latched where
  /-- Time of the trigger, TS64. -/
  time : U64
  /-- FLAGS it carries (ARRIVAL_TIMEOUT). -/
  flags : U32
  /-- Streams INCOMPLETE at the trigger. -/
  incomplete : U64
  /-- The buffers it names. -/
  consumed : List Consumed
  /-- The aggregator's class counters sampled at the trigger (R304). -/
  classes : Vector U32 16
  /-- The thermal emergency has held since the trigger (R312). -/
  thermal : Bool := false
  deriving DecidableEq, Repr

/-- A context at run time (R31 to R40). -/
structure CtxRt where
  /-- `CTX_STATUS.GEN`. [R36; reset 0] -/
  gen : BitVec 12 := 0
  /-- `CTX_STATUS.STATE`. [R34, R36; reset IDLE] -/
  state : CtxState := .idle
  /-- The latched trigger; `CTX_STATUS.PENDING` is 1 when there is one. [R39, R36; reset none] -/
  latched : Option Latched := none
  /-- `CTX_FRAME.NUM`: number of the last started frame. [R36; reset 0] -/
  frameNum : U32 := 0
  /-- Number of the next frame. [R40; reset 0] -/
  nextFrame : U32 := 0
  /-- `CTX_TRIG_MISSED.COUNT`. [R36; reset 0] -/
  trigMissed : U32 := 0
  /-- `CTX_NDC_TOTAL.COUNT`. [R36; reset 0] -/
  ndcTotal : U32 := 0
  /-- `CTX_STALE_DESC.COUNT`. [R36; reset 0] -/
  staleDesc : U32 := 0
  /-- Transactions of another generation that destinations on this device discarded, over all generations. [R32; reset 0] -/
  staleTxn : U32 := 0
  /-- Triggers discarded since the previous record (TRIG_MISSED). [R79; reset 0] -/
  missedSince : U32 := 0
  /-- Records dropped at the host ring since the previous record (DROPPED). [R79, R494; reset 0] -/
  droppedSince : U32 := 0
  /-- RECORD_SEQ of the next record. [R79; reset 0] -/
  recordSeq : U32 := 0
  /-- VSEQ of the next verdict. [R313; reset 0] -/
  vseq : U32 := 0
  /-- Streams that have delivered an arrival event since the previous trigger. [R38; reset 0] -/
  arrived : U64 := 0
  /-- The frame in flight. [R39; reset none] -/
  frame : FrameRt := {}
  /-- Digest slots 0 to 15. [R73; reset closed] -/
  slots : Vector DigestSlot 16 := Vector.replicate 16 {}
  /-- Digest of the latest CHECKPOINT save. [R76, R384; reset 32 zero bytes] -/
  ckptDigest : Bytes := List.replicate 32 0
  /-- The teardown in progress is a stop command: its TAG. [R361; reset none] -/
  stopTag : Option U16 := none
  /-- A ring peer has not acknowledged the drain in time. [R362; reset false] -/
  peerHold : Bool := false
  /-- Egress stop latch. [R317, R319; reset clear] -/
  stopLatch : Bool := false
  /-- The aggregator's counters, one for each event class. [R304, R355; reset 0] -/
  classCnt : Vector U32 16 := Vector.replicate 16 0
  /-- Fault-path override of SAFE_ST by this context. [R320; reset false] -/
  override : Bool := false
  /-- `TLY_CTX_LAST.VERDICT`. [R324; reset 0] -/
  verdict : Verdict := .none
  /-- `TLY_CTX_LAST.REASON`. [R324; reset 0] -/
  reason : U16 := 0
  /-- DELTA state of the Tally: rule, frame, value. [R305; reset empty] -/
  prev : List (Nat × U32 × Int) := []
  /-- Time base in ns when the context entered RUN, on the time line of the last step. [R37; reset 0] -/
  runNs : Nat := 0
  /-- Instant of the previous schedule trigger in ns, on the time line of the last step. [R37, R288; reset none] -/
  lastTrig : Option Nat := none
  /-- Frames started since device reset, over all generations. [R363; reset 0] -/
  framesTotal : Nat := 0
  /-- A verdict of the context has been written since device reset. [R320; reset false] -/
  hasVerdict : Bool := false
  deriving DecidableEq, Repr

/-- A statistics slot (R138). -/
structure StatSlot where
  /-- BIN[0..63]. [R138; reset 0] -/
  bins : Vector U32 64 := Vector.replicate 64 0
  /-- MAXP, Q31.16. [R138; reset 0] -/
  maxp : BitVec 48 := 0
  /-- MAXN, Q31.16. [R138; reset 0] -/
  maxn : BitVec 48 := 0
  /-- SAT. [R138; reset 0] -/
  sat : U32 := 0
  /-- ZGROUP. [R138; reset 0] -/
  zgroup : U32 := 0
  /-- SAT_THRESH. [R138; reset 0] -/
  thresh : U32 := 0
  /-- CTRL.OWNER. [R138; reset 0] -/
  owner : CtxId := 0
  /-- CTRL.ASSIGNED. [R138; reset 0] -/
  assigned : Bool := false
  /-- CTRL.CONSUMED. [R138; reset 0] -/
  consumed : Bool := false
  /-- CTRL.OVER. [R138, R139; reset 0] -/
  overBit : Bool := false
  deriving DecidableEq, Repr

/-- The pair comparator hub of a partition, PHB (R336 to R339, R351). -/
structure Hub where
  /-- The pair: leading and trailing core; `PHB_STATUS` PAIRED, LEAD, TRAIL. [R351; reset none] -/
  pair : Option (Fin 3 × Fin 3) := none
  /-- Hand-over awaited: leading core, trailing core, true for PAIR, and the queue entry's context. [R70, R339; reset none] -/
  want : Option (Fin 3 × Fin 3 × Bool × CtxId) := none
  /-- `PHB_STATUS.SELFCHK_FAIL`. [R351; reset 0] -/
  selfchkFail : Bool := false
  /-- `PHB_MISMATCH_CNT`. [R351; reset 0] -/
  mismatchCnt : U32 := 0
  /-- `PHB_PAIR_CNT`. [R351; reset 0] -/
  pairCnt : U32 := 0
  /-- `PHB_MISMATCH_LAST`. [R351; reset 0] -/
  mismatchLast : U32 := 0
  /-- `PHB_INJECT`. [R351; reset 0] -/
  inject : U32 := 0
  deriving DecidableEq, Repr

/-- The Dresser registers DRS (R205). -/
structure DrsRegs where
  /-- `DRS_BOX_CNT`. [R205; reset 0] -/
  boxCnt : U32 := 0
  /-- `DRS_TRUNC_CNT`. [R205; reset 0] -/
  truncCnt : U32 := 0
  /-- `DRS_BADBOX`. [R205; reset 0] -/
  badBox : U32 := 0
  /-- `DRS_RESIDUE_CNT`. [R205; reset 0] -/
  residueCnt : U32 := 0
  /-- `DRS_FETCH`. [R205; reset 0] -/
  fetch : U32 := 0
  deriving DecidableEq, Repr

/-- The partition registers PRT (R376). -/
structure PrtRegs where
  /-- `PRT_STATUS.STATE`. [R376; reset 0 service] -/
  state : PrtState := .service
  /-- `PRT_STATUS.RESETS_600S`. [R376; reset 0] -/
  resets600 : BitVec 4 := 0
  /-- `PRT_STATUS.SLOT`. [R376; reset 0] -/
  slot : BitVec 3 := 0
  /-- `PRT_RESET_CNT`. [R376; reset 0] -/
  resetCnt : U32 := 0
  /-- `PRT_LAST_US`. [R376; reset 0] -/
  lastUs : U32 := 0
  /-- `PRT_LAST_CAUSE.SOURCE`. [R376; reset 0] -/
  causeSrc : U16 := 0
  /-- `PRT_LAST_CAUSE.CODE`. [R376; reset 0] -/
  causeCode : U16 := 0
  /-- Signals and requests discarded at the isolated boundary. [R30; reset 0] -/
  isoDrops : U32 := 0
  /-- Uptime ticks of the resets that RESETS_600S counts. [R370, R376; reset empty] -/
  times : List Nat := []
  /-- A weight reload from boot memory is needed before service. [R261; reset false] -/
  reload : Bool := false
  /-- What the reset took in µs, while its weight restore waits for the SVP. [R466; reset none] -/
  svpWait : Option U32 := none
  deriving DecidableEq, Repr

/-- Clock and rail of a partition (R470 to R473, R484). -/
structure PwrPart where
  /-- The running ARR divider; none while on FIO. [R484 DIV; reset 0] -/
  div : Option Divider := none
  /-- Present AVS target in mV. [R484 AVS_MV; reset 0] -/
  avsMv : BitVec 10 := 0
  /-- AVS floor in mV of the operating point. [R470; reset DESIGN CHOICE 0 (log 3)] -/
  floorMv : BitVec 10 := 0
  /-- AVS ceiling in mV of the operating point. [R470; reset DESIGN CHOICE 0 (log 3)] -/
  ceilMv : BitVec 10 := 0
  /-- `PWR_PART.MARGIN`. [R484; reset 0] -/
  margin : BitVec 8 := 0
  /-- The divider that the thermal loop asks for at least; d5 is no limit. [R480; reset d5] -/
  heat : Divider := .d5
  /-- The same of the power cap. [R481; reset d5] -/
  capped : Divider := .d5
  /-- The same while the PWP restores the dividers after a thermal emergency. [R482; reset d5] -/
  cooling : Divider := .d5
  /-- `PWR_PART.FORCED`. [R484; reset 0] -/
  forced : Bool := false
  /-- The divider that the PWP has asked for; a faster one than `div` waits for the voltage. [R471; reset d10] -/
  want : Divider := .d10
  /-- Updates in a row with a margin of 10 % or more. [R472; reset 0] -/
  goodRun : Nat := 0
  /-- Updates in a row with the target above the ceiling. [R472; reset 0] -/
  overRun : Nat := 0
  /-- The AVS targets in force in the last 20 µs before the present one, the latest first. [R472; reset empty] -/
  avsPast : List (BitVec 10) := []
  /-- A droop stretch is in force. [R473; reset false] -/
  stretch : Bool := false
  /-- `PWR_STRETCH_CNT`. [R484; reset 0] -/
  stretchCnt : U32 := 0
  deriving DecidableEq, Repr

/-- A partition (R5, R11). -/
structure PartRt where
  /-- Beads with a value other than 0: (index, value), indices rising. [R54; reset all 0] -/
  beads : List (Nat × U32) := []
  /-- The statistics store. [R134; reset 0] -/
  stats : Vector StatSlot 256 := Vector.replicate 256 {}
  /-- `STS_ADAPT_CNT`. [R149; reset 0] -/
  adaptCnt : U32 := 0
  /-- `STS_ADAPT_CLAMP`. [R149; reset 0] -/
  adaptClamp : U32 := 0
  /-- `STS_ADAPT_LIMIT`. [R149; reset 0] -/
  adaptLimit : U32 := 0
  /-- The slot map: which core runs slot r. [R236; reset slot r is core r] -/
  slotMap : Vector (Fin 3) 3 := #v[0, 1, 2]
  /-- The Dresser queue. [R46; reset empty] -/
  dq : QueueRt := {}
  /-- The pair comparator hub. [R351; reset no pair] -/
  hub : Hub := {}
  /-- Dresser registers. [R205; reset 0] -/
  drs : DrsRegs := {}
  /-- PRT registers. [R376; reset 0] -/
  prt : PrtRegs := {}
  /-- Clock and rail. [R484; reset as PwrPart] -/
  pwr : PwrPart := {}
  /-- A sequencer restart is requested and waits for the frame boundary. [R456; reset false] -/
  seqWait : Bool := false
  deriving DecidableEq, Repr

/-- A stationary tile as the cells hold it (R86, R87). -/
structure WeightTile where
  /-- For each problem, or each quarter of DW3, its rows of corrected values. -/
  cells : List (List (List Int))
  /-- The check sums s_W and s_E that each row was filled with. -/
  sums : List (List (Int × Int))
  deriving DecidableEq, Repr

/-- What the stationary registers of the cells hold (R86, R87). -/
structure CellTile where
  /-- Context and generation of the descriptor. -/
  owner : CtxId × BitVec 12
  /-- The descriptor, in the form of the DETAIL of R358. -/
  desc : Nat
  /-- The tile. -/
  tile : WeightTile
  deriving DecidableEq, Repr

/-- Array registers ARR and the state of the Reckoner (R117). -/
structure ArrRegs where
  /-- `ARR_ISSUE_CNT`. [R117; reset 0] -/
  issueCnt : U32 := 0
  /-- `ARR_STALL_FEED`. [R117; reset 0] -/
  stallFeed : U32 := 0
  /-- `ARR_STALL_FILL`. [R117; reset 0] -/
  stallFill : U32 := 0
  /-- `ARR_STALL_OUT`. [R117; reset 0] -/
  stallOut : U32 := 0
  /-- `ARR_CHECK_CNT`. [R117; reset 0] -/
  checkCnt : U32 := 0
  /-- `ARR_CHECK_LAST`. [R117; reset 0] -/
  checkLast : U32 := 0
  /-- `ARR_INJECT`. [R117; reset 0] -/
  inject : U32 := 0
  /-- Accumulator store: (channel × 128 + column, value, its stored mod-3 residue), keys rising, entries of value and residue zero not listed. [R99, R332; reset 0, DESIGN CHOICE (log 3)] -/
  acc : List (Nat × BitVec 48 × BitVec 2) := []
  /-- The active registers of the cells: the tile of the last vector issued; `ARR_STATUS.ACTIVE_VALID`. [R86, R89, R117; reset none] -/
  active : Option CellTile := none
  /-- The shadow registers: the first tile of the next descriptor, filled ahead; `ARR_STATUS.SHADOW_FULL`. [R87, R91, R117; reset none] -/
  shadow : Option CellTile := none
  deriving DecidableEq, Repr

/-- Quantisation registers QNT (R148). -/
structure QntRegs where
  /-- `QNT_TERM_SAT`. [R148; reset 0] -/
  termSat : U32 := 0
  /-- `QNT_ACC_SAT`. [R148; reset 0] -/
  accSat : U32 := 0
  /-- `QNT_SKEW_CNT`. [R148; reset 0] -/
  skewCnt : U32 := 0
  /-- `QNT_SKEW_LAST`. [R148; reset 0] -/
  skewLast : U32 := 0
  deriving DecidableEq, Repr

/-- The pooling row buffer (R162): geometry of its chain and the pre-pool codes it keeps. -/
structure RowBuf where
  /-- Context and generation of the chain. -/
  owner : CtxId × BitVec 12
  /-- The geometry that POOL_CONT must repeat (POOL byte, OW, M, CH0, CH_T, OUT_W, OUT_H, layout, code width). -/
  geom : List Nat
  /-- The descriptor that began the chain, in the form of the DETAIL of R358: QSEQ in [19:8], origin in [29:28]. -/
  began : Nat
  /-- The pre-pool row that follows the last row received. -/
  nextY : Nat
  /-- The pooled row to emit next. -/
  nextOut : Nat
  /-- The codes kept: (row, channel, codes of the row). -/
  rows : List (Nat × Nat × List Nat)
  deriving DecidableEq, Repr

/-- Output-stage registers OST and buffers (R172). -/
structure OstRegs where
  /-- Row buffer of each output of the last descriptor in AQ (2 × problem + 1 for an imaginary output); `OST_STATUS.ROWBUF_VALID` is 1 when it holds rows. [R162, R172; reset empty] -/
  rowBufs : List (Nat × RowBuf) := []
  /-- PWL table of the last descriptor in AQ: context, generation, TABLE offset and the 2 KiB; `OST_STATUS.PWL_VALID` is 1 when there is one. [R159, R172; reset none] -/
  pwl : Option (CtxId × BitVec 12 × Nat × Bytes) := none
  /-- `OST_ELEM_CNT`. [R172; reset 0] -/
  elemCnt : U32 := 0
  /-- `OST_LINES_CNT`. [R172; reset 0] -/
  linesCnt : U32 := 0
  /-- `OST_SPOIL_IN`. [R172; reset 0] -/
  spoilIn : U32 := 0
  /-- `OST_SPOIL_OUT`. [R172; reset 0] -/
  spoilOut : U32 := 0
  /-- `OST_RESIDUE_CNT`. [R172; reset 0] -/
  residueCnt : U32 := 0
  deriving DecidableEq, Repr

/-- Sett engine registers SET (R195). -/
structure SetRegs where
  /-- `SET_MAC_CYC`. [R195; reset 0] -/
  macCyc : U32 := 0
  /-- `SET_STALL_IN`. [R195; reset 0] -/
  stallIn : U32 := 0
  /-- `SET_RESIDUE_CNT`. [R195; reset 0] -/
  residueCnt : U32 := 0
  deriving DecidableEq, Repr

/-- Screen unit registers SCR (R233). -/
structure ScrRegs where
  /-- `SCR_ELEM_CNT`. [R233; reset 0] -/
  elemCnt : U32 := 0
  /-- `SCR_DROP`. [R233; reset 0] -/
  drop : U32 := 0
  /-- `SCR_OOR`. [R233; reset 0] -/
  oor : U32 := 0
  /-- `SCR_SAT`. [R233; reset 0] -/
  sat : U32 := 0
  /-- `SCR_NDC`. [R233; reset 0] -/
  ndc : U32 := 0
  /-- `SCR_STALL_BANK`. [R233; reset 0] -/
  stallBank : U32 := 0
  /-- `SCR_RESIDUE_CNT`. [R233; reset 0] -/
  residueCnt : U32 := 0
  deriving DecidableEq, Repr

/-- Logic self-test registers LST (R352). -/
structure LstRegs where
  /-- `LST_STATUS.NEXT_SEG`. [R352; reset 0] -/
  nextSeg : Fin 18 := 0
  /-- `LST_STATUS.FAILED`. [R352; reset 0] -/
  failed : Bool := false
  /-- `LST_STATUS.OVERDUE`. [R352; reset 0] -/
  overdue : Bool := false
  /-- `LST_STATUS.REQ`. [R352; reset 0] -/
  req : Bool := false
  /-- `LST_STATUS.RUNNING`. [R352; reset 0] -/
  running : Bool := false
  /-- Ticks in RUN or DEGRADED when the pass age was last zero; `LST_PASS_AGE` counts from it. [R349, R352; reset 0] -/
  ageFrom : Nat := 0
  /-- `LST_PASS_CNT`. [R352; reset 0] -/
  passCnt : U32 := 0
  /-- `LST_DEFER_CNT`. [R352; reset 0] -/
  deferCnt : U32 := 0
  /-- `LST_LAST_US`. [R352; reset 0] -/
  lastUs : U32 := 0
  deriving DecidableEq, Repr

/-- Fault history registers CFH (R377). -/
structure CfhRegs where
  /-- `CFH_STATUS.FENCED`. [R377; reset 0, then from the log (R367)] -/
  fenced : Bool := false
  /-- `CFH_STATUS.ADOPTER`. [R377; reset 0] -/
  adopter : BitVec 2 := 0
  /-- `CFH_STATUS.PENDING`. [R377; reset 0] -/
  pending : BitVec 2 := 0
  /-- `CFH_STATUS.LAST_CODE`. [R377; reset 0] -/
  lastCode : U16 := 0
  /-- `CFH_FAULT_CNT`. [R377; reset 0] -/
  faultCnt : U32 := 0
  /-- Counted faults inside the window: code and frame count of the test-owner context. [R363; reset empty] -/
  hist : List (U16 × Nat) := []
  deriving DecidableEq, Repr

/-- A core (R5, R11). -/
structure CoreRt where
  /-- AQ. [R46; reset empty] -/
  aq : QueueRt := {}
  /-- SQ. [R46; reset empty] -/
  sq : QueueRt := {}
  /-- XQ. [R46; reset empty] -/
  xq : QueueRt := {}
  /-- MQ. [R46; reset empty] -/
  mq : QueueRt := {}
  /-- ARR and the accumulator store. [R117; reset 0] -/
  arr : ArrRegs := {}
  /-- QNT. [R148; reset 0] -/
  qnt : QntRegs := {}
  /-- OST. [R172; reset 0] -/
  ost : OstRegs := {}
  /-- SET. [R195; reset 0] -/
  set : SetRegs := {}
  /-- SCR. [R233; reset 0] -/
  scr : ScrRegs := {}
  /-- `LDG_CE_CNT`. [R263; reset 0] -/
  ldgCe : U32 := 0
  /-- `LDG_UE_CNT`. [R263; reset 0] -/
  ldgUe : U32 := 0
  /-- LST. [R352; reset 0] -/
  lst : LstRegs := {}
  /-- CFH. [R377; reset 0] -/
  cfh : CfhRegs := {}
  /-- The Ledge scrubber's position: the offset of the next word. [R242, R339; reset 0] -/
  scrubAt : BitVec 24 := 0
  deriving DecidableEq, Repr

/-- One of a stream's two buffers (R54, R383, R384). -/
structure BufInfo where
  /-- The buffer has been opened for a sensor frame. [R54; reset false] -/
  opened : Bool := false
  /-- Input timestamp, TS64. [R268, R279; reset 0] -/
  ts : U64 := 0
  /-- The digest, final when the buffer is complete. [R383; reset none] -/
  digest : Option Bytes := none
  /-- The stream was marked INCOMPLETE for this sensor frame. [R283; reset false] -/
  incomplete : Bool := false
  /-- A golden run was reported for the sensor frame. [R309; reset false] -/
  golden : Bool := false
  /-- Recorder SEQ of the first record of the buffer. [R392; reset 0] -/
  recSeq : U32 := 0
  /-- Recorder SOURCE of that record. [R392; reset 0] -/
  recSrc : U16 := 0
  /-- Points truncated in the sweep. [R279; reset 0] -/
  truncated : U32 := 0
  deriving DecidableEq, Repr

/-- An input line waiting in a port buffer or already taken: arrival number, bytes, none when absent (R173, R180, R181). -/
structure InLine where
  /-- Arrival number on the die. -/
  seq : Nat
  /-- Payload of a good line; none for an absent line. -/
  data : Option Bytes
  deriving DecidableEq, Repr

/-- A camera stream slot of an I/O die: a loaded stream profile and its sensor frame (R173, R266, R383). -/
structure CamRt where
  /-- The context whose profile is loaded. [R173; reset none] -/
  ctx : Option CtxId := none
  /-- Generation the profile was loaded under. [R32; reset 0] -/
  gen : BitVec 12 := 0
  /-- A frame of the virtual channel is open. [R266; reset false] -/
  frameOpen : Bool := false
  /-- The buffer in use; none while frames are skipped. [R54, R55; reset none] -/
  buf : Option (Fin 2) := none
  /-- The buffer opened last, so that buffers alternate. [R54; reset 1] -/
  last : Fin 2 := 1
  /-- A sensor frame was skipped (INGRESS_OVERRUN) since the last frame that named the stream. [R55; reset false] -/
  overrun : Bool := false
  /-- A frame that carried a wake was discarded; the next frame that names the stream is INCOMPLETE. [R479; reset false] -/
  woke : Bool := false
  /-- The buffer of the most recent arrival event. [R384; reset none] -/
  recent : Option (Fin 2) := none
  /-- The stream's current line is absent though it has not arrived: an error of its Crusher's memories. [R184; reset false] -/
  lostNext : Bool := false
  /-- Lines received in the frame and not yet taken. [R173, R180; reset empty] -/
  waiting : List InLine := []
  /-- Resolved lines taken so far, first line first. [R181; reset empty] -/
  taken : List Bytes := []
  /-- For each line taken: true when it was a good line. [R181; reset empty] -/
  good : List Bool := []
  /-- Lines received, good or absent. [R181; reset 0] -/
  received : Nat := 0
  /-- Output lines written. [R182; reset 0] -/
  outLines : Nat := 0
  /-- The frame has ended. [R266; reset false] -/
  ended : Bool := false
  /-- Payload bytes hashed so far. [R383; reset empty] -/
  hashed : Bytes := []
  /-- The two buffers. [R54; reset closed] -/
  bufs : Vector BufInfo 2 := Vector.replicate 2 {}
  /-- Open CSI_LINES record: first line, type, first arrival time and lines. [R389; reset none] -/
  record : Option (Nat × BitVec 6 × U64 × List Bytes) := none
  deriving DecidableEq, Repr

/-- A flow profile slot of an I/O die: a loaded flow profile and its sweep (R276 to R280, R383). -/
structure FlowRt where
  /-- The context whose profile is loaded. [R273; reset none] -/
  ctx : Option CtxId := none
  /-- Generation the profile was loaded under. [R32; reset 0] -/
  gen : BitVec 12 := 0
  /-- A sweep is open. [R278; reset false] -/
  sweepOpen : Bool := false
  /-- The buffer in use; none while the sweep is skipped. [R55; reset none] -/
  buf : Option (Fin 2) := none
  /-- The buffer opened last. [R54; reset 1] -/
  last : Fin 2 := 1
  /-- A sensor frame was skipped (INGRESS_OVERRUN) since the last frame that named the stream. [R55; reset false] -/
  overrun : Bool := false
  /-- The buffer of the most recent arrival event. [R384; reset none] -/
  recent : Option (Fin 2) := none
  /-- Points written. [R279; reset 0] -/
  count : Nat := 0
  /-- Points parsed. [R279; reset 0] -/
  nseen : Nat := 0
  /-- Progress increments made. [R279; reset 0] -/
  increments : Nat := 0
  /-- T_REF. [R279; reset 0] -/
  tRef : U64 := 0
  /-- FD_TIME of the sweep's first packet. [R280; reset 0] -/
  time0 : U32 := 0
  /-- The sweep is INCOMPLETE. [R279; reset false] -/
  incomplete : Bool := false
  /-- A sweep has started since STARTING: blocks are parsed. [R290; reset false] -/
  parsing : Bool := false
  /-- SWEEP_SEQ of the next sweep. [R279; reset 0] -/
  sweepSeq : U32 := 0
  /-- Azimuth difference of the previous block. [R278; reset none] -/
  prevAz : Option U32 := none
  /-- FD_SWEEP of the previous packet. [R278; reset none] -/
  prevSweep : Option U32 := none
  /-- Bytes hashed so far. [R383; reset empty] -/
  hashed : Bytes := []
  /-- The two buffers. [R54; reset closed] -/
  bufs : Vector BufInfo 2 := Vector.replicate 2 {}
  deriving DecidableEq, Repr

/-- A CSI-2 port, CSI (R292). -/
structure CsiRegs where
  /-- `CSI_STATUS.VC_OPEN`. [R292; reset 0] -/
  vcOpen : BitVec 4 := 0
  /-- `CSI_STATUS.LANES`. [R292; reset 0] -/
  lanes : BitVec 2 := 0
  /-- `CSI_STATUS.HS`. [R292; reset 0] -/
  hs : Bool := false
  /-- `CSI_FS_ADJ`. [R292; reset 0] -/
  fsAdj : U32 := 0
  /-- `CSI_ECC_CORR`. [R292; reset 0] -/
  eccCorr : U32 := 0
  /-- `CSI_ECC_DROP`. [R292; reset 0] -/
  eccDrop : U32 := 0
  /-- `CSI_CRC_ERR`. [R292; reset 0] -/
  crcErr : U32 := 0
  /-- `CSI_DT_DROP`. [R292; reset 0] -/
  dtDrop : U32 := 0
  /-- `CSI_FS_CNT`. [R292; reset 0] -/
  fsCnt : U32 := 0
  deriving DecidableEq, Repr

/-- A frame that waits in a receive buffer for the flow parser (R259, R281). -/
structure HeldFrame where
  /-- Flow profile. -/
  flow : Fin 16
  /-- UDP payload. -/
  payload : Bytes
  /-- Receive time. -/
  time : U64
  /-- SEQ of the FLOW record that holds it. -/
  seq : U32
  /-- In REPLAY, the sweep that it starts is skipped. -/
  skip : Bool
  deriving DecidableEq, Repr

/-- An Ethernet MAC and its flow parser, MAC (R293). -/
structure MacRegs where
  /-- `MAC_STATUS.PTP_PORT`. [R293; reset 0] -/
  ptpPort : Bool := false
  /-- `MAC_STATUS.AN_DONE`. [R293; reset 0] -/
  anDone : Bool := false
  /-- `MAC_STATUS.SPEED`. [R293; reset 0] -/
  speed : BitVec 2 := 0
  /-- `MAC_PHY_RX_LAT`. [R293; reset 0] -/
  rxLat : U16 := 0
  /-- `MAC_PHY_TX_LAT`. [R293; reset 0] -/
  txLat : U16 := 0
  /-- `MAC_FCS_ERR`. [R293; reset 0] -/
  fcsErr : U32 := 0
  /-- `MAC_RX_DROP`. [R293; reset 0] -/
  rxDrop : U32 := 0
  /-- `MAC_NOMATCH`. [R293; reset 0] -/
  noMatchCnt : U32 := 0
  /-- `FLW_MALFORMED`. [R293; reset 0] -/
  malformed : U32 := 0
  /-- `FLW_NORET`. [R293; reset 0] -/
  noret : U32 := 0
  /-- `FLW_PTS`. [R293; reset 0] -/
  pts : U32 := 0
  /-- `FLW_TOFF_SAT`. [R293; reset 0] -/
  toffSat : U32 := 0
  /-- The 64 flow-table entries, 16 bytes each; loaded at STARTING. [R273; reset empty, nothing valid] -/
  table : List Bytes := []
  /-- Frames in the receive buffer that wait for a parser stalled by a full ingress FIFO, oldest first. [R259, R281; reset
  empty] -/
  held : List HeldFrame := []
  /-- Open FLOW record: time of the first entry, entry count, payload so far. [R390; reset none] -/
  record : Option (U64 × Nat × Bytes) := none
  deriving DecidableEq, Repr

/-- A Crusher, CRU (R185). -/
structure CruRegs where
  /-- `CRU_STATUS.PROFILE`. [R185; reset 0] -/
  profile : BitVec 3 := 0
  /-- `CRU_STATUS.BUSY`: a line is held in progress by a full ingress FIFO. [R185, R259; reset 0] -/
  busy : Bool := false
  /-- `CRU_PIX_CNT`. [R185; reset 0] -/
  pixCnt : U32 := 0
  /-- `CRU_LINE_SUBST`. [R185; reset 0] -/
  lineSubst : U32 := 0
  /-- `CRU_PORT_DROP`. [R185; reset 0] -/
  portDrop : U32 := 0
  /-- `CRU_LONG`. [R185; reset 0] -/
  long : U32 := 0
  /-- `CRU_ECC_CORR`. [R185; reset 0] -/
  eccCorr : U32 := 0
  deriving DecidableEq, Repr

/-- An item of an ingress FIFO: a write and the signal that follows it (R27, R259). -/
structure IffItem where
  /-- Context and generation of the writer. [R32] -/
  ctx : CtxId
  /-- Generation. [R32] -/
  gen : BitVec 12
  /-- Device address and bytes, in order. [R259] -/
  writes : List (Nat × Bytes)
  /-- Bead increment sent once the writes are visible: partition, index, increment. [R27] -/
  signal : Option (PartId × Nat × Nat)
  /-- The stream: flow or camera, and profile on the die. [R283] -/
  flow : Bool
  /-- Profile index on the die. [R283] -/
  profile : Nat
  /-- The buffer written. [R54] -/
  buf : Fin 2
  deriving DecidableEq, Repr

/-- An I/O die (R4, R11). -/
structure IoDie where
  /-- CSI-2 ports. [R292; reset 0] -/
  csi : Vector CsiRegs 8 := Vector.replicate 8 {}
  /-- Ethernet MACs. [R293; reset 0] -/
  mac : Vector MacRegs 4 := Vector.replicate 4 {}
  /-- Crushers. [R185; reset 0] -/
  cru : Vector CruRegs 2 := Vector.replicate 2 {}
  /-- Camera stream slots by profile index. [R173, R383; reset unloaded] -/
  cams : Vector CamRt 32 := Vector.replicate 32 {}
  /-- Flow profile slots. [R276; reset unloaded] -/
  flows : Vector FlowRt 16 := Vector.replicate 16 {}
  /-- Ingress FIFO, oldest first. [R259; reset empty] -/
  fifo : List IffItem := []
  /-- What stalled writers have ready for the full FIFO, oldest first. [R259; reset empty] -/
  stalled : List IffItem := []
  /-- `IFF_HIWATER`. [R263; reset 0] -/
  hiwater : U32 := 0
  /-- `IFF_STALL`. [R263; reset 0] -/
  iffStall : U32 := 0
  /-- Number of lines that have arrived on the die. [R173; reset 0] -/
  arrivals : Nat := 0
  /-- Wake mode of the ETH group: false frame, true pattern. [R478; reset frame] -/
  wakePattern : Bool := false
  /-- Wake pattern, 64 bytes. [R478; reset DESIGN CHOICE zero (log 3)] -/
  pattern : Bytes := List.replicate 64 0
  /-- Wake byte mask. [R478; reset DESIGN CHOICE zero (log 3)] -/
  mask : U64 := 0
  /-- The recorder tap's block: block number and bytes used; none before the first. [R387; reset none] -/
  tapBlock : Option (Nat × Nat) := none
  /-- Bytes in the 1 MiB recorder buffer, at most. [R259, R393; reset 0] -/
  recLevel : Nat := 0
  deriving DecidableEq, Repr

/-- An LPDDR6 controller, MC (R263). -/
structure McRegs where
  /-- `MC_STATUS.CAL_PEND`. [R263; reset 0] -/
  calPend : BitVec 4 := 0
  /-- `MC_STATUS.MIRROR_BAD`. [R263; reset 0] -/
  mirrorBad : Bool := false
  /-- `MC_STATUS.CAL`. [R263; reset 0] -/
  cal : Bool := false
  /-- `MC_STATUS.TRAINED`. [R263; reset 0] -/
  trained : Bool := false
  /-- `MC_STATUS.PRESENT`. [R263; reset 0] -/
  present : Bool := false
  /-- `MC_CE_CNT`. [R263; reset 0] -/
  ceCnt : U32 := 0
  /-- `MC_UE_CNT`. [R263; reset 0] -/
  ueCnt : U32 := 0
  /-- `MC_LINK_CNT`. [R263; reset 0] -/
  linkCnt : U32 := 0
  /-- `MC_CAL_FORCED`. [R263; reset 0] -/
  calForced : U32 := 0
  /-- `MC_SCRUB_PASS`. [R263; reset 0] -/
  scrubPass : U32 := 0
  /-- `MC_UE_ADDR`. [R263; reset 0] -/
  ueAddr : U64 := 0
  /-- A calibration request is queued. [R247; reset false] -/
  calReq : Bool := false
  /-- Words counted that no context owns. [R250, R329; reset 0] -/
  freeUe : U32 := 0
  deriving DecidableEq, Repr

/-- The Stockpile of a compute die, STK (R263). -/
structure StkRegs where
  /-- `STK_CE_CNT`. [R263; reset 0] -/
  ceCnt : U32 := 0
  /-- `STK_UE_CNT`. [R263; reset 0] -/
  ueCnt : U32 := 0
  deriving DecidableEq, Repr

/-- The time base and its servo, TB (R284 to R291). -/
structure TbRegs where
  /-- TB_SEC. [R284; reset 0] -/
  sec : BitVec 48 := 0
  /-- TB_NS. [R284; reset 0] -/
  ns : BitVec 30 := 0
  /-- TB_FRAC. [R284; reset 0] -/
  frac : U32 := 0
  /-- `TB_SEC_HI.SEC`, latched. [R291; reset 0] -/
  latHi : U16 := 0
  /-- `TB_NS.NS`, latched. [R291; reset 0] -/
  latNs : BitVec 30 := 0
  /-- `TB_FRAC.FRAC`, latched. [R291; reset 0] -/
  latFrac : U32 := 0
  /-- TB_ADDEND, 8.32. [R291; reset 0x2_8000_0000] -/
  addend : BitVec 40 := 0x280000000
  /-- `SRV_CTRL.KI_SH`. [R291; reset 32] -/
  kiSh : BitVec 6 := 32
  /-- `SRV_CTRL.KP_SH`. [R291; reset 27] -/
  kpSh : BitVec 6 := 27
  /-- `SRV_CTRL.HOLD`. [R291; reset 0] -/
  hold : Bool := false
  /-- `SRV_CTRL.EN`. [R291; reset 0] -/
  en : Bool := false
  /-- `SRV_OFFSET` θ. [R291; reset 0] -/
  theta : BitVec 48 := 0
  /-- `SRV_INTEG.I`, int32. [R291; reset 0] -/
  integ : BitVec 32 := 0
  /-- `TB_STATUS.SERVING`. [R291; reset 0] -/
  serving : Bool := false
  /-- `TB_STATUS.SLEWING`. [R291; reset 0] -/
  slewing : Bool := false
  /-- `TB_STATUS.SOURCE`. [R291; reset 0] -/
  source : BitVec 2 := 0
  /-- `TB_STATUS.HOLDOVER`. [R291; reset 0] -/
  holdover : Bool := false
  /-- `TB_STATUS.LOCKED`. [R291; reset 0] -/
  locked : Bool := false
  /-- `TB_STEP_CNT`. [R291; reset 0] -/
  stepCnt : U32 := 0
  /-- Uptime tick at which the holdover began; `TB_HOLD_TIME` counts from it. [R287; reset 0] -/
  holdFrom : Nat := 0
  /-- Offsets in a row from the current grandmaster since the freeze. [R287; reset 0] -/
  good : Nat := 0
  /-- The next offset is the first after lock was acquired or regained. [R288; reset true] -/
  first : Bool := true
  /-- Grandmaster identity of the best Announce; none while there is none or this device is better. [R286, R287; reset none] -/
  gm : Option U64 := none
  /-- Priority vector of that Announce: system identity, steps removed, source port identity. [R286; reset 0] -/
  gmRank : Nat := 0
  /-- Time of the last step in ns of the stepped time base, none before the first. [R288; reset none] -/
  stepAt : Option Nat := none
  /-- Last Sync: sequence number and receive time, waiting for its Follow_Up. [R286; reset none] -/
  syncRx : Option (U16 × U64) := none
  /-- Mean link delay in ns × 2^16. [R286; reset DESIGN CHOICE 0 (log 3)] -/
  linkDelay : Int := 0
  /-- Sequence number of the engine's next Sync and Announce. [R286; reset 0] -/
  syncSeq : U16 := 0
  /-- Sequence number of the engine's next delay request. [R286; reset 0] -/
  pdSeq : U16 := 0
  /-- The neighbour's send time and the receive time here of the response before, for the rate ratio. [R286; reset none] -/
  pdPrev : Option (U64 × U64) := none
  /-- The neighbour rate ratio minus 1, in 2^-41. [R286; reset DESIGN CHOICE 0 (log 3)] -/
  nrr : Int := 0
  /-- The delay request that waits for its response: sequence number and send time. [R286; reset none] -/
  pdReq : Option (U16 × U64) := none
  /-- The response to it: the request's receipt time at the neighbour, and the response's receive time here. [R286; reset none] -/
  pdResp : Option (U64 × U64) := none
  deriving DecidableEq, Repr

/-- A frame as it waits for its verdict (R312). -/
structure TallyItem where
  /-- Context. -/
  ctx : CtxId
  /-- Generation. -/
  gen : BitVec 12
  /-- Frame number. -/
  frame : U32
  /-- Address of the result header; none for a frame without SEAL. -/
  record : Option Nat
  /-- RECORD_SEQ; 0xFFFF_FFFF without a record. -/
  recordSeq : U32
  /-- T_SEAL; 0 without a record. -/
  tSeal : U64
  /-- T_TRIGGER. -/
  tTrigger : U64
  /-- Time base at arming, TS64. -/
  armed : U64
  /-- GOLDEN descriptors completed at SEAL (R309). -/
  goldDone : U32
  /-- Streams that reported a golden run (R309). -/
  goldStreams : U64
  /-- Class counters at SEAL less those at the trigger (R304). -/
  classes : Vector U32 16
  /-- Degraded windows applied. -/
  degradedWin : Bool
  /-- The context was faulted between trigger and verdict. -/
  faulted : Bool
  /-- A device-scoped event fell in the frame. -/
  devFault : Bool
  /-- The thermal emergency held in the frame. -/
  thermal : Bool
  /-- Fault-path events of the context in the frame. -/
  nFault : U32
  /-- The frame ran in REPLAY. -/
  replay : Bool
  /-- The record's partition was reset while the frame waited (R323). -/
  lost : Bool := false
  /-- The deadline unit has written its verdict (R315). -/
  late : Bool := false
  /-- model: the frame was not queued because 64 were waiting (R312). -/
  unqueued : Bool := false
  deriving DecidableEq, Repr

/-- The Tally island, TLY (R295 to R324). -/
structure TlyRegs where
  /-- `TLY_STATUS.CE_CNT`. [R324; reset 0] -/
  ceCnt : Byte := 0
  /-- `TLY_STATUS.LOCKSTEP_ERR`. [R324; reset 0] -/
  lockstepErr : Bool := false
  /-- `TLY_STATUS.SELFTEST_OK`. [R324; reset 0] -/
  selftestOk : Bool := false
  /-- `TLY_STATUS.RESTARTING`. [R324; reset 0] -/
  restarting : Bool := false
  /-- `TLY_STATUS.READY`. [R324; reset 0] -/
  ready : Bool := false
  /-- `TLY_VERDICTS`. [R324; reset 0] -/
  verdicts : U32 := 0
  /-- `TLY_FAILS`. [R324; reset 0] -/
  fails : U32 := 0
  /-- `TLY_DEGRADED`. [R324; reset 0] -/
  degraded : U32 := 0
  /-- `TLY_DEADLINE`. [R324; reset 0] -/
  deadline : U32 := 0
  /-- `TLY_EVAL_MAX`. [R324; reset 0] -/
  evalMax : U32 := 0
  /-- `TLY_ERR_HOLD.MS`. [R324; reset 10] -/
  errHold : BitVec 10 := 10
  /-- `TLY_QFULL`. [R324; reset 0] -/
  qfull : U32 := 0
  /-- Frames waiting for a verdict, first to be judged first; `TLY_STATUS.QDEPTH` counts those queued. [R312; reset empty] -/
  queue : List TallyItem := []
  /-- Fault-path override of SAFE_ST by a device-scoped event. [R320; reset false] -/
  devOverride : Bool := false
  /-- PIN contexts whose later verdict other than FAIL the device override still awaits. [R320; reset empty] -/
  devAwait : List CtxId := []
  /-- Uptime tick of the latest event of R297. [R297; reset none] -/
  lockstepAt : Option Nat := none
  /-- Uptime tick of the last event of R317. [R321; reset 0] -/
  lastEvent : Nat := 0
  /-- ERR_HOLD has passed since the last event. [R321; reset false] -/
  holdOver : Bool := false
  deriving DecidableEq, Repr

/-- An error record (R353). -/
structure ErrRec where
  /-- SOURCE. -/
  src : U16
  /-- CODE. -/
  code : U16
  /-- SEQ. -/
  seq : U32
  /-- TIME. -/
  time : U64
  /-- FLAGS. -/
  flags : Byte
  /-- LOST. -/
  lost : Byte
  /-- CTXGEN. -/
  ctxgen : U16
  /-- COUNT. -/
  count : U16
  /-- DETAIL. -/
  detail : U64
  deriving DecidableEq, Repr

/-- An open coalescing window (R355). -/
structure Coal where
  /-- Source. -/
  src : U16
  /-- Code. -/
  code : U16
  /-- Context and generation of the events. -/
  ctx : Option (CtxId × BitVec 12)
  /-- Events so far. -/
  count : Nat
  /-- TIME of the first event. -/
  time : U64
  /-- DETAIL of the first event. -/
  detail : U64
  deriving DecidableEq, Repr

/-- The aggregator, ERR (R354, R355, R360, R375). -/
structure ErrRegs where
  /-- `ERR_STATUS.HOST_ABSENT`. [R375; reset 0] -/
  hostAbsent : Bool := false
  /-- `ERR_STATUS.DEVICE_EVENT`. [R375; reset 0] -/
  deviceEvent : Bool := false
  /-- `ERR_STATUS.EXPECT`. [R375; reset 0] -/
  expect : Bool := false
  /-- `ERR_WR_IDX`. [R375; reset 0] -/
  wrIdx : U32 := 0
  /-- `ERR_LOST`. [R375; reset 0] -/
  lost : U32 := 0
  /-- Offline partitions, `ERR_FENCED.OFFLINE`. [R375; reset 0] -/
  offline : BitVec 4 := 0
  /-- The record store, newest first, at most 2,048 records. [R360; reset empty] -/
  store : List ErrRec := []
  /-- `ERR_STATUS.WRAPPED`. [R375; reset 0] -/
  wrapped : Bool := false
  /-- Next SEQ of each source. [R353; reset 0] -/
  seqs : List (U16 × U32) := []
  /-- Records of each source lost since its previous record. [R354; reset 0] -/
  losts : List (U16 × Nat) := []
  /-- Records in the FIFOs of the concentrators, oldest first. [R354; reset empty] -/
  fifo : List ErrRec := []
  /-- Open coalescing windows. [R355; reset empty] -/
  coal : List Coal := []
  /-- Uptime tick of the latest device-scoped event. [R372; reset none] -/
  deviceAt : Option Nat := none
  /-- Contexts that restart when the device event is over. [R372; reset empty] -/
  restart : List CtxId := []
  deriving DecidableEq, Repr

/-- A ring of the host interface (R493 to R496). -/
structure RingRegs where
  /-- `RING_BASE.ADDR`. [R496; reset 0] -/
  base : U64 := 0
  /-- `RING_TAILWB.ADDR`. [R496; reset 0] -/
  tailWb : U64 := 0
  /-- `RING_CTRL.COAL`. [R496; reset 0] -/
  coal : Byte := 0
  /-- `RING_CTRL.IRQ_EN`. [R496; reset 0] -/
  irqEn : Bool := false
  /-- `RING_CTRL.EN`. [R496; reset 0] -/
  en : Bool := false
  /-- `RING_CTRL.SIZE_LOG2`. [R496; reset 16] -/
  sizeLog2 : BitVec 5 := 16
  /-- `RING_TAIL`. [R496; reset 0] -/
  tail : U32 := 0
  /-- `RING_HEAD`. [R496; reset 0] -/
  head : U32 := 0
  /-- `RING_DROP`. [R496; reset 0] -/
  drop : U32 := 0
  /-- Records not yet signalled. [R495; reset 0] -/
  unsignalled : Nat := 0
  deriving DecidableEq, Repr

/-- A mailbox command that ended with PENDING (R501). -/
structure PendCmd where
  /-- TAG. -/
  tag : U16
  /-- OPCODE. -/
  op : Byte
  /-- Its arguments. -/
  args : Bytes
  deriving DecidableEq, Repr

/-- The host port: HST, MBOX, rings and BAR4 (R491 to R502). -/
structure HstRegs where
  /-- `HST_STATUS.HOST_ABSENT`. [R491; reset 1] -/
  hostAbsent : Bool := true
  /-- `HST_STATUS.READY`. [R491; reset 0] -/
  ready : Bool := false
  /-- Uptime tick of the last heartbeat; `HST_HB_AGE` counts from it. [R491; reset 0] -/
  hbFrom : Nat := 0
  /-- `HST_DROP_CNT`. [R491; reset 0] -/
  dropCnt : U32 := 0
  /-- `HST_REJ_CNT`. [R491; reset 0] -/
  rejCnt : U32 := 0
  /-- `HST_MBOX_IGN`. [R491; reset 0] -/
  mboxIgn : U32 := 0
  /-- `HST_BAR2_BASE.BASE`, in MiB. [R491; reset 0] -/
  bar2Base : BitVec 28 := 0
  /-- Rings 0 to 16. [R496; reset as RingRegs] -/
  rings : Vector RingRegs 17 := Vector.replicate 17 {}
  /-- `MBOX_CMD.TAG`. [R502; reset 0] -/
  cmdTag : U16 := 0
  /-- `MBOX_CMD.OPCODE`. [R502; reset 0] -/
  cmdOp : Byte := 0
  /-- `MBOX_STATUS.TAG`. [R502; reset 0] -/
  tag : U16 := 0
  /-- `MBOX_STATUS.STATE`: 0 idle, 1 busy, 2 done. [R502; reset 0] -/
  state : BitVec 2 := 0
  /-- `MBOX_STATUS.STATUS`. [R502; reset 0] -/
  status : Byte := 0
  /-- `MBOX_ARGLEN.BYTES`. [R502; reset 0] -/
  argLen : BitVec 13 := 0
  /-- `MBOX_RSPLEN.BYTES`. [R502; reset 0] -/
  rspLen : BitVec 13 := 0
  /-- MBOX_DATA: (offset, byte), offsets rising, zero bytes not listed; 4 KiB. [R502; reset DESIGN CHOICE 0 (log 3)] -/
  mbData : List (Nat × Byte) := []
  /-- A doorbell held while the SVP restarts. [R501; reset none] -/
  held : Option PendCmd := none
  /-- Commands that ended with PENDING and await their final status. [R501; reset empty] -/
  pend : List PendCmd := []
  /-- MSI-X table: address, data, vector control. [R499; reset 0] -/
  msix : Vector (U64 × U32 × U32) 64 := Vector.replicate 64 (0, 0, 0)
  /-- MSI-X pending-bit array. [R499; reset 0] -/
  pba : U64 := 0
  /-- Next SEQ of interrupt records of the aggregator. [R497; reset 0] -/
  irqSeqAgg : U32 := 0
  /-- Next SEQ of interrupt records of the SVP. [R497; reset 0] -/
  irqSeqSvp : U32 := 0
  /-- The PCIe link is up. [R373, R511; reset down] -/
  linkUp : Bool := false
  /-- The function is in D3hot. [R485, R500; reset D0] -/
  d3hot : Bool := false
  /-- The host has enabled MSI-X. [R485, R499; reset DESIGN CHOICE enabled (log 4)] -/
  msixEn : Bool := true
  /-- The host has enabled ECRC generation and checking. [R485; reset DESIGN CHOICE off (log 4)] -/
  ecrcEn : Bool := false
  /-- AER uncorrectable error status; Poisoned TLP Received is bit 12 (PRESUMED, log 4). [R485, R486; reset DESIGN CHOICE 0 (log 4)] -/
  aer : U32 := 0
  /-- The SVP refused the image at start: more than four contexts enable lock-step. [R489; reset false] -/
  lksRefused : Bool := false
  /-- The first NOP has reported the refusal. [R489; reset false] -/
  lksTold : Bool := false
  /-- The SVP rejected the image at start: its Tally tables break a condition of R299. [R299; reset false] -/
  tablesBad : Bool := false
  deriving DecidableEq, Repr

/-- A power domain (R475, R484). -/
structure DomRt where
  /-- `PWR_DOM.STATE`. [R484; reset OFF] -/
  state : DomState := .off
  /-- `PWR_DOM.WAKES`. [R484; reset 0] -/
  wakes : U16 := 0
  /-- `PWR_DOM.LAST_WAKE`. [R484; reset 0] -/
  lastWake : BitVec 3 := 0
  /-- `PWR_DOM.HOST_REQ`. [R484; reset 0] -/
  hostReq : Bool := false
  deriving DecidableEq, Repr

/-- Power, clocks and thermal state of the device, PWR (R469 to R484). -/
structure PwrRegs where
  /-- The 64 domain IDs. [R484; reset OFF] -/
  doms : Vector DomRt 64 := Vector.replicate 64 {}
  /-- `PWR_THERM.TJ_MAX`, int16, °C × 16. [R484; reset 0] -/
  tjMax : BitVec 16 := 0
  /-- `PWR_THERM.HOT_SENSOR`. [R484; reset 0] -/
  hotSensor : BitVec 6 := 0
  /-- `PWR_THERM.ALERT`. [R484; reset 0] -/
  alert : Bool := false
  /-- `PWR_THERM.EMERG`. [R484; reset 0] -/
  emerg : Bool := false
  /-- `PWR_THERM.LOOP`. [R484; reset 0] -/
  loop : Bool := false
  /-- `PWR_POWER.CAP`, 0.1 W; none is the part maximum. [R484; reset part maximum] -/
  cap : Option U16 := none
  /-- `PWR_POWER.NOW`, 0.1 W. [R484; reset 0] -/
  now : U16 := 0
  /-- `PWR_EMERG_CNT`. [R484; reset 0] -/
  emergCnt : U32 := 0
  /-- `PWR_THERM_CNT`. [R484; reset 0] -/
  thermCnt : U32 := 0
  /-- The 64 sensors, °C × 16. [R335; reset DESIGN CHOICE 0 (log 3)] -/
  sensors : Vector Int 64 := Vector.replicate 64 0
  /-- A power emergency holds. [R481, R462; reset false] -/
  powerEmerg : Bool := false
  /-- A VOLT_MON condition holds. [R462, R481; reset false] -/
  voltCond : Bool := false
  /-- The clocks run from the root PLL. [R452, R469; reset false] -/
  pll : Bool := false
  /-- Uptime tick at which the last emergency ended. [R462; reset none] -/
  clearAt : Option Nat := none
  deriving DecidableEq, Repr

/-- An entry of the log region (R458). -/
structure LogEntry where
  /-- TYPE. -/
  ty : U16
  /-- SEQ. -/
  seq : U32
  /-- The payload, unpadded. -/
  payload : Bytes
  deriving DecidableEq, Repr

/-- A bank of the log region (R458). -/
structure LogBank where
  /-- GEN of a valid header; none while the header is not written. [R458; reset DESIGN CHOICE: bank 0 GEN 0, bank 1 none (log 5)] -/
  gen : Option U32 := none
  /-- The entries, oldest first. [R458; reset DESIGN CHOICE empty (log 5)] -/
  entries : List LogEntry := []
  deriving DecidableEq, Repr

/-- A staging session (R460). -/
structure Staging where
  /-- LENGTH of STAGE_OPEN. -/
  length : Nat
  /-- SEQ of STAGE_OPEN. -/
  seq : U32
  /-- Bytes 0x000 to 0x3FF, held in the SVP's SRAM. -/
  held : Bytes
  /-- End of the previous write. -/
  next : Nat
  deriving DecidableEq, Repr

/-- Fuses and one-time-programmable memory (R439, R440, R464). -/
structure Fuses where
  /-- Anti-rollback positions blown, 0 to 64. [R440; reset DESIGN CHOICE 0 (log 5)] -/
  count : Nat := 0
  /-- Key-hash slots; none while unprogrammed. [R439; reset DESIGN CHOICE none (log 5)] -/
  keys : Vector (Option Bytes) 4 := Vector.replicate 4 none
  /-- Revoke fuses. [R439; reset DESIGN CHOICE 0 (log 5)] -/
  revoked : BitVec 4 := 0
  /-- Serial number, 16 bytes. [R465; reset DESIGN CHOICE zero (log 5)] -/
  serial : Bytes := List.replicate 16 0
  /-- Base station address, 48 bits. [R446; reset DESIGN CHOICE zero (log 5)] -/
  station : BitVec 48 := 0
  /-- Modulus and private exponent of the identity key. [R464; reset DESIGN CHOICE 0 (log 5)] -/
  idN : Nat := 0
  /-- Private exponent. [R464; reset DESIGN CHOICE 0 (log 5)] -/
  idD : Nat := 0
  /-- The device certificate in DER. [R464; reset DESIGN CHOICE empty (log 5)] -/
  cert : Bytes := []
  deriving DecidableEq, Repr

/-- Odometer counts (R459). -/
structure Odo where
  /-- Seconds powered before this start. [R459; reset DESIGN CHOICE 0 (log 5)] -/
  powered : Nat := 0
  /-- Seconds in RUN or DEGRADED before this start. [R459; reset DESIGN CHOICE 0 (log 5)] -/
  running : Nat := 0
  /-- Ticks in RUN or DEGRADED in this start. [R459; reset 0] -/
  runTicks : Nat := 0
  /-- Starts. [R459; reset DESIGN CHOICE 0 (log 5)] -/
  starts : U32 := 0
  /-- Partition resets. [R459; reset DESIGN CHOICE 0 (log 5)] -/
  resets : U32 := 0
  /-- Fencings. [R459; reset DESIGN CHOICE 0 (log 5)] -/
  fencings : U32 := 0
  /-- Thermal emergencies. [R459; reset DESIGN CHOICE 0 (log 5)] -/
  thermals : U32 := 0
  /-- Seconds at Tj of 125 °C or more before this start. [R459; reset DESIGN CHOICE 0 (log 5)] -/
  hot : Nat := 0
  /-- Ticks at Tj of 125 °C or more in this start. [R459; reset 0] -/
  hotTicks : Nat := 0
  /-- Highest Tj, °C × 16. [R459; reset DESIGN CHOICE 0 (log 5)] -/
  maxTj : BitVec 16 := 0
  deriving DecidableEq, Repr

/-- A firmware processor, FWP (R454, R455, R468). -/
structure FwpRegs where
  /-- `FWP_STATUS.NEW_FW`. [R468; reset 0] -/
  newFw : Bool := false
  /-- `FWP_STATUS.STATE`. [R468; reset halted] -/
  state : ProcState := .halted
  /-- `FWP_RESTART_CNT`. [R468; reset 0] -/
  restarts : U32 := 0
  /-- `FWP_LAST_CAUSE.SLOT`. [R468; reset 0] -/
  slot : Bool := false
  /-- `FWP_LAST_CAUSE.CODE`. [R468; reset 0] -/
  code : U16 := 0
  /-- `FWP_DUMP_LOST`. [R468; reset 0] -/
  dumpLost : U32 := 0
  /-- Uptime ticks of the faults inside the 60 s window. [R455; reset empty] -/
  faults : List Nat := []
  /-- The restart under way applies a live activation. [R461; reset false] -/
  activating : Bool := false
  deriving DecidableEq, Repr

/-- Boot, image, staging and log: BOOT and UPD (R433 to R467). -/
structure BootRegs where
  /-- `BOOT_STATUS.KEY_SLOT`. [R467; reset 0] -/
  keySlot : BitVec 2 := 0
  /-- `BOOT_STATUS.OTHER_VALID`. [R467; reset 0] -/
  otherValid : Bool := false
  /-- `BOOT_STATUS.LIVE`. [R467; reset 0] -/
  live : Bool := false
  /-- `BOOT_STATUS.RECOVERY`, `HST_STATUS.RECOVERY`. [R467, R491; reset 0] -/
  recovery : Bool := false
  /-- `BOOT_STATUS.FALLBACK`. [R467; reset 0] -/
  fallback : Bool := false
  /-- `BOOT_STATUS.BANK`. [R467; reset 0] -/
  bank : Fin 2 := 0
  /-- `BOOT_SEQ`. [R467; reset 0] -/
  seq : U32 := 0
  /-- `BOOT_OTHER_SEQ`. [R467; reset 0] -/
  otherSeq : U32 := 0
  /-- `BOOT_TIME_US`. [R467; reset 0] -/
  timeUs : U32 := 0
  /-- A first frame has started. [R453; reset false] -/
  firstFrame : Bool := false
  /-- `UPD_BYTES`. [R467; reset 0] -/
  updBytes : U32 := 0
  /-- `UPD_STATUS.STATE`. [R467; reset idle] -/
  updState : UpdState := .idle
  /-- `UPD_STATUS.NEXT_PROC`. [R467; reset 0xF] -/
  nextProc : BitVec 4 := 0xF
  /-- Processors whose firmware the activation still has to replace. [R461; reset empty] -/
  actLeft : List Proc := []
  /-- The staging session. [R460; reset none] -/
  staging : Option Staging := none
  /-- Bytes 0x000 to 0x3FF of the active bank. [R435; reset empty] -/
  header : Bytes := []
  /-- Capacity in bytes of each flash device as SFDP reports it. [R433; reset DESIGN CHOICE 512 MiB (log 5)] -/
  flashSize : Nat := 0x20000000
  /-- Flash cells: CS0 at 0, CS1 at 2^32; unlisted reads as erased, 0xFF. [R434; reset DESIGN CHOICE erased (log 6)] -/
  flash : List Host.Cell := []
  /-- The two log banks. [R458; reset as LogBank] -/
  logs : Vector LogBank 2 := #v[⟨some 0, []⟩, ⟨none, []⟩]
  /-- Consecutive starts of each bank without BOOT_OK. [R437; reset DESIGN CHOICE 0 (log 5)] -/
  failed : Vector Nat 2 := #v[0, 0]
  /-- BOOT_OK has been written in this start. [R437; reset false] -/
  bootOk : Bool := false
  /-- Fuses. [R439; reset as Fuses] -/
  fuses : Fuses := {}
  /-- Odometer. [R459; reset 0] -/
  odo : Odo := {}
  /-- The start-up report, 64 bytes. [R344; reset DESIGN CHOICE empty, reads zero (log 3)] -/
  report : Bytes := []
  /-- Digests of the running firmware: SVP, PWP, SEQ, Tally. [R465; reset DESIGN CHOICE empty (log 3)] -/
  fw : Vector Bytes 4 := Vector.replicate 4 []
  /-- Program digests of the contexts. [R381; reset DESIGN CHOICE zero (log 3)] -/
  prog : Vector Bytes 16 := Vector.replicate 16 (List.replicate 32 0)
  /-- Weights digests of the contexts. [R382; reset DESIGN CHOICE zero (log 3)] -/
  wgt : Vector Bytes 16 := Vector.replicate 16 (List.replicate 32 0)
  /-- Contexts whose weights failed their chunk table: they do not start. [R382; reset 0] -/
  badWgt : BitVec 16 := 0
  /-- Uptime tick since which every enabled context has been in RUN. [R440; reset none] -/
  runFrom : Option Nat := none
  /-- Partition samples and crash dumps not yet copied to the log: slot numbers. [R371, R457; reset empty] -/
  uncopied : List Nat := []
  /-- Next crash-dump slot: false 6, true 7. [R457; reset 6] -/
  nextDump : Bool := false
  /-- Next partition-sample slot. [R371; reset 0] -/
  nextSample : Fin 6 := 0
  deriving DecidableEq, Repr

/-- A ring port (R432). -/
structure RingPortRt where
  /-- `RNG_PORT.PEER_VALID`. [R432; reset 0] -/
  peerValid : Bool := false
  /-- `RNG_PORT.PEER_ID`. [R432; reset 0] -/
  peerId : BitVec 2 := 0
  /-- `RNG_PORT.STATE`. [R432; reset off] -/
  state : LinkState := .off
  /-- `RNG_RETRY`. [R432; reset 0] -/
  retry : U32 := 0
  /-- `RNG_DOWN`. [R432; reset 0] -/
  down : U32 := 0
  /-- `RNG_STARVE`. [R432; reset 0] -/
  starve : U32 := 0
  /-- Failed receptions in a row of the present flit. [R410; reset 0] -/
  fails : Nat := 0
  /-- Send time of this end's last T_SYNC. [R424; reset 0] -/
  t1 : U64 := 0
  /-- Receive time here of the neighbour's last T_SYNC. [R424; reset 0] -/
  t4 : U64 := 0
  /-- A T_SYNC of the neighbour has been received. [R424; reset false] -/
  synced : Bool := false
  deriving DecidableEq, Repr

/-- A write or a signal that a ring peer has not acknowledged (R415). -/
structure Unacked where
  /-- The peer. -/
  peer : BitVec 2
  /-- The queue whose descriptor sent it. -/
  queue : QueueId
  /-- Its context. -/
  ctx : CtxId
  /-- True for a bead signal. -/
  signal : Bool
  deriving DecidableEq, Repr

/-- The Seam ring, RNG (R406 to R432). -/
structure RngRegs where
  /-- `RNG_STATUS.ID`. [R432; reset straps: DESIGN CHOICE 0 before POWER_GOOD (log 3)] -/
  id : BitVec 2 := 0
  /-- `RNG_STATUS.MEMBERS`. [R432; reset 0] -/
  members : BitVec 4 := 0
  /-- `RNG_STATUS.MGR_ID`. [R432; reset 0] -/
  mgrId : BitVec 2 := 0
  /-- A manager is known (a ring without a MGR_CAPABLE member has none). [R421; reset false] -/
  hasMgr : Bool := false
  /-- `RNG_STATUS.CHAIN`. [R432; reset 0] -/
  chain : Bool := false
  /-- In a chain, the member whose E link is down. [R422; reset 0] -/
  downAt : BitVec 2 := 0
  /-- `RNG_STATUS.DIGEST_ERR`. [R432; reset 0] -/
  digestErr : Bool := false
  /-- `RNG_STATUS.IDLE`. [R432; reset 0] -/
  idle : Bool := false
  /-- `RNG_STATUS.CLASH`. [R432; reset 0] -/
  clash : Bool := false
  /-- The bypass is closed; `RNG_STATUS.EN` is 1 when it is open. [R417; reset closed] -/
  bypass : Bool := true
  /-- `RNG_EPOCH`. [R432; reset 0] -/
  epoch : U32 := 0
  /-- `RNG_MGMT_DROP`. [R432; reset 0] -/
  mgmtDrop : U32 := 0
  /-- Ports E and W. [R432; reset 0] -/
  ports : Vector RingPortRt 2 := Vector.replicate 2 {}
  /-- Latest HELLO of each ring ID: (ID, MGR_CAPABLE, IDLE_EN). [R422; reset empty] -/
  seen : List (BitVec 2 × Bool × Bool) := []
  /-- By which ports the HELLO messages of each ring ID come, with the intervals of this device since the last one.
  [R422, R423; reset empty] -/
  hears : List (BitVec 2 × RingPort × Nat) := []
  /-- Management messages that wait for the idle ring to wake: type, destination (none: all) and body. [R425; reset empty] -/
  held : List (Nat × Option (BitVec 2) × Bytes) := []
  /-- Contexts that this device does not run and has started as the manager, not drained since. [R427, R428; reset none] -/
  live : U16 := 0
  /-- The manager's generation of each context. [R427; reset 0] -/
  gens : Vector (BitVec 12) 16 := Vector.replicate 16 0
  /-- DIGEST messages of the epoch: context, source, program digest, 16 bytes of the weights digest. [R427; reset empty] -/
  digests : List (CtxId × BitVec 2 × Bytes × Bytes) := []
  /-- Members that acknowledged the drain of a context. [R428; reset empty] -/
  acks : List (CtxId × BitVec 4) := []
  /-- Members that acknowledged ring idle. [R425; reset 0] -/
  idleAcks : BitVec 4 := 0
  /-- Next SEQ of this device's management messages. [R422; reset 0] -/
  seq : U32 := 0
  /-- Writes and signals sent to a peer that it has not acknowledged, oldest first. [R57, R62, R415; reset empty] -/
  unacked : List Unacked := []
  deriving DecidableEq, Repr

/-- A lock-step slot (R405). -/
structure LksRegs where
  /-- The context the slot is assigned to. `LKS_STATUS.CTX`. [R405, R489; reset none, reads 0] -/
  ctx : Option CtxId := none
  /-- `LKS_STATUS.STATE`. [R405; reset off] -/
  state : LksState := .off
  /-- `LKS_CMP`. [R405; reset 0] -/
  cmp : U32 := 0
  /-- `LKS_MISMATCH`. [R405; reset 0] -/
  mismatch : U32 := 0
  /-- `LKS_SKIPPED`. [R405; reset 0] -/
  skipped : U32 := 0
  /-- `LKS_FIRST.T_NS`. [R405; reset 0] -/
  firstNs : U32 := 0
  /-- `LKS_FIRST.KEY`. [R405; reset 0] -/
  firstKey : BitVec 7 := 0
  /-- `LKS_FIRST.QSEQ`. [R405; reset 0] -/
  firstQseq : BitVec 12 := 0
  /-- Own messages not matched: T_TRIGGER, KEY, QSEQ, SIG. [R402; reset empty] -/
  mine : List (U64 × Byte × BitVec 12 × U64) := []
  /-- Partner's messages not matched. [R402; reset empty] -/
  theirs : List (U64 × Byte × BitVec 12 × U64) := []
  /-- T_TRIGGER of the frame with the first mismatch: comparison stops after it. [R402; reset none] -/
  stopAfter : Option U64 := none
  /-- T_TRIGGER of a frame whose comparison is suspended. [R402; reset none] -/
  suspended : Option U64 := none
  deriving DecidableEq, Repr

/-- The recorder, REC (R385 to R395, R404). -/
structure RecRegs where
  /-- `REC_STATUS.STATE`, header STATE. [R404; reset 3 disabled] -/
  state : RecState := .disabled
  /-- `REC_STATUS.CAUSE`, header CAUSE. [R404; reset 0] -/
  cause : BitVec 2 := 0
  /-- Bytes written; `REC_BYTES.MIB` counts MiB. [R404; reset 0] -/
  bytes : Nat := 0
  /-- `REC_LOSS`. [R404; reset 0] -/
  loss : U32 := 0
  /-- `REC_NOREC`. [R404; reset 0] -/
  norec : U32 := 0
  /-- Header NBLK. [R386; reset 0] -/
  nblk : Nat := 0
  /-- Header WBLK. [R386; reset 0] -/
  wblk : Nat := 0
  /-- Header KEEP. [R386; reset 0] -/
  keep : Nat := 0
  /-- FFLAGS.POST_CUT. [R386; reset 0] -/
  postCut : Bool := false
  /-- FFLAGS.PRE_SHORT. [R386; reset 0] -/
  preShort : Bool := false
  /-- Header T_TRIG. [R386; reset 0] -/
  tTrig : U64 := 0
  /-- Header T_FREEZE. [R386; reset 0] -/
  tFreeze : U64 := 0
  /-- Header CAUSE_ID. [R386; reset 0] -/
  causeId : U32 := 0
  /-- Header EXTRA. [R386; reset 0] -/
  extra : U32 := 0
  /-- Next SEQ of each source. [R388; reset 0] -/
  seqs : List (U16 × U32) := []
  /-- Block of the checkpoint writer: number and bytes used. [R387; reset none] -/
  ckptBlock : Option (Nat × Nat) := none
  /-- Blocks lost or invalid while their partition is in reset. [R387; reset empty] -/
  lostBlks : List Nat := []
  deriving DecidableEq, Repr

/-- A record read back from the recorder region (R388). -/
structure RecItem where
  /-- SOURCE. -/
  src : U16
  /-- KIND. -/
  kind : Byte
  /-- RFLAGS. -/
  rflags : Byte
  /-- SEQ. -/
  seq : U32
  /-- TIME. -/
  time : U64
  /-- AUX. -/
  aux : U32
  /-- The payload. -/
  payload : Bytes
  /-- The record's CRC matched. -/
  ok : Bool
  /-- The block it starts in. -/
  block : Nat
  /-- model: the SEQ that follows its last piece. -/
  next : U32
  deriving DecidableEq, Repr

/-- Replay, REP (R396 to R399, R404). -/
structure RepRegs where
  /-- `REP_STATUS.ERROR`. [R404; reset 0] -/
  error : BitVec 4 := 0
  /-- `REP_STATUS.DONE`. [R404; reset 0] -/
  finished : Bool := false
  /-- `REP_STATUS.ACTIVE`. [R404; reset 0] -/
  active : Bool := false
  /-- `REP_CB.ADDR`. [R404; reset 0] -/
  cb : BitVec 48 := 0
  /-- `REP_MATCH`. [R404; reset 0] -/
  matchCnt : U32 := 0
  /-- `REP_DIGEST_DIFF`. [R404; reset 0] -/
  digestDiff : U32 := 0
  /-- `REP_NONDET`. [R404; reset 0] -/
  nondet : U32 := 0
  /-- `REP_FIELD_DIFF`. [R404; reset 0] -/
  fieldDiff : U32 := 0
  /-- `REP_VERDICT_DIFF`. [R404; reset 0] -/
  verdictDiff : U32 := 0
  /-- `REP_UNCHECKED`. [R404; reset 0] -/
  unchecked : U32 := 0
  /-- `REP_FIRST.FRAME`. [R404; reset 0] -/
  firstFrame : U32 := 0
  /-- A first DIGEST_DIFF is latched. [R399; reset false] -/
  hasFirst : Bool := false
  /-- Contexts replayed. [R396; reset 0] -/
  mask : U16 := 0
  /-- RFLAGS of the control block. [R396; reset 0] -/
  rflags : Byte := 0
  /-- END of the control block. [R396; reset 0] -/
  endFrame : U32 := 0
  /-- Ingress records to inject and FRAME_MARKs to apply, in merge order. [R397; reset empty] -/
  feed : List RecItem := []
  /-- FRAME_MARK records of the window, in order: they name the buffers. [R397; reset empty] -/
  marks : List RecItem := []
  /-- RESULT_MARK records of the window. [R399; reset empty] -/
  results : List RecItem := []
  /-- CHECKPOINT record to restore, by context. [R397; reset empty] -/
  saves : List (CtxId × RecItem) := []
  /-- The feeder has stopped on a first DIGEST_DIFF. [R399; reset false] -/
  stopped : Bool := false
  /-- Frames (context, number) that consume a record which failed its CRC or was LOSS. [R399; reset empty] -/
  spoiled : List (Nat × Nat) := []
  /-- Contexts that a start or an end of the replay stops and that still drain. [R397, R399; reset empty] -/
  stopping : List CtxId := []
  deriving DecidableEq, Repr

/-- A management message or a transaction that this device sends on the ring (R412, R422). -/
inductive RingOut where
  /-- A management message, 64 bytes. -/
  | mgmt (bytes : Bytes)
  /-- A write to a peer's memory. -/
  | write (dst : BitVec 2) (c : CtxId) (gen : BitVec 12) (addr : BitVec 48) (data : Bytes)
  /-- A bead signal to a peer. -/
  | signal (dst : BitVec 2) (c : CtxId) (gen : BitVec 12) (bead : BitVec 14) (inc : BitVec 4)
  /-- A lock-step message. -/
  | lks (dst : BitVec 2) (bytes : Bytes)
  /-- The ring wake ordered set. -/
  | wake
  /-- A result or verdict record to a peer. -/
  | record (dst : BitVec 2) (bytes : Bytes)
  /-- The acknowledgement of a write or a signal. -/
  | ack (dst : BitVec 2)
  /-- A read of a peer's memory. -/
  | read (dst : BitVec 2) (c : CtxId) (gen : BitVec 12) (addr : BitVec 48) (len : Nat)
  /-- The data that a peer's read asked for. -/
  | readData (dst : BitVec 2) (data : Bytes)
  /-- A transaction of another member for another one, on its way through this device. -/
  | transit (dst : BitVec 2) (data : Bytes)
  deriving DecidableEq, Repr

/-- The channel of a flit, none for an ordered set, and its dateline class: B or A (R412, R413). -/
structure RingVc where
  /-- Channel. -/
  chan : Option RingChannel
  /-- Class B. -/
  inB : Bool
  deriving DecidableEq, Repr

/-- What leaves the device (model: the outputs of a command, newest first). -/
inductive OutEvent where
  /-- A posted write to host memory (R486). -/
  | hostWrite (addr : U64) (data : Bytes)
  /-- An MSI-X message (R495, R498). -/
  | msix (vec : BitVec 6) (addr : U64) (data : U32)
  /-- Read data returned to the host (R488, R492). -/
  | readData (data : Bytes)
  /-- An Ethernet frame (R272, R286). -/
  | eth (die : DieId) (mac : MacId) (frame : Bytes)
  /-- A ring transaction (R412). -/
  | ring (port : RingPort) (vc : RingVc) (t : RingOut)
  /-- A record handed to the Ethernet egress as a UDP result (R26); its datagram form is not stated (log 8). -/
  | udp (c : CtxId) (record : Bytes)
  /-- An AVSBus write (R472). -/
  | avs (p : PartId) (mv : BitVec 10)
  deriving DecidableEq, Repr

/-- What PORST_N and the rails make of the balls (R510, R511): in reset with the rails present, in reset for want of VDD_AON, without
power, or in operation. -/
inductive PadState where
  | reset
  | aonLost
  | unpowered
  | run
  deriving DecidableEq, Repr

/-- The pins (R320 to R322, R482, R511). -/
structure Pins where
  /-- What PORST_N and the rails make of the balls. [R511; reset in reset] -/
  pads : PadState := .reset
  /-- SAFE_ST[1:0]. [R320, R511; reset 0b00] -/
  safeSt : BitVec 2 := 0
  /-- ERR_OUT_N, true when high. [R321, R511; reset low] -/
  errOutN : Bool := false
  /-- ALIVE. [R322, R511; reset low] -/
  alive : Bool := false
  /-- THERM_ALERT_N, true when high. [R482, R511; reset released] -/
  thermAlertN : Bool := true
  /-- PMB_ALERT_N, true when high. [R511; reset released] -/
  pmbAlertN : Bool := true
  /-- XSPI_RST_N, true when high. [R433, R511; reset low] -/
  xspiRstN : Bool := false
  /-- Level at the WAKE_N input, true when high. [R478; reset DESIGN CHOICE high (log 3)] -/
  wakeN : Bool := true
  /-- Strap XSPI_SPLIT as sampled. [R512; reset DESIGN CHOICE 0 (log 3)] -/
  xspiSplit : Bool := false
  deriving DecidableEq, Repr

/-- The whole device. -/
structure State where
  /-- The part. [R2, R3; DESIGN CHOICE gb1282, the reference configuration (log 2)] -/
  part : Part := .gb1282
  /-- Device state. [R7, R452; reset BOOT] -/
  dev : DevState := .boot
  /-- The cores. [R5; reset as CoreRt] -/
  cores : Vector CoreRt 12 := Vector.replicate 12 {}
  /-- The partitions. [R5; reset as PartRt] -/
  parts : Vector PartRt 4 := Vector.replicate 4 {}
  /-- The contexts. [R31; reset IDLE] -/
  ctxs : Vector CtxRt 16 := Vector.replicate 16 {}
  /-- The I/O dies. [R4; reset as IoDie] -/
  io : Vector IoDie 2 := Vector.replicate 2 {}
  /-- LPDDR6 controllers. [R263; reset 0] -/
  mcs : Vector McRegs 8 := Vector.replicate 8 {}
  /-- Stockpiles. [R263; reset 0] -/
  stks : Vector StkRegs 2 := Vector.replicate 2 {}
  /-- Device memory: (device address, byte), addresses rising, zero bytes not listed. [R234; reset DESIGN CHOICE zero (log 6)] -/
  mem : List Host.Cell := []
  /-- Uncorrectable 64-bit words (device addresses). [R239, R241, R244; reset empty] -/
  bad : List Nat := []
  /-- Die-to-die links that a failed lane took down. [R14, R29; reset none] -/
  linkDown : List DieLink := []
  /-- The mirrors of the weight regions that are valid: base of the primary, and the mirror's bytes. [R260, R261; reset empty] -/
  mirrors : List (Nat × Bytes) := []
  /-- Last writer of each Ledge line: line address, context, generation. [R242; reset empty] -/
  lineOwner : List (Nat × CtxId × BitVec 12) := []
  /-- Sections of the image loaded and checked. [R451; reset empty] -/
  img : List Section := []
  /-- Time base. [R291; reset as TbRegs] -/
  tb : TbRegs := {}
  /-- Tally. [R324; reset as TlyRegs] -/
  tly : TlyRegs := {}
  /-- Aggregator. [R375; reset as ErrRegs] -/
  err : ErrRegs := {}
  /-- Host port. [R491; reset as HstRegs] -/
  hst : HstRegs := {}
  /-- Power. [R484; reset as PwrRegs] -/
  pwr : PwrRegs := {}
  /-- Boot and update. [R467; reset as BootRegs] -/
  boot : BootRegs := {}
  /-- Firmware processors SVP, PWP, SEQ0 to SEQ3, Tally. [R468; reset as FwpRegs] -/
  fwp : Vector FwpRegs 7 := Vector.replicate 7 {}
  /-- Seam ring. [R432; reset as RngRegs] -/
  rng : RngRegs := {}
  /-- Lock-step slots. [R405; reset as LksRegs] -/
  lks : Vector LksRegs 4 := Vector.replicate 4 {}
  /-- Recorder. [R404; reset as RecRegs] -/
  recd : RecRegs := {}
  /-- Replay. [R404; reset as RepRegs] -/
  rep : RepRegs := {}
  /-- Pins. [R511; reset as Pins] -/
  pins : Pins := {}
  /-- model: TIM ticks since the release of reset, 2.5 ns each. [R284, R452; DESIGN CHOICE 0 (log 1)] -/
  ticks : Nat := 0
  /-- model: number of free values taken so far. [log 7; DESIGN CHOICE 0] -/
  free : Nat := 0
  /-- model: what has left the device, newest first. [log 8; DESIGN CHOICE empty] -/
  out : List OutEvent := []
  /-- model: commands waiting, first in first out. [log 1; empty] -/
  pending : List Instr := []
  deriving DecidableEq, Repr

/-- Why the block stops with a fault. No rule of the spec stops the block: errors are effects on State, so no
meaning raises one; the type is kept for the interface. -/
inductive Fault where
  /-- Raised by nothing; safe. -/
  | none
  deriving DecidableEq, Repr

/-- Why a command is refused. -/
inductive Refusal where
  /-- Raised by an arm of `exec` whose command has no meaning yet; safe. -/
  | notModelled (mnemonic : String)
  deriving DecidableEq, Repr

/-- The device right after reset: BOOT state, every register at its reset value, no image, empty memory. -/
def State.reset : State := {}

end Sys2Proof.Machine
end

