-- ==== Sys2Proof/Machine/Ops.lean ====
section
/-!
DEFINITION. Machine/Ops.lean: the named operations over State: units, image views, the address map, memory,
time and beads. Every later file of Machine/ is written over these.
-/

namespace Sys2Proof.Machine

/-- What a meaning answers. -/
abbrev Res := Host.Outcome State Fault Refusal

/-! ### The part (R2, R3) -/

/-- A part with four memory stacks. -/
def fourStacks : Part → Bool
  | .gb1241 | .gb1242 => true
  | .gb1281 | .gb1282 => false

/-- The part has the second I/O die. -/
def hasN1 : Part → Bool
  | .gb1242 | .gb1282 => true
  | .gb1241 | .gb1281 => false

/-- Maximum package power in 0.1 W (R3). -/
def maxPower : Part → Nat
  | .gb1241 => 1400
  | .gb1242 => 1480
  | .gb1281 => 1570
  | .gb1282 => 1650

/-- The stack is populated (R6). -/
def stackPresent (p : Part) (k : StackId) : Bool := !fourStacks p || k.1 % 2 = 0

/-- The I/O die is populated (R2). -/
def diePresent (p : Part) (d : DieId) : Bool := d = 0 || hasN1 p

/-! ### Numbering (R5, R6) -/

/-- The partition of a core. -/
def partOfCore (i : CoreId) : PartId := ⟨i.1 / 3, by omega⟩

/-- Core C(3p + r). -/
def coreOf (p : PartId) (r : Fin 3) : CoreId := ⟨3 * p.1 + r.1, by omega⟩

/-- The partition-relative number of a core. -/
def slotOfCore (i : CoreId) : Fin 3 := ⟨i.1 % 3, Nat.mod_lt _ (by decide)⟩

/-- The partition that owns a stack. -/
def partOfStack (k : StackId) : PartId := ⟨k.1 / 2, by omega⟩

/-- The three cores of a partition. -/
def coresOf (p : PartId) : List CoreId := [coreOf p 0, coreOf p 1, coreOf p 2]

/-- The mirror partition p XOR 1 (R260). -/
def mirrorPart (p : PartId) : PartId := ⟨(p.1 ^^^ 1) % 4, Nat.mod_lt _ (by decide)⟩

/-- All values of a finite number. -/
def allFin (n : Nat) : List (Fin n) := List.finRange n

/-- The partition of a queue. -/
def qPart : QueueId → PartId
  | .core c _ => partOfCore c
  | .dq p => p

/-- A queue's number as R358 gives it. -/
def qNum : QueueId → Nat
  | .core _ .aq => 0
  | .core _ .sq => 1
  | .core _ .xq => 2
  | .core _ .mq => 3
  | .dq _ => 4

/-- The core of a queue. -/
def qCore? : QueueId → Option CoreId
  | .core c _ => some c
  | .dq _ => none

/-- The four queues of a core. -/
def queuesOf (c : CoreId) : List QueueId := [.core c .aq, .core c .sq, .core c .xq, .core c .mq]

/-- The thirteen queues of a partition. -/
def partQueues (p : PartId) : List QueueId := (coresOf p).flatMap queuesOf ++ [.dq p]

/-- All 52 queues. -/
def allQueues : List QueueId := (allFin 4).flatMap partQueues

/-! ### Units of State -/

/-- Core `i`. -/
def State.core (s : State) (i : CoreId) : CoreRt := s.cores.get i
/-- Partition `p`. -/
def State.prt (s : State) (p : PartId) : PartRt := s.parts.get p
/-- Context `c`. -/
def State.ctx (s : State) (c : CtxId) : CtxRt := s.ctxs.get c
/-- I/O die `d`. -/
def State.die (s : State) (d : DieId) : IoDie := s.io.get d

/-- Updates core `i`. -/
def State.onCore (s : State) (i : CoreId) (f : CoreRt → CoreRt) : State :=
  { s with cores := s.cores.set i.1 (f (s.core i)) }
/-- Updates partition `p`. -/
def State.onPart (s : State) (p : PartId) (f : PartRt → PartRt) : State :=
  { s with parts := s.parts.set p.1 (f (s.prt p)) }
/-- Updates context `c`. -/
def State.onCtx (s : State) (c : CtxId) (f : CtxRt → CtxRt) : State :=
  { s with ctxs := s.ctxs.set c.1 (f (s.ctx c)) }
/-- Updates the frame of context `c`. -/
def State.onFrame (s : State) (c : CtxId) (f : FrameRt → FrameRt) : State :=
  s.onCtx c fun x => { x with frame := f x.frame }
/-- Updates I/O die `d`. -/
def State.onDie (s : State) (d : DieId) (f : IoDie → IoDie) : State :=
  { s with io := s.io.set d.1 (f (s.die d)) }
/-- Updates the controller of stack `k`. -/
def State.onMc (s : State) (k : StackId) (f : McRegs → McRegs) : State :=
  { s with mcs := s.mcs.set k.1 (f (s.mcs.get k)) }
/-- Updates the Stockpile of compute die `j`. -/
def State.onStk (s : State) (j : Fin 2) (f : StkRegs → StkRegs) : State :=
  { s with stks := s.stks.set j.1 (f (s.stks.get j)) }
/-- Updates processor `i` (R457). -/
def State.onFwp (s : State) (i : Fin 7) (f : FwpRegs → FwpRegs) : State :=
  { s with fwp := s.fwp.set i.1 (f (s.fwp.get i)) }
/-- Updates a lock-step slot. -/
def State.onLks (s : State) (i : Fin 4) (f : LksRegs → LksRegs) : State :=
  { s with lks := s.lks.set i.1 (f (s.lks.get i)) }

/-- Updates the host port. -/
def State.onHst (s : State) (f : HstRegs → HstRegs) : State := { s with hst := f s.hst }
/-- Updates boot registers. -/
def State.onBoot (s : State) (f : BootRegs → BootRegs) : State := { s with boot := f s.boot }
/-- Updates the ring block. -/
def State.onRng (s : State) (f : RngRegs → RngRegs) : State := { s with rng := f s.rng }
/-- Updates the power block. -/
def State.onPwr (s : State) (f : PwrRegs → PwrRegs) : State := { s with pwr := f s.pwr }
/-- Updates the aggregator. -/
def State.onErr (s : State) (f : ErrRegs → ErrRegs) : State := { s with err := f s.err }
/-- Updates the Tally. -/
def State.onTly (s : State) (f : TlyRegs → TlyRegs) : State := { s with tly := f s.tly }
/-- Updates the pins. -/
def State.onPins (s : State) (f : Pins → Pins) : State := { s with pins := f s.pins }
/-- Updates recorder registers. -/
def State.onRec (s : State) (f : RecRegs → RecRegs) : State := { s with recd := f s.recd }
/-- Updates replay registers. -/
def State.onRep (s : State) (f : RepRegs → RepRegs) : State := { s with rep := f s.rep }
/-- Updates the time base block. -/
def State.onTb (s : State) (f : TbRegs → TbRegs) : State := { s with tb := f s.tb }

/-- Updates a camera slot of a die. -/
def State.onCam (s : State) (d : DieId) (i : Fin 32) (f : CamRt → CamRt) : State :=
  s.onDie d fun x => { x with cams := x.cams.set i.1 (f (x.cams.get i)) }
/-- Updates a flow slot of a die. -/
def State.onFlow (s : State) (d : DieId) (i : Fin 16) (f : FlowRt → FlowRt) : State :=
  s.onDie d fun x => { x with flows := x.flows.set i.1 (f (x.flows.get i)) }
/-- Updates a CSI-2 port. -/
def State.onCsi (s : State) (d : DieId) (i : PortId) (f : CsiRegs → CsiRegs) : State :=
  s.onDie d fun x => { x with csi := x.csi.set i.1 (f (x.csi.get i)) }
/-- Updates a MAC. -/
def State.onMac (s : State) (d : DieId) (i : MacId) (f : MacRegs → MacRegs) : State :=
  s.onDie d fun x => { x with mac := x.mac.set i.1 (f (x.mac.get i)) }
/-- Updates a Crusher. -/
def State.onCru (s : State) (d : DieId) (i : Fin 2) (f : CruRegs → CruRegs) : State :=
  s.onDie d fun x => { x with cru := x.cru.set i.1 (f (x.cru.get i)) }
/-- Updates a domain. -/
def State.onDom (s : State) (i : Nat) (f : DomRt → DomRt) : State :=
  if h : i < 64 then { s with pwr := { s.pwr with doms := s.pwr.doms.set i (f (s.pwr.doms.get ⟨i, h⟩)) } } else s
/-- Domain `i`. -/
def State.dom (s : State) (i : Nat) : DomRt := if h : i < 64 then s.pwr.doms.get ⟨i, h⟩ else {}

/-- A domain is in RET or OFF. -/
def State.domIsDown (s : State) (n : Nat) : Bool := (s.dom n).state = .ret || (s.dom n).state = .off

/-- The data path of a domain is not held: it runs on its PLL-derived clock, or on FIO before the clocks of the device have
switched (R452, R479). -/
def State.domLive (s : State) (n : Nat) : Bool := (s.dom n).state = .onPll || (!s.pwr.pll && (s.dom n).state = .onFio)

/-- A domain is ON, by a source of `PWR_DOM.LAST_WAKE` where it was down (R479, R484). -/
def DomRt.up (d : DomRt) (src : Nat) (pll : Bool) : DomRt :=
  let down := d.state = .ret || d.state = .off
  { d with
    state := if pll then .onPll else .onFio, hostReq := false
    wakes := if down then sat16 d.wakes else d.wakes, lastWake := if down then BitVec.ofNat 3 src else d.lastWake }

/-- Port number: E 0, W 1. -/
def portNum : RingPort → Fin 2
  | .e => 0
  | .w => 1

/-- Updates a ring port. -/
def State.onPort (s : State) (p : RingPort) (f : RingPortRt → RingPortRt) : State :=
  s.onRng fun r => { r with ports := r.ports.set (portNum p).1 (f (r.ports.get (portNum p))) }

/-- A core's queue. -/
def coreQueue (x : CoreRt) : QKind → QueueRt
  | .aq => x.aq
  | .sq => x.sq
  | .xq => x.xq
  | .mq => x.mq

/-- Replaces a core's queue. -/
def setCoreQueue (x : CoreRt) (k : QKind) (v : QueueRt) : CoreRt :=
  match k with
  | .aq => { x with aq := v }
  | .sq => { x with sq := v }
  | .xq => { x with xq := v }
  | .mq => { x with mq := v }

/-- A hardware queue (R46). -/
def State.queue (s : State) : QueueId → QueueRt
  | .core c k => coreQueue (s.core c) k
  | .dq p => (s.prt p).dq

/-- Updates a hardware queue. -/
def State.onQueue (s : State) (q : QueueId) (f : QueueRt → QueueRt) : State :=
  match q with
  | .core c k => s.onCore c fun x => setCoreQueue x k (f (coreQueue x k))
  | .dq p => s.onPart p fun x => { x with dq := f x.dq }

/-! ### Keyed lists -/

/-- The value at a number of a list that leaves out the default. -/
def keyGet {α : Type} (d : α) (l : List (Nat × α)) (k : Nat) : α :=
  ((l.find? fun e => e.1 = k).map (·.2)).getD d

/-- Sets the value at a number; keys stay rising and the default is not listed. -/
def keyPut {α : Type} [DecidableEq α] (d : α) (l : List (Nat × α)) (k : Nat) (v : α) : List (Nat × α) :=
  l.filter (·.1 < k) ++ (if v = d then [] else [(k, v)]) ++ l.filter (fun e => decide (k < e.1))

/-- The value at a key, or a default. -/
def tabGet {κ α : Type} [DecidableEq κ] (d : α) (l : List (κ × α)) (k : κ) : α :=
  ((l.find? fun e => e.1 = k).map (·.2)).getD d

/-- Sets the value at a key. -/
def tabPut {κ α : Type} [DecidableEq κ] (l : List (κ × α)) (k : κ) (v : α) : List (κ × α) :=
  (k, v) :: l.filter (fun e => decide (e.1 ≠ k))

/-! ### Image views (R441 to R450) -/

/-- A section of the loaded image by type, CTX and INDEX. -/
def State.sec (s : State) (ty ctx index : Nat) : Option Bytes :=
  (s.img.find? fun x => x.ty.toNat = ty && x.ctx.toNat = ctx && x.index.toNat = index).map (·.bytes)

/-- A sects bytes, empty when the image has none. -/
def State.secD (s : State) (ty ctx index : Nat) : Bytes := (s.sec ty ctx index).getD []

/-- DEVICE_CONFIG (R445). -/
def State.devCfg (s : State) : Bytes := s.secD 0x10 0xFF 0

/-- A bit of DFLAGS (R445). -/
def State.dflag (s : State) (i : Nat) : Bool := bit (fld s.devCfg 0 4) i

/-- RING_EN (R408). -/
def State.ringEn (s : State) : Bool := s.dflag 0
/-- MGR_CAPABLE (R408). -/
def State.mgrCapable (s : State) : Bool := s.dflag 1
/-- IDLE_EN (R408). -/
def State.idleEn (s : State) : Bool := s.dflag 2
/-- REPLAY_EN (R404). -/
def State.replayEn (s : State) : Bool := s.dflag 3
/-- HOST_REC (R404). -/
def State.hostRec (s : State) : Bool := s.dflag 4

/-- The CONTEXT section (R447). -/
def State.ctxCfg (s : State) (c : CtxId) : Bytes := s.secD 0x20 c.1 0

/-- The image defines the context. -/
def State.hasCtx (s : State) (c : CtxId) : Bool := (s.sec 0x20 c.1 0).isSome

/-- A bit of CFLAGS of the CONTEXT section. -/
def State.cflag (s : State) (c : CtxId) (i : Nat) : Bool := bit (byteAt (s.ctxCfg c) 1) i

/-- ENABLED. -/
def State.enabled (s : State) (c : CtxId) : Bool := s.cflag c 0
/-- RELAXED. -/
def State.relaxed (s : State) (c : CtxId) : Bool := s.cflag c 1
/-- HOLD: results held until the verdict. -/
def State.holdMode (s : State) (c : CtxId) : Bool := s.cflag c 2
/-- AUTO_RESTART. -/
def State.autoRestart (s : State) (c : CtxId) : Bool := s.cflag c 3
/-- ARRIVAL. -/
def State.arrivalTrig (s : State) (c : CtxId) : Bool := s.cflag c 4
/-- First bead and count of the context's range in a partition. -/
def State.beadRange (s : State) (c : CtxId) (p : PartId) : Nat × Nat :=
  (fld (s.ctxCfg c) (0x04 + 2 * p.1) 2, fld (s.ctxCfg c) (0x0C + 2 * p.1) 2)
/-- PERIOD in µs. -/
def State.period (s : State) (c : CtxId) : Nat := fld (s.ctxCfg c) 0x18 4
/-- PHASE in µs. -/
def State.phase (s : State) (c : CtxId) : Nat := fld (s.ctxCfg c) 0x1C 4
/-- ARR_STREAMS. -/
def State.arrStreams (s : State) (c : CtxId) : Nat := fld (s.ctxCfg c) 0x20 8
/-- PEERS mask. -/
def State.peers (s : State) (c : CtxId) : Nat := byteAt (s.ctxCfg c) 0x2C % 16
/-- LKS: enable and partner ring ID (R400, R447). -/
def State.lksCfg (s : State) (c : CtxId) : Bool × Nat :=
  (bit (byteAt (s.ctxCfg c) 0x2D) 7, byteAt (s.ctxCfg c) 0x2D % 4)
/-- FREEZE_ON. -/
def State.freezeOn (s : State) (c : CtxId) : Nat := byteAt (s.ctxCfg c) 0x2E
/-- SCALE_N. -/
def State.scaleN (s : State) (c : CtxId) : Nat := fld (s.ctxCfg c) 0x30 2

/-- A REGIONS entry (R448). -/
structure Region where
  /-- Position in the REGIONS section. -/
  idx : Nat
  /-- BASE[47:0]. -/
  base : Nat
  /-- BASE[63:48], which must be 0. -/
  baseHi : Nat
  /-- SIZE. -/
  size : Nat
  /-- KIND. -/
  kind : Nat
  /-- RFLAGS. -/
  rflags : Nat
  /-- SECTION. -/
  sect : Nat
  /-- MIRROR. -/
  mirror : Nat
  /-- The reserved bytes are zero. -/
  clean : Bool
  deriving DecidableEq, Repr

/-- One REGIONS entry of 32 bytes. -/
def regionAt (b : Bytes) (i : Nat) : Region :=
  let e := slice b (32 * i) 32
  { idx := i, base := fld e 0 6, baseHi := fld e 6 2, size := fld e 8 8, kind := byteAt e 0x10,
    rflags := byteAt e 0x11, sect := fld e 0x12 2, mirror := byteAt e 0x14,
    clean := (e.drop 0x15).all (· = 0) }

/-- SHARED_RO. -/
def Region.shared (r : Region) : Bool := bit r.rflags 0
/-- PERSISTENT. -/
def Region.persistent (r : Region) : Bool := bit r.rflags 1
/-- SPOIL. -/
def Region.spoil (r : Region) : Bool := bit r.rflags 2
/-- ZERO_INIT. -/
def Region.zeroInit (r : Region) : Bool := bit r.rflags 3

/-- The regions of a context. -/
def State.regions (s : State) (c : CtxId) : List Region :=
  let b := s.secD 0x21 c.1 0
  (List.range (byteAt (s.ctxCfg c) 2)).map (regionAt b)

/-- A STAGES entry (R449). -/
structure StageCfg where
  /-- TEST stage. -/
  test : Bool
  /-- BALANCED. -/
  balanced : Nat
  /-- QSET. -/
  qset : Nat
  /-- NMIN, NMAX, DMIN, DMAX in µs. -/
  win : Nat × Nat × Nat × Nat
  deriving DecidableEq, Repr

/-- Stage `i` of a context; none when the image declares fewer. -/
def State.stageCfg (s : State) (c : CtxId) (i : Nat) : Option StageCfg :=
  if i < byteAt (s.ctxCfg c) 3 then
    let e := slice (s.secD 0x22 c.1 0) (32 * i) 32
    some { test := byteAt e 0 = 1, balanced := byteAt e 1, qset := fld e 8 8,
           win := (fld e 0x10 4, fld e 0x14 4, fld e 0x18 4, fld e 0x1C 4) }
  else none

/-- Number of declared stages. -/
def State.nStage (s : State) (c : CtxId) : Nat := byteAt (s.ctxCfg c) 3

/-- The bit of QSET for the queue of a list slot (R449): queue `q` of slot `r`, or the DQ, of partition `p`. -/
def qsetBit (p : PartId) (slot queue : Nat) : Nat :=
  if queue = 4 then 13 * p.1 + 12 else 13 * p.1 + 4 * slot + queue

/-- A LIST section (R450). -/
structure ListCfg where
  /-- INDEX of the section. -/
  index : Nat
  /-- PART. -/
  part : Nat
  /-- SLOT. -/
  slot : Nat
  /-- QUEUE. -/
  queue : Nat
  /-- SPLIT. -/
  split : Nat
  /-- NDESC. -/
  ndesc : Nat
  /-- The sects bytes. -/
  bytes : Bytes
  deriving DecidableEq, Repr

/-- Descriptor `i` of a list. -/
def ListCfg.desc (l : ListCfg) (i : Nat) : Bytes := slice l.bytes (0x80 + 64 * i) 64
/-- Merge rank of descriptor `i` (R365). -/
def ListCfg.rank (l : ListCfg) (i : Nat) : Nat := fld l.bytes (0x80 + 64 * l.ndesc + 2 * i) 2
/-- NGOLD of a stage. -/
def ListCfg.ngold (l : ListCfg) (st : Nat) : Nat := fld l.bytes (0x20 + 2 * st) 2

/-- The lists of a context, by section. -/
def State.lists (s : State) (c : CtxId) : List ListCfg :=
  s.img.filterMap fun x =>
    if x.ty.toNat = 0x23 && x.ctx.toNat = c.1 then
      some { index := x.index.toNat, part := byteAt x.bytes 0, slot := byteAt x.bytes 1, queue := byteAt x.bytes 2,
             split := byteAt x.bytes 3, ndesc := fld x.bytes 4 2, bytes := x.bytes }
    else none

/-- The context has work in the partition: a list with descriptors there (R366). -/
def State.hasWork (s : State) (c : CtxId) (p : PartId) : Bool :=
  (s.lists c).any fun l => l.part = p.1 && decide (0 < l.ndesc)

/-- A STREAMS entry (R442): kind, die, profile. -/
def State.streamCfg (s : State) (c : CtxId) (i : Nat) : Nat × Nat × Nat :=
  let b := s.secD 0x25 c.1 0
  (byteAt b (4 * i), byteAt b (4 * i + 1), byteAt b (4 * i + 2))

/-- The stream number that a profile feeds (R264). -/
def State.streamOf (s : State) (c : CtxId) (kind die profile : Nat) : Option (Fin 64) :=
  (allFin 64).find? fun i => s.streamCfg c i.1 = (kind, die, profile)

/-- TALLY_TABLE of a context (R298). -/
def State.tallyTab (s : State) (c : CtxId) : Bytes := s.secD 0x29 c.1 0
/-- PIN (R298). -/
def State.pin (s : State) (c : CtxId) : Bool := bit (byteAt (s.tallyTab c) 6) 0
/-- ALIVE (R298). -/
def State.aliveCtx (s : State) (c : CtxId) : Bool := bit (byteAt (s.tallyTab c) 6) 1

/-! ### Time (R78, R284) -/

/-- TS64 of the time base (R78). -/
def State.now64 (s : State) : U64 := (s.tb.sec.setWidth 64 <<< 30) ||| s.tb.ns.setWidth 64

/-- TS64 of seconds and nanoseconds (R78). -/
def ts64 (sec ns : Nat) : U64 := (BitVec.ofNat 64 sec <<< 30) ||| BitVec.ofNat 64 ns

/-- Nanoseconds of a TS64 value (R78). -/
def tsNs (t : U64) : Nat := (t.toNat >>> 30) * 1000000000 + t.toNat % 2 ^ 30

/-- TS64 of a number of nanoseconds, seconds modulo 2^34. -/
def tsOfNs (n : Nat) : U64 := ts64 (n / 1000000000 % 2 ^ 34) (n % 1000000000)

/-- The difference of two TS64 values modulo 2^34 s, signed, in ns (R304). -/
def tsDiff (a b : U64) : Int :=
  let d := ((tsNs a : Int) - tsNs b) % (2 ^ 34 * 1000000000 : Int)
  if d < 2 ^ 33 * 1000000000 then d else d - 2 ^ 34 * 1000000000

/-- The device time in µs, T_us of R37. -/
def State.nowUs (s : State) : Nat := s.tb.sec.toNat * 1000000 + s.tb.ns.toNat / 1000

/-- The time base in ns, with all 48 bits of its seconds (R284). -/
def State.nowNs (s : State) : Nat := s.tb.sec.toNat * 1000000000 + s.tb.ns.toNat

/-- TIM ticks in a second: the uptime clock of the windows in seconds (R20). -/
def ticksPerSec : Nat := 400000000

/-- A window of `n` seconds since an uptime tick has not passed. -/
def State.within (s : State) (t n : Nat) : Bool := decide (s.ticks ≤ t + n * ticksPerSec)

/-! ### Free values -/

/-- The next number for a free value, and the state that has used it. -/
def State.takeFree (s : State) : Nat × State := (s.free, { s with free := s.free + 1 })

/-! ### The address map (R234, R245) -/

/-- Targets of the device address map. -/
inductive Target where
  | dram (p : PartId)
  | stock (j : Fin 2)
  | ledge (i : CoreId)
  | selfWin
  | slotWin (r : Fin 3)
  | dump
  | unmapped
  deriving DecidableEq, Repr

/-- The target of a device address (R234). -/
def target (a : Nat) : Target :=
  if a < 0x004000000000 then
    if h : a / 0x1000000000 < 4 then .dram ⟨a / 0x1000000000, h⟩ else .unmapped
  else if 0x010000000000 ≤ a ∧ a < 0x010006000000 then .stock 0
  else if 0x010008000000 ≤ a ∧ a < 0x01000E000000 then .stock 1
  else if 0x020000000000 ≤ a then
    if h : (a - 0x020000000000) / 0x1000000 < 12 then .ledge ⟨(a - 0x020000000000) / 0x1000000, h⟩
    else if 0x020100000000 ≤ a ∧ a < 0x020101000000 then .selfWin
    else if h : 0x020101000000 ≤ a ∧ (a - 0x020101000000) / 0x1000000 < 3 then
      .slotWin ⟨(a - 0x020101000000) / 0x1000000, h.2⟩
    else if 0x040000000000 ≤ a ∧ a < 0x040000200000 then .dump
    else .unmapped
  else .unmapped

/-- Base of the absolute Ledge window of a core. -/
def ledgeBase (i : CoreId) : Nat := 0x020000000000 + 0x1000000 * i.1

/-- The stack that holds a DRAM address (R245). -/
def stackOf (part : Part) (p : PartId) (a : Nat) : StackId :=
  if fourStacks part then ⟨2 * p.1, by omega⟩
  else ⟨2 * p.1 + (bits a 10 10 ^^^ bits a 18 18 ^^^ bits a 26 26) % 2, by omega⟩

/-- The channel of a DRAM address (R245). -/
def channelOf (a : Nat) : Nat := bits a 9 8 ^^^ bits a 17 16 ^^^ bits a 25 24

/-- The offset of a DRAM address in its channel (R245). -/
def channelOffset (part : Part) (a : Nat) : Nat :=
  let o := a % 2 ^ 36
  (if fourStacks part then o >>> 10 else o >>> 11) * 256 + o % 256

/-- A DRAM address at an absent stack position (R235). -/
def absentAt (part : Part) (a : Nat) : Bool :=
  match target a with
  | .dram p => fourStacks part && decide (0x800000000 ≤ a - 0x1000000000 * p.1)
  | _ => false

/-- A core is fenced (R364). -/
def State.isFenced (s : State) (i : CoreId) : Bool := (s.core i).cfh.fenced

/-- The fenced cores as `ERR_FENCED.CORES` shows them (R375). -/
def State.fencedMask (s : State) : Nat := sumN ((allFin 12).map fun i => if s.isFenced i then 2 ^ i.1 else 0)

/-- A partition is isolated: it is in reset (R30). An offline partition is not in reset. -/
def State.inReset (s : State) (p : PartId) : Bool :=
  (s.prt p).prt.state != .service && (s.prt p).prt.state != .offline

/-- No access reaches the core's Ledge: it is fenced, or it is the last core of a partition that its fencing took offline
(R236, R364, R366). -/
def State.cutOff (s : State) (i : CoreId) : Bool :=
  s.isFenced i || (decide ((s.core i).cfh.adopter = 3) && ((coresOf (partOfCore i)).filter s.isFenced).length = 2)

/-- A partition is offline (R366). -/
def State.isOffline (s : State) (p : PartId) : Bool := (s.prt p).prt.state == .offline

/-- Numbers of the codes of R357 that the operations raise. -/
def cCtxRange : U16 := 0x0505
def cMemFenced : U16 := 0x050B
def cLinkFault : U16 := 0x0402
def cDescOpcode : U16 := 0x0503
def cLedgeUe : U16 := 0x0301
def cStockUe : U16 := 0x0302
def cDramUe : U16 := 0x0303
def cIsolated : U16 := 0x0002
def cStageOrder : U16 := 0x0506
def cGoldenOrder : U16 := 0x0507

/-- A source ID (R356). -/
def srcId (die ty inst : Nat) : U16 := BitVec.ofNat 16 (die * 4096 + ty * 64 + inst)
/-- Source ID of a block of a core. -/
def srcCore (ty : Nat) (i : CoreId) : U16 := srcId (i.1 / 6) ty i.1
/-- Source ID of a block of a partition. -/
def srcPart (ty : Nat) (p : PartId) : U16 := srcId (p.1 / 2) ty p.1
/-- Source ID of a stack's controller. -/
def srcMc (k : StackId) : U16 := srcId (k.1 / 4) 0x0C k.1
/-- Source ID of queue acceptance. -/
def srcQueue : QueueId → U16
  | .core c k => srcId (c.1 / 6) 0x07 (c.1 * 4 + qNum (.core c k))
  | .dq p => srcId (p.1 / 2) 0x07 (48 + p.1)
/-- Source ID of the aggregator. -/
def srcAgg : U16 := srcId 2 0x26 0
/-- Source ID of the SVP. -/
def srcSvp : U16 := srcId 2 0x27 0
/-- Source ID of the Tally. -/
def srcTally : U16 := srcId 2 0x21 0

/-- Why an access or an operation of an engine does not take effect. -/
structure Flt where
  /-- Source ID. -/
  src : U16
  /-- Code (R357). -/
  code : U16
  /-- DETAIL (R358). -/
  detail : Nat := 0
  /-- Cores that a counted fault counts against (R363). -/
  cores : List CoreId := []
  /-- The partition that resets because of it (R368). -/
  reset : Option PartId := none
  deriving DecidableEq, Repr

/-- A result of an engine step that may fail. -/
abbrev Eng (α : Type) := Except Flt α

/-- Who issues an access: context, partition, executing core (none for a Dresser), and source ID. -/
structure Who where
  /-- Context. -/
  ctx : CtxId
  /-- Generation. -/
  gen : BitVec 12
  /-- Issuing partition. -/
  part : PartId
  /-- Executing core. -/
  core : Option CoreId
  /-- Source ID of the engine. -/
  src : U16
  /-- DETAIL of its own faults (R358, classes 2 and 5). -/
  detail : Nat
  /-- The transaction has reached its destination: no route lies before it. -/
  arrived : Bool := false
  deriving DecidableEq, Repr

/-- A fault of the engine itself. -/
def Who.flt (w : Who) (code : U16) : Flt := { src := w.src, code := code, detail := w.detail }

/-- The absolute address that an access reaches, after the windows (R235, R236). -/
def State.resolve (s : State) (w : Who) (a : Nat) : Eng Nat :=
  let ledge (i : CoreId) (off : Nat) : Eng Nat :=
    if s.cutOff i then .error (w.flt cMemFenced) else .ok (ledgeBase i + off)
  match target a with
  | .dram _ => if absentAt s.part a then .error (w.flt cCtxRange) else .ok a
  | .stock _ => .ok a
  | .ledge i => ledge i (a % 0x1000000)
  | .selfWin => match w.core with
    | some i => ledge i (a % 0x1000000)
    | none => .error (w.flt cCtxRange)
  | .slotWin r => ledge (coreOf w.part ((s.prt w.part).slotMap.get r)) (a % 0x1000000)
  | .dump | .unmapped => .error (w.flt cCtxRange)

/-- The targets that the bytes from `x` to `x + n` lie in: windows are multiples of 16 MiB (R234). -/
def spanTargets (x n : Nat) : List Target :=
  if target (x + n - 1) = target x then [target x]
  else (List.range ((x + n - 1) / 0x1000000 + 1 - x / 0x1000000)).map fun k => target (max x ((x / 0x1000000 + k) * 0x1000000))

/-- The compute die of a target (R11). -/
def Target.die : Target → Option (Fin 2)
  | .dram p => some ⟨p.1 / 2, by omega⟩
  | .stock j => some j
  | .ledge i => some ⟨i.1 / 6, by omega⟩
  | .selfWin | .slotWin _ | .dump | .unmapped => none

/-- The two ends of a die-to-die link: source IDs of its bridges (R13, R356). -/
def linkEnds : DieLink → U16 × U16
  | .d0d1 => (srcId 0 0x0F 0, srcId 1 0x0F 0)
  | .d0n0 => (srcId 0 0x0F 1, srcId 2 0x0F 1)
  | .d1n0 => (srcId 1 0x0F 1, srcId 2 0x0F 1)
  | .d0n1 => (srcId 0 0x0F 2, srcId 3 0x0F 2)
  | .d1n1 => (srcId 1 0x0F 2, srcId 3 0x0F 2)

/-- The link between an I/O die and a compute die (R13). -/
def ioLink (d : DieId) (j : Fin 2) : DieLink :=
  if d = 0 then (if j = 0 then .d0n0 else .d1n0) else (if j = 0 then .d0n1 else .d1n1)

/-- The failed link on the only route from a compute die to another one (R13, R17, R29). -/
def State.dieLink (s : State) (die j : Fin 2) : Option DieLink :=
  if s.linkDown.contains .d0d1 && j != die then some .d0d1 else none

/-- The failed link on the only route from a compute die to a byte of a range (R13, R17, R29). -/
def State.deadLink (s : State) (die : Fin 2) (x n : Nat) : Option DieLink :=
  ((spanTargets x n).filterMap Target.die).findSome? (s.dieLink die)

/-- The fault of an access whose only route used a failed link (R29). -/
def linkFlt (l : DieLink) : Flt := { src := (linkEnds l).1, code := cLinkFault }

/-- Whether the bytes from `a` to `a + n` lie in the regions, taken one after another. -/
def covered (rs : List Region) : Nat → Nat → Nat → Bool
  | 0, _, n => n = 0
  | k + 1, a, n =>
    if n = 0 then true
    else match rs.find? (fun r => decide (r.base ≤ a) && decide (a < r.base + r.size)) with
      | none => false
      | some r => if a + n ≤ r.base + r.size then true
        else covered rs k (r.base + r.size) (a + n - (r.base + r.size))

/-- Whether a range may be accessed by a context (R35, R448). -/
def State.inRegions (s : State) (c : CtxId) (a n : Nat) (write : Bool) : Bool :=
  let rs := s.regions c
  covered rs (rs.length + 1) a n &&
    (!write || rs.all fun r => !r.shared || decide (a + n ≤ r.base) || decide (r.base + r.size ≤ a))

/-- A target that no access reaches (R236). -/
def State.fencedAt (s : State) : Target → Bool
  | .ledge i => s.cutOff i
  | _ => false

/-- The compute die of a partition (R11). -/
def partDie (p : PartId) : Fin 2 := ⟨p.1 / 2, by omega⟩

/-- The check of an access: windows, map, fenced cores, regions, route (R29, R35, R235, R236). A range may run on into the
next absolute window, but not out of a self or slot window. Answers the absolute address. -/
def State.access (s : State) (w : Who) (a n : Nat) (write : Bool) : Eng Nat :=
  match s.resolve w a with
  | .error f => .error f
  | .ok x =>
    if n = 0 then (if s.inRegions w.ctx x n write then .ok x else .error (w.flt cCtxRange))
    else if absentAt s.part (x + n - 1) || (target a != target x && target (x + n - 1) != target x) ||
        (spanTargets x n).contains .unmapped then .error (w.flt cCtxRange)
    else if (spanTargets x n).any s.fencedAt then .error (w.flt cMemFenced)
    else if !s.inRegions w.ctx x n write then .error (w.flt cCtxRange)
    else match if w.arrived then none else s.deadLink (partDie w.part) x n with
      | some l => .error (linkFlt l)
      | none => .ok x

/-- The bad word a range touches first (R529); `full` leaves out words that the range covers whole. -/
def State.badIn (s : State) (a n : Nat) (full : Bool) : Option Nat :=
  s.bad.find? fun k => decide (k < a + n) && decide (a < k + 8) &&
    !(full && decide (a ≤ k) && decide (k + 8 ≤ a + n))

/-- The fault that an uncorrectable word raises (R239, R241, R244). -/
def ueFlt (part : Part) (k : Nat) : Flt :=
  match target k with
  | .ledge i => { src := srcCore 0x06 i, code := cLedgeUe, detail := k % 0x1000000, cores := [i],
                  reset := some (partOfCore i) }
  | .stock j => { src := srcId j.1 0x0D 0, code := cStockUe, detail := k - (0x010000000000 + 0x8000000 * j.1) }
  | .dram p => { src := srcMc (stackOf part p k), code := cDramUe, detail := k, reset := some p }
  | _ => { src := srcAgg, code := cDramUe, detail := k }

/-- The partition an absolute address lies in, for the isolation of R30. -/
def homePart (a : Nat) : Option PartId :=
  match target a with
  | .dram p => some p
  | .ledge i => some (partOfCore i)
  | _ => none

/-- The partition a target belongs to. -/
def Target.part : Target → Option PartId
  | .dram p => some p
  | .ledge i => some (partOfCore i)
  | .stock _ | .selfWin | .slotWin _ | .dump | .unmapped => none

/-! ### Endpoints of the Haul road (R16, R356) -/

/-- A partition by number. -/
def partOf (n : Nat) : PartId := ⟨n % 4, Nat.mod_lt _ (by decide)⟩

/-- The source ID of an endpoint of the Haul road of a compute die. DESIGN CHOICE (log 54): the ports of a die are numbered in
the order of R16: 0 to 11 the cores, 12 to 19 the controllers, 20 to 23 the partition blocks, 24 to 55 the Stockpile banks; a
record names the first port of an endpoint. -/
def srcPort (die port : Nat) : U16 := srcId die 0x0E port

/-- The endpoint of the partition block: sequencer, Dresser, bead pool, pair hub (R16). -/
def srcBlock (p : PartId) : U16 := srcPort (p.1 / 2) (20 + 2 * (p.1 % 2))

/-- The bank of a Stockpile offset (R240). -/
def stockBank (o : Nat) : Nat := bits o 10 6 ^^^ bits o 15 11

/-- The endpoint that a device address lies at (R14, R16, R240, R356). -/
def endpointSrc (part : Part) (a : Nat) : U16 :=
  match target a with
  | .dram p => let k := stackOf part p a; srcPort (k.1 / 4) (12 + 2 * (k.1 % 4))
  | .stock j => srcPort j.1 (24 + stockBank (a % 0x8000000))
  | .ledge i => srcPort (i.1 / 6) (2 * (i.1 % 6))
  | .selfWin | .slotWin _ | .dump | .unmapped => srcPort 0 0

/-- The partition whose boundary a source ID of its endpoints names (R29). -/
def boundaryPart (src : U16) : PartId :=
  let n := src.toNat % 64
  partOf (2 * (src.toNat / 4096) + if n < 12 then n / 6 else if n < 20 then (n - 12) / 4 else (n - 20) / 2)

/-- An access aimed at a partition in reset is discarded at the isolated boundary (R29, R30, R258). -/
def State.isolated (s : State) (a n : Nat) : Option Flt :=
  if ((spanTargets a n).filterMap Target.part).any s.inReset then
    some { src := endpointSrc s.part (if ((target a).part.map s.inReset).getD false then a else a + n - 1), code := cIsolated }
  else none

/-- Reads bytes at an absolute address. -/
def State.peek (s : State) (a n : Nat) : Bytes := memRead 0 s.mem a n

/-! ### The lists in memory (R450) -/

/-- Where a list lies: the lists of a partition follow each other in the context's region of KIND 3 there, in image order, each
at the next multiple of 64 bytes (R450, DESIGN CHOICE, log 35). -/
def State.listAddr (s : State) (c : CtxId) (l : ListCfg) : Option Nat :=
  match (s.regions c).find? fun r => decide (r.kind = 3) && decide (target r.base = .dram (partOf l.part)) with
  | none => none
  | some r =>
    let before := (s.lists c).takeWhile fun m => decide (m ≠ l)
    let off := ((before.filter fun m => decide (m.part = l.part)).map fun m => (m.bytes.length + 63) / 64 * 64).foldl (· + ·) 0
    if off + l.bytes.length ≤ r.size then some (r.base + off) else none

/-- The 64 bytes of a descriptor as they lie in memory, and the uncorrectable word among them (R450, R529). -/
def State.listDesc (s : State) (c : CtxId) (l : ListCfg) (i : Nat) : Bytes × Option Nat :=
  match s.listAddr c l with
  | some a => (s.peek (a + 0x80 + 64 * i) 64, s.badIn (a + 0x80 + 64 * i) 64 false)
  | none => (l.desc i, none)

/-! ### Pairs (R336) -/

/-- The trailing core of a pair that the core leads. -/
def State.trailOf (s : State) (i : CoreId) : Option CoreId :=
  match (s.prt (partOfCore i)).hub.pair with
  | some (l, t) => if coreOf (partOfCore i) l = i then some (coreOf (partOfCore i) t) else none
  | none => none

/-- The leading core of a pair in which the core trails. -/
def State.leadOf (s : State) (i : CoreId) : Option CoreId :=
  match (s.prt (partOfCore i)).hub.pair with
  | some (l, t) => if coreOf (partOfCore i) t = i then some (coreOf (partOfCore i) l) else none
  | none => none

/-- The entries that a queue holds for its core: the hub presents those of the leading core to the trailing core (R336). -/
def State.presented (s : State) (q : QueueId) : List QEntry :=
  match q with
  | .dq _ => (s.queue q).entries
  | .core i k => match s.leadOf i with
    | some l => (s.queue (.core l k)).entries
    | none => (s.queue q).entries

/-- The copy in the Ledge of the trailing core of a place in the Ledge of a leading one (R336). -/
def State.trailAt (s : State) (a : Nat) : Option Nat :=
  match target a with
  | .ledge i => (s.trailOf i).map fun t => ledgeBase t + a % 0x1000000
  | _ => none

/-- A checked read: regions, isolation, uncorrectable words (R35, R30, R529), those of the trailing core's own copy too, which it
reads beside the leading core (R336, R338). -/
def State.load (s : State) (w : Who) (a n : Nat) : Eng Bytes :=
  match s.access w a n false with
  | .error f => .error f
  | .ok x => match s.isolated x n with
    | some f => .error f
    | none => match s.badIn x n false with
      | some k => .error (ueFlt s.part k)
      | none => match (if w.core.isSome then s.trailAt x else none).bind fun y => s.badIn y n false with
        | some k => .error (ueFlt s.part k)
        | none => .ok (s.peek x n)

/-- Whether a range of absolute addresses lies in the Ledges. -/
def inLedges (a : Nat) : Bool := decide (0x020000000000 ≤ a) && decide (a < 0x02000C000000)

/-- Writes bytes at an absolute address: cures the words covered whole (R529), and records the writer of Ledge
lines (R242). -/
def State.poke (s : State) (w : CtxId × BitVec 12) (a : Nat) (b : Bytes) : State :=
  if b.isEmpty then s
  else { s with
    mem := memPut 0 s.mem a b
    bad := s.bad.filter fun k => !(decide (a ≤ k) && decide (k + 8 ≤ a + b.length))
    lineOwner := if inLedges a then
        ((List.range ((a + b.length - 1) / 32 + 1 - a / 32)).map fun i => (a / 32 + i, w)) ++
          s.lineOwner.filter (fun e => decide (e.1 < a / 32) || decide ((a + b.length - 1) / 32 < e.1))
      else s.lineOwner }

/-- A checked write of one block: answers the absolute address, or why it does not take effect. -/
def State.storeAt (s : State) (w : Who) (a n : Nat) : Eng Nat :=
  match s.access w a n true with
  | .error f => .error f
  | .ok x => match s.isolated x n with
    | some f => .error f
    | none => .ok x

/-- The part of a write that takes effect: the part of an uncorrectable word that it covers in part is dropped
(R529). Only the first and the last word of a write can be covered in part. -/
def State.whole (s : State) (a : Nat) (b : Bytes) : Nat × Bytes :=
  let e := a + b.length
  let cut := fun k => s.bad.contains k && !(decide (a ≤ k) && decide (k + 8 ≤ e))
  let lo := if cut (a / 8 * 8) then min e (a / 8 * 8 + 8) else a
  let hi := if cut ((e - 1) / 8 * 8) then max lo ((e - 1) / 8 * 8) else e
  (lo, (b.drop (lo - a)).take (hi - lo))

/-- Writes bytes but for the parts of uncorrectable words (R529). -/
def State.pokePart (s : State) (w : CtxId × BitVec 12) (a : Nat) (b : Bytes) : State :=
  let x := s.whole a b
  s.poke w x.1 x.2

/-- Commits a list of checked writes in order. -/
def State.commit (s : State) (w : CtxId × BitVec 12) (ws : List (Nat × Bytes)) : State :=
  ws.foldl (fun s e => s.pokePart w e.1 e.2) s

/-- The first uncorrectable word that one of the writes covers in part (R529). -/
def State.badOfWrites (s : State) (ws : List (Nat × Bytes)) : Option Nat :=
  if s.bad.isEmpty then none else ws.findSome? fun w => s.badIn w.1 w.2.length true

/-- Checks a list of writes: absolute addresses, or the first failure. -/
def State.checkWrites (s : State) (w : Who) : List (Nat × Bytes) → Eng (List (Nat × Bytes))
  | [] => .ok []
  | (a, b) :: r => match s.storeAt w a b.length with
    | .error f => .error f
    | .ok x => match s.checkWrites w r with
      | .error f => .error f
      | .ok l => .ok ((x, b) :: l)

/-! ### Beads (R54 to R57) -/

/-- A bead's value. -/
def State.bead (s : State) (p : PartId) (i : Nat) : U32 := keyGet 0 (s.prt p).beads i

/-- Sets a bead. -/
def State.setBead (s : State) (p : PartId) (i : Nat) (v : U32) : State :=
  s.onPart p fun x => { x with beads := keyPut 0 x.beads i v }

/-- Adds to a bead modulo 2^32 (R57). -/
def State.addBead (s : State) (p : PartId) (i n : Nat) : State :=
  s.setBead p i (s.bead p i + BitVec.ofNat 32 n)

/-- The wait of R56: (int32)(B − WAIT_THRESH) ≥ 0. -/
def beadReached (b t : U32) : Bool := !(b - t).msb

/-- Whether a bead index is in the context's range of a partition (R35). -/
def State.ownsBead (s : State) (c : CtxId) (p : PartId) (i : Nat) : Bool :=
  let r := s.beadRange c p
  decide (r.1 ≤ i) && decide (i < r.1 + r.2)

/-! ### The ingress FIFO (R259) -/

/-- Bytes that wait in the FIFO of a die; `IFF_LEVEL`. -/
def fifoBytes (d : IoDie) : Nat := sumN (d.fifo.map fun e => sumN (e.writes.map (·.2.length)))

/-- The size of the FIFO. -/
def fifoSize : Nat := 0x800000

/-- The FIFO is full and its writers stall. -/
def IoDie.full (d : IoDie) : Bool := !d.stalled.isEmpty || decide (fifoSize ≤ fifoBytes d)

/-- The FIFO of a die is full and its writers stall. -/
def State.fifoFull (s : State) (d : DieId) : Bool := (s.die d).full

/-! ### What a unit without supply keeps (R12, R475) -/

/-- Drops the bytes of an address window. -/
def dropWindow (s : State) (a n : Nat) : State :=
  { s with mem := memErase s.mem a n, bad := s.bad.filter fun k => decide (k < a) || decide (a + n ≤ k)
           lineOwner := s.lineOwner.filter fun e => decide (e.1 * 32 < a) || decide (a + n ≤ e.1 * 32) }

/-- A core without its logic supply: the accumulator store and the PWL buffer stay in RET. The self-test and fault
history registers are not the core's own. -/
def coreDown (x : CoreRt) (ret : Bool) : CoreRt :=
  { ({} : CoreRt) with
    lst := { x.lst with running := false }, cfh := x.cfh, ldgCe := x.ldgCe, ldgUe := x.ldgUe
    arr := { ({} : ArrRegs) with acc := if ret then x.arr.acc else [] }
    ost := { ({} : OstRegs) with pwl := if ret then x.ost.pwl else none } }

/-! ### Context numbers -/

/-- The context and generation it now has. -/
def State.cg (s : State) (c : CtxId) : CtxId × BitVec 12 := (c, (s.ctx c).gen)

/-- CTXGEN of a record (R353). -/
def ctxGen (c : CtxId) (g : BitVec 12) : U16 := BitVec.ofNat 16 (c.1 * 4096 + g.toNat)

/-- A context by number. -/
def ctxOf (n : Nat) : CtxId := ⟨n % 16, Nat.mod_lt _ (by decide)⟩

/-- The processor's number in R457. -/
def procNum : Proc → Fin 7
  | .svp => 0
  | .pwp => 1
  | .seq0 => 2
  | .seq1 => 3
  | .seq2 => 4
  | .seq3 => 5
  | .tally => 6

/-- The register block of a processor. -/
def State.proc (s : State) (p : Proc) : FwpRegs := s.fwp.get (procNum p)

/-- The PWP runs (R454). -/
def State.pwpRuns (s : State) : Bool := (s.proc .pwp).state = .running

/-- The SVP runs. -/
def State.svpRuns (s : State) : Bool := (s.proc .svp).state = .running

/-- An emergency holds (R462). -/
def State.emergency (s : State) : Bool := s.pwr.emerg || s.pwr.powerEmerg || s.pwr.voltCond

/-- The device state as a number (R7, R491). -/
def devNum : DevState → Nat
  | .boot => 0
  | .selftest => 1
  | .configured => 2
  | .run => 3
  | .degraded => 4
  | .safe => 5
  | .replay => 6

/-- The context state as a number (R36). -/
def ctxNum : CtxState → Nat
  | .idle => 0
  | .starting => 1
  | .run => 2
  | .draining => 3
  | .faulted => 4

/-- The verdict as a number (R79). -/
def verdictNum : Verdict → Nat
  | .none => 0
  | .pass => 1
  | .degraded => 2
  | .fail => 3

/-- The state of the recorder as a number (R386). -/
def recNum : RecState → Nat
  | .recording => 0
  | .postWindow => 1
  | .frozen => 2
  | .disabled => 3

end Sys2Proof.Machine
end

