-- ==== Sys2Proof/Machine/Flags.lean ====
section
/-!
DEFINITION. Machine/Flags.lean: the descriptor header with its flags (R49 to R51), the FLAGS of a result record
(R80) and the CRC of a descriptor with the feeder's rewrite of GEN (R450).
-/

namespace Sys2Proof.Machine

/-- The header of a descriptor (R49). -/
structure Hdr where
  /-- OPCODE. -/
  opcode : Nat
  /-- FLAGS. -/
  flags : Nat
  /-- CTX. -/
  ctx : CtxId
  /-- GEN. -/
  gen : BitVec 12
  /-- SIG_INC. -/
  sigInc : Nat
  /-- QSEQ. -/
  qseq : BitVec 12
  /-- STAGE. -/
  stage : Nat
  /-- WAIT_BEAD. -/
  waitBead : Nat
  /-- Word 1 [31:29], reserved. -/
  rsv : Nat
  /-- WAIT_THRESH. -/
  thresh : U32
  /-- SIG_BEAD: index. -/
  sigIdx : Nat
  /-- SIG_BEAD: partition. -/
  sigPart : PartId
  /-- SIG_DEV. -/
  sigDev : Nat
  /-- CRC. -/
  crc : BitVec 16
  deriving DecidableEq, Repr

/-- Reads the header of a descriptor (R49). -/
def hdrOf (b : Bytes) : Hdr :=
  let w0 := fld b 0 4
  let w1 := fld b 4 4
  let w3 := fld b 12 4
  { opcode := bits w0 7 0, flags := bits w0 11 8, ctx := ctxOf (bits w0 15 12), gen := BitVec.ofNat 12 (bits w0 27 16),
    sigInc := bits w0 31 28, qseq := BitVec.ofNat 12 (bits w1 11 0), stage := bits w1 16 12,
    waitBead := bits w1 28 17, rsv := bits w1 31 29, thresh := BitVec.ofNat 32 (fld b 8 4),
    sigIdx := bits w3 11 0, sigPart := partOf (bits w3 13 12), sigDev := bits w3 15 14,
    crc := BitVec.ofNat 16 (bits w3 31 16) }

/-- WAIT_EN (R50). -/
def Hdr.waitEn (h : Hdr) : Bool := bit h.flags 0
/-- SIG_RING (R50). -/
def Hdr.sigRing (h : Hdr) : Bool := bit h.flags 1
/-- GOLDEN (R50). -/
def Hdr.golden (h : Hdr) : Bool := bit h.flags 2
/-- STAGE_END (R50). -/
def Hdr.stageEnd (h : Hdr) : Bool := bit h.flags 3

/-- The CRC of a descriptor: bytes 0 to 13, then 16 to 63 (R51). -/
def descCrc (b : Bytes) : BitVec 16 := crc16 (slice b 0 14 ++ slice b 16 48)

/-- One byte of the linear part of CRC-16. -/
def crcLin (b : Bytes) : BitVec 16 := b.foldl crc16Step 0#16

/-- The feeder's copy of a descriptor: GEN written, CRC changed by the difference of the GEN field alone (R450). -/
def withGen (b : Bytes) (g : BitVec 12) : Bytes :=
  let b2 := (b.getD 2 0)
  let b3 := (b.getD 3 0)
  let n2 : Byte := g.setWidth 8
  let n3 : Byte := (b3 &&& 0xF0#8) ||| ((g >>> 8).setWidth 8)
  let d := crcLin (zeros 2 ++ [b2 ^^^ n2, b3 ^^^ n3] ++ zeros 58)
  let c14 := (b.getD 14 0) ^^^ d.setWidth 8
  let c15 := (b.getD 15 0) ^^^ (d >>> 8).setWidth 8
  slice b 0 2 ++ [n2, n3] ++ slice b 4 10 ++ [c14, c15] ++ slice b 16 48

/-- The queue kinds an opcode may stand on (R46, R53): 5 any, else the number of R358; none when reserved. -/
def opQueue (op : Nat) : Option Nat :=
  match op with
  | 0x00 | 0x01 => some 5
  | 0x10 | 0x11 | 0x12 | 0x13 | 0x18 | 0x19 => some 3
  | 0x20 | 0x21 => some 0
  | 0x30 => some 1
  | 0x40 | 0x41 | 0x42 | 0x43 | 0x44 | 0x45 | 0x46 | 0x47 | 0x48 | 0x49 => some 2
  | 0x50 => some 4
  | _ => none

/-- DETAIL of a fault of classes 2 and 5 (R358). -/
def descDetail (q : QueueId) (h : Hdr) (origin : Fin 4) : Nat :=
  h.opcode + h.qseq.toNat * 2 ^ 8 + h.stage * 2 ^ 20 + qNum q * 2 ^ 25 + origin.1 * 2 ^ 28

/-! ### FLAGS of the result record (R80) -/

/-- OUT_OF_RANGE. -/
def fOutOfRange : Nat := 0
/-- INCOMPLETE. -/
def fIncomplete : Nat := 1
/-- TRUNCATED. -/
def fTruncated : Nat := 2
/-- TRIGGER_LATE. -/
def fTriggerLate : Nat := 3
/-- TRIGGER_MISSED. -/
def fTriggerMissed : Nat := 4
/-- SCALE_STALE. -/
def fScaleStale : Nat := 5
/-- DEGRADED_WINDOWS. -/
def fDegradedWin : Nat := 6
/-- UNPAIRED. -/
def fUnpaired : Nat := 7
/-- OUTPUT_DIGEST. -/
def fOutputDigest : Nat := 8
/-- REPLAY. -/
def fReplay : Nat := 9
/-- RELAXED. -/
def fRelaxed : Nat := 10
/-- HOST_ABSENT. -/
def fHostAbsent : Nat := 11
/-- CHECKPOINT. -/
def fCheckpoint : Nat := 12
/-- ARRIVAL_TIMEOUT. -/
def fArrivalTimeout : Nat := 13

/-- A flag bit as a word. -/
def flagBit (i : Nat) (v : Bool) : U32 := if v then 1#32 <<< i else 0

/-- Latches a flag of the frame in flight (R80). -/
def setFlag (s : State) (c : CtxId) (i : Nat) : State :=
  s.onFrame c fun f => { f with flags := f.flags ||| flagBit i true }

end Sys2Proof.Machine
end

