-- ==== Sys2Proof/Machine/Operands.lean ====
section
/-!
DEFINITION. Machine/Operands.lean: operand forms shared by the engines: address fields (R65), layouts and codes
(R164), and the view of a queue entry that an engine runs.
-/

namespace Sys2Proof.Machine

/-- An address field (R65). -/
structure AddrField where
  /-- [47:0]. -/
  addr : Nat
  /-- [49:48]. -/
  ring : Nat
  /-- [50]. -/
  remote : Bool
  /-- [63:51], reserved. -/
  rsv : Nat
  deriving DecidableEq, Repr

/-- Reads an address field (R65). -/
def addrField (b : Bytes) (o : Nat) : AddrField :=
  let v := fld b o 8
  { addr := bits v 47 0, ring := bits v 49 48, remote := bit v 50, rsv := bits v 63 51 }

/-- The field names a place on this device: no REMOTE, or its own ring ID (R415). -/
def State.isLocal (s : State) (a : AddrField) : Bool := !a.remote || decide (a.ring = s.rng.id.toNat)

/-- Layouts (R164, R174). -/
inductive Layout where
  | cb16 | cb32 | c4 | raw
  deriving DecidableEq, Repr

/-- Layout number of R92, R153, R187, R190: 0 CB16, 1 CB32, 2 C4, 3 RAW. -/
def layoutOf : Nat → Layout
  | 0 => .cb16
  | 1 => .cb32
  | 2 => .c4
  | _ => .raw

/-- Channels of a block. -/
def Layout.block : Layout → Nat
  | .cb16 => 16
  | .cb32 => 32
  | .c4 => 4
  | .raw => 1

/-- A tensor's geometry: layout, W, H, C and bits of a code (4, 8 or 16). -/
structure Geo where
  /-- Layout. -/
  lay : Layout
  /-- Width. -/
  w : Nat
  /-- Height. -/
  h : Nat
  /-- Channels. -/
  c : Nat
  /-- Bits of a code. -/
  cbits : Nat
  deriving DecidableEq, Repr

/-- Index of a code in 8-bit offsets (R164). -/
def Geo.idx (g : Geo) (c x y : Nat) : Nat :=
  ((c / g.lay.block * g.h + y) * g.w + x) * g.lay.block + c % g.lay.block

/-- Byte offset of a code (R164). -/
def Geo.off (g : Geo) (c x y : Nat) : Nat := g.idx c x y * g.cbits / 8

/-- Blocks of channels. -/
def Geo.blocks (g : Geo) : Nat := (g.c + g.lay.block - 1) / g.lay.block

/-- Bytes of the whole tensor, padding channels included (R164). -/
def Geo.bytes (g : Geo) : Nat := g.blocks * g.h * g.w * g.lay.block * g.cbits / 8

/-- The code of channel `c` at (x, y) in the tensor's bytes. -/
def Geo.get (g : Geo) (b : Nat → Nat) (c x y : Nat) : Nat :=
  let o := g.off c x y
  if g.cbits = 4 then (b o >>> (4 * (c % 2))) % 16
  else if g.cbits = 16 then b o + 256 * b (o + 1)
  else b o

/-- Bytes of codes of 8 or 16 bits, little-endian. -/
def codeBytes (cbits v : Nat) : Bytes := if cbits = 16 then le 2 v else le 1 v

/-! ### Lists of a frame (R47, R64, R450) -/

/-- The origin index of a list (R47). -/
def ListCfg.origin (l : ListCfg) : Fin 4 := if l.queue = 4 then 3 else ⟨l.slot % 3, by omega⟩

/-- The lists that a frame runs: for each queue of a slot, the split of the frame, else split 0 (R64). -/
def State.frameLists (s : State) (c : CtxId) : List ListCfg :=
  let all := s.lists c
  let k := (s.ctx c).frame.split
  all.filter fun l => decide (l.split = k) || (decide (l.split = 0) &&
    !all.any fun m => decide (m.split = k) && decide (m.part = l.part) && decide (m.slot = l.slot) && decide (m.queue = l.queue))

/-- Descriptors of a list fed so far in the frame. -/
def State.fedOf (s : State) (c : CtxId) (l : ListCfg) : Nat := tabGet 0 (s.ctx c).frame.fed (BitVec.ofNat 16 l.index)

/-- The hardware queue that runs a list now: by the slot map (R236). -/
def State.listQueue (s : State) (l : ListCfg) : QueueId :=
  let p := partOf l.part
  let k : QKind := match l.queue with
    | 0 => .aq
    | 1 => .sq
    | 2 => .xq
    | _ => .mq
  if l.queue = 4 then .dq p else .core (coreOf p ((s.prt p).slotMap.get ⟨l.slot % 3, Nat.mod_lt _ (by decide)⟩)) k

/-- Every descriptor of the frame has been fed and has left its queue (R39). -/
def State.frameDone (s : State) (c : CtxId) : Bool :=
  (s.frameLists c).all (fun l => decide (l.ndesc ≤ s.fedOf c l)) &&
  !allQueues.any fun q => (s.queue q).entries.any fun e => decide (e.ctx = c)

/-- The list that an entry of the frame comes from. -/
def State.listOf (s : State) (c : CtxId) (q : QueueId) (origin : Fin 4) : Option ListCfg :=
  (s.frameLists c).find? fun l => l.part = (qPart q).1 && l.queue = qNum q && (l.queue = 4 || l.slot = origin.1)

/-- GOLDEN descriptors of a stage completed in the queue. -/
def goldCount (x : QueueRt) (c : CtxId) (origin : Fin 4) (st : Nat) : Nat := tabGet 0 x.golden (c, origin, st)

/-- The check that a descriptor at the head of its queue fails: stage order and golden order, each by the origin of the
list, since a queue may run the lists of several slots (R44, R45, R365). -/
def State.headFault (s : State) (q : QueueId) : Option U16 :=
  let x := s.queue q
  match x.entries with
  | [] => none
  | e :: _ =>
    let h := hdrOf e.bytes
    let need := ((s.listOf e.ctx q e.origin).map fun l => l.ngold h.stage).getD 0
    if e.executed then none
    else if h.stage < ((x.lastStage.get e.ctx).get e.origin).toNat then some cStageOrder
    else if !h.golden && decide (goldCount x e.ctx e.origin h.stage < need) then some cGoldenOrder
    else none

/-! ### The descriptor an engine runs -/

/-- A queue entry at the head of its queue, ready to start. -/
structure Job where
  /-- The queue. -/
  q : QueueId
  /-- The entry. -/
  e : QEntry
  /-- Its header. -/
  h : Hdr
  /-- Its payload, 48 bytes. -/
  p : Bytes
  /-- Who issues its accesses. -/
  who : Who
  deriving DecidableEq, Repr

/-- Source type of the engine of a queue (R356). -/
def qEngine : QueueId → Nat
  | .core _ .aq => 0x01
  | .core _ .sq => 0x03
  | .core _ .xq => 0x04
  | .core _ .mq => 0x05
  | .dq _ => 0x09

/-- Source ID of a block type beside a queue. -/
def qSrc (q : QueueId) (ty : Nat) : U16 :=
  match q with
  | .core c _ => srcCore ty c
  | .dq p => srcPart ty p

/-- A core takes part in a hand-over that is not complete (R70). -/
def State.inHandover (s : State) (q : QueueId) : Bool :=
  match qCore? q with
  | none => false
  | some c => match (s.prt (qPart q)).hub.want with
    | none => false
    | some w => slotOfCore c = w.1 || slotOfCore c = w.2.1

/-- The queue's core takes part in a PAIR or SPLIT of the head's frame that has not completed: the other descriptors of the
frame on both cores wait (R70). -/
def State.pairAhead (s : State) (q : QueueId) (c : CtxId) : Bool :=
  match qCore? q with
  | none => false
  | some i => (s.frameLists c).any fun l =>
    let h := hdrOf (l.desc 0)
    let lead := coreOf (qPart q) ⟨l.slot % 3, Nat.mod_lt _ (by decide)⟩
    let trail := coreOf (qPart q) ⟨byteAt (l.desc 0) 16 % 3, Nat.mod_lt _ (by decide)⟩
    decide (l.part = (qPart q).1) && decide (l.queue = 3) && (h.opcode = 0x18 || h.opcode = 0x19) && (i = lead || i = trail) &&
    (decide (s.fedOf c l = 0) || (s.queue (s.listQueue l)).entries.any fun e =>
      decide (e.ctx = c) && decide (e.origin = l.origin) && decide ((hdrOf e.bytes).qseq = 0))

/-- The wait of a descriptor is satisfied (R56). -/
def State.waitDone (s : State) (q : QueueId) (h : Hdr) : Bool :=
  !h.waitEn || beadReached (s.bead (qPart q) h.waitBead) h.thresh

/-- A self-test segment runs on the queue's core or on its trailing core: no descriptor starts (R346, R347). -/
def State.inSegment (s : State) (q : QueueId) : Bool :=
  match qCore? q with
  | some i => (s.core i).lst.running || ((s.trailOf i).map fun t => (s.core t).lst.running).getD false
  | none => false

/-- The data path of the queue's core and Ledge is not held (R479). -/
def State.queueLive (s : State) (q : QueueId) : Bool :=
  match qCore? q with
  | some i => s.domLive i.1 && s.domLive (0x10 + i.1)
  | none => true

/-- The head entry of a queue that is free to start: not executed, its checks passed, its wait satisfied, its cores not in
or before a hand-over or in a self-test segment, its partition in service, its data path not held (R44, R45, R56, R60, R70, R346,
R479). -/
def State.job (s : State) (q : QueueId) (ok : Nat → Bool) : Option Job :=
  match (s.queue q).entries with
  | [] => none
  | e :: _ =>
    let h := hdrOf e.bytes
    if ok h.opcode && !e.executed && s.waitDone q h && !s.inHandover q && !s.inSegment q && !s.inReset (qPart q) && !s.isOffline (qPart q)
      && s.queueLive q && (s.headFault q).isNone && (h.opcode = 0x18 || h.opcode = 0x19 || !s.pairAhead q e.ctx)
    then some { q := q, e := e, h := h, p := e.bytes.drop 16
                who := { ctx := h.ctx, gen := h.gen, part := qPart q, core := qCore? q, src := qSrc q (qEngine q)
                         detail := descDetail q h e.origin } }
    else none

/-- The head entry of a queue, updated. -/
def State.onHead (s : State) (q : QueueId) (f : QEntry → QEntry) : State :=
  s.onQueue q fun x => { x with entries := match x.entries with
    | [] => []
    | e :: r => f e :: r }

/-! ### The payload of a Screen descriptor (R213, R214, R217) -/

/-- An operand of a Screen descriptor: a Ledge offset or a device address (R214). -/
structure Opd where
  /-- LOC bit. -/
  led : Bool
  /-- Offset or address. -/
  base : Nat
  deriving DecidableEq, Repr

/-- A Screen payload (R213). -/
structure ScreenP where
  /-- A, B, C, D. -/
  a : Opd
  /-- B. -/
  b : Opd
  /-- C. -/
  c : Opd
  /-- D. -/
  d : Opd
  /-- N. -/
  n : Nat
  /-- CAP. -/
  cap : Nat
  /-- Parameter block offset. -/
  pb : Nat
  /-- DYN. -/
  dyn : Bool
  /-- Count offset. -/
  cnt : Nat
  /-- OPT. -/
  opt : Nat
  deriving DecidableEq, Repr

/-- An operand field of a payload. -/
def opdOf (p : Bytes) (i : Nat) : Opd := ⟨bit (byteAt p 43) i, fld p (8 * i) 6⟩

/-- Reads a Screen payload (R213). -/
def screenOf (p : Bytes) : ScreenP :=
  { a := opdOf p 0, b := opdOf p 1, c := opdOf p 2, d := opdOf p 3, n := fld p 32 4, cap := fld p 36 4, pb := fld p 40 3
    dyn := bit (byteAt p 43) 4, cnt := fld p 44 3, opt := byteAt p 47 }

/-- ESZ of OPT in bytes (R217). -/
def ScreenP.esz (x : ScreenP) : Nat := 4 * 2 ^ (x.opt % 4)

/-- Lengths of the operands as far as the payload gives them (R217). -/
def screenLens (op : Nat) (x : ScreenP) : List Nat :=
  let e := x.esz
  match op with
  | 0x40 => [x.cap * e, x.n * (if bit x.opt 2 then 8 else 4), x.n * e, 0]
  | 0x41 => [x.n * e, 4 * x.n, x.cap * e, 0]
  | 0x42 => [8 * x.n, 0, 8 * x.n, 8 * x.n]
  | 0x43 => [8 * x.n, 0, 8 * x.cap, 4]
  | 0x44 => [16 * x.n, 0, 16 * x.cap, 4 * x.n]
  | 0x45 => [16 * x.n, 0, 0, 4 * x.n]
  | 0x46 => [4 * x.n * (x.opt / 4 + 1), 4 * x.n, 4 * x.cap * (x.opt / 4 + 1), 4 * x.cap]
  | 0x47 => [x.n * e, x.n, x.cap * (if bit x.opt 2 then 4 else e), 4]
  | 0x48 => [0, 0, 4 * x.n, 4 * x.cap]
  | _ => [0, 8 * x.n, 0, 0]

/-- The operands of a payload with the lengths it gives; the last two or three are written. -/
def screenSpans (op : Nat) (x : ScreenP) : List (Opd × Nat × Bool) :=
  let l := screenLens op x
  [(x.a, l.getD 0 0, false), (x.b, l.getD 1 0, decide (op = 0x44)), (x.c, l.getD 2 0, true), (x.d, l.getD 3 0, true)]

end Sys2Proof.Machine
end

