-- ==== Sys2Proof/Machine/Numerics.lean ====
section
/-!
DEFINITION. Machine/Numerics.lean: the exact arithmetic of codes and scales (R120 to R137, R158), shared by the
Reckoner, the Sett engine, the Crusher, the flow parser and SCALE_ADAPT.
-/

namespace Sys2Proof.Machine

/-- v × 2^−s rounded to nearest, ties to even (R128). -/
def rneShr (v : Int) (s : Nat) : Int :=
  let q := v / (2 ^ s : Nat)
  let rem := v - q * (2 ^ s : Nat)
  let half : Int := (2 ^ (s - 1) : Nat)
  if half < rem ∨ (rem = half ∧ q % 2 = 1) then q + 1 else q

/-- n / d rounded to nearest, ties to even, for d above 0 (R161, R202). -/
def rneDiv (n : Int) (d : Nat) : Int :=
  let q := n / d
  let rem := n - q * d
  if (d : Int) < 2 * rem ∨ (2 * rem = d ∧ q % 2 = 1) then q + 1 else q

/-- Saturation to 48 bits (R129). -/
def sat48 (v : Int) : Int := satS 48 v

/-! ### Residues (R331) -/

/-- r(v) (R331). -/
def residue (v : Int) : Nat := (v % 3).toNat

/-- Predicted residue of a sum. -/
def predAdd (a b : Nat) : Nat := (a + b) % 3

/-- Predicted residue of a difference. -/
def predSub (a b : Nat) : Nat := (a + 3 - b % 3) % 3

/-- Predicted residue of a product. -/
def predMul (a b : Nat) : Nat := a * b % 3

/-- Predicted residue of v × (−1)^s: of a shift by s to the left, and of an exact shift to the right. -/
def predShift (a s : Nat) : Nat := if s % 2 = 0 then a % 3 else (3 - a % 3) % 3

/-- Predicted residue of rne_shr, from the residue of v, the remainder and the increment of the rounding. -/
def predRneShr (v : Int) (s : Nat) : Nat :=
  let q := v / (2 ^ s : Nat)
  predAdd (predShift (predSub (residue v) (residue (v - q * (2 ^ s : Nat)))) s) (residue (rneShr v s - q))

/-- Predicted residue of a saturation or clamp: of the bound where it is taken, else of the value. -/
def predSat (pred : Nat) (v out : Int) : Nat := if out = v then pred else residue out

/-- An SC16 code is valid (R120). -/
def scValid (sc : Nat) : Bool := decide (sc = 0) || decide (2048 ≤ sc)

/-- Significand of a code (R121). -/
def scMs (sc : Nat) : Nat := 2048 + sc % 2048

/-- The rescale of an integer by an SC16 scale, before the clamp (R128). -/
def rescaleRaw (p : Int) (sc : Nat) : Int :=
  if sc = 0 then 0
  else
    let e := sc / 2048
    let t := p * (scMs sc : Int)
    if 10 ≤ e then t * (2 ^ (e - 10) : Nat) else rneShr t (10 - e)

/-- The rescale of R128. -/
def rescale (p : Int) (sc : Nat) : Int := sat48 (rescaleRaw p sc)

/-- Predicted residue of the rescale (R128, R331). -/
def predRescale (p : Int) (sc : Nat) : Nat :=
  if sc = 0 then 0
  else
    let e := sc / 2048
    let t := predMul (residue p) (residue (scMs sc))
    predSat (if 10 ≤ e then predShift t (e - 10) else predRneShr (p * (scMs sc : Int)) (10 - e)) (rescaleRaw p sc) (rescale p sc)

/-- The result of a watched operation; a clamp takes a bound where the value lies beyond it. -/
def opResult : ResidueOp → Int
  | .add a b => a + b
  | .sub a b => a - b
  | .mul a b => a * b
  | .shl v s => v * (2 ^ s : Nat)
  | .rneShr v s => rneShr v s
  | .select a b second => if second then b else a
  | .clamp v lo hi => max lo (min v hi)
  | .rescale p sc => rescale p sc

/-- The residue that the checker predicts from the operands (R331). -/
def opPred : ResidueOp → Nat
  | .add a b => predAdd (residue a) (residue b)
  | .sub a b => predSub (residue a) (residue b)
  | .mul a b => predMul (residue a) (residue b)
  | .shl v s => predShift (residue v) s
  | .rneShr v s => predRneShr v s
  | .select a b second => if second then residue b else residue a
  | .clamp v lo hi => predSat (residue v) v (max lo (min v hi))
  | .rescale p sc => predRescale p sc

/-- A bit of a value in two's complement flips. -/
def flipBit (v : Int) (i : Nat) : Int := if v / (2 ^ i : Nat) % 2 = 0 then v + (2 ^ i : Nat) else v - (2 ^ i : Nat)

/-- The checker finds another residue in the result than the one it predicted (R331). -/
def caught (u : ResidueUpset) : Bool := decide (residue (flipBit (opResult u.op) u.bit) ≠ opPred u.op)

/-- A checker of the engine's own datapath finds a mismatch in the run (R331). -/
def residueBad (f : Facts) : Bool := f.residue.any caught

/-- The checker of the accumulate path finds a mismatch in the run (R331). -/
def accResidueBad (f : Facts) : Bool := f.accResidue.any caught

/-- The rescale clamps (R129). -/
def rescaleClamps (p : Int) (sc : Nat) : Bool := decide (rescale p sc ≠ rescaleRaw p sc)

/-- An OSC word is a valid output scale (R131, R122). -/
def oscValid (osc : Nat) : Bool := decide (osc / 2 ^ 21 = 0) && scValid (osc % 65536)

/-- Output quantisation: OSC word, zero point, limits (R132). -/
structure Quant where
  /-- OSC word. -/
  osc : Nat
  /-- ZP_OUT. -/
  zp : Nat
  /-- QMIN. -/
  qmin : Nat
  /-- QMAX. -/
  qmax : Nat
  deriving DecidableEq, Repr

/-- x of R132 as t × 2^−s: numerator and shift. -/
def Quant.x (k : Quant) (v : Int) : Int × Nat :=
  let sc := k.osc % 65536
  if sc = 0 then (0, 0) else (v * (scMs sc : Int), 42 + k.osc / 65536 % 32 - sc / 2048)

/-- The unclamped code of a value (R132). -/
def Quant.raw (k : Quant) (v : Int) : Int :=
  let x := k.x v
  satS 32 (rneShr x.1 x.2) + k.zp

/-- The code of a value (R132). -/
def Quant.code (k : Quant) (v : Int) : Nat := (clampI (k.raw v) k.qmin k.qmax).toNat

/-- The element counts as a saturation (R133). -/
def Quant.saturates (k : Quant) (v : Int) : Bool :=
  (decide ((k.qmax : Int) < k.raw v) && decide (k.zp < k.qmax)) || (decide (k.raw v < k.qmin) && decide (k.qmin < k.zp))

/-- P8[k] (R137). -/
def p8 : Nat → Nat
  | 0 => 65536
  | 1 => 71468
  | 2 => 77936
  | 3 => 84990
  | 4 => 92682
  | 5 => 101070
  | 6 => 110218
  | _ => 120194

/-- |x| ≥ L × 2^(i/8) with |x| = n × 2^−s (R137). -/
def geEdge (n s l : Nat) (i : Int) : Bool :=
  let a := i / 8
  let k := (i % 8).toNat
  if 0 ≤ a then decide (l * p8 k * 2 ^ a.toNat * 2 ^ s ≤ n * 65536)
  else decide (l * p8 k * 2 ^ s ≤ n * 65536 * 2 ^ (-a).toNat)

/-- The bin of an element of magnitude n × 2^−s on a side with limit `l` (R136). -/
def statBin (n s l : Nat) : Nat :=
  if l = 0 then 0 else ((List.range 63).filter fun (j : Nat) => geEdge n s l (2 * ((j : Int) - 48))).length

/-- Statistics that a descriptor gathers for one slot (R134, R136). -/
structure StatAcc where
  /-- Bin counts, bins rising. -/
  bins : List (Nat × Nat) := []
  /-- MAXP. -/
  maxp : Nat := 0
  /-- MAXN. -/
  maxn : Nat := 0
  /-- SAT. -/
  sat : Nat := 0
  /-- ZGROUP. -/
  zgroup : Nat := 0
  deriving DecidableEq, Repr

/-- One requantised element (R136). -/
def StatAcc.add (a : StatAcc) (k : Quant) (v : Int) : StatAcc :=
  let x := k.x v
  let n := x.1.natAbs
  let pos := decide (0 ≤ x.1)
  let l := if pos then k.qmax - k.zp else k.zp - k.qmin
  let b := statBin n x.2 l
  let m := min (2 ^ 48 - 1) (n * 65536 / 2 ^ x.2)
  { a with
    bins := keyPut 0 a.bins b (keyGet 0 a.bins b + 1)
    maxp := if pos then max a.maxp m else a.maxp
    maxn := if pos then a.maxn else max a.maxn m
    sat := a.sat + b2n (k.saturates v) }

/-- Posts gathered statistics into a slot, saturating (R135, R139). -/
def StatSlot.post (t : StatSlot) (a : StatAcc) : StatSlot :=
  let s := sat32 t.sat a.sat
  { t with
    bins := Vector.ofFn fun i => sat32 (t.bins.get i) (keyGet 0 a.bins i.1)
    maxp := BitVec.ofNat 48 (max t.maxp.toNat a.maxp)
    maxn := BitVec.ofNat 48 (max t.maxn.toNat a.maxn)
    sat := s
    zgroup := sat32 t.zgroup a.zgroup
    overBit := t.overBit || (decide (t.sat ≠ s) && decide (t.thresh < s)) }

/-- A slot is assigned to a context (R134). -/
def State.ownsSlot (s : State) (p : PartId) (c : CtxId) (i : Nat) : Bool :=
  if h : i < 256 then
    let t := (s.prt p).stats.get ⟨i, h⟩
    t.assigned && decide (t.owner = c)
  else false

/-- The fields of a slot that a frame start clears (R134). -/
def StatSlot.clear (t : StatSlot) : StatSlot :=
  { thresh := t.thresh, owner := t.owner, assigned := t.assigned }

/-- Posts statistics to a slot of a partition and latches OUT_OF_RANGE of the owner's frame (R134, R139). -/
def postStats (s : State) (p : PartId) (c : CtxId) (i : Nat) (a : StatAcc) : State :=
  if h : i < 256 then
    let t := ((s.prt p).stats.get ⟨i, h⟩).post a
    let was := ((s.prt p).stats.get ⟨i, h⟩).overBit
    let s := s.onPart p fun x => { x with stats := x.stats.set i t }
    if t.overBit && !was then setFlag s c fOutOfRange else s
  else s

/-- Activations (R158). -/
inductive Act where
  | none
  | relu
  | clip (lo hi : Int)
  | leaky (lk : Nat)
  /-- X0, PWL_SH, and the 2 KiB table of 256 entries (R159). -/
  | pwl (x0 : Int) (sh : Nat) (table : Bytes)
  deriving DecidableEq, Repr

/-- The activation of a value (R158). -/
def Act.apply (a : Act) (v : Int) : Int :=
  match a with
  | .none => v
  | .relu => max v 0
  | .clip lo hi => min (max v lo) hi
  | .leaky lk => if 0 ≤ v then v else rneShr (v * lk) 15
  | .pwl x0 sh t =>
    let u := v - x0
    let k := u / (2 ^ sh : Nat)
    let i := if u < 0 then 0 else if 255 < k then 255 else k.toNat
    let f := u - (i * 2 ^ sh : Nat)
    sat48 (sgn 32 (fld t (8 * i) 4) + rneShr (f * sgn 16 (fld t (8 * i + 4) 2)) 12)

/-! ### The scale table (R140, R141) -/

/-- The address of a context's scale table: its region of KIND 4. -/
def State.scaleTable (s : State) (c : CtxId) : Option Nat :=
  ((s.regions c).find? fun r => r.kind = 4).map (·.base)

/-- Tag of a half. -/
def State.scaleTag (s : State) (t : Nat) (half : Bool) : U32 :=
  BitVec.ofNat 32 (fld (s.peek (t + if half then 4 else 0) 4) 0 4)

/-- The half that a frame reads and whether it falls back (R72, R141). Of two tags exactly 2^31 apart neither is the higher by
the rule; the model then reads half 0: DESIGN CHOICE (log 50). -/
def State.scaleHalfOf (s : State) (t : Nat) (f : U32) : Bool × Bool :=
  let a := s.scaleTag t false
  let b := s.scaleTag t true
  if a = f then (false, false)
  else if b = f then (true, false)
  else (decide (a ≠ b) && !(b - a).msb, true)

/-- Address of an entry: half 0, half 1, or GOLD (2). -/
def scaleAddr (t n half e : Nat) : Nat := t + 0x40 + 4 * n * half + 4 * e

/-- The scale that requantisation uses (R155): an OSC word. -/
def State.chooseScale (s : State) (c : CtxId) (adaptive golden : Bool) (scale : Nat) : Nat :=
  if !adaptive then scale
  else match s.scaleTable c with
    | none => 0xFFFFFFFF
    | some t =>
      let half := if golden then 2 else b2n (s.ctx c).frame.scaleHalf
      fld (s.peek (scaleAddr t (s.scaleN c) half (scale % 4096)) 4) 0 4

end Sys2Proof.Machine
end

