-- ==== Sys2Proof/Machine/Pixels.lean ====
section
/-!
DEFINITION. Machine/Pixels.lean: CSI-2 data types of R175, the stream profile of R175 and the flow profile and
template of R275 and R276 as the hardware reads them.
-/

namespace Sys2Proof.Machine

/-- The data types that a profile may name (R175). -/
def profTypes : List Nat := [0x2A, 0x2B, 0x2C, 0x2D, 0x2E, 0x1E, 0x1F, 0x24]

/-- Bits of a sample of a data type (R175). -/
def dtBits (dt : Nat) : Nat :=
  match dt with
  | 0x2B | 0x1F => 10
  | 0x2C => 12
  | 0x2D => 14
  | 0x2E => 16
  | _ => 8

/-- RAW data types. -/
def dtRaw (dt : Nat) : Bool := [0x2A, 0x2B, 0x2C, 0x2D, 0x2E].contains dt

/-- Samples of a pixel: RAW 1, YUV422 2, RGB888 3. -/
def dtSamples (dt : Nat) : Nat := if dtRaw dt then 1 else if dt = 0x24 then 3 else 2

/-- Samples and bytes of a packing group, PRESUMED from MIPI CSI-2 (log 10). -/
def dtGroup (dt : Nat) : Nat × Nat :=
  match dtBits dt with
  | 10 => (4, 5)
  | 12 => (2, 3)
  | 14 => (4, 7)
  | 16 => (1, 2)
  | _ => (1, 1)

/-- Bytes of a line of `w` pixels (R181). -/
def lineLen (dt w : Nat) : Nat :=
  let g := dtGroup dt
  (w * dtSamples dt + g.1 - 1) / g.1 * g.2

/-- Sample `i` of a packed line (log 10). -/
def sampleAt (dt : Nat) (b : Bytes) (i : Nat) : Nat :=
  let g := dtGroup dt
  let o := i / g.1 * g.2
  let k := i % g.1
  match dtBits dt with
  | 10 => byteAt b (o + k) * 4 + bits (byteAt b (o + 4)) (2 * k + 1) (2 * k)
  | 12 => byteAt b (o + k) * 16 + bits (byteAt b (o + 2)) (4 * k + 3) (4 * k)
  | 14 => byteAt b (o + k) * 64 + bits (fld b (o + 4) 3) (6 * k + 5) (6 * k)
  | 16 => fld b o 2
  | _ => byteAt b o

/-- A stream profile (R175). -/
structure StreamProf where
  /-- The bytes of the section. -/
  b : Bytes
  deriving DecidableEq, Repr

namespace StreamProf
/-- SRC port. -/
def port (x : StreamProf) : Nat := bits (byteAt x.b 0) 2 0
/-- SRC die. -/
def die (x : StreamProf) : Nat := bits (byteAt x.b 0) 3 3
/-- SRC virtual channel. -/
def vc (x : StreamProf) : Nat := bits (byteAt x.b 0) 5 4
/-- DT. -/
def dt (x : StreamProf) : Nat := byteAt x.b 1
/-- MODE: 0 OFF, 1 PROCESS, 2 RAW_PASS. -/
def mode (x : StreamProf) : Nat := bits (byteAt x.b 3) 1 0
/-- Crusher of the die. -/
def cru (x : StreamProf) : Nat := bits (byteAt x.b 3) 2 2
/-- CFA. -/
def cfa (x : StreamProf) : Nat := bits (byteAt x.b 4) 1 0
/-- MONO. -/
def mono (x : StreamProf) : Bool := bit (byteAt x.b 4) 2
/-- BIN. -/
def bin (x : StreamProf) : Bool := bit (byteAt x.b 4) 3
/-- Layout of the output. -/
def lay (x : StreamProf) : Layout := if bit (byteAt x.b 5) 0 then .cb16 else .c4
/-- Channels: 0 RGB, 1 BGR, 2 Y. -/
def chan (x : StreamProf) : Nat := bits (byteAt x.b 5) 2 1
/-- OUT_ZP. -/
def zp (x : StreamProf) : Nat := byteAt x.b 6
/-- IN_W. -/
def inW (x : StreamProf) : Nat := fld x.b 0x08 2
/-- IN_H. -/
def inH (x : StreamProf) : Nat := fld x.b 0x0A 2
/-- Crop window: CX0, CY0, CW, CH. -/
def crop (x : StreamProf) : Nat × Nat × Nat × Nat := (fld x.b 0x0C 2, fld x.b 0x0E 2, fld x.b 0x10 2, fld x.b 0x12 2)
/-- OUT_W. -/
def outW (x : StreamProf) : Nat := fld x.b 0x14 2
/-- OUT_H. -/
def outH (x : StreamProf) : Nat := fld x.b 0x16 2
/-- STEP_X, STEP_Y. -/
def step (x : StreamProf) : Nat × Nat := (fld x.b 0x18 4, fld x.b 0x1C 4)
/-- OFF_X, OFF_Y. -/
def off (x : StreamProf) : Int × Int := (sgn 32 (fld x.b 0x20 4), sgn 32 (fld x.b 0x24 4))
/-- BL[i]. -/
def bl (x : StreamProf) (i : Nat) : Nat := fld x.b (0x28 + 2 * i) 2
/-- NORM[i]. -/
def norm (x : StreamProf) (i : Nat) : Nat := fld x.b (0x30 + 2 * i) 2
/-- CM[i]. -/
def cm (x : StreamProf) (i : Nat) : Int := sgn 16 (fld x.b (0x38 + 2 * i) 2)
/-- IOFF[i]. -/
def ioff (x : StreamProf) (i : Nat) : Nat := fld x.b (0x4A + 2 * i) 2
/-- COFF[i]. -/
def coff (x : StreamProf) (i : Nat) : Int := sgn 16 (fld x.b (0x50 + 2 * i) 2)
/-- SIG_LINES. -/
def sigLines (x : StreamProf) : Nat := fld x.b 0x56 2
/-- DST of buffer `k`. -/
def dst (x : StreamProf) (k : Nat) : AddrField := addrField x.b (0x58 + 8 * k)
/-- BEAD of buffer `k`. -/
def bead (x : StreamProf) (k : Nat) : Nat := fld x.b (0x68 + 2 * k) 2
/-- GOLD_W, GOLD_H. -/
def gold (x : StreamProf) : Nat × Nat := (fld x.b 0x6C 2, fld x.b 0x6E 2)
/-- GOLD_SRC. -/
def goldSrc (x : StreamProf) : AddrField := addrField x.b 0x70
/-- GOLD_DST. -/
def goldDst (x : StreamProf) : AddrField := addrField x.b 0x78
/-- GOLD_OW, GOLD_OH. -/
def goldOut (x : StreamProf) : Nat × Nat := (fld x.b 0x80 2, fld x.b 0x82 2)
/-- GOLD_BEAD. -/
def goldBead (x : StreamProf) : Nat := fld x.b 0x84 2
/-- The profile has a golden tile. -/
def hasGold (x : StreamProf) : Bool := decide (x.gold.1 ≠ 0) && decide (x.gold.2 ≠ 0)
/-- Tone table entry. -/
def tone (x : StreamProf) (i : Nat) : Nat := fld x.b (144 + 2 * i) 2
/-- Horizontal coefficient of a phase and tap. -/
def coefH (x : StreamProf) (ph t : Nat) : Int := sgn 16 (fld x.b (144 + 8192 + 16 * ph + 2 * t) 2)
/-- Vertical coefficient. -/
def coefV (x : StreamProf) (ph t : Nat) : Int := sgn 16 (fld x.b (144 + 8192 + 1024 + 16 * ph + 2 * t) 2)
/-- Width and height after binning. -/
def binned (x : StreamProf) : Nat × Nat := if x.bin then (x.inW / 2, x.inH / 2) else (x.inW, x.inH)
/-- Channels of the output. -/
def outC (x : StreamProf) : Nat := if x.chan = 2 then 1 else 3
/-- Geometry of an output of the given size. -/
def geo (x : StreamProf) (w h : Nat) : Geo := ⟨x.lay, w, h, x.outC, 8⟩
/-- Bytes of a buffer: RAW codes (R174), or the output tensor. -/
def bufBytes (x : StreamProf) : Nat := if x.mode = 2 then x.inW * x.inH * 2 else (x.geo x.outW x.outH).bytes
/-- Line memory that a PROCESS profile takes (R179). -/
def lineMem (x : StreamProf) : Nat := 48 * x.binned.1 + if x.bin then 8 * x.inW else 0
end StreamProf

/-- Partition and index of a bead field: [13:12], [11:0]. -/
def beadField (v : Nat) : PartId × Nat := (partOf (bits v 13 12), bits v 11 0)

/-- A flow profile (R276). -/
structure FlowProf where
  /-- The bytes of the section. -/
  b : Bytes
  deriving DecidableEq, Repr

namespace FlowProf
/-- SRC MAC. -/
def mac (x : FlowProf) : Nat := bits (byteAt x.b 0) 1 0
/-- SRC die. -/
def die (x : FlowProf) : Nat := bits (byteAt x.b 0) 2 2
/-- TEMPLATE. -/
def template (x : FlowProf) : Nat := byteAt x.b 2
/-- SWEEP_TMO. -/
def tmo (x : FlowProf) : Nat := byteAt x.b 3
/-- MAXPTS. -/
def maxPts (x : FlowProf) : Nat := fld x.b 4 4
/-- SIG_POINTS. -/
def sigPoints (x : FlowProf) : Nat := fld x.b 8 2
/-- BEAD of buffer `k`. -/
def bead (x : FlowProf) (k : Nat) : Nat := fld x.b (0x0C + 2 * k) 2
/-- DST of buffer `k`. -/
def dst (x : FlowProf) (k : Nat) : AddrField := addrField x.b (0x10 + 8 * k)
/-- MNT[i]. -/
def mnt (x : FlowProf) (i : Nat) : Int := sgn 16 (fld x.b (0x20 + 2 * i) 2)
/-- TX, TY, TZ. -/
def trans (x : FlowProf) (i : Nat) : Int := sgn 32 (fld x.b (0x34 + 4 * i) 4)
/-- GOLD_SRC. -/
def goldSrc (x : FlowProf) : AddrField := addrField x.b 0x40
/-- GOLD_DST. -/
def goldDst (x : FlowProf) : AddrField := addrField x.b 0x48
/-- GOLD_NFR. -/
def goldNfr (x : FlowProf) : Nat := fld x.b 0x50 2
/-- GOLD_BEAD. -/
def goldBead (x : FlowProf) : Nat := fld x.b 0x52 2
/-- ELEV[c]. -/
def elev (x : FlowProf) (c : Nat) : Nat := fld x.b (128 + 16 * c) 4
/-- AZ_OFF[c]. -/
def azOff (x : FlowProf) (c : Nat) : Nat := fld x.b (132 + 16 * c) 4
/-- R_OFF[c]. -/
def rOff (x : FlowProf) (c : Nat) : Int := sgn 32 (fld x.b (136 + 16 * c) 4)
/-- Bytes of a sweep buffer (R279). -/
def bufBytes (x : FlowProf) : Nat := 64 + 16 * x.maxPts
end FlowProf

/-- A field descriptor (R274). -/
structure Fd where
  /-- OFFSET. -/
  off : Nat
  /-- TYPE. -/
  ty : Nat
  /-- LEVEL: 0 packet, 1 block, 2 record, 3 absent. -/
  level : Nat
  /-- [31:22], reserved. -/
  rsv : Nat
  deriving DecidableEq, Repr

/-- A template (R275). -/
structure Template where
  /-- Its 64 bytes. -/
  b : Bytes
  deriving DecidableEq, Repr

/-- The field descriptor at an offset of a template. -/
def Template.fd (t : Template) (o : Nat) : Fd :=
  let v := fld t.b o 4
  ⟨bits v 15 0, bits v 19 16, bits v 21 20, bits v 31 22⟩

/-- Bytes of a field. -/
def Fd.width (d : Fd) : Nat := if d.ty = 0 then 1 else if d.ty ∈ [1, 2, 5, 6] then 2 else 4

/-- The value of a field at a byte offset of a payload; signed types are sign-extended (R274, R277). -/
def Fd.read (d : Fd) (pl : Bytes) (o : Nat) : Int :=
  let x := slice pl (o + d.off) d.width
  let v := if d.ty ∈ [2, 4, 6, 8] then unbe x else unle x
  if 5 ≤ d.ty then sgn (8 * d.width) v else v

namespace Template
/-- HDR_SKIP. -/
def hdrSkip (t : Template) : Nat := fld t.b 0 2
/-- BLK_STRIDE. -/
def blkStride (t : Template) : Nat := fld t.b 2 2
/-- REC_OFF. -/
def recOff (t : Template) : Nat := fld t.b 4 2
/-- REC_STRIDE. -/
def recStride (t : Template) : Nat := fld t.b 6 2
/-- NBLK. -/
def nblk (t : Template) : Nat := byteAt t.b 8
/-- EL_FIELD, CH_FIELD, SWEEP_FIELD, TIME_FIELD. -/
def tflag (t : Template) (i : Nat) : Bool := bit (byteAt t.b 9) i
/-- NREC. -/
def nrec (t : Template) : Nat := fld t.b 0x0A 2
/-- FD_COUNT. -/
def fdCount (t : Template) : Fd := t.fd 0x0C
/-- FD_RANGE. -/
def fdRange (t : Template) : Fd := t.fd 0x10
/-- FD_AZ. -/
def fdAz (t : Template) : Fd := t.fd 0x14
/-- FD_EL. -/
def fdEl (t : Template) : Fd := t.fd 0x18
/-- FD_INT. -/
def fdInt (t : Template) : Fd := t.fd 0x1C
/-- FD_CH. -/
def fdCh (t : Template) : Fd := t.fd 0x20
/-- FD_SWEEP. -/
def fdSweep (t : Template) : Fd := t.fd 0x24
/-- FD_TIME. -/
def fdTime (t : Template) : Fd := t.fd 0x28
/-- R_MUL. -/
def rMul (t : Template) : Nat := fld t.b 0x2C 4
/-- AZ_MUL. -/
def azMul (t : Template) : Nat := fld t.b 0x30 4
/-- EL_MUL. -/
def elMul (t : Template) : Int := sgn 32 (fld t.b 0x34 4)
/-- RMIN. -/
def rmin (t : Template) : Nat := fld t.b 0x38 2
/-- INT_SH. -/
def intSh (t : Template) : Nat := byteAt t.b 0x3A
/-- SWEEP_AZ. -/
def sweepAz (t : Template) : Nat := fld t.b 0x3C 4
end Template

/-- The stream profile in a slot of a die: that of the context whose profile is loaded (R173). -/
def State.camProf (s : State) (c : CtxId) (d : DieId) (i : Fin 32) : StreamProf := ⟨s.secD 0x26 c.1 (32 * d.1 + i.1)⟩

/-- The flow profile of a context in a slot of a die. -/
def State.flowProf (s : State) (c : CtxId) (d : DieId) (i : Fin 16) : FlowProf := ⟨s.secD 0x27 c.1 (16 * d.1 + i.1)⟩

/-- A template of a die. -/
def State.template (s : State) (d : DieId) (i : Nat) : Template := ⟨s.secD 0x13 0xFF (16 * d.1 + i)⟩

/-- Bytes of the golden frames at an address: `n` frames, each a length and a payload padded to 8 (R282). -/
def goldFrames (m : Nat → Nat → Bytes) : Nat → Nat → List Bytes
  | 0, _ => []
  | n + 1, a =>
    let k := fld (m a 4) 0 4
    m (a + 4) k :: goldFrames m n (a + (4 + k + 7) / 8 * 8)

/-- Size of the golden area (R282). -/
def goldFramesLen (l : List Bytes) : Nat := sumN (l.map fun x => (4 + x.length + 7) / 8 * 8)

end Sys2Proof.Machine
end

