-- ==== Sys2Proof/Config.lean ====
section
/-!
DEFINITION. Config.lean: the free values, constants with no body. Each is applied to the counter `State.free`, or
to the operands it may depend on, so that a claim holds whatever the value is (log 7).
-/

namespace Sys2Proof.Config

/-- A destination byte of a MOVE inside the overlap of source and destination (R68). -/
opaque overlapByte : Nat → Byte

/-- A UDP result destination of context `c` uses a MAC of I/O die `d`: the image that R441 and R442 lay out names none
(R476, log 7, log 8). -/
opaque udpDest : Nat → Nat → Bool

/-- Whether a low pulse of PORST_N of 1 µs or more and less than 10 µs resets the device (R511). -/
opaque shortPulseResets : Nat → Bool

/-- The split that a sequencer picks for a balanced stage from measured wait times (R64). -/
opaque stripeSplit : Nat → Nat

/-- A byte of a partition sample or crash dump that shows internal state the spec does not detail (R371, R457). -/
opaque dumpByte : Nat → Byte

/-- A byte of the salt of an attestation signature (R435, R465). -/
opaque saltByte : Nat → Byte

/-- A byte that a MOVE reads from a ring peer's memory (R67, R415). -/
opaque peerByte : Nat → Byte

/-- A byte of T_REF or SWEEP_SEQ in the header of a golden sweep buffer (R279, R282). -/
opaque goldByte : Nat → Byte

/-- Whether a request of a MOVE that ends with a fault had taken effect before it (R169, R257, R361). -/
opaque moveReached : Nat → Bool

/-- The AVS target that the PWP sets at the start, above the floor, in mV (R452, R470). -/
opaque avsStart : Nat → Nat

/-- The smallest or largest element of a field with no element, as a rule of the Tally reads it (R303). -/
opaque emptyAggregate : Nat → Int

/-- The number of rules that an evaluation has done when it runs past its budget (R307). -/
opaque rulesDone : Nat → Nat

/-- Whether the ring manager, which may send an idle request, sends one (R425). -/
opaque idleRequest : Nat → Bool

/-- How many generations of a context, the second argument, the members of a ring are ahead of a device that becomes its manager
(R431). -/
opaque heldAhead : Nat → Nat → BitVec 12

/-- The syndrome of a word found wrong, for a source ID and the SEQ of its record (R358). -/
opaque syndrome : Nat → Nat → BitVec 16

/-- How many outbound requests of a pair the hub has released when it finds a difference (R337). -/
opaque pairReleased : Nat → Nat

/-- A byte of the output digest of a SEAL whose OUT_SLOT has never been finalised (R77). -/
opaque slotByte : Nat → Byte

/-- How many bytes the recorder buffer of a die has written out since it was last known (R259, R393). -/
opaque recDrain : Nat → Nat

/-- Injections of the start-up sequence beyond one for each source and code: checkers that share a source ID (R341, R344). -/
opaque moreCheckers : Nat → Nat

end Sys2Proof.Config
end

