-- ==== Sys2Proof/Machine/Egress.lean ====
section
/-!
DEFINITION. Machine/Egress.lean: what leaves the device (MSI-X, host rings, interrupt records, ring transactions)
and the log region.
-/

namespace Sys2Proof.Machine

/-- Records an output. -/
def State.emit (s : State) (e : OutEvent) : State := { s with out := e :: s.out }

/-- Ring `r` of the host port. -/
def State.ring (s : State) (r : Fin 17) : RingRegs := s.hst.rings.get r

/-- Updates ring `r`. -/
def State.onRing (s : State) (r : Fin 17) (f : RingRegs → RingRegs) : State :=
  s.onHst fun h => { h with rings := h.rings.set r.1 (f (h.rings.get r)) }

/-- Sends the MSI-X message of a vector, or sets its pending bit while the vector is masked (R485, R498). -/
def msixSignal (s : State) (v : Fin 64) : State :=
  let e := s.hst.msix.get v
  if e.2.2.getLsbD 0 || !s.hst.msixEn then s.onHst fun h => { h with pba := h.pba ||| (1 <<< v.1) }
  else s.emit (.msix (BitVec.ofNat 6 v.1) e.1 e.2.1)

/-- The size of a ring in bytes; values outside 16 to 30 act as 16 (R496). -/
def ringBytes (r : RingRegs) : Nat :=
  if 16 ≤ r.sizeLog2.toNat ∧ r.sizeLog2.toNat ≤ 30 then 2 ^ r.sizeLog2.toNat else 2 ^ 16

/-- Units of 64 bytes that a record takes (R493). -/
def ringUnits (b : Bytes) : Nat := (b.length + 63) / 64

/-- The ring refuses a record of `u` units (R494). -/
def ringFull (r : RingRegs) (u : Nat) : Bool :=
  !r.en || decide (ringBytes r / 64 < (r.tail - r.head).toNat + u)
    || decide (ringBytes r / 64 < (r.tail - r.head).toNat)

/-- A dropped record (R494). -/
def ringDrop (s : State) (r : Fin 17) : State :=
  let s := (s.onRing r fun x => { x with drop := sat32 x.drop }).onHst fun h => { h with dropCnt := sat32 h.dropCnt }
  if h : r.1 < 16 then s.onCtx ⟨r.1, h⟩ fun x => { x with droppedSince := sat32 x.droppedSince } else s

/-- The posted writes of a record: padded to units, wrapping past the end of the ring (R493). -/
def ringData (s : State) (r : Fin 17) (b : Bytes) : State :=
  let x := s.ring r
  let n := ringBytes x
  let pos := (64 * x.tail.toNat) % n
  let d := padMul 64 b
  let base := x.base.toNat
  if pos + d.length ≤ n then s.emit (.hostWrite (BitVec.ofNat 64 (base + pos)) d)
  else (s.emit (.hostWrite (BitVec.ofNat 64 (base + pos)) (d.take (n - pos)))).emit
    (.hostWrite (BitVec.ofNat 64 base) (d.drop (n - pos)))

/-- Signals a ring's vector when the coalescing count is reached (R495). -/
def ringSignal (s : State) (r : Fin 17) : State :=
  let x := s.ring r
  let n := x.unsignalled + 1
  if x.irqEn && decide (max 1 x.coal.toNat ≤ n) then
    msixSignal (s.onRing r fun y => { y with unsignalled := 0 }) ⟨r.1, by omega⟩
  else s.onRing r fun y => { y with unsignalled := n }

/-- Writes a record to a host ring with its tail write-back and interrupt, or drops it (R493 to R495). -/
def ringWrite (s : State) (r : Fin 17) (b : Bytes) : State :=
  let u := ringUnits b
  if s.hst.hostAbsent || ringFull (s.ring r) u then ringDrop s r
  else
    let s := ringData s r b
    let s := s.onRing r fun x => { x with tail := x.tail + BitVec.ofNat 32 u }
    let x := s.ring r
    let s := s.emit (.hostWrite x.tailWb (le 8 x.tail.toNat))
    ringSignal s r

/-- An interrupt record of 64 bytes (R497). -/
def irqRecord (ty : Nat) (src : U16) (seq : U32) (body : Bytes) : Bytes :=
  withCrc32 (le 4 0x52495A42 ++ le 2 ty ++ le 2 src.toNat ++ le 4 seq.toNat ++ zeros 4 ++ slice body 0 32 ++ zeros 12)

/-- An interrupt record of the SVP (types 2 to 5 of R497). -/
def svpIrq (s : State) (ty : Nat) (body : Bytes) : State :=
  let q := s.hst.irqSeqSvp
  ringWrite (s.onHst fun h => { h with irqSeqSvp := q + 1 }) 16 (irqRecord ty srcSvp q body)

/-- An interrupt record for an error record that the aggregator stores (R360, R497). -/
def aggIrq (s : State) (body : Bytes) : State :=
  let q := s.hst.irqSeqAgg
  ringWrite (s.onHst fun h => { h with irqSeqAgg := q + 1 }) 16 (irqRecord 1 srcAgg q body)

/-- A context takes a state; a TYPE 3 interrupt record tells the host (R34, R497). -/
def setCtxState (s : State) (c : CtxId) (v : CtxState) : State :=
  let s := s.onCtx c fun x => { x with state := v }
  svpIrq s 3 (le 1 c.1 ++ le 1 (ctxNum v) ++ le 2 (s.ctx c).gen.toNat)

/-! ### The log region (R458) -/

/-- Serial-number comparison: `a` is newer than `b` (R437, R458). -/
def newer (a b : U32) : Bool := !(a - b).msb && a != b

/-- The active log bank (R458). -/
def activeLog (s : State) : Fin 2 :=
  match (s.boot.logs.get 0).gen, (s.boot.logs.get 1).gen with
  | some a, some b => if newer b a then 1 else 0
  | none, some _ => 1
  | _, _ => 0

/-- Bytes that an entry takes: a 16-byte header and the payload padded to 16. -/
def logEntryLen (e : LogEntry) : Nat := 16 + (e.payload.length + 15) / 16 * 16

/-- Bytes in use in a bank. -/
def logUsed (b : LogBank) : Nat := 4096 + sumN (b.entries.map logEntryLen)

/-- Capacity of a log bank: 8 MiB (R434). -/
def logCap : Nat := 0x800000

/-- Fenced cores that the entries leave, as a mask: FENCE sets, FENCE_CLEAR clears (R364, R367). -/
def fencedBy (es : List LogEntry) : Nat :=
  es.foldl (fun m e =>
    if e.ty = 6 then m ||| 2 ^ (byteAt e.payload 0 % 12)
    else if e.ty = 7 then m &&& (0xFFF ^^^ (fld e.payload 0 2 % 4096)) else m) 0

/-- The last `n` entries of a type. -/
def newestOf (es : List LogEntry) (tys : List U16) (n : Nat) : List LogEntry :=
  let l := es.filter fun e => tys.contains e.ty
  l.drop (l.length - n)

/-- The compaction set, in log order (R458). -/
def compactSet (es : List LogEntry) : List LogEntry :=
  let m := fencedBy es
  let keep := (newestOf es [5] 1 ++ newestOf es [2] 2 ++ newestOf es [4] 2 ++ newestOf es [8, 9] 16).map (·.seq)
  es.filter fun e => (e.ty = 6 && m.testBit (byteAt e.payload 0 % 12)) || keep.contains e.seq

/-- The next SEQ of a log entry. -/
def nextLogSeq (s : State) : U32 :=
  match (s.boot.logs.get (activeLog s)).entries.getLast? with
  | some e => e.seq + 1
  | none => 0

/-- Moves the compaction set to the other bank and makes it active (R458). -/
def compactLog (s : State) : State :=
  let a := activeLog s
  let o : Fin 2 := if a = 0 then 1 else 0
  let b := s.boot.logs.get a
  s.onBoot fun x => { x with logs := (x.logs.set o.1 ⟨some (b.gen.getD 0 + 1), compactSet b.entries⟩) }

/-- Appends an entry to the active bank, after a compaction when it does not fit (R458). -/
def logAppend (s : State) (ty : Nat) (payload : Bytes) : State :=
  let e : LogEntry := ⟨BitVec.ofNat 16 ty, nextLogSeq s, payload⟩
  let s := if logCap < logUsed (s.boot.logs.get (activeLog s)) + logEntryLen e then compactLog s else s
  let a := activeLog s
  let b := s.boot.logs.get a
  s.onBoot fun x => { x with logs := x.logs.set a.1 { b with entries := b.entries ++ [e] } }

/-- An entry as it lies in flash (R458). -/
def logEntryBytes (e : LogEntry) : Bytes :=
  let h := le 2 e.ty.toNat ++ zeros 2 ++ le 4 e.payload.length ++ le 4 e.seq.toNat
  h ++ le 4 (crc32 (h ++ e.payload)).toNat ++ padMul 16 e.payload

/-- A log bank as it lies in flash: header, entries, erased flash (R458). -/
def logBankBytes (b : LogBank) : Bytes :=
  let h := match b.gen with
    | some g => withCrc32 (le 4 0x4C4C5A42 ++ le 4 g.toNat ++ zeros 4)
    | none => List.replicate 16 0xFF
  h ++ List.replicate (4096 - h.length) 0xFF ++ b.entries.flatMap logEntryBytes

/-! ### Ring transactions (R412 to R415) -/

/-- Members met going east from `a` until `d`, the last included. -/
def hopsEast (members : BitVec 4) (a d : BitVec 2) : Nat :=
  let n := (d - a).toNat
  ((List.range n).filter fun i => members.getLsbD ((a.toNat + i + 1) % 4)).length

/-- The east way from `a` to `d` crosses the down link of a chain. -/
def crossesDown (a d down : BitVec 2) : Bool := decide ((down - a).toNat < (d - a).toNat)

/-- The port of the route to a member: the shorter way, east on a tie; the only way in a chain (R414). -/
def routePort (g : RngRegs) (d : BitVec 2) : RingPort :=
  if g.chain then (if crossesDown g.id d g.downAt then .w else .e)
  else if hopsEast g.members g.id d ≤ hopsEast g.members d g.id then .e else .w

/-- The channel of what this device sends: requests, writes, signals and messages on REQ, answers on RSP; the wake ordered set
has none, and a transaction in transit keeps its own (R412). -/
def RingOut.channel : RingOut → Option RingChannel
  | .mgmt _ | .write .. | .signal .. | .lks .. | .record .. | .read .. => some .req
  | .ack _ | .readData .. => some .rsp
  | .wake | .transit .. => none

/-- The other port. -/
def otherPort : RingPort → RingPort
  | .e => .w
  | .w => .e

/-- The hop through a port crosses the dateline: it goes from a higher ring ID to a lower one, in a ring (R413). -/
def hopCrosses (g : RngRegs) (p : RingPort) : Bool :=
  !g.chain && decide ((g.ports.get (portNum p)).peerId.toNat < g.id.toNat)

/-- Sends on a port whose link is up: in class A, or B when the hop crosses the dateline or an earlier one did (R413). -/
def portPass (s : State) (p : RingPort) (chan : Option RingChannel) (inB : Bool) (t : RingOut) : State :=
  if (s.rng.ports.get (portNum p)).state = .up then s.emit (.ring p ⟨chan, inB || hopCrosses s.rng p⟩ t) else s

/-- Sends what this device originates. -/
def portSend (s : State) (p : RingPort) (t : RingOut) : State := portPass s p t.channel false t

/-- Sends a transaction to a peer by its route. -/
def ringSend (s : State) (d : BitVec 2) (t : RingOut) : State := portSend s (routePort s.rng d) t

/-- A management message of 64 bytes (R422). -/
def mgmtMsg (ty : Nat) (src dst : BitVec 2) (bc : Bool) (epoch seq : U32) (body : Bytes) : Bytes :=
  withCrc32 (le 1 ty ++ le 1 (src.toNat + 4 * dst.toNat + 16 * b2n bc) ++ zeros 2 ++ le 4 epoch.toNat ++ le 4 seq.toNat
    ++ slice body 0 48)

/-- A management message from this device. -/
def mgmtBytes (s : State) (ty : Nat) (dst : BitVec 2) (bc : Bool) (body : Bytes) : Bytes :=
  mgmtMsg ty s.rng.id dst bc s.rng.epoch s.rng.seq body

/-- Sends a management message to one member, or to all of them on both ports. -/
def mgmtNow (s : State) (ty : Nat) (dst : Option (BitVec 2)) (body : Bytes) : State :=
  let b := mgmtBytes s ty (dst.getD 0) dst.isNone body
  let s := { s with rng := { s.rng with seq := s.rng.seq + 1 } }
  match dst with
  | some d => ringSend s d (.mgmt b)
  | none => portSend (portSend s .e (.mgmt b)) .w (.mgmt b)

/-- Sends a management message, or keeps it until the idle ring has woken and its MEMBERSHIP is there (R425). -/
def mgmtSend (s : State) (ty : Nat) (dst : Option (BitVec 2)) (body : Bytes) : State :=
  if s.rng.idle || !s.rng.held.isEmpty then { s with rng := { s.rng with held := s.rng.held ++ [(ty, dst, body)] } }
  else mgmtNow s ty dst body

/-- Sends the messages that waited for the ring to wake (R425). -/
def sendHeld (s : State) : State :=
  s.rng.held.foldl (fun s m => mgmtNow s m.1 m.2.1 m.2.2) { s with rng := { s.rng with held := [] } }

/-! Bodies of the management messages (R422). -/

/-- HELLO. -/
def helloBody (id : BitVec 2) (mgr idle : Bool) : Bytes := le 1 id.toNat ++ le 1 (b2n mgr) ++ le 1 (b2n idle)
/-- MEMBERSHIP. -/
def memberBody (m : BitVec 4) (mgr : BitVec 2) (chain : Bool) (down : BitVec 2) : Bytes :=
  le 1 m.toNat ++ le 1 mgr.toNat ++ le 1 (b2n chain) ++ le 1 down.toNat
/-- START. -/
def startBody (c : CtxId) (g : BitVec 12) (m : BitVec 4) : Bytes := le 1 c.1 ++ le 2 g.toNat ++ le 1 m.toNat
/-- CTX_FAIL. -/
def failBody (c : CtxId) (g : BitVec 12) (failing : BitVec 2) (code : U16) : Bytes :=
  le 1 c.1 ++ le 2 g.toNat ++ le 1 failing.toNat ++ le 2 code.toNat
/-- DRAIN_ACK. -/
def ackBody (c : CtxId) (g : BitVec 12) : Bytes := le 1 c.1 ++ le 2 g.toNat
/-- CTX_DRAINED. -/
def drainedBody (c : CtxId) (g : BitVec 12) (m : BitVec 4) : Bytes := le 1 c.1 ++ le 2 g.toNat ++ le 1 m.toNat
/-- DIGEST. -/
def digestBody (c : CtxId) (prog wgt : Bytes) : Bytes := le 1 c.1 ++ slice prog 0 32 ++ slice wgt 0 16
/-- IDLE. -/
def idleBody (ack : Bool) : Bytes := le 1 (b2n ack)
/-- T_FOLLOW. -/
def followBody (sent received : U64) : Bytes := le 8 sent.toNat ++ le 8 received.toNat

/-- The peers of a context as ring IDs. -/
def State.peerIds (s : State) (c : CtxId) : List (BitVec 2) :=
  ((List.range 4).filter fun i => (s.peers c).testBit i).map (BitVec.ofNat 2)

/-- Releases a record to the context's destinations: host ring, Ethernet and ring peers, in REPLAY the host ring
only (R314, R398). -/
def release (s : State) (c : CtxId) (b : Bytes) : State :=
  let s := ringWrite s ⟨c.1, by omega⟩ b
  if s.dev = .replay then s
  else (s.peerIds c).foldl (fun s d => ringSend s d (.record d b)) (s.emit (.udp c b))

end Sys2Proof.Machine
end

