-- ==== Sys2Proof/Machine/Recording.lean ====
section
/-!
DEFINITION. Machine/Recording.lean: the recorder region, its blocks, its records and the freeze (R385 to R395).
-/

namespace Sys2Proof.Machine

/-- One MiB. -/
def mib : Nat := 0x100000

/-- The recorder extents: base and size in MiB (R385, R445). -/
def State.recExt (s : State) : List (Nat × Nat) :=
  ((List.range 4).map fun i => (fld s.devCfg (0x20 + 8 * i) 6, fld s.devCfg (0x26 + 8 * i) 2)).filter (·.2 ≠ 0)

/-- Size of the recorder region in MiB. -/
def State.recMib (s : State) : Nat := sumN (s.recExt.map (·.2))

/-- MiB taken by the header and the block index of `t` MiB (R385). -/
def recHeadMib (t : Nat) : Nat := if 4096 + 16 * (t - 1) ≤ mib then 1 else 2

/-- The device address of a byte offset in the concatenated extents. -/
def extAddr : List (Nat × Nat) → Nat → Nat
  | [], o => o
  | (b, n) :: r, o => if o < n * mib then b + o else extAddr r (o - n * mib)

/-- The device address of data block `n`. -/
def State.blockAddr (s : State) (n : Nat) : Nat := extAddr s.recExt ((recHeadMib s.recMib + n) * mib)

/-- The device address of the index entry of block `n`. -/
def State.indexAddr (s : State) (n : Nat) : Nat := extAddr s.recExt (4096 + 16 * n)

/-- Writes memory for the recorder: cures the words covered whole (R529). -/
def State.recPoke (s : State) (a : Nat) (b : Bytes) : State :=
  { s with
    mem := memPut 0 s.mem a b
    bad := s.bad.filter fun k => !(decide (a ≤ k) && decide (k + 8 ≤ a + b.length)) }

/-- The 4 KiB header of the region (R386). -/
def recHeader (s : State) : Bytes :=
  let r := s.recd
  let h := le 4 0x52525A42 ++ le 2 1 ++ le 1 (recNum r.state) ++ le 1 r.cause.toNat ++ le 4 r.nblk ++ le 4 r.wblk
    ++ le 4 r.keep ++ le 4 (b2n r.postCut + 2 * b2n r.preShort) ++ le 8 r.tTrig.toNat ++ le 8 r.tFreeze.toNat
    ++ le 4 r.causeId.toNat ++ le 4 r.extra.toNat ++ slice s.devCfg 0x20 32 ++ zeros 176
    ++ s.boot.prog.toList.flatMap (slice · 0 32) ++ s.boot.wgt.toList.flatMap (slice · 0 32) ++ zeros 2812
  withCrc32 h

/-- Rewrites the header, as at every change of state (R386). -/
def writeRecHeader (s : State) : State :=
  if s.recMib = 0 then s else s.recPoke (extAddr s.recExt 0) (recHeader s)

/-- A change of the recorder's state, with the rewritten header and, on a freeze, the TYPE 4 record (R394, R497). -/
def setRecState (s : State) (v : RecState) : State :=
  let s := s.onRec fun r => { r with state := v }
  let s := if v = .frozen then s.onRec fun r => { r with tFreeze := s.now64 } else s
  let s := writeRecHeader s
  if v = .frozen then svpIrq s 4 ((recHeader s).take 32) else s

/-- The partition of a data block. -/
def State.blockPart (s : State) (n : Nat) : Option PartId := homePart (s.blockAddr n)

/-- A block that the allocator skips: its partition is in reset (R387). -/
def State.blockSkipped (s : State) (n : Nat) : Bool :=
  match s.blockPart n with
  | some p => s.inReset p
  | none => true

/-- The next block to give out from `n` on, at most `k` tries. -/
def nextBlock (s : State) : Nat → Nat → Option Nat
  | 0, _ => none
  | k + 1, n => if s.blockSkipped n then nextBlock s k ((n + 1) % max 1 s.recd.nblk) else some n

/-- A block holds records: VALID of its index entry (R387). -/
def State.blockValid (s : State) (n : Nat) : Bool := bit (fld (s.peek (s.indexAddr n) 2) 0 2) 0

/-- Gives out a block, the oldest (R387). -/
def allocBlock (s : State) : Option Nat × State :=
  match nextBlock s s.recd.nblk s.recd.wblk with
  | none => (none, s)
  | some n => (some n, s.onRec fun r => { r with wblk := (n + 1) % max 1 r.nblk })

/-- The next block to allocate from `n` on and those that the allocator skips before it, at most `k` of them. -/
def nextBlocks (s : State) : Nat → Nat → List Nat
  | 0, _ => []
  | k + 1, n => n :: if s.blockSkipped n then nextBlocks s k ((n + 1) % max 1 s.recd.nblk) else []

/-- In the post window the recorder freezes at once when the next block to allocate is the first retained one, or lies behind it
(R394, log 26). -/
def earlyFreeze (s : State) : State :=
  if s.recd.state = .postWindow && s.blockValid s.recd.keep && (nextBlocks s s.recd.nblk s.recd.wblk).contains s.recd.keep then
    setRecState (s.onRec fun r => { r with postCut := true }) .frozen
  else s

/-- Writers of the region: the taps of N0 and N1, and the move engines (R387). -/
inductive RecOrigin where
  | tap (d : DieId)
  | ckpt
  deriving DecidableEq, Repr

/-- ORIGIN of a block index entry. -/
def originNum : RecOrigin → Nat
  | .tap d => d.1
  | .ckpt => 2

/-- The writer's current block. -/
def curBlock (s : State) : RecOrigin → Option (Nat × Nat)
  | .tap d => (s.die d).tapBlock
  | .ckpt => s.recd.ckptBlock

/-- Sets the writer's current block. -/
def setCurBlock (s : State) (o : RecOrigin) (b : Option (Nat × Nat)) : State :=
  match o with
  | .tap d => s.onDie d fun x => { x with tapBlock := b }
  | .ckpt => s.onRec fun r => { r with ckptBlock := b }

/-- A record: 32-byte header, payload padded to 32 (R388). -/
def recBytes (src : U16) (kind rflags : Nat) (seq : U32) (time : U64) (aux : Nat) (payload : Bytes) : Bytes :=
  let h := le 2 src.toNat ++ le 1 kind ++ le 1 rflags ++ le 4 seq.toNat ++ le 8 time.toNat ++ le 4 payload.length
    ++ le 4 aux
  h ++ le 4 (crc32 (h ++ payload)).toNat ++ zeros 4 ++ padMul 32 payload

/-- Records are written in recording and in the post window (R394), and none in REPLAY, where the recorder stands still (R399,
R403, log 26). -/
def State.recActive (s : State) : Bool :=
  (s.recd.state = .recording || s.recd.state = .postWindow) && s.dev != .replay

/-- Writes a record, continued in the writer's next block where it reaches the end of its block (R387, R388).
The first argument bounds the number of pieces. -/
def recPieces : Nat → State → RecOrigin → U16 → Nat → Nat → U64 → Nat → Bytes → State
  | 0, s, _, _, _, _, _, _, _ => s
  | k + 1, s, o, src, kind, rflags, time, aux, payload =>
    if !s.recActive then s else
    let (blk, s) := match curBlock s o with
      | some (n, used) => if used + 32 ≤ mib then (some (n, used), s) else
          let (b, s) := allocBlock s
          (b.map (·, 0), s)
      | none =>
          let (b, s) := allocBlock s
          (b.map (·, 0), s)
    match blk with
    | none => s
    | some (n, used) =>
      let room := mib - used - 32
      let part := payload.take room
      let seq := tabGet 0 s.recd.seqs src
      let b := recBytes src kind rflags seq time aux part
      let s := if used = 0 then
          s.recPoke (s.indexAddr n) (le 2 (1 + 2 * originNum o) ++ zeros 2 ++ le 4 0 ++ le 8 time.toNat)
        else s
      let s := s.recPoke (s.blockAddr n + used) b
      let s := s.onRec fun r => { r with seqs := tabPut r.seqs src (seq + 1), bytes := r.bytes + b.length }
      let s := setCurBlock s o (some (n, used + b.length))
      let s := if used = 0 then earlyFreeze s else s
      if room < payload.length then recPieces k s o src kind (rflags ||| 1) time aux (payload.drop room) else s

/-- Writes a record to memory (R388). -/
def recPut (s : State) (o : RecOrigin) (src : U16) (kind rflags : Nat) (time : U64) (aux : Nat)
    (payload : Bytes) : State :=
  recPieces (payload.length / (mib - 32) + 2) s o src kind rflags time aux payload

/-- The level of the recorder buffer of a die before a record of `n` bytes enters it. How much the buffer has written out
in the meantime is not modelled in time, so it is free; it is asked only where the record would not fit (R393, log 51). -/
def tapRoom (s : State) (d : DieId) (n : Nat) : Nat × State :=
  let v := (s.die d).recLevel
  if v + n ≤ mib then (v, s) else (v - Config.recDrain s.free, { s with free := s.free + 1 })

/-- Writes a record (R388). A tap's record passes the recorder buffer of its die: where its payload does not fit, a LOSS
record takes its place and `REC_LOSS` counts the bytes (R393). -/
def recWrite (s : State) (o : RecOrigin) (src : U16) (kind rflags : Nat) (time : U64) (aux : Nat)
    (payload : Bytes) : State :=
  match o with
  | .ckpt => recPut s o src kind rflags time aux payload
  | .tap d =>
    if !s.recActive then s
    else
      let n := 32 + (payload.length + 31) / 32 * 32
      let r := tapRoom s d n
      if payload.isEmpty || decide (r.1 + n ≤ mib) then
        recPut (r.2.onDie d fun x => { x with recLevel := min mib (r.1 + n) }) o src kind rflags time aux payload
      else
        let s := (r.2.onDie d fun x => { x with recLevel := r.1 }).onRec fun y => { y with
          loss := BitVec.ofNat 32 (min (2 ^ 32 - 1) (y.loss.toNat + payload.length)) }
        recPut s o src 9 0 time payload.length []

/-- The SEQ that the next record of a source takes. -/
def State.nextRecSeq (s : State) (src : U16) : U32 := tabGet 0 s.recd.seqs src

/-! ### Reading records back -/

/-- Records of a block at a device address, from offset `off` on: `m` reads memory, `ue` says whether a word of a range is
uncorrectable. -/
def parseBlock (m : Nat → Nat → Bytes) (ue : Nat → Nat → Bool) (blk base : Nat) : Nat → Nat → List RecItem
  | 0, _ => []
  | k + 1, off =>
    if mib < off + 32 then [] else
    let h := m (base + off) 32
    let kind := byteAt h 2
    let n := fld h 0x10 4
    if kind = 0 ∨ 9 < kind ∨ mib < off + 32 + n then [] else
    let p := m (base + off + 32) n
    let item : RecItem :=
      { src := BitVec.ofNat 16 (fld h 0 2), kind := BitVec.ofNat 8 kind,
        rflags := BitVec.ofNat 8 (byteAt h 3), seq := BitVec.ofNat 32 (fld h 4 4), time := BitVec.ofNat 64 (fld h 8 8),
        aux := BitVec.ofNat 32 (fld h 0x14 4), payload := p,
        ok := decide (fld h 0x18 4 = (crc32 (h.take 0x18 ++ p)).toNat) && !ue (base + off) (32 + n), block := blk
        next := BitVec.ofNat 32 (fld h 4 4 + 1) }
    item :: parseBlock m ue blk base k (off + 32 + (n + 31) / 32 * 32)

/-- Joins a record with CONT set to the record of its source that it continues (R387). -/
def joinCont (l : List RecItem) : List RecItem :=
  l.foldl (fun acc x =>
    if x.rflags.getLsbD 0 then
      match acc.reverse.findIdx? (fun y => y.src = x.src && y.kind = x.kind) with
      | some j =>
        let i := acc.length - 1 - j
        acc.modify i fun y => { y with payload := y.payload ++ x.payload, ok := y.ok && x.ok && decide (y.next = x.seq), next := x.next }
      | none => acc ++ [x]
    else acc ++ [x]) []

/-- The records of a block that are left of an earlier round of the ring drop out: a source numbers its records upwards (R387,
R388). -/
def freshOnly (l : List RecItem) : List RecItem :=
  (l.foldl (fun (a : List RecItem × List (U16 × U32)) x =>
    match a.2.find? fun e => decide (e.1 = x.src) with
    | some e => if newer x.seq e.2 then (a.1 ++ [x], if x.ok then tabPut a.2 x.src x.seq else a.2) else a
    | none => (a.1 ++ [x], if x.ok then tabPut a.2 x.src x.seq else a.2)) ([], [])).1

/-- The records of a region: `m` reads memory, `ue` says whether a word of a range is uncorrectable, `blk` and `idx` give the
addresses of a block and of its index entry; `order` is the order of the blocks. A LOST block yields none; in a BAD one the
affected record shows by its CRC (R387, R403). -/
def parseRegion (m : Nat → Nat → Bytes) (ue : Nat → Nat → Bool) (blk idx : Nat → Nat) (order : List Nat) : List RecItem :=
  joinCont (freshOnly (order.flatMap fun n =>
    let e := m (idx n) 16
    let f := fld e 0 2
    if !bit f 0 || bit f 3 || fld e 4 4 = 0xFFFFFFFF then [] else parseBlock m ue n (blk n) 32768 (fld e 4 4)))

/-- A word of a range is uncorrectable. -/
def State.ueIn (s : State) (a n : Nat) : Bool := (s.badIn a n false).isSome

/-- Blocks of the running region, oldest first. -/
def blockOrder (nblk wblk : Nat) : List Nat := (List.range nblk).map fun i => (wblk + i) % max 1 nblk

/-- The records now in the ring. -/
def State.recItems (s : State) : List RecItem :=
  parseRegion s.peek s.ueIn s.blockAddr s.indexAddr (blockOrder s.recd.nblk s.recd.wblk)

/-- The oldest valid block. -/
def State.oldestBlock (s : State) : Nat :=
  ((blockOrder s.recd.nblk s.recd.wblk).find? s.blockValid).getD s.recd.wblk

/-- CTX of a CHECKPOINT record (R391). -/
def RecItem.ckptCtx (x : RecItem) : Nat := byteAt x.payload 0
/-- FRAME of a CHECKPOINT record. -/
def RecItem.ckptFrame (x : RecItem) : Nat := fld x.payload 3 4
/-- CTX of a FRAME_MARK (R392). -/
def RecItem.markCtx (x : RecItem) : Nat := byteAt x.payload 0 % 16
/-- FRAME of a FRAME_MARK. -/
def RecItem.markFrame (x : RecItem) : Nat := fld x.payload 4 4

/-- The stream entries of a FRAME_MARK: SOURCE and SEQ (R392). -/
def RecItem.markStreams (x : RecItem) : List (Nat × Nat × Nat) :=
  (List.range (byteAt x.payload 1)).map fun i =>
    (byteAt x.payload (32 + 8 * i), fld x.payload (34 + 8 * i) 2, fld x.payload (36 + 8 * i) 4)

/-- The blocks that the retained window of one context needs; none when the ring no longer holds one of them
(R395). -/
def keepBlocks (items : List RecItem) (limit : U64) (c : Nat) : Option (List Nat) :=
  match (items.filter fun x => x.kind = 6 && x.ckptCtx = c && decide (tsDiff x.time limit ≤ 0)).getLast? with
  | none => none
  | some save =>
    match items.find? fun x => x.kind = 7 && x.markCtx = c && x.markFrame = (save.ckptFrame + 1) % 2 ^ 32 &&
        decide (fld x.payload 2 2 = fld save.payload 1 2) with
    | none => some [save.block]
    | some mark =>
      mark.markStreams.foldl (fun acc e =>
        match acc, items.find? (fun y => y.src.toNat = e.2.1 && y.seq.toNat = e.2.2) with
        | some l, some y => some (y.block :: l)
        | _, _ => none) (some [save.block])

/-- KEEP and PRE_SHORT at a trigger (R395). -/
def keepOf (s : State) : Nat × Bool :=
  let items := s.recItems
  let limit := tsOfNs (tsNs s.now64 - fld s.devCfg 0x14 4 * 1000000)
  let ctxs := ((items.filter (·.kind = 7)).map (·.markCtx)).dedup
  let need := ctxs.map (keepBlocks items limit)
  if need.contains none then (s.oldestBlock, true)
  else
    let l := need.flatMap (·.getD [])
    (((blockOrder s.recd.nblk s.recd.wblk).find? l.contains).getD s.oldestBlock, false)

/-- A freeze trigger: cause 1 verdict, 2 partition reset, 3 host command (R394). -/
def recTrigger (s : State) (cause : BitVec 2) (causeId : U32) : State :=
  match s.recd.state with
  | .recording =>
    let k := keepOf s
    setRecState (s.onRec fun r => { r with
      tTrig := s.now64, cause := cause, causeId := causeId, keep := k.1
      preShort := k.2, postCut := false, extra := 0 }) .postWindow |> earlyFreeze
  | .postWindow | .frozen => writeRecHeader (s.onRec fun r => { r with extra := sat32 r.extra })
  | .disabled => s

/-- Sets a flag bit in the index entry of a block (R387). -/
def setBlockFlag (s : State) (n i : Nat) : State :=
  let e := s.peek (s.indexAddr n) 2
  s.recPoke (s.indexAddr n) (le 2 (fld e 0 2 ||| 2 ^ i))

/-- A writer leaves its current block when that lies in a partition that resets (R387). -/
def leaveBlock (p : PartId) (s : State) (o : RecOrigin) : State :=
  match curBlock s o with
  | some (n, _) => if s.blockPart n = some p then setCurBlock s o none else s
  | none => s

/-- A partition reset sets LOST on every block of its extent, and no writer goes on in one of them (R387, R403). -/
def loseBlocks (s : State) (p : PartId) : State :=
  let s := ((List.range s.recd.nblk).filter fun n => s.blockPart n = some p).foldl (fun s n => setBlockFlag s n 3) s
  [RecOrigin.tap 0, .tap 1, .ckpt].foldl (leaveBlock p) s

/-- The data block that holds an address, when one does. -/
def State.blockOf (s : State) (a : Nat) : Option Nat :=
  (List.range s.recd.nblk).find? fun n => decide (s.blockAddr n ≤ a) && decide (a < s.blockAddr n + mib)

end Sys2Proof.Machine
end

