-- ==== Sys2Proof/Machine/Reaction.lean ====
section
/-!
DEFINITION. Machine/Reaction.lean: error records, the fault-reaction path, teardown, fencing and partition reset
(R317 to R321, R353 to R377), and `finish`, which ends every command.
-/

namespace Sys2Proof.Machine

/-! ### Records (R353 to R360) -/

/-- The class of a code (R357). -/
def codeClass (code : U16) : Nat := code.toNat / 256

/-- Device-scoped codes: class 9, TALLY_LOCKSTEP and TALLY_SRAM_UE (R357). -/
def isDevice (code : U16) : Bool := codeClass code = 9 || code = 0x0A01 || code = 0x0A02

/-- Codes that fault a context (R357). -/
def isFault (code : U16) : Bool := decide (2 ≤ codeClass code) && decide (codeClass code ≤ 10)

/-- The 32 bytes of a record (R353). -/
def errBytes (r : ErrRec) : Bytes :=
  let b := le 2 r.src.toNat ++ le 2 r.code.toNat ++ le 4 r.seq.toNat ++ le 8 r.time.toNat ++ [r.flags, r.lost]
    ++ le 2 r.ctxgen.toNat ++ le 2 r.count.toNat ++ le 8 r.detail.toNat
  b ++ le 2 (crc16 b).toNat

/-- Codes whose DETAIL holds the syndrome of a SECDED word (R357, R358). -/
def hasSyndrome (code : U16) : Bool :=
  [0x0101, 0x0102, 0x0103, 0x0105, 0x0301, 0x0302, 0x0303, 0x0304, 0x0305].contains code.toNat

/-- DETAIL as a record holds it: a SECDED code adds its syndrome, which is free (R358, log 54). -/
def fullDetail (src code : U16) (seq : U32) (detail : Nat) : Nat :=
  if hasSyndrome code then detail % 2 ^ 48 + (Config.syndrome src.toNat seq.toNat).toNat * 2 ^ 48 else detail

/-- Puts a record into its source's FIFO of 8 entries, or loses it (R354). -/
def putRecord (s : State) (src code : U16) (ctx : Option (CtxId × BitVec 12)) (flags : Nat) (count : Nat) (time : U64)
    (detail : Nat) : State :=
  if 8 ≤ (s.err.fifo.filter fun r => r.src = src).length then
    s.onErr fun e => { e with lost := sat32 e.lost, losts := tabPut e.losts src (tabGet 0 e.losts src + 1) }
  else
    let seq := tabGet 0 s.err.seqs src
    let r : ErrRec := ⟨src, code, seq, time, BitVec.ofNat 8 (flags + b2n ctx.isSome),
      BitVec.ofNat 8 (min 255 (tabGet 0 s.err.losts src)), (ctx.map fun c => ctxGen c.1 c.2).getD 0,
      BitVec.ofNat 16 count, BitVec.ofNat 64 (fullDetail src code seq detail)⟩
    s.onErr fun e => { e with
      fifo := e.fifo ++ [r], seqs := tabPut e.seqs src (seq + 1), losts := tabPut e.losts src 0 }

/-- The aggregator's class counter of a context (R304, R355). -/
def bumpClass (s : State) (c : CtxId) (code : U16) : State :=
  s.onCtx c fun x => { x with
    classCnt := if h : codeClass code < 16 then x.classCnt.set (codeClass code) (sat32 (x.classCnt[codeClass code]))
      else x.classCnt }

/-- Writes the record of a coalescing window (R355). -/
def writeCoal (s : State) (w : Coal) : State :=
  putRecord s w.src w.code w.ctx (if 1 < w.count then 8 else 0) w.count w.time w.detail.toNat

/-- Coalesces an event of class 0 or 1 (R355). -/
def coalesce (s : State) (src code : U16) (ctx : Option (CtxId × BitVec 12)) (detail : Nat) : State :=
  match s.err.coal.find? fun w => w.src = src && w.code = code && w.ctx = ctx with
  | none =>
    s.onErr fun e => { e with coal := e.coal ++ [⟨src, code, ctx, 1, s.now64, BitVec.ofNat 64 detail⟩] }
  | some w =>
    let w' := { w with count := w.count + 1 }
    if 65535 ≤ w'.count then writeCoal (s.onErr fun e => { e with coal := e.coal.filter (· ≠ w) }) w'
    else s.onErr fun e => { e with coal := e.coal.map fun x => if x = w then w' else x }

/-- A detection: its class counter and its record (R353 to R355). In expected-event mode the record carries
INJECTED and nothing else follows (R342). -/
def event (s : State) (src code : U16) (ctx : Option (CtxId × BitVec 12)) (detail : Nat) : State :=
  let dev := 2 * b2n (isDevice code)
  if s.err.expect then putRecord s src code ctx (dev + 4) 1 s.now64 detail
  else
    let s := match ctx with
      | some c => bumpClass s c.1 code
      | none => s
    if codeClass code ≤ 1 then coalesce s src code ctx detail
    else putRecord s src code ctx dev 1 s.now64 detail

/-! ### Device state -/

/-- RUN or DEGRADED follows fenced cores, offline partitions and the thermal emergency (R364, R482). -/
def refreshDev (s : State) : State :=
  if s.dev = .run ∨ s.dev = .degraded then
    { s with dev := if s.fencedMask ≠ 0 ∨ s.err.offline ≠ 0 ∨ s.pwr.emerg then .degraded else .run }
  else s

/-- The device enters SAFE state, which only a device reset leaves (R297). -/
def enterSafe (s : State) : State := { s with dev := .safe }

/-- The PIN contexts (R298). -/
def State.pinCtxs (s : State) : List CtxId := (allFin 16).filter fun c => s.pin c

/-! ### The fault-reaction path (R317) -/

/-- ERR_OUT_N goes low (R321). -/
def errLow (s : State) : State :=
  (s.onPins fun p => { p with errOutN := false }).onTly fun t => { t with lastEvent := s.ticks, holdOver := false }

/-- The reaction to an event of a context: pins and egress stop latch (R317, R319, R320). -/
def reactCtx (s : State) (c : CtxId) : State :=
  (errLow s).onCtx c fun x => { x with stopLatch := true, override := x.override || s.pin c }

/-- The reaction to a device-scoped event (R317). -/
def reactDevice (s : State) : State :=
  let s := (errLow s).onTly fun t => { t with devOverride := true, devAwait := s.pinCtxs }
  { s with ctxs := s.ctxs.map fun x => { x with stopLatch := true } }

/-! ### Frames that wait for a verdict (R312) -/

/-- Frames queued at the Tally: `TLY_STATUS.QDEPTH`. -/
def tallyDepth (s : State) : Nat := (s.tly.queue.filter fun i => !i.unqueued).length

/-- A SEAL or fault reaches the Tally (R312). -/
def tallyPush (s : State) (i : TallyItem) : State :=
  if 64 ≤ tallyDepth s then
    s.onTly fun t => { t with qfull := sat32 t.qfull, queue := t.queue ++ [{ i with unqueued := true }] }
  else s.onTly fun t => { t with queue := t.queue ++ [i] }

/-- The item of a frame without SEAL (R312). -/
def noRecordItem (s : State) (c : CtxId) (dev : Bool) : TallyItem :=
  let x := s.ctx c
  { ctx := c, gen := x.gen, frame := x.frameNum, record := none, recordSeq := 0xFFFFFFFF, tSeal := 0,
    tTrigger := x.frame.tTrigger, armed := s.now64, goldDone := 0, goldStreams := 0,
    classes := Vector.replicate 16 0, degradedWin := x.frame.degradedWin, faulted := true, devFault := dev,
    thermal := x.frame.thermal, nFault := x.frame.nFault, replay := s.dev = .replay }

/-! ### Teardown (R361) -/

/-- Removes a context's descriptors from every queue (R361 step 2). -/
def purgeQueues (s : State) (c : CtxId) : State :=
  allQueues.foldl (fun s q => s.onQueue q fun x => { x with entries := x.entries.filter fun e => decide (e.ctx ≠ c) }) s

/-- A hand-over awaited for the context is abandoned. -/
def purgeHubs (s : State) (c : CtxId) : State :=
  { s with parts := s.parts.map fun x =>
      if (x.hub.want.map fun w => w.2.2.2) = some c then { x with hub := { x.hub with want := none } } else x }

/-- What of a context waits in the block is removed: its descriptors, its hand-over, and its ring writes that wait for an
acknowledgement (R361 step 2, R415). -/
def purge (s : State) (c : CtxId) : State :=
  (purgeHubs (purgeQueues s c) c).onRng fun r => { r with unacked := r.unacked.filter fun u => decide (u.ctx ≠ c) }

/-- Steps 1 and 2 of the teardown: the egress stop latch is set and the context drains; its stop command is kept for the answer. A fault of a
context with peers is told to the manager (R428). -/
def teardown (s : State) (c : CtxId) (stop : Option U16) (code : U16) : State :=
  let s := (purge (setCtxState s c .draining) c).onCtx c fun x => { x with
    stopLatch := true, latched := none, stopTag := stop, frame := { x.frame with inFlight := false } }
  if stop.isNone && s.peers c ≠ 0 && !s.rng.bypass then
    mgmtSend s 4 (if s.rng.mgrId = s.rng.id then none else some s.rng.mgrId) (failBody c (s.ctx c).gen s.rng.id code)
  else s

/-- A fault of a context: its frame fails and it is torn down; a second fault while it drains changes nothing
(R361, R374, R312). -/
def faultCtx (s : State) (c : CtxId) (code : U16) (dev : Bool) : State :=
  let x := s.ctx c
  let s := s.onTly fun t => { t with queue := t.queue.map fun i =>
    if i.ctx = c ∧ i.gen = x.gen then
      { i with faulted := i.faulted || !dev, devFault := i.devFault || dev, nFault := sat32 i.nFault }
    else i }
  if x.state = .run ∨ x.state = .starting then
    let s := s.onFrame c fun f => { f with
      faulted := f.faulted || !dev, devFault := f.devFault || dev, nFault := sat32 f.nFault }
    let s := if x.frame.inFlight ∧ !x.frame.hasSealed then
        tallyPush s { noRecordItem s c dev with faulted := !dev }
      else s
    teardown s c none code
  else s

/-! ### Fencing (R363 to R366) -/

/-- The test-owner context of a core (R346, R445). -/
def State.testOwner (s : State) (i : CoreId) : Option CtxId :=
  let b := byteAt s.devCfg (0x40 + i.1)
  if b.testBit 7 then some (ctxOf b) else none

/-- Contexts with a descriptor in a queue of the core, or presented to it as the trailing core of a pair (R336, R340). -/
def ctxsOnCore (s : State) (i : CoreId) : List CtxId :=
  (allFin 16).filter fun c => (queuesOf i).any fun q => (s.presented q).any fun e => e.ctx = c

/-- A partition goes offline (R366): its contexts are faulted and stay FAULTED. -/
def partOffline (s : State) (p : PartId) : State :=
  let s := s.onPart p fun x => { x with prt := { x.prt with state := .offline } }
  let s := (coresOf p).foldl (fun s i => s.onCore i fun x => { x with cfh := { x.cfh with adopter := 3 } }) s
  let s := s.onErr fun e => { e with offline := e.offline ||| (1 <<< p.1) }
  let s := event s srcAgg 0x0C04 none 0
  let s := ((allFin 16).filter fun c => s.hasWork c p).foldl (fun s c =>
    if (s.ctx c).state = .run ∨ (s.ctx c).state = .starting then faultCtx (reactCtx s c) c 0x0C04 false else s) s
  refreshDev s

/-- The core that adopts the slot of a core that is fenced (R364 step 3). -/
def adopterOf (s : State) (i : CoreId) : Option (Fin 3) :=
  let r := slotOfCore i
  let p := partOfCore i
  if !s.isFenced (coreOf p (r + 1)) then some (r + 1)
  else if !s.isFenced (coreOf p (r + 2)) then some (r + 2)
  else none

/-- The pair of a hub ends when one of its cores is fenced (R340, R364). -/
def endPair (s : State) (p : PartId) : State :=
  s.onPart p fun x => { x with hub := { x.hub with pair := none } }

/-- The FENCE entry of the log: core, cause code, TS64, frame (R458, log 9). -/
def fenceEntry (s : State) (i : CoreId) (code : U16) : Bytes :=
  le 1 i.1 ++ zeros 1 ++ le 2 code.toNat ++ le 8 s.now64.toNat
    ++ le 4 (((s.testOwner i).map fun c => (s.ctx c).frameNum.toNat).getD 0)

/-- Ranges of the Ledge that a Screen descriptor reaches through its parameter block: those it only reads or goes on from, and
those it writes (R217, R222, R225, R228, R229). -/
def blockRanges (s : State) (i : CoreId) (op : Nat) (x : ScreenP) : List (Nat × Nat) × List (Nat × Nat) :=
  let pb (a n : Nat) : Bytes := s.peek (ledgeBase i + a) n
  let led (o : Opd) (n : Nat) : List (Nat × Nat) := if o.led then [(o.base, n)] else []
  let b := pb x.pb 64
  match op with
  | 0x44 =>
    let own := led x.b (8 * 2 ^ (byteAt b 24)) ++ led x.c (16 * x.cap) ++
      led ⟨bit (byteAt b 27) 0, fld b 0x20 6⟩ (4 * x.cap * byteAt b 26) ++ [(x.pb + 0x28, 12)]
    ((x.pb, 0x28) :: if bit x.opt 0 then [] else own, own)
  | 0x45 =>
    let v := pb (fld b 0 4) 64
    ([(x.pb, 32), (fld b 0 4, 64), (fld b 4 4, 8 * 2 ^ (byteAt v 24))] ++
      led ⟨bit (byteAt b 0x15) 0, fld b 8 6⟩ (16 * fld v 0x28 4) ++
      led ⟨bit (byteAt v 27) 0, fld v 0x20 6⟩ (4 * fld v 0x28 4 * byteAt v 26),
     led x.c (4 * byteAt b 0x14 * x.n))
  | 0x48 => ((x.pb, 8) :: led x.a ((x.n - 1) * fld b 4 4 + 4 * x.cap), [(x.pb + 8, 8)])
  | 0x49 =>
    let k := if byteAt b 2 = 2 then 2 * fld b 0 2 else fld b 0 2
    ((x.pb, 8) :: led x.a ((x.cap - 1) * fld b 4 4 + fld b 0 2),
     led x.c ((x.n + 127) / 128 * (128 * ((k + 127) / 128)) * 128) ++ [(x.pb + 8, 4)])
  | _ => ([], [])

/-- Ranges of the Ledge that a Screen descriptor reads, the table of a SCATTER among them, and those that it writes (R217, R219). -/
def screenLedge (s : State) (i : CoreId) (d : Bytes) : List (Nat × Nat) × List (Nat × Nat) :=
  let op := (hdrOf d).opcode
  if op < 0x40 ∨ 0x49 < op then ([], [])
  else
    let x := screenOf (d.drop 16)
    let m := blockRanges s i op x
    let spans (write : Bool) : List (Nat × Nat) := (screenSpans op x).filterMap fun e =>
      if e.1.led && decide (e.2.2 = write) then some (e.1.base, e.2.1) else none
    (spans false ++ m.1 ++ (if x.dyn then [(x.cnt, 4)] else []) ++ (if op = 0x41 then spans true else []), spans true ++ m.2)

/-- Two lists of ranges have a byte in common. -/
def rangesMeet (l r : List (Nat × Nat)) : Bool :=
  l.any fun a => r.any fun b => decide (a.1 < b.1 + b.2) && decide (b.1 < a.1 + a.2)

/-- The position at which a Screen chain starts whose descriptors from position `k` on are to run: that of the earliest
descriptor that left something in the Ledge which a later one of the chain uses (R232). The second argument counts the
descriptors not yet looked at. -/
def chainFrom (s : State) (i : CoreId) (l : ListCfg) : Nat → Nat → Nat
  | k, 0 => k
  | k, j + 1 =>
    let later := ((List.range l.ndesc).drop k).flatMap fun n => (screenLedge s i (l.desc n)).1
    chainFrom s i l (if rangesMeet later (screenLedge s i (l.desc j)).2 then j else k) j

/-- The position of the first descriptor of the chain that a list of a context has begun on a core and not finished: a
pooling chain whose rows the row buffer keeps, or Screen descriptors that share state of the Ledge with ones not yet fed
(R171, R232, log 48). -/
def chainStart (s : State) (i : CoreId) (c : CtxId) (l : ListCfg) : Option Nat :=
  let n := s.fedOf c l
  if l.ndesc ≤ n then none
  else if l.queue = 0 then
    if (hdrOf (l.desc n)).opcode ≠ 0x20 then none
    else ((s.core i).ost.rowBufs.find? fun b => decide (b.2.owner = s.cg c) &&
      decide (b.2.began / 2 ^ 28 % 4 = l.origin.1)).map fun b => b.2.began / 2 ^ 8 % 4096
  else if l.queue = 2 then
    let k := chainFrom s i l n n
    if k < n then some k else none
  else none

/-- The sequencer goes back to the first descriptor of each chain that a fenced core loses: feed position, expected QSEQ
and stage of the list (R48, R171, R232). -/
def rewindChains (s : State) (i : CoreId) : State :=
  let os := (allFin 3).filter fun r => decide ((s.prt (partOfCore i)).slotMap.get r = slotOfCore i)
  (allFin 16).foldl (fun s c =>
    if !(s.ctx c).frame.inFlight || (s.ctx c).state ≠ .run then s
    else (s.frameLists c).foldl (fun s l =>
      if l.part ≠ (partOfCore i).1 || l.queue = 4 || !(os.any fun r => decide (r.1 = l.slot)) then s
      else match chainStart s i c l with
        | none => s
        | some k =>
          let s := s.onFrame c fun f => { f with fed := tabPut f.fed (BitVec.ofNat 16 l.index) k }
          s.onQueue (s.listQueue l) fun x =>
            { x with expect := x.expect.set c.1 ((x.expect.get c).set l.origin.1 (BitVec.ofNat 12 k))
                     lastStage := x.lastStage.set c.1 ((x.lastStage.get c).set l.origin.1
                       (BitVec.ofNat 5 (hdrOf (l.desc k)).stage)) }) s) s

/-- A queue takes over the accounts of some origins from the queue of a fenced core (R44, R45, R48). -/
def QueueRt.adopt (x y : QueueRt) (os : List (Fin 4)) : QueueRt :=
  { x with
    expect := Vector.ofFn fun c => Vector.ofFn fun o => if os.contains o then (y.expect.get c).get o else (x.expect.get c).get o
    lastStage := Vector.ofFn fun c => Vector.ofFn fun o =>
      if os.contains o then (y.lastStage.get c).get o else (x.lastStage.get c).get o
    golden := x.golden.filter (fun e => !os.contains e.1.2.1) ++ y.golden.filter fun e => os.contains e.1.2.1 }

/-- The lists of the slots that a core ran go on at the queues of another one, where the checks of each origin go on
(R48, R365). -/
def moveLists (s : State) (i a : CoreId) : State :=
  let os := ((allFin 3).filter fun r => (s.prt (partOfCore i)).slotMap.get r = slotOfCore i).map fun r => (⟨r.1, by omega⟩ : Fin 4)
  [QKind.aq, .sq, .xq, .mq].foldl (fun s k => s.onQueue (.core a k) fun x => x.adopt (s.queue (.core i k)) os) s

/-- A fenced core is powered off: its registers read zero and its Ledge is lost (R12, R29, R364 step 2). -/
def powerOff (s : State) (i : CoreId) : State :=
  let s := (s.onDom i.1 fun d => { d with state := .off }).onDom (0x10 + i.1) fun d => { d with state := .off }
  let s := s.onCore i fun x => { coreDown x false with ldgCe := 0, ldgUe := 0 }
  dropWindow s (ledgeBase i) 0x1000000

/-- The contexts that are not IDLE. -/
def State.active (s : State) : List CtxId := (allFin 16).filter fun c => (s.ctx c).state != .idle

/-- The slot map places a list of a context that is not IDLE on the core, or its test-owner context is not IDLE. -/
def State.coreInUse (s : State) (i : CoreId) : Bool :=
  (s.active.any fun c => (s.lists c).any fun l =>
    decide (l.queue ≠ 4) && decide (l.part = (partOfCore i).1) &&
      decide ((s.prt (partOfCore i)).slotMap.get ⟨l.slot % 3, Nat.mod_lt _ (by decide)⟩ = slotOfCore i)) ||
  (let b := byteAt s.devCfg (0x40 + i.1)
   b.testBit 7 && (s.ctx (ctxOf b)).state != .idle)

/-- A core that takes lists over, and its Ledge, come into use: the PWP brings them ON (R476). -/
def adopterOn (s : State) (i : CoreId) : State :=
  if !s.coreInUse i || !s.pwpRuns then s
  else [i.1, 0x10 + i.1].foldl (fun s n => if s.domLive n then s else s.onDom n fun d => d.up 7 s.pwr.pll) s

/-- Fences a core, or takes its partition offline when no unfenced core would be left (R364, R366). -/
def fence (s : State) (i : CoreId) (code : U16) : State :=
  if s.cutOff i then s else
  let p := partOfCore i
  let s := (ctxsOnCore s i).foldl (fun s c => faultCtx (reactCtx s c) c code false) s
  match adopterOf s i with
  | none =>
    partOffline (event s srcAgg 0x0C01 none (i.1 + 3 * 16 + code.toNat * 65536)) p
  | some a =>
    let r := slotOfCore i
    let s := s.onCore i fun x => { x with cfh := { x.cfh with fenced := true } }
    let s := ((coresOf p).filter fun k => s.isFenced k).foldl (fun s k => s.onCore k fun x => { x with cfh := { x.cfh with
      adopter := BitVec.ofNat 2 a.1 } }) s
    let s := rewindChains s i
    let s := powerOff (moveLists s i (coreOf p a)) i
    let s := adopterOn (s.onPart p fun x => { x with slotMap := x.slotMap.map fun k => if k = r then a else k }) (coreOf p a)
    let s := match (s.prt p).hub.pair with
      | some (l, t) => if l = r ∨ t = r then endPair s p else s
      | none => s
    let s := event s srcAgg 0x0C01 none (i.1 + a.1 * 16 + code.toNat * 65536)
    let s := logAppend s 6 (fenceEntry s i code)
    let s := s.onBoot fun b => { b with odo := { b.odo with fencings := b.odo.fencings + 1 } }
    refreshDev s

/-- The frame count in which faults of a core are counted (R363): that of its test-owner context. -/
def fenceClock (s : State) (i : CoreId) (c : Option CtxId) : Nat :=
  match s.testOwner i, c with
  | some o, _ => (s.ctx o).framesTotal
  | none, some c => (s.ctx c).framesTotal
  | none, none => 0

/-- A counted fault against a core; the third of one code within 1,000 frames of the first fences it (R363, R377). -/
def countFault (s : State) (c : Option CtxId) (code : U16) (i : CoreId) : State :=
  let now := fenceClock s i c
  let h := ((s.core i).cfh.hist.filter fun e => decide (now ≤ e.2 + 1000)) ++ [(code, now)]
  let n := (h.filter (·.1 = code)).length
  let s := s.onCore i fun x => { x with cfh := { x.cfh with
    hist := h, faultCnt := sat32 x.cfh.faultCnt, lastCode := code, pending := BitVec.ofNat 2 (min 2 n) } }
  if 3 ≤ n then fence s i code else s

/-! ### Partition reset (R368 to R371) -/

/-- The context has a list in the partition, a region in its stacks, or a bead range in its pool (R369 step 1). -/
def State.touches (s : State) (c : CtxId) (p : PartId) : Bool :=
  s.hasCtx c && (s.hasWork c p || decide (0 < (s.beadRange c p).2) ||
    (s.regions c).any fun r => target r.base = .dram p)

/-- The four bytes of state, or free bytes where the spec details no contents, of a queue's sample (R371). -/
def queueSample (s : State) (q : QueueId) : Bytes :=
  let x := s.queue q
  let l := s.presented q
  let head := le 2 l.length ++ le 2 (((x.expect.toList.getD 0 (Vector.replicate 4 0)).toList.getD 0 0).toNat)
  head ++ (List.range (64 - head.length)).map (fun i => Config.dumpByte (s.free + i))
    ++ (List.range 4).flatMap fun i => ((l.drop i).head?.map fun e => slice e.bytes 0 64).getD (zeros 64)

/-- Base of a dump slot (R371). -/
def dumpBase (n : Nat) : Nat := 0x040000000000 + 0x40000 * n

/-- The header of a sample (R371). -/
def sampleHeader (s : State) (p : PartId) (cause : Bytes) (mask : Nat) : Bytes :=
  let h := le 4 0x50535A42 ++ le 2 1 ++ le 2 p.1 ++ slice cause 0 32 ++ le 2 mask ++ le 2 s.fencedMask
  withCrc32 (padTo 252 h)

/-- The Ledge lines of a core's sample: lines 0 to 31 of each bank (R237, R371). The address of line `l` of bank `b`
has O[23:11] = l and O[10:5] = b − O[16:11]. -/
def ledgeSample (s : State) (i : CoreId) : Bytes :=
  if s.isFenced i then zeros 0x10000 else
  (List.range 64).flatMap fun b => (List.range 32).flatMap fun l =>
    s.peek (ledgeBase i + l * 0x800 + (b + 64 - l % 64) % 64 * 32) 32

/-- Writes the sample of a partition into its dump slot (R371). Feeder and sequencer state are free bytes. -/
def writeSample (s : State) (p : PartId) (cause : Bytes) (mask : Nat) : State :=
  let n := s.boot.nextSample
  let queues := (partQueues p).flatMap (queueSample s)
  let inner := (List.range (0x4000 - 0x100 - queues.length)).map fun i => Config.dumpByte (s.free + i)
  let b := sampleHeader s p cause mask ++ queues ++ inner ++ (coresOf p).flatMap (ledgeSample s)
  let s := { s with mem := memPut 0 s.mem (dumpBase n.1) b, free := s.free + 0x4000 }
  let s := s.onPart p fun x => { x with prt := { x.prt with slot := BitVec.ofNat 3 n.1 } }
  s.onBoot fun x => { x with nextSample := n + 1, uncopied := x.uncopied.filter (· ≠ n.1) ++ [n.1] }

/-- The logic of a partition after step 4: queues, pools, stores and registers at their reset values; PRT, CFH and
LST keep theirs, and the slot map is the sequencer's (R369, R376, R377, R352, R236). -/
def resetPartLogic (s : State) (p : PartId) : State :=
  let s := (coresOf p).foldl (fun s i => s.onCore i fun x => { ({} : CoreRt) with
    lst := { x.lst with running := false }, cfh := x.cfh }) s
  let s := s.onPart p fun x => { ({} : PartRt) with
    slotMap := x.slotMap, prt := x.prt, pwr := x.pwr, seqWait := x.seqWait }
  (allFin 8).foldl (fun s k => if partOfStack k = p then s.onMc k fun _ => {} else s) s

/-- A partition reset begins (R369 steps 1 to 4). While a reset runs, a further fault is only recorded (R374). -/
def partReset (s : State) (p : PartId) (src code : U16) (cause : Bytes) (ctx : Option (CtxId × BitVec 12)) : State :=
  if (s.prt p).prt.state ≠ .service then s else
  let times := ((s.prt p).prt.times.filter fun t => s.within t 600) ++ [s.ticks]
  let s := s.onPart p fun x => { x with prt := { x.prt with
    state := .resetting, times := times, resets600 := BitVec.ofNat 4 (min 15 times.length)
    resetCnt := sat32 x.prt.resetCnt, causeSrc := src, causeCode := code } }
  let s := event s srcAgg 0x0C02 none (p.1 + code.toNat * 4 + src.toNat % 0x4000 * 0x40000)
  let s := recTrigger s 2 (BitVec.ofNat 32 (((ctx.map fun c => (ctxGen c.1 c.2).toNat).getD 0) * 65536 + code.toNat))
  let mask := (allFin 16).filter fun c => s.touches c p && (s.ctx c).state != .idle
  let queue := s.tly.queue
  let s := mask.foldl (fun s c =>
    if (s.ctx c).state = .run ∨ (s.ctx c).state = .starting then faultCtx (reactCtx s c) c code false else s) s
  let s := s.onTly fun t => { t with queue := t.queue.mapIdx fun k i =>
    if (i.record.bind homePart) = some p then
      { i with lost := true, faulted := ((queue[k]?).map (·.faulted)).getD i.faulted }
    else i }
  let s := writeSample s p cause (sumN (mask.map fun c => 2 ^ c.1))
  let s := resetPartLogic s p
  let s := { s with mem := memErase s.mem (0x1000000000 * p.1) 0x1000000000 }
  let s := loseBlocks s p
  let s := s.onBoot fun b => { b with odo := { b.odo with resets := b.odo.resets + 1 } }
  if 3 ≤ times.length then partOffline s p else s

/-- A destination discards a transaction of another generation and counts it (R32, log 29). -/
def staleDrop (s : State) (c : CtxId) : State := s.onCtx c fun x => { x with staleTxn := sat32 x.staleTxn }

/-! ### An event with all that follows it -/

/-- A device-scoped event: every context is faulted; a second one within 1 h puts the device in SAFE state
(R329, R372). -/
def deviceFault (s : State) (code : U16) : State :=
  let again := match s.err.deviceAt with
    | some t => s.within t 3600
    | none => false
  let s := reactDevice s
  let hit := (allFin 16).filter fun c => (s.ctx c).state ≠ .idle
  let s := hit.foldl (fun s c => faultCtx s c code true) s
  let s := s.onTly fun t => { t with queue := t.queue.map fun i => { i with devFault := true } }
  let s := s.onErr fun e => { e with
    deviceEvent := true, deviceAt := some s.ticks, restart := (e.restart ++ hit).dedup }
  if again then enterSafe s else s

/-- A discard at the isolated boundary of a partition, which its source ID names, is counted there (R30). -/
def countIso (s : State) (f : Flt) : State :=
  if f.code = cIsolated then
    s.onPart (boundaryPart f.src) fun x => { x with prt := { x.prt with isoDrops := sat32 x.prt.isoDrops } }
  else s

/-- Raises an event: record, reaction, teardown, fault counting and partition reset (R317, R329, R361 to R369). -/
def raiseFlt (s : State) (f : Flt) (ctx : Option (CtxId × BitVec 12)) : State :=
  let seq := tabGet 0 s.err.seqs f.src
  let rec0 : ErrRec := ⟨f.src, f.code, seq, s.now64, BitVec.ofNat 8 (b2n ctx.isSome), 0,
    (ctx.map fun c => ctxGen c.1 c.2).getD 0, 1, BitVec.ofNat 64 (fullDetail f.src f.code seq f.detail)⟩
  let expect := s.err.expect
  let s := event (countIso s f) f.src f.code ctx f.detail
  if expect then s else
  let s := if isDevice f.code then deviceFault s f.code
    else if isFault f.code then
      match ctx with
      | some (c, g) => if g = (s.ctx c).gen then faultCtx (reactCtx s c) c f.code false else s
      | none => s
    else s
  let s := f.cores.foldl (fun s i => countFault s (ctx.map (·.1)) f.code i) s
  match f.reset with
  | some p => if ctx.isSome then partReset s p f.src f.code (errBytes rec0) ctx else s
  | none => s

/-- Raises a fault without cores or reset. -/
def raiseCode (s : State) (src code : U16) (ctx : Option (CtxId × BitVec 12)) (detail : Nat := 0) : State :=
  raiseFlt s { src := src, code := code, detail := detail } ctx

/-- A bead signal or a write discarded at the isolated boundary of a partition in reset: counted, and reported to the context
that issued it, by the endpoint `src` (R29, R30). -/
def isolatedDrop (s : State) (src : U16) (ctx : CtxId × BitVec 12) : State :=
  raiseCode s src cIsolated (some ctx) 0

/-- A failed lane takes a die-to-die link down: LINK_FAULT at both of its bridges, which faults the context whose
transaction it was (R14, R29). -/
def linkFails (s : State) (l : DieLink) (ctx : Option (CtxId × BitVec 12)) : State :=
  let s := event { s with linkDown := (l :: s.linkDown).dedup } (linkEnds l).2 cLinkFault ctx 0
  raiseFlt s (linkFlt l) ctx

/-! ### Writes that no context makes (R451, R492, R529) -/

/-- Counts an uncorrectable word in its block's registers (R263). -/
def noteUe (s : State) (a : Nat) : State :=
  match target a with
  | .ledge i => s.onCore i fun x => { x with ldgUe := sat32 x.ldgUe }
  | .stock j => s.onStk j fun x => { x with ueCnt := sat32 x.ueCnt }
  | .dram p => s.onMc (stackOf s.part p a) fun x => { x with
      ueCnt := sat32 x.ueCnt, ueAddr := BitVec.ofNat 64 (a / 8 * 8 + 1) }
  | _ => s

/-- An access without a context finds an uncorrectable word: counted and recorded (R492, R529). -/
def recordUe (s : State) (k : Nat) : State :=
  let f := ueFlt s.part k
  event (noteUe s k) f.src f.code none f.detail

/-- The SVP stores bytes: an uncorrectable word that the write covers in part keeps what it holds (R451, R529). -/
def svpWrite (s : State) (a : Nat) (d : Bytes) : State :=
  match s.badIn a d.length true with
  | some k => recordUe (s.pokePart (0, 0) a d) k
  | none => s.poke (0, 0) a d

/-! ### The end of a command -/

/-- SAFE_ST as R320 lays it down, in its priority order. -/
def safeStOf (s : State) : BitVec 2 :=
  let pins := s.pinCtxs
  if s.dev = .boot ∨ s.dev = .selftest ∨ s.dev = .safe ∨ s.dev = .replay then 0
  else if s.dev = .configured ∨ (s.dev = .run ∧ pins.any fun c => !(s.ctx c).hasVerdict) then 0
  else if s.tly.restarting ∨ !s.tly.selftestOk then 0
  else if s.tly.devOverride ∨ (pins.any fun c => (s.ctx c).override) then 0
  else if pins.any fun c => decide ((s.ctx c).verdict = .fail) || decide ((s.ctx c).state ≠ .run) then 0
  else if (pins.any fun c => decide ((s.ctx c).verdict = .degraded)) ∨ s.dev = .degraded then 1
  else 2

/-- A record enters the record store, the newest first (R360). -/
def keepRecord (s : State) (r : ErrRec) : State := s.onErr fun e => { e with
  store := (r :: e.store).take 2048, wrIdx := e.wrIdx + 1, wrapped := e.wrapped || decide (2048 ≤ e.store.length) }

/-- The aggregator stores a record: record store, interrupt record, and the SVP's copy of classes 2 to 12 in the
log (R360, R497). -/
def storeRecord (s : State) (r : ErrRec) : State :=
  let s := aggIrq (keepRecord s r) (errBytes r)
  if 2 ≤ codeClass r.code ∧ codeClass r.code ≤ 12 then logAppend s 1 (errBytes r) else s

/-- The concentrators forward their records (R354). -/
def drainRecords (s : State) : State :=
  let l := s.err.fifo
  l.foldl storeRecord (s.onErr fun e => { e with fifo := [] })

/-- Drives SAFE_ST by R320 and signals vector 18 when it or the device state has changed (R498); a device in reset signals
nothing. -/
def drivePins (old : State) (s : State) : State :=
  let v := safeStOf s
  let s' := s.onPins fun p => { p with
    safeSt := v, errOutN := p.errOutN || (s.tly.holdOver && s.tly.selftestOk && decide (v ≠ 0)) }
  if (v ≠ s.pins.safeSt ∨ s.dev ≠ old.dev) ∧ !(s.dev = .boot && !s.hst.ready) then msixSignal s' 18 else s'

/-- Every enabled context is in RUN, on a device that has its image (R437, R440). -/
def State.allRun (s : State) : Bool :=
  s.dev != .boot && s.dev != .selftest && (allFin 16).all fun c => !s.enabled c || decide ((s.ctx c).state = .run)

/-- Follows since when every enabled context has been in RUN (R440). -/
def trackRun (s : State) : State :=
  if s.allRun then s.onBoot fun b => { b with runFrom := some (b.runFrom.getD s.ticks) }
  else s.onBoot fun b => { b with runFrom := none }

/-- Ends a command: records are forwarded and the pins driven. -/
def finish (old : State) (s : State) : Res := .next (drivePins old (trackRun (drainRecords s)))

end Sys2Proof.Machine
end

