-- ==== Sys2Proof/Machine/Profiles.lean ====
section
/-!
DEFINITION. Machine/Profiles.lean: the configuration checks at STARTING (R530: R235, R176, R276) and the loading of
profiles and flow tables (R173, R273).
-/

namespace Sys2Proof.Machine

/-- The number of the first check that fails: the checks in order, each true when it fails. -/
def firstFail (l : List (Nat × Bool)) : Nat := ((l.find? (·.2)).map (·.1)).getD 0

/-! ### Regions (R235) -/

/-- Bounds at which the map changes target (R234). -/
def mapEdges : List Nat :=
  [0x800000000, 0x1000000000, 0x1800000000, 0x2000000000, 0x2800000000, 0x3000000000, 0x3800000000, 0x4000000000,
   0x010000000000, 0x010006000000, 0x010008000000, 0x01000E000000] ++
  (List.range 13).map (fun i => 0x020000000000 + 0x1000000 * i) ++
  [0x020100000000, 0x020101000000, 0x020102000000, 0x020103000000, 0x020104000000, 0x040000000000, 0x040000200000]

/-- Points of a region, one in each stretch of the map that it covers. -/
def Region.points (r : Region) : List Nat :=
  r.base :: mapEdges.filter fun e => decide (r.base < e) && decide (e < r.base + r.size)

/-- Unmapped, dump SRAM or a core-relative window. -/
def badTarget : Target → Bool
  | .dram _ | .stock _ | .ledge _ => false
  | .selfWin | .slotWin _ | .dump | .unmapped => true

/-- The first check of R235 that a REGIONS entry fails, or 0. -/
def regionCheck (part : Part) (r : Region) : Nat :=
  let pts := r.points
  firstFail [
    (1, decide (r.base % 0x1000 ≠ 0) || decide (r.size = 0) || decide (r.size % 0x1000 ≠ 0) || decide (r.baseHi / 4 ≠ 0)
        || decide (16 ≤ r.rflags) || !r.clean),
    (2, pts.any (absentAt part)),
    (3, pts.any fun a => badTarget (target a)),
    (4, pts.any fun a => decide (target a ≠ target r.base))]

/-! ### Stream profiles (R176) -/

/-- Reserved bits and bytes of a stream profile are 0, REMOTE too. -/
def StreamProf.clean (x : StreamProf) : Bool :=
  decide (byteAt x.b 0 < 64) && decide (byteAt x.b 2 < 16) && decide (byteAt x.b 3 < 8) && decide (byteAt x.b 4 < 16) &&
  decide (byteAt x.b 5 < 8) && decide (byteAt x.b 7 = 0) && (slice x.b 0x86 10).all (· = 0) &&
  [x.dst 0, x.dst 1, x.goldSrc, x.goldDst].all (fun a => decide (a.rsv = 0) && !a.remote) &&
  [x.bead 0, x.bead 1, x.goldBead].all (fun v => decide (v < 0x4000))

/-- Check 1 of R176 fails. STEP and the golden output size of a RAW_PASS profile are 0 by check 6, so their ranges bind the
other modes (log 11). -/
def streamBad1 (part : Part) (c : CtxId) (x : StreamProf) : Bool :=
  let w := x.binned
  let p := x.crop
  !x.clean || decide (byteAt x.b 2 ≠ c.1) || decide (x.mode = 3) || decide (x.chan = 3) ||
  !(x.die = 0 || hasN1 part) || !(profTypes.contains x.dt) ||
  !(decide (1 ≤ x.inW) && decide (x.inW ≤ 8192) && decide (1 ≤ x.inH) && decide (x.inH ≤ 8192)) ||
  !(decide (1 ≤ x.outW) && decide (x.outW ≤ 4096) && decide (1 ≤ x.outH) && decide (x.outH ≤ 4096)) ||
  !(decide (1 ≤ x.sigLines) && decide (x.sigLines ≤ 256)) ||
  decide (256 < x.gold.1) || decide (256 < x.gold.2) ||
  (decide (x.mode ≠ 2) && (
    !(decide (0x8000 ≤ x.step.1) && decide (x.step.1 ≤ 0x80000) && decide (0x8000 ≤ x.step.2) &&
      decide (x.step.2 ≤ 0x80000)) ||
    (decide (x.mode = 1) && (decide (p.2.2.1 = 0) || decide (p.2.2.2 = 0))) ||
    decide (w.1 < p.1 + p.2.2.1) || decide (w.2 < p.2.1 + p.2.2.2) ||
    !(decide (1 ≤ x.goldOut.1) && decide (x.goldOut.1 ≤ 4096) && decide (1 ≤ x.goldOut.2) &&
      decide (x.goldOut.2 ≤ 4096))))

/-- A bead field is outside the context's ranges. -/
def State.beadOutside (s : State) (c : CtxId) (v : Nat) : Bool :=
  let k := beadField v
  !s.ownsBead c k.1 k.2

/-- Check 4 of R176 fails. -/
def streamBad4 (s : State) (c : CtxId) (x : StreamProf) : Bool :=
  [0, 1].any (fun k => !s.inRegions c (x.dst k).addr x.bufBytes true || s.beadOutside c (x.bead k)) ||
  (x.hasGold && (
    !s.inRegions c x.goldSrc.addr (lineLen x.dt x.gold.1 * x.gold.2) false ||
    !s.inRegions c x.goldDst.addr (x.geo x.goldOut.1 x.goldOut.2).bytes true || s.beadOutside c x.goldBead))

/-- The stream profiles of a context in ascending INDEX: die, profile. -/
def State.camSlots (s : State) (c : CtxId) : List (DieId × Fin 32) :=
  (allFin 2).flatMap fun d => (allFin 32).filterMap fun i =>
    if (s.sec 0x26 c.1 (32 * d.1 + i.1)).isSome then some (d, i) else none

/-- The PROCESS profiles that a Crusher would hold with those of a list (R176 check 5). -/
def crusherLoad (s : State) (c : CtxId) (d : DieId) (cru : Nat) (mine : List StreamProf) : List StreamProf :=
  ((allFin 32).filterMap fun i => match ((s.die d).cams.get i).ctx with
    | some o => if o = c then none else some (s.camProf o d i)
    | none => none).filter (fun x => x.mode = 1 && x.cru = cru)
  ++ mine.filter fun x => x.mode = 1 && x.cru = cru && x.die = d.1

/-- Check 6 of R176 fails. -/
def streamBad6 (x : StreamProf) : Bool :=
  !([0x2B, 0x2C, 0x2D, 0x2E].contains x.dt) || decide (x.outW ≠ x.inW) || decide (x.outH ≠ x.inH) ||
  decide (byteAt x.b 4 ≠ 0) || decide (x.step ≠ (0, 0)) || decide (x.off ≠ (0, 0)) || decide (x.crop ≠ (0, 0, 0, 0)) ||
  (slice x.b 0x6C 0x1A).any (· ≠ 0)

/-- The first check of R176 that a stream profile fails, or 0; `upTo` holds the context's profiles up to it. -/
def streamCheck (s : State) (c : CtxId) (x : StreamProf) (upTo : List StreamProf) : Nat :=
  let p := decide (x.mode = 1)
  let r := decide (x.mode = 2)
  let d : DieId := ⟨x.die % 2, Nat.mod_lt _ (by decide)⟩
  let l := crusherLoad s c d x.cru upTo
  firstFail [
    (1, streamBad1 s.part c x),
    (2, p && x.bin && (decide (x.inW % 4 ≠ 0) || decide (x.inH % 4 ≠ 0))),
    (3, p && decide (dtSamples x.dt = 2) && decide (x.inW % 2 ≠ 0)),
    (4, (p || r) && streamBad4 s c x),
    (5, p && (decide (8 < l.length) || decide (524288 < sumN (l.map (·.lineMem))))),
    (6, r && streamBad6 x)]

/-! ### Flow profiles and templates (R276) -/

/-- Check 1 of R276 fails. -/
def flowBad1 (part : Part) (c : CtxId) (x : FlowProf) : Bool :=
  !(decide (byteAt x.b 0 < 8) && (x.die = 0 || hasN1 part) && decide (byteAt x.b 1 = c.1) && decide (x.template < 16) &&
    decide (1 ≤ x.tmo) && decide (x.tmo ≤ 200) && decide (1 ≤ x.maxPts) && decide (x.maxPts ≤ 16777216) &&
    decide (1 ≤ x.sigPoints) && decide (x.goldNfr ≤ 64) && decide (fld x.b 0x0A 2 = 0) && decide (fld x.b 0x32 2 = 0) &&
    (slice x.b 0x54 44).all (· = 0) &&
    [x.dst 0, x.dst 1, x.goldSrc, x.goldDst].all (fun a => decide (a.rsv = 0) && !a.remote) &&
    [x.bead 0, x.bead 1, x.goldBead].all (fun v => decide (v < 0x4000)) &&
    (List.range 256).all fun i => decide (fld x.b (140 + 16 * i) 4 = 0))

/-- Check 2 of R276 fails. -/
def flowBad2 (s : State) (c : CtxId) (x : FlowProf) : Bool :=
  [0, 1].any (fun k => !s.inRegions c (x.dst k).addr x.bufBytes true || s.beadOutside c (x.bead k)) ||
  (decide (0 < x.goldNfr) && (
    !s.inRegions c x.goldSrc.addr (goldFramesLen (goldFrames s.peek x.goldNfr x.goldSrc.addr)) false ||
    !s.inRegions c x.goldDst.addr x.bufBytes true || s.beadOutside c x.goldBead))

/-- A field descriptor is valid at one of the given levels (R274). -/
def Fd.okAt (d : Fd) (levels : List Nat) : Bool :=
  decide (d.rsv = 0) && levels.contains d.level && (decide (d.level = 3) || decide (d.ty ≤ 8))

/-- Check 4 of R276 fails. NBLK binds when FD_COUNT is absent (R275). -/
def templateBad (t : Template) : Bool :=
  let any := [0, 1, 2]
  !(decide (t.hdrSkip ≤ 8192) && decide (1 ≤ t.blkStride) && decide (t.blkStride ≤ 8192) && decide (1 ≤ t.recStride) &&
    decide (t.recStride ≤ 1024) && decide (byteAt t.b 9 < 16) && decide (1 ≤ t.nrec) && decide (t.nrec ≤ 256) &&
    (decide (t.fdCount.level ≠ 3) || (decide (1 ≤ t.nblk) && decide (t.nblk ≤ 64))) &&
    decide (t.intSh ≤ 15) && decide (byteAt t.b 0x3B = 0) &&
    t.fdCount.okAt [0, 3] && t.fdRange.okAt [2] && t.fdAz.okAt [1, 2] && t.fdInt.okAt [0, 1, 2, 3] &&
    t.fdEl.okAt (if t.tflag 0 then any else [0, 1, 2, 3]) && t.fdCh.okAt (if t.tflag 1 then any else [0, 1, 2, 3]) &&
    t.fdSweep.okAt (if t.tflag 2 then any else [0, 1, 2, 3]) && t.fdTime.okAt (if t.tflag 3 then [0, 1] else [0, 1, 2, 3]))

/-- The flow profiles of a context in ascending INDEX. -/
def State.flowSlots (s : State) (c : CtxId) : List (DieId × Fin 16) :=
  (allFin 2).flatMap fun d => (allFin 16).filterMap fun i =>
    if (s.sec 0x27 c.1 (16 * d.1 + i.1)).isSome then some (d, i) else none

/-- The first check of R276 that a flow profile or its template fails, or 0. -/
def flowCheck (s : State) (c : CtxId) (d : DieId) (x : FlowProf) : Nat :=
  firstFail [
    (1, flowBad1 s.part c x),
    (2, flowBad2 s c x),
    (3, decide (65536 ≤ (x.maxPts + x.sigPoints - 1) / x.sigPoints)),
    (4, templateBad (s.template d x.template))]

/-! ### The checks of R530 -/

/-- DETAIL of class 14 (R358). -/
def configDetail (index die check : Nat) : Nat := index + die * 2 ^ 16 + check * 2 ^ 24

/-- A refused check: code and DETAIL. -/
def configFail (code : U16) (index die check : Nat) : Option (U16 × Nat) :=
  if check = 0 then none else some (code, configDetail index die check)

/-- The first failure of the configuration of a context: code and DETAIL (R530). -/
def configCheck (s : State) (c : CtxId) : Option (U16 × Nat) :=
  let regs := (s.regions c).map fun r => configFail 0x0E03 r.idx 0 (regionCheck s.part r)
  let slots := s.camSlots c
  let cams := (List.range slots.length).filterMap fun k => (slots[k]?).map fun e =>
    let upTo := (slots.take (k + 1)).map fun f => s.camProf c f.1 f.2
    configFail 0x0E01 e.2.1 e.1.1 (streamCheck s c (s.camProf c e.1 e.2) upTo)
  let flows := (s.flowSlots c).map fun e =>
    let x := s.flowProf c e.1 e.2
    let n := flowCheck s c e.1 x
    configFail 0x0E02 (if n = 4 then x.template else e.2.1) e.1.1 n
  ((regs ++ cams ++ flows).find? (·.isSome)).join

/-! ### Loading (R173, R273, R276) -/

/-- Loads the profiles of a context into the I/O dies. -/
def loadProfiles (s : State) (c : CtxId) : State :=
  let g := (s.ctx c).gen
  { s with io := Vector.ofFn fun d =>
      let x := s.io.get d
      { x with
        cams := Vector.ofFn fun i =>
          if (s.sec 0x26 c.1 (32 * d.1 + i.1)).isSome then { ctx := some c, gen := g } else
          let r := x.cams.get i
          if r.ctx = some c then {} else r
        flows := Vector.ofFn fun i =>
          if (s.sec 0x27 c.1 (16 * d.1 + i.1)).isSome then { ctx := some c, gen := g } else
          let r := x.flows.get i
          if r.ctx = some c then {} else r
        mac := Vector.ofFn fun m =>
          let r := x.mac.get m
          { r with table := (List.range 64).map fun k =>
              let e := slice (s.secD 0x12 0xFF (4 * d.1 + m.1)) (16 * k) 16
              let mine := !bit (byteAt e 6) 1 || (s.sec 0x27 c.1 (16 * d.1 + byteAt e 7)).isSome
              if mine then e else slice r.table.flatten (16 * k) 16 } } }

end Sys2Proof.Machine
end

