-- ==== Sys2Proof/Machine/Use.lean ====
section
/-!
DEFINITION. Machine/Use.lean: the power domains, when one is in use, and what a domain keeps (R475 to R479).
-/

namespace Sys2Proof.Machine

/-- The power domains (R475). -/
inductive Dom where
  | core (i : CoreId)
  | ledge (i : CoreId)
  | stock (j : Fin 2)
  | mem (k : StackId)
  | cam (d : DieId) (g : Fin 2)
  | cru (d : DieId)
  | eth (d : DieId)
  | pcie
  | ring (p : RingPort)
  | safety
  | always
  | absent
  deriving DecidableEq, Repr

/-- The domain of an ID (R475). -/
def domOf (n : Nat) : Dom :=
  if h : n < 0x0C then .core ⟨n, h⟩
  else if h : 0x10 ≤ n ∧ n - 0x10 < 0x0C then .ledge ⟨n - 0x10, h.2⟩
  else if n = 0x20 then .stock 0
  else if n = 0x21 then .stock 1
  else if h : 0x28 ≤ n ∧ n - 0x28 < 8 then .mem ⟨n - 0x28, h.2⟩
  else match n with
    | 0x30 => .cam 0 0
    | 0x31 => .cam 0 1
    | 0x32 => .cru 0
    | 0x33 => .eth 0
    | 0x34 => .pcie
    | 0x35 => .ring .e
    | 0x36 => .ring .w
    | 0x38 => .cam 1 0
    | 0x39 => .cam 1 1
    | 0x3A => .cru 1
    | 0x3B => .eth 1
    | 0x3E => .safety
    | 0x3F => .always
    | _ => .absent

/-- The ID of the CAM group of a port, of the CRU group and of the ETH group of a die. -/
def camDom (d : DieId) (port : Nat) : Nat := 0x30 + 8 * d.1 + (if port < 4 then 0 else 1)
/-- CRU group of a die. -/
def cruDom (d : DieId) : Nat := 0x32 + 8 * d.1
/-- ETH group of a die. -/
def ethDom (d : DieId) : Nat := 0x33 + 8 * d.1

/-- The domain is populated on this part (R475, R12). -/
def domPresent (part : Part) (n : Nat) : Bool :=
  match domOf n with
  | .mem k => stackPresent part k
  | .cam d _ | .cru d | .eth d => diePresent part d
  | .absent => false
  | _ => true

/-- A domain that never leaves ON (R475). -/
def domFixed (n : Nat) : Bool := domOf n = .safety || domOf n = .always

/-- A weight region: initialised by a section and shared read-only (R260, R448). -/
def Region.isWeights (r : Region) : Bool := r.shared && decide (r.sect ≠ 0xFFFF)

/-- The partition of a region's mirror (R448). -/
def Region.mirrorPart (r : Region) (p : PartId) : PartId := if r.mirror = 0xFF then Machine.mirrorPart p else partOf r.mirror

/-- An address of the partition's stacks belongs to a region of an enabled context, to a weight mirror or to a recorder
extent. -/
def State.memInUse (s : State) (p : PartId) : Bool :=
  ((allFin 16).any fun c => (s.regions c).any fun r =>
    (s.enabled c && decide (target r.base = .dram p)) ||
    (r.isWeights && match target r.base with
      | .dram q => decide (r.mirrorPart q = p)
      | _ => false)) ||
  ((List.range 4).any fun i => decide (fld s.devCfg (0x26 + 8 * i) 2 ≠ 0) && decide (target (fld s.devCfg (0x20 + 8 * i) 6) = .dram p))

/-- The flow table of a MAC of the die holds a valid entry of the context: one whose profile is its own (R273, R476). -/
def State.flowEntry (s : State) (c : CtxId) (d : DieId) : Bool :=
  (allFin 4).any fun m => let b := s.secD 0x12 0xFF (4 * d.1 + m.1)
    (List.range 64).any fun k => bit (byteAt b (16 * k + 6)) 0 &&
      (s.sec 0x27 c.1 (16 * d.1 + byteAt b (16 * k + 7))).isSome

/-- The domain is in use (R476). Which MACs the UDP destinations of a context use is a free value (log 7, log 8). -/
def State.domInUse (s : State) (n : Nat) : Bool :=
  match domOf n with
  | .core i | .ledge i => s.coreInUse i
  | .stock j => s.active.any fun c => (s.regions c).any fun r => decide (target r.base = .stock j)
  | .mem k => s.memInUse (partOfStack k)
  | .cam d g => s.active.any fun c => (s.camSlots c).any fun e =>
      decide (e.1 = d) && decide ((s.camProf c e.1 e.2).port / 4 = g.1) && decide ((s.camProf c e.1 e.2).mode ≠ 0)
  | .cru d => s.active.any fun c => (s.camSlots c).any fun e => decide (e.1 = d) && decide ((s.camProf c e.1 e.2).mode = 1)
  | .eth d => (s.active.any fun c => s.flowEntry c d) ||
      (let v := byteAt s.devCfg 0x10
       bit v 7 && decide (bits v 2 2 = d.1)) || s.active.any fun c => Config.udpDest c.1 d.1
  | .pcie => !s.hst.hostAbsent
  | .ring _ => s.ringEn && !s.rng.idle
  | .safety | .always => true
  | .absent => false

/-- A fenced core or its Ledge (R476, R478). -/
def State.domFenced (s : State) (n : Nat) : Bool :=
  match domOf n with
  | .core i | .ledge i => s.isFenced i
  | _ => false

/-! ### What a domain keeps (R475) -/

/-- Drops the bytes of a stack. -/
def dropStack (s : State) (k : StackId) : State :=
  let p := partOfStack k
  let off := fun a => !(decide (target a = .dram p) && decide (stackOf s.part p a = k))
  { s with mem := s.mem.filter fun c => off c.1, bad := s.bad.filter off }

/-- The stream slots of a die whose profile meets a condition forget what they hold. -/
def dropSlots (s : State) (d : DieId) (p : StreamProf → Bool) : State :=
  s.onDie d fun x => { x with cams := Vector.ofFn fun i => match (x.cams.get i).ctx with
    | some c => if p (s.camProf c d i) then {} else x.cams.get i
    | none => x.cams.get i }

/-- What an I/O group loses in OFF: the ports' registers and the profiles of their streams. -/
def camDown (s : State) (d : DieId) (g : Fin 2) : State :=
  dropSlots (s.onDie d fun x => { x with csi := Vector.ofFn fun i => if i.1 / 4 = g.1 then {} else x.csi.get i }) d
    fun x => decide (x.port / 4 = g.1)

/-- FLR, PERST_N, hot reset and OFF: the RW registers of HST, the rings, the mailbox and BAR4 (R475, R491, R496, R499, R500,
R502). -/
def resetEndpoint (s : State) : State :=
  s.onHst fun h => { h with
    bar2Base := 0, rings := Vector.replicate 17 {}, cmdTag := 0, cmdOp := 0, tag := 0, state := 0, status := 0, argLen := 0
    rspLen := 0, msix := Vector.replicate 64 (0, 0, 0), pba := 0, d3hot := false }

/-- The contents of a domain that enters RET or OFF: what it does not keep is at its reset value. -/
def domLose (s : State) (n : Nat) (ret : Bool) : State :=
  match domOf n with
  | .core i => s.onCore i fun x => coreDown x ret
  | .ledge i =>
    let s := s.onCore i fun x => { x with ldgCe := 0, ldgUe := 0 }
    if ret then s else dropWindow s (ledgeBase i) 0x1000000
  | .stock j =>
    let s := s.onStk j fun _ => {}
    if ret then s else dropWindow s (0x010000000000 + 0x8000000 * j.1) 0x6000000
  | .mem k =>
    let s := s.onMc k fun m => if ret then { ({} : McRegs) with present := m.present, trained := m.trained } else {}
    if ret then s else dropStack s k
  | .cam d g => if ret then s else camDown s d g
  | .cru d =>
    if ret then s else dropSlots (s.onDie d fun x => { x with cru := Vector.replicate 2 {} }) d fun x => decide (x.mode = 1)
  | .eth d => if ret then s else s.onDie d fun x => { x with mac := Vector.replicate 4 {}, flows := Vector.replicate 16 {} }
  | .pcie => if ret then s else (resetEndpoint s).onHst fun h => { h with linkUp := false }
  | .ring p => if ret then s else s.onPort p fun _ => {}
  | .safety | .always | .absent => s

/-- A domain enters RET or OFF (R477). -/
def domDown (s : State) (n : Nat) (ret host : Bool) : State :=
  (domLose s n ret).onDom n fun d => { d with state := if ret then .ret else .off, hostReq := host }

/-- A domain comes ON by a source of `PWR_DOM.LAST_WAKE`: on FIO, or already on its PLL-derived clock. A stack out of OFF
is trained (R479, R484). -/
def domUp (s : State) (n : Nat) (src : Nat) (pll : Bool) : State :=
  let s := match domOf n with
    | .mem k => s.onMc k fun m => { m with present := true, trained := true }
    | _ => s
  s.onDom n fun d => d.up src pll

/-- A domain in use is not ON on its PLL-derived clock yet. -/
def State.domWaits (s : State) (n : Nat) : Bool :=
  domPresent s.part n && !domFixed n && !s.domFenced n && s.domInUse n && !s.domLive n

/-- The PWP brings the domains ON that come into use (R476); one that does not run lets them wait (R454, R483). -/
def bringOn (s : State) : State :=
  if !s.pwpRuns then s
  else (List.range 64).foldl (fun s n => if s.domWaits n then domUp s n 7 s.pwr.pll else s) s

end Sys2Proof.Machine
end

