-- ==== Sys2Proof/Machine/Rails.lean ====
section
/-!
DEFINITION. Machine/Rails.lean: operating points, the divider that a partition is to run at, and the order of voltage and
frequency in a change (R470, R471, R480 to R483).
-/

namespace Sys2Proof.Machine

/-- Updates the clock and rail of a partition. -/
def State.onRail (s : State) (p : PartId) (f : PwrPart → PwrPart) : State := s.onPart p fun x => { x with pwr := f x.pwr }

/-- Clock and rail of a partition. -/
def State.rail (s : State) (p : PartId) : PwrPart := (s.prt p).pwr

/-- Order of the dividers, fastest first. -/
def divRank : Divider → Nat
  | .d5 => 0
  | .d6 => 1
  | .d8 => 2
  | .d10 => 3

/-- One step slower (R480). -/
def divDown : Divider → Divider
  | .d5 => .d6
  | .d6 => .d8
  | .d8 | .d10 => .d10

/-- One step faster (R480). -/
def divUp : Divider → Divider
  | .d10 => .d8
  | .d8 => .d6
  | .d6 | .d5 => .d5

/-- The slower of two dividers. -/
def slower (a b : Divider) : Divider := if divRank a < divRank b then b else a

/-- AVS floor and ceiling of a divider in mV (R470). -/
def avsRange : Divider → Nat × Nat
  | .d5 => (720, 850)
  | .d6 => (670, 800)
  | .d8 => (620, 740)
  | .d10 => (600, 680)

/-- The divider that R470 selects for a partition. -/
def State.wantDiv (s : State) (p : PartId) : Divider := if s.active.any fun c => s.hasWork c p then .d5 else .d10

/-- The divider that the PWP chooses: that of R470, or the slowest that the thermal loop, the power cap and the way back from a
thermal emergency ask for (R470, R480 to R483, log 37). -/
def State.pickDiv (s : State) (p : PartId) : Divider :=
  slower (s.wantDiv p) (slower (s.rail p).heat (slower (s.rail p).capped (s.rail p).cooling))

/-- The thermal loop or the power cap holds a slower divider (R484). -/
def State.throttled (s : State) (p : PartId) : Bool :=
  decide (divRank (s.wantDiv p) < divRank (slower (s.rail p).heat (s.rail p).capped))

/-- The target has been at or above the floor for the settling time of a step, 20 µs (R471, R472). -/
def PwrPart.settled (x : PwrPart) : Bool :=
  decide (x.floorMv ≤ x.avsMv) && decide (x.avsPast.length = 2) && x.avsPast.all fun v => decide (x.floorMv ≤ v)

/-- The faster divider that waits is taken once voltage is ahead of it (R471, R483). -/
def PwrPart.settle (x : PwrPart) : PwrPart :=
  match x.div with
  | some d => if divRank x.want < divRank d && x.settled then { x with div := some x.want } else x
  | none => x

/-- The PWP asks for an operating point: floor and ceiling, and the divider, a slower one at once, a faster one when the voltage
has settled; a partition on FIO has none (R470, R471). -/
def PwrPart.ask (x : PwrPart) (d : Divider) : PwrPart :=
  let r := avsRange d
  let x := { x with want := d, floorMv := BitVec.ofNat 10 r.1, ceilMv := BitVec.ofNat 10 r.2, overRun := 0 }
  match x.div with
  | some c => if divRank c ≤ divRank d then { x with div := some d } else x.settle
  | none => x

/-- The PWP asks for a partition's divider; the thermal force wins, and a PWP that does not run asks for nothing (R471, R483). -/
def askDiv (s : State) (p : PartId) (d : Divider) : State :=
  if (s.rail p).forced || !s.pwpRuns then s else s.onRail p fun x => x.ask d

/-- The PWP moves a partition whose divider is no longer the one to choose (R470). -/
def chooseDiv (s : State) (p : PartId) : State := if (s.rail p).want = s.pickDiv p then s else askDiv s p (s.pickDiv p)

/-- The same for every partition. -/
def chooseDivs (s : State) : State := (allFin 4).foldl chooseDiv s

end Sys2Proof.Machine
end

