-- ==== Sys2Proof/Machine/Frames.lean ====
section
/-!
DEFINITION. Machine/Frames.lean: entering STARTING, triggers, frame start and frame end (R33 to R40, R54, R134,
R141, R384, R392).
-/

namespace Sys2Proof.Machine

/-! ### Entering STARTING (R33, R34, R36) -/

/-- The context's fields after it enters STARTING: the next generation, everything of the context block at zero. What the next
record is to count goes on (R79, R494). -/
def CtxRt.started (x : CtxRt) : CtxRt :=
  { gen := x.gen + 1, classCnt := x.classCnt, override := x.override, verdict := x.verdict, reason := x.reason,
    hasVerdict := x.hasVerdict, framesTotal := x.framesTotal, staleTxn := x.staleTxn
    missedSince := x.missedSince, droppedSince := x.droppedSince }

/-- The kind of a bead of the context, BEADS section: true for a stream bead (R54). -/
def State.streamBead (s : State) (c : CtxId) (p : PartId) (i : Nat) : Bool :=
  let before := sumN (((allFin 4).filter fun q => decide (q.1 < p.1)).map fun q => (s.beadRange c q).2)
  byteAt (s.secD 0x24 c.1 0) (before + (i - (s.beadRange c p).1)) = 1

/-- Sets the beads of the context's ranges to 0: all of them, or the frame beads only (R34, R54). -/
def clearBeads (s : State) (c : CtxId) (whole : Bool) : State :=
  { s with parts := Vector.ofFn fun p =>
      let x := s.parts.get p
      { x with beads := x.beads.filter fun e => !(s.ownsBead c p e.1 && (whole || !s.streamBead c p e.1)) } }

/-- Writes SAT_THRESH, OWNER and ASSIGNED of the context's statistics slots (R134). -/
def assignSlots (s : State) (c : CtxId) : State :=
  let b := s.secD 0x2A c.1 0
  (List.range (b.length / 16)).foldl (fun s k =>
    let e := slice b (16 * k) 16
    s.onPart (partOf (byteAt e 0)) fun x => 
      { x with stats := if h : byteAt e 1 < 256 then x.stats.set (byteAt e 1) { x.stats[byteAt e 1] with
          thresh := BitVec.ofNat 32 (fld e 4 4), owner := c, assigned := true } else x.stats }) s

/-- Clears the statistics slots of a context, as at each frame start (R134). -/
def clearSlots (s : State) (c : CtxId) : State :=
  { s with parts := s.parts.map fun x => { x with
      stats := x.stats.map fun t => if t.assigned ∧ t.owner = c then t.clear else t } }

/-- Loads the scale table of a context from the image (R141). -/
def loadScaleTable (s : State) (c : CtxId) : State :=
  match s.scaleTable c, s.sec 0x28 c.1 0 with
  | some t, some b =>
    let n := 4 * s.scaleN c
    let img := le 4 0 ++ le 4 0xFFFFFFFF ++ slice b 8 0x38 ++ slice b 0x40 n ++ slice b 0x40 n ++ slice b (0x40 + 2 * n) n
    svpWrite s t img
  | _, _ => s

/-- The lists of a context lie in its region of KIND 3 in their partition (R450); where the region has no room for a list, it
stays with the SVP (log 35). -/
def loadLists (s : State) (c : CtxId) : State :=
  (s.lists c).foldl (fun s l => match s.listAddr c l with
    | some a => svpWrite s a l.bytes
    | none => s) s

/-- A queue forgets a context: QSEQ, stage order and golden counts start again (R44, R45, R48). -/
def QueueRt.forget (x : QueueRt) (c : CtxId) : QueueRt :=
  { x with
    expect := x.expect.set c.1 (Vector.replicate 4 0)
    lastStage := x.lastStage.set c.1 (Vector.replicate 4 0)
    golden := x.golden.filter fun e => decide (e.1.1 ≠ c) }

/-- Every queue forgets a context. -/
def forgetQueues (s : State) (c : CtxId) : State :=
  allQueues.foldl (fun s q => s.onQueue q fun x => x.forget c) s

/-- The context enters STARTING with its next generation (R33, R34, R36). -/
def enterStarting (s : State) (c : CtxId) : State :=
  let s := setCtxState (s.onCtx c CtxRt.started) c .starting
  let s := forgetQueues (clearBeads s c true) c
  chooseDivs (loadProfiles (loadLists (loadScaleTable (assignSlots s c) c) c) c)

/-- A context is IDLE; its partitions may run slower (R34, R470). -/
def toIdle (s : State) (c : CtxId) : State := chooseDivs (setCtxState s c .idle)

/-- The start of a context with the checks of R530: true when it enters STARTING. A refused context is IDLE and one
CONFIG record names the failed check (R176, R235, R276). -/
def tryStart (s : State) (c : CtxId) : Bool × State :=
  match configCheck s c with
  | some f =>
    let s := event s srcSvp f.1 (some (s.cg c)) f.2
    (false, if (s.ctx c).state = .idle then s else toIdle s c)
  | none => (true, enterStarting s c)

/-! ### Buffers (R38, R54, R384) -/

/-- The buffer that a frame consumes from a stream, and whether the stream is INCOMPLETE at the trigger; none for a
stream that is not one or whose profile is OFF. `arrival` names the rule of R384, `missing` the streams without their
event at an arrival timeout. -/
def consumeOne (s : State) (c : CtxId) (arrival : Bool) (missing : U64) (i : Fin 64) : Option (Consumed × Bool) :=
  let k := s.streamCfg c i.1
  let d : DieId := ⟨k.2.1 % 2, Nat.mod_lt _ (by decide)⟩
  let pick (recent : Option (Fin 2)) (last : Fin 2) (bufs : Vector BufInfo 2) (flow : Bool) :=
    let b := if missing.getLsbD i.1 then none
      else if arrival then recent
      else if (bufs.get last).opened then some last else none
    some ((⟨i, flow, d, k.2.2, b⟩ : Consumed), b.isNone)
  if k.1 = 1 then
    let j : Fin 32 := ⟨k.2.2 % 32, Nat.mod_lt _ (by decide)⟩
    let x := (s.die d).cams.get j
    if (s.camProf c d j).mode = 0 then none else pick x.recent x.last x.bufs false
  else if k.1 = 2 then
    let x := (s.die d).flows.get ⟨k.2.2 % 16, Nat.mod_lt _ (by decide)⟩
    pick x.recent x.last x.bufs true
  else none

/-- A trigger with what it names (R38, R384). -/
def latchTrigger (s : State) (c : CtxId) (flags : U32) (missing : U64) : Latched :=
  let l := (allFin 64).filterMap (consumeOne s c (s.arrivalTrig c) missing)
  { time := s.now64, flags := flags, consumed := l.map (·.1), classes := (s.ctx c).classCnt, thermal := s.pwr.emerg
    incomplete := l.foldl (fun m e => if e.2 then m ||| (1 <<< e.1.stream.1) else m) missing }

/-- The stream of a consumed buffer has had a sensor frame skipped, or discarded by a wake, since the last frame start (R55, R479). -/
def State.overran (s : State) (e : Consumed) : Bool :=
  if e.flow then ((s.die e.die).flows.get ⟨e.profile % 16, Nat.mod_lt _ (by decide)⟩).overrun
  else
    let x := (s.die e.die).cams.get ⟨e.profile % 32, Nat.mod_lt _ (by decide)⟩
    x.overrun || x.woke

/-- The streams that a frame names of which a sensor frame was skipped (R55, R310). -/
def State.overruns (s : State) (lat : Latched) : U64 :=
  lat.consumed.foldl (fun m e => if s.overran e then m ||| (1 <<< e.stream.1) else m) 0

/-- The frame that starts is the next one that names the streams with a skipped sensor frame (R55). -/
def withOverruns (s : State) (lat : Latched) : Latched := { lat with incomplete := lat.incomplete ||| s.overruns lat }

/-- The streams' overrun marks end with the frame that names them (R55). -/
def clearOverruns (s : State) (c : CtxId) : State :=
  { s with io := s.io.map fun d => { d with
      cams := d.cams.map fun x => if x.ctx = some c then { x with overrun := false, woke := false } else x
      flows := d.flows.map fun x => if x.ctx = some c then { x with overrun := false } else x } }

/-! ### Frame start (R40) -/

/-- A core is fenced in a partition where the context has work (R43, R312). -/
def State.coreFencedFor (s : State) (c : CtxId) : Bool :=
  (allFin 12).any fun i => s.isFenced i && s.touches c (partOfCore i)

/-- The degraded windows apply to a frame that starts: any core is fenced, or the thermal emergency holds (R43). -/
def State.degradedWindows (s : State) : Bool := s.pwr.emerg || decide (s.fencedMask ≠ 0)

/-- Stages of the frame before whose end has not reached the watchdog, with the minimum of their window (R43, R316). -/
def State.untoldEnds (s : State) (c : CtxId) : List (Fin 32 × Nat) :=
  let f := (s.ctx c).frame
  let deg := f.degradedWin
  let now := (allFin 32).filterMap fun i =>
    let r := f.stages.get i
    match s.stageCfg c i.1 with
    | some x => if r.phase = .ended ∧ !r.told ∧ !x.test then some (i, if deg then x.win.2.2.1 else x.win.1) else none
    | none => none
  now ++ f.ends.filter fun e => !now.any fun d => decide (d.1 = e.1)

/-- The split of a frame: a free choice where the image holds more than one (R64). -/
def pickSplit (s : State) (c : CtxId) : Nat × State :=
  let m := (s.lists c).foldl (fun m l => max m l.split) 0
  if m = 0 then (0, s) else (Config.stripeSplit s.free % (m + 1), { s with free := s.free + 1 })

/-- The source of FRAME_MARK and RESULT_MARK records (log 12). -/
def srcMark : U16 := srcId 2 0x13 0

/-- Writes the FRAME_MARK of a frame start (R392). -/
def frameMark (s : State) (c : CtxId) (lat : Latched) (late : Bool) : State :=
  let x := s.ctx c
  let streams := lat.consumed.filterMap fun e => e.buf.map fun b =>
    let i := if e.flow then ((s.die e.die).flows.get ⟨e.profile % 16, Nat.mod_lt _ (by decide)⟩).bufs.get b
      else ((s.die e.die).cams.get ⟨e.profile % 32, Nat.mod_lt _ (by decide)⟩).bufs.get b
    le 1 (e.stream.1 + 64 * b.1) ++ zeros 1 ++ le 2 i.recSrc.toNat ++ le 4 i.recSeq.toNat
  let mflags := b2n late + 2 * b2n (x.missedSince ≠ 0) + 4 * b2n (lat.flags.getLsbD fArrivalTimeout)
  recWrite s (.tap 0) srcMark 7 0 s.now64 0
    (le 1 c.1 ++ le 1 streams.length ++ le 2 x.gen.toNat ++ le 4 x.frameNum.toNat ++ le 8 lat.time.toNat ++
      le 4 mflags ++ le 4 x.missedSince.toNat ++ le 8 lat.incomplete.toNat ++ streams.flatten)

/-- A stage of the frame. -/
def State.stageRt (s : State) (c : CtxId) (i : Fin 32) : StageRt := (s.ctx c).frame.stages.get i

/-- Every stage with a lower number has ended: a TEST stage is then open until its window expires (R42). -/
def State.lowerEnded (s : State) (c : CtxId) (i : Fin 32) : Bool :=
  (allFin 32).all fun j => decide (i.1 ≤ j.1) || decide ((s.stageRt c j).phase = .ended)

/-- A TEST stage of the frame has started and its window has not expired; it opens after the last COMPUTE stage too (R42). -/
def State.testHere (s : State) (c : CtxId) (i : Fin 32) : Bool :=
  (s.ctx c).frame.begun && ((s.stageCfg c i.1).map (·.test)).getD false && decide ((s.stageRt c i).phase ≠ .ended) &&
  s.lowerEnded c i

/-- A TEST stage is open, of this frame or of an earlier one: its window ends it, and no frame start (R42). -/
def State.testOpen (s : State) (c : CtxId) (i : Fin 32) : Bool :=
  (s.ctx c).state = .run && ((s.ctx c).frame.tests.contains i || s.testHere c i)

/-- The frame state at a frame start (R40, R43, R72, R80, R304). -/
def freshFrame (s : State) (c : CtxId) (num : U32) (lat : Latched) (late : Bool) (split : Nat) : FrameRt :=
  let half := match s.scaleTable c with
    | some t => s.scaleHalfOf t num
    | none => (false, false)
  { inFlight := true, begun := true, ends := s.untoldEnds c, tests := (s.ctx c).frame.tests ++ (allFin 32).filter (s.testHere c)
    tTrigger := lat.time
    flags := lat.flags ||| flagBit fTriggerLate late ||| flagBit fScaleStale half.2
      ||| flagBit fHostAbsent s.hst.hostAbsent
    incomplete := lat.incomplete, consumed := lat.consumed, scaleHalf := half.1, split := split
    degradedWin := s.degradedWindows, thermal := s.pwr.emerg || lat.thermal, classAtTrig := lat.classes }

/-- A frame starts: number, frame beads, statistics slots, queues, FRAME_MARK (R40, R54, R134, R392). A frame without
descriptors ends at once (R39). -/
def frameStart (s : State) (c : CtxId) (lat : Latched) (late : Bool) : State :=
  let num := (s.ctx c).nextFrame
  let skip := s.overruns lat
  let lat := withOverruns s lat
  let sp := pickSplit (clearOverruns s c) c
  let s := sp.2
  let f := { freshFrame s c num lat late sp.1 with goldSkip := skip }
  let s := s.onCtx c fun x => { x with
    frameNum := num, nextFrame := num + 1, framesTotal := x.framesTotal + 1, latched := none, frame := f }
  let s := forgetQueues (clearSlots (clearBeads s c false) c) c
  let s := if s.boot.firstFrame then s else s.onBoot fun b => { b with
    firstFrame := true, timeUs := BitVec.ofNat 32 (s.ticks / 400) }
  let s := frameMark s c lat late
  if s.frameDone c then s.onFrame c fun f => { f with inFlight := false } else s

/-- The sequencer processor of a partition. -/
def State.seqProc (s : State) (p : PartId) : FwpRegs := s.fwp.get ⟨2 + p.1, by omega⟩

/-- A sequencer that fills queues of the context is restarting: triggers are latched (R456). -/
def State.seqHeld (s : State) (c : CtxId) : Bool :=
  (allFin 4).any fun p => s.hasWork c p && (s.seqProc p).state = .restarting

/-- A trigger fires: the frame starts, or the trigger is latched, or it is discarded and counted (R39). -/
def trigger (s : State) (c : CtxId) (flags : U32) (missing : U64) : State :=
  let x := s.ctx c
  if x.state ≠ .run then s
  else if !x.frame.inFlight && !s.seqHeld c then
    let l := latchTrigger s c flags missing
    frameStart s c l false
  else if x.latched.isNone then
    let l := latchTrigger s c flags missing
    s.onCtx c fun x => { x with latched := some l }
  else s.onCtx c fun x => { x with trigMissed := sat32 x.trigMissed, missedSince := sat32 x.missedSince }

/-- An arrival event of a stream; the trigger fires when every named stream has delivered one (R38). -/
def arrival (s : State) (c : CtxId) (stream : Fin 64) : State :=
  let x := s.ctx c
  let named : U64 := BitVec.ofNat 64 (s.arrStreams c)
  if x.state ≠ .run ∨ !s.arrivalTrig c ∨ !named.getLsbD stream.1 ∨ s.dev = .replay then s
  else
    let a := x.arrived ||| (1 <<< stream.1)
    if a = named then trigger (s.onCtx c fun x => { x with arrived := 0 }) c 0 0
    else s.onCtx c fun x => { x with arrived := a }

/-- The frame ends when its last descriptor has completed; a latched trigger starts the next one (R39). -/
def frameEnd (s : State) (c : CtxId) : State :=
  let x := s.ctx c
  if x.frame.inFlight && s.frameDone c then
    let s := s.onFrame c fun f => { f with inFlight := false }
    match x.latched with
    | some l => if x.state = .run && !s.seqHeld c then frameStart s c l true else s
    | none => s
  else s

/-- A buffer of a stream is held by the frame in flight or by a latched trigger (R55). -/
def State.bufHeld (s : State) (c : CtxId) (flow : Bool) (d : DieId) (profile : Nat) (b : Fin 2) : Bool :=
  let x := s.ctx c
  let l := (if x.frame.inFlight then x.frame.consumed else []) ++ ((x.latched.map (·.consumed)).getD [])
  l.any fun e => e.flow = flow && e.die = d && e.profile = profile && e.buf = some b

/-- The buffer that ingress opens for a new sensor frame: the other one than last, else the last, neither when both
are held (R54, R55). -/
def State.nextBuf (s : State) (c : CtxId) (flow : Bool) (d : DieId) (profile : Nat) (last : Fin 2) : Option (Fin 2) :=
  let o : Fin 2 := if last = 0 then 1 else 0
  if !s.bufHeld c flow d profile o then some o
  else if !s.bufHeld c flow d profile last then some last
  else none

end Sys2Proof.Machine
end

