-- ==== Sys2Proof/Machine/Lockstep.lean ====
section
/-!
DEFINITION. Machine/Lockstep.lean: the comparison of a context with its lock-step partner (R400 to R403, R405).
-/

namespace Sys2Proof.Machine

/-- A lock-step message: T_TRIGGER, KEY, QSEQ and SIG (R402). -/
abbrev LksMsg := U64 × Byte × BitVec 12 × U64

/-- The lock-step slot of a context (R405, R489). -/
def State.lksSlot (s : State) (c : CtxId) : Option (Fin 4) := (allFin 4).find? fun i => (s.lks.get i).ctx = some c

/-- The 32 bytes of a message (R402). -/
def lksBytes (m : LksMsg) : Bytes :=
  le 8 m.1.toNat ++ [m.2.1] ++ zeros 1 ++ le 2 m.2.2.1.toNat ++ zeros 12 ++ le 8 m.2.2.2.toNat

/-- Reads a message (R402). -/
def lksOf (b : Bytes) : LksMsg :=
  (BitVec.ofNat 64 (fld b 0 8), BitVec.ofNat 8 (byteAt b 8), BitVec.ofNat 12 (fld b 10 2), BitVec.ofNat 64 (fld b 24 8))

/-- The partner's digests are not known to be equal to this device's; the program digest covers the period and the phase of the
trigger (R400, R427, R444). -/
def State.lksDiffers (s : State) (c : CtxId) : Bool :=
  match s.rng.digests.find? fun e => e.1 = c && e.2.1.toNat = (s.lksCfg c).2 with
  | some e => slice e.2.2.1 0 32 != slice (s.boot.prog.get c) 0 32 || slice e.2.2.2 0 15 != slice (s.boot.wgt.get c) 0 15
  | none => true

/-- What arming answers (R400, R405): deterministic mode, schedule trigger, partner a member, equal digests. -/
def lksArm (s : State) (c : CtxId) : LksState :=
  if s.relaxed c || s.arrivalTrig c then .notAllowed
  else if !s.rng.members.getLsbD (s.lksCfg c).2 then .peerLost
  else if s.lksDiffers c then .imageMismatch
  else .armed

/-- Arms the slot of a context, its message stores empty. -/
def lksStart (s : State) (c : CtxId) : State :=
  match s.lksSlot c with
  | none => s
  | some i => s.onLks i fun r => { r with
      state := lksArm s c, mine := [], theirs := [], stopAfter := none, suspended := none }

/-- Two messages are compared when T_TRIGGER, key and QSEQ agree (R402). -/
def sameKey (a b : LksMsg) : Bool := a.1 = b.1 && a.2.1 = b.2.1 && a.2.2.1 = b.2.2.1

/-- A comparison: count, and on a difference the mismatch registers (R402). -/
def lksCompare (r : LksRegs) (a b : LksMsg) : LksRegs :=
  let r := { r with cmp := r.cmp + 1 }
  if a.2.2.2 = b.2.2.2 then r
  else
    let r := { r with mismatch := sat32 r.mismatch }
    if r.state ≠ .armed then r
    else { r with state := .mismatch, stopAfter := some a.1, firstNs := BitVec.ofNat 32 (a.1.toNat % 2 ^ 30)
                  firstKey := a.2.1.setWidth 7, firstQseq := a.2.2.1 }

/-- A slot takes a message of this device (`own`) or of its partner (R402). -/
def lksTake (r : LksRegs) (own : Bool) (m : LksMsg) : LksRegs :=
  if (r.state ≠ .armed && !(r.state = .mismatch && r.stopAfter = some m.1)) || r.suspended = some m.1 then r
  else match (if own then r.theirs else r.mine).find? (sameKey m) with
    | some o =>
      let drop := fun l : List LksMsg => l.filter fun x => !sameKey m x
      lksCompare (if own then { r with theirs := drop r.theirs } else { r with mine := drop r.mine }) m o
    | none =>
      if 8192 ≤ r.mine.length + r.theirs.length then
        let drop := fun l : List LksMsg => l.filter fun x => decide (x.1 ≠ m.1)
        { r with suspended := some m.1, skipped := sat32 r.skipped, mine := drop r.mine, theirs := drop r.theirs }
      else if own then { r with mine := r.mine ++ [m] } else { r with theirs := r.theirs ++ [m] }

/-- The partner leaves the ring: comparison is suspended for the frame and until both devices re-arm (R402, R403). -/
def lksLost (s : State) (members : BitVec 4) : State :=
  (allFin 4).foldl (fun s i =>
    let r := s.lks.get i
    match r.ctx with
    | none => s
    | some c =>
      if !members.getLsbD (s.lksCfg c).2 && (r.state = .armed || r.state = .mismatch) then
        s.onLks i fun r => { r with
          state := .peerLost, mine := [], theirs := []
          skipped := if (s.ctx c).frame.inFlight then sat32 r.skipped else r.skipped }
      else s) s

/-- A descriptor of the context has completed: its message goes to the partner and is compared (R402). -/
def lksComplete (s : State) (c : CtxId) (m : LksMsg) : State :=
  match s.lksSlot c with
  | none => s
  | some i =>
    let partner := BitVec.ofNat 2 (s.lksCfg c).2
    let r := s.lks.get i
    let s := s.onLks i fun r => lksTake r true m
    if r.state = .armed ∨ r.state = .mismatch then ringSend s partner (.lks partner (lksBytes m)) else s

/-! ### Commands -/

/-- LKS_MESSAGE (R402). -/
def execLksMessage (c : CtxId) (msg : Bytes) (s : State) : Res :=
  let s' := match s.lksSlot c with
    | none => s
    | some i => s.onLks i fun r => lksTake r false (lksOf msg)
  finish s s'

/-- `LKS_CTRL.REARM`: after a mismatch or a suspension, once the slot is assigned (R405, R490). -/
def lksRearm (s : State) (slot : Fin 4) : State :=
  let r := s.lks.get slot
  match r.ctx with
  | none => s
  | some c => if r.state = .mismatch ∨ r.state = .peerLost ∨ r.suspended.isSome then lksStart s c else s

/-- LKS_CTRL_REARM (R405). -/
def execLksCtrlRearm (slot : Fin 4) (s : State) : Res := finish s (lksRearm s slot)

end Sys2Proof.Machine
end

