-- ==== Sys2Proof/Machine/Engine.lean ====
section
/-!
DEFINITION. Machine/Engine.lean: how an engine runs the descriptor at the head of its queue: what a run may meet
(R239, R244, R256, R331, R337), what it writes, its write elements (R401), and how it ends (R57, R361).
-/

namespace Sys2Proof.Machine

/-! ### Codes (R357) -/

def cStaleDesc : U16 := 0x0001
def cPairFenced : U16 := 0x0003
def cLedgeCe : U16 := 0x0101
def cStockCe : U16 := 0x0102
def cDramCe : U16 := 0x0103
def cLinkRetry : U16 := 0x0104
def cSramCe : U16 := 0x0105
def cArrayCheck : U16 := 0x0201
def cAccResidue : U16 := 0x0202
def cOutResidue : U16 := 0x0203
def cSettResidue : U16 := 0x0204
def cScreenResidue : U16 := 0x0205
def cDressResidue : U16 := 0x0206
def cFeedParity : U16 := 0x0207
def cScaleSkew : U16 := 0x0208
def cScaleCode : U16 := 0x0209
def cCrushEcc : U16 := 0x0304
def cIffUe : U16 := 0x0305
def cSpoilFormat : U16 := 0x0306
def cXportCrc : U16 := 0x0401
def cDescCrc : U16 := 0x0501
def cDescSeq : U16 := 0x0502
def cDescQueue : U16 := 0x0504
def cPairPos : U16 := 0x0508
def cDigestOrder : U16 := 0x0509
def cAdaptTwice : U16 := 0x050A
def cWdgEarly : U16 := 0x0601
def cWdgLate : U16 := 0x0602
def cBeadTimeout : U16 := 0x0603
def cDrainTimeout : U16 := 0x0604
def cPairMismatch : U16 := 0x0701
def cPairHubFault : U16 := 0x0702

/-! ### Words found wrong (R239, R241, R244, R529) -/

/-- Counts a word that a read corrected and reports it (R239, R241, R244). -/
def noteCe (s : State) (a : Nat) (ctx : Option (CtxId × BitVec 12)) : State :=
  match target a with
  | .ledge i =>
    event (s.onCore i fun x => { x with ldgCe := sat32 x.ldgCe }) (srcCore 0x06 i) cLedgeCe ctx (a % 0x1000000)
  | .stock j =>
    event (s.onStk j fun x => { x with ceCnt := sat32 x.ceCnt }) (srcId j.1 0x0D 0) cStockCe ctx
      (a - (0x010000000000 + 0x8000000 * j.1))
  | .dram p =>
    let k := stackOf s.part p a
    event (s.onMc k fun x => { x with ceCnt := sat32 x.ceCnt }) (srcMc k) cDramCe ctx a
  | _ => s

/-- The device address of the word that an uncorrectable-word fault names. -/
def Flt.ueAddr (f : Flt) : Option Nat :=
  if f.code = cLedgeUe then (f.cores.head?).map fun i => ledgeBase i + f.detail
  else if f.code = cStockUe then some (0x010000000000 + 0x8000000 * (f.src.toNat / 4096) + f.detail)
  else if f.code = cDramUe then some f.detail
  else none

/-- A DRAM transfer that fails its link ECC is retried once and counted; a second failure is an uncorrectable error (R244). -/
def linkRetry (ctx : Option (CtxId × BitVec 12)) (s : State) (e : Nat × Bool) : State :=
  match target e.1 with
  | .dram p =>
    let k := stackOf s.part p e.1
    let s := event (s.onMc k fun x => { x with linkCnt := sat32 x.linkCnt }) (srcMc k) cLinkRetry ctx e.1
    if e.2 then { s with bad := (e.1 / 8 * 8 :: s.bad).dedup } else s
  | _ => s

/-- Words that turn out wrong before a run: uncorrectable words are remembered, corrected ones and retries counted. -/
def applyFacts (s : State) (f : Facts) (ctx : Option (CtxId × BitVec 12)) : State :=
  let s := { s with bad := (f.ue.filter fun a => decide (target a ≠ Target.unmapped)).map (fun a => a / 8 * 8) ++ s.bad |>.dedup }
  f.linkEcc.foldl (linkRetry ctx) (f.ce.foldl (fun s a => noteCe s a ctx) s)

/-- Raises a fault of an access; an uncorrectable word is counted too. -/
def raiseRun (s : State) (f : Flt) (ctx : Option (CtxId × BitVec 12)) : State :=
  let s := match f.ueAddr with
    | some a => noteUe s a
    | none => s
  raiseFlt s f ctx

/-- Raises the fault that ends a run: a discard at an isolated boundary, which is only reported to the issuer of a signal or
of a request on the road, faults the context of a descriptor (R30, R258). -/
def runFault (s : State) (f : Flt) (c : CtxId) (g : BitVec 12) : State :=
  let s := raiseRun s f (some (c, g))
  if f.code = cIsolated ∧ g = (s.ctx c).gen then faultCtx (reactCtx s c) c cIsolated false else s

/-- Code STREAM_INCOMPLETE (R357). -/
def cStreamInc : U16 := 0x0D02
/-- Source ID of a CSI-2 port. -/
def srcCsi (d : DieId) (p : Nat) : U16 := srcId (2 + d.1) 0x11 p
/-- Source ID of a MAC. -/
def srcMac (d : DieId) (m : MacId) : U16 := srcId (2 + d.1) 0x12 m.1

/-! ### Write elements (R401) -/

/-- One element: tag and line. -/
def lksElem (region off mask : Nat) (line : Bytes) : U64 :=
  crc64 (le 1 region ++ le 7 off ++ le 4 mask ++ zeros 4 ++ slice line 0 32)

/-- Region index and offset of a line address: 0xFE and the offset in the Ledge, else the context's region. -/
def State.lksPlace (s : State) (c : CtxId) (a : Nat) : Nat × Nat :=
  if inLedges a then (0xFE, a % 0x1000000)
  else match (s.regions c).find? fun r => decide (r.base ≤ a) && decide (a < r.base + r.size) with
    | some r => (r.idx, a - r.base)
    | none => (0, a)

/-- The elements of one write, one for each aligned 32-byte line. -/
def lksElems (s : State) (c : CtxId) (a : Nat) (b : Bytes) : List U64 :=
  if b.isEmpty then [] else
  (List.range ((a + b.length - 1) / 32 + 1 - a / 32)).map fun i =>
    let l := 32 * (a / 32 + i)
    let lo := max l a
    let hi := min (l + 32) (a + b.length)
    let pl := s.lksPlace c l
    lksElem pl.1 pl.2 (2 ^ (hi - l) - 2 ^ (lo - l)) (zeros (lo - l) ++ slice b (lo - a) (hi - lo))

/-- The element of a bead signal (log 18). -/
def lksSignal (h : Hdr) : U64 := lksElem 0xFD (h.sigIdx + 4096 * h.sigPart.1) 0xF (le 4 h.sigInc)

/-- Sum and count of the elements of some writes. -/
def lksSum (s : State) (c : CtxId) (ws : List (Nat × Bytes)) : U64 × U64 :=
  let l := ws.flatMap fun w => lksElems s c w.1 w.2
  (l.foldl (· + ·) 0, BitVec.ofNat 64 l.length)

/-! ### Pairs (R336, R337) -/

/-- Updates the engines of a core, and those of its trailing core, which executes the same descriptors (R336). -/
def State.onEngine (s : State) (i : CoreId) (g : CoreRt → CoreRt) : State :=
  match s.trailOf i with
  | some t => (s.onCore i g).onCore t g
  | none => s.onCore i g

/-- Writes into the Ledge of a leading core also take effect in that of its trailing core (R336, R337, log 19). -/
def mirrorPair (s : State) (ws : List (Nat × Bytes)) : List (Nat × Bytes) :=
  ws.flatMap fun w => match s.trailAt w.1 with
    | some y => [w, (y, w.2)]
    | none => [w]

/-- Commits the writes of an engine. -/
def commitRun (s : State) (w : Who) (ws : List (Nat × Bytes)) : State :=
  s.commit (w.ctx, w.gen) (mirrorPair s ws)

/-! ### Running a descriptor -/

/-- A stage starts when the first of its descriptors starts (R42). -/
def startStage (s : State) (c : CtxId) (st : Nat) : State :=
  s.onFrame c fun f => if h : st < 32 then
      let x := f.stages[st]
      if x.phase = .notStarted then { f with stages := f.stages.set st { x with phase := .running } } else f
    else f

/-- What a run leaves: its writes in order, the state with its other effects, and the faults that ended it. -/
structure Out where
  /-- Absolute addresses and bytes. -/
  writes : List (Nat × Bytes) := []
  /-- Registers, counters, statistics, accumulators. -/
  after : State
  /-- The same when the physical world cuts the run: counters and accumulators, no statistics. -/
  cut : Option State := none
  /-- The same at a difference of the pair hub: the run's counters too, no statistics (R337). -/
  split : Option State := none
  /-- Why it ended before its end. -/
  flt : Option Flt := none
  /-- Further events of the same source, recorded after it (R110). -/
  more : List Flt := []

/-- What an engine step leaves when it fails: nothing of it takes effect. -/
def engOut (s : State) (r : Eng Out) : Out :=
  match r with
  | .ok o => o
  | .error f => { after := s, flt := some f }

/-- The core whose datapath an upset of a run hit: the trailing core of the pair when the upset is there (R116, R338). -/
def State.upsetCore (s : State) (f : Facts) (j : Job) : Option CoreId :=
  j.who.core.map fun i => if f.trail then (s.trailOf i).getD i else i

/-- Source ID of a block of the core that an upset hit. -/
def State.upsetSrc (s : State) (f : Facts) (j : Job) (ty : Nat) : U16 :=
  match s.upsetCore f j with
  | some i => srcCore ty i
  | none => qSrc j.q ty

/-- The fault of the physical world in a run: a failed link between the compute dies, transport, then the engine's residue
checkers (R29, R256, R331). -/
def factFlt (s : State) (f : Facts) (j : Job) (resid : Option (Nat × U16)) : Option Flt :=
  if f.link = some .d0d1 then some (linkFlt .d0d1)
  else match f.xport, resid with
  | some a, _ => some { src := endpointSrc s.part a.toNat, code := cXportCrc, detail := a.toNat }
  | none, some (ty, code) => if residueBad f then
      some { src := s.upsetSrc f j ty, code := code, detail := j.who.detail, cores := (s.upsetCore f j).toList }
    else none
  | none, none => none

/-- A difference at the hub of a pair that a core leads: `PHB_MISMATCH_LAST` and the fault (R337, R338, R351). -/
def hubFlt (s : State) (core : Option CoreId) (c : CtxId) (diff : Option (Fin 4 × BitVec 12)) : Option (Nat × Flt) :=
  match diff, core with
  | some (kind, pos), some i => (s.trailOf i).map fun t =>
      let v := 2 ^ 31 + (kind.1 % 4) * 2 ^ 29 + c.1 * 2 ^ 12 + pos.toNat
      (v, { src := srcPart 0x08 (partOfCore i), code := cPairMismatch, detail := v, cores := [i, t] })
  | _, _ => none

/-- A difference at the pair hub in a run (R337). -/
def pairFlt (s : State) (f : Facts) (j : Job) : Option (Nat × Flt) := hubFlt s j.who.core j.who.ctx f.pair

/-- The hub counts a difference and raises it (R338, R351). -/
def hubMismatch (s : State) (p : PartId) (v : Nat) (flt : Flt) (c : CtxId) (g : BitVec 12) : State :=
  let s := s.onPart p fun x => { x with hub := { x.hub with
    mismatchCnt := sat32 x.hub.mismatchCnt, mismatchLast := BitVec.ofNat 32 v } }
  runFault s flt c g

/-- The writes of a run that take effect when the hub finds a difference: those into the core's own Ledge, and of the
outbound ones those released before the differing one (R337). How many these are is free, and all of them where the differing
item is a statistics post, which follows every write. -/
def releasedWrites (s : State) (f : Facts) (j : Job) (ws : List (Nat × Bytes)) : List (Nat × Bytes) :=
  let own := fun w : Nat × Bytes => match target w.1 with
    | .ledge i => decide (j.who.core = some i)
    | _ => false
  let away := ws.filter fun w => !own w
  ws.filter own ++ if (f.pair.map fun d => d.1.1) = some 3 then away
    else away.take (Config.pairReleased s.free % (away.length + 1))

/-- Counts a residue mismatch in the engine's own counter of the core that it hit (R172, R195, R205, R233). -/
def countResidue (s : State) (f : Facts) (j : Job) : State :=
  match j.q, s.upsetCore f j with
  | .core _ .aq, some c => s.onCore c fun x => { x with ost := { x.ost with residueCnt := sat32 x.ost.residueCnt } }
  | .core _ .sq, some c => s.onCore c fun x => { x with set := { x.set with residueCnt := sat32 x.set.residueCnt } }
  | .core _ .xq, some c => s.onCore c fun x => { x with scr := { x.scr with residueCnt := sat32 x.scr.residueCnt } }
  | .core _ _, _ => s
  | .dq p, _ => s.onPart p fun x => { x with drs := { x.drs with residueCnt := sat32 x.drs.residueCnt } }

/-- A link between the compute dies that fails under a run is down, with the record of its far end (R14, R29). -/
def markLink (s : State) (f : Facts) (cg : CtxId × BitVec 12) : State :=
  if f.link = some .d0d1 then
    event { s with linkDown := (.d0d1 :: s.linkDown).dedup } (linkEnds .d0d1).2 cLinkFault (some cg) 0
  else s

/-- A word that a transfer of the run to DRAM leaves uncorrectable, its link having failed twice (R244). -/
def linkLost (f : Facts) (ws : List (Nat × Bytes)) : Option Nat :=
  (f.linkEcc.find? fun e => e.2 && (match target e.1 with
    | .dram _ => ws.any fun w => decide (w.1 < e.1 / 8 * 8 + 8) && decide (e.1 / 8 * 8 < w.1 + w.2.length)
    | _ => false)).map fun e => e.1 / 8 * 8

/-- The writes of a run take effect; answers the word that one of them leaves uncorrectable: covered in part, or by a transfer
that failed twice (R244, R529). -/
def commitUe (s after : State) (f : Facts) (w : Who) (ws : List (Nat × Bytes)) : State × Option Nat :=
  match s.badOfWrites (mirrorPair s ws), linkLost f ws with
  | some k, _ => (commitRun after w ws, some k)
  | none, some k => let t := commitRun after w ws; ({ t with bad := (k :: t.bad).dedup }, some k)
  | none, none => (commitRun after w ws, none)

/-- The fault of a word that a write left uncorrectable. -/
def raiseUe (s : State) (k : Option Nat) (cg : CtxId × BitVec 12) : State :=
  match k with
  | some k => runFault s (ueFlt s.part k) cg.1 cg.2
  | none => s

/-- The run ends without an upset of the physical world: writes take effect, and the entry is executed and waits for its
completion; a write that leaves a word uncorrectable ends it with that word's fault (R244, R529). -/
def endClean (s : State) (f : Facts) (j : Job) (o : Out) : State :=
  match commitUe s o.after f j.who o.writes with
  | (t, some k) => raiseUe t (some k) (j.who.ctx, j.who.gen)
  | (t, none) =>
    let el := if (t.lksSlot j.who.ctx).isSome then lksSum t j.who.ctx o.writes else (0, 0)
    t.onHead j.q fun e => { e with executed := true, sum := el.1, cnt := el.2 }

/-- The end of a run: writes take effect; a fault is raised, or the entry is executed and waits for its completion.
A run that the physical world cuts writes nothing (log 20); at a pair difference only the released writes take effect. -/
def endRun (s : State) (f : Facts) (j : Job) (resid : Option (Nat × U16)) (o : Out) : State :=
  let cg := (j.who.ctx, j.who.gen)
  match o.flt, pairFlt s f j, factFlt s f j resid with
  | some flt, _, _ =>
    let t := commitUe s o.after f j.who o.writes
    let s := runFault t.1 flt cg.1 cg.2
    raiseUe (o.more.foldl (fun s g => if g.reset.isSome || g.code = cIsolated then raiseRun s g (some cg)
      else event s g.src g.code (some cg) g.detail) s) t.2 cg
  | none, some (v, flt), _ =>
    let t := commitUe s ((o.split.orElse fun _ => o.cut).getD s) f j.who (releasedWrites s f j o.writes)
    raiseUe (hubMismatch { t.1 with free := t.1.free + 1 } j.who.part v flt cg.1 cg.2) t.2 cg
  | none, none, some flt =>
    let s := markLink (o.cut.getD s) f cg
    runFault (if residueBad f && flt.code != cXportCrc && flt.code != cLinkFault then countResidue s f j else s) flt cg.1 cg.2
  | none, none, none => endClean s f j o

/-- Raises a fault of acceptance or of the head. -/
def queueFault (s : State) (q : QueueId) (c : CtxId) (h : Hdr) (origin : Fin 4) (code : U16) : State :=
  raiseCode s (srcQueue q) code (some (s.cg c)) (descDetail q h origin)

/-- The check of a descriptor that reaches the head: one that fails is not started and faults its context (R44, R45). -/
def headCheck (s : State) (q : QueueId) : State :=
  match (s.queue q).entries, s.headFault q with
  | e :: _, some code => queueFault s q e.ctx (hdrOf e.bytes) e.origin code
  | _, _ => s

/-- A failed lane of a link beside the one between the compute dies, which no engine's access uses (R13, R29). -/
def ioLinkFails (s : State) (f : Facts) : State :=
  match f.link with
  | some .d0d1 | none => s
  | some l => linkFails s l none

/-- An engine runs the head of its queue when it may start and its opcode is one of `ok`; a head that fails its check is
faulted; otherwise nothing happens. -/
def runJob (s : State) (q : QueueId) (ok : Nat → Bool) (f : Facts) (resid : Option (Nat × U16))
    (body : State → Job → Out) : State :=
  match s.job q ok with
  | none => headCheck s q
  | some j =>
    let s := applyFacts (startStage (ioLinkFails s f) j.who.ctx j.h.stage) f (some (j.who.ctx, j.who.gen))
    endRun s f j resid (body s j)

end Sys2Proof.Machine
end

