-- ==== Sys2Proof/Machine/Feeder.lean ====
section
/-!
DEFINITION. Machine/Feeder.lean: what the feeder of a Reckoner reads: the fill control block (R92, R531), stationary
tiles (R93, R101, R105, R106, R119), weight vectors (R112), scale records (R125) and the problem table (R113).
-/

namespace Sys2Proof.Machine

/-- Size of a Ledge (R237). -/
def ledgeSize : Nat := 0x1000000

/-- Reads bytes at an offset of the executing core's Ledge (R111, R114). DESIGN CHOICE (log 50): a stream or fill source that a
table names is checked read by read, so that vectors before the read that lies outside still issue. -/
def ledgeRead (s : State) (w : Who) (off n : Nat) : Eng Bytes :=
  if ledgeSize < off + n then .error (w.flt cCtxRange) else s.load w (0x020100000000 + off) n

/-- A byte of the Ledge, read with its 32-byte line (R95). -/
def ledgeByte (s : State) (w : Who) (off : Nat) : Eng Nat :=
  (ledgeRead s w (off / 32 * 32) 32).map fun b => byteAt b (off % 32)

/-- A code of 4, 8 or 16 bits at an offset; `sh` is the shift of a 4-bit code in its byte (R164). -/
def ledgeCode (s : State) (w : Who) (off sh cbits : Nat) : Eng Nat :=
  if cbits = 16 then
    match ledgeByte s w off, ledgeByte s w (off + 1) with
    | .ok a, .ok b => .ok (a + 256 * b)
    | .error f, _ => .error f
    | _, .error f => .error f
  else (ledgeByte s w off).map fun v => if cbits = 4 then (v >>> sh) % 16 else v

/-- A fault of the engine with a code. -/
def Who.bad {α : Type} (w : Who) : Eng α := .error (w.flt cDescOpcode)

/-- A fill control block (R92). -/
structure FillCb where
  /-- BASE. -/
  base : Nat
  /-- MODE: 0 DENSE, 1 CONV, 2 DIAG, 3 DWIN. -/
  mode : Nat
  /-- LAYOUT. -/
  layout : Nat
  /-- FM_W, FM_H. -/
  fm : Nat × Nat
  /-- CH. -/
  ch : Nat
  /-- KW, KH. -/
  k : Nat × Nat
  /-- Stride. -/
  stride : Nat
  /-- Dilation. -/
  dil : Nat
  /-- Left and top padding. -/
  pad : Nat × Nat
  /-- ELEM_BYTES. -/
  elemBytes : Nat
  /-- OX0, OY0. -/
  o0 : Nat × Nat
  /-- OW. -/
  ow : Nat
  /-- ROW_STRIDE. -/
  rowStride : Nat
  /-- IMAG_OFF. -/
  imag : Nat
  deriving DecidableEq, Repr

/-- Reads the fields of a fill control block (R92). -/
def fillCbOf (b : Bytes) : FillCb :=
  { base := fld b 0 4, mode := byteAt b 4, layout := byteAt b 5, fm := (fld b 6 2, fld b 8 2), ch := fld b 10 2,
    k := (byteAt b 12 % 16, byteAt b 12 / 16), stride := byteAt b 13 % 16, dil := byteAt b 13 / 16,
    pad := (byteAt b 14 % 16, byteAt b 14 / 16), elemBytes := byteAt b 15, o0 := (fld b 16 2, fld b 18 2),
    ow := fld b 20 2, rowStride := fld b 24 4, imag := fld b 28 4 }

/-- Shape numbers (R103). -/
def shDw3 : Nat := 6
def shFull4 : Nat := 7
def shW16A8 : Nat := 8
def shW16A16 : Nat := 9
def shCplx8 : Nat := 10
def shElem : Nat := 11

/-- A value lies in a range. -/
def inR (lo x hi : Nat) : Bool := decide (lo ≤ x) && decide (x ≤ hi)

/-- The checks of a fill control block for a shape (R92, R531). -/
def FillCb.ok (c : FillCb) (sh : Nat) (rsv : Nat) : Bool :=
  decide (c.base < ledgeSize) && decide (c.imag < ledgeSize) && decide (rsv = 0) &&
  inR 1 c.fm.1 8192 && inR 1 c.fm.2 8192 && inR 1 c.ch 4096 && inR 1 c.k.1 11 && inR 1 c.k.2 11 &&
  inR 1 c.stride 4 && inR 1 c.dil 4 && inR 1 c.ow 8192 &&
  (if sh = shDw3 then decide (c.mode = 3) else if sh = shElem then decide (c.mode = 2) else decide (c.mode ≤ 1)) &&
  decide (c.elemBytes = if sh = shW16A16 then 2 else 1) &&
  (if c.mode = 1 ∨ c.mode = 3 then decide (c.layout ≤ 2) && !(decide (c.layout = 2) && decide (4 < c.ch))
    else decide (c.layout = 0)) &&
  (decide (c.mode = 0) || decide (c.rowStride = 0)) &&
  (decide (sh = shCplx8) || decide (c.imag = 0)) &&
  (decide (sh ≠ shDw3) || (decide (c.k = (3, 3)) && decide (c.stride = 1) && decide (c.dil ≤ 2)))

/-- Reads and checks the fill control block of a shape (R531). -/
def readFillCb (s : State) (w : Who) (sh off : Nat) : Eng FillCb :=
  if off % 32 ≠ 0 then w.bad
  else match ledgeRead s w off 32 with
    | .error f => .error f
    | .ok b => let c := fillCbOf b; if c.ok sh (fld b 22 2) then .ok c else w.bad

/-- The code of channel `c` at an input point; none outside the map, which reads as the zero point (R93). -/
def inputCode (s : State) (w : Who) (cb : FillCb) (base c : Nat) (ix iy : Int) (cbits : Nat) : Eng (Option Nat) :=
  if ix < 0 ∨ iy < 0 ∨ (cb.fm.1 : Int) ≤ ix ∨ (cb.fm.2 : Int) ≤ iy then .ok none
  else
    let g : Geo := ⟨layoutOf cb.layout, cb.fm.1, cb.fm.2, cb.ch, cbits⟩
    (ledgeCode s w (base + g.off c ix.toNat iy.toNat) (4 * (c % 2)) cbits).map some

/-- The corrected value of a code (R119). -/
def corrected (zp : Nat) (v : Option Nat) : Int := match v with
  | none => 0
  | some x => (x : Int) - zp

/-- A problem as the array runs it: the payload's or a problem table entry's (R111, R113). -/
structure Prob where
  /-- Fill control block. -/
  cb : FillCb
  /-- Weight and scale streams, output control block. -/
  w : Nat
  /-- Scale stream. -/
  sOff : Nat
  /-- Output control block offset. -/
  ocb : Nat
  /-- Reduction length. -/
  k : Nat
  /-- Columns. -/
  n : Nat
  /-- Zero points of activations and weights. -/
  zp : Nat × Nat
  /-- TAG0. -/
  tag0 : Nat
  /-- Rows of a group. -/
  gsize : Nat
  /-- First accumulator channel. -/
  acc : Nat
  /-- First column. -/
  col0 : Nat
  /-- Rows and columns of the problem's block. -/
  rows : Nat
  /-- Columns of its block. -/
  cols : Nat
  /-- Bytes of a weight vector. -/
  vb : Nat
  /-- First quarter of the array that the problem uses. -/
  q0 : Nat
  deriving DecidableEq, Repr

/-- One cell of a CONV tile: reduction index `ig` and column `n` (R93). -/
def convCell (s : State) (w : Who) (p : Prob) (base cbits ig n : Nat) : Eng Int :=
  let cb := p.cb
  if p.n ≤ n then .ok 0
  else
    let c := ig % cb.ch
    let kk := ig / cb.ch
    let ox := cb.o0.1 + n % cb.ow
    let oy := cb.o0.2 + n / cb.ow
    let ix : Int := ((ox * cb.stride + kk % cb.k.1 * cb.dil : Nat) : Int) - cb.pad.1
    let iy : Int := ((oy * cb.stride + kk / cb.k.1 * cb.dil : Nat) : Int) - cb.pad.2
    (inputCode s w cb base c ix iy cbits).map (corrected p.zp.1)

/-- A row of a DENSE tile: the codes of every column of the problem's block are read, and those of masked columns left out
(R93, R101). DESIGN CHOICE (log 50): a row of a half-width problem has the 64 codes of its columns. `sh` is the shift of a 4-bit code in its byte. -/
def denseRow (s : State) (w : Who) (p : Prob) (base cbits row sh : Nat) : Eng (List Int) :=
  let n := p.cb.elemBytes
  (ledgeRead s w (base + row * p.cb.rowStride) (p.cols * n)).map fun b => (List.range p.cols).map fun i =>
    let v := fld b (n * i) n
    if p.n ≤ i then 0 else corrected p.zp.1 (some (if cbits = 4 then (v >>> sh) % 16 else v))

/-- One row of a stationary tile: reduction index `i` of tile `t`; masked rows are not read and hold zero (R88, R93, R101). -/
def tileRow (s : State) (w : Who) (p : Prob) (base cbits t i : Nat) : Eng (List Int) :=
  let per := if cbits = 4 then 2 else 1
  let row := 128 * t + i / per
  let ig := row * per + i % per
  let lim := if p.cb.mode = 1 then min p.k (p.cb.k.1 * p.cb.k.2 * p.cb.ch) else p.k
  if lim ≤ ig then .ok (List.replicate p.cols 0)
  else if p.cb.mode = 0 then denseRow s w p base cbits row (4 * (i % per))
  else (List.range p.cols).mapM fun n => convCell s w p base cbits ig n

/-- A stationary tile: rows of corrected values, one for each reduction index. -/
def stationary (s : State) (w : Who) (p : Prob) (base cbits t : Nat) : Eng (List (List Int)) :=
  let per := if cbits = 4 then 2 else 1
  (List.range (p.rows * per)).mapM fun i => tileRow s w p base cbits t i

/-- The check sums s_W and s_E of a row that the feeder's own adder forms; `col0` is the row's first column of the array
(R85, R87). -/
def rowSums (col0 : Nat) (row : List Int) : Int × Int :=
  ((row.take (64 - col0)).foldl (· + ·) 0, (row.drop (64 - col0)).foldl (· + ·) 0)

/-- Low and high byte of a corrected 16-bit value (R104). -/
def loByte (v : Int) : Int := v % 256
/-- High byte. -/
def hiByte (v : Int) : Int := v / 256

/-- The stationary tiles of the passes of a shape (R93, R104). -/
def passTiles (s : State) (w : Who) (sh : Nat) (p : Prob) (t : Nat) : Eng (List (List (List Int))) :=
  if sh = shCplx8 then
    match stationary s w p p.cb.base 8 t, stationary s w p p.cb.imag 8 t with
    | .ok a, .ok b => .ok [List.zipWith (List.zipWith (· + ·)) a b, a, b]
    | .error f, _ => .error f
    | _, .error f => .error f
  else if sh = shW16A16 then
    (stationary s w p p.cb.base 16 t).map fun v =>
      let lo := v.map (·.map loByte)
      let hi := v.map (·.map hiByte)
      [lo, lo, hi, hi]
  else (stationary s w p p.cb.base (if sh = shFull4 then 4 else 8) t).map fun v =>
    if sh = shW16A8 then [v, v] else [v]

/-- The tiles of a shape's passes where the first of them is in the shadow already (R91). -/
def passTilesFrom (pre : Option (List (List Int))) (s : State) (w : Who) (sh : Nat) (p : Prob) (t : Nat) :
    Eng (List (List (List Int))) :=
  match pre with
  | none => passTiles s w sh p t
  | some v =>
    if sh = shCplx8 then (passTiles s w sh p t).map fun l => v :: l.drop 1
    else if sh = shW16A16 then (passTiles s w sh p t).map fun l => v :: v :: l.drop 2
    else .ok (if sh = shW16A8 then [v, v] else [v])

/-- Elements of a stored weight vector, corrected (R112, R119). -/
def weightElems (s : State) (w : Who) (off n zp cbits : Nat) : Eng (List Int) :=
  (List.range n).mapM fun i =>
    (ledgeCode s w (off + i * cbits / 8) (4 * (i % 2)) cbits).map fun v => corrected zp (some v)

/-- The weight vectors of the passes for vector `m` of tile `t` (R104, R112). -/
def passWeights (s : State) (w : Who) (sh : Nat) (p : Prob) (mn t m : Nat) : Eng (List (List Int)) :=
  let off := p.w + (t * mn + m) * p.vb
  if sh = shFull4 then (weightElems s w off 256 p.zp.2 4).map fun v => [v]
  else if sh = shW16A8 ∨ sh = shW16A16 then (weightElems s w off 128 p.zp.2 16).map fun v =>
    let lo := v.map loByte
    let hi := v.map hiByte
    if sh = shW16A8 then [lo, hi] else [lo, hi, lo, hi]
  else if sh = shCplx8 then (weightElems s w off 256 p.zp.2 8).map fun v =>
    let c := v.take 128
    let d := v.drop 128
    [c, List.zipWith (fun x y => y - x) c d, List.zipWith (· + ·) c d]
  else (weightElems s w off p.vb p.zp.2 8).map fun v => [v]

/-- A scale record: the four scales and the tag (R125). -/
def scaleRecord (s : State) (w : Who) (sOff j : Nat) : Eng (List Nat × Nat) :=
  match ledgeRead s w (sOff + 16 * j) 16 with
  | .error f => .error f
  | .ok b =>
    if 16 ≤ byteAt b 8 ∨ (b.drop 9).any (· ≠ 0) then w.bad
    else .ok ((List.range 4).map fun g => fld b (2 * g) 2, byteAt b 8)

/-- A packed shape: problems, K limit, N limit, rows of a problem (R103). -/
def packOf : Nat → Option (Nat × Nat × Nat × Nat)
  | 2 => some (2, 64, 128, 64)
  | 3 => some (4, 32, 128, 32)
  | 4 => some (2, 128, 64, 128)
  | 5 => some (8, 32, 64, 32)
  | _ => none

/-- Bytes of a weight vector of an unpacked shape (R112). -/
def vectorBytes (sh : Nat) : Nat := if sh = shW16A8 ∨ sh = shW16A16 ∨ sh = shCplx8 then 256 else 128

/-- First column of a packed problem (R101, R113). -/
def probCol (sh pi : Nat) : Nat := if sh = 4 then 64 * pi else if sh = 5 then 64 * (pi % 2) else 0

/-- A problem table entry, checked at first use (R113, R99, R118, R124, R125). -/
def readProb (s : State) (w : Who) (sh mn kt pt pi : Nat) (lim : Nat × Nat × Nat × Nat) : Eng Prob :=
  match ledgeRead s w (pt + 32 * pi) 32 with
  | .error f => .error f
  | .ok b =>
    let k := fld b 16 2
    let n := fld b 18 2
    let gsize := 32 * 2 ^ byteAt b 25
    let okk := [0, 4, 8, 12].all (fun o => decide (fld b o 4 < ledgeSize)) && decide (fld b 8 4 % 16 = 0) &&
      decide (byteAt b 24 < 16) && decide (byteAt b 25 ≤ 2) && decide (fld b 28 4 = 0) &&
      inR 1 k (lim.2.1 * kt) && inR 1 n lim.2.2.1 && decide (gsize ≤ lim.2.2.2) &&
      decide (fld b 20 2 < 256) && decide (fld b 22 2 < 256) &&
      (if sh = 4 then decide (fld b 26 2 + mn ≤ 1024) else decide (fld b 26 2 = 0))
    if !okk then w.bad
    else (readFillCb s w sh (fld b 0 4)).map fun cb =>
      { cb := cb, w := fld b 4 4, sOff := fld b 8 4, ocb := fld b 12 4, k := k, n := n
        zp := (fld b 20 2, fld b 22 2), tag0 := byteAt b 24, gsize := gsize, acc := fld b 26 2, col0 := probCol sh pi
        rows := lim.2.2.2, cols := lim.2.2.1, vb := lim.2.2.2
        q0 := if sh = 2 then 2 * pi else if sh = 3 then pi else if sh = 5 then pi / 2 else 0 }

/-- The problems of a gated or packed descriptor (R111, R113). -/
def readProbs (s : State) (w : Who) (p : Bytes) : Eng (List Prob) :=
  let sh := byteAt p 0
  let mn := fld p 4 2
  let kt := fld p 6 2
  match packOf sh with
  | some lim =>
    if fld p 32 4 % 32 ≠ 0 then w.bad
    else (List.range lim.1).mapM fun pi => readProb s w sh mn kt (fld p 32 4) pi lim
  | none => (readFillCb s w sh (fld p 16 4)).map fun cb =>
    let per := if sh = shFull4 then 2 else 1
    [{ cb := cb, w := fld p 20 4, sOff := fld p 24 4, ocb := fld p 28 4, k := per * (128 * (kt - 1) + byteAt p 8)
       n := byteAt p 9, zp := (fld p 12 2, fld p 14 2), tag0 := byteAt p 3, gsize := 32 * 2 ^ byteAt p 2
       acc := fld p 10 2, col0 := 0, rows := if sh = 1 then 64 else 128, cols := 128, vb := vectorBytes sh, q0 := 0 }]

/-- The window lines of a depthwise channel for an output row: 2 × dilation + 1 lines (R105). -/
def dwWindow (s : State) (w : Who) (cb : FillCb) (c oy zp : Nat) : Eng (List (List Int)) :=
  (List.range (2 * cb.dil + 1)).mapM fun ln => (List.range (128 + 2 * cb.dil)).mapM fun i =>
    let ix : Int := ((cb.o0.1 + i : Nat) : Int) - cb.pad.1
    let iy : Int := ((oy + ln : Nat) : Int) - cb.pad.2
    (inputCode s w cb cb.base c ix iy 8).map (corrected zp)

end Sys2Proof.Machine
end

