-- ==== Sys2Proof/Machine/Spoil.lean ====
section
/-!
DEFINITION. Machine/Spoil.lean: the spoil-compressed form of a segment of 256 bytes (R166, R169).
-/

namespace Sys2Proof.Machine

/-- Mask of a unit: bit i for a byte i that is not 0x00. -/
def spoilMask : Nat → Bytes → Nat
  | _, [] => 0
  | i, b :: r => (if b = 0 then 0 else 2 ^ i) + spoilMask (i + 1) r

/-- A unit of 32 bytes in compressed form: mask, bytes that are not 0x00, zero up to the next 8-byte granule (R166). -/
def spoilUnit (u : Bytes) : Bytes := padMul 8 (le 4 (spoilMask 0 u) ++ u.filter (· ≠ 0))

/-- The eight units of a segment. -/
def spoilUnits (p : Bytes) : List Bytes := (List.range 8).map fun i => slice p (32 * i) 32

/-- A segment is all zero. -/
def allZero (p : Bytes) : Bool := p.all (· = 0)

/-- The index entry and the compressed bytes of a segment (R166). -/
def spoilEncode (p : Bytes) : Nat × Bytes :=
  if allZero p then (0, [])
  else
    let b := (spoilUnits p).flatMap spoilUnit
    (b.length, b)

/-- The complete contents of a slot: the compressed bytes, then zero up to 320 (R167). -/
def spoilSlot (b : Bytes) : Bytes := padTo 320 b

/-- Spreads the stored bytes over the positions whose mask bit is 1. -/
def spoilSpread (mask : Nat) : Nat → Nat → Bytes → Bytes
  | 0, _, _ => []
  | n + 1, i, b =>
    if bit mask i then (b.headD 0) :: spoilSpread mask n (i + 1) (b.drop 1)
    else 0 :: spoilSpread mask n (i + 1) b

/-- One unit read back: its bytes and what follows it; none when its form is wrong (R169). -/
def spoilReadUnit (b : Bytes) : Option (Bytes × Bytes) :=
  let mask := fld b 0 4
  let z := ((List.range 32).filter (bit mask)).length
  let n := (4 + z + 7) / 8 * 8
  let body := (b.drop 4).take z
  if b.length < n ∨ body.contains 0 ∨ ((b.take n).drop (4 + z)).any (· ≠ 0) then none
  else some (spoilSpread mask 32 0 body, b.drop n)

/-- `k` units read back; what follows the last must be empty. -/
def spoilReadUnits : Nat → Bytes → Option Bytes
  | 0, b => if b.isEmpty then some [] else none
  | k + 1, b => match spoilReadUnit b with
    | none => none
    | some (u, r) => (spoilReadUnits k r).map (u ++ ·)

/-- An index entry that R166 allows. -/
def spoilIndexOk (n : Nat) : Bool := decide (n = 0) || (decide (64 ≤ n) && decide (n ≤ 320) && decide (n % 8 = 0))

/-- A segment decoded from its index entry and its compressed bytes; none for SPOIL_FORMAT (R169). -/
def spoilDecode (n : Nat) (b : Bytes) : Option Bytes :=
  if n = 0 then some (zeros 256)
  else if !spoilIndexOk n then none
  else spoilReadUnits 8 (b.take n)

end Sys2Proof.Machine
end

