-- ==== Sys2Proof/Machine/Output.lean ====
section
/-!
DEFINITION. Machine/Output.lean: the output stage of a core: control block (R153, R154), the chain of R150, pooling
(R161 to R163), layouts and spoil form (R164 to R167), statistics (R134, R136, R160).
-/

namespace Sys2Proof.Machine

/-- An output-stage control block (R153). -/
structure Ocb where
  /-- FLAGS. -/
  flags : Nat
  /-- ACT. -/
  act : Nat
  /-- Bits of a code; 0 for the reserved width. -/
  cbits : Nat
  /-- Layout number. -/
  lay : Nat
  /-- SCALE. -/
  scale : Nat
  /-- ZP_OUT, QMIN, QMAX. -/
  zp : Nat
  /-- QMIN. -/
  qmin : Nat
  /-- QMAX. -/
  qmax : Nat
  /-- STAT. -/
  stat : Nat
  /-- BIAS_SH. -/
  biasSh : Nat
  /-- DST. -/
  dst : Nat
  /-- BIAS. -/
  bias : Nat
  /-- ACT_A. -/
  actA : Nat
  /-- ACT_B. -/
  actB : Nat
  /-- TABLE. -/
  table : Nat
  /-- RES. -/
  res : Nat
  /-- ZP_R. -/
  zpR : Nat
  /-- RSC. -/
  rsc : Nat
  /-- OUT_W, OUT_H. -/
  out : Nat × Nat
  /-- CH0. -/
  ch0 : Nat
  /-- CH_T. -/
  cht : Nat
  /-- POOL. -/
  pool : Nat
  /-- IMAG. -/
  imag : Nat
  /-- IDX. -/
  idx : Nat
  /-- The reserved bits of FMT and bytes 0x35 to 0x37. -/
  rsv : Nat
  deriving DecidableEq, Repr

/-- Code width of FMT or of a scale field: 0 8-bit, 1 4-bit, 2 16-bit (R153). -/
def widthOf : Nat → Nat
  | 0 => 8
  | 1 => 4
  | 2 => 16
  | _ => 0

/-- Reads the fields of a control block (R153). -/
def ocbOf (b : Bytes) : Ocb :=
  let fmt := byteAt b 3
  { flags := fld b 0 2, act := byteAt b 2, cbits := widthOf (fmt % 4), lay := fmt / 4 % 4, scale := fld b 4 4
    zp := fld b 8 2, qmin := fld b 0x0A 2, qmax := fld b 0x0C 2, stat := byteAt b 0x0E, biasSh := byteAt b 0x0F
    dst := fld b 0x10 4, bias := fld b 0x14 4, actA := fld b 0x18 4, actB := fld b 0x1C 4, table := fld b 0x20 4
    res := fld b 0x24 4, zpR := fld b 0x28 2, rsc := fld b 0x2A 2, out := (fld b 0x2C 2, fld b 0x2E 2)
    ch0 := fld b 0x30 2, cht := fld b 0x32 2, pool := byteAt b 0x34, imag := fld b 0x38 4, idx := fld b 0x3C 4
    rsv := fmt / 16 + fld b 0x35 3 }

namespace Ocb
/-- ADAPTIVE. -/
def adaptive (o : Ocb) : Bool := bit o.flags 0
/-- STAT_EN. -/
def statEn (o : Ocb) : Bool := bit o.flags 1
/-- BIAS_EN. -/
def biasEn (o : Ocb) : Bool := bit o.flags 2
/-- RES_EN. -/
def resEn (o : Ocb) : Bool := bit o.flags 3
/-- RES_POS. -/
def resPos (o : Ocb) : Bool := bit o.flags 4
/-- POOL_EN. -/
def poolEn (o : Ocb) : Bool := bit o.flags 5
/-- POOL_CONT. -/
def poolCont (o : Ocb) : Bool := bit o.flags 6
/-- POOL_LAST. -/
def poolLast (o : Ocb) : Bool := bit o.flags 7
/-- SPOIL. -/
def spoil (o : Ocb) : Bool := bit o.flags 8
/-- Pooling window size, stride, average, padding (R161). -/
def kp (o : Ocb) : Nat := if bit o.pool 0 then 3 else 2
/-- Stride. -/
def ps (o : Ocb) : Nat := if bit o.pool 1 then 2 else 1
/-- Average. -/
def avg (o : Ocb) : Bool := bit o.pool 2
/-- Pad. -/
def pp (o : Ocb) : Nat := b2n (bit o.pool 3)
/-- The tensor's geometry. -/
def geo (o : Ocb) : Geo := ⟨layoutOf o.lay, o.out.1, o.out.2, o.cht, o.cbits⟩
/-- PWL is selected. -/
def isPwl (o : Ocb) : Bool := decide (o.act = 4)
end Ocb

/-- What a control block is read for: DW3, ELEM or CPLX8, and the channel count (R105, R151, R154). -/
structure OutKind where
  /-- DW3. -/
  dw3 : Bool
  /-- ELEM. -/
  elem : Bool
  /-- CPLX8. -/
  cplx : Bool
  /-- Channels that the descriptor writes. -/
  count : Nat
  deriving DecidableEq, Repr

/-- The activation fields fit ACT (R153, R158, R159). -/
def Ocb.actOk (o : Ocb) : Bool :=
  (decide (o.act = 4) || decide (o.table = 0)) &&
  match o.act with
  | 0 | 1 => decide (o.actA = 0) && decide (o.actB = 0)
  | 2 => decide (sgn 32 o.actA ≤ sgn 32 o.actB)
  | 3 => decide (o.actA ≤ 32768) && decide (o.actB = 0)
  | 4 => decide (o.actB < 32) && decide (o.table % 32 = 0)
  | _ => false

/-- The checks of a control block (R118, R131, R133, R153, R154). DESIGN CHOICE (log 50): ELEM, whose elements have no pixels,
does not pool. -/
def Ocb.ok (o : Ocb) (k : OutKind) (scaleN : Nat) : Bool :=
  let top := 2 ^ o.cbits
  decide (o.rsv = 0) && decide (o.cbits ≠ 0) && decide (o.lay ≤ 2) && decide (o.flags < 512) && o.actOk &&
  (if o.adaptive then decide (o.scale < 4096) && decide (o.scale < scaleN) else decide (o.scale < 2 ^ 21)) &&
  decide (o.qmax < top) && decide (o.zpR < top) && decide (o.qmin ≤ o.zp) && decide (o.zp ≤ o.qmax) && decide (o.qmin < o.qmax) &&
  (o.statEn || decide (o.stat = 0)) && decide (o.biasSh ≤ 16) &&
  [o.dst, o.bias, o.table, o.res, o.imag, o.idx].all (fun a => decide (a < ledgeSize)) &&
  decide (o.dst % 32 = 0) && decide (o.res % 32 = 0) && decide (o.imag % 32 = 0) && decide (o.bias % 4 = 0) &&
  decide (o.idx % 2 = 0) && (o.biasEn || decide (o.bias = 0)) && (o.resEn || decide (o.res = 0)) &&
  (o.spoil || decide (o.idx = 0)) && inR 1 o.out.1 8192 && inR 1 o.out.2 8192 && inR 1 o.cht 4096 &&
  decide (o.ch0 + k.count ≤ o.cht) && decide (o.pool < 16) && (decide (o.pp = 0) || decide (o.kp = 3)) &&
  !(o.resEn && o.poolEn) && !(k.dw3 && (o.isPwl || o.resEn || o.poolEn)) &&
  !(decide (o.lay = 2) && decide (4 < o.cht)) && (!k.elem || (decide (o.ch0 = 0) && decide (o.cht = 1) && !o.poolEn)) &&
  (k.cplx || decide (o.imag = 0)) && !(k.cplx && o.spoil)

/-- Reads and checks the control block at an offset; the slot it names must be the context's (R134, R154). -/
def readOcb (s : State) (w : Who) (k : OutKind) (off : Nat) : Eng Ocb :=
  if off % 32 ≠ 0 ∨ ledgeSize ≤ off then w.bad
  else match ledgeRead s w off 64 with
    | .error f => .error f
    | .ok b =>
      let o := ocbOf b
      if !o.ok k (s.scaleN w.ctx) then w.bad
      else if o.statEn && !s.ownsSlot w.part w.ctx o.stat then .error (w.flt cCtxRange)
      else .ok o

/-- A result of the array on its way out: channel, pixel, vector index of R148, value. -/
structure Elem where
  /-- Output channel. -/
  c : Nat
  /-- Pixel. -/
  x : Nat
  /-- Pixel. -/
  y : Nat
  /-- VEC of R148. -/
  vec : Nat
  /-- The value. -/
  v : Int
  deriving DecidableEq, Repr

/-- Byte offset of a code and its shift in the byte (R151, R164). DESIGN CHOICE (log 50): a 4-bit code of ELEM goes by the parity
of its position. -/
def Ocb.pos (o : Ocb) (elem : Bool) (c x y : Nat) : Nat × Nat :=
  if elem then (x * o.cbits / 8, if o.cbits = 4 then 4 * (x % 2) else 0)
  else (o.geo.off c x y, if o.cbits = 4 then 4 * (c % 2) else 0)

/-- `QNT_SKEW_LAST` for a SCALE_CODE of an output, residual or adaptive scale (R148). -/
def scaleCodeLast (prob vec : Nat) : Nat := 2 ^ 31 + 2 ^ 30 + prob % 8 * 2 ^ 20 + vec % 1024

/-- SCALE_CODE in the output stage (R122, R358). -/
def Who.scaleCode (w : Who) (prob vec : Nat) : Flt :=
  { w.flt cScaleCode with detail := w.detail + scaleCodeLast prob vec * 2 ^ 30 }

/-- QNT after a SCALE_SKEW or SCALE_CODE (R148). -/
def QntRegs.skew (q : QntRegs) (f : Flt) : QntRegs :=
  { q with skewCnt := sat32 q.skewCnt, skewLast := BitVec.ofNat 32 (f.detail / 2 ^ 30) }

/-- Counts a SCALE_SKEW or SCALE_CODE that the descriptor's own data raise, in every core that runs it (R148). -/
def countSkew (s : State) (i : CoreId) (f : Flt) : State :=
  if f.code = cScaleCode ∨ f.code = cScaleSkew then s.onEngine i fun x => { x with qnt := x.qnt.skew f } else s

/-- The residual step (R150, R157). -/
def residualStep (s : State) (w : Who) (o : Ocb) (elem : Bool) (prob : Nat) (e : Elem) (v : Int) : Eng Int :=
  let p := o.pos elem e.c e.x e.y
  match ledgeCode s w (o.res + p.1) p.2 o.cbits with
  | .error f => .error f
  | .ok r =>
    if scValid o.rsc then .ok (sat48 (v + rescale ((r : Int) - o.zpR) o.rsc))
    else .error (w.scaleCode prob e.vec)

/-- Steps 2 to 5 of the chain (R150, R156, R157, R158). -/
def chainSteps (s : State) (w : Who) (o : Ocb) (elem : Bool) (prob : Nat) (act : Act) (e : Elem) : Eng Int := do
  let v ← if o.biasEn then
      (ledgeRead s w (o.bias + 4 * e.c) 4).map fun b => sat48 (e.v + sgn 32 (fld b 0 4) * (2 ^ o.biasSh : Nat))
    else pure e.v
  let v ← if o.resEn && !o.resPos then residualStep s w o elem prob e v else pure v
  let v := act.apply v
  if o.resEn && o.resPos then residualStep s w o elem prob e v else pure v

/-- The scale of requantisation (R141, R155). -/
def readScale (s : State) (w : Who) (adaptive golden : Bool) (scale : Nat) : Eng Nat :=
  if !adaptive then .ok scale
  else match s.scaleTable w.ctx with
    | none => w.bad
    | some t =>
      let half := if golden then 2 else b2n (s.ctx w.ctx).frame.scaleHalf
      (s.load w (scaleAddr t (s.scaleN w.ctx) half scale) 4).map fun b => fld b 0 4

/-- The activation of a control block, with the table that the buffer holds (R158, R159). -/
def Ocb.activation (o : Ocb) (table : Bytes) : Act :=
  match o.act with
  | 1 => .relu
  | 2 => .clip (sgn 32 o.actA) (sgn 32 o.actB)
  | 3 => .leaky o.actA
  | 4 => .pwl (sgn 32 o.actA) o.actB table
  | _ => .none

/-- Steps 2 to 6 for the elements of one output, in order: codes and statistics (R132, R136, R160). -/
def requantAll (s : State) (w : Who) (o : Ocb) (elem : Bool) (prob osc : Nat) (act : Act) (es : List Elem) :
    Eng (List (Elem × Nat) × StatAcc) :=
  let k : Quant := ⟨osc, o.zp, o.qmin, o.qmax⟩
  es.foldlM (fun (acc : List (Elem × Nat) × StatAcc) e => do
    let v ← chainSteps s w o elem prob act e
    if oscValid osc then pure (acc.1 ++ [(e, k.code v)], acc.2.add k v)
    else .error (w.scaleCode prob e.vec)) ([], {})

/-! ### Pooling (R161 to R163) -/

/-- What pooling works with: pre-pool width, first row, rows and channels. -/
structure PoolIn where
  /-- OW of the fill control block. -/
  w : Nat
  /-- OX0, OY0. -/
  o0 : Nat × Nat
  /-- N_VALID or the problem's N. -/
  n : Nat
  /-- Channels. -/
  m : Nat
  deriving DecidableEq, Repr

/-- The geometry that POOL_CONT must repeat. -/
def poolGeom (o : Ocb) (i : PoolIn) : List Nat := [o.pool, i.w, i.m, o.ch0, o.cht, o.out.1, o.out.2, o.lay, o.cbits]

/-- The row buffer that a descriptor starts from; none when a rule of R162 or R163 is broken. -/
def poolStart (o : Ocb) (i : PoolIn) (owner : CtxId × BitVec 12) (began : Nat) (prev : Option RowBuf) : Option RowBuf :=
  if i.o0.1 = 0 ∧ i.n % i.w = 0 ∧ o.kp ≤ i.w + 2 * o.pp ∧ o.out.1 = (i.w + 2 * o.pp - o.kp) / o.ps + 1 ∧
      (o.kp - 1) * i.w * i.m * o.cbits ≤ 8 * 262144 then
    if o.poolCont then match prev with
      | some b => if b.owner = owner ∧ b.geom = poolGeom o i ∧ b.nextY = i.o0.2 then some b else none
      | none => none
    else if i.o0.2 = 0 then some { owner := owner, geom := poolGeom o i, began := began, nextY := 0, nextOut := 0, rows := [] }
    else none
  else none

/-- The codes of a pre-pool row of a channel. -/
def rowCodes (b : RowBuf) (y c : Nat) : List Nat :=
  ((b.rows.find? fun r => r.1 = y && r.2.1 = c).map (·.2.2)).getD []

/-- One pooled code (R161): positions outside the map are left out. -/
def poolCode (o : Ocb) (b : RowBuf) (last c x y : Nat) : Nat :=
  let win := (List.range o.kp).flatMap fun dy => (List.range o.kp).filterMap fun dx =>
    let py : Int := (y * o.ps + dy : Nat) - o.pp
    let px : Int := (x * o.ps + dx : Nat) - o.pp
    if py < 0 ∨ px < 0 ∨ (last : Int) < py then none else (rowCodes b py.toNat c)[px.toNat]?
  if o.avg then (rneDiv (sumN win) win.length).toNat else win.foldl max 0

/-- First pooled row that does not yet have its last pre-pool row (R162). -/
def poolEnd (o : Ocb) (last : Nat) : Nat :=
  let h := last + 1 + o.pp + if o.poolLast then o.pp else 0
  if h < o.kp then 0 else (h - o.kp) / o.ps + 1

/-- The pooling step: pooled codes, and the row buffer for the next descriptor (R161, R162). -/
def poolStep (o : Ocb) (i : PoolIn) (b : RowBuf) (codes : List (Elem × Nat)) :
    Option (List (Nat × Nat × Nat × Nat) × Option RowBuf) :=
  let n := i.n / i.w
  let chans := (List.range i.m).map (o.ch0 + ·)
  let fresh := (List.range n).flatMap fun k => chans.map fun c =>
    let row := codes.filter fun e => decide (e.1.c = c) && decide (e.1.y = i.o0.2 + k)
    (i.o0.2 + k, c, row.map (·.2))
  let b := { b with rows := b.rows ++ fresh }
  let last := i.o0.2 + n - 1
  let stop := max b.nextOut (poolEnd o last)
  if o.out.2 < stop ∨ (o.poolLast ∧ stop ≠ o.out.2) then none
  else
    let out := (List.range (stop - b.nextOut)).flatMap fun k => chans.flatMap fun c => (List.range o.out.1).map fun x =>
      (c, x, b.nextOut + k, poolCode o b last c x (b.nextOut + k))
    let keep : RowBuf := { b with
      nextY := last + 1, nextOut := stop
      rows := b.rows.filter fun r => decide (stop * o.ps ≤ r.1 + o.pp) }
    some (out, if o.poolLast then none else some keep)

/-! ### Layout and spoil form (R152, R164 to R167) -/

/-- A code on its way to memory: byte offset, bits written, value. -/
abbrev Patch := Nat × Nat × Nat

/-- The bytes that one code touches. -/
def codePatches (cbits off sh v : Nat) : List Patch :=
  if cbits = 16 then [(off, 255, v % 256), (off + 1, 255, v / 256)]
  else if cbits = 4 then [(off, 15 * 2 ^ sh, v * 2 ^ sh)]
  else [(off, 255, v)]

/-- Codes with the padding channels behind the last real one, which hold ZP_OUT (R164). -/
def withPadding (o : Ocb) (elem : Bool) (codes : List (Nat × Nat × Nat × Nat)) : List (Nat × Nat × Nat × Nat) :=
  codes.flatMap fun e =>
    if elem ∨ e.1 + 1 ≠ o.cht then [e]
    else e :: (List.range (o.geo.blocks * o.geo.lay.block - o.cht)).map fun k => (o.cht + k, e.2.1, e.2.2.1, o.zp)

/-- A written place lies inside the tensor (R152). -/
def placeOk (o : Ocb) (elem : Bool) (e : Nat × Nat × Nat × Nat) : Bool :=
  if elem then decide (e.2.1 < o.out.1 * o.out.2) else decide (e.2.1 < o.out.1) && decide (e.2.2.1 < o.out.2)

/-- Mask and value of a byte under the patches of its line. -/
def patchByte (l : List Patch) (off : Nat) : Nat × Nat :=
  l.foldl (fun a p => if p.1 = off then (a.1 ||| p.2.1, (a.2 &&& (255 - p.2.1)) ||| p.2.2) else a) (0, 0)

/-- The bytes of a line, `n` from offset `off`; none where nothing is written. A byte of which one code alone is
written keeps its other code (R164), which spoil form does not allow (R167). -/
def lineBytes (s : State) (w : Who) (base : Nat) (spoil : Bool) (l : List Patch) (off n : Nat) : Eng (List (Option Byte)) :=
  (List.range n).mapM fun i =>
    let p := patchByte l (off + i)
    if p.1 = 0 then pure none
    else if p.1 = 255 then pure (some (BitVec.ofNat 8 p.2))
    else if spoil then w.bad
    else (ledgeByte s w (base + off + i)).map fun v => some (BitVec.ofNat 8 (p.2 + (v &&& (255 - p.1))))

/-- The runs of a line: offset and bytes. -/
def runsOf : Nat → List (Option Byte) → List (Nat × Bytes)
  | _, [] => []
  | off, none :: r => runsOf (off + 1) r
  | off, some b :: r => match runsOf (off + 1) r with
    | [] => [(off, [b])]
    | (o, c) :: q => if o = off + 1 then (off, b :: c) :: q else (off, [b]) :: (o, c) :: q

/-- Writes at offsets of the executing core's Ledge, checked: absolute addresses (R111, R114). -/
def ledgeWrites (s : State) (w : Who) (ws : List (Nat × Bytes)) : Eng (List (Nat × Bytes)) :=
  if ws.any (fun e => decide (ledgeSize < e.1 + e.2.length)) then .error (w.flt cCtxRange)
  else s.checkWrites w (ws.map fun e => (0x020100000000 + e.1, e.2))

/-- What writing an output tensor leaves. -/
structure Stored where
  /-- Writes at absolute addresses. -/
  ws : List (Nat × Bytes)
  /-- Lines written. -/
  lines : Nat
  /-- ZGROUP units (R136). -/
  zgroup : Nat
  /-- Segments encoded. -/
  segs : Nat
  /-- Compressed bytes in units of 8. -/
  comp : Nat
  deriving DecidableEq, Repr

/-- The writes of a segment in spoil form: slot and index entry (R166, R167). -/
def segWrites (dst idx seg : Nat) (plain : Bytes) : Nat × List (Nat × Bytes) :=
  let e := spoilEncode plain
  (e.1 / 8, (if e.1 = 0 then [] else [(dst + 320 * seg, spoilSlot e.2)]) ++ [(idx + 2 * seg, le 2 e.1)])

/-- Checks writes at offsets of the executing core's Ledge, or at device addresses. -/
def placeWrites (s : State) (w : Who) (led : Bool) (ws : List (Nat × Bytes)) : Eng (List (Nat × Bytes)) :=
  if led then ledgeWrites s w ws else s.checkWrites w ws

/-- Step 8 for one output tensor in the Ledge or at a device address (R152, R164, R165, R167). A 32-byte unit that the output
writes in part only counts in ZGROUP when the codes written, padding included, all equal ZP_OUT, and in spoil form LINES counts the
uncompressed 32-byte units: DESIGN CHOICE (R136, R172, log 50). -/
def storeCodes (s : State) (w : Who) (o : Ocb) (elem led : Bool) (base : Nat) (codes : List (Nat × Nat × Nat × Nat)) :
    Eng Stored :=
  if codes.any (fun e => !placeOk o elem e) then w.bad
  else do
    let all := withPadding o elem codes
    let ps := all.flatMap fun e => let p := o.pos elem e.1 e.2.1 e.2.2.1; codePatches o.cbits p.1 p.2 e.2.2.2
    let zs := all.map fun e => ((o.pos elem e.1 e.2.1 e.2.2.1).1 / 32, decide (e.2.2.2 = o.zp))
    let units := (zs.map (·.1)).dedup
    let zg := (units.filter fun u => zs.all fun z => decide (z.1 ≠ u) || z.2).length
    if o.spoil then
      let segs := (ps.map (·.1 / 256)).dedup
      let l ← segs.mapM fun g => do
        let b ← lineBytes s w base true (ps.filter fun p => p.1 / 256 = g) (256 * g) 256
        if b.any (·.isNone) then w.bad else pure (segWrites base o.idx g (b.map (·.getD 0)))
      let ws ← placeWrites s w led (l.flatMap (·.2))
      pure ⟨ws, units.length, zg, segs.length, sumN (l.map (·.1))⟩
    else
      let l ← units.mapM fun u => do
        let b ← lineBytes s w base false (ps.filter fun p => p.1 / 32 = u) (32 * u) 32
        pure ((runsOf (32 * u) b).map fun r => (base + r.1, r.2))
      let ws ← placeWrites s w led l.flatten
      pure ⟨ws, units.length, zg, 0, 0⟩

/-! ### The output of a descriptor -/

/-- What the output stage gathers for a descriptor. -/
structure OutRun where
  /-- The state that later reads of the descriptor see. -/
  view : State
  /-- Writes at absolute addresses. -/
  ws : List (Nat × Bytes) := []
  /-- Elements requantised, lines written, segments encoded, compressed bytes in units of 8. -/
  counts : Nat × Nat × Nat × Nat := (0, 0, 0, 0)
  /-- Statistics by slot. -/
  stats : List (Nat × StatAcc) := []
  /-- Row buffers left for the next descriptor. -/
  bufs : List (Nat × RowBuf) := []

/-- What one problem hands to the output stage. -/
structure OutJob where
  /-- Problem number. -/
  prob : Nat
  /-- Its control block. -/
  o : Ocb
  /-- ELEM. -/
  elem : Bool
  /-- Pooling input. -/
  pin : PoolIn
  /-- Elements of each output with its base: one, or real and imaginary for CPLX8. -/
  outs : List (Nat × List Elem)
  /-- Clamps of the array counted for it (R129). -/
  sat : Nat

/-- One output tensor of a problem through steps 2 to 8. `prev` holds the row buffers of the descriptor before; `s0` is what
the problem's operands are read from: each line of RES is read before a line of DST is written (R171). -/
def outTensor (s0 : State) (w : Who) (j : OutJob) (osc : Nat) (act : Act) (prev : List (Nat × RowBuf)) (which : Nat)
    (base : Nat) (es : List Elem) (r : OutRun) : Eng OutRun := do
  let o := j.o
  let key := 2 * j.prob + which
  let start ← if o.poolEn then
      match poolStart o j.pin (w.ctx, w.gen) w.detail ((prev.find? fun e => e.1 = key).map (·.2)) with
      | some b => pure (some b)
      | none => w.bad
    else pure none
  let (codes, st) ← requantAll s0 w o j.elem j.prob osc act es
  let (places, buf) ← match start with
    | none => pure (codes.map fun e => (e.1.c, e.1.x, e.1.y, e.2), none)
    | some b => match poolStep o j.pin b codes with
      | some p => pure p
      | none => w.bad
  let d ← storeCodes r.view w o j.elem true base places
  let st := { st with zgroup := d.zgroup, sat := st.sat + if which = 0 then j.sat else 0 }
  pure { view := r.view.commit (w.ctx, w.gen) d.ws
         ws := r.ws ++ d.ws
         counts := (r.counts.1 + es.length, r.counts.2.1 + d.lines, r.counts.2.2.1 + d.segs, r.counts.2.2.2 + d.comp)
         stats := if o.statEn then r.stats ++ [(o.stat, st)] else r.stats
         bufs := match buf with
           | some b => r.bufs ++ [(key, b)]
           | none => r.bufs }

/-- The PWL table that a descriptor uses, and what the buffer then holds (R159). -/
def loadPwl (s : State) (w : Who) (held : Option (CtxId × BitVec 12 × Nat × Bytes)) (js : List OutJob) :
    Eng (Option (CtxId × BitVec 12 × Nat × Bytes)) :=
  match js.find? (·.o.isPwl) with
  | none => .ok none
  | some j =>
    if js.any fun k => k.o.isPwl && decide (k.o.table ≠ j.o.table) then w.bad
    else match held with
      | some h => if h.1 = w.ctx ∧ h.2.1 = w.gen ∧ h.2.2.1 = j.o.table then .ok held
        else (ledgeRead s w j.o.table 2048).map fun b => some (w.ctx, w.gen, j.o.table, b)
      | none => (ledgeRead s w j.o.table 2048).map fun b => some (w.ctx, w.gen, j.o.table, b)

/-- The output stage runs the problems of a descriptor; answers what it leaves and the PWL buffer (R150, R159). The order of
the elements of different problems is not stated: when the scale of one problem is invalid the model writes nothing of any
problem, DESIGN CHOICE (R122, log 50). -/
def outputStage (s : State) (w : Who) (golden : Bool) (ost : OstRegs) (js : List OutJob) :
    Eng (OutRun × Option (CtxId × BitVec 12 × Nat × Bytes)) := do
  let pwl ← loadPwl s w ost.pwl js
  let table := (pwl.map fun p => p.2.2.2).getD []
  let r ← js.foldlM (fun (r : OutRun) (j : OutJob) => do
    let osc ← readScale r.view w j.o.adaptive golden j.o.scale
    (j.outs.zipIdx).foldlM (fun a e => outTensor r.view w j osc (j.o.activation table) ost.rowBufs e.2 e.1.1 e.1.2 a) r)
    { view := s }
  pure (r, pwl)

/-- The registers, buffers and statistics that an output run leaves (R134, R159, R162, R172). -/
def applyOutRun (s : State) (w : Who) (i : CoreId) (golden : Bool) (r : OutRun)
    (pwl : Option (CtxId × BitVec 12 × Nat × Bytes)) : State :=
  let s := s.onEngine i fun x => { x with ost := { x.ost with
    rowBufs := r.bufs, pwl := pwl
    elemCnt := x.ost.elemCnt + BitVec.ofNat 32 r.counts.1, linesCnt := x.ost.linesCnt + BitVec.ofNat 32 r.counts.2.1
    spoilIn := x.ost.spoilIn + BitVec.ofNat 32 r.counts.2.2.1
    spoilOut := x.ost.spoilOut + BitVec.ofNat 32 r.counts.2.2.2 } }
  if golden then s else r.stats.foldl (fun s e => postStats s w.part w.ctx e.1 e.2) s

/-- An AQ descriptor that leaves no PWL table, no rows and no filled shadow behind it (R91, R159, R162). -/
def forgetAq (s : State) (i : CoreId) : State :=
  s.onEngine i fun x => { x with ost := { x.ost with rowBufs := [], pwl := none }, arr := { x.arr with shadow := none } }

end Sys2Proof.Machine
end

