-- ==== Sys2Proof/Machine/Sett.lean ====
section
/-!
DEFINITION. Machine/Sett.lean: the SETT descriptor (R186 to R195).
-/

namespace Sys2Proof.Machine

/-- A SETT payload (R187). -/
structure SettP where
  /-- SRC, DST. -/
  src : AddrField
  /-- DST. -/
  dst : AddrField
  /-- IN_W, IN_H. -/
  inp : Nat × Nat
  /-- C_IN, C_OUT. -/
  cin : Nat
  /-- C_OUT. -/
  cout : Nat
  /-- KW, KH. -/
  k : Nat × Nat
  /-- Stride. -/
  stride : Nat
  /-- Dilation. -/
  dil : Nat
  /-- Left and top padding. -/
  pad : Nat × Nat
  /-- CTRL. -/
  ctrl : Nat
  /-- OY0, OH. -/
  oy0 : Nat
  /-- OH. -/
  oh : Nat
  /-- ZP_X, ZP_W. -/
  zp : Nat × Nat
  /-- IN_LAYOUT. -/
  lay : Nat
  /-- W_OFF, PAR_OFF, SCB. -/
  offs : Nat × Nat × Nat
  deriving DecidableEq, Repr

/-- Reads a SETT payload (R187). -/
def settOf (p : Bytes) : SettP :=
  { src := addrField p 0, dst := addrField p 8, inp := (fld p 16 2, fld p 18 2), cin := fld p 20 2, cout := fld p 22 2
    k := (byteAt p 24 % 16, byteAt p 24 / 16), stride := byteAt p 25 % 16, dil := byteAt p 25 / 16
    pad := (byteAt p 26 % 16, byteAt p 26 / 16), ctrl := byteAt p 27, oy0 := fld p 28 2, oh := fld p 30 2
    zp := (fld p 32 2, byteAt p 34), lay := byteAt p 35, offs := (fld p 36 4, fld p 40 4, fld p 44 4) }

namespace SettP
/-- SRC_LEDGE. -/
def srcLedge (x : SettP) : Bool := bit x.ctrl 0
/-- DST_LEDGE. -/
def dstLedge (x : SettP) : Bool := bit x.ctrl 1
/-- IN16. -/
def in16 (x : SettP) : Bool := bit x.ctrl 2
/-- ARGMAX. -/
def argmax (x : SettP) : Bool := bit x.ctrl 3
/-- Channel lanes G of LANES. -/
def lanes (x : SettP) : Nat := 32 / 2 ^ bits x.ctrl 5 4
/-- DKW, DKH (R188). -/
def dk (x : SettP) : Nat × Nat := ((x.k.1 - 1) * x.dil + 1, (x.k.2 - 1) * x.dil + 1)
/-- Output width and full output height (R188). -/
def out (x : SettP) : Nat × Nat :=
  ((x.inp.1 + 2 * x.pad.1 - x.dk.1) / x.stride + 1, (x.inp.2 + 2 * x.pad.2 - x.dk.2) / x.stride + 1)
/-- Terms of a sum, K of R189. -/
def terms (x : SettP) : Nat := x.cin * x.k.2 * x.k.1
/-- The input tensor. -/
def geo (x : SettP) : Geo := ⟨layoutOf x.lay, x.inp.1, x.inp.2, x.cin, if x.in16 then 16 else 8⟩
end SettP

/-- An address that lies in a Ledge, through any window (R187, R234). -/
def isLedgeAddr (a : Nat) : Bool :=
  match target a with
  | .ledge _ | .selfWin | .slotWin _ => true
  | _ => false

/-- SRC or DST of a SETT descriptor (R187): of an address field REMOTE and the reserved bits are zero. -/
def settAddrOk (ledge : Bool) (a : AddrField) : Bool :=
  decide (a.rsv = 0) && !a.remote &&
    if ledge then decide (a.ring = 0) && decide (a.addr < ledgeSize) else !isLedgeAddr a.addr

/-- The payload of a SETT descriptor is allowed (R186, R187, R188). -/
def settOk (p : Bytes) : Bool :=
  let x := settOf p
  settAddrOk x.srcLedge x.src && settAddrOk x.dstLedge x.dst && inR 1 x.inp.1 8192 && inR 1 x.inp.2 8192 &&
  inR 1 x.cin 256 && inR 1 x.cout 1024 && (decide (x.cin ≤ 16) || decide (x.cout ≤ 32)) && inR 1 x.k.1 7 && inR 1 x.k.2 7 &&
  [1, 2, 4].contains x.stride && inR 1 x.dil 4 && decide (x.ctrl < 64) && decide (bits x.ctrl 5 4 ≠ 3) &&
  inR 1 x.oh 8192 && (x.in16 || decide (x.zp.1 < 256)) && decide (x.lay < 4) &&
  (decide (x.lay ≠ 3) || (x.in16 && decide (x.cin = 1))) && (decide (x.lay ≠ 2) || decide (x.cin ≤ 4)) &&
  decide (x.offs.1 < ledgeSize) && decide (x.offs.2.1 < ledgeSize) && decide (x.offs.2.2 < ledgeSize) &&
  decide (x.dk.1 ≤ x.inp.1 + 2 * x.pad.1) && decide (x.dk.2 ≤ x.inp.2 + 2 * x.pad.2) &&
  decide (x.oy0 + x.oh ≤ x.out.2) && decide ((x.dk.2 + x.stride) * x.inp.1 * x.cin * (if x.in16 then 2 else 1) ≤ 2097152)

/-- The Sett control block as an output-stage block over the output tensor (R190). -/
def scbOf (b : Bytes) (out : Nat × Nat) : Ocb :=
  let fmt := byteAt b 3
  { flags := fld b 0 2, act := byteAt b 2, cbits := widthOf (fmt % 4), lay := fmt / 4 % 4, scale := fld b 4 4
    zp := fld b 8 2, qmin := fld b 0x0A 2, qmax := fld b 0x0C 2, stat := byteAt b 0x0E, biasSh := 0, dst := 0, bias := 0
    actA := fld b 0x10 4, actB := fld b 0x14 4, table := 0, res := 0, zpR := 0, rsc := 0, out := out
    ch0 := fld b 0x18 2, cht := fld b 0x1A 2, pool := 0, imag := 0, idx := 0
    rsv := fmt / 16 + byteAt b 0x0F + fld b 0x1C 4 }

/-- Reads and checks the Sett control block (R190, R134, R154); the output size, which the descriptor gives, has no range of
its own (R188). -/
def readScb (s : State) (w : Who) (x : SettP) : Eng Ocb :=
  if x.offs.2.2 % 32 ≠ 0 then w.bad
  else match ledgeRead s w x.offs.2.2 32 with
    | .error f => .error f
    | .ok b =>
      let o := scbOf b x.out
      if o.flags < 8 ∧ o.act ≤ 3 ∧ o.cbits ≠ 4 ∧ ({ o with out := (1, 1) } : Ocb).ok ⟨false, false, false, x.cout⟩ (s.scaleN w.ctx) = true then
        if o.statEn && !s.ownsSlot w.part w.ctx o.stat then .error (w.flt cCtxRange) else .ok o
      else w.bad

/-- A code of a tensor in the executing core's Ledge or at a device address. -/
def tensorCode (s : State) (w : Who) (led : Bool) (base off cbits : Nat) : Eng Nat :=
  if led then ledgeCode s w (base + off) 0 cbits
  else (s.load w (base + off) (cbits / 8)).map fun b => fld b 0 (cbits / 8)

/-- The integer sum of a channel at an output pixel (R191). -/
def settSum (s : State) (w : Who) (x : SettP) (c ox oy : Nat) : Eng Int :=
  let g := x.lanes
  (List.range x.terms).foldlM (fun acc i => do
    let kx := i % x.k.1
    let ky := i / x.k.1 % x.k.2
    let ci := i / (x.k.1 * x.k.2)
    let ix : Int := ((ox * x.stride + kx * x.dil : Nat) : Int) - x.pad.1
    let iy : Int := ((oy * x.stride + ky * x.dil : Nat) : Int) - x.pad.2
    if ix < 0 ∨ iy < 0 ∨ (x.inp.1 : Int) ≤ ix ∨ (x.inp.2 : Int) ≤ iy then pure acc
    else do
      let wt ← ledgeByte s w (x.offs.1 + (c / g * x.terms + i) * g + c % g)
      let v ← tensorCode s w x.srcLedge x.src.addr (x.geo.off ci ix.toNat iy.toNat) x.geo.cbits
      pure (acc + ((wt : Int) - x.zp.2) * ((v : Int) - x.zp.1))) 0

/-- V of a channel at an output pixel (R191). -/
def settValue (s : State) (w : Who) (x : SettP) (biasEn : Bool) (c ox oy : Nat) : Eng Int := do
  let b ← ledgeRead s w (x.offs.2.1 + 8 * c) 8
  let sum ← settSum s w x c ox oy
  if scValid (fld b 4 2) then pure (sat48 (rescale sum (fld b 4 2) + if biasEn then sgn 32 (fld b 0 4) else 0))
  else .error (w.flt cScaleCode)

/-- The output pixels of a descriptor in order. -/
def SettP.pixels (x : SettP) : List (Nat × Nat) :=
  (List.range x.oh).flatMap fun r => (List.range x.out.1).map fun c => (c, x.oy0 + r)

/-- The feature map: codes by channel, pixel, with their statistics (R191). -/
def settMap (s : State) (w : Who) (x : SettP) (o : Ocb) (osc : Nat) :
    Eng (List (Nat × Nat × Nat × Nat) × StatAcc) :=
  let k : Quant := ⟨osc, o.zp, o.qmin, o.qmax⟩
  (x.pixels.flatMap fun e => (List.range x.cout).map fun c => (c, e)).foldlM
    (fun (acc : List (Nat × Nat × Nat × Nat) × StatAcc) e => do
      let v ← settValue s w x o.biasEn e.1 e.2.1 e.2.2
      let a := (o.activation []).apply v
      if oscValid osc then pure (acc.1 ++ [(o.ch0 + e.1, e.2.1, e.2.2, k.code a)], acc.2.add k a)
      else .error (w.flt cScaleCode)) ([], {})

/-- The ARGMAX record of each pixel with the statistics of the top scores (R192). -/
def settArgmax (s : State) (w : Who) (x : SettP) (o : Ocb) (osc : Nat) : Eng (List (Nat × Bytes) × StatAcc) :=
  let k : Quant := ⟨osc, o.zp, o.qmin, o.qmax⟩
  x.pixels.foldlM (fun (acc : List (Nat × Bytes) × StatAcc) e => do
    let vs ← (List.range x.cout).mapM fun c => settValue s w x o.biasEn c e.1 e.2
    let best := (vs.zipIdx).foldl (fun (b : Nat × Int) v => if b.2 < v.1 then (v.2, v.1) else b) (0, vs.headD 0)
    let a := (o.activation []).apply best.2
    if oscValid osc then
      pure (acc.1 ++ [((e.2 * x.out.1 + e.1) * 4, le 2 best.1 ++ le 2 (k.code a))], acc.2.add k a)
    else .error (w.flt cScaleCode)) ([], {})

/-- Cycles with MACs issued (R193). -/
def SettP.macCycles (x : SettP) : Nat :=
  let g := x.lanes
  let p := 1024 / g
  x.oh * ((x.out.1 + p - 1) / p) * ((x.cout + g - 1) / g) * x.terms

/-- What a SETT descriptor writes and its statistics; all lanes of the last block are read (R189, R191, R192). -/
def settRun (s : State) (w : Who) (golden : Bool) (x : SettP) : Eng (List (Nat × Bytes) × Ocb × StatAcc) := do
  let o ← readScb s w x
  let _ ← ledgeRead s w x.offs.1 ((x.cout + x.lanes - 1) / x.lanes * x.terms * x.lanes)
  let osc ← readScale s w o.adaptive golden o.scale
  if x.argmax then
    let (rs, st) ← settArgmax s w x o osc
    let ws ← placeWrites s w x.dstLedge (rs.map fun e => (x.dst.addr + e.1, e.2))
    pure (ws, o, st)
  else
    let (codes, st) ← settMap s w x o osc
    let d ← storeCodes s w o false x.dstLedge x.dst.addr codes
    pure (d.ws, o, { st with zgroup := d.zgroup })

/-- The SETT descriptor (R191 to R193). DESIGN CHOICE (log 54): QNT counts no SCALE_CODE of the Sett engine (R148). -/
def settBody (f : Facts) (s : State) (j : Job) : Out :=
  match j.who.core with
  | none => { after := s }
  | some i =>
    let x := settOf j.p
    let s1 := s.onEngine i fun y => { y with set := { y.set with stallIn := sat32 y.set.stallIn f.stallFeed } }
    match settRun s1 j.who j.h.golden x with
    | .error g => { after := s1, flt := some g }
    | .ok (ws, o, st) =>
      let s2 := s1.onEngine i fun y => { y with set := { y.set with
        macCyc := y.set.macCyc + BitVec.ofNat 32 x.macCycles } }
      let post := if o.statEn && !j.h.golden then postStats s2 j.who.part j.who.ctx o.stat st else s2
      { writes := ws, after := post, cut := some s2 }

/-- SETT (R187, R191). -/
def execSett (core : CoreId) (f : Facts) (s : State) : Res :=
  finish s (runJob s (.core core .sq) (· = 0x30) f (some (0x03, cSettResidue)) (settBody f))

/-- Adds truncated items to the frame (R79, R80). -/
def addTruncated (s : State) (c : CtxId) (n : Nat) : State :=
  if n = 0 then s
  else setFlag (s.onFrame c fun f => { f with truncated := sat32 f.truncated n }) c fTruncated

end Sys2Proof.Machine
end

