-- ==== Sys2Proof/Machine/Dresser.lean ====
section
/-!
DEFINITION. Machine/Dresser.lean: the DRESS descriptor (R196 to R205).
-/

namespace Sys2Proof.Machine

/-- A DRESS payload (R199). -/
structure DressP where
  /-- BOXES. -/
  boxes : AddrField
  /-- LEVELS. -/
  levels : AddrField
  /-- DST. -/
  dst : AddrField
  /-- COUNT. -/
  count : AddrField
  /-- MAXBOX. -/
  maxBox : Nat
  /-- OUT_W, OUT_H. -/
  out : Nat × Nat
  /-- SAMP. -/
  samp : Nat
  /-- CTRL. -/
  ctrl : Nat
  /-- NC. -/
  nc : Nat
  /-- BOX_STRIDE. -/
  stride : Nat
  /-- NLEV. -/
  nlev : Nat
  deriving DecidableEq, Repr

/-- Reads a DRESS payload (R199). -/
def dressOf (p : Bytes) : DressP :=
  { boxes := addrField p 0, levels := addrField p 8, dst := addrField p 16, count := addrField p 24
    maxBox := fld p 32 2, out := (byteAt p 34, byteAt p 35), samp := byteAt p 36, ctrl := byteAt p 37
    nc := fld p 38 2, stride := fld p 40 4, nlev := byteAt p 44 }

/-- DYN. -/
def DressP.dyn (x : DressP) : Bool := bit x.ctrl 0
/-- SX, SY. -/
def DressP.s (x : DressP) : Nat × Nat := (x.samp % 4 + 1, x.samp / 4 % 4 + 1)

/-- An address field on the issuing device (R65, R199). -/
def State.localField (s : State) (a : AddrField) : Bool := decide (a.rsv = 0) && s.isLocal a

/-- The payload of a DRESS descriptor is allowed (R199). -/
def dressOk (s : State) (p : Bytes) : Bool :=
  let x := dressOf p
  [x.boxes, x.levels, x.dst, x.count].all s.localField && (x.dyn || decide (fld p 24 8 = 0)) &&
  inR 1 x.maxBox 8192 && inR 1 x.out.1 32 && inR 1 x.out.2 32 && decide (x.samp < 16) && decide (x.ctrl < 4) &&
  inR 1 x.nc 4096 && decide (x.stride % 32 = 0) && inR 1 x.nlev 16 && (p.drop 45).all (· = 0)

/-- A level (R198): base, geometry, zero point. -/
structure Level where
  /-- BASE. -/
  base : Nat
  /-- Geometry. -/
  geo : Geo
  /-- ZP. -/
  zp : Nat
  deriving DecidableEq, Repr

/-- An address of the Dresser, which does not lie in a Ledge: MOVE alone reaches the Ledge of a core that does not execute the
descriptor (R67). -/
def awayFromLedges (w : Who) (a : Nat) : Eng Unit := if isLedgeAddr a then .error (w.flt cCtxRange) else .ok ()

/-- Reads an entry of the level table; its BASE lies in a Stockpile or DRAM, its fields are in range and its C is NC (R198,
R199). -/
def readLevel (s : State) (w : Who) (x : DressP) (i : Nat) : Eng Level := do
  let b ← s.load w (x.levels.addr + 16 * i) 16
  let a := addrField b 0
  let g : Geo := ⟨layoutOf (byteAt b 14), fld b 8 2, fld b 10 2, fld b 12 2, 8⟩
  if a.rsv = 0 ∧ a.remote = false ∧ isLedgeAddr a.addr = false ∧ byteAt b 14 ≤ 1 ∧ inR 1 g.w 8192 = true ∧ inR 1 g.h 8192 = true ∧ g.c = x.nc then
    pure ⟨a.addr, g, byteAt b 15⟩
  else w.bad

/-- A box (R197). -/
structure Box where
  /-- LEVEL. -/
  level : Nat
  /-- FLAGS. -/
  flags : Nat
  /-- X0, Y0. -/
  p0 : Int × Int
  /-- X1, Y1. -/
  p1 : Int × Int
  deriving DecidableEq, Repr

/-- Reads a box record (R197). -/
def boxOf (b : Bytes) : Box :=
  { level := fld b 0 2, flags := fld b 2 2, p0 := (sgn 32 (fld b 4 4), sgn 32 (fld b 8 4))
    p1 := (sgn 32 (fld b 12 4), sgn 32 (fld b 16 4)) }

/-- A bad box (R201). -/
def Box.isBad (b : Box) (nlev : Nat) : Bool :=
  decide (nlev ≤ b.level) || decide (b.p1.1 < b.p0.1) || decide (b.p1.2 < b.p0.2) || decide (2 ≤ b.flags)

/-- Position of sample `j` of `n` bins × samples along one axis (R202). -/
def samplePos (a b : Int) (n j : Nat) : Int := a + (b - a) * (2 * (j : Int) + 1) / ((2 * n : Nat) : Int)

/-- A position lies outside the axis of `n` points (R202). -/
def outside (p : Int) (n : Nat) : Bool := decide (p < 0) || decide (((n - 1) * 65536 : Nat) < p)

/-- Point, next point and fraction of a position clamped to the axis (R202). -/
def samplePoint (p : Int) (n : Nat) : Nat × Nat × Nat :=
  let q := (clampI p 0 ((n - 1) * 65536 : Nat)).toNat
  (q / 65536, min (q / 65536 + 1) (n - 1), q / 16 % 4096)

/-- One bilinear sample in units of 2^-24 codes (R202). -/
def sampleValue (s : State) (w : Who) (l : Level) (zeroFill : Bool) (c : Nat) (px py : Int) : Eng Nat :=
  if zeroFill && (outside px l.geo.w || outside py l.geo.h) then .ok (l.zp * 2 ^ 24)
  else do
    let x := samplePoint px l.geo.w
    let y := samplePoint py l.geo.h
    let at' (i j : Nat) : Eng Nat := tensorCode s w false l.base (l.geo.off c i j) 8
    let a ← at' x.1 y.1
    let b ← at' x.2.1 y.1
    let cc ← at' x.1 y.2.1
    let d ← at' x.2.1 y.2.1
    pure ((a * (4096 - x.2.2) + b * x.2.2) * (4096 - y.2.2) + (cc * (4096 - x.2.2) + d * x.2.2) * y.2.2)

/-- One bin (R202). -/
def binCode (s : State) (w : Who) (x : DressP) (b : Box) (l : Level) (c bx bY : Nat) : Eng Nat := do
  let (sx, sy) := x.s
  let vs ← (List.range sy).mapM fun j => (List.range sx).mapM fun i =>
    sampleValue s w l (bit b.flags 0) c (samplePos b.p0.1 b.p1.1 (x.out.1 * sx) (bx * sx + i))
      (samplePos b.p0.2 b.p1.2 (x.out.2 * sy) (bY * sy + j))
  pure (rneDiv (sumN vs.flatten) (sx * sy * 2 ^ 24)).toNat

/-- The output tensor of a box (R200). -/
def DressP.geo (x : DressP) : Geo := ⟨if bit x.ctrl 1 then .cb32 else .cb16, x.out.1, x.out.2, x.nc, 8⟩

/-- The bytes of a box's output: codes and padding channels (R164, R200). -/
def boxBytes (x : DressP) (pad : Nat) (code : Nat → Nat → Nat → Eng Nat) : Eng Bytes :=
  let g := x.geo
  (List.range g.bytes).mapM fun o =>
    let c := o / (g.w * g.h * g.lay.block) * g.lay.block + o % g.lay.block
    let px := o / g.lay.block % (g.w * g.h)
    if c < g.c then (code c (px % g.w) (px / g.w)).map (BitVec.ofNat 8) else .ok (BitVec.ofNat 8 pad)

/-- Bytes fetched for a box in units of 32: rows iy and iy1 at each distinct column of each sample row, for each channel
block (R203). -/
def boxFetch (x : DressP) (b : Box) (l : Level) : Nat :=
  let (sx, sy) := x.s
  let zf := bit b.flags 0
  let xs := (List.range (x.out.1 * sx)).map (samplePos b.p0.1 b.p1.1 (x.out.1 * sx))
  let used := xs.filter fun p => !(zf && outside p l.geo.w)
  let cols := (used.flatMap fun p => let q := samplePoint p l.geo.w; [q.1, q.2.1]).dedup.length
  let rows := ((List.range (x.out.2 * sy)).map (samplePos b.p0.2 b.p1.2 (x.out.2 * sy))).filter fun p =>
    !(zf && outside p l.geo.h)
  rows.length * 2 * cols * l.geo.lay.block * l.geo.blocks / 32

/-- What a box list has done so far: writes, bad boxes, fetched units. -/
abbrev DressRun := List (Nat × Bytes) × Nat × Nat

/-- One box (R200 to R202). -/
def dressBox (s : State) (w : Who) (x : DressP) (k : Nat) (r : DressRun) : Eng DressRun := do
  let _ ← [x.boxes.addr + 32 * k, x.levels.addr, x.dst.addr + k * x.stride].mapM (awayFromLedges w)
  let rec0 ← s.load w (x.boxes.addr + 32 * k) 32
  let b := boxOf rec0
  if b.isBad x.nlev then
    let l0 ← s.load w (x.levels.addr) 16
    let z := byteAt l0 15
    let out ← boxBytes x z fun _ _ _ => .ok z
    pure (r.1 ++ [(x.dst.addr + k * x.stride, out)], r.2.1 + 1, r.2.2)
  else
    let l ← readLevel s w x b.level
    let out ← boxBytes x l.zp fun c i j => binCode s w x b l c i j
    pure (r.1 ++ [(x.dst.addr + k * x.stride, out)], r.2.1, r.2.2 + boxFetch x b l)

/-- The box count and its excess (R200). -/
def dressCount (s : State) (w : Who) (x : DressP) : Eng (Nat × Nat) :=
  if x.dyn then do
    let _ ← awayFromLedges w x.count.addr
    let b ← s.load w x.count.addr 4
    pure (min (fld b 0 4) x.maxBox, fld b 0 4 - x.maxBox)
  else .ok (x.maxBox, 0)

/-- The DRESS descriptor (R200 to R203). -/
def dressBody (s : State) (j : Job) : Out :=
  let w := j.who
  let x := dressOf j.p
  match dressCount s w x with
  | .error g => { after := s, flt := some g }
  | .ok (n, more) =>
    let s := addTruncated (s.onPart w.part fun y => { y with drs := { y.drs with
      truncCnt := sat32 y.drs.truncCnt more } }) w.ctx more
    match (List.range n).foldlM (fun r k => dressBox s w x k r) (([], 0, 0) : DressRun) with
    | .error g => { after := s, flt := some g }
    | .ok r =>
      let s := s.onPart w.part fun y => { y with drs := { y.drs with
        boxCnt := y.drs.boxCnt + BitVec.ofNat 32 n, badBox := sat32 y.drs.badBox r.2.1
        fetch := y.drs.fetch + BitVec.ofNat 32 r.2.2 } }
      match s.checkWrites w r.1 with
      | .error g => { after := s, flt := some g }
      | .ok ws => { writes := ws, after := s, cut := some s }

/-- DRESS (R199, R200). -/
def execDress (p : PartId) (f : Facts) (s : State) : Res :=
  finish s (runJob s (.dq p) (· = 0x50) f (some (0x09, cDressResidue)) dressBody)

end Sys2Proof.Machine
end

