-- ==== Sys2Proof/Machine/Results.lean ====
section
/-!
DEFINITION. Machine/Results.lean: the result record that SEAL writes (R77 to R82, R384), its release (R314, R319,
R494) and the frame it hands to the Tally (R312).
-/

namespace Sys2Proof.Machine

/-- The information about a buffer that a frame consumes. -/
def State.bufInfo (s : State) (e : Consumed) : Option BufInfo :=
  e.buf.map fun b =>
    if e.flow then ((s.die e.die).flows.get ⟨e.profile % 16, Nat.mod_lt _ (by decide)⟩).bufs.get b
    else ((s.die e.die).cams.get ⟨e.profile % 32, Nat.mod_lt _ (by decide)⟩).bufs.get b

/-- The streams INCOMPLETE at SEAL: those marked so far, and those whose digest is not final (R79, R283, R384). -/
def State.sealIncomplete (s : State) (c : CtxId) : U64 :=
  let f := (s.ctx c).frame
  f.consumed.foldl (fun m e =>
    let bad := match s.bufInfo e with
      | some i => i.incomplete || i.digest.isNone
      | none => true
    if bad then m ||| (1 <<< e.stream.1) else m) f.incomplete

/-- The source of a consumed stream: its CSI-2 port or its MAC (R356). -/
def State.streamSrc (s : State) (c : CtxId) (e : Consumed) : U16 :=
  if e.flow then srcMac e.die ⟨(s.flowProf c e.die ⟨e.profile % 16, Nat.mod_lt _ (by decide)⟩).mac % 4, Nat.mod_lt _ (by decide)⟩
  else srcCsi e.die (s.camProf c e.die ⟨e.profile % 32, Nat.mod_lt _ (by decide)⟩).port

/-- Records each INCOMPLETE stream of the frame that no event has named yet: the cause marked no buffer (R283, R357). -/
def recordIncomplete (s : State) (c : CtxId) (inc : U64) : State :=
  (s.ctx c).frame.consumed.foldl (fun s e =>
    let named := match s.bufInfo e with
      | some i => i.incomplete
      | none => false
    if inc.getLsbD e.stream.1 && !named then event s (s.streamSrc c e) cStreamInc (some (s.cg c)) 0 else s) s

/-- The input digest of the frame (R81). -/
def State.inputDigest (s : State) (c : CtxId) (inc : U64) : Bytes :=
  sha256 ((s.ctx c).frame.consumed.flatMap fun e =>
    if inc.getLsbD e.stream.1 then zeros 32
    else match s.bufInfo e with
      | some i => slice (i.digest.getD []) 0 32
      | none => zeros 32)

/-- The oldest ingress timestamp that the frame consumed, 0 when there is none (R79). -/
def State.oldestInput (s : State) (c : CtxId) : U64 :=
  let l := ((s.ctx c).frame.consumed.filterMap s.bufInfo).map (·.ts)
  match l with
  | [] => 0
  | t :: r => r.foldl (fun m x => if tsDiff x m < 0 then x else m) t

/-- The result digest (R81). -/
def State.resultDigest (s : State) (c : CtxId) (inc : U64) (out : Option Bytes) : Bytes :=
  sha256 (slice (s.boot.prog.get c) 0 32 ++ slice (s.boot.wgt.get c) 0 32 ++ s.inputDigest c inc
    ++ slice (s.ctx c).ckptDigest 0 32 ++ (out.map fun d => slice d 0 32).getD [])

/-- The RESULT_MARK of a frame among the retained ones (R389, R399): header and verdict record. -/
def State.resultMark (s : State) (c : CtxId) (frame : U32) : Option RecItem :=
  s.rep.results.find? fun x => decide (x.aux.toNat % 16 = c.1) &&
    decide (fld x.payload (if bit x.aux.toNat 4 then 140 else 12) 4 = frame.toNat)

/-- T_SEAL: the time of SEAL, in REPLAY that of the recorded mark unless it has no header (R398). -/
def State.sealTime (s : State) (c : CtxId) : U64 :=
  if s.dev = .replay then
    match s.resultMark c (s.ctx c).frameNum with
    | some x => if bit x.aux.toNat 4 then s.now64 else BitVec.ofNat 64 (fld x.payload 0x20 8)
    | none => s.now64
  else s.now64

/-- Items truncated in the frame: by its engines, and in the sweeps that it consumes (R79, R279). -/
def State.sealTruncated (s : State) (c : CtxId) : U32 :=
  let f := (s.ctx c).frame
  (f.consumed.filterMap s.bufInfo).foldl (fun n i => sat32 n i.truncated.toNat) f.truncated

/-- FLAGS of the record (R80): what the frame latched, and what holds at SEAL. -/
def State.sealFlags (s : State) (c : CtxId) (inc : U64) (use : Bool) : U32 :=
  let x := s.ctx c
  x.frame.flags ||| flagBit fIncomplete (inc ≠ 0) ||| flagBit fTruncated (s.sealTruncated c ≠ 0) ||| flagBit fTriggerMissed (x.missedSince ≠ 0)
    ||| flagBit fDegradedWin x.frame.degradedWin ||| flagBit fOutputDigest use ||| flagBit fReplay (s.dev = .replay)
    ||| flagBit fRelaxed (s.relaxed c) ||| flagBit fHostAbsent s.hst.hostAbsent

/-- An item that no rule can save from FAIL: its record is not written (R82, R312, R315, R323). -/
def TallyItem.failing (i : TallyItem) : Bool := i.late || i.lost || i.faulted || i.devFault || i.unqueued

/-- Drops that the DROPPED fields of the context's held records carry already, those of records that will not be written apart
(R79, R494). -/
def State.droppedHeld (s : State) (c : CtxId) : Nat :=
  if s.holdMode c then sumN (s.tly.queue.map fun i => match i.record with
    | some a => if i.ctx = c ∧ i.gen = (s.ctx c).gen ∧ !i.failing then fld (s.peek (a + 0x64) 4) 0 4 else 0
    | none => 0)
  else 0

/-- The 128-byte header with the verdict pending (R79, R82). -/
def resultHeader (s : State) (c : CtxId) (schema plen : Nat) (inc : U64) (use : Bool) (out : Bytes) : Bytes :=
  let x := s.ctx c
  withCrc32 (le 4 0x48525A42 ++ le 2 1 ++ le 2 schema ++ le 1 c.1 ++ zeros 1 ++ le 2 x.gen.toNat ++ le 4 x.frameNum.toNat
    ++ le 8 x.frame.tTrigger.toNat ++ le 8 (s.oldestInput c).toNat ++ le 8 (s.sealTime c).toNat ++ zeros 8
    ++ s.resultDigest c inc (if use then some out else none)
    ++ le 4 x.frame.ndc.toNat ++ le 4 (s.sealFlags c inc use).toNat ++ le 4 plen ++ zeros 4
    ++ le 4 (s.sealTruncated c).toNat ++ le 4 (x.droppedSince.toNat - s.droppedHeld c) ++ le 8 inc.toNat ++ le 4 x.missedSince.toNat
    ++ le 4 x.recordSeq.toNat ++ zeros 4)

/-- A record enters its context's host ring. -/
def State.ringTakes (s : State) (c : CtxId) (b : Bytes) : Bool :=
  !s.hst.hostAbsent && !ringFull (s.ring ⟨c.1, by omega⟩) (ringUnits b)

/-- Releases a result record, unless the egress stop latch is set (R314, R319). A record that the host ring takes
ends the drops that its DROPPED field carries (R494). -/
def releaseResult (s : State) (c : CtxId) (rec : Bytes) : State :=
  if (s.ctx c).stopLatch then s
  else
    let took := s.ringTakes c rec
    let s := release s c rec
    if took && decide (fld rec 0x0A 2 = (s.ctx c).gen.toNat) then s.onCtx c fun x => { x with
      droppedSince := BitVec.ofNat 32 (x.droppedSince.toNat - fld rec 0x64 4) } else s

/-- The whole record in memory: header and payload. -/
def State.recordBytes (s : State) (a : Nat) : Bytes := s.peek a (128 + fld (s.peek a 128) 0x58 4)

/-- The frame as the Tally takes it from SEAL (R304, R309, R312). -/
def sealItem (s : State) (c : CtxId) (a : Nat) (seq : U32) (tSeal : U64) : TallyItem :=
  let x := s.ctx c
  { ctx := c, gen := x.gen, frame := x.frameNum, record := some a, recordSeq := seq, tSeal := tSeal
    tTrigger := x.frame.tTrigger, armed := s.now64, goldDone := x.frame.goldDone
    goldStreams := x.frame.consumed.foldl (fun m e => match s.bufInfo e with
      | some i => if i.golden && !x.frame.goldSkip.getLsbD e.stream.1 then m ||| (1 <<< e.stream.1) else m
      | none => m) 0
    classes := Vector.ofFn fun i => x.classCnt.get i - x.frame.classAtTrig.get i
    degradedWin := x.frame.degradedWin, faulted := x.frame.faulted, devFault := x.frame.devFault
    thermal := x.frame.thermal, nFault := x.frame.nFault, replay := s.dev = .replay }

/-- After the header is written: counts of the context, release at once, and the Tally's turn (R77, R79, R82). -/
def afterSeal (s : State) (c : CtxId) (a : Nat) : State :=
  let hdr := s.peek a 128
  let item := sealItem s c a (BitVec.ofNat 32 (fld hdr 0x74 4)) (BitVec.ofNat 64 (fld hdr 0x20 8))
  let s := s.onCtx c fun x => { x with
    missedSince := 0, recordSeq := x.recordSeq + 1, frame := { x.frame with hasSealed := true } }
  let s := if s.holdMode c then s else releaseResult s c (s.recordBytes a)
  tallyPush s item

end Sys2Proof.Machine
end

