-- ==== Sys2Proof/Machine/Screen.lean ====
section
/-!
DEFINITION. Machine/Screen.lean: the Screen unit (R207 to R233): payload, the ten operations, their accounting.
-/

namespace Sys2Proof.Machine

/-- The null index (R208). -/
def nullIdx : Nat := 0xFFFFFFFF

/-- What an operation allows (R217): operands used, limit of N, range of CAP, limit of OPT, parameter block. -/
structure ScreenSpec where
  /-- Bit i: operand i is used. -/
  used : Nat
  /-- Limit of N. -/
  nmax : Nat
  /-- Least CAP. -/
  capLo : Nat
  /-- Greatest CAP. -/
  capHi : Nat
  /-- OPT values below this are allowed. -/
  optLim : Nat
  /-- It has a parameter block. -/
  pb : Bool
  deriving DecidableEq, Repr

/-- The table of R217. -/
def screenSpec (op : Nat) : ScreenSpec :=
  let m := 1048576
  match op with
  | 0x40 => ⟨7, m, 1, 2 ^ 25 - 1, 8, false⟩
  | 0x41 => ⟨7, m, 1, 2 ^ 25 - 1, 32, false⟩
  | 0x42 => ⟨13, m, 0, 0, 16, false⟩
  | 0x43 => ⟨13, m, 1, 4096, 4, false⟩
  | 0x44 => ⟨15, m, 1, m, 2, true⟩
  | 0x45 => ⟨15, m, 0, 0, 1, true⟩
  | 0x46 => ⟨15, m, 1, m, 256, false⟩
  | 0x47 => ⟨15, m, 1, 2 ^ 25 - 1, 8, false⟩
  | 0x48 => ⟨13, 4096, 1, 4096, 1, true⟩
  | _ => ⟨7, 16777216, 1, m, 1, true⟩

/-- Element sizes of the operands, to which they are aligned (R215, R217). -/
def screenAlign (op : Nat) (x : ScreenP) : List Nat :=
  let e := x.esz
  match op with
  | 0x40 => [e, if bit x.opt 2 then 8 else 4, e, 1]
  | 0x41 => [e, 4, e, 1]
  | 0x42 => [8, 1, 8, 8]
  | 0x43 => [8, 1, 8, 4]
  | 0x44 => [16, 8, 16, 4]
  | 0x45 => [16, 16, 4, 4]
  | 0x46 => [4, 4, 4, 4]
  | 0x47 => [e, 1, if bit x.opt 2 then 4 else e, 4]
  | 0x48 => [4, 1, 4, 4]
  | _ => [1, 8, 1, 1]

/-- An operand field of 8 bytes with its LOC bit and alignment (R214, R215). -/
def opdOk (led : Bool) (v align : Nat) : Bool :=
  decide (v % align = 0) && if led then decide (v < ledgeSize) else decide (v < 2 ^ 48) && !isLedgeAddr v

/-- The payload of a Screen descriptor is allowed (R213, R214, R215, R217, R219). -/
def screenOk (op : Nat) (p : Bytes) : Bool :=
  let x := screenOf p
  let k := screenSpec op
  let al := screenAlign op x
  decide (x.n < 2 ^ 25) && decide (x.cap < 2 ^ 25) && decide (byteAt p 43 < 32) && inR 1 x.n k.nmax &&
  inR k.capLo x.cap k.capHi && decide (x.opt < k.optLim) && (if k.pb then decide (x.pb % 32 = 0) else decide (x.pb = 0)) &&
  (if x.dyn then decide (op ≠ 0x48) && decide (x.cnt % 4 = 0) else decide (x.cnt = 0)) &&
  !(decide (op = 0x41) && decide (x.opt / 4 % 4 ≠ 0) && decide (x.opt % 4 ≠ 0)) &&
  !(decide (op = 0x46) && decide (x.opt % 4 = 3)) && !(decide (op = 0x48) && decide (1048576 < x.n * x.cap)) &&
  !(decide (op = 0x44) && !x.b.led) &&
  (List.range 4).all fun i => if bit k.used i then opdOk (opdOf p i).led (fld p (8 * i) 8) (al.getD i 1)
    else decide (fld p (8 * i) 8 = 0) && !(opdOf p i).led

/-! ### Reading and writing operands -/

/-- Device address of an operand as the executing core sees it. -/
def Opd.addr (o : Opd) : Nat := if o.led then 0x020100000000 + o.base else o.base

/-- Reads bytes of an operand. -/
def Opd.read (o : Opd) (s : State) (w : Who) (off n : Nat) : Eng Bytes :=
  if o.led then ledgeRead s w (o.base + off) n else s.load w (o.base + off) n

/-- The whole range of an operand lies in the context's regions (R215). -/
def Opd.check (o : Opd) (s : State) (w : Who) (n : Nat) (write : Bool) : Eng Unit :=
  if o.led && decide (ledgeSize < o.base + n) then .error (w.flt cCtxRange)
  else (s.access w o.addr n write).map fun _ => ()

/-- A 32-bit word of a byte string. -/
def word32 (b : Bytes) (i : Nat) : Nat := fld b (4 * i) 4

/-- 32-bit words as bytes. -/
def words32 (l : List Nat) : Bytes := l.flatMap (le 4)

/-- What an operation leaves. -/
structure ScrOut where
  /-- Writes: operand, offset, bytes, in order. -/
  ws : List (Opd × Nat × Bytes) := []
  /-- Further operands that a parameter block names, with their lengths. -/
  named : List (Opd × Nat) := []
  /-- `SCR_OOR` increments. -/
  oor : Nat := 0
  /-- `SCR_SAT` increments. -/
  sat : Nat := 0
  /-- Elements dropped (R210). -/
  drop : Nat := 0
  /-- NDC increments (R209). -/
  ndc : Nat := 0
  deriving DecidableEq, Repr

/-- Inserts by an order; before the first element that it may precede. -/
def insertBy {α : Type} (le : α → α → Bool) (x : α) : List α → List α
  | [] => [x]
  | y :: r => if le x y then x :: y :: r else y :: insertBy le x r

/-- A stable sort. -/
def sortBy {α : Type} (le : α → α → Bool) (l : List α) : List α := l.foldr (insertBy le) []

/-- Items in arrival order: those that the physical world names, then the others; in deterministic order as they are
(R209). -/
def arrive (order : Option (List Nat)) (l : List Nat) : List Nat :=
  match order with
  | none => l
  | some o => (o.filter l.contains).dedup ++ l.filter fun i => !o.contains i

/-! ### The operations -/

/-- GATHER (R218). -/
def opGather (s : State) (w : Who) (x : ScreenP) (n : Nat) : Eng ScrOut := do
  let kp := bit x.opt 2
  let ib ← x.b.read s w 0 (n * if kp then 8 else 4)
  let idx := (List.range n).map fun i => if kp then word32 ib (2 * i + 1) else word32 ib i
  let out ← idx.mapM fun j => if j < x.cap then x.a.read s w (j * x.esz) x.esz else .ok (zeros x.esz)
  pure { ws := if n = 0 then [] else [(x.c, 0, out.flatten)]
         oor := (idx.filter fun j => decide (x.cap ≤ j) && decide (j ≠ nullIdx)).length }

/-- The combining functions of SCATTER (R219). -/
def combine (comb : Nat) (signed : Bool) (old new : Nat) : Nat :=
  let less (a b : Nat) : Bool := if signed then decide (sgn 32 a < sgn 32 b) else decide (a < b)
  match comb with
  | 1 => (old + new) % 2 ^ 32
  | 2 => if less old new then new else old
  | 3 => if less new old then new else old
  | _ => new

/-- SCATTER (R219, R209). -/
def opScatter (s : State) (w : Who) (x : ScreenP) (order : Option (List Nat)) (n : Nat) : Eng ScrOut := do
  let comb := x.opt / 4 % 4
  let vb ← x.a.read s w 0 (n * x.esz)
  let ib ← x.b.read s w 0 (4 * n)
  let valid := (List.range n).filter fun i => decide (word32 ib i < x.cap)
  let seq := if comb = 0 then arrive order valid else valid
  let tab ← seq.foldlM (fun (t : List (Nat × Bytes)) i => do
    let j := word32 ib i
    let v := slice vb (i * x.esz) x.esz
    if comb = 0 then pure (tabPut t j v)
    else do
      let old ← match t.find? fun e => e.1 = j with
        | some e => pure e.2
        | none => x.c.read s w (4 * j) 4
      pure (tabPut t j (le 4 (combine comb (bit x.opt 4) (fld old 0 4) (fld v 0 4))))) []
  let many := valid.filter fun i => decide (1 < (valid.filter fun k => word32 ib k = word32 ib i).length)
  pure { ws := (sortBy (fun a b => decide (a.1 ≤ b.1)) tab).map fun e => (x.c, e.1 * x.esz, e.2)
         oor := ((List.range n).filter fun i => decide (x.cap ≤ word32 ib i) && decide (word32 ib i ≠ nullIdx)).length
         ndc := if comb = 0 && order.isSome then many.length else 0 }

/-- SORT (R220). -/
def opSort (s : State) (w : Who) (x : ScreenP) (n : Nat) : Eng ScrOut := do
  let rb ← x.a.read s w 0 (8 * n)
  let nb := 8 * (x.opt / 4 % 4 + 1)
  let key (r : Bytes) : Int := let k := fld r 0 4 % 2 ^ nb; if bit x.opt 1 then sgn nb k else k
  let recs := (List.range n).map fun i => slice rb (8 * i) 8
  let out := (sortBy (fun a b => if bit x.opt 0 then decide (key b ≤ key a) else decide (key a ≤ key b)) recs).flatten
  pure { ws := if n = 0 then [] else [(x.c, 0, out), (x.d, 0, out)] }

/-- TOPK (R221, R209). -/
def opTopk (s : State) (w : Who) (x : ScreenP) (order : Option (List Nat)) (n : Nat) : Eng ScrOut := do
  let rb ← x.a.read s w 0 (8 * n)
  let key (i : Nat) : Int := let k := word32 rb (2 * i); if bit x.opt 1 then sgn 32 k else k
  let all := List.range n
  let ranked := sortBy (fun i j => if bit x.opt 0 then decide (key i ≤ key j) else decide (key j ≤ key i)) (arrive order all)
  let top := ranked.take x.cap
  let shared := top.filter fun i => all.any fun j => decide (j ≠ i) && decide (key j = key i)
  pure { ws := (if top.isEmpty then [] else [(x.c, 0, top.flatMap fun i => slice rb (8 * i) 8)]) ++
           [(x.d, 0, le 4 top.length)]
         ndc := if order.isSome then shared.length else 0 }

/-- COMPACT (R227, R209, R210). -/
def opCompact (s : State) (w : Who) (x : ScreenP) (order : Option (List Nat)) (n : Nat) : Eng ScrOut := do
  let mask ← x.b.read s w 0 n
  let kept := (List.range n).filter fun i => decide (byteAt mask i ≠ 0)
  let sel := sortBy (fun a b => decide (a ≤ b)) ((if kept.length ≤ x.cap then kept else arrive order kept).take x.cap)
  let drop := kept.length - x.cap
  let out ← if bit x.opt 2 then pure (words32 sel) else
    (x.a.read s w 0 (n * x.esz)).map fun b => sel.flatMap fun i => slice b (i * x.esz) x.esz
  pure { ws := (if out.isEmpty then [] else [(x.c, 0, out)]) ++ [(x.d, 0, le 4 sel.length)]
         drop := drop, ndc := if order.isSome then drop else 0 }

/-- SEGRED (R226). -/
def opSegred (s : State) (w : Who) (x : ScreenP) (n : Nat) : Eng ScrOut := do
  let f := x.opt / 4 + 1
  let ab ← x.a.read s w 0 (4 * n * f)
  let ib ← x.b.read s w 0 (4 * n)
  let members (g : Nat) : List Nat := (List.range n).filter fun i => word32 ib i = g
  let value (g k : Nat) : Int :=
    let vs := (members g).map fun i => sgn 32 (word32 ab (i * f + k))
    match x.opt % 4, vs with
    | _, [] => 0
    | 1, v :: r => r.foldl max v
    | 2, vs => rneDiv (vs.foldl (· + ·) 0) vs.length
    | _, vs => vs.foldl (· + ·) 0
  let raw := (List.range x.cap).flatMap fun g => (List.range f).map fun k => value g k
  pure { ws := [(x.c, 0, words32 (raw.map fun v => twos 32 (satS 32 v))),
                (x.d, 0, words32 ((List.range x.cap).map fun g => (members g).length))]
         oor := ((List.range n).filter fun i => decide (x.cap ≤ word32 ib i) && decide (word32 ib i ≠ nullIdx)).length
         sat := (raw.filter fun v => decide (satS 32 v ≠ v)).length }

/-- MATCH (R228, R209). -/
def opMatch (s : State) (w : Who) (x : ScreenP) (order : Option (List Nat)) (n : Nat) : Eng ScrOut := do
  let pb ← ledgeRead s w x.pb 32
  let gate := sgn 32 (fld pb 0 4)
  let rs := fld pb 4 4
  if rs % 4 ≠ 0 ∨ rs < 4 * x.cap ∨ (pb.drop 16).any (· ≠ 0) then w.bad
  else do
    let len := (n - 1) * rs + 4 * x.cap
    x.a.check s w len false
    let rows ← (List.range n).mapM fun r => x.a.read s w (r * rs) (4 * x.cap)
    let cost (k : Nat) : Int := sgn 32 (word32 (rows.getD (k / x.cap) []) (k % x.cap))
    let cands := (List.range (n * x.cap)).filter fun k => decide (cost k ≤ gate)
    let ranked := sortBy (fun i j => decide (cost i ≤ cost j)) (arrive order cands)
    let acc := ranked.foldl (fun (l : List Nat) k =>
      if l.any fun m => decide (m / x.cap = k / x.cap) || decide (m % x.cap = k % x.cap) then l else l ++ [k]) []
    let shared := acc.filter fun k => cands.any fun m => decide (m ≠ k) && decide (cost m = cost k)
    pure { ws := [(x.c, 0, words32 ((List.range n).map fun r => ((acc.find? fun k => k / x.cap = r).map (· % x.cap)).getD nullIdx)),
                  (x.d, 0, words32 ((List.range x.cap).map fun c => ((acc.find? fun k => k % x.cap = c).map (· / x.cap)).getD nullIdx)),
                  (⟨true, x.pb⟩, 8, words32 [acc.length, cands.length])]
           named := [(x.a, len)], ndc := if order.isSome then shared.length else 0 }

/-! ### VOXEL and NEIGHBOUR -/

/-- A VOXEL parameter block (R222). -/
structure VoxPb where
  /-- Grid origin. -/
  o : Int × Int × Int
  /-- Voxel edges. -/
  e : Nat × Nat × Nat
  /-- Grid size. -/
  g : Nat × Nat × Nat
  /-- TLOG. -/
  tlog : Nat
  /-- PROBE. -/
  probe : Nat
  /-- MAXPTS. -/
  maxPts : Nat
  /-- LIST. -/
  lst : Opd
  /-- NVOX, NOUT, NDROP. -/
  cnt : Nat × Nat × Nat
  deriving DecidableEq, Repr

/-- Reads and checks a VOXEL parameter block (R215, R222). -/
def readVoxPb (s : State) (w : Who) (off : Nat) : Eng VoxPb := do
  let b ← ledgeRead s w off 64
  let i (o : Nat) : Int := sgn 32 (fld b o 4)
  let u (o : Nat) : Nat := fld b o 2
  let p : VoxPb :=
    { o := (i 0, i 4, i 8), e := (u 12, u 14, u 16), g := (u 18, u 20, u 22), tlog := byteAt b 24, probe := byteAt b 25
      maxPts := byteAt b 26, lst := ⟨bit (byteAt b 27) 0, fld b 0x20 6⟩
      cnt := (fld b 0x28 4, fld b 0x2C 4, fld b 0x30 4) }
  let pos := [12, 14, 16, 18, 20, 22].all fun o => decide (1 ≤ u o)
  if pos ∧ u 18 * u 20 * u 22 ≤ 0xFFFFFFFF ∧ inR 8 p.tlog 20 ∧ inR 1 p.probe 64 ∧ inR 1 p.maxPts 64 ∧ byteAt b 27 < 2 ∧
      fld b 0x1C 4 = 0 ∧ (b.drop 0x34).all (· = 0) ∧ opdOk p.lst.led (fld b 0x20 8) 4 then pure p
  else w.bad

/-- Grid coordinates of a point (R224). -/
def VoxPb.cell (p : VoxPb) (pt : Bytes) : Int × Int × Int :=
  ((sgn 32 (fld pt 0 4) - p.o.1) / p.e.1, (sgn 32 (fld pt 4 4) - p.o.2.1) / p.e.2.1, (sgn 32 (fld pt 8 4) - p.o.2.2) / p.e.2.2)

/-- The cell lies in the grid. -/
def VoxPb.inside (p : VoxPb) (c : Int × Int × Int) : Bool :=
  decide (0 ≤ c.1) && decide (c.1 < p.g.1) && decide (0 ≤ c.2.1) && decide (c.2.1 < p.g.2.1) &&
  decide (0 ≤ c.2.2) && decide (c.2.2 < p.g.2.2)

/-- KEY of a cell (R223). -/
def VoxPb.key (p : VoxPb) (c : Int × Int × Int) : Nat := (c.2.2.toNat * p.g.2.1 + c.2.1.toNat) * p.g.1 + c.1.toNat

/-- The slot of probe step `k` (R224). -/
def VoxPb.slot (p : VoxPb) (key k : Nat) : Nat := (key * 0x4F1BC3A5 % 2 ^ 32 / 2 ^ (32 - p.tlog) + k) % 2 ^ p.tlog

/-- The outcome of a probe. -/
inductive Probe where
  | hit (v : Nat)
  | empty (slot : Nat)
  | full
  deriving DecidableEq, Repr

/-- R224's probe rule: `n` steps from step `k`. -/
def VoxPb.find (p : VoxPb) (get : Nat → Eng (Nat × Nat)) (key : Nat) : Nat → Nat → Eng Probe
  | 0, _ => .ok .full
  | n + 1, k => match get (p.slot key k) with
    | .error f => .error f
    | .ok e =>
      if e.1 = key then .ok (.hit e.2)
      else if e.1 = nullIdx then .ok (.empty (p.slot key k))
      else p.find get key n (k + 1)

/-- A voxel record (R223): KEY, cell, points listed before this descriptor, NSEEN. -/
structure VoxRec where
  /-- KEY, IX, IY, IZ. -/
  head : Nat × Nat × Nat × Nat
  /-- NPTS when the descriptor first met the voxel. -/
  base : Nat
  /-- Points that this descriptor lists, in the order kept. -/
  pts : List Nat
  /-- NSEEN. -/
  seen : Nat
  deriving DecidableEq, Repr

/-- What a VOXEL descriptor has done so far. -/
structure VoxRun where
  /-- Table slots read or written. -/
  tab : List (Nat × Nat × Nat) := []
  /-- Slots created. -/
  made : List Nat := []
  /-- Voxel records met. -/
  recs : List (Nat × VoxRec) := []
  /-- NVOX. -/
  nvox : Nat
  /-- NOUT. -/
  nout : Nat
  /-- Points dropped by this descriptor. -/
  drops : Nat := 0
  deriving DecidableEq, Repr

/-- A table entry: KEY and VIDX. -/
def voxGet (s : State) (w : Who) (x : ScreenP) (clear : Bool) (r : VoxRun) (slot : Nat) : Eng (Nat × Nat) :=
  match r.tab.find? fun e => e.1 = slot with
  | some e => .ok e.2
  | none => if clear then .ok (nullIdx, 0)
    else (x.b.read s w (8 * slot) 8).map fun b => (fld b 0 4, fld b 4 4)

/-- A point reaches voxel `v`: it is listed, or dropped at MAXPTS (R224). -/
def voxAdd (s : State) (w : Who) (x : ScreenP) (p : VoxPb) (v i : Nat) (r : VoxRun) : Eng VoxRun := do
  let q ← match r.recs.find? fun e => e.1 = v with
    | some e => pure e.2
    | none => (x.c.read s w (16 * v) 16).map fun b =>
        ({ head := (fld b 0 4, fld b 4 2, fld b 6 2, fld b 8 2), base := fld b 10 2, pts := [], seen := fld b 12 2 } : VoxRec)
  let q := { q with seen := min 65535 (q.seen + 1) }
  if q.base + q.pts.length = p.maxPts then pure { r with recs := tabPut r.recs v q, drops := r.drops + 1 }
  else pure { r with recs := tabPut r.recs v { q with pts := q.pts ++ [i] } }

/-- One point (R224). -/
def voxPoint (s : State) (w : Who) (x : ScreenP) (p : VoxPb) (clear : Bool) (pts : Bytes) (i : Nat) (r : VoxRun) :
    Eng VoxRun := do
  let c := p.cell (slice pts (16 * i) 16)
  if !p.inside c then pure { r with nout := r.nout + 1 }
  else
    let key := p.key c
    match ← p.find (voxGet s w x clear r) key p.probe 0 with
    | .hit v => if v = nullIdx then pure { r with drops := r.drops + 1 } else voxAdd s w x p v i r
    | .full => pure { r with drops := r.drops + 1 }
    | .empty slot =>
      if r.nvox < x.cap then
        let q : VoxRec := { head := (key, c.1.toNat, c.2.1.toNat, c.2.2.toNat), base := 0, pts := [], seen := 0 }
        voxAdd s w x p r.nvox i { r with
          tab := tabPut r.tab slot (key, r.nvox), made := r.made ++ [slot], recs := tabPut r.recs r.nvox q
          nvox := r.nvox + 1 }
      else pure { r with drops := r.drops + 1 }

/-- Final voxel numbers: new voxels in the order of their first kept points (R224). -/
def voxRename (r : VoxRun) (nvox0 : Nat) : List (Nat × Nat) :=
  let fresh := r.recs.filter fun e => decide (nvox0 ≤ e.1)
  let first (e : Nat × VoxRec) : Nat := e.2.pts.foldl min nullIdx
  ((sortBy (fun a b => decide (first a ≤ first b)) fresh).zipIdx).map fun e => (e.1.1, nvox0 + e.2)

/-- The table as a descriptor with CLEAR leaves it. -/
def voxTable (p : VoxPb) (ren : Nat → Nat) (tab : List (Nat × Nat × Nat)) : Bytes :=
  (List.range (2 ^ p.tlog)).flatMap fun k => match tab.find? fun e => e.1 = k with
    | some e => if e.2.1 = nullIdx then le 4 nullIdx ++ zeros 4 else le 4 e.2.1 ++ le 4 (ren e.2.2)
    | none => le 4 nullIdx ++ zeros 4

/-- What a relaxed run leaves: the points that the run in arrival order keeps stand as they do in input order, since only the
set of dropped points may depend on the arrival (R209, R224). `r1` is the run in arrival order and `r2` that of its kept points
in input order; a point for which the probe limit then has no place is dropped too. Records of earlier descriptors that `r1`
met and `r2` did not keep what `r1` counted. -/
def voxKept (nvox0 : Nat) (r1 r2 : VoxRun) : VoxRun :=
  let seen (e : Nat × VoxRec) : Nat := ((r1.recs.find? fun f => f.2.head.1 = e.2.head.1).map (·.2.seen)).getD e.2.seen
  { r2 with
    recs := r2.recs.map (fun e => (e.1, { e.2 with seen := seen e })) ++
      r1.recs.filter fun f => decide (f.1 < nvox0) && !r2.recs.any fun e => decide (e.2.head.1 = f.2.head.1)
    nout := r1.nout, drops := r1.drops + r2.drops }

/-- VOXEL (R222 to R224, R209, R210). Arrival order decides only which points are dropped. -/
def opVoxel (s : State) (w : Who) (x : ScreenP) (order : Option (List Nat)) (n : Nat) : Eng ScrOut := do
  let p ← readVoxPb s w x.pb
  let clear := bit x.opt 0
  if 2 ^ p.tlog < x.cap then w.bad
  else do
    x.b.check s w (8 * 2 ^ p.tlog) true
    p.lst.check s w (4 * x.cap * p.maxPts) true
    let pts ← x.a.read s w 0 (16 * n)
    let start : VoxRun := if clear then { nvox := 0, nout := 0 } else { nvox := p.cnt.1, nout := p.cnt.2.1 }
    let run (l : List Nat) : Eng VoxRun := l.foldlM (fun r i => voxPoint s w x p clear pts i r) start
    let r1 ← run (arrive order (List.range n))
    let r2 ← run ((List.range n).filter fun i => r1.recs.any fun e => e.2.pts.contains i)
    let r := voxKept start.nvox r1 r2
    let names := voxRename r start.nvox
    let ren (v : Nat) : Nat := tabGet v names v
    let recs := sortBy (fun a b => decide (a.1 ≤ b.1)) (r.recs.map fun e => (ren e.1, e.2))
    let dv := (List.range n).map fun i => ((recs.find? fun e => e.2.pts.contains i).map (·.1)).getD nullIdx
    let recBytes (e : VoxRec) : Bytes := le 4 e.head.1 ++ le 2 e.head.2.1 ++ le 2 e.head.2.2.1 ++ le 2 e.head.2.2.2 ++
      le 2 (e.base + e.pts.length) ++ le 2 e.seen ++ zeros 2
    let lists := recs.flatMap fun e =>
      let l := words32 (sortBy (fun a b => decide (a ≤ b)) e.2.pts)
      let pad := if start.nvox ≤ e.1 then words32 (List.replicate (p.maxPts - e.2.pts.length) nullIdx) else []
      if (l ++ pad).isEmpty then [] else [(p.lst, 4 * (e.1 * p.maxPts + e.2.base), l ++ pad)]
    let tab := if clear then [(x.b, 0, voxTable p ren r.tab)]
      else (sortBy (fun a b => decide (a ≤ b)) r.made).map fun k =>
        let e := tabGet (nullIdx, 0) r.tab k
        (x.b, 8 * k, le 4 e.1 ++ le 4 (ren e.2))
    let drop0 := if clear then 0 else p.cnt.2.2
    pure { ws := tab ++ (recs.map fun e => (x.c, 16 * e.1, recBytes e.2)) ++ lists ++
             (if n = 0 then [] else [(x.d, 0, words32 dv)]) ++
             [(⟨true, x.pb⟩, 0x28, words32 [r.nvox % 2 ^ 32, r.nout % 2 ^ 32, (drop0 + r.drops) % 2 ^ 32])]
           named := [(x.b, 8 * 2 ^ p.tlog), (p.lst, 4 * x.cap * p.maxPts)]
           drop := r.drops, ndc := if order.isSome then r.drops else 0 }

/-- The indices −1, 0, 1. -/
def around : List Int := [-1, 0, 1]

/-- The points listed in a voxel that the table holds (R224, R225). -/
def voxelPoints (s : State) (w : Who) (p : VoxPb) (tab : Nat) (vrec : Opd) (c : Int × Int × Int) : Eng (List Nat) := do
  if !p.inside c then pure []
  else
    let get (k : Nat) : Eng (Nat × Nat) := (ledgeRead s w (tab + 8 * k) 8).map fun b => (fld b 0 4, fld b 4 4)
    match ← p.find get (p.key c) p.probe 0 with
    | .hit v => do
      let b ← vrec.read s w (16 * v) 16
      let l ← p.lst.read s w (4 * v * p.maxPts) (4 * fld b 10 2)
      pure ((List.range (fld b 10 2)).map (word32 l))
    | _ => pure []

/-- Squared distance of two points (R225). -/
def dist2 (a b : Bytes) : Int :=
  let d (o : Nat) : Int := sgn 32 (fld a o 4) - sgn 32 (fld b o 4)
  d 0 * d 0 + d 4 * d 4 + d 8 * d 8

/-- NEIGHBOUR (R225, R209). -/
def opNeighbour (s : State) (w : Who) (x : ScreenP) (order : Option (List Nat)) (n : Nat) : Eng ScrOut := do
  let b ← ledgeRead s w x.pb 32
  let vpb := fld b 0 4
  let tab := fld b 4 4
  let vrec : Opd := ⟨bit (byteAt b 0x15) 0, fld b 8 6⟩
  let rad := fld b 0x10 4
  let k := byteAt b 0x14
  if vpb % 32 ≠ 0 ∨ ledgeSize ≤ vpb ∨ ledgeSize ≤ tab ∨ tab % 8 ≠ 0 ∨ opdOk vrec.led (fld b 8 8) 16 = false ∨ inR 1 k 32 = false ∨
      4 ≤ byteAt b 0x15 ∨ (b.drop 0x16).any (· ≠ 0) then w.bad
  else do
    let p ← readVoxPb s w vpb
    if inR 1 rad (min p.e.1 (min p.e.2.1 p.e.2.2)) = false then w.bad
    else do
      let tabOpd : Opd := ⟨true, tab⟩
      tabOpd.check s w (8 * 2 ^ p.tlog) false
      vrec.check s w (16 * p.cnt.1) false
      p.lst.check s w (4 * p.cnt.1 * p.maxPts) false
      x.c.check s w (4 * k * n) true
      let qs ← x.a.read s w 0 (16 * n)
      let res ← (List.range n).mapM fun i => do
        let q := slice qs (16 * i) 16
        let c := p.cell q
        let cells := around.flatMap fun dz => around.flatMap fun dy => around.map fun dx =>
          (c.1 + dx, c.2.1 + dy, c.2.2 + dz)
        let cand ← cells.mapM (voxelPoints s w p tab vrec)
        let found ← cand.flatten.filterM fun j =>
          if bit (byteAt b 0x15) 1 && decide (j = i) then pure false
          else (x.b.read s w (16 * j) 16).map fun pt => decide (dist2 pt q ≤ (rad * rad : Nat))
        let asc := sortBy (fun a c => decide (a ≤ c)) found
        let kept := sortBy (fun a c => decide (a ≤ c)) ((arrive order asc).take k)
        pure (kept, found.length, cand.flatten.foldl (fun m j => max m (j + 1)) 0)
      pure { ws := (if n = 0 then [] else
               [(x.c, 0, words32 (res.flatMap fun r => r.1 ++ List.replicate (k - r.1.length) nullIdx)),
                (x.d, 0, words32 (res.map fun r => r.1.length + 256 * min 255 r.2.1))])
             named := [(x.c, 4 * k * n), (tabOpd, 8 * 2 ^ p.tlog), (vrec, 16 * p.cnt.1), (p.lst, 4 * p.cnt.1 * p.maxPts),
               (x.b, 16 * res.foldl (fun m r => max m r.2.2) 0)]
             ndc := if order.isSome then sumN (res.map fun r => r.2.1 - r.1.length) else 0 }

/-- EDGE (R229). -/
def opEdge (s : State) (w : Who) (x : ScreenP) (n : Nat) : Eng ScrOut := do
  let b ← ledgeRead s w x.pb 32
  let f := fld b 0 2
  let msg := byteAt b 2
  let zp := byteAt b 3
  let ns := fld b 4 4
  if inR 1 f 512 = false ∨ 3 ≤ msg ∨ ns % 32 ≠ 0 ∨ ns < f ∨ (b.drop 12).any (· ≠ 0) then w.bad
  else do
    let k := if msg = 2 then 2 * f else f
    let kp := 128 * ((k + 127) / 128)
    let blocks := (n + 127) / 128
    x.a.check s w ((x.cap - 1) * ns + f) false
    x.c.check s w (blocks * kp * 128) true
    let eb ← x.b.read s w 0 (8 * n)
    let side (u : Nat) : Eng Bytes :=
      if u < x.cap then x.a.read s w (u * ns) f else .ok (List.replicate f (BitVec.ofNat 8 zp))
    let msgs ← (List.range n).mapM fun e => do
      let src ← if msg = 1 then pure [] else side (word32 eb (2 * e))
      let dst ← if msg = 0 then pure [] else side (word32 eb (2 * e + 1))
      pure (src ++ dst)
    let rows := (List.range blocks).flatMap fun bl => (List.range kp).map fun r =>
      (x.c, (bl * kp + r) * 128, (List.range 128).map fun j => ((msgs.getD (128 * bl + j) [])[r]?).getD (BitVec.ofNat 8 zp))
    let out := ((List.range n).filter fun e =>
      (decide (msg ≠ 1) && decide (x.cap ≤ word32 eb (2 * e))) || (decide (msg ≠ 0) && decide (x.cap ≤ word32 eb (2 * e + 1)))).length
    pure { ws := rows ++ [(⟨true, x.pb⟩, 8, le 4 (out % 2 ^ 32))]
           named := [(x.a, (x.cap - 1) * ns + f), (x.c, blocks * kp * 128)], oor := out }

/-- The operation of an opcode. -/
def screenOp (s : State) (w : Who) (op : Nat) (x : ScreenP) (order : Option (List Nat)) (n : Nat) : Eng ScrOut :=
  match op with
  | 0x40 => opGather s w x n
  | 0x41 => opScatter s w x order n
  | 0x42 => opSort s w x n
  | 0x43 => opTopk s w x order n
  | 0x44 => opVoxel s w x order n
  | 0x45 => opNeighbour s w x order n
  | 0x46 => opSegred s w x n
  | 0x47 => opCompact s w x order n
  | 0x48 => opMatch s w x order n
  | _ => opEdge s w x n

/-! ### Overlapping operands (R68, R215) -/

/-- Places that lie in two of the ranges. -/
def inTwo (spans : List (Nat × Nat)) (a : Nat) : Bool :=
  decide (1 < (spans.filter fun r => decide (r.1 ≤ a) && decide (a < r.1 + r.2)).length)

/-- Bytes of a write with a free value at every place of an overlap; the counter of free values advances. -/
def freeBytes (spans : List (Nat × Nat)) : Nat → Nat → Bytes → Bytes
  | _, _, [] => []
  | k, a, b :: r => (if inTwo spans a then Config.overlapByte k else b) :: freeBytes spans (k + 1) (a + 1) r

/-- Writes with free values inside overlaps, and the next free number. -/
def freeWrites (spans : List (Nat × Nat)) : Nat → List (Nat × Bytes) → List (Nat × Bytes) × Nat
  | k, [] => ([], k)
  | k, (a, b) :: r =>
    let q := freeWrites spans (k + b.length) r
    ((a, freeBytes spans k a b) :: q.1, q.2)

/-- The operand ranges of a descriptor at absolute addresses; SORT with C equal to A counts them once (R215). -/
def screenRanges (op : Nat) (x : ScreenP) (named : List (Opd × Nat)) (i : CoreId) : List (Nat × Nat) :=
  let abs (o : Opd) : Nat := if o.led then ledgeBase i + o.base else o.base
  let l := (screenSpans op x).map (fun e => (abs e.1, e.2.1)) ++ named.map fun e => (abs e.1, e.2)
  let l := if op = 0x42 ∧ x.c = x.a then l.drop 1 else l
  l.filter fun e => decide (0 < e.2)

/-! ### The descriptor -/

/-- The run decides by arrival order: relaxed context, neither GOLDEN nor paired (R209). -/
def relaxedRun (s : State) (j : Job) (i : CoreId) : Bool := s.relaxed j.who.ctx && !j.h.golden && (s.trailOf i).isNone

/-- The registers and frame counts after a run (R209, R210, R233). -/
def applyScreen (s : State) (j : Job) (i : CoreId) (f : Facts) (n drop : Nat) (o : ScrOut) : State :=
  let s := s.onEngine i fun y => { y with scr := { y.scr with
    elemCnt := y.scr.elemCnt + BitVec.ofNat 32 n, drop := sat32 y.scr.drop drop, oor := sat32 y.scr.oor o.oor
    sat := sat32 y.scr.sat o.sat, ndc := sat32 y.scr.ndc o.ndc, stallBank := sat32 y.scr.stallBank f.stallFeed } }
  let s := if j.h.golden then s else addTruncated s j.who.ctx drop
  if o.ndc = 0 then s
  else (s.onFrame j.who.ctx fun x => { x with ndc := sat32 x.ndc o.ndc }).onCtx j.who.ctx fun x => { x with
    ndcTotal := sat32 x.ndcTotal o.ndc }

/-- The element count: with DYN it is read once; the excess is dropped (R210, R214). -/
def screenCount (s : State) (w : Who) (x : ScreenP) : Eng (Nat × Nat) :=
  if x.dyn then (ledgeRead s w x.cnt 4).map fun b => (min (fld b 0 4) x.n, fld b 0 4 - x.n)
  else .ok (x.n, 0)

/-- A Screen descriptor (R213 to R216). DESIGN CHOICE (log 54): a run that a fault ends before its results are complete counts no
element in `SCR_ELEM_CNT`. -/
def screenBody (f : Facts) (s : State) (j : Job) : Out :=
  match j.who.core with
  | none => { after := s }
  | some i =>
    let w := j.who
    let x := screenOf j.p
    match screenCount s w x with
    | .error g => { after := s, flt := some g }
    | .ok (n, more) =>
      let order := if relaxedRun s j i then some f.order else none
      match screenOp s w j.h.opcode x order n with
      | .error g => { after := applyScreen s j i f 0 more {}, flt := some g }
      | .ok o =>
        let after := applyScreen s j i f n (more + o.drop) o
        let l := o.ws.map fun e => (e.1.addr + e.2.1, e.2.2, e.1.led && decide (ledgeSize < e.1.base + e.2.1 + e.2.2.length))
        if l.any (·.2.2) then { after := after, flt := some (w.flt cCtxRange) }
        else match s.checkWrites w (l.map fun e => (e.1, e.2.1)) with
          | .error g => { after := after, flt := some g }
          | .ok ws =>
            let q := freeWrites (screenRanges j.h.opcode x o.named i) s.free ws
            { writes := q.1, after := { after with free := q.2 }, cut := some after }

/-- The run of a Screen command. -/
def runScreen (s : State) (core : CoreId) (op : Nat) (f : Facts) : State :=
  runJob s (.core core .xq) (· = op) f (some (0x04, cScreenResidue)) (screenBody f)

/-- GATHER (R218). -/
def execGather (core : CoreId) (f : Facts) (s : State) : Res := finish s (runScreen s core 0x40 f)
/-- SCATTER (R219). -/
def execScatter (core : CoreId) (f : Facts) (s : State) : Res := finish s (runScreen s core 0x41 f)
/-- SORT (R220). -/
def execSort (core : CoreId) (f : Facts) (s : State) : Res := finish s (runScreen s core 0x42 f)
/-- TOPK (R221). -/
def execTopk (core : CoreId) (f : Facts) (s : State) : Res := finish s (runScreen s core 0x43 f)
/-- VOXEL (R224). -/
def execVoxel (core : CoreId) (f : Facts) (s : State) : Res := finish s (runScreen s core 0x44 f)
/-- NEIGHBOUR (R225). -/
def execNeighbour (core : CoreId) (f : Facts) (s : State) : Res := finish s (runScreen s core 0x45 f)
/-- SEGRED (R226). -/
def execSegred (core : CoreId) (f : Facts) (s : State) : Res := finish s (runScreen s core 0x46 f)
/-- COMPACT (R227). -/
def execCompact (core : CoreId) (f : Facts) (s : State) : Res := finish s (runScreen s core 0x47 f)
/-- MATCH (R228). -/
def execMatchOp (core : CoreId) (f : Facts) (s : State) : Res := finish s (runScreen s core 0x48 f)
/-- EDGE (R229). -/
def execEdge (core : CoreId) (f : Facts) (s : State) : Res := finish s (runScreen s core 0x49 f)

end Sys2Proof.Machine
end

