-- ==== Sys2Proof/Machine/Mover.lean ====
section
/-!
DEFINITION. Machine/Mover.lean: the move engine and the descriptors that every queue runs: NOP, FENCE (R53, R62),
MOVE (R67, R68, R166 to R169, R257), DIGEST (R73, R74), CHECKPOINT (R75, R76, R391), SEAL (R77), PAIR and SPLIT (R70).
-/

namespace Sys2Proof.Machine

/-! ### MOVE -/

/-- A piece of a MOVE: what it reads on this device, and what it writes here and at a ring peer. -/
structure MovePiece where
  /-- Ranges read, absolute. -/
  reads : List (Nat × Nat) := []
  /-- Writes on this device, absolute. -/
  writes : List (Nat × Bytes) := []
  /-- Writes at a ring peer. -/
  remote : List (BitVec 2 × Nat × Bytes) := []
  /-- Reads at a ring peer: address and length. -/
  asks : List (BitVec 2 × Nat × Nat) := []
  /-- Requests that fail. -/
  flts : List Flt := []
  deriving DecidableEq, Repr

/-- What the reads of a piece give: ranges on this device, reads at a ring peer, bytes. -/
structure MoveSrc where
  /-- Absolute ranges. -/
  reads : List (Nat × Nat) := []
  /-- Address and length at a peer. -/
  asks : List (BitVec 2 × Nat × Nat) := []
  /-- The data. -/
  data : Bytes := []

/-- FMT of a MOVE (R67). -/
def moveFmt (p : Bytes) : Nat := bits (fld p 16 8) 49 48

/-- A row of `len` bytes from source `a` to destination `d` as requests: at most 256 bytes, none across a 256-byte boundary of
either side (R257): offset in the row and length. -/
def rowRequests (a d : Nat) : Nat → Nat → Nat → List (Nat × Nat)
  | 0, _, _ => []
  | k + 1, o, len =>
    let n := min (len - o) (min (256 - (a + o) % 256) (256 - (d + o) % 256))
    if len ≤ o then [] else (o, n) :: rowRequests a d k (o + n) len

/-- An address moved by a signed offset, modulo 2^48. -/
def moved (a : Nat) (o : Int) : Nat := twos 48 ((a : Int) + o)

/-- The pieces of a MOVE in order: source offset, destination offset and length: the requests of each row, and with FMT 1 or 2
the segments of 256 bytes of each row (R67, R166, R257). -/
def moveSpans (p : Bytes) : List (Int × Int × Nat) :=
  let len := fld p 24 4
  let str (o : Nat) : Int := sgn 32 (fld p o 4)
  (List.range (fld p 30 2)).flatMap fun (i2 : Nat) => (List.range (fld p 28 2)).flatMap fun (i1 : Nat) =>
    let so := (i1 : Int) * str 32 + (i2 : Int) * str 36
    let eo := (i1 : Int) * str 40 + (i2 : Int) * str 44
    if moveFmt p = 0 then
      (rowRequests (moved (addrField p 0).addr so) (moved (addrField p 8).addr eo) len 0 len).map fun (e : Nat × Nat) =>
        (so + (e.1 : Int), eo + (e.1 : Int), e.2)
    else (List.range (len / 256)).map fun (j : Nat) => (so + 256 * (j : Int), eo + 256 * (j : Int), 256)

/-- Reads bytes on this device: absolute range and bytes. -/
def moveRead (s : State) (w : Who) (a n : Nat) : Eng ((Nat × Nat) × Bytes) := do
  let x ← s.access w a n false
  let b ← s.load w a n
  pure ((x, n), b)

/-- The requests that the bytes from `a` to `a + n` take: offset and length, none across a 256-byte boundary (R257). -/
def cut256 (a n : Nat) : List (Nat × Nat) := rowRequests a a n 0 n

/-- Reads bytes at an address field: at a ring peer the read requests leave, and the data are free values from number `k` on
(R257, R415, log 14). -/
def fieldRead (s : State) (w : Who) (a : AddrField) (o : Int) (n k : Nat) : Eng MoveSrc :=
  if s.isLocal a then (moveRead s w (moved a.addr o) n).map fun r => { reads := [r.1], data := r.2 }
  else
    let x := moved a.addr o
    .ok { asks := (cut256 x n).map fun e => (BitVec.ofNat 2 a.ring, x + e.1, e.2)
          data := (List.range n).map fun i => Config.peerByte (k + i) }

/-- SPOIL_FORMAT at an address (R169, R358). -/
def spoilFlt (s : State) (w : Who) (a : Nat) : Flt :=
  { src := w.src, code := cSpoilFormat, detail := (ueFlt s.part a).detail }

/-- The source data of a piece: plain, or a spoil segment decoded; a bad segment is named by its index entry, a bad
unit by the place of the segment (R166, R169, R358). -/
def moveSource (s : State) (w : Who) (p : Bytes) (so : Int) (n k : Nat) : Eng MoveSrc :=
  let a := addrField p 0
  if moveFmt p ≠ 2 then fieldRead s w a so n k
  else do
    let g := so / 256
    let ia := moved (fld p 16 6) (2 * g)
    let e ← moveRead s w ia 2
    let len := fld e.2 0 2
    if !spoilIndexOk len then .error (spoilFlt s w ia)
    else
      let body ← if len = 0 then pure {} else fieldRead s w a (320 * g) len k
      match spoilDecode len body.data with
      | none => .error (spoilFlt s w (moved a.addr (320 * g)))
      | some b => pure { body with reads := e.1 :: body.reads, data := b }

/-- Where the data of a piece goes: plain, or as spoil segment with its index entry (R166, R167). -/
def moveDest (p : Bytes) (eo : Int) (b : Bytes) : List (Bool × Int × Bytes) :=
  if moveFmt p ≠ 1 then [(false, eo, b)]
  else
    let g := eo / 256
    let e := spoilEncode b
    (if e.1 = 0 then [] else [(false, 320 * g, spoilSlot e.2)]) ++ [(true, 2 * g, le 2 e.1)]

/-- A write cut into its requests. -/
def cutWrite (a : Nat) (b : Bytes) : List (Nat × Bytes) := (cut256 a b.length).map fun e => (a + e.1, slice b e.1 e.2)

/-- One piece with all its checks; `k` is its first free number. -/
def movePiece (s : State) (w : Who) (p : Bytes) (k : Nat) (so eo : Int) (n : Nat) : MovePiece :=
  let d := addrField p 8
  match moveSource s w p so n k with
  | .error f => { flts := [f] }
  | .ok src =>
    let outs := moveDest p eo src.data
    let here := outs.flatMap fun o =>
      if o.1 then cutWrite (moved (fld p 16 6) o.2.1) o.2.2
      else if s.isLocal d then cutWrite (moved d.addr o.2.1) o.2.2 else []
    let away := outs.flatMap fun o =>
      if o.1 || s.isLocal d then [] else (cutWrite (moved d.addr o.2.1) o.2.2).map fun e => (BitVec.ofNat 2 d.ring, e.1, e.2)
    let checked := here.map fun e => (s.storeAt w e.1 e.2.length).map fun x => (x, e.2)
    { reads := src.reads, asks := src.asks, remote := away, writes := checked.filterMap Except.toOption
      flts := checked.filterMap fun r => match r with
        | .error f => some f
        | .ok _ => none }

/-- A request fails otherwise than at an isolated boundary, which ends no MOVE early (R258). -/
def MovePiece.ends (m : MovePiece) : Bool := m.flts.any fun f => decide (f.code ≠ cIsolated)

/-- The pieces that are issued, from free number `k` on: all of them, or of those beside one that ends the MOVE the ones that
had been (R169, R258, R361). -/
def movePick (k : Nat) (l : List MovePiece) : List MovePiece :=
  let failed := l.any MovePiece.ends
  (l.zipIdx).filterMap fun e => if !failed || Config.moveReached (k + e.2) then some e.1 else none

/-- A read request or a write to a ring peer leaves; a write awaits its acknowledgement (R415). -/
def sendRemote (j : Job) (s : State) (m : MovePiece) : State :=
  let c := j.who.ctx
  let s := m.asks.foldl (fun s r => ringSend s r.1 (.read r.1 c j.who.gen (BitVec.ofNat 48 r.2.1) r.2.2)) s
  m.remote.foldl (fun s r => (ringSend s r.1 (.write r.1 c j.who.gen (BitVec.ofNat 48 r.2.1) r.2.2)).onRng fun g =>
    { g with unacked := g.unacked ++ [⟨r.1, j.q, c, false⟩] }) s

/-- MOVE (R67). Bytes in which source and destination overlap, or two pieces of the destination, are free values (R68, R257);
every request that is discarded at an isolated boundary is an event of its own (R30, R258). -/
def moveBody (s : State) (j : Job) : Out :=
  let w := j.who
  let spans := moveSpans j.p
  let len := fld j.p 24 4
  let l := (spans.zipIdx).map fun e => movePiece s w j.p (s.free + e.2 * len) e.1.1 e.1.2.1 e.1.2.2
  let k := s.free + spans.length * len
  let ms := movePick k l
  let ws := ms.flatMap (·.writes)
  let ranges := ws.map (fun x => (x.1, x.2.length)) ++ ms.flatMap (·.reads)
  let q := freeWrites ranges (k + spans.length) ws
  let st := ms.foldl (sendRemote j) { s with free := q.2 }
  let iso := (ms.flatMap (·.flts)).filter fun f => decide (f.code = cIsolated)
  match (l.flatMap (·.flts)).find? fun f => decide (f.code ≠ cIsolated) with
  | some f => { writes := q.1, after := st, cut := some s, flt := some f, more := iso }
  | none => { writes := q.1, after := st, cut := some s, flt := iso.head?, more := iso.tail }

/-! ### DIGEST -/

/-- The bytes hashed in a slot so far, or why the slot may not be used (R74). -/
def slotBytes (s : State) (w : Who) (q : QueueId) (slot : Fin 16) (start : Bool) : Eng Bytes :=
  let x := (s.ctx w.ctx).slots.get slot
  match x.owner with
  | none => if start then .ok [] else .error (w.flt cDigestOrder)
  | some o => if o ≠ q then .error (w.flt cDigestOrder) else .ok (if start then [] else x.fed)

/-- Sets a digest slot. -/
def setSlot (s : State) (c : CtxId) (slot : Fin 16) (v : DigestSlot) : State :=
  s.onCtx c fun x => { x with slots := x.slots.set slot.1 v }

/-- A byte of a range lies in the Ledge of another core than the executing one. -/
def State.otherLedge (s : State) (w : Who) (a n : Nat) : Bool :=
  match s.resolve w a with
  | .ok x => (spanTargets x n).any fun t => match t with
    | .ledge i => decide (w.core ≠ some i)
    | _ => false
  | .error _ => false

/-- An address field of an engine other than a MOVE, for `n` bytes: on this device, and in no other core's Ledge (R67, R415,
log 21). -/
def ownAddr (s : State) (w : Who) (a : AddrField) (n : Nat) : Eng Nat :=
  if s.isLocal a && !s.otherLedge w a.addr n then .ok a.addr else .error (w.flt cCtxRange)

/-- DIGEST with its slot, mode and role (R73, R74). -/
def digestRun (s : State) (j : Job) : Eng Out := do
  let w := j.who
  let slot : Fin 16 := ⟨byteAt j.p 12 % 16, Nat.mod_lt _ (by decide)⟩
  let mode := byteAt j.p 13 % 4
  let fed ← slotBytes s w j.q slot (decide (mode = 0) || decide (mode = 3))
  let a ← ownAddr s w (addrField j.p 0) (fld j.p 8 4)
  let b ← s.load w a (fld j.p 8 4)
  let h := fed ++ b
  if mode < 2 then
    pure { after := setSlot s w.ctx slot { owner := some j.q, fed := h, value := ((s.ctx w.ctx).slots.get slot).value } }
  else
    let dg := sha256 h
    let dst ← ownAddr s w (addrField j.p 16) 32
    let ws ← s.checkWrites w (if fld j.p 16 8 = 0 then [] else [(dst, dg)])
    let st := setSlot s w.ctx slot { owner := none, fed := [], value := dg }
    let st := if byteAt j.p 24 = 1 then st.onFrame w.ctx fun f => { f with outDigest := some dg } else st
    pure { writes := ws, after := st, cut := some s }

/-! ### CHECKPOINT -/

/-- The regions that a save holds: persistent ones and the scale table (R75, R142). -/
def State.savedRegions (s : State) (c : CtxId) : List Region :=
  (s.regions c).filter fun r => r.persistent || decide (r.kind = 4)

/-- No region of a save lies in the Ledge of another core (R67, log 21). -/
def State.savesOwn (s : State) (w : Who) : Eng Unit :=
  if (s.savedRegions w.ctx).any fun r => s.otherLedge w r.base r.size then .error (w.flt cCtxRange) else .ok ()

/-- The payload of a CHECKPOINT record (R391). -/
def ckptPayload (s : State) (c : CtxId) (l : List (Region × Bytes)) (dg : Bytes) : Bytes :=
  le 1 c.1 ++ le 2 (s.ctx c).gen.toNat ++ le 4 (s.ctx c).frameNum.toNat ++ le 1 l.length ++ zeros 24 ++ slice dg 0 32
    ++ l.flatMap fun e => le 1 e.1.idx ++ zeros 3 ++ le 4 e.2.length ++ zeros 8 ++ padMul 32 e.2

/-- The regions of a CHECKPOINT record: region index and bytes. -/
def ckptRegions : Nat → Bytes → List (Nat × Bytes)
  | 0, _ => []
  | n + 1, b =>
    let len := fld b 4 4
    (byteAt b 0, slice b 16 len) :: ckptRegions n (b.drop (16 + (len + 31) / 32 * 32))

/-- The record of a save, or its count when the recorder writes none (R391, R394). -/
def ckptRecord (s : State) (w : Who) (l : List (Region × Bytes)) (dg : Bytes) : State :=
  if s.recActive then recWrite s .ckpt w.src 6 0 s.now64 0 (ckptPayload s w.ctx l dg)
  else s.onRec fun r => { r with norec := sat32 r.norec }

/-- A save: digest slot, digest, record (R75, R76, R384). -/
def ckptSave (s : State) (j : Job) : Eng Out := do
  let w := j.who
  let slot : Fin 16 := ⟨byteAt j.p 2 % 16, Nat.mod_lt _ (by decide)⟩
  let _ ← slotBytes s w j.q slot true
  let _ ← s.savesOwn w
  let l ← (s.savedRegions w.ctx).mapM fun r => (s.load w r.base r.size).map fun b => (r, b)
  let dg := sha256 (l.flatMap (·.2))
  let st := setSlot s w.ctx slot { owner := none, fed := [], value := dg }
  let st := setFlag (st.onCtx w.ctx fun x => { x with ckptDigest := dg }) w.ctx fCheckpoint
  pure { after := ckptRecord st w l dg, cut := some s }

/-- A restore in REPLAY: the regions of the chosen save, and its digest (R76, R142, R397). DESIGN CHOICE (log 49): where the
replay chose no save for the context, the spec is silent and nothing changes. -/
def ckptRestore (s : State) (c : CtxId) : State :=
  match s.rep.saves.find? fun e => e.1 = c with
  | none => s
  | some (_, x) =>
    let n := byteAt x.payload 7
    let s := (ckptRegions n (x.payload.drop 64)).foldl (fun s e =>
      match (s.regions c).find? fun r => r.idx = e.1 with
      | some r => s.poke (s.cg c) r.base (e.2.take r.size)
      | none => s) s
    s.onCtx c fun y => { y with ckptDigest := slice x.payload 32 32 }

/-- CHECKPOINT (R75, R76). -/
def ckptBody (s : State) (j : Job) : Out :=
  if byteAt j.p 0 = 1 then
    if s.dev = .replay then engOut s ((s.savesOwn j.who).map fun _ => { after := ckptRestore s j.who.ctx })
    else { after := s, flt := some (j.who.flt cDescOpcode) }
  else if (s.ctx j.who.ctx).frameNum.toNat % 2 ^ byteAt j.p 1 ≠ 0 then { after := s }
  else engOut s (ckptSave s j)

/-! ### SEAL -/

/-- The output digest that a SEAL includes: the digest held in its OUT_SLOT (R77), that of a DIGEST with ROLE 1 where the
slot has never been finalised (R384), and free bytes where there is none either: the spec states no value (log 49). -/
def State.outputDigest (s : State) (c : CtxId) (slot : Nat) : Bytes :=
  let v := ((s.ctx c).slots.get ⟨slot % 16, Nat.mod_lt _ (by decide)⟩).value
  if v.isEmpty then (s.ctx c).frame.outDigest.getD ((List.range 32).map fun i => Config.slotByte (s.free + i)) else v

/-- SEAL (R77): the header is one write; release and the Tally follow it. -/
def sealRun (s : State) (j : Job) : Eng Out := do
  let w := j.who
  let c := w.ctx
  if (s.ctx c).frame.hasSealed then .error (w.flt cDescSeq)
  else
    let plen := fld j.p 8 4
    let a ← ownAddr s w (addrField j.p 0) (128 + plen)
    let x ← s.access w a (128 + plen) false
    let inc := s.sealIncomplete c
    let use := bit (byteAt j.p 14) 4
    let hdr := resultHeader s c (fld j.p 12 2) plen inc use (s.outputDigest c (byteAt j.p 14))
    let ws ← s.checkWrites w [(a, hdr)]
    let st := recordIncomplete (s.onFrame c fun f => { f with incomplete := inc }) c inc
    let st : State := { st with free := st.free + 32 }
    pure { writes := ws, after := afterSeal (s := st.commit (c, w.gen) ws) c x, cut := some s }

/-! ### PAIR and SPLIT (R69, R70) -/

/-- The queue's head completes its work. -/
def headDone (s : State) (q : QueueId) : State := s.onHead q fun e => { e with executed := true }

/-- PAIR completes without pairing: a record of code PAIR_FENCED and UNPAIRED. -/
def unpaired (s : State) (p : PartId) (q : QueueId) (c : CtxId) : State :=
  headDone (setFlag (event s (srcPart 0x08 p) cPairFenced (some (s.cg c)) 0) c fUnpaired) q

/-- The leading and trailing core of a descriptor: C(3p + origin slot) and C(3p + TRAIL). -/
def pairCores (j : Job) : Fin 3 × Fin 3 :=
  (⟨j.e.origin.1 % 3, Nat.mod_lt _ (by decide)⟩, ⟨byteAt j.p 0 % 3, Nat.mod_lt _ (by decide)⟩)

/-- PAIR (`isPair`) or SPLIT up to the hand-over that it awaits. -/
def pairRun (isPair : Bool) (s : State) (j : Job) : State :=
  let part := j.who.part
  let k := pairCores j
  let held := (s.prt part).hub.pair
  let fenced := s.isFenced (coreOf part k.1) || s.isFenced (coreOf part k.2)
  let wait := s.onPart part fun x => { x with hub := { x.hub with want := some (k.1, k.2, isPair, j.who.ctx) } }
  let pos := raiseFlt s (j.who.flt cPairPos) (some (j.who.ctx, j.who.gen))
  if j.h.qseq ≠ 0 then pos
  else if fenced then (if isPair then unpaired s part j.q j.who.ctx else headDone s j.q)
  else if isPair then
    if held = some k then headDone s j.q
    else if held.isSome then pos
    else wait
  else if held = some k ∨ held = some (k.2, k.1) then wait
  else pos

/-- Runs PAIR or SPLIT at the head of a core's MQ. -/
def runPair (s : State) (core : CoreId) (isPair : Bool) : State :=
  match s.job (.core core .mq) (· = if isPair then 0x18 else 0x19) with
  | none => headCheck s (.core core .mq)
  | some j => pairRun isPair (startStage s j.who.ctx j.h.stage) j

/-! ### Commands -/

/-- On AQ, a descriptor of another kind ends the chains that the output stage keeps from one to the next (R159, R162). -/
def plainBody (s : State) (j : Job) : Out :=
  { after := match j.q with
      | .core i .aq => forgetAq s i
      | _ => s }

/-- NOP (R53). -/
def execNop (q : QueueId) (s : State) : Res := finish s (runJob s q (· = 0x00) {} none plainBody)

/-- A FENCE at the head of a queue may complete: with scope 1 every write of the queue to a ring peer is acknowledged; on
this device every earlier write of the queue is visible already (R62, R66, R415, log 1). -/
def State.fenceReady (s : State) (q : QueueId) : Bool :=
  match (s.queue q).entries with
  | [] => true
  | e :: _ => decide (byteAt e.bytes 16 = 0) || !s.rng.unacked.any fun u => decide (u.queue = q) && !u.signal

/-- FENCE (R62, R66). -/
def execFence (q : QueueId) (s : State) : Res :=
  finish s (if s.fenceReady q then runJob s q (· = 0x01) {} none plainBody else s)

/-- MOVE (R67, R68). -/
def execMove (core : CoreId) (f : Facts) (s : State) : Res :=
  finish s (runJob s (.core core .mq) (· = 0x10) f none moveBody)

/-- DIGEST (R73, R74). -/
def execDigest (core : CoreId) (f : Facts) (s : State) : Res :=
  finish s (runJob s (.core core .mq) (· = 0x11) f none fun s j => engOut s (digestRun s j))

/-- CHECKPOINT (R75, R76). -/
def execCheckpoint (core : CoreId) (f : Facts) (s : State) : Res :=
  finish s (runJob s (.core core .mq) (· = 0x12) f none ckptBody)

/-- SEAL (R77, R82). -/
def execSealOp (core : CoreId) (f : Facts) (s : State) : Res :=
  finish s (runJob s (.core core .mq) (· = 0x13) f none fun s j => engOut s (sealRun s j))

/-- PAIR (R70). -/
def execPair (core : CoreId) (s : State) : Res := finish s (runPair s core true)

/-- SPLIT (R70). -/
def execSplitOp (core : CoreId) (s : State) : Res := finish s (runPair s core false)

end Sys2Proof.Machine
end

