-- ==== Sys2Proof/Machine/Reckoner.lean ====
section
/-!
DEFINITION. Machine/Reckoner.lean: the ARRAY descriptor (R83 to R117) and SCALE_ADAPT (R71, R143 to R145).
-/

namespace Sys2Proof.Machine

/-! ### Acceptance (R100, R111, R114, R118, R124, R125) -/

/-- A direct shape (R100). -/
def isDirect (sh : Nat) : Bool := [2, 3, 5, 6, 11].contains sh

/-- A gated shape (R101). -/
def isGated (sh : Nat) : Bool := [0, 1, 7, 8, 9, 10].contains sh

/-- Bits of ZP_X and ZP_W (R111, R118). -/
def zpBits (sh : Nat) : Nat × Nat :=
  if sh = shFull4 then (4, 4) else if sh = shW16A8 then (8, 16) else if sh = shW16A16 then (16, 16) else (8, 8)

/-- Passes of a shape (R104). -/
def passesOf (sh : Nat) : Nat := if sh = shW16A8 then 2 else if sh = shW16A16 then 4 else if sh = shCplx8 then 3 else 1

/-- The payload of an ARRAY descriptor is allowed (R111, R114). -/
def arrayOk (p : Bytes) : Bool :=
  let sh := byteAt p 0
  let ctrl := byteAt p 1
  let g := byteAt p 2
  let m := fld p 4 2
  let kt := fld p 6 2
  let kl := byteAt p 8
  let nv := byteAt p 9
  let acc := fld p 10 2
  let offs := [16, 20, 24, 28, 32]
  let packed := (packOf sh).isSome
  decide (sh ≤ 11) && decide (ctrl < 4) && decide (g ≤ 2) && decide (byteAt p 3 < 16) && inR 1 m 1024 &&
  offs.all (fun o => decide (fld p o 4 < ledgeSize)) && decide (fld p 24 4 % 16 = 0) && (p.drop 37).all (· = 0) &&
  (if sh = shDw3 then inR 1 kt 1024 && decide (g = 0)
    else if isDirect sh ∨ sh = 1 then decide (kt = 1) else inR 1 kt 4096) &&
  (decide (sh ≠ shElem) || decide (g = 2)) &&
  (match packOf sh with
    | some lim => decide (byteAt p 36 = lim.1) && decide (g = 0) && decide (kl = 0) &&
        decide (nv = 0) && decide (acc = 0) && [12, 14].all (fun o => decide (fld p o 2 = 0)) &&
        [16, 20, 24].all fun o => decide (fld p o 4 = 0)
    | none => decide (byteAt p 36 = 1) && decide (fld p 32 4 = 0) && inR 1 nv 128 &&
        decide (fld p 12 2 < 2 ^ (zpBits sh).1) && decide (fld p 14 2 < 2 ^ (zpBits sh).2) &&
        (if isGated sh then inR 1 kl (if sh = 1 then 64 else 128) else decide (kl = 0))) &&
  (bit ctrl 1 || decide (fld p 28 4 = 0)) &&
  (!isDirect sh || (decide (ctrl = 3) && decide (acc = 0))) &&
  (packed || isDirect sh || decide (acc + m * (if sh = shCplx8 then 3 else 1) ≤ 1024)) &&
  (decide (sh ≠ shCplx8) || (decide (fld p 12 2 = 128) && decide (fld p 14 2 = 128) && decide (m ≤ 341)))

/-- The Ledge ranges that the payload names: offset and length (R112, R114, R126). -/
def arrayRanges (p : Bytes) : List (Nat × Nat) :=
  let sh := byteAt p 0
  let m := fld p 4 2
  let kt := fld p 6 2
  match packOf sh with
  | some lim => [(fld p 32 4, 32 * lim.1)]
  | none =>
    let nw := if sh = shDw3 then 64 * kt else kt * m * vectorBytes sh
    let nrec := if sh = shDw3 then kt else kt * m * (if sh = shCplx8 then 1 else passesOf sh)
    [(fld p 16 4, 32), (fld p 20 4, nw), (fld p 24 4, 16 * nrec)] ++ if bit (byteAt p 1) 1 then [(fld p 28 4, 64)] else []

/-! ### A run of the array -/

/-- One problem's part of an issued vector: scales, tags, and its quarter partial sums with their group. -/
structure VecIn where
  /-- The four scales of its record. -/
  scales : List Nat
  /-- Scale tag. -/
  tag : Nat
  /-- Data tag of the row queues of each group (R127). -/
  dtags : List Nat
  /-- Groups in use. -/
  groups : List Nat
  /-- Quarter partial sums: group, columns (R84). -/
  part : List (Nat × List Int)
  /-- What the check columns compare: quarter, half, C and D (R107). -/
  checks : List (Nat × Nat × Int × Int)
  /-- The elements of its rows: the value in the bits of R86, one for each row queue (R94). -/
  elems : List Nat
  deriving DecidableEq, Repr

/-- What a run of the array has done so far. -/
structure ArrRun where
  /-- Accumulator store (R99). -/
  acc : List (Nat × BitVec 48 × BitVec 2)
  /-- The store of the trailing core of a pair; empty without one (R116). -/
  accT : List (Nat × BitVec 48 × BitVec 2) := []
  /-- The tile in the active registers (R89). -/
  active : Option WeightTile := none
  /-- Results of direct shapes: problem, vector or row, channel of a quad, columns. -/
  res : List (Nat × Nat × Nat × List Int) := []
  /-- Clamps in the rescale, by problem (R129). -/
  tsat : List (Nat × Nat) := []
  /-- Clamps in the accumulate stage, by problem. -/
  asat : List (Nat × Nat) := []
  /-- Events of the array and feeder, in vector order (R110). -/
  events : List Flt := []
  /-- Vectors issued. -/
  issued : Nat := 0
  /-- Issue position. -/
  pos : Nat := 0
  /-- A vector has failed its check: nothing more is accumulated. -/
  dead : Bool := false
  /-- Positions that may still issue; none without a limit. -/
  left : Option Nat := none
  /-- ARRAY_CHECK events: the core and what `ARR_CHECK_LAST` shows (R117). -/
  checked : List (CoreId × Nat) := []
  deriving DecidableEq, Repr

/-- One of the cores that run a descriptor: the core itself, or both of a pair (R116, R336). -/
structure ArrSide where
  /-- Its array as the source of events. -/
  who : Who
  /-- The upsets of the run are in its datapath. -/
  hit : Bool
  /-- `ARR_INJECT`. -/
  inject : U32
  deriving DecidableEq, Repr

/-- What a run of the array is given. -/
structure ArrRig where
  /-- The descriptor. -/
  w : Who
  /-- The same with the core that the upsets are in. -/
  we : Who
  /-- The physical world. -/
  f : Facts
  /-- The cores that run it. -/
  sides : List ArrSide
  /-- Payload. -/
  p : Bytes

/-- The accumulator store: key, value and stored residue. -/
abbrev AccStore := List (Nat × BitVec 48 × BitVec 2)

/-- Columns read from the store. -/
def accRow (acc : AccStore) (k n : Nat) : List Int := (List.range n).map fun i => (keyGet (0, 0) acc (k + i)).1.toInt

/-- A stored residue does not match its entry in a range of the store (R332). -/
def accBad (acc : AccStore) (k n : Nat) : Bool :=
  (List.range n).any fun i => let e := keyGet (0, 0) acc (k + i); decide (residue e.1.toInt ≠ e.2.toNat)

/-- Entries with their residues written to the store. -/
def accPut (acc : AccStore) (k : Nat) (vs : List (Int × Nat)) : AccStore :=
  acc.filter (·.1 < k) ++
    (vs.zipIdx.filterMap fun e =>
      let v := (BitVec.ofInt 48 e.1.1, BitVec.ofNat 2 e.1.2)
      if v = (0, 0) then none else some (k + e.2, v)) ++
    acc.filter fun e => decide (k + vs.length ≤ e.1)

/-- An upset flips a bit of an entry; its residue stays (R99). -/
def accUpset (acc : AccStore) (f : Facts) : AccStore :=
  match f.accFlip with
  | none => acc
  | some (ch, col, b) =>
    let k := 128 * ch.1 + col.1
    let e := keyGet (0, 0) acc k
    keyPut (0, 0) acc k (e.1 ^^^ (1#48 <<< b.1), e.2)

/-- One quarter's partial sums over the columns (R84). -/
def quarterSum (cols : Nat) (w : List Int) (x : List (List Int)) : List Int :=
  (List.zip w x).foldl (fun a e => List.zipWith (fun s v => s + e.1 * v) a e.2) (List.replicate cols 0)

/-- The quarters of a problem with their groups (R84, R123). -/
def quarterSums (p : Prob) (per : Nat) (w : List Int) (x : List (List Int)) : List (Nat × List Int) :=
  (List.range (p.rows / 32)).map fun q =>
    let cut {α : Type} (l : List α) : List α := (l.drop (32 * per * q)).take (32 * per)
    (32 * q / p.gsize, quarterSum p.cols (cut w) (cut x))

/-- C and D of each quarter and half that a problem uses: the products of its weights with the row sums that the feeder
formed, and the sum of the half's partial sums (R107, R109). `part` holds P by local quarter, `sums` s_W and s_E by row.
DESIGN CHOICE (log 50): the quarters that a shape gates off (R103) are not compared. -/
def checkPairs (q0 col0 n : Nat) (w : List Int) (sums : List (Int × Int)) (part : List (Nat × List Int)) :
    List (Nat × Nat × Int × Int) :=
  (part.zipIdx).flatMap fun e =>
    let ws := (w.drop (n * e.2)).take n
    let ss := (sums.drop (n * e.2)).take n
    let d := rowSums col0 e.1.2
    let c (g : Int × Int → Int) : Int := (List.zipWith (fun x y => x * g y) ws ss).foldl (· + ·) 0
    [(q0 + e.2, 0, c Prod.fst, d.1), (q0 + e.2, 1, c Prod.snd, d.2)]

/-- Groups that a problem uses, its quarters counted inside the problem. DESIGN CHOICE (log 50): R123 numbers the quarters
of the array, and nothing says which of a packed problem's SCALE0 to SCALE3 its quarters name. -/
def groupsOf (p : Prob) : List Nat := ((List.range (p.rows / 32)).map fun q => 32 * q / p.gsize).dedup

/-- The rescaled terms of the quarters added across them, and the terms that clamped (R128, R129). -/
def joinTerms (cols : Nat) (v : VecIn) : List Int × Nat :=
  v.part.foldl (fun a q =>
    let sc := v.scales.getD q.1 0
    (List.zipWith (· + ·) a.1 (q.2.map fun x => rescale x sc), a.2 + (q.2.filter fun x => rescaleClamps x sc).length))
    (List.replicate cols 0, 0)

/-- `QNT_SKEW_LAST` of a failed tag or scale (R148). -/
def skewLast (code : Bool) (prob stag dtag group m : Nat) : Nat :=
  2 ^ 31 + b2n code * 2 ^ 30 + prob * 2 ^ 20 + stag * 2 ^ 16 + dtag * 2 ^ 12 + group * 2 ^ 10 + m % 1024

/-- Adds to a count by problem. -/
def bumpBy (l : List (Nat × Nat)) (i n : Nat) : List (Nat × Nat) := keyPut 0 l i (keyGet 0 l i + n)

/-- An event of the array with the fields of its _LAST register (R358). -/
def arrEvent (w : Who) (code : U16) (last : Nat) (counts : Bool) : Flt :=
  { w.flt code with detail := w.detail + last * 2 ^ 30, cores := if counts then w.core.toList else [] }

/-- The first group of a vector whose row queues hold another tag than the scales (R127). -/
def VecIn.skewed (v : VecIn) : Option Nat := v.groups.find? fun g => decide (v.dtags.getD g 0 ≠ v.tag)

/-- The tag and scale checks of a vector: SCALE_SKEW, then SCALE_CODE (R122, R127, R147). DESIGN CHOICE (log 50): where
several problems of a packed vector fail one check, one event names the lowest of them; the group scale of a quarter that
the problem leaves unused is not checked; DTAG shows the tag that the row queues hold, an upset of them included. -/
def issueChecks (w : Who) (m : Nat) (vs : List VecIn) : List Flt :=
  let skew := (vs.zipIdx).find? fun e => e.1.skewed.isSome
  let code := (vs.zipIdx).find? fun e => e.1.groups.any fun g => !scValid (e.1.scales.getD g 0)
  (match skew with
    | some e =>
      let g := e.1.skewed.getD 0
      [arrEvent w cScaleSkew (skewLast false e.2 e.1.tag (e.1.dtags.getD g 0) g m) true]
    | none => []) ++
  match code with
    | some e =>
      let g := (e.1.groups.find? fun g => !scValid (e.1.scales.getD g 0)).getD 0
      [arrEvent w cScaleCode (skewLast true e.2 0 0 g m) false]
    | none => []

/-- What an upset, or the armed injection at the first issued vector, adds to D of a quarter and half in the array of a core
(R108, R117). -/
def dError (f : Facts) (d : ArrSide) (r : ArrRun) (q h : Nat) : Int :=
  (if d.hit then
    ((f.check.filter fun e => decide (e.1 = r.pos) && decide (e.2.1.1 = q) && decide (e.2.2.1 = h)).length : Int) else 0) +
    if d.inject.getLsbD 8 ∧ r.issued = 0 ∧ d.inject.toNat % 4 = q ∧ bits d.inject.toNat 2 2 = h then 1 else 0

/-- The first of the eight comparisons of a vector that fails: quarter and half (R107, R108). DESIGN CHOICE (log 50): the one
record of a vector that fails several names the lowest quarter, west before east. -/
def failedCheck (f : Facts) (d : ArrSide) (r : ArrRun) (vs : List VecIn) : Option (Nat × Nat) :=
  let l := vs.flatMap (·.checks)
  ((List.range 8).map fun i => (i / 2, i % 2)).find? fun k =>
    l.any fun c => decide (c.1 = k.1) && decide (c.2.1 = k.2) && decide (c.2.2.1 ≠ c.2.2.2 + dError f d r k.1 k.2)

/-! ### Entries of the row queues (R94, R97) -/

/-- An entry of a row queue: element, block sequence tag, parity bit (R94). -/
structure RowEntry where
  /-- Element. -/
  elem : Nat
  /-- Tag. -/
  tag : Nat
  /-- Parity bit. -/
  par : Bool
  deriving DecidableEq, Repr

/-- The parity of an element with its tag. -/
def rowParity (elem tag : Nat) : Bool := (List.range 14).foldl (fun p i => p ^^ bit (elem + 1024 * tag) i) false

/-- The entry that the feeder writes. -/
def rowEntry (tag elem : Nat) : RowEntry := ⟨elem, tag, rowParity elem tag⟩

/-- An entry passes its parity check at issue (R97). -/
def RowEntry.ok (e : RowEntry) : Bool := e.par == rowParity e.elem e.tag

/-- The bits of corrected elements in the stationary width of R86: one int9, or two int5 in FULL4. -/
def elemBits (four : Bool) : List Int → List Nat
  | [] => []
  | a :: r =>
    if four then match r with
      | [] => [(a % 32).toNat]
      | b :: t => ((a % 32).toNat + 32 * (b % 32).toNat) :: elemBits four t
    else (a % 512).toNat :: elemBits four r

/-- The entries of a vector in the row queues, the parity bit of row `flip` upset. -/
def VecIn.entries (v : VecIn) (flip : Option Nat) : List RowEntry :=
  v.elems.zipIdx.map fun e =>
    let x := rowEntry (v.dtags.headD 0) e.1
    if flip = some e.2 then { x with par := !x.par } else x

/-- An entry of a vector fails its parity check (R97). -/
def parityBad (f : Facts) (pos : Nat) (vs : List VecIn) : Bool :=
  vs.zipIdx.any fun e => !(e.1.entries (f.parity.bind fun (n, p, r) => if n = pos ∧ p.1 = e.2 then some r.1 else none)).all (·.ok)

/-- A vector with the tags that the physical world left in its row queues (R127). -/
def upsetTags (f : Facts) (pos : Nat) (vs : List VecIn) : List VecIn :=
  match f.skew with
  | some (n, p, g, d) => if n ≠ pos then vs else (vs.zipIdx).map fun e =>
      if e.2 = p.1 then { e.1 with dtags := e.1.dtags.modify g.1 fun t => (t + d.toNat) % 16 } else e.1
  | none => vs

/-- A vector reaches issue: what it raises, and whether it is to be accumulated (R96, R97, R107, R108, R110, R122, R127). `iv`
is the issue interval (R103). DESIGN CHOICE (log 50): on one vector SCALE_SKEW and SCALE_CODE are recorded before FEED_PARITY
and ARRAY_CHECK; behind a vector that fails its check the vectors of the next 6 cycles still issue, stalls left aside; a
rescale clamp of a vector that fails its check, or issues behind one that does, is not counted (R129). -/
def ArrRun.issue (r : ArrRun) (g : ArrRig) (iv m : Nat) (vs : Eng (List VecIn)) : ArrRun × Option (List VecIn) :=
  let last (q h : Nat) : Nat := m % 1024 * 2 ^ 16 + h * 8 + q * 2 + 1
  let stop (l : List Flt) : ArrRun × Option (List VecIn) :=
    ({ r with events := r.events ++ l, pos := r.pos + 1, left := some 0, dead := true }, none)
  if r.left = some 0 then (r, none)
  else match vs with
  | .error e => stop [e]
  | .ok vs =>
    let par := if parityBad g.f r.pos vs then [arrEvent g.we 0x0207 0 true] else []
    let vs := upsetTags g.f r.pos vs
    let l := issueChecks (if g.f.skew.isSome then g.we else g.w) m vs
    if l.any (fun e => e.code = cScaleSkew) ∨ !par.isEmpty then stop (l ++ par)
    else
      let bad := g.sides.filterMap fun d => (failedCheck g.f d r vs).map fun k => (d.who, last k.1 k.2)
      let r := { r with issued := r.issued + 1, pos := r.pos + 1, left := r.left.map (· - 1) }
      if l.isEmpty && bad.isEmpty then (r, if r.dead then none else some vs)
      else
        ({ r with
            events := r.events ++ l ++ bad.map fun e => arrEvent e.1 cArrayCheck e.2 true
            checked := r.checked ++ bad.filterMap fun e => e.1.core.map (·, e.2)
            dead := true, left := some (if l.isEmpty then r.left.getD (6 / iv) else 0) }, none)

/-- ACC_RESIDUE (R332). -/
def accFlt (w : Who) (cores : List CoreId) : Flt :=
  { w.flt cAccResidue with src := (w.core.map (srcCore 0x02)).getD w.src, cores := cores }

/-- The first core of a run whose store holds a wrong residue in a range: the entries of the leading core, then of the
trailing one (R332, R338). -/
def ArrRun.badStore (r : ArrRun) (g : ArrRig) (k n : Nat) : Option Who :=
  (List.zip [r.acc, r.accT] (g.sides.map (·.who))).findSome? fun e => if accBad e.1 k n then some e.2 else none

/-- The terms of a vector go into the store with the predicted residues of the sums, the first write of an entry replacing it
under ACC_INIT; an entry read with a wrong residue stops the run (R99, R129, R331, R332). -/
def ArrRun.accumulate (r : ArrRun) (g : ArrRig) (i ch col : Nat) (fresh : Bool) (terms : List Int × Nat) : ArrRun :=
  let k := 128 * ch + col
  match if fresh then none else r.badStore g k terms.1.length with
  | some w => { r with events := r.events ++ [accFlt w w.core.toList], dead := true, left := some 0 }
  | none =>
    let old := if fresh then terms.1.map fun _ => 0 else accRow r.acc k terms.1.length
    let raw := List.zipWith (· + ·) old terms.1
    let pred := List.zipWith (fun a b => predAdd (residue a) (residue b)) old terms.1
    let new := List.zipWith (fun v p => (sat48 v, predSat p v (sat48 v))) raw pred
    { r with
      acc := accPut r.acc k new, accT := if g.sides.length < 2 then [] else accPut r.accT k new
      tsat := bumpBy r.tsat i terms.2
      asat := bumpBy r.asat i (raw.filter fun v => decide (sat48 v ≠ v)).length }

/-- The terms of a vector of a direct shape pass to the output stage (R100, R129). -/
def ArrRun.direct (r : ArrRun) (i m q : Nat) (terms : List Int × Nat) : ArrRun :=
  { r with
    res := r.res ++ [(i, m, q, terms.1.map sat48)], tsat := bumpBy r.tsat i terms.2
    asat := bumpBy r.asat i (terms.1.filter fun v => decide (sat48 v ≠ v)).length }

/-- Issue interval of a shape (R103). -/
def issueGap (sh : Nat) : Nat := if sh = 3 ∨ sh = 5 then 2 else 1

/-- Record index of a vector (R126). -/
def recIndex (sh mn t ps m : Nat) : Nat :=
  if sh = shW16A8 ∨ sh = shW16A16 then (passesOf sh * t + ps) * mn + m else t * mn + m

/-- A tile as the array holds it: the problem, the rows of each pass and their check sums (R87, R104). -/
structure Filled where
  /-- The problem. -/
  prob : Prob
  /-- Rows of each pass. -/
  rows : List (List (List Int))
  /-- s_W and s_E of each row of each pass. -/
  sums : List (List (Int × Int))
  deriving DecidableEq, Repr

/-- Passes that work on the first tile filled (R104). -/
def firstPasses (sh : Nat) : Nat := if sh = shW16A8 ∨ sh = shW16A16 then 2 else 1

/-- A filled tile with the sums of its rows; those of the first passes are `pre`, where the shadow holds that tile. -/
def filled (sh : Nat) (pre : Option (List (Int × Int))) (q : Prob) (rows : List (List (List Int))) : Filled :=
  let own := rows.map (·.map (rowSums q.col0))
  ⟨q, rows, match pre with
    | some t => List.replicate (min (firstPasses sh) rows.length) t ++ own.drop (firstPasses sh)
    | none => own⟩

/-- One vector of a gated or packed shape. -/
def gatedVec (s : State) (w : Who) (sh mn t ps m : Nat) (e : Filled) : Eng VecIn := do
  let q := e.prob
  let j := recIndex sh mn t ps m
  let r ← scaleRecord s w q.sOff j
  let ws ← passWeights s w sh q mn t m
  let per := if sh = shFull4 then 2 else 1
  let part := quarterSums q per (ws.getD ps []) (e.rows.getD ps [])
  pure { scales := r.1, tag := r.2, dtags := List.replicate 4 ((q.tag0 + j) % 16), groups := groupsOf q, part := part
         elems := elemBits (decide (sh = shFull4)) (ws.getD ps [])
         checks := checkPairs q.q0 q.col0 (32 * per) (ws.getD ps []) (e.sums.getD ps []) part }

/-- Gated and packed shapes: tiles, passes, vectors in order (R90, R99, R104). `pre` is the first tile where the shadow holds
it already. -/
def runGated (s : State) (g : ArrRig) (probs : List Prob) (pre : Option WeightTile) (r : ArrRun) : ArrRun :=
  let sh := byteAt g.p 0
  let mn := fld g.p 4 2
  (List.range (fld g.p 6 2)).foldl (fun r t =>
    if r.left = some 0 then r
    else
    let held {α : Type} (get : WeightTile → List α) (i : Nat) : Option α := if t = 0 then pre.bind fun x => (get x)[i]? else none
    match (probs.zipIdx).mapM fun q =>
        (passTilesFrom (held WeightTile.cells q.2) s g.w sh q.1 t).map (filled sh (held WeightTile.sums q.2) q.1) with
    | .error e => (r.issue g 1 0 (.error e)).1
    | .ok tiles =>
      (List.range (passesOf sh)).foldl (fun r ps =>
        let r := if r.left = some 0 then r else
          { r with active := some ⟨tiles.map fun e => e.rows.getD ps [], tiles.map fun e => e.sums.getD ps []⟩ }
        (List.range mn).foldl (fun r m =>
          let x := r.issue g (issueGap sh) m (if r.left = some 0 then .ok [] else
            tiles.mapM fun e => gatedVec s g.w sh mn t ps m e)
          match x.2 with
          | none => x.1
          | some vs => (vs.zip probs).zipIdx.foldl (fun r e =>
            let terms := joinTerms e.1.2.cols e.1.1
            if isDirect sh then r.direct e.2 m 0 terms
            else
              let ch := e.1.2.acc + (if sh = shCplx8 then ps * mn else 0) + m
              let fresh := bit (byteAt g.p 1) 0 && decide (t = 0) && (decide (ps = 0) || decide (sh = shCplx8))
              r.accumulate g e.2 ch e.1.2.col0 fresh terms) x.1) r) r) r

/-- The nine tap rows of a quarter of DW3, none where the channel is masked (R105). -/
def dwRows (s : State) (w : Who) (q : Prob) (nv c oy : Nat) : Eng (List (List Int)) :=
  if q.cb.ch ≤ c then .ok []
  else (dwWindow s w q.cb c oy q.zp.1).map fun win => (List.range 9).map fun i => (List.range nv).map fun n =>
    (win.getD (i / 3 * q.cb.dil) []).getD (n + i % 3 * q.cb.dil) 0

/-- The tile of an output row of DW3: the tap rows of its four quarters with their sums. -/
def dwTile (s : State) (w : Who) (q : Prob) (nv t m : Nat) : Eng WeightTile :=
  ((List.range 4).mapM fun k => dwRows s w q nv (4 * t + k) (q.cb.o0.2 + m)).map fun c => ⟨c, c.map (·.map (rowSums 0))⟩

/-- The codes a[0] to a[127] of a block of ELEM, on the diagonal, and the check sums of the rows: a[k] in the half that holds
column k (R93, R101, R106). -/
def elemTile (s : State) (w : Who) (q : Prob) (m : Nat) : Eng WeightTile :=
  (ledgeRead s w (q.cb.base + 128 * m) 128).map fun b =>
    let a := b.zipIdx.map fun e => if e.2 < q.n then corrected q.zp.1 (some e.1.toNat) else 0
    ⟨[[a]], [a.zipIdx.map fun e => if e.2 < 64 then (e.1, 0) else (0, e.1)]⟩

/-- A run with the tile that a vector works on in the active registers (R89). -/
def ArrRun.withTile (r : ArrRun) (v : Eng (WeightTile × List VecIn)) : ArrRun :=
  { r with active := (v.toOption.map (·.1)).orElse fun _ => r.active }

/-- DW3: channel quads, output rows; the shadow swaps at every row (R105). -/
def runDw3 (s : State) (g : ArrRig) (q : Prob) (pre : Option WeightTile) (r : ArrRun) : ArrRun :=
  let nv := byteAt g.p 9
  (List.range (fld g.p 6 2)).foldl (fun r t =>
    let head := do
      let ws ← weightElems s g.w (q.w + 64 * t) 64 q.zp.2 8
      let rec0 ← scaleRecord s g.w q.sOff t
      pure (ws, rec0)
    (List.range (fld g.p 4 2)).foldl (fun r m =>
      if r.left = some 0 then r else
      let vec : Eng (WeightTile × List VecIn) := do
        let (ws, rec0) ← head
        let tile ← match if t = 0 ∧ m = 0 then pre else none with
          | some x => pure x
          | none => dwTile s g.w q nv t m
        let taps (k : Nat) : List Int := (ws.drop (16 * k)).take 9
        let part := (tile.cells.zipIdx).map fun e => (e.2, if e.1.isEmpty then [] else quarterSum nv (taps e.2) e.1)
        let checks := (tile.sums.zipIdx).flatMap fun e =>
          checkPairs e.2 0 9 (taps e.2) e.1 [(0, (part.getD e.2 (0, [])).2)]
        pure (tile, [{ scales := rec0.1, tag := rec0.2, dtags := List.replicate 4 ((q.tag0 + t) % 16)
                       groups := [0, 1, 2, 3], part := part, checks := checks, elems := elemBits false ws }])
      let x := (r.withTile vec).issue g 1 m (vec.map (·.2))
      match x.2 with
      | some [v] => v.part.foldl (fun r (k : Nat × List Int) =>
          if k.2.isEmpty then r
          else r.direct 0 m (4 * t + k.1) (joinTerms k.2.length { v with part := [k] })) x.1
      | _ => x.1) r) r

/-- ELEM: blocks of 128 elements (R106). -/
def runElem (s : State) (g : ArrRig) (q : Prob) (pre : Option WeightTile) (r : ArrRun) : ArrRun :=
  let nv := byteAt g.p 9
  (List.range (fld g.p 4 2)).foldl (fun r m =>
    if r.left = some 0 then r else
    let vec : Eng (WeightTile × List VecIn) := do
      let rec0 ← scaleRecord s g.w q.sOff m
      let b ← weightElems s g.w (q.w + 128 * m) 128 q.zp.2 8
      let tile ← match if m = 0 then pre else none with
        | some x => pure x
        | none => elemTile s g.w q m
      let y := List.zipWith (· * ·) ((((tile.cells.head?).getD []).head?).getD []) b
      let quarter (k : Nat) : List Int := y.zipIdx.map fun e => if e.2 / 32 = k then e.1 else 0
      let checks := checkPairs 0 0 32 b ((tile.sums.head?).getD []) ((List.range 4).map fun k => (k, quarter k))
      pure (tile, [{ scales := rec0.1, tag := rec0.2, dtags := List.replicate 4 ((q.tag0 + m) % 16), groups := [0]
                     part := [(0, y.take nv)], checks := checks, elems := elemBits false b }])
    let x := (r.withTile vec).issue g 1 m (vec.map (·.2))
    match x.2 with
    | some [v] => x.1.direct 0 m 0 (joinTerms nv v)
    | _ => x.1) r

/-- The run of a descriptor over its issue positions. -/
def runArray (s : State) (g : ArrRig) (probs : List Prob) (pre : Option WeightTile) (r : ArrRun) : ArrRun :=
  let sh := byteAt g.p 0
  match probs with
  | [] => r
  | q :: _ =>
    if sh = shDw3 then runDw3 s g q pre r
    else if sh = shElem then runElem s g q pre r
    else runGated s g probs pre r

/-- The first tile of a descriptor (R91). -/
def firstTile (s : State) (w : Who) (p : Bytes) : Eng WeightTile := do
  let sh := byteAt p 0
  let probs ← readProbs s w p
  match probs with
  | [] => w.bad
  | q :: _ =>
    if sh = shDw3 then dwTile s w q (byteAt p 9) 0 0
    else if sh = shElem then elemTile s w q 0
    else
      let l ← probs.mapM fun q => (passTiles s w sh q 0).map fun l =>
        let rows := (l.head?).getD []
        (rows, rows.map (rowSums q.col0))
      pure ⟨l.map (·.1), l.map (·.2)⟩

/-- The shadow when a descriptor ends: the first tile of the descriptor immediately behind it, when that is an ARRAY
descriptor of the same context and generation which its wait does not hold (R91). A tile that cannot be filled is left to
its own descriptor. -/
def prefetch (s : State) (j : Job) : Option CellTile :=
  match (s.queue j.q).entries with
  | _ :: e :: _ =>
    let h := hdrOf e.bytes
    let w := { j.who with detail := descDetail j.q h e.origin }
    if h.opcode = 0x20 ∧ e.ctx = j.who.ctx ∧ h.gen = j.who.gen ∧ s.waitDone j.q h then
      (firstTile s w (e.bytes.drop 16)).toOption.map fun t => ⟨(w.ctx, w.gen), w.detail, t⟩
    else none
  | _ => none

/-- The tile that the shadow holds for a descriptor (R91). -/
def ArrRegs.held (a : ArrRegs) (w : Who) : Option WeightTile :=
  match a.shadow with
  | some t => if t.owner = (w.ctx, w.gen) ∧ t.desc = w.detail then some t.tile else none
  | none => none

/-! ### What goes to the output stage (R99, R105, R106, R150, R151) -/

/-- The direct result of a problem, vector and channel. -/
def ArrRun.result (r : ArrRun) (i m q : Nat) : List Int :=
  ((r.res.find? fun e => e.1 = i && e.2.1 = m && e.2.2.1 = q).map (·.2.2.2)).getD []

/-- A vector of a direct shape reached the output stage. -/
def ArrRun.has (r : ArrRun) (i m q : Nat) : Bool := r.res.any fun e => decide (e.1 = i) && decide (e.2.1 = m) && decide (e.2.2.1 = q)

/-- Elements of a channel row: column n to pixel (R151). -/
def rowElems (o : Ocb) (cb : FillCb) (n m : Nat) (vs : List Int) : List Elem :=
  (List.range n).map fun i =>
    { c := o.ch0 + m, x := cb.o0.1 + i % cb.ow, y := cb.o0.2 + i / cb.ow, vec := m, v := vs.getD i 0 }

/-- The elements of a problem with the base of each output tensor. -/
def problemOuts (r : ArrRun) (p : Bytes) (i : Nat) (q : Prob) (o : Ocb) : List (Nat × List Elem) :=
  let sh := byteAt p 0
  let mn := fld p 4 2
  let row (j m : Nat) : List Int := accRow r.acc (128 * (q.acc + j * mn + m) + q.col0) q.n
  if sh = shDw3 then
    [(o.dst, (List.range (min q.cb.ch (4 * fld p 6 2))).flatMap fun c => (List.range mn).flatMap fun m =>
      ((r.result 0 m c).zipIdx).map fun e =>
        { c := o.ch0 + c, x := q.cb.o0.1 + e.2, y := q.cb.o0.2 + m, vec := m, v := e.1 })]
  else if sh = shElem then
    [(o.dst, (List.range mn).flatMap fun m => ((r.result 0 m 0).zipIdx).map fun e =>
      { c := 0, x := 128 * m + e.2, y := 0, vec := m, v := e.1 })]
  else if sh = shCplx8 then
    let part (g : List Int → List Int → List Int → List Int) : List Elem :=
      (List.range mn).flatMap fun m => rowElems o q.cb q.n m (g (row 0 m) (row 1 m) (row 2 m))
    [(o.dst, part fun a _ c => List.zipWith (fun x y => sat48 (x - y)) a c),
     (o.imag, part fun a b _ => List.zipWith (fun x y => sat48 (x + y)) a b)]
  else
    [(o.dst, ((List.range mn).filter fun m => !isDirect sh || r.has i m 0).flatMap fun m =>
      rowElems o q.cb q.n m (if isDirect sh then r.result i m 0 else row 0 m))]

/-- The read-out of OUT_EN meets an entry of a store whose residue is wrong: in the store of which core (R332, R338). -/
def readOutBad (r : ArrRun) (g : ArrRig) (probs : List Prob) : Option Who :=
  let sh := byteAt g.p 0
  if isDirect sh then none
  else probs.findSome? fun q => (List.range (fld g.p 4 2 * if sh = shCplx8 then 3 else 1)).findSome? fun m =>
    r.badStore g (128 * (q.acc + m) + q.col0) q.n

/-- The jobs of the output stage (R113, R154). -/
def outJobs (s : State) (w : Who) (r : ArrRun) (p : Bytes) (probs : List Prob) : Eng (List OutJob) :=
  let sh := byteAt p 0
  let mn := fld p 4 2
  (probs.zipIdx).mapM fun e =>
    let count := if sh = shDw3 then min e.1.cb.ch (4 * fld p 6 2) else if sh = shElem then 1 else mn
    (readOcb s w ⟨sh = shDw3, sh = shElem, sh = shCplx8, count⟩ e.1.ocb).map fun o =>
      { prob := e.2, o := o, elem := sh = shElem, pin := ⟨e.1.cb.ow, e.1.cb.o0, e.1.n, mn⟩
        outs := problemOuts r p e.2 e.1 o, sat := keyGet 0 r.tsat e.2 + keyGet 0 r.asat e.2 }

/-- The array's registers after a run: store, tiles, counters, stalls of the physical world (R117, R148). The check counters,
and the skew counters of an upset, are those of the core whose own array met it (R116, R338). -/
def applyArrRun (s : State) (g : ArrRig) (i : CoreId) (r : ArrRun) : State :=
  let s := s.onEngine i fun x => { x with
    arr := { x.arr with
      acc := r.acc, issueCnt := x.arr.issueCnt + BitVec.ofNat 32 r.issued
      stallFeed := sat32 x.arr.stallFeed g.f.stallFeed, stallFill := sat32 x.arr.stallFill g.f.stallFill
      stallOut := sat32 x.arr.stallOut g.f.stallOut
      inject := if 0 < r.issued then x.arr.inject &&& ~~~0x100#32 else x.arr.inject
      active := (r.active.map fun t => (⟨(g.w.ctx, g.w.gen), g.w.detail, t⟩ : CellTile)).orElse fun _ => x.arr.active
      shadow := none }
    qnt := { x.qnt with
      termSat := sat32 x.qnt.termSat (sumN (r.tsat.map (·.2))), accSat := sat32 x.qnt.accSat (sumN (r.asat.map (·.2))) } }
  let s := match s.trailOf i with
    | some t => s.onCore t fun x => { x with arr := { x.arr with acc := r.accT } }
    | none => s
  let s := r.checked.foldl (fun s e => s.onCore e.1 fun x => { x with arr := { x.arr with
    checkCnt := sat32 x.arr.checkCnt 1, checkLast := BitVec.ofNat 32 e.2 } }) s
  r.events.foldl (fun s e => match if e.code = cScaleSkew ∧ g.f.skew.isSome then g.we.core else none with
    | some c => s.onCore c fun x => { x with qnt := x.qnt.skew e }
    | none => countSkew s i e) s

/-- The shadow after a descriptor that ended without a fault. -/
def setShadow (s : State) (i : CoreId) (t : Option CellTile) : State :=
  s.onEngine i fun x => { x with arr := { x.arr with shadow := t } }

/-- What the array is given by a core, or by both cores of a pair, for a descriptor. -/
def arrRig (s : State) (f : Facts) (j : Job) (i : CoreId) : ArrRig :=
  let side (c : CoreId) (hit : Bool) : ArrSide :=
    ⟨{ j.who with core := some c, src := srcCore 0x01 c }, hit, (s.core c).arr.inject⟩
  { w := j.who, we := { j.who with core := s.upsetCore f j, src := s.upsetSrc f j 0x01 }, f := f, p := j.p
    sides := match s.trailOf i with
      | none => [side i true]
      | some t => [side i !f.trail, side t f.trail] }

/-- The run before its first vector: the stores of its cores, an upset in that of the core it hit (R99). -/
def arrStart (s : State) (f : Facts) (i : CoreId) : ArrRun :=
  match s.trailOf i with
  | none => { acc := accUpset (s.core i).arr.acc f }
  | some t =>
    if f.trail then { acc := (s.core i).arr.acc, accT := accUpset (s.core t).arr.acc f }
    else { acc := accUpset (s.core i).arr.acc f, accT := (s.core t).arr.acc }

/-- The results of direct shapes that passed to the output stage before the vector that raised an event are written like any
other, and what the output stage then meets is a further event; nothing is pooled in a run that ends so, and no statistics
are posted (R100, R110, R122, R134). DESIGN CHOICE (log 50): of a shape that uses the store nothing is read out in such a run. -/
def directRest (s : State) (w : Who) (j : Job) (i : CoreId) (ost : OstRegs) (r : ArrRun) (probs : List Prob) :
    List (Nat × Bytes) × State × List Flt :=
  if !isDirect (byteAt j.p 0) || r.res.isEmpty then ([], s, [])
  else match outJobs s w r j.p probs with
    | .error e => ([], s, [e])
    | .ok jobs => match outputStage s w j.h.golden ost (jobs.filter fun k => !k.o.poolEn) with
      | .error e => ([], countSkew s i e, [e])
      | .ok (o, pwl) => (o.ws, applyOutRun s w i true { o with bufs := [] } pwl, [])

/-- The ARRAY descriptor (R111, R115). DESIGN CHOICE (log 50): a run of a store shape that an array event ends writes nothing, also
of the channels that were read out before the event (R110). -/
def arrayBody (f : Facts) (s : State) (j : Job) : Out :=
  match j.who.core with
  | none => { after := s }
  | some i =>
    let g := arrRig s f j i
    let ost := (s.core i).ost
    match readProbs s g.w j.p with
    | .error e => { after := forgetAq s i, flt := some e }
    | .ok probs =>
      let r := runArray s g probs ((s.core i).arr.held g.w) (arrStart s f i)
      let s1 := applyArrRun s g i r
      let wo := { g.w with src := srcCore 0x02 i }
      match r.events with
      | e :: more =>
        let (ws, s2, late) := directRest s1 wo j i ost r probs
        { writes := ws, after := forgetAq s2 i, flt := some e, more := more ++ late }
      | [] =>
        let bad := if accResidueBad f then some g.we
          else if bit (byteAt j.p 1) 1 then readOutBad r g probs else none
        match bad with
        | some w => { after := forgetAq s1 i, flt := some (accFlt w w.core.toList) }
        | none =>
          if !bit (byteAt j.p 1) 1 then
            { after := setShadow (forgetAq s1 i) i (prefetch s1 j), cut := some (forgetAq s1 i) }
          else match outJobs s1 wo r j.p probs with
          | .error e => { after := forgetAq s1 i, flt := some e }
          | .ok jobs => match outputStage s1 wo j.h.golden ost jobs with
            | .error e => { after := countSkew (forgetAq s1 i) i e, flt := some e }
            | .ok (o, pwl) =>
              { writes := o.ws, after := setShadow (applyOutRun s1 wo i j.h.golden o pwl) i (prefetch o.view j)
                cut := some (forgetAq s1 i), split := some (applyOutRun s1 wo i true o pwl) }

/-! ### SCALE_ADAPT (R71, R143, R144) -/

/-- The payload of SCALE_ADAPT is allowed (R71). -/
def scaleAdaptOk (s : State) (c : CtxId) (p : Bytes) : Bool :=
  let a := addrField p 0
  let n := byteAt p 12
  decide (a.rsv = 0) && s.isLocal a && decide (some a.addr = s.scaleTable c) && decide (fld p 8 2 < 4096) &&
  decide (fld p 10 2 < 256) && inR 1 n 64 && decide (byteAt p 13 ≤ 64) && decide (fld p 10 2 + n ≤ 256) &&
  decide (fld p 8 2 + n ≤ s.scaleN c) && (p.drop 16).all (· = 0)

/-- max ≤ L × 2^(j/8), max in Q31.16 (R144). -/
def fitsLimit (mx l : Nat) (j : Int) : Bool :=
  let a := j / 8
  let k := (j % 8).toNat
  if l = 0 then true
  else if 0 ≤ a then decide (mx ≤ l * p8 k * 2 ^ a.toNat)
  else decide (mx * 2 ^ (-a).toNat ≤ l * p8 k)

/-- The first bin at which the count reaches `need` (R144). -/
def coveredBin (need : Nat) : Nat → Nat → List Nat → Nat
  | b, _, [] => b - 1
  | b, cum, x :: r => if cum + x < need then coveredBin need (b + 1) (cum + x) r else b

/-- The required decrease in eighth-octaves before its limit (R144). -/
def adaptStep (bins : List Nat) (maxp maxn lp ln cover head : Nat) : Int :=
  let need := max 1 ((sumN bins * cover + 65535) / 65536)
  let b := coveredBin need 0 0 bins
  let lamH : Int := if b = 63 then 64 else 2 * ((b : Int) - 48)
  let lamM : Int := match (List.range 160).find? fun (j : Nat) =>
      fitsLimit maxp lp ((j : Int) - 96) && fitsLimit maxn ln ((j : Int) - 96) with
    | some j => (j : Int) - 96
    | none => 64
  min lamH lamM + head

/-- old scale × 2^(−d/8): the new OSC word, and whether it was clamped to the OSC range (R144). -/
def adaptScale (cur : Nat) (d : Int) : Nat × Bool :=
  let a0 := (-d) / 8
  let k := ((-d) % 8).toNat
  let m0 := (rneShr ((2048 + cur % 2048 : Nat) * p8 k) 16).toNat
  let m2 := if 4096 ≤ m0 then (rneShr m0 1).toNat else m0
  let a := if 4096 ≤ m0 then a0 + 1 else a0
  let t : Int := (cur / 2048 % 32 : Nat) - (cur / 65536 % 32 : Nat) + a
  let word (rsh e m : Nat) : Nat := rsh * 65536 + e * 2048 + (m - 2048)
  if 31 < t then (word 0 31 4095, true)
  else if 1 ≤ t then (word 0 t.toNat m2, false)
  else if -30 ≤ t then (word (1 - t).toNat 1 m2, false)
  else (word 31 1 2048, true)

/-- L+ and L− of a slot, from the STAT_SLOTS section (R144, R442). -/
def State.slotLimits (s : State) (c : CtxId) (p : PartId) (i : Nat) : Nat × Nat :=
  let b := s.secD 0x2A c.1 0
  match (List.range (b.length / 16)).find? fun k => byteAt b (16 * k) = p.1 && byteAt b (16 * k + 1) = i with
  | some k => (fld b (16 * k + 8) 2, fld b (16 * k + 10) 2)
  | none => (0, 0)

/-- What SCALE_ADAPT has done so far: statistics, writes and the fault that stopped it. -/
structure AdaptRun where
  /-- The state with its slots and counters. -/
  st : State
  /-- Entries written. -/
  ws : List (Nat × Bytes) := []
  /-- The fault. -/
  flt : Option Flt := none

/-- Updates the statistics counters of a partition (R149). -/
def adaptCounts (s : State) (p : PartId) (cnt clamp limit : Nat) : State :=
  s.onPart p fun x => { x with
    adaptCnt := x.adaptCnt + BitVec.ofNat 32 cnt, adaptClamp := sat32 x.adaptClamp clamp
    adaptLimit := sat32 x.adaptLimit limit }

/-- One tensor of SCALE_ADAPT: `rh` and `wh` are the addresses of its entry in the halves (R144). -/
def adaptOne (w : Who) (i rh wh slot cover head : Nat) (r : AdaptRun) : AdaptRun :=
  if r.flt.isSome then r
  else if h : slot < 256 then
    let t := (r.st.prt w.part).stats.get ⟨slot, h⟩
    if t.consumed then { r with flt := some (w.flt cAdaptTwice) }
    else
      let s := r.st.onPart w.part fun x => { x with stats := x.stats.set slot { t with consumed := true } }
      match s.load w rh 4 with
      | .error g => { r with st := s, flt := some g }
      | .ok b =>
        let cur := fld b 0 4
        let bins := t.bins.toList.map (·.toNat)
        let lim := s.slotLimits w.ctx w.part slot
        if !oscValid cur then { r with st := s, flt := some (w.scaleCode 0 i) }
        else if sumN bins = 0 then { r with st := s, ws := r.ws ++ [(wh, le 4 cur)] }
        else
          let d0 := adaptStep bins t.maxp.toNat t.maxn.toNat lim.1 lim.2 cover head
          let d := clampI d0 (-16) 16
          let s := adaptCounts s w.part 0 (b2n (d ≠ d0)) 0
          if cur % 65536 = 0 then { r with st := s, ws := r.ws ++ [(wh, le 4 cur)] }
          else
            let v := adaptScale cur d
            { r with st := adaptCounts s w.part 1 0 (b2n v.2), ws := r.ws ++ [(wh, le 4 v.1)] }
  else r

/-- The SCALE_ADAPT descriptor (R143, R144): copy on the first write of the frame, then its tensors. -/
def scaleAdaptBody (s : State) (j : Job) : Out :=
  match j.who.core, s.scaleTable j.who.ctx with
  | some i, some t =>
    let w := j.who
    let s := forgetAq s i
    let n := s.scaleN w.ctx
    let half := b2n (s.ctx w.ctx).frame.scaleHalf
    let next := (s.ctx w.ctx).frameNum + 1
    let copy : Eng (List (Nat × Bytes)) := do
      let tag ← s.load w (t + 4 * (1 - half)) 4
      if BitVec.ofNat 32 (fld tag 0 4) = next then pure []
      else
        let b ← s.load w (scaleAddr t n half 0) (4 * n)
        pure [(scaleAddr t n (1 - half) 0, b), (t + 4 * (1 - half), le 4 next.toNat)]
    match copy with
    | .error g => { after := s, flt := some g }
    | .ok ws0 =>
      let r := (List.range (byteAt j.p 12)).foldl (fun r k =>
        let e := fld j.p 8 2 + k
        adaptOne w k (scaleAddr t n half e) (scaleAddr t n (1 - half) e) (fld j.p 10 2 + k) (fld j.p 14 2) (byteAt j.p 13) r)
        { st := s }
      match s.checkWrites w (ws0 ++ r.ws) with
      | .error g => { after := r.st, cut := some s, flt := some g }
      | .ok ws =>
        let st := match r.flt with
          | some g => countSkew r.st i g
          | none => r.st
        { writes := ws, after := st, cut := some s, flt := r.flt }
  | _, _ => { after := s }

/-! ### Commands -/

/-- ARRAY (R111, R115). -/
def execArray (core : CoreId) (f : Facts) (s : State) : Res :=
  finish s (runJob s (.core core .aq) (· = 0x20) f (some (0x02, cOutResidue)) (arrayBody f))

/-- SCALE_ADAPT (R71, R144). -/
def execScaleAdapt (core : CoreId) (f : Facts) (s : State) : Res :=
  finish s (runJob s (.core core .aq) (· = 0x21) f none scaleAdaptBody)

end Sys2Proof.Machine
end

