-- ==== Sys2Proof/Machine/Accept.lean ====
section
/-!
DEFINITION. Machine/Accept.lean: the feeder and the acceptance of descriptors (R47, R48, R52, R365, R450), the checks
at the head of a queue (R44, R45), completion with its signal (R57), stages and their watchdogs (R42, R43, R316), the
bead-wait timeout (R59) and the pair hand-over (R339).
-/

namespace Sys2Proof.Machine

/-! ### Acceptance checks (R52) -/

/-- Every byte of the payload from offset `o` is 0. -/
def zeroFrom (p : Bytes) (o : Nat) : Bool := (p.drop o).all (· = 0)

/-- The payload of a MOVE is allowed (R65, R67). -/
def moveOk (p : Bytes) : Bool :=
  let idx := fld p 16 8
  let m (o n : Nat) : Bool := decide (fld p o n % 256 = 0)
  decide ((addrField p 0).rsv = 0) && decide ((addrField p 8).rsv = 0) && decide (bits idx 63 50 = 0) &&
  decide (1 ≤ fld p 24 4) && decide (1 ≤ fld p 28 2) && decide (1 ≤ fld p 30 2) &&
  match moveFmt p with
  | 0 => decide (bits idx 47 0 = 0)
  | 3 => false
  | _ => m 24 4 && m 32 4 && m 36 4 && m 40 4 && m 44 4

/-- The payload of a DIGEST is allowed (R73, R74). -/
def digestOk (p : Bytes) : Bool :=
  decide ((addrField p 0).rsv = 0) && decide (1 ≤ fld p 8 4) && decide (byteAt p 12 < 16) && decide (byteAt p 13 < 4) &&
  decide (fld p 14 2 = 0) && decide ((addrField p 16).rsv = 0) && decide (byteAt p 24 ≤ 2) && zeroFrom p 25 &&
  (decide (2 ≤ byteAt p 13) || (decide (byteAt p 24 = 0) && decide (fld p 16 8 = 0)))

/-- The payload of a descriptor is allowed where its operation checks it at acceptance (R52 check 4). -/
def payloadOk (s : State) (c : CtxId) (op : Nat) (p : Bytes) : Bool :=
  match op with
  | 0x00 => zeroFrom p 0
  | 0x01 => decide (byteAt p 0 ≤ 1) && zeroFrom p 1
  | 0x10 => moveOk p
  | 0x11 => digestOk p
  | 0x12 => decide (byteAt p 0 ≤ 1) && decide (byteAt p 1 ≤ 10) && decide (byteAt p 2 < 16) && zeroFrom p 3
  | 0x13 => decide ((addrField p 0).rsv = 0) && decide (fld p 8 4 ≤ 16777088) && decide (byteAt p 14 < 32) && zeroFrom p 15
  | 0x18 | 0x19 => decide (byteAt p 0 ≤ 2) && zeroFrom p 1
  | 0x20 => arrayOk p
  | 0x21 => scaleAdaptOk s c p
  | 0x30 => settOk p
  | 0x50 => dressOk s p
  | op => screenOk op p

/-- The header fields that must be 0 are 0 (R49, R50). -/
def Hdr.clean (h : Hdr) : Bool :=
  decide (h.rsv = 0) && (h.waitEn || (decide (h.waitBead = 0) && decide (h.thresh = 0))) &&
  (h.sigRing || decide (h.sigDev = 0))

/-- Check 4 of R52: the code of the fault, or none. -/
def check4 (s : State) (q : QueueId) (c : CtxId) (origin : Fin 4) (h : Hdr) (p : Bytes) : Option U16 :=
  match opQueue h.opcode with
  | none => some cDescOpcode
  | some k =>
    if k ≠ 5 ∧ k ≠ qNum q then some cDescQueue
    else if !h.clean || !payloadOk s c h.opcode p then some cDescOpcode
    else if (h.opcode = 0x18 ∨ h.opcode = 0x19) ∧ byteAt p 0 = origin.1 then some cPairPos
    else none

/-- A ring peer that a context may name: this device itself, or a member of PEERS (R415). -/
def State.peerOk (s : State) (c : CtxId) (id : Nat) : Bool := decide (id = s.rng.id.toNat) || (s.peers c).testBit id

/-- The bead ranges of check 5 (R52, R415). -/
def beadsOk (s : State) (q : QueueId) (c : CtxId) (h : Hdr) : Bool :=
  (!h.waitEn || s.ownsBead c (qPart q) h.waitBead) &&
  (decide (h.sigInc = 0) ||
    if h.sigRing && decide (h.sigDev ≠ s.rng.id.toNat) then (s.peers c).testBit h.sigDev
    else s.ownsBead c h.sigPart h.sigIdx)

/-- The address fields of a payload that may name a ring peer (R67, R73, R77). -/
def remoteFields (op : Nat) (p : Bytes) : List AddrField :=
  match op with
  | 0x10 => [addrField p 0, addrField p 8]
  | 0x11 => [addrField p 0, addrField p 16]
  | 0x13 => [addrField p 0]
  | _ => []

/-- The payload ranges of check 5 (R71, R114, R134, R215, R415): the fault, or none. -/
def payloadRange (s : State) (w : Who) (op : Nat) (p : Bytes) : Eng Unit := do
  if (remoteFields op p).any fun a => a.remote && !s.peerOk w.ctx a.ring then .error (w.flt cCtxRange)
  else if op = 0x21 then
    if (List.range (byteAt p 12)).all fun i => s.ownsSlot w.part w.ctx (fld p 10 2 + i) then pure ()
    else .error (w.flt cCtxRange)
  else if op = 0x20 then
    (arrayRanges p).forM fun r =>
      if ledgeSize < r.1 + r.2 then .error (w.flt cCtxRange)
      else (s.access w (0x020100000000 + r.1) r.2 false).map fun _ => ()
  else if decide (0x40 ≤ op) && decide (op ≤ 0x49) then
    (screenSpans op (screenOf p)).forM fun r => if r.2.1 = 0 then pure () else r.1.check s w r.2.1 r.2.2
  else pure ()

/-! ### The head of a queue (R44, R45) -/

/-- The queue of the list slot that an entry comes from. -/
def slotQueue (q : QueueId) (origin : Fin 4) : QueueId :=
  match q with
  | .core c k => .core (coreOf (partOfCore c) ⟨origin.1 % 3, Nat.mod_lt _ (by decide)⟩) k
  | .dq p => .dq p

/-- Expects the next QSEQ of an origin (R48). -/
def bumpExpect (s : State) (q : QueueId) (c : CtxId) (origin : Fin 4) : State :=
  s.onQueue q fun x =>
    let v := x.expect.get c
    { x with expect := x.expect.set c.1 (v.set origin.1 (v.get origin + 1)) }

/-- A descriptor reaches a queue: the checks of R52 in order. -/
def acceptBytes (s : State) (q : QueueId) (c : CtxId) (origin : Fin 4) (b : Bytes) : State :=
  let h := hdrOf b
  let p := b.drop 16
  let x := s.queue q
  let w : Who := { ctx := c, gen := h.gen, part := qPart q, core := qCore? q, src := srcQueue q
                   detail := descDetail q h origin }
  if descCrc b ≠ h.crc then queueFault s q c h origin cDescCrc
  else if h.ctx ≠ c ∨ h.gen ≠ (s.ctx c).gen then
    let s := event s (srcQueue q) cStaleDesc (some (h.ctx, h.gen)) 0
    frameEnd (s.onCtx c fun y => { y with staleDesc := sat32 y.staleDesc }) c
  else if h.qseq ≠ (x.expect.get c).get origin then queueFault s q c h origin cDescSeq
  else
    let s := bumpExpect s q c origin
    match check4 s q c origin h p with
    | some code => queueFault s q c h origin code
    | none =>
      if !beadsOk s q c h then queueFault s q c h origin cCtxRange
      else match payloadRange s w h.opcode p with
        | .error f => raiseFlt s f (some (s.cg c))
        | .ok _ =>
          let s' := s.onQueue q fun y => { y with entries := y.entries ++ [{ bytes := b, ctx := c, origin := origin }] }
          if x.entries.isEmpty then headCheck s' q else s'

/-! ### The feeder (R47, R365, R450) -/

/-- A queue can take a descriptor of a context: frame in flight, room, partition and sequencer in service, and the frame
not cut by a fault of the sequencer (R456). -/
def State.canFeed (s : State) (q : QueueId) (c : CtxId) : Bool :=
  let f := (s.seqProc (qPart q)).state
  (s.ctx c).state = .run && (s.ctx c).frame.inFlight && decide ((s.queue q).entries.length < 64) &&
  decide ((s.prt (qPart q)).prt.state = .service) && (f = .running || f = .deferred) &&
  !(s.ctx c).frame.seqLost.contains (qPart q)

/-- The lists of the frame that feed a queue and have descriptors left. -/
def State.feeding (s : State) (q : QueueId) (c : CtxId) : List ListCfg :=
  (s.frameLists c).filter fun l => decide (s.listQueue l = q) && decide (s.fedOf c l < l.ndesc)

/-- The list whose descriptor is next: lowest merge rank, then lowest origin slot (R365). -/
def State.nextList (s : State) (q : QueueId) (c : CtxId) : Option ListCfg :=
  let key (l : ListCfg) : Nat := 4 * l.rank (s.fedOf c l) + l.origin.1
  match s.feeding q c with
  | [] => none
  | l :: r => some (r.foldl (fun a b => if key b < key a then b else a) l)

/-- The feeder's position in a list moves on. -/
def advance (s : State) (c : CtxId) (l : ListCfg) : State :=
  s.onFrame c fun f => { f with fed := tabPut f.fed (BitVec.ofNat 16 l.index) (s.fedOf c l + 1) }

/-- The feeder copies the next descriptor of a list from memory and writes its GEN; one in an uncorrectable word is not fed, and
its context faults (R244, R450). -/
def feedNext (s : State) (q : QueueId) (c : CtxId) (l : ListCfg) : State :=
  let d := s.listDesc c l (s.fedOf c l)
  match d.2 with
  | some k => raiseFlt (noteUe s k) (ueFlt s.part k) (some (s.cg c))
  | none => acceptBytes (advance s c l) q c l.origin (withGen d.1 (s.ctx c).gen)

/-- A descriptor is fed: the next one of the list, or the bytes that arrive in its place. -/
def feed (s : State) (q : QueueId) (c : CtxId) (origin : Fin 4) (raw : Option Bytes) : State :=
  if !s.canFeed q c then s
  else match raw, s.nextList q c with
    | none, some l =>
      if l.origin = origin then feedNext s q c l else s
    | none, none => s
    | some b, some l => acceptBytes (if l.origin = origin then advance s c l else s) q c origin (slice b 0 64)
    | some b, none => acceptBytes s q c origin (slice b 0 64)

/-! ### Stages (R42, R43, R316) -/

/-- The bit of QSET of a queue of a list slot (R449). -/
def qBit : QueueId → Nat
  | .core c k => qsetBit (partOfCore c) (slotOfCore c).1 (qNum (.core c k))
  | .dq p => qsetBit p 0 4

/-- The queues of a stage. -/
def StageCfg.queues (x : StageCfg) : List QueueId := allQueues.filter fun q => bit x.qset (qBit q)

/-- Updates a stage of the frame. -/
def onStage (s : State) (c : CtxId) (i : Fin 32) (g : StageRt → StageRt) : State :=
  s.onFrame c fun f => { f with stages := f.stages.set i.1 (g (f.stages.get i)) }

/-- The window of a stage in this frame, which its start chose: minimum and maximum in µs (R43, R316, R482). -/
def State.window (s : State) (c : CtxId) (x : StageCfg) : Nat × Nat :=
  if (s.ctx c).frame.degradedWin then (x.win.2.2.1, x.win.2.2.2) else (x.win.1, x.win.2.1)

/-- The STAGE_END descriptor of a queue has completed; the stage ends with the last queue of its set (R42). -/
def endInQueue (s : State) (c : CtxId) (st : Nat) (q : QueueId) : State :=
  let i : Fin 32 := ⟨st % 32, Nat.mod_lt _ (by decide)⟩
  match s.stageCfg c st with
  | none => s
  | some x => onStage s c i fun r =>
    let e := q :: r.ended.filter (· ≠ q)
    { r with ended := e, phase := if x.queues.all e.contains then .ended else r.phase }

/-- Source ID of a context's watchdogs. -/
def srcWdg (c : CtxId) : U16 := srcId 2 0x20 c.1

/-- DETAIL of a watchdog expiry (R358). -/
def wdgDetail (st : Fin 32) (us : Nat) : Nat := st.1 + us % 2 ^ 32 * 32

/-- Resets partitions because of one event of a context. -/
def resetParts (s : State) (src code : U16) (detail : Nat) (ctx : CtxId × BitVec 12) (ps : List PartId) : State :=
  let r : ErrRec := ⟨src, code, tabGet 0 s.err.seqs src, s.now64, 1, 0, ctxGen ctx.1 ctx.2, 1, BitVec.ofNat 64 detail⟩
  let s := raiseCode s src code (some ctx) detail
  if s.err.expect then s else ps.foldl (fun s p => partReset s p src code (errBytes r) (some ctx)) s

/-- The partitions in which a queue of the stage has not completed its STAGE_END descriptor (R368). -/
def openParts (s : State) (c : CtxId) (i : Fin 32) (x : StageCfg) : List PartId :=
  ((x.queues.filter fun q => !(s.stageRt c i).ended.contains q).map qPart).dedup

/-! ### Completion (R57) -/

/-- The descriptor signals a bead of a ring peer. -/
def State.signalsPeer (s : State) (h : Hdr) : Bool := h.sigInc ≠ 0 && h.sigRing && decide (h.sigDev ≠ s.rng.id.toNat)

/-- The signal of a descriptor to a ring peer leaves, and awaits its acknowledgement (R57, R415). -/
def signalPeer (s : State) (q : QueueId) (e : QEntry) (h : Hdr) : State :=
  let d := BitVec.ofNat 2 h.sigDev
  let s := ringSend s d (.signal d e.ctx h.gen (BitVec.ofNat 14 (h.sigIdx + 4096 * h.sigPart.1)) (BitVec.ofNat 4 h.sigInc))
  (s.onRng fun r => { r with unacked := r.unacked ++ [⟨d, q, e.ctx, true⟩] }).onHead q fun e => { e with sent := true }

/-- The bead signal of a descriptor on this device: discarded, counted and reported at a partition in reset (R30, R57). -/
def signalBead (s : State) (e : QEntry) (h : Hdr) : State :=
  if h.sigInc = 0 || s.signalsPeer h then s
  else if s.inReset h.sigPart then isolatedDrop s (srcBlock h.sigPart) (e.ctx, h.gen)
  else s.addBead h.sigPart h.sigIdx h.sigInc

/-- The signature of a completed descriptor (R401). -/
def lksSig (e : QEntry) (h : Hdr) : U64 :=
  let w0 := fld e.bytes 0 4
  let w3 := fld e.bytes 12 4
  let d := le 4 (bits w0 11 0 + bits w0 31 28 * 2 ^ 28) ++ slice e.bytes 4 8 ++ le 4 (bits w3 13 0) ++ slice e.bytes 16 48
  let sig := decide (h.sigInc ≠ 0)
  crc64 (d ++ le 8 (e.sum + if sig then lksSignal h else 0).toNat ++ le 8 (e.cnt + if sig then 1 else 0).toNat)

/-- KEY of a lock-step message (R402). -/
def lksKey (q : QueueId) (origin : Fin 4) : Byte := BitVec.ofNat 8 ((qPart q).1 + 4 * origin.1 + 16 * qNum q)

/-- The accounts of a completed descriptor: golden counts and stage end (R42, R45). -/
def account (s : State) (q : QueueId) (e : QEntry) (h : Hdr) : State :=
  let s := if h.golden then
      let s := s.onQueue q fun x => { x with
        golden := tabPut x.golden (e.ctx, e.origin, h.stage) (goldCount x e.ctx e.origin h.stage + 1) }
      s.onFrame e.ctx fun f => { f with goldDone := f.goldDone + 1 }
    else s
  if h.stageEnd then endInQueue s e.ctx h.stage (slotQueue q e.origin) else s

/-- The entry leaves its queue. -/
def popHead (s : State) (q : QueueId) (e : QEntry) (h : Hdr) : State :=
  s.onQueue q fun x =>
    let v := x.lastStage.get e.ctx
    { x with entries := x.entries.tail
             lastStage := x.lastStage.set e.ctx.1 (v.set e.origin.1 (BitVec.ofNat 5 h.stage)) }

/-- The head of a queue waits for ring peers: a MOVE completes, and a signal is released, once the queue's writes are
acknowledged; the descriptor completes once the peer's pool holds the signal (R57, R257, R415). -/
def State.awaitsPeer (s : State) (q : QueueId) (e : QEntry) (h : Hdr) : Bool :=
  s.rng.unacked.any fun u => decide (u.queue = q) &&
    (if u.signal then e.sent else decide (h.sigInc ≠ 0) || decide (h.opcode = 0x10))

/-- The failed link on the only route of the head's bead signal (R18, R29). -/
def State.signalLink (s : State) (q : QueueId) (h : Hdr) : Option DieLink :=
  if h.sigInc = 0 || s.signalsPeer h then none else s.dieLink (partDie (qPart q)) (partDie h.sigPart)

/-- What stops the signal of a completing descriptor: a difference at the pair hub, or a dead link (R29, R337). -/
def signalStop (s : State) (q : QueueId) (e : QEntry) (h : Hdr) (diff : Option (Fin 4 × BitVec 12)) : Option State :=
  match if h.sigInc = 0 then none else hubFlt s (qCore? q) e.ctx diff, s.signalLink q h with
  | some (v, f), _ => some (hubMismatch s (qPart q) v f e.ctx h.gen)
  | none, some l => some (runFault s (linkFlt l) e.ctx h.gen)
  | none, none => none

/-- The head of a queue, executed, completes; the frame may end with it (R39, R57). `diff` is what the pair hub finds different in
its bead signal (R337). -/
def complete (s : State) (q : QueueId) (diff : Option (Fin 4 × BitVec 12)) : State :=
  match (s.queue q).entries with
  | [] => s
  | e :: _ =>
    let h := hdrOf e.bytes
    if !e.executed || s.awaitsPeer q e h then s
    else match if e.sent then none else signalStop s q e h diff with
    | some t => t
    | none =>
    if s.signalsPeer h && !e.sent then signalPeer s q e h
    else
      let s := account (signalBead s e h) q e h
      let s := lksComplete s e.ctx ((s.ctx e.ctx).frame.tTrigger, lksKey q e.origin, h.qseq, lksSig e h)
      frameEnd (headCheck (popHead s q e h) q) e.ctx

/-! ### Commands -/

/-- DESCRIPTOR_ACCEPT (R52). -/
def execDescriptorAccept (q : QueueId) (side : CtxId) (origin : Fin 4) (raw : Option Bytes) (s : State) : Res :=
  finish s (feed s q side origin raw)

/-- DESCRIPTOR_COMPLETE (R57). -/
def execDescriptorComplete (k : Completion) (s : State) : Res := finish s (complete s k.q k.diff)

/-- A signal reaches a bead pool (R30, R32, R35, R57). -/
def poolSignal (s : State) (c : CtxId) (gen : BitVec 12) (p : PartId) (i inc : Nat) : State :=
  if gen ≠ (s.ctx c).gen then staleDrop s c
  else if s.inReset p then isolatedDrop s (srcBlock p) (c, gen)
  else if !s.ownsBead c p i then raiseCode s (srcPart 0x0A p) cCtxRange (some (c, gen)) 0
  else s.addBead p i inc

/-- BEAD_SIGNAL (R57). -/
def execBeadSignal (c : CtxId) (gen : BitVec 12) (p : PartId) (bead : BitVec 12) (inc : BitVec 4) (s : State) : Res :=
  finish s (poolSignal s c gen p bead.toNat inc.toNat)

/-- BEAD_TIMEOUT (R59, R368): the head of the queue still waits. -/
def execBeadTimeout (q : QueueId) (s : State) : Res :=
  let s' := match (s.queue q).entries with
    | [] => s
    | e :: _ =>
      let h := hdrOf e.bytes
      if !e.executed && !s.waitDone q h then
        resetParts s (srcQueue q) cBeadTimeout (descDetail q h e.origin) (s.cg e.ctx) [qPart q]
      else s
  finish s s'

/-- The minimum window of a stage whose end reaches the watchdog, and the state that has told it: an end of the frame
before, which a frame started at once by a latched trigger has left behind, comes first (R39, R43, R316). -/
def tellEnd (s : State) (c : CtxId) (st : Fin 32) (x : StageCfg) : Option (Nat × State) :=
  match (s.ctx c).frame.ends.find? fun e => decide (e.1 = st) with
  | some e => some (e.2, s.onFrame c fun f => { f with ends := f.ends.filter fun d => decide (d.1 ≠ st) })
  | none =>
    if (s.stageRt c st).phase = .ended ∧ !(s.stageRt c st).told then
      some ((s.window c x).1, onStage s c st fun r => { r with told := true })
    else none

/-- STAGE_EVENT (R43, R316): an end before the minimum is an early expiry. -/
def execStageEvent (c : CtxId) (st : Fin 32) (isEnd : Bool) (elapsedUs : Nat) (s : State) : Res :=
  let s' := match s.stageCfg c st.1 with
    | none => s
    | some x =>
      if isEnd && decide ((s.ctx c).state = .run) && !x.test then
        match tellEnd s c st x with
        | none => s
        | some (min, s) =>
          if elapsedUs < min then raiseCode s (srcWdg c) cWdgEarly (some (s.cg c)) (wdgDetail st elapsedUs) else s
      else s
  finish s s'

/-- WDG_LATE (R43, R316, R368). -/
def execWdgLate (c : CtxId) (st : Fin 32) (elapsedUs : Nat) (s : State) : Res :=
  let r := s.stageRt c st
  let s' := match s.stageCfg c st.1 with
    | none => s
    | some x =>
      if decide ((s.ctx c).state = .run) && decide (r.phase = .running) && !r.late && !x.test &&
          decide ((s.window c x).2 < elapsedUs) then
        let ps := openParts s c st x
        resetParts (onStage s c st fun r => { r with late := true }) (srcWdg c) cWdgLate (wdgDetail st elapsedUs) (s.cg c) ps
      else s
  finish s s'

/-- TEST_STAGE_END (R42): the window of an earlier frame's stage expires first. -/
def execTestStageEnd (c : CtxId) (st : Fin 32) (s : State) : Res :=
  let s' := if !s.testOpen c st then s
    else if (s.ctx c).frame.tests.contains st then s.onFrame c fun f => { f with tests := f.tests.erase st }
    else onStage s c st fun r => { r with phase := .ended }
  finish s s'

/-- What a hand-over clears in a core (R339 step 2). -/
def clearPipes (s : State) (i : CoreId) : State :=
  s.onCore i fun x => { x with
    ost := { x.ost with rowBufs := [], pwl := none }, arr := { x.arr with active := none, shadow := none } }

/-- Steps 1 and 2 of a hand-over: the buffers of both cores are cleared, and at a PAIR both Ledge scrub pointers take the
leading core's value (R339). -/
def clearPair (s : State) (l t : CoreId) (isPair : Bool) : State :=
  let s := clearPipes (clearPipes s l) t
  if isPair then s.onCore t fun x => { x with scrubAt := (s.core l).scrubAt } else s

/-- The hand-over of a PAIR or SPLIT (R339). -/
def handover (s : State) (p : PartId) (fails : Bool) : State :=
  let hub := (s.prt p).hub
  match hub.want with
  | none => s
  | some (l, t, isPair, c) =>
    let q : QueueId := .core (coreOf p l) .mq
    if s.isFenced (coreOf p l) || s.isFenced (coreOf p t) then
      let s := s.onPart p fun x => { x with hub := { x.hub with want := none, pair := none } }
      if isPair then unpaired s p q c else headDone s q
    else
    let s := clearPair s (coreOf p l) (coreOf p t) isPair
    if isPair && fails then
      let s := headDone (s.onPart p fun x => { x with hub := { x.hub with want := none, selfchkFail := true } }) q
      raiseCode (setFlag s c fUnpaired) (srcPart 0x08 p) cPairHubFault (some (s.cg c)) 0
    else
      headDone (s.onPart p fun x => { x with hub := { x.hub with
        want := none, pair := if isPair then some (l, t) else none
        selfchkFail := if isPair then false else x.hub.selfchkFail
        pairCnt := if isPair then x.hub.pairCnt + 1 else x.hub.pairCnt } }) q

/-- PAIR_HANDOVER (R339). -/
def execPairHandover (p : PartId) (selfcheckFails : Bool) (s : State) : Res := finish s (handover s p selfcheckFails)

end Sys2Proof.Machine
end

