-- ==== Sys2Proof/Machine/Time.lean ====
section
/-!
DEFINITION. Machine/Time.lean: the time base, its servo, timestamps and the 802.1AS engine (R268, R271, R284 to R291),
and the commands of that family. PTP message formats are those of the standard R286 names (log 13).
-/

namespace Sys2Proof.Machine

/-- The time base in 2^-32 ns (R284). -/
def State.fine (s : State) : Nat := (s.tb.sec.toNat * 1000000000 + s.tb.ns.toNat) * 2 ^ 32 + s.tb.frac.toNat

/-- Sets the time base to a number of 2^-32 ns, seconds modulo 2^48 (R284). -/
def State.setFine (s : State) (t : Int) : State :=
  let n := t / (2 ^ 32 : Nat)
  s.onTb fun b => { b with
    sec := BitVec.ofNat 48 (twos 48 (n / 1000000000)), ns := BitVec.ofNat 30 (n % 1000000000).toNat
    frac := BitVec.ofNat 32 (twos 32 t) }

/-- The uptime and the odometer's seconds advance by `n` TIM ticks; a full ingress FIFO counts the two CTL cycles of a tick
(R20, R263, R459). -/
def passTicks (s : State) (n : Nat) : State :=
  let run := s.dev = .run || s.dev = .degraded
  let hot := decide (2000 ≤ s.pwr.tjMax.toInt)
  let o := s.boot.odo
  { s with
    ticks := s.ticks + n
    io := s.io.map fun d => if d.full then { d with iffStall := sat32 d.iffStall (2 * n) } else d
    boot := { s.boot with odo := { o with
      runTicks := if run then o.runTicks + n else o.runTicks
      hotTicks := if hot then o.hotTicks + n else o.hotTicks } } }

/-- One TIM tick: {TB_NS, TB_FRAC} += TB_ADDEND, and the uptime advances (R284). -/
def tick (s : State) : State := passTicks (s.setFine (s.fine + s.tb.addend.toNat)) 1

/-- A timestamp: the time base corrected by `c5` in units of 2^-32 / 5 ns, in whole ns (R268, R271, log 14). -/
def State.stamp (s : State) (c5 : Int) : U64 := tsOfNs ((5 * (s.fine : Int) + c5) / (5 * 2 ^ 32 : Nat)).toNat

/-- The receive timestamp of a MAC (R271). -/
def State.rxStamp (s : State) (d : DieId) (m : MacId) : U64 :=
  s.stamp (-(128 * 2 ^ 32 : Nat) - (5 * ((s.die d).mac.get m).rxLat.toNat * 2 ^ 28 : Nat))

/-- The transmit timestamp of a MAC (R271). -/
def State.txStamp (s : State) (d : DieId) (m : MacId) : U64 :=
  s.stamp ((160 * 2 ^ 32 : Nat) + (5 * ((s.die d).mac.get m).txLat.toNat * 2 ^ 28 : Nat))

/-- The frame-start timestamp of a camera port (R268). -/
def State.fsStamp (s : State) (d : DieId) (p : PortId) : U64 :=
  s.stamp (-(150 * 2 ^ 32 : Nat) - 5 * (2 ^ 32 : Nat) * ((s.die d).csi.get p).fsAdj.toInt)

/-! ### The servo (R285, R287, R288) -/

/-- STEP_NS of the image (R288, R445). -/
def State.stepNs (s : State) : Nat := fld s.devCfg 8 4

/-- The bound of 500 ppm (R285). -/
def servoBound : Int := 5368709

/-- One update of I and TB_ADDEND (R285). -/
def servoUpdate (b : TbRegs) (theta : Int) : TbRegs :=
  if !b.en || b.hold then b
  else
    let t := theta * 65536
    let p := t / (2 ^ b.kpSh.toNat : Nat)
    let i := clampI (b.integ.toInt + t / (2 ^ b.kiSh.toNat : Nat)) (-servoBound) servoBound
    let nom : Int := 0x280000000
    { b with
      integ := BitVec.ofInt 32 i
      addend := BitVec.ofInt 40 (clampI (nom - p - i) (nom - servoBound) (nom + servoBound)) }

/-- The servo freezes: holdover, and HOLD until lock resumes (R287, R291). -/
def servoFreeze (s : State) : State :=
  s.onTb fun b => { b with
    holdover := true, hold := true, locked := false, good := 0, holdFrom := if b.holdover then b.holdFrom else s.ticks }

/-- The device may step its time base (R288). -/
def State.mayStep (s : State) : Bool := s.dev != .run || s.dflag 5

/-- A step of the time base by −θ, θ in ns × 2^16 (R288). The instants that schedule triggers are counted from move with
the time line, so that no trigger fires twice and at most one is skipped. -/
def timeStep (s : State) (theta : Int) : State :=
  let s := s.setFine (s.fine - theta * 65536)
  let back (n : Nat) : Nat := ((n : Int) - theta / 65536).toNat
  let s : State := { s with ctxs := s.ctxs.map fun x => { x with runNs := back x.runNs, lastTrig := x.lastTrig.map back } }
  s.onTb fun b => { b with
    integ := 0, stepCnt := sat32 b.stepCnt, slewing := false, stepAt := some s.nowNs }

/-- An offset reaches the servo (R285, R287, R288). In holdover the second in a row regains lock and the next one is
the first after lock; without a lock before, the first offset acquires it (log 15). -/
def servoOffset (s : State) (theta : BitVec 48) : State :=
  let t := theta.toInt
  let s := s.onTb fun b => { b with theta := theta }
  if !s.tb.en || (s.tb.hold && !s.tb.holdover) then s
  else if s.tb.holdover then
    if 1 ≤ s.tb.good then s.onTb fun b => { b with holdover := false, hold := false, locked := true, first := true, good := 0 }
    else s.onTb fun b => { b with good := b.good + 1 }
  else
    let first := s.tb.first
    let s := s.onTb fun b => { b with locked := true, first := false }
    let big := decide (s.stepNs * 65536 < t.natAbs)
    if first && big && s.mayStep then timeStep s t
    else s.onTb fun b => { servoUpdate b t with slewing := big && (first || b.slewing) }

/-! ### The 802.1AS engine (R286) -/

/-- The gPTP port: enabled, die and MAC (R286, R445). -/
def State.ptpPort (s : State) : Option (DieId × MacId) :=
  let v := byteAt s.devCfg 0x10
  if bit v 7 then some (⟨bits v 2 2 % 2, Nat.mod_lt _ (by decide)⟩, ⟨bits v 1 0 % 4, Nat.mod_lt _ (by decide)⟩) else none

/-- The device takes its time from the ring alone: every device on a ring but its manager (R289, R421). -/
def State.ringPeer (s : State) : Bool := s.ringEn && !(s.rng.hasMgr && s.rng.mgrId == s.rng.id)

/-- The device holds the manager role of its ring (R289, R421). -/
def State.isRingMgr (s : State) : Bool := s.ringEn && s.rng.hasMgr && s.rng.mgrId == s.rng.id

/-- The engine serves as grandmaster: capable, and no better one is announced (R286, log 13). -/
def State.isGm (s : State) : Bool := s.dflag 6 && s.tb.gm.isNone

/-- The station address of a MAC, first byte first (R446). -/
def State.station (s : State) (d : DieId) (m : MacId) : Bytes := be 6 (s.boot.fuses.station.toNat + 4 * d.1 + m.1)

/-- A PTP timestamp (log 13). -/
def ptpTime (t : U64) : Bytes := be 6 (t.toNat >>> 30) ++ be 4 (t.toNat % 2 ^ 30)

/-- The time of a PTP timestamp. -/
def ptpTs (b : Bytes) : U64 := ts64 (unbe (b.take 6)) (unbe ((b.drop 6).take 4))

/-- The port identity of the engine: EUI-64 of the station address and port 1 (log 13). -/
def portIdentity (a : Bytes) : Bytes := a.take 3 ++ [0xFF, 0xFE] ++ a.drop 3 ++ be 2 1

/-- An 802.1AS message as an Ethernet frame (log 13). -/
def ptpFrame (a : Bytes) (ty : Nat) (flags : Nat) (seq : U16) (body : Bytes) : Bytes :=
  let msg := le 1 (0x10 + ty) ++ le 1 2 ++ be 2 (34 + body.length) ++ zeros 2 ++ be 2 flags ++ zeros 12
    ++ portIdentity a ++ be 2 seq.toNat ++ zeros 2 ++ body
  withCrc32 (padTo 60 ([0x01, 0x80, 0xC2, 0x00, 0x00, 0x0E] ++ a ++ be 2 0x88F7 ++ msg))

/-- The Follow_Up information TLV (log 13). -/
def followTlv : Bytes := be 2 3 ++ be 2 28 ++ [0x00, 0x80, 0xC2, 0x00, 0x00, 0x01] ++ zeros 22

/-- The system identity of the engine as a grandmaster: priorities and clock quality at the standard's defaults for an end
station, then its clock identity (R286, log 13). -/
def systemIdentity (a : Bytes) : Bytes := le 1 248 ++ le 1 248 ++ le 1 0xFE ++ be 2 0x436A ++ le 1 248 ++ (portIdentity a).take 8

/-- Sends a two-step Sync with its Follow_Up, and the Announce that names this device (R286, log 13). -/
def sendSync (s : State) (d : DieId) (m : MacId) : State :=
  let a := s.station d m
  let q := s.tb.syncSeq
  let s := s.emit (.eth d m (ptpFrame a 0xB 0 q (zeros 13 ++ systemIdentity a ++ be 2 0 ++ le 1 0xA0 ++ be 2 8 ++ be 2 8
    ++ (portIdentity a).take 8)))
  let s := s.emit (.eth d m (ptpFrame a 0 0x0200 q (zeros 10)))
  let s := s.emit (.eth d m (ptpFrame a 8 0 q (ptpTime (s.txStamp d m) ++ followTlv)))
  s.onTb fun b => { b with syncSeq := q + 1, serving := true, en := false, source := 0, locked := false }

/-- Sends a delay request. -/
def sendPdelay (s : State) (d : DieId) (m : MacId) : State :=
  let q := s.tb.pdSeq
  let s := s.emit (.eth d m (ptpFrame (s.station d m) 2 0 q (zeros 20)))
  s.onTb fun b => { b with pdSeq := q + 1, pdReq := some (q, s.txStamp d m), pdResp := none }

/-- Answers a delay request: response and follow-up, two-step. -/
def answerPdelay (s : State) (d : DieId) (m : MacId) (seq : U16) (peer : Bytes) : State :=
  let a := s.station d m
  let s := s.emit (.eth d m (ptpFrame a 3 0x0200 seq (ptpTime (s.rxStamp d m) ++ peer)))
  s.emit (.eth d m (ptpFrame a 0xA 0 seq (ptpTime (s.txStamp d m) ++ peer)))

/-- The mean link delay of a complete exchange in ns × 2^16, with the neighbour rate ratio less 1 in 2^-41 (log 13). -/
def meanDelay (nrr : Int) (t1 t2 t3 t4 : U64) : Int :=
  (tsDiff t4 t1 * ((2 ^ 41 : Nat) + nrr) - tsDiff t3 t2 * (2 ^ 41 : Nat)) / (2 ^ 26 : Nat)

/-- The neighbour rate ratio less 1 in 2^-41, from two responses: the neighbour's send times and the receive times here. -/
def rateRatio (old : Int) (prev : Option (U64 × U64)) (t3 t4 : U64) : Int :=
  match prev with
  | some (p3, p4) => if 0 < tsDiff t4 p4 then tsDiff t3 p3 * (2 ^ 41 : Nat) / tsDiff t4 p4 - (2 ^ 41 : Nat) else old
  | none => old

/-- The priority vector of an Announce: system identity, steps removed, source port identity (R286, log 13). -/
def announceRank (msg : Bytes) : Nat := unbe (slice msg 47 14 ++ slice msg 61 2 ++ slice msg 20 10)

/-- The priority vector of this device as grandmaster. -/
def State.ownRank (s : State) (d : DieId) (m : MacId) : Nat :=
  let a := s.station d m
  unbe (systemIdentity a ++ zeros 2 ++ portIdentity a)

/-- The best-master comparison at an Announce (R286, R287, log 13): the smaller priority vector is better, the master in
use may change its own, and a capable device that is better than the best Announce serves. A change of the grandmaster
identity freezes the servo. -/
def announce (s : State) (d : DieId) (m : MacId) (msg : Bytes) : State :=
  let rank := announceRank msg
  let own := decide (slice msg 20 8 = (portIdentity (s.station d m)).take 8)
  let best := s.tb.gm.isNone || decide (rank < s.tb.gmRank) || decide (rank % 2 ^ 80 = s.tb.gmRank % 2 ^ 80)
  if own || decide (255 ≤ unbe (slice msg 61 2)) || !best then s
  else
    let id : Option U64 := if s.dflag 6 && decide (s.ownRank d m < rank) then none
      else some (BitVec.ofNat 64 (unbe (slice msg 53 8)))
    let s := if s.tb.gm.isSome && decide (s.tb.gm ≠ id) then servoFreeze s else s
    s.onTb fun b => { b with
      gm := id, gmRank := rank, en := b.en || id.isSome, serving := if id.isSome then s.isRingMgr else b.serving }

/-- The engine takes a gPTP message received on its port (R286, R287): domain 0, and Sync and Follow_Up of the master alone. -/
def gptpMessage (s : State) (d : DieId) (m : MacId) (msg : Bytes) : State :=
  let seq := BitVec.ofNat 16 (unbe (slice msg 30 2))
  let corr := sgn 64 (unbe (slice msg 8 8))
  let t := ptpTs (slice msg 34 10)
  let master := s.tb.gm.isSome && decide (unbe (slice msg 20 10) = s.tb.gmRank % 2 ^ 80)
  let mine := decide (slice msg 44 10 = portIdentity (s.station d m))
  if byteAt msg 4 ≠ 0 then s
  else match byteAt msg 0 % 16 with
  | 0 => if master then s.onTb fun b => { b with syncRx := some (seq, s.rxStamp d m) } else s
  | 2 => answerPdelay s d m seq (slice msg 20 10)
  | 3 => match s.tb.pdReq with
    | some (q, _) => if q = seq ∧ mine = true then s.onTb fun b => { b with pdResp := some (t, s.rxStamp d m) } else s
    | none => s
  | 8 => match s.tb.syncRx with
    | some (q, rx) =>
      if q = seq ∧ master = true then
        let s := s.onTb fun b => { b with syncRx := none, source := 1, serving := s.isRingMgr }
        let gr := sgn 32 (unbe (slice msg 54 4))
        servoOffset s (BitVec.ofInt 48 (tsDiff rx t * 65536 - corr - s.tb.linkDelay - s.tb.linkDelay * gr / (2 ^ 41 : Nat)))
      else s
    | none => s
  | 0xA => match s.tb.pdReq, s.tb.pdResp with
    | some (q, t1), some (t2, t4) =>
      if q = seq ∧ mine = true then
        let r := rateRatio s.tb.nrr s.tb.pdPrev t t4
        s.onTb fun b => { b with
          linkDelay := meanDelay r t1 t2 t t4, nrr := r, pdPrev := some (t, t4), pdReq := none, pdResp := none }
      else s
    | _, _ => s
  | 0xB => announce s d m msg
  | _ => s

/-- A frame of EtherType 0x88F7 reaches the engine: only on the gPTP port, and never on a ring peer (R286, R289). -/
def gptpReceive (s : State) (d : DieId) (m : MacId) (msg : Bytes) : State :=
  if s.ptpPort = some (d, m) && !s.ringPeer && decide (34 ≤ msg.length) then gptpMessage s d m msg else s

/-! ### Commands -/

/-- SRV_OFFSET_WRITE (R285, R288). -/
def execSrvOffsetWrite (theta : BitVec 48) (s : State) : Res := finish s (servoOffset s theta)

/-- SYNC_RECEIPT_TIMEOUT (R287): the servo freezes and the grandmaster is forgotten (log 13). -/
def execSyncReceiptTimeout (s : State) : Res :=
  let s' := if s.isGm || s.ringPeer then s else (servoFreeze s).onTb fun b => { b with gm := none, syncRx := none }
  finish s s'

/-- TB_SEC_LO_READ (R291). -/
def execTbSecLoRead (s : State) : Res :=
  let s' := s.onTb fun b => { b with latHi := BitVec.ofNat 16 (b.sec.toNat >>> 32), latNs := b.ns, latFrac := b.frac }
  finish s (s'.emit (.readData (le 4 s.tb.sec.toNat)))

/-- ETH_LINK_CHANGE (R293): SPEED 3 is reserved and cannot be shown. -/
def execEthLinkChange (die : DieId) (mac : MacId) (speed : BitVec 2) (anDone : Bool) (s : State) : Res :=
  let s' := if diePresent s.part die && speed != 3 then
      s.onMac die mac fun x => { x with speed := speed, anDone := anDone }
    else s
  finish s s'

/-- GPTP_SYNC_INTERVAL (R286, log 13): a delay request, and as grandmaster Announce and Sync before it. -/
def execGptpSyncInterval (s : State) : Res :=
  let s' := match s.ptpPort with
    | none => s
    | some (d, m) =>
      if s.ringPeer || !diePresent s.part d then s
      else sendPdelay (if s.isGm then sendSync s d m else s) d m
  finish s s'

end Sys2Proof.Machine
end

