-- ==== Sys2Proof/Machine/Contexts.lean ====
section
/-!
DEFINITION. Machine/Contexts.lean: a context entering RUN and the two kinds of trigger (R34, R37, R38, R437).
-/

namespace Sys2Proof.Machine

/-- BOOT_OK: written once when every enabled context has entered RUN; it clears the bank's failed starts (R437). -/
def bootOk (s : State) : State :=
  if s.boot.bootOk || !s.allRun then s
  else
    let s := logAppend s 9 (le 1 s.boot.bank.1 ++ zeros 3 ++ le 4 s.boot.seq.toNat)
    s.onBoot fun b => { b with bootOk := true, failed := b.failed.set b.bank.1 0 }

/-- The lists of a context can be loaded: every partition it touches is in service (R34, R369). -/
def State.canLoad (s : State) (c : CtxId) : Bool :=
  (allFin 4).all fun p => !s.touches c p || decide ((s.prt p).prt.state = .service)

/-- A context enters RUN; a configured device is then in RUN and lock-step arms (R34, R400, R452, log 16). -/
def enterRun (s : State) (c : CtxId) : State :=
  let s := setCtxState s c .run
  let s := s.onCtx c fun x => { x with runNs := s.nowNs }
  let s := lksStart s c
  let s := if s.dev = .configured then { s with dev := .run } else s
  bootOk (refreshDev s)

/-- The first T_us not before `t` with (T_us − PHASE) a multiple of PERIOD (R37). -/
def instantFrom (period phase t : Nat) : Nat := t + (((phase : Int) - t) % (max 1 period : Nat)).toNat

/-- The scheduled instant at which the next trigger of a context fires (R37, R288): 1 ms after RUN, after the previous
trigger, and after a step of the time base 1 ms later and half a period after that trigger. -/
def State.nextInstant (s : State) (c : CtxId) : Nat :=
  let x := s.ctx c
  let prev := (x.lastTrig.map (· + 1)).getD 0
  let step := match s.tb.stepAt with
    | some t => max (t + 1000000) ((x.lastTrig.map (· + s.period c * 500)).getD 0)
    | none => 0
  instantFrom (s.period c) (s.phase c) (max s.nowUs ((max (x.runNs + 1000000) (max prev step) + 999) / 1000))

/-- Time passes until T_us (log 17): the time base and the uptime advance at the present rate. -/
def passUntil (s : State) (us : Nat) : State :=
  if us ≤ s.nowUs then s
  else
    let d := us * 1000 * 2 ^ 32 - s.fine
    passTicks (s.setFine (us * 1000 * 2 ^ 32 : Nat)) (d / max 1 s.tb.addend.toNat)

/-! ### Commands -/

/-- LISTS_LOADED (R34, R437): STARTING waits until the domains in use are ON (R476, R483). -/
def execListsLoaded (c : CtxId) (s : State) : Res :=
  let s' := if (s.ctx c).state = .starting && s.canLoad c then
      let s := bringOn s
      if (List.range 64).any s.domWaits then s else enterRun s c
    else s
  finish s s'

/-- SCHEDULE_TRIGGER (R37, R39, R288): in REPLAY triggers come from the FRAME_MARK records alone (R397). -/
def execScheduleTrigger (c : CtxId) (s : State) : Res :=
  let s' := if (s.ctx c).state = .run && !s.arrivalTrig c && s.dev != .replay then
      let t := s.nextInstant c
      let s := passUntil s t
      trigger (s.onCtx c fun x => { x with lastTrig := some (1000 * t) }) c 0 0
    else s
  finish s s'

/-- ARRIVAL_TIMEOUT (R38): the trigger fires and the streams without their event are INCOMPLETE. -/
def execArrivalTimeout (c : CtxId) (s : State) : Res :=
  let x := s.ctx c
  let s' := if x.state = .run && s.arrivalTrig c && x.arrived != 0 && s.dev != .replay then
      let missing : U64 := BitVec.ofNat 64 (s.arrStreams c) &&& ~~~x.arrived
      trigger (s.onCtx c fun y => { y with arrived := 0 }) c (flagBit fArrivalTimeout true) missing
    else s
  finish s s'

end Sys2Proof.Machine
end

