-- ==== Sys2Proof/Machine/Crusher.lean ====
section
/-!
DEFINITION. Machine/Crusher.lean: the eight stages of a Crusher (R177), line substitution (R181), output lines and
their signals (R182), the golden tile (R183), and the ingress FIFO that all ingress writes enter (R259).
-/

namespace Sys2Proof.Machine

/-! ### The stages (R177) -/

/-- What a Crusher works on: a profile, the input size, the crop, the output size, and the resolved lines: none is a
line that holds BL[pos] in every pixel (R181). -/
structure Tile where
  /-- The profile. -/
  x : StreamProf
  /-- Input width and height. -/
  inp : Nat × Nat
  /-- Crop in the binned image: CX0, CY0, CW, CH. -/
  crop : Nat × Nat × Nat × Nat
  /-- Output width and height. -/
  out : Nat × Nat
  /-- Input line `y`. -/
  line : Nat → Option Bytes

/-- RAW with a colour filter array. -/
def Tile.mosaic (t : Tile) : Bool := dtRaw t.x.dt && !t.x.mono

/-- Width and height after binning. -/
def Tile.binned (t : Tile) : Nat × Nat := if t.x.bin then (t.inp.1 / 2, t.inp.2 / 2) else t.inp

/-- Position of a pixel in the filter array; MONO uses 0 (R177 stage 2). -/
def Tile.pos (t : Tile) (x y : Nat) : Nat := if t.x.mono then 0 else 2 * (y % 2) + x % 2

/-- Sample number of plane `ch` of pixel `x` in a line (log 10). -/
def planeSample (dt ch x : Nat) : Nat :=
  match dtSamples dt with
  | 1 => x
  | 2 => match ch with
    | 0 => 2 * x + 1
    | 1 => 4 * (x / 2)
    | _ => 4 * (x / 2) + 2
  | _ => 3 * x + (2 - ch)

/-- Stages 1 and 2 for plane `ch` of an input pixel. -/
def Tile.pixel (t : Tile) (ch x y : Nat) : Nat :=
  let k := t.pos x y
  let p := match t.line y with
    | some b => sampleAt t.x.dt b (planeSample t.x.dt ch x) * 2 ^ (16 - dtBits t.x.dt)
    | none => t.x.bl k
  if dtRaw t.x.dt then (min 65535 (rneShr (((p - t.x.bl k) * t.x.norm k : Nat) : Int) 14)).toNat else p

/-- Stage 3 for plane `ch` of a binned pixel. -/
def Tile.bin (t : Tile) (ch x y : Nat) : Nat :=
  if !t.x.bin then t.pixel ch x y
  else
    let s := if t.mosaic then
        sumN ([0, 1].flatMap fun b => [0, 1].map fun a =>
          t.pixel 0 (4 * (x / 2) + x % 2 + 2 * a) (4 * (y / 2) + y % 2 + 2 * b))
      else sumN ([0, 1].flatMap fun b => [0, 1].map fun a => t.pixel ch (2 * x + a) (2 * y + b))
    (rneShr s 2).toNat

/-- A neighbour coordinate with the reflection that keeps the parity: −1 reads 1 and W reads W − 2. -/
def mirrored (i : Int) (n : Nat) : Nat := if i < 0 then (-i).toNat else if (n : Int) ≤ i then 2 * n - 2 - i.toNat else i.toNat

/-- The colour of a site: 0 R, 1 G, 2 B (R175 CFA). -/
def cfaColour (cfa x y : Nat) : Nat :=
  let k := x % 2 + 2 * (y % 2)
  match cfa with
  | 0 => [0, 1, 1, 2].getD k 0
  | 1 => [1, 0, 2, 1].getD k 0
  | 2 => [1, 2, 0, 1].getD k 0
  | _ => [2, 1, 1, 0].getD k 0

/-- The mean of the binned samples at some neighbours: rne_shr by 1 or by 2. -/
def Tile.mean (t : Tile) (x y : Nat) (ds : List (Int × Int)) : Nat :=
  let b := t.binned
  let s := sumN (ds.map fun d => t.bin 0 (mirrored (x + d.1) b.1) (mirrored (y + d.2) b.2))
  (rneShr s (if ds.length = 2 then 1 else 2)).toNat

/-- Stage 4: plane `ch` (R, G, B or Y, U, V) of a binned pixel. -/
def Tile.demosaic (t : Tile) (ch x y : Nat) : Nat :=
  if !t.mosaic then t.bin (if dtRaw t.x.dt then 0 else ch) x y
  else
    let own := cfaColour t.x.cfa x y
    if own = ch then t.bin 0 x y
    else if own = 1 then
      t.mean x y (if cfaColour t.x.cfa (x + 1) y = ch then [(-1, 0), (1, 0)] else [(0, -1), (0, 1)])
    else if ch = 1 then t.mean x y [(-1, 0), (1, 0), (0, -1), (0, 1)]
    else t.mean x y [(-1, -1), (1, -1), (-1, 1), (1, 1)]

/-- Stages 5 and 6: channel `i` of a binned pixel. -/
def Tile.toned (t : Tile) (i x y : Nat) : Nat :=
  let s : Int := ([0, 1, 2].map fun j => t.x.cm (3 * i + j) * ((t.demosaic j x y : Int) - t.x.ioff j)).sum
  let p := (clampI (rneShr s 12 + t.x.coff i) 0 65535).toNat
  let k := p / 16
  let a := t.x.tone k
  (clampI ((a : Int) + rneShr (((t.x.tone (min (k + 1) 4095) : Int) - a) * (p % 16 : Nat)) 4) 0 65535).toNat

/-- One pass of stage 7: 8 taps around the position of output coordinate `o`. -/
def resizeTaps (o step : Nat) (off : Int) (c0 cn : Nat) : Nat × List Nat :=
  let pos : Int := (o : Int) * step + off
  let i := pos / 65536
  (bits (twos 64 pos) 15 10, (List.range 8).map fun (t : Nat) =>
    (clampI ((c0 : Int) + i - 3 + t) c0 ((c0 : Int) + cn - 1)).toNat)

/-- The weighted sum of a pass. -/
def resizeSum (coef : Nat → Int) (v : List Nat) : Nat :=
  (clampI (rneShr ((List.range 8).map fun t => coef t * (v.getD t 0 : Int)).sum 14) 0 65535).toNat

/-- Stage 7: channel `i` of output pixel (x, y). -/
def Tile.resized (t : Tile) (i x y : Nat) : Nat :=
  let h := resizeTaps x t.x.step.1 t.x.off.1 t.crop.1 t.crop.2.2.1
  let v := resizeTaps y t.x.step.2 t.x.off.2 t.crop.2.1 t.crop.2.2.2
  resizeSum (t.x.coefV v.1) (v.2.map fun r => resizeSum (t.x.coefH h.1) (h.2.map fun c => t.toned i c r))

/-- Stage 8: the code of data channel `k` at output pixel (x, y). -/
def Tile.code (t : Tile) (k x y : Nat) : Nat :=
  let i := if t.x.chan = 1 then 2 - k else k
  min 255 (rneShr (t.resized i x y) 8).toNat

/-- An output line as it lies in memory: all channels of its block, padding channels at OUT_ZP (R164). -/
def Tile.row (t : Tile) (y : Nat) : Bytes :=
  (List.range t.out.1).flatMap fun x => (List.range t.x.lay.block).map fun k =>
    BitVec.ofNat 8 (if k < t.x.outC then t.code k x y else t.x.zp)

/-- The last input line that output line `y` needs. -/
def Tile.needs (t : Tile) (y : Nat) : Nat :=
  let rows := (resizeTaps y t.x.step.2 t.x.off.2 t.crop.2.1 t.crop.2.2.2).2
  let m := rows.foldl max 0
  let m := if t.mosaic then min (m + 1) (t.binned.2 - 1) else m
  let last := if !t.x.bin then m else if t.mosaic then 4 * (m / 2) + m % 2 + 2 else 2 * m + 1
  min last (t.inp.2 - 1)

/-- A frame of a stream: its resolved lines so far, first line first; an empty one holds BL[pos]. -/
def frameTile (x : StreamProf) (lines : List Bytes) : Tile :=
  { x := x, inp := (x.inW, x.inH), crop := x.crop, out := (x.outW, x.outH)
    line := fun y => match lines[y]? with
      | some (b :: r) => some (b :: r)
      | _ => none }

/-! ### The ingress FIFO (R259) -/

/-- The FIFO has room for an item: one larger than the FIFO passes through it when it is empty. -/
def IoDie.fits (d : IoDie) (e : IffItem) : Bool :=
  d.fifo.isEmpty || decide (fifoBytes d + sumN (e.writes.map (·.2.length)) ≤ fifoSize)

/-- An item enters the FIFO. -/
def IoDie.enter (d : IoDie) (e : IffItem) : IoDie :=
  let d := { d with fifo := d.fifo ++ [e] }
  { d with hiwater := BitVec.ofNat 32 (max d.hiwater.toNat (fifoBytes d)) }

/-- Puts an item into the FIFO, or behind those that stalled writers have ready for it (R259). -/
def fifoPush (s : State) (d : DieId) (e : IffItem) : State :=
  s.onDie d fun x => if x.stalled.isEmpty && x.fits e then x.enter e else { x with stalled := x.stalled ++ [e] }

/-- What stalled writers have ready enters the FIFO while it has room (R259). -/
def IoDie.refill : Nat → IoDie → IoDie
  | 0, d => d
  | n + 1, d => match d.stalled with
    | [] => d
    | e :: r => if d.fits e then IoDie.refill n ({ d with stalled := r }.enter e) else d

/-- Source ID of the ingress FIFO of a die. -/
def srcIff (d : DieId) : U16 := srcId (2 + d.1) 0x13 0

/-- What the read-out of the recorder buffer of a die finds (R259, R328, log 51): an uncorrectable word loses the records of this
step and is IFF_UE of each context whose data they hold; a single error is corrected. -/
def readOut (s : State) (d : DieId) (cs : List (CtxId × BitVec 12)) (f : Finding) (s' : State) : State :=
  if !s.recActive then s'
  else match f with
  | .clean => s'
  | .single => event s' (srcIff d) cSramCe cs.head? 0
  | .double =>
    let t := { s' with mem := s.mem, recd := s.recd }.onDie d fun x => { x with tapBlock := (s.die d).tapBlock }
    if cs.isEmpty then event t (srcIff d) cIffUe none 0
    else cs.foldl (fun s c => raiseCode s (srcIff d) cIffUe (some c) 0) t

/-- Code INGRESS_OVERRUN. -/
def cOverrun : U16 := 0x0D01

/-- A buffer of a slot, updated. -/
def setBuf (v : Vector BufInfo 2) (b : Fin 2) (f : BufInfo → BufInfo) : Vector BufInfo 2 := v.set b.1 (f (v.get b))

/-- The stream of a camera slot is INCOMPLETE for the sensor frame in its buffer; one event for each (R283). -/
def camIncomplete (s : State) (d : DieId) (i : Fin 32) : State :=
  let r := (s.die d).cams.get i
  match r.buf, r.ctx with
  | some b, some c =>
    if (r.bufs.get b).incomplete then s
    else
      let s := s.onCam d i fun x => { x with bufs := setBuf x.bufs b fun y => { y with incomplete := true } }
      event s (srcCsi d (s.camProf c d i).port) cStreamInc (some (c, r.gen)) 0
  | _, _ => s

/-! ### Lines (R181, R182) -/

/-- The line that replaces an absent one: the latest good line of the same row parity, of any row for data other than
RAW; else the line that holds BL[pos], written as no bytes (R181). -/
def substitute (x : StreamProf) (taken : List Bytes) (good : List Bool) : Bytes :=
  let y := taken.length
  let l := (List.zip (List.zip taken good) (List.range y)).filter fun e =>
    e.1.2 && (!dtRaw x.dt || decide (e.2 % 2 = y % 2))
  (l.getLast?.map (·.1.1)).getD []

/-- Output lines that the lines taken so far allow, from line `y` on. -/
def rowsReady (t : Tile) (taken y : Nat) : List Nat :=
  ((List.range t.out.2).filter (y ≤ ·)).takeWhile fun r => decide (t.needs r < taken)

/-- The items of the output lines of a frame: a write each, and a signal after SIG_LINES lines and after the last
(R182). -/
def rowItems (x : StreamProf) (c : CtxId) (gen : BitVec 12) (i : Nat) (b : Fin 2) (rows : List (Nat × Bytes)) :
    List IffItem :=
  rows.map fun r =>
    let k := beadField (x.bead b.1)
    { ctx := c, gen := gen, writes := [((x.dst b.1).addr + r.1 * r.2.length, r.2)]
      signal := if (r.1 + 1) % x.sigLines = 0 ∨ r.1 + 1 = x.outH then some (k.1, k.2, 1) else none
      flow := false, profile := i, buf := b }

/-- A RAW line as 16-bit codes (R174). -/
def rawRow (x : StreamProf) (y : Nat) (l : Bytes) : Bytes :=
  (List.range x.inW).flatMap fun k => le 2 (if l.isEmpty then x.bl (2 * (y % 2) + k % 2) else sampleAt x.dt l k)

/-- A frame whose lines are all taken and which has ended is complete: its digest is final (R383). -/
def camFinish (s : State) (d : DieId) (i : Fin 32) : State :=
  let r := (s.die d).cams.get i
  match r.buf, r.ctx with
  | some b, some c =>
    if r.ended && r.waiting.isEmpty && decide ((s.camProf c d i).outH ≤ r.outLines) then
      s.onCam d i fun x => { x with bufs := setBuf x.bufs b fun y => { y with digest := some (sha256 x.hashed) } }
    else s
  | _, _ => s

/-- A stream takes its next line: substitution, output lines, signals (R177, R181, R182). -/
def takeLine (s : State) (d : DieId) (i : Fin 32) (l : Option Bytes) : State :=
  let r := (s.die d).cams.get i
  match r.buf, r.ctx with
  | some b, some c =>
    let x := s.camProf c d i
    let taken := r.taken ++ [l.getD (substitute x r.taken r.good)]
    let rows := if x.mode = 2 then [(r.taken.length, rawRow x r.taken.length (taken.getLast?.getD []))]
      else (rowsReady (frameTile x taken) taken.length r.outLines).map fun y => (y, (frameTile x taken).row y)
    let s := if l.isSome then s else camIncomplete s d i
    let s := s.onCam d i fun y => { y with
      taken := taken, good := y.good ++ [l.isSome], outLines := y.outLines + rows.length }
    let s := (rowItems x c r.gen i.1 b rows).foldl (fun s e => fifoPush s d e) s
    camFinish s d i
  | _, _ => s

/-! ### The golden tile (R183) -/

/-- The tile of a profile, its lines read from GOLD_SRC. -/
def goldTile (s : State) (x : StreamProf) : Tile :=
  let n := lineLen x.dt x.gold.1
  let b := if x.bin then (x.gold.1 / 2, x.gold.2 / 2) else x.gold
  { x := x, inp := x.gold, crop := (0, 0, b.1, b.2), out := x.goldOut
    line := fun y => if y < x.gold.2 then some (s.peek (x.goldSrc.addr + y * n) n) else none }

/-- The golden tile runs: its output enters the FIFO and GOLD_BEAD follows it. -/
def runGold (s : State) (d : DieId) (i : Fin 32) (c : CtxId) (gen : BitVec 12) (b : Fin 2) : State :=
  let x := s.camProf c d i
  if x.mode ≠ 1 ∨ !x.hasGold then s
  else
    let t := goldTile s x
    let k := beadField x.goldBead
    let out := (List.range x.goldOut.2).flatMap t.row
    let s := s.onCam d i fun y => { y with bufs := setBuf y.bufs b fun z => { z with golden := true } }
    fifoPush s d { ctx := c, gen := gen, writes := [(x.goldDst.addr, out)], signal := some (k.1, k.2, 1)
                   flow := false, profile := i.1, buf := b }

/-! ### CRUSHER_LINE -/

/-- The streams of a Crusher: its loaded PROCESS profiles, in ascending INDEX (R173). -/
def crusherStreams (s : State) (d : DieId) (cru : Fin 2) : List (Fin 32 × CtxId) :=
  (allFin 32).filterMap fun i => match ((s.die d).cams.get i).ctx with
    | some c => let x := s.camProf c d i; if x.mode = 1 ∧ x.cru = cru.1 then some (i, c) else none
    | none => none

/-- The number of a profile among those of its Crusher (R173, R185, log 40). -/
def profileNo (s : State) (d : DieId) (cru : Fin 2) (i : Fin 32) : Nat :=
  ((crusherStreams s d cru).filter fun e => decide (e.1 < i)).length

/-- The streams that a Crusher serves with a line waiting: slot and arrival number of the first line. -/
def crusherQueue (s : State) (d : DieId) (cru : Fin 2) : List (Fin 32 × Nat) :=
  (allFin 32).filterMap fun i =>
    let r := (s.die d).cams.get i
    match r.ctx, r.waiting with
    | some c, l :: _ =>
      let x := s.camProf c d i
      if x.mode = 1 ∧ x.cru = cru.1 then some (i, l.seq) else none
    | _, _ => none

/-- The line that arrived first (R173). -/
def firstLine (l : List (Fin 32 × Nat)) : Option (Fin 32) :=
  match l with
  | [] => none
  | e :: r => some (r.foldl (fun a b => if b.2 < a.2 then b else a) e).1

/-- An uncorrectable word of the Crusher's memories: the current line of every stream on it, or the next where none waits,
is absent, and the contexts are faulted (R184). -/
def crushEcc (s : State) (d : DieId) (cru : Fin 2) : State :=
  let l := crusherStreams s d cru
  let s := l.foldl (fun s e => s.onCam d e.1 fun x => match x.waiting with
    | [] => { x with lostNext := x.frameOpen && x.buf.isSome && decide (x.received < (s.camProf e.2 d e.1).inH) }
    | y :: r => { x with waiting := { y with data := none } :: r }) s
  (l.map (·.2)).dedup.foldl (fun s c => raiseCode s (srcId (2 + d.1) 0x10 cru.1) cCrushEcc (some (s.cg c)) 0) s

/-- One line of a Crusher. -/
def crushOne (s : State) (d : DieId) (cru : Fin 2) (i : Fin 32) : State :=
  let r := (s.die d).cams.get i
  match r.waiting with
  | [] => s
  | l :: rest =>
    let w := ((r.ctx.map fun c => (s.camProf c d i).inW)).getD 0
    let s := s.onCru d cru fun x => { x with
      profile := BitVec.ofNat 3 (profileNo s d cru i), busy := false, pixCnt := x.pixCnt + BitVec.ofNat 32 w
      lineSubst := if l.data.isSome then x.lineSubst else sat32 x.lineSubst }
    takeLine (s.onCam d i fun x => { x with waiting := rest }) d i l.data

/-- CRUSHER_LINE (R177, R184): the line that arrived first; while the ingress FIFO is full the Crusher stalls. -/
def execCrusherLine (die : DieId) (cru : Fin 2) (finding : Finding) (s : State) : Res :=
  let s' := if !s.domLive (cruDom die) then s else match firstLine (crusherQueue s die cru) with
    | none => s
    | some i =>
      if s.fifoFull die then
        s.onCru die cru fun x => { x with busy := true, profile := BitVec.ofNat 3 (profileNo s die cru i) }
      else
        let s := match finding with
          | .clean => s
          | .single => event (s.onCru die cru fun x => { x with eccCorr := sat32 x.eccCorr }) (srcId (2 + die.1) 0x10 cru.1)
              cSramCe ((((s.die die).cams.get i).ctx).map s.cg) 0
          | .double => crushEcc s die cru
        crushOne s die cru i
  finish s s'

end Sys2Proof.Machine
end

