-- ==== Sys2Proof/Machine/Camera.lean ====
section
/-!
DEFINITION. Machine/Camera.lean: the CSI-2 receivers (R266 to R268), the recorder tap of camera data (R389), buffers
and their digests (R54, R55, R383) and the port buffers (R180).
-/

namespace Sys2Proof.Machine

/-- The slot of a stream: the loaded profile of a port and virtual channel (R173). -/
def State.camSlot (s : State) (d : DieId) (port : Nat) (vc : Nat) : Option (Fin 32 × CtxId) :=
  (allFin 32).findSome? fun i => match ((s.die d).cams.get i).ctx with
    | some c =>
      let x := s.camProf c d i
      if x.port = port ∧ x.vc = vc ∧ x.die = d.1 then some (i, c) else none
    | none => none

/-- Writes a camera record; its AUX holds the type, the virtual channel, the first line and the count (R389). -/
def vcRecord (s : State) (d : DieId) (port vc : Nat) (kind rflags : Nat) (time : U64) (low first count : Nat)
    (payload : Bytes) : State :=
  recWrite s (.tap d) (srcCsi d port) kind rflags time
    (low % 64 + vc * 2 ^ 6 + first % 2 ^ 13 * 2 ^ 8 + count % 2 ^ 11 * 2 ^ 21) payload

/-- Writes a record of a stream. -/
def camRecord (s : State) (d : DieId) (x : StreamProf) (kind rflags : Nat) (time : U64) (low first count : Nat)
    (payload : Bytes) : State := vcRecord s d x.port x.vc kind rflags time low first count payload

/-- Closes the open CSI_LINES record of a slot. -/
def closeLines (s : State) (d : DieId) (i : Fin 32) (x : StreamProf) : State :=
  match ((s.die d).cams.get i).record with
  | none => s
  | some (first, dt, time, lines) =>
    camRecord (s.onCam d i fun r => { r with record := none }) d x 1 0 time dt.toNat first lines.length lines.flatten

/-- The tap takes a good line: a CSI_LINES record holds consecutive lines, at most 512 KiB (R389). -/
def tapLine (s : State) (d : DieId) (i : Fin 32) (x : StreamProf) (n : Nat) (dt : BitVec 6) (b : Bytes) : State :=
  let fits := match ((s.die d).cams.get i).record with
    | none => false
    | some (first, dt', _, lines) => decide (first + lines.length = n) && decide (dt' = dt) &&
        decide ((lines.length + 1) * b.length ≤ 0x80000) && decide (lines.length < 2047) &&
        decide ((lines.headD []).length = b.length)
  let s := if fits then s else closeLines s d i x
  let now := s.now64
  s.onCam d i fun r => { r with record := match r.record with
    | none => some (n, dt, now, [b])
    | some (first, dt', time, lines) => some (first, dt', time, lines ++ [b]) }

/-- The port delivers data: enabled by NET_CONFIG, its group not held (R446, R479). -/
def State.portLive (s : State) (d : DieId) (port : PortId) : Bool :=
  bit (byteAt (s.secD 0x11 0xFF d.1) (8 * port.1)) 7 && s.domLive (camDom d port.1)

/-- The frame that carries a wake, or comes while the group's data path is held, is discarded: its stream is INCOMPLETE in the next
frame that names it (R283, R479). -/
def wakingFrame (s : State) (k : CsiHdr) : State :=
  if s.dev = .replay || !bit (byteAt (s.secD 0x11 0xFF k.die.1) (8 * k.port.1)) 7 then s
  else match s.camSlot k.die k.port.1 k.vc.1 with
    | some (i, _) => s.onCam k.die i fun r => { r with woke := true }
    | none => s

/-- The header of a packet of `lines` lines: corrected or discarded (R266, R267); true when the packet goes on. -/
def packetHeader (s : State) (k : CsiHdr) (lines : Nat) : State × Bool :=
  if s.dev = .replay ∨ !diePresent s.part k.die then (s, false)
  else if k.ecc = .bad then
    let s := s.onCsi k.die k.port fun r => { r with eccDrop := sat32 r.eccDrop }
    match s.camSlot k.die k.port.1 k.vc.1 with
    | none => (s, false)
    | some (i, c) =>
      let x := s.camProf c k.die i
      (camRecord (closeLines s k.die i x) k.die x 4 0 s.now64 2 ((s.die k.die).cams.get i).received lines [], false)
  else
    let s := if k.ecc = .corrected then s.onCsi k.die k.port fun r => { r with eccCorr := sat32 r.eccCorr } else s
    if k.vcx then (s.onCsi k.die k.port fun r => { r with dtDrop := sat32 r.dtDrop }, false) else (s, true)

/-- The stream's context takes sensor frames: its profile's generation is current and it is STARTING or in RUN. -/
def State.camLive (s : State) (d : DieId) (i : Fin 32) (c : CtxId) : Bool :=
  ((s.die d).cams.get i).gen = (s.ctx c).gen && ((s.ctx c).state = .run || (s.ctx c).state = .starting)

/-- Line `n` and the ones after it until IN_H are absent (R181). -/
def absentLines (s : State) (d : DieId) (i : Fin 32) (count : Nat) : State :=
  let k := (s.die d).arrivals
  let s := s.onDie d fun x => { x with arrivals := k + count }
  s.onCam d i fun r => { r with
    received := r.received + count, waiting := r.waiting ++ (List.range count).map fun j => ⟨k + j, none⟩ }

/-- RAW_PASS streams bypass the Crushers: waiting lines are taken at once, a replaced one is counted (R174, R181). -/
def drainRaw : Nat → State → DieId → Fin 32 → State
  | 0, s, _, _ => s
  | n + 1, s, d, i =>
    match ((s.die d).cams.get i).waiting with
    | [] => s
    | l :: r =>
      let cru : Fin 2 := ⟨((((s.die d).cams.get i).ctx.map fun c => (s.camProf c d i).cru)).getD 0 % 2, Nat.mod_lt _ (by decide)⟩
      let s := if l.data.isSome then s else s.onCru d cru fun x => { x with lineSubst := sat32 x.lineSubst }
      drainRaw n (takeLine (s.onCam d i fun x => { x with waiting := r }) d i l.data) d i

/-- Takes the waiting lines of a RAW_PASS stream. -/
def passRaw (s : State) (d : DieId) (i : Fin 32) (x : StreamProf) : State :=
  if x.mode = 2 then drainRaw ((s.die d).cams.get i).waiting.length s d i else s

/-- A long packet lost with its header is an absent line of the open frame, in its place (R181, R267). -/
def lostLine (s : State) (d : DieId) (i : Fin 32) (x : StreamProf) : State :=
  let r := (s.die d).cams.get i
  if !r.frameOpen ∨ r.buf.isNone ∨ x.inH ≤ r.received then s.onCam d i fun y => { y with received := y.received + 1 }
  else passRaw (absentLines s d i 1) d i x

/-- Closes the frame of a stream (R266): lines that did not arrive are absent. -/
def camEnd (s : State) (d : DieId) (i : Fin 32) (x : StreamProf) : State :=
  let r := (s.die d).cams.get i
  if !r.frameOpen then s
  else
    let s := closeLines s d i x
    let s := if r.buf.isSome then absentLines s d i (x.inH - r.received) else s
    let s := s.onCam d i fun y => { y with frameOpen := false, ended := true }
    camFinish (passRaw s d i x) d i

/-- The Crusher takes the lines of a frame that still wait when the next frame of the stream starts (R181, log 40). -/
def drainCru : Nat → State → DieId → Fin 2 → Fin 32 → State
  | 0, s, _, _, _ => s
  | n + 1, s, d, cru, i => drainCru n (crushOne s d cru i) d cru i

/-- A skipped sensor frame adds 1 to GOLD_BEAD and writes no golden output (R310). -/
def skipGold (s : State) (d : DieId) (i : Fin 32) (c : CtxId) : State :=
  let r := (s.die d).cams.get i
  let x := s.camProf c d i
  let k := beadField x.goldBead
  if x.mode ≠ 1 ∨ !x.hasGold then s
  else fifoPush s d { ctx := c, gen := r.gen, writes := [], signal := some (k.1, k.2, 1), flow := false, profile := i.1, buf := r.last }

/-- A sensor frame finds both buffers held: it is skipped and counted (R55, R310). -/
def camOverrun (s : State) (d : DieId) (i : Fin 32) (c : CtxId) (x : StreamProf) : State :=
  let s := s.onCam d i fun r => { r with
    frameOpen := true, buf := none, overrun := true, recent := none, waiting := [], received := 0, ended := false }
  let s := event s (srcCsi d x.port) cOverrun (some (s.cg c)) 0
  skipGold (camRecord s d x 4 0 s.now64 1 0 1 []) d i c

/-- A buffer is opened for a sensor frame (R54, R268, R383); the golden tile runs before its first line (R183). -/
def camOpen (s : State) (d : DieId) (i : Fin 32) (c : CtxId) (x : StreamProf) (b : Fin 2) (time : U64) (seq : U32) :
    State :=
  let k := beadField (x.bead b.1)
  let s := s.setBead k.1 k.2 0
  let info : BufInfo := { opened := true, ts := time, recSeq := seq, recSrc := srcCsi d x.port }
  let s := s.onCam d i fun r => { r with
    frameOpen := true, buf := some b, last := b, recent := some b, waiting := [], taken := [], good := [], received := 0
    outLines := 0, ended := false, hashed := [], bufs := r.bufs.set b.1 info }
  runGold s d i c ((s.die d).cams.get i).gen b

/-- The frame of a stream starts: the one before is closed, a buffer is opened or the frame is skipped, and the arrival
event follows (R38, R54, R55, R266). -/
def camStart (s : State) (d : DieId) (i : Fin 32) (c : CtxId) (time : U64) (seq : U32) (skip : Bool) : State :=
  let x := s.camProf c d i
  let s := camEnd s d i x
  let s := drainCru ((s.die d).cams.get i).waiting.length s d ⟨x.cru % 2, Nat.mod_lt _ (by decide)⟩ i
  if x.mode = 0 ∨ !s.camLive d i c then s.onCam d i fun r => { r with frameOpen := true, buf := none, received := 0 }
  else
    let s := match s.nextBuf c false d i.1 ((s.die d).cams.get i).last, skip with
      | some b, false => camOpen s d i c x b time seq
      | _, _ => camOverrun s d i c x
    match s.streamOf c 1 d.1 i.1 with
    | some n => arrival s c n
    | none => s

/-- Bytes that wait in the buffer of a port: lines for the Crusher, and those of a RAW_PASS stream that a full FIFO stalls (R180,
R259). -/
def portBytes (s : State) (d : DieId) (port : Nat) : Nat :=
  sumN ((allFin 32).map fun i =>
    let r := (s.die d).cams.get i
    match r.ctx with
    | some c => if (s.camProf c d i).port ≠ port then 0
      else sumN (r.waiting.map fun l => (l.data.getD []).length) +
        (if (s.camProf c d i).mode = 2 then sumN (((s.die d).stalled.filter fun e => !e.flow && decide (e.profile = i.1)).map
          fun e => sumN (e.writes.map (·.2.length))) else 0)
    | none => 0)

/-- A line enters the port buffer: good, absent, beyond IN_H or dropped (R180, R181); the digest takes those of the profile's
type (R383). -/
def camLine (s : State) (d : DieId) (i : Fin 32) (x : StreamProf) (dt : Nat) (b : Bytes) (good drop : Bool) : State :=
  let r := (s.die d).cams.get i
  let cru : Fin 2 := ⟨x.cru % 2, Nat.mod_lt _ (by decide)⟩
  if !r.frameOpen ∨ r.buf.isNone then s.onCam d i fun y => { y with received := y.received + 1 }
  else
    let s := s.onCam d i fun y => { y with hashed := if dt = x.dt then y.hashed ++ b else y.hashed }
    if x.inH ≤ r.received then
      (s.onCru d cru fun y => { y with long := sat32 y.long }).onCam d i fun y => { y with received := y.received + 1 }
    else
      let k := (s.die d).arrivals
      let s := s.onDie d fun y => { y with arrivals := k + 1 }
      let s := s.onCam d i fun y => { y with
        received := y.received + 1, lostNext := false
        waiting := y.waiting ++ [⟨k, if good && !drop && !y.lostNext then some b else none⟩] }
      passRaw s d i x

/-- A type of R266 that is neither passed to a profile, nor embedded, nor user-defined, is counted. -/
def countType (s : State) (d : DieId) (port : PortId) (dt : BitVec 6) : State :=
  if dt.toNat = 0x12 ∨ (0x30 ≤ dt.toNat ∧ dt.toNat ≤ 0x37) then s
  else s.onCsi d port fun r => { r with dtDrop := sat32 r.dtDrop }

/-- A payload CRC error is counted (R267). -/
def countCrc (s : State) (d : DieId) (port : PortId) (crcOk : Bool) : State :=
  if crcOk then s else s.onCsi d port fun r => { r with crcErr := sat32 r.crcErr }

/-- A long packet of a virtual channel without a profile: the types that are not passed to one are recorded (R266, R389). -/
def loosePacket (s : State) (d : DieId) (port : PortId) (vc : Nat) (dt : BitVec 6) (b : Bytes) (crcOk : Bool) : State :=
  let s := countCrc s d port crcOk
  if profTypes.contains dt.toNat then s
  else countType (vcRecord s d port.1 vc 2 (if crcOk then 0 else 2) s.now64 dt.toNat 0 1 b) d port dt

/-- A long packet of a stream with a profile (R266, R267, R389). The types of R175 pass to the profile, and R181 judges the
line by its length and its CRC. -/
def camPacket (s : State) (d : DieId) (i : Fin 32) (c : CtxId) (dt : BitVec 6) (b : Bytes) (crcOk : Bool) : State :=
  let x := s.camProf c d i
  let port : PortId := ⟨x.port % 8, Nat.mod_lt _ (by decide)⟩
  let n := ((s.die d).cams.get i).received
  let s := countCrc s d port crcOk
  let odd := fun s : State => camRecord (closeLines s d i x) d x 2 (if crcOk then 0 else 2) s.now64 dt.toNat n 1 b
  if !profTypes.contains dt.toNat then countType (odd s) d port dt
  else
    let good := crcOk && decide (b.length = lineLen x.dt x.inW)
    let s := if good then tapLine s d i x n dt b else odd s
    let drop := (decide (x.mode = 1) || s.fifoFull d) && decide (65536 < portBytes s d x.port + b.length)
    let s := if !drop then s
      else
        let s := s.onCru d ⟨x.cru % 2, Nat.mod_lt _ (by decide)⟩ fun r => { r with portDrop := sat32 r.portDrop }
        camRecord (closeLines s d i x) d x 4 0 s.now64 0 n 1 []
    camLine s d i x dt.toNat b good drop

/-- A bit of `CSI_STATUS.VC_OPEN`; HS shows while a frame is open on the port (R292, log 52). -/
def vcMark (s : State) (k : CsiHdr) (v : Bool) : State :=
  s.onCsi k.die k.port fun r =>
    let o := if v then r.vcOpen ||| (1 <<< k.vc.1) else r.vcOpen &&& ~~~((1 : BitVec 4) <<< k.vc.1)
    { r with vcOpen := o, hs := decide (o ≠ 0) }

/-- Writes a CSI_SHORT record: FS 0, FE 1 (R389). -/
def tapShort (s : State) (d : DieId) (x : StreamProf) (fe : Nat) (time : U64) (frameNo : U16) : State :=
  recWrite s (.tap d) (srcCsi d x.port) 3 0 time (fe + x.vc * 2 ^ 6 + frameNo.toNat * 2 ^ 16) []

/-! ### Commands -/

/-- CSI_FRAME_START (R266, R268). -/
def execCsiFrameStart (k : CsiHdr) (frameNo : U16) (s : State) : Res :=
  let r := packetHeader s k 0
  let s' := if !s.portLive k.die k.port then wakingFrame s k else if !r.2 then r.1
    else
      let s := vcMark (r.1.onCsi k.die k.port fun y => { y with fsCnt := y.fsCnt + 1 }) k true
      match s.camSlot k.die k.port.1 k.vc.1 with
      | none => s
      | some (i, c) =>
        let x := s.camProf c k.die i
        let time := s.fsStamp k.die k.port
        let s := camEnd s k.die i x
        let seq := s.nextRecSeq (srcCsi k.die x.port)
        readOut s k.die [(c, ((s.die k.die).cams.get i).gen)] k.buffered
          (camStart (tapShort s k.die x 0 time frameNo) k.die i c time seq false)
  finish s s'

/-- CSI_FRAME_END (R266). -/
def execCsiFrameEnd (k : CsiHdr) (frameNo : U16) (s : State) : Res :=
  let r := packetHeader s k 0
  let s' := if !s.portLive k.die k.port then s else if !r.2 then r.1
    else
      let s := vcMark r.1 k false
      match s.camSlot k.die k.port.1 k.vc.1 with
      | none => s
      | some (i, c) =>
        let x := s.camProf c k.die i
        let time := s.fsStamp k.die k.port
        readOut s k.die [(c, ((s.die k.die).cams.get i).gen)] k.buffered
          (camEnd (tapShort (closeLines s k.die i x) k.die x 1 time frameNo) k.die i x)
  finish s s'

/-- CSI_LONG_PACKET (R266, R267). -/
def execCsiLongPacket (k : CsiHdr) (dt : BitVec 6) (payload : Bytes) (crcOk : Bool) (s : State) : Res :=
  let r := packetHeader s k 1
  let s' := if !s.portLive k.die k.port then s else if !r.2 then (match k.ecc, r.1.camSlot k.die k.port.1 k.vc.1 with
      | .bad, some (i, c) => if s.dev = .replay then r.1 else lostLine r.1 k.die i (s.camProf c k.die i)
      | _, _ => r.1)
    else match r.1.camSlot k.die k.port.1 k.vc.1 with
      | none => loosePacket r.1 k.die k.port k.vc.1 dt payload crcOk
      | some (i, c) => readOut r.1 k.die [(c, ((s.die k.die).cams.get i).gen)] k.buffered
        (camPacket r.1 k.die i c dt payload crcOk)
  finish s s'

end Sys2Proof.Machine
end

