-- ==== Sys2Proof/Machine/Lidar.lean ====
section
/-!
DEFINITION. Machine/Lidar.lean: the Ethernet MACs (R269 to R273), the flow parser (R274 to R280), its golden frames
(R282) and the FLOW records of the recorder tap (R390). ARP is that of the standard (log 13).
-/

namespace Sys2Proof.Machine

/-! ### Points (R277) -/

/-- ATN[i] (R277). -/
def atnTable : List Int :=
  [536870912, 316933406, 167458907, 85004756, 42667331, 21354465, 10679838, 5340245, 2670163, 1335087, 667544, 333772,
   166886, 83443, 41722, 20861, 10430, 5215, 2608, 1304, 652, 326, 163, 81]

/-- KC (R277). -/
def cordicGain : Int := 652032874

/-- One step of the rotation: x, y and the angle left. -/
def rotStep (v : Int × Int × Int) (i : Nat) : Int × Int × Int :=
  let xs := v.1 / (2 ^ i : Nat)
  let ys := v.2.1 / (2 ^ i : Nat)
  let a := atnTable.getD i 0
  if 0 ≤ v.2.2 then (v.1 - ys, v.2.1 + xs, v.2.2 - a) else (v.1 + ys, v.2.1 - xs, v.2.2 + a)

/-- (v cos a, v sin a) (R277). -/
def rot (v : Int) (a : Nat) : Int × Int :=
  let q := (a + 0x20000000) / 2 ^ 30 % 4
  let e := sgn 32 (twos 32 ((a : Int) - (q * 2 ^ 30 : Nat)))
  let r := (List.range 24).foldl rotStep (rneShr (v * cordicGain) 30, 0, e)
  match q with
  | 0 => (r.1, r.2.1)
  | 1 => (-r.2.1, r.1)
  | 2 => (-r.1, -r.2.1)
  | _ => (r.2.1, -r.1)

/-- Byte offset of block `b`. -/
def Template.blk (t : Template) (b : Nat) : Nat := t.hdrSkip + b * t.blkStride
/-- Byte offset of record `j` of block `b`. -/
def Template.record (t : Template) (b j : Nat) : Nat := t.blk b + t.recOff + j * t.recStride

/-- The place from which a field is measured: packet, block or record (R274). -/
def Template.place (t : Template) (f : Fd) (b j : Nat) : Nat :=
  match f.level with
  | 0 => 0
  | 1 => t.blk b
  | _ => t.record b j

/-- A field's value in record `j` of block `b`. -/
def Template.val (t : Template) (f : Fd) (pl : Bytes) (b j : Nat) : Int := f.read pl (t.place f b j)

/-- The fields that the template uses in a block. -/
def Template.usedFields (t : Template) : List Fd :=
  [t.fdRange, t.fdAz] ++ (if t.fdInt.level = 3 then [] else [t.fdInt]) ++ (if t.tflag 0 then [t.fdEl] else [])
    ++ (if t.tflag 1 then [t.fdCh] else []) ++ (if t.tflag 2 then [t.fdSweep] else [])
    ++ if t.tflag 3 then [t.fdTime] else []

/-- The block count of a packet; none when its field lies beyond the payload or is negative (R275). -/
def Template.blocks (t : Template) (pl : Bytes) : Option Nat :=
  if t.fdCount.level = 3 then some t.nblk
  else if pl.length < t.fdCount.off + t.fdCount.width then none
  else
    let v := t.fdCount.read pl 0
    if v < 0 then none else some v.toNat

/-- A packet is well formed: its blocks and their fields lie inside it (R275). -/
def Template.packetOk (t : Template) (pl : Bytes) (nb : Nat) : Bool :=
  decide (t.hdrSkip + nb * t.blkStride ≤ pl.length) && decide (t.recOff + t.nrec * t.recStride ≤ t.blkStride) &&
  (List.range nb).all fun b => t.usedFields.all fun f =>
    decide (t.place f b (t.nrec - 1) + f.off + f.width ≤ pl.length)

/-- A point before T_OFF: X, Y, Z, INTENSITY, CHANNEL; none for no return (R277). -/
def point (x : FlowProf) (t : Template) (pl : Bytes) (b j : Nat) : Option (Int × Int × Int × Nat × Nat) :=
  let raw := t.val t.fdRange pl b j
  let c := if t.tflag 1 then twos 8 (t.val t.fdCh pl b j) else j % 256
  let r := rneShr (raw * t.rMul) 16 + x.rOff c
  if raw = 0 ∨ r < ((t.rmin * 256 : Nat) : Int) ∨ ((2 ^ 31 : Nat) : Int) ≤ r then none
  else
    let az := twos 32 (t.val t.fdAz pl b j * t.azMul + x.azOff c)
    let el := if t.tflag 0 then twos 32 (t.val t.fdEl pl b j * t.elMul) else x.elev c
    let h := rot r el
    let p := rot h.1 az
    let axis (i : Nat) : Int :=
      satS 32 (rneShr (x.mnt (3 * i) * p.1 + x.mnt (3 * i + 1) * p.2 + x.mnt (3 * i + 2) * h.2) 22 + x.trans i)
    let inten := if t.fdInt.level = 3 then 0
      else twos 8 (min 255 (t.val t.fdInt pl b j / (2 ^ t.intSh : Nat)))
    some (axis 0, axis 1, axis 2, inten, c)

/-- A P16 record (R211). -/
def p16 (p : Int × Int × Int × Nat × Nat) (toff : Nat) : Bytes :=
  le 4 (twos 32 p.1) ++ le 4 (twos 32 p.2.1) ++ le 4 (twos 32 p.2.2.1) ++ le 1 p.2.2.2.1 ++ le 1 p.2.2.2.2 ++ le 2 toff

/-- The header of a sweep buffer (R279). -/
def sweepHeader (count nseen : Nat) (tRef : Bytes) (flags : Nat) (seq : Bytes) : Bytes :=
  le 4 count ++ le 4 nseen ++ tRef ++ le 4 flags ++ seq ++ zeros 40

/-! ### FLOW records (R390) -/

/-- Closes the open FLOW record of a MAC. -/
def closeFlow (s : State) (d : DieId) (m : MacId) : State :=
  match ((s.die d).mac.get m).record with
  | none => s
  | some (time, n, pl) =>
    recWrite (s.onMac d m fun x => { x with record := none }) (.tap d) (srcMac d m) 5 0 time n pl

/-- The tap takes a frame or a marker (R390). -/
def tapFlow (s : State) (d : DieId) (m : MacId) (time : U64) (estat idx : Nat) (b : Bytes) : State :=
  let size := 8 + (b.length + 7) / 8 * 8
  let s := match ((s.die d).mac.get m).record with
    | some (_, _, pl) => if 0x80000 < pl.length + size then closeFlow s d m else s
    | none => s
  s.onMac d m fun x =>
    let r := x.record.getD (time, 0, [])
    let e := le 2 b.length ++ le 1 estat ++ le 1 (idx % 64) ++ le 4 (twos 32 (tsDiff time r.1)) ++ padMul 8 b
    { x with record := some (r.1, r.2.1 + 1, r.2.2 ++ e) }

/-! ### Sweeps (R278, R279) -/

/-- A flow slot. -/
def State.flow (s : State) (d : DieId) (i : Fin 16) : FlowRt := (s.die d).flows.get i

/-- The sweep of a flow is INCOMPLETE; one event for each (R283). -/
def flowIncomplete (s : State) (d : DieId) (i : Fin 16) : State :=
  let r := s.flow d i
  if !r.sweepOpen || r.incomplete then s
  else
    let s := s.onFlow d i fun x => { x with
      incomplete := true, bufs := match x.buf with
        | some b => setBuf x.bufs b fun y => { y with incomplete := true }
        | none => x.bufs }
    match r.ctx with
    | some c => event s (srcMac d ⟨(s.flowProf c d i).mac % 4, Nat.mod_lt _ (by decide)⟩) cStreamInc (some (c, r.gen)) 0
    | none => s

/-- Closes the sweep of a flow: header, then the increment that brings the bead to 65,536 (R279); the digest is final
(R383). -/
def closeSweep (s : State) (d : DieId) (i : Fin 16) (timeout : Bool) : State :=
  let s := if timeout then flowIncomplete s d i else s
  let r := s.flow d i
  match r.sweepOpen, r.buf, r.ctx with
  | true, some b, some c =>
    let x := s.flowProf c d i
    let k := beadField (x.bead b.1)
    let trunc := r.nseen - r.count
    let hdr := sweepHeader r.count r.nseen (le 8 r.tRef.toNat) (b2n r.incomplete + 2 * b2n (trunc ≠ 0) + 4 * b2n timeout)
      (le 4 r.sweepSeq.toNat)
    let s := fifoPush s d { ctx := c, gen := r.gen, writes := [((x.dst b.1).addr, hdr)]
                            signal := some (k.1, k.2, 65536 - r.increments), flow := true, profile := i.1, buf := b }
    s.onFlow d i fun y => { y with
      sweepOpen := false, buf := none, sweepSeq := y.sweepSeq + 1
      bufs := setBuf y.bufs b fun z => { z with digest := some (sha256 y.hashed), truncated := BitVec.ofNat 32 trunc } }
  | true, _, _ => s.onFlow d i fun y => { y with sweepOpen := false, buf := none, sweepSeq := y.sweepSeq + 1 }
  | false, _, _ => s

/-- The golden frames of a flow run: a sweep buffer at GOLD_DST, then GOLD_BEAD (R282). Their receive times and the
sweep number are not stated: free bytes. -/
def runGoldFlow (s : State) (d : DieId) (i : Fin 16) (c : CtxId) (gen : BitVec 12) (b : Fin 2) : State :=
  let x := s.flowProf c d i
  if x.goldNfr = 0 then s
  else
    let t := s.template d x.template
    let good := (goldFrames s.peek x.goldNfr x.goldSrc.addr).filterMap fun pl =>
      match t.blocks pl with
      | some nb => if t.packetOk pl nb then some (pl, nb) else none
      | none => none
    let time0 := ((good.head?).map fun e => t.val t.fdTime e.1 0 0).getD 0
    let pts := good.flatMap fun e => (List.range e.2).flatMap fun b => (List.range t.nrec).filterMap fun j =>
      (point x t e.1 b j).map fun p =>
        p16 p (if t.tflag 3 then min 65535 (twos 32 (t.val t.fdTime e.1 b j - time0)) else 0)
    let n := min pts.length x.maxPts
    let free := (List.range 12).map fun j => Config.goldByte (s.free + j)
    let hdr := sweepHeader n pts.length (free.take 8) (2 * b2n (n ≠ pts.length)) (free.drop 8)
    let k := beadField x.goldBead
    let s := { s with free := s.free + 12 }
    let s := s.onFlow d i fun y => { y with bufs := setBuf y.bufs b fun z => { z with golden := true } }
    fifoPush s d { ctx := c, gen := gen, writes := [(x.goldDst.addr, hdr ++ (pts.take n).flatten)]
                   signal := some (k.1, k.2, 1), flow := true, profile := i.1, buf := b }

/-- A skipped sweep adds 1 to GOLD_BEAD and writes no golden output (R310). -/
def skipGoldFlow (s : State) (d : DieId) (i : Fin 16) (c : CtxId) : State :=
  let r := s.flow d i
  let x := s.flowProf c d i
  let k := beadField x.goldBead
  if x.goldNfr = 0 then s
  else fifoPush s d { ctx := c, gen := r.gen, writes := [], signal := some (k.1, k.2, 1), flow := true, profile := i.1, buf := r.last }

/-- The MAC's flow table has an entry with RECORD set. -/
def State.macRecords (s : State) (d : DieId) (m : MacId) : Bool :=
  ((s.die d).mac.get m).table.any fun e => bit (byteAt e 6) 0 && bit (byteAt e 6) 2

/-- A sweep starts: the previous one closes, a buffer is opened or the sweep is skipped, the arrival event follows
(R38, R54, R55, R278). Where the MAC records, an overrun leaves a marker behind the FLOW record that ends with its frame (R379,
R389; log 41). -/
def openSweep (s : State) (d : DieId) (i : Fin 16) (c : CtxId) (m : MacId) (h : HeldFrame) (time0 : U32) : State :=
  let s := closeFlow (closeSweep s d i false) d m
  let r := s.flow d i
  let fresh (b : Option (Fin 2)) (s : State) : State := s.onFlow d i fun y => { y with
    sweepOpen := true, parsing := true, buf := b, recent := b, count := 0, nseen := 0, increments := 0, tRef := h.time, time0 := time0
    incomplete := false, hashed := [] }
  let s := match s.nextBuf c true d i.1 r.last, h.skip with
    | some b, false =>
      let k := beadField ((s.flowProf c d i).bead b.1)
      let info : BufInfo := { opened := true, ts := h.time, recSeq := h.seq, recSrc := srcMac d m }
      let s := (fresh (some b) (s.setBead k.1 k.2 0)).onFlow d i fun y => { y with last := b, bufs := y.bufs.set b.1 info }
      runGoldFlow s d i c r.gen b
    | _, _ =>
      let s := (fresh none s).onFlow d i fun y => { y with overrun := true }
      let s := event s (srcMac d m) cOverrun (some (s.cg c)) 0
      let s := if s.macRecords d m then recWrite s (.tap d) (srcMac d m) 4 0 s.now64 (1 + i.1 * 2 ^ 8 + 2 ^ 21) [] else s
      skipGoldFlow s d i c
  match s.streamOf c 2 d.1 i.1 with
  | some n => arrival s c n
  | none => s

/-- T_OFF of a point and whether it saturates (R280). -/
def pointTime (r : FlowRt) (t : Template) (pl : Bytes) (b j : Nat) (time : U64) : Nat × Bool :=
  let v := if t.tflag 3 then twos 32 (t.val t.fdTime pl b j - r.time0.toNat)
    else (tsDiff time r.tRef / 1000).toNat
  (min 65535 v, decide (65535 < v))

/-- A point enters the sweep: written while the buffer has room, with a progress increment after SIG_POINTS (R279). -/
def putPoint (s : State) (d : DieId) (i : Fin 16) (c : CtxId) (m : MacId) (t : Template) (pl : Bytes) (b j : Nat)
    (time : U64) (p : Int × Int × Int × Nat × Nat) : State :=
  let r := s.flow d i
  let x := s.flowProf c d i
  let o := pointTime r t pl b j time
  let s := if r.sweepOpen && o.2 then s.onMac d m fun y => { y with toffSat := sat32 y.toffSat } else s
  match r.sweepOpen, r.buf with
  | true, some buf =>
    if x.maxPts ≤ r.count then s.onFlow d i fun y => { y with nseen := y.nseen + 1 }
    else
      let k := beadField (x.bead buf.1)
      let sig := decide ((r.count + 1) % x.sigPoints = 0)
      let s := s.onMac d m fun y => { y with pts := y.pts + 1 }
      let s := fifoPush s d { ctx := c, gen := r.gen, writes := [((x.dst buf.1).addr + 64 + 16 * r.count, p16 p o.1)]
                              signal := if sig then some (k.1, k.2, 1) else none, flow := true, profile := i.1, buf := buf }
      s.onFlow d i fun y => { y with count := y.count + 1, nseen := y.nseen + 1, increments := y.increments + b2n sig }
  | _, _ => s

/-- A sweep starts at this block (R278). -/
def sweepStarts (r : FlowRt) (t : Template) (pl : Bytes) (b : Nat) : Bool :=
  if t.tflag 2 then
    decide (b = 0) && (match r.prevSweep with
      | some v => decide (v.toNat ≠ twos 32 (t.val t.fdSweep pl 0 0))
      | none => false)
  else match r.prevAz with
    | some v => decide (twos 32 (t.val t.fdAz pl b 0 * t.azMul - t.sweepAz) < v.toNat)
    | none => false

/-- A frame is hashed into the sweep that it belongs to (R383). -/
def hashFlow (s : State) (d : DieId) (i : Fin 16) (pl : Bytes) : State :=
  s.onFlow d i fun y => { y with hashed := if y.sweepOpen then y.hashed ++ le 2 pl.length ++ pl else y.hashed }

/-- A block of a packet: a sweep may start at it, then its points follow; after STARTING parsing waits for the first sweep start
(R277, R278, R290). -/
def flowBlock (d : DieId) (i : Fin 16) (c : CtxId) (m : MacId) (t : Template) (h : HeldFrame) (s : State) (b : Nat) : State :=
  let pl := h.payload
  let start := sweepStarts (s.flow d i) t pl b
  let s := if start then
      hashFlow (openSweep s d i c m h (BitVec.ofNat 32 (twos 32 (t.val t.fdTime pl b 0)))) d i pl
    else if b = 0 then hashFlow s d i pl else s
  let s := s.onFlow d i fun y => { y with
    prevAz := some (BitVec.ofNat 32 (twos 32 (t.val t.fdAz pl b 0 * t.azMul - t.sweepAz)))
    prevSweep := some (BitVec.ofNat 32 (twos 32 (t.val t.fdSweep pl 0 0))) }
  if !(s.flow d i).parsing then s
  else (List.range t.nrec).foldl (fun s j =>
    match point (s.flowProf c d i) t pl b j with
    | none => s.onMac d m fun y => { y with noret := sat32 y.noret }
    | some p => putPoint s d i c m t pl b j h.time p) s

/-- The context takes sensor frames of this flow. -/
def State.flowLive (s : State) (d : DieId) (i : Fin 16) (c : CtxId) : Bool :=
  (s.flow d i).gen = (s.ctx c).gen && ((s.ctx c).state = .run || (s.ctx c).state = .starting)

/-- The parser takes the UDP payload of a frame of a flow (R275, R277). -/
def parseFlow (s : State) (d : DieId) (m : MacId) (h : HeldFrame) : State :=
  let i := h.flow
  let pl := h.payload
  match (s.flow d i).ctx with
  | none => s
  | some c =>
    if !s.flowLive d i c then s
    else
      let t := s.template d (s.flowProf c d i).template
      let bad := flowIncomplete (s.onMac d m fun y => { y with malformed := sat32 y.malformed }) d i
      match t.blocks pl with
      | none => bad
      | some nb =>
        if !t.packetOk pl nb then bad
        else (List.range nb).foldl (flowBlock d i c m t h) s

/-! ### The MAC (R269 to R273) -/

/-- NET_CONFIG of a die, the part of a MAC (R446). -/
def State.macCfg (s : State) (d : DieId) (m : MacId) : Bytes := slice (s.secD 0x11 0xFF d.1) (0x40 + 64 * m.1) 64

/-- The frame's FCS and length are good (R269, R270). -/
def fcsOk (f : Bytes) : Bool :=
  decide (64 ≤ f.length) && decide (f.length ≤ 9216) &&
  decide ((crc32 (f.take (f.length - 4))).toNat = fld f (f.length - 4) 4)

/-- The destination address is accepted (R270 step 2). -/
def State.destOk (s : State) (d : DieId) (m : MacId) (a : Bytes) : Bool :=
  let cfg := s.macCfg d m
  a == s.station d m || a == List.replicate 6 0xFF || a == [0x01, 0x80, 0xC2, 0x00, 0x00, 0x0E] ||
  (List.range (min 8 (byteAt cfg 1))).any fun i => a == slice cfg (16 + 6 * i) 6

/-- Ones' complement sum of 16-bit big-endian words. -/
def inetSum (b : Bytes) : Nat :=
  let s := sumN ((List.range ((b.length + 1) / 2)).map fun i => unbe (slice b (2 * i) 2))
  let s := s / 65536 + s % 65536
  s / 65536 + s % 65536

/-- The IPv4 packet passes step 4 of R270: header checksum, no fragment, UDP checksum when it is not zero. -/
def ipOk (ip : Bytes) : Bool :=
  let ihl := 4 * (byteAt ip 0 % 16)
  let total := unbe (slice ip 2 2)
  let udp := slice ip ihl (total - ihl)
  decide (byteAt ip 0 / 16 = 4) && decide (20 ≤ ihl) && decide (ihl ≤ total) && decide (total ≤ ip.length) &&
  decide (inetSum (slice ip 0 ihl) = 0xFFFF) && decide (unbe (slice ip 6 2) % 0x4000 = 0) &&
  (decide (byteAt ip 9 ≠ 17) || (decide (8 ≤ udp.length) && decide (8 ≤ unbe (slice udp 4 2)) &&
    decide (unbe (slice udp 4 2) ≤ udp.length) &&
    (decide (unbe (slice udp 6 2) = 0) ||
      decide (inetSum (slice ip 12 8 ++ be 2 17 ++ slice udp 4 2 ++ slice udp 0 (unbe (slice udp 4 2))) = 0xFFFF))))

/-- The UDP datagram of an IPv4 packet; none for another protocol: source address, destination port, payload. -/
def udpOf (ip : Bytes) : Option (Bytes × Nat × Bytes) :=
  let ihl := 4 * (byteAt ip 0 % 16)
  let udp := ip.drop ihl
  if byteAt ip 9 ≠ 17 then none
  else some (slice ip 12 4, unbe (slice udp 2 2), slice udp 8 (unbe (slice udp 4 2) - 8))

/-- The first entry of the flow table that matches: index, ACTION and PROFILE (R273). -/
def State.flowMatch (s : State) (d : DieId) (m : MacId) (src : Bytes) (port : Nat) : Option (Nat × Nat × Nat) :=
  let tab := ((s.die d).mac.get m).table
  (List.range 64).findSome? fun k =>
    let e := (tab[k]?).getD []
    let a := byteAt e 6
    if bit a 0 && (bit a 3 || slice e 0 4 == src) && decide (fld e 4 2 = port) then some (k, a, byteAt e 7 % 16) else none

/-- EtherType and the bytes after it, past one 802.1Q tag (R269). -/
def etherOf (f : Bytes) : Nat × Bytes :=
  let b := f.take (f.length - 4)
  if unbe (slice b 12 2) = 0x8100 then (unbe (slice b 16 2), b.drop 18) else (unbe (slice b 12 2), b.drop 14)

/-- The entry that a frame would match, its payload with it. -/
def State.frameEntry (s : State) (d : DieId) (m : MacId) (f : Bytes) : Option ((Nat × Nat × Nat) × Bytes) :=
  let e := etherOf f
  if e.1 ≠ 0x0800 ∨ !ipOk e.2 then none
  else match udpOf e.2 with
    | none => none
    | some (src, port, pl) => (s.flowMatch d m src port).map fun k => (k, pl)

/-- An ARP request goes to the SVP, which answers for the MAC's address alone; any other ARP frame is one that is not IPv4
(R270, log 13). -/
def answerArp (s : State) (d : DieId) (m : MacId) (p : Bytes) : State :=
  let ip := slice (s.macCfg d m) 4 4
  if unbe (slice p 6 2) = 1 && slice p 24 4 == ip then
    let a := s.station d m
    let r := slice p 8 6 ++ a ++ be 2 0x0806 ++ be 2 1 ++ be 2 0x0800 ++ [6, 4] ++ be 2 2 ++ a ++ ip ++ slice p 8 6 ++ slice p 14 4
    s.emit (.eth d m (withCrc32 (padTo 60 r)))
  else if unbe (slice p 6 2) = 1 then s
  else s.onMac d m fun x => { x with noMatchCnt := sat32 x.noMatchCnt }

/-- Flow profiles of a MAC. -/
def State.flowsOfMac (s : State) (d : DieId) (m : MacId) : List (Fin 16) :=
  (allFin 16).filter fun i => match (s.flow d i).ctx with
    | some c => decide ((s.flowProf c d i).mac = m.1)
    | none => false

/-- An FCS error (R270 step 1). -/
def fcsError (s : State) (d : DieId) (m : MacId) (time : U64) : State :=
  let s := s.onMac d m fun x => { x with fcsErr := sat32 x.fcsErr }
  let s := if s.macRecords d m then tapFlow s d m time 1 0 [] else s
  (s.flowsOfMac d m).foldl (fun s i => flowIncomplete s d i) s

/-- The size of a MAC's receive buffer (R281). -/
def rxBufSize : Nat := 0x40000

/-- The receive buffer cannot take a frame of `n` bytes: the parser stalls behind a full ingress FIFO (R259, R281). -/
def State.rxFull (s : State) (d : DieId) (m : MacId) (n : Nat) : Bool :=
  let h := ((s.die d).mac.get m).held
  (s.fifoFull d || !h.isEmpty) && decide (rxBufSize < sumN (h.map fun e => e.payload.length) + n)

/-- The parser takes a payload, or the receive buffer holds it while the parser stalls (R259). -/
def flowFrame (s : State) (d : DieId) (m : MacId) (h : HeldFrame) : State :=
  if s.fifoFull d || !((s.die d).mac.get m).held.isEmpty then s.onMac d m fun x => { x with held := x.held ++ [h] }
  else parseFlow s d m h

/-- The parser takes what the receive buffer holds until the FIFO is full again (R259). -/
def releaseHeld : Nat → State → DieId → MacId → State
  | 0, s, _, _ => s
  | n + 1, s, d, m =>
    match ((s.die d).mac.get m).held with
    | [] => s
    | e :: r => if s.fifoFull d then s
      else releaseHeld n (parseFlow (s.onMac d m fun x => { x with held := r }) d m e) d m

/-- A frame that finds the receive buffer full (R281). -/
def rxDrop (s : State) (d : DieId) (m : MacId) (f : Bytes) (time : U64) : State :=
  let s := s.onMac d m fun x => { x with rxDrop := sat32 x.rxDrop }
  match s.frameEntry d m f with
  | some ((k, a, p), _) =>
    let s := if bit a 2 then tapFlow s d m time 2 k [] else s
    if bit a 1 then flowIncomplete s d ⟨p % 16, Nat.mod_lt _ (by decide)⟩ else s
  | none => s

/-- A frame that passed the FCS check (R270 steps 2 to 5, R273, R281). -/
def macFrame (s : State) (d : DieId) (m : MacId) (f : Bytes) (time : U64) (full : Bool) (skip : Bool := false) : State :=
  let e := etherOf f
  if full || s.rxFull d m f.length then rxDrop s d m f time
  else if !s.destOk d m (f.take 6) then s
  else if e.1 = 0x88F7 then gptpReceive s d m e.2
  else if e.1 = 0x0806 then answerArp s d m e.2
  else if e.1 ≠ 0x0800 then s.onMac d m fun x => { x with noMatchCnt := sat32 x.noMatchCnt }
  else if !ipOk e.2 then s.onMac d m fun x => { x with malformed := sat32 x.malformed }
  else match s.frameEntry d m f with
    | none => s.onMac d m fun x => { x with noMatchCnt := sat32 x.noMatchCnt }
    | some ((k, a, p), pl) =>
      let s := if bit a 2 then tapFlow s d m time 0 k (f.take (f.length - 4)) else s
      if bit a 1 then flowFrame s d m ⟨⟨p % 16, Nat.mod_lt _ (by decide)⟩, pl, time, s.nextRecSeq (srcMac d m), skip⟩ else s

/-! ### Commands -/

/-- The contexts whose frames a FLOW record of a MAC holds: those with a flow profile there. -/
def State.macCtxs (s : State) (d : DieId) (m : MacId) : List (CtxId × BitVec 12) :=
  ((s.flowsOfMac d m).filterMap fun i => (s.flow d i).ctx.map fun c => (c, (s.flow d i).gen)).dedup

/-- ETH_FRAME_RECEIVE (R270); live ports are disabled in REPLAY (R397), the 802.1AS engine too (R398). -/
def execEthFrameReceive (die : DieId) (mac : MacId) (frame : Bytes) (buf : RxBuffers) (s : State) : Res :=
  let time := s.rxStamp die mac
  let s' := if s.dev = .replay ∨ !diePresent s.part die ∨ !s.domLive (ethDom die) ∨ byteAt (s.macCfg die mac) 0 % 128 = 0 then s
    else readOut s die (s.macCtxs die mac) buf.buffered
      (if !fcsOk frame then fcsError s die mac time else macFrame s die mac frame time buf.full)
  finish s s'

/-- SWEEP_TIMEOUT (R278). -/
def execSweepTimeout (die : DieId) (profile : Fin 16) (s : State) : Res := finish s (closeSweep s die profile true)

/-- FLOW_RECORD_TIMEOUT (R390). -/
def execFlowRecordTimeout (die : DieId) (k : FlowClose) (s : State) : Res :=
  finish s (readOut s die (s.macCtxs die k.mac) k.buffered (closeFlow s die k.mac))

end Sys2Proof.Machine
end

