-- ==== Sys2Proof/Machine/Fabric.lean ====
section
/-!
DEFINITION. Machine/Fabric.lean: transactions at their destination (R30, R32, R255, R256), scrubbing (R242, R248 to
R250, R529), calibration (R247) and the drain of the ingress FIFO (R259).
-/

namespace Sys2Proof.Machine

/-! ### The Haul road -/

/-- A write at its destination, in the Ledge of a leading core that of the trailing one too (R336): a part of an uncorrectable
word is dropped, and the word's fault raised (R529). -/
def writeHere (s : State) (cg : CtxId × BitVec 12) (a : Nat) (b : Bytes) : State :=
  let ws := mirrorPair s [(a, b)]
  let bad := s.badOfWrites ws
  let s := s.commit cg ws
  match bad with
  | some k => raiseRun s (ueFlt s.part k) (some cg)
  | none => s

/-- A transaction at its destination: the link it came over, CRC, generation, regions, isolation, then its effect (R14,
R29, R32, R35, R256). -/
def haul (s : State) (t : HaulTxn) : State :=
  let cg := some (t.ctx, t.gen)
  let w : Who := { ctx := t.ctx, gen := t.gen, part := 0, core := none, src := t.src, detail := 0, arrived := true }
  if t.link.isSome then (t.link.map fun l => linkFails s l cg).getD s
  else if !t.crcOk then raiseCode s t.src cXportCrc cg t.addr.toNat
  else if t.gen ≠ (s.ctx t.ctx).gen then staleDrop s t.ctx
  else if t.write then
    match s.storeAt w t.addr.toNat t.data.length with
    | .error f => raiseRun s f cg
    | .ok a => writeHere s (t.ctx, t.gen) a t.data
  else match s.load w t.addr.toNat t.len with
    | .error f => raiseRun s f cg
    | .ok _ => s

/-- HAUL_TRANSACTION (R255). -/
def execHaulTransaction (t : HaulTxn) (s : State) : Res := finish s (haul s t)

/-! ### Scrubbing -/

/-- What a read of a word finds: a word that was uncorrectable stays so (R529). -/
def State.found (s : State) (a : Nat) (f : Finding) : Finding := if s.bad.contains (a / 8 * 8) then .double else f

/-- The context that owns an address by its regions, in ID order. -/
def State.ownerOf (s : State) (a : Nat) : Option CtxId :=
  (allFin 16).find? fun c => (s.regions c).any fun r => decide (r.base ≤ a) && decide (a < r.base + r.size)

/-- The owner of an SRAM word: the last writer of a Ledge line, the owner of a Stockpile region (R242). -/
def State.sramOwner (s : State) (a : Nat) : Option (CtxId × BitVec 12) :=
  match target a with
  | .ledge _ => (s.lineOwner.find? fun e => decide (e.1 = a / 32)).map fun e => (e.2.1, e.2.2)
  | _ => (s.ownerOf a).map s.cg

/-- A word that no context owns gets zero with fresh check bits; the event is counted and recorded (R242, R250). -/
def zeroWord (s : State) (a : Nat) : State :=
  let k := a / 8 * 8
  let f := ueFlt s.part k
  let s := event (noteUe s k) f.src f.code none f.detail
  { s with mem := memPut 0 s.mem k (zeros 8), bad := s.bad.filter (· ≠ k) }

/-- An uncorrectable word found by a scrubber and owned by a context (R239, R241, R244). -/
def ownedUe (s : State) (a : Nat) (o : CtxId × BitVec 12) : State :=
  let k := a / 8 * 8
  raiseRun { s with bad := (k :: s.bad).dedup } (ueFlt s.part k) (some o)

/-- A scrub read of a Ledge or a Stockpile: the scrubber goes on behind the word (R242). -/
def sramScrub (s : State) (a : Nat) (f : Finding) : State :=
  let here := match target a with
    | .ledge i => !s.inReset (partOfCore i) && !s.isFenced i && !s.domIsDown (0x10 + i.1)
    | .stock j => !s.domIsDown (0x20 + j.1)
    | _ => false
  let s := match target a with
    | .ledge i => if here then s.onCore i fun x => { x with scrubAt := BitVec.ofNat 24 (a + 8) } else s
    | _ => s
  if !here then s
  else match s.found a f with
    | .clean => s
    | .single => noteCe s a (s.sramOwner a)
    | .double => match s.sramOwner a with
      | some o => ownedUe s a o
      | none => zeroWord s a

/-- SRAM_SCRUB (R242). -/
def execSramScrub (addr : Nat) (finding : Finding) (s : State) : Res := finish s (sramScrub s addr finding)

/-- The mirror of a region covers an address: it lies at the same offset of the mirror partition's window (log 22). -/
def mirrorCovers (r : Region) (a : Nat) : Bool :=
  match target r.base with
  | .dram p =>
    let b := 0x1000000000 * (r.mirrorPart p).1 + r.base % 0x1000000000
    r.isWeights && decide (b ≤ a) && decide (a < b + r.size)
  | _ => false

/-- An address belongs to a weight mirror. -/
def State.inMirror (s : State) (a : Nat) : Bool :=
  (allFin 16).any fun c => (s.regions c).any fun r => mirrorCovers r a

/-- An address lies in the recorder region. -/
def State.inRecorder (s : State) (a : Nat) : Bool := s.recExt.any fun e => decide (e.1 ≤ a) && decide (a < e.1 + e.2 * mib)

/-- An uncorrectable word found by the scrubber of a stack, by the owner of its address (R250). -/
def dramUe (s : State) (k : StackId) (a : Nat) : State :=
  let w := a / 8 * 8
  match s.ownerOf a with
  | some c => ownedUe s a (s.cg c)
  | none =>
    let f := ueFlt s.part w
    if s.inMirror a then
      (event (noteUe { s with bad := (w :: s.bad).dedup } w) f.src f.code none f.detail).onMc k fun m => { m with mirrorBad := true }
    else if s.inRecorder a then
      let s := event (noteUe { s with bad := (w :: s.bad).dedup } w) f.src f.code none f.detail
      match s.blockOf a with
      | some n => setBlockFlag s n 4
      | none => s
    else (zeroWord s a).onMc k fun m => { m with freeUe := sat32 m.freeUe }

/-- A controller works: its stack is present, its partition not in reset, its domain not in RET or OFF (R12, R475). -/
def State.mcReady (s : State) (k : StackId) : Bool :=
  stackPresent s.part k && !s.inReset (partOfStack k) && !s.domIsDown (0x28 + k.1)

/-- DRAM_SCRUB (R248 to R250): a write-back that a foreground write raced with is dropped and changes nothing. -/
def execDramScrub (stack : StackId) (addr : Nat) (finding : Finding) (_raced : Bool) (passEnd : Bool) (s : State) : Res :=
  let here := match target addr with
    | .dram p => s.mcReady stack && decide (stackOf s.part p addr = stack) && !absentAt s.part addr && !s.inReset p
    | _ => false
  let s' := if !here then s
    else
      let s := match s.found addr finding with
        | .clean => s
        | .single => noteCe s addr ((s.ownerOf addr).map s.cg)
        | .double => dramUe s stack addr
      if passEnd then s.onMc stack fun m => { m with scrubPass := m.scrubPass + 1 } else s
  finish s s'

/-! ### Calibration (R247) -/

/-- A calibration window is open for a stack: an open TEST stage of a context with work on its partition, or no frame
of any context in flight on the partition. -/
def State.calWindow (s : State) (p : PartId) : Bool :=
  ((allFin 16).any fun c => s.touches c p && (allFin 32).any fun i => s.testOpen c i) ||
  !(allFin 16).any fun c => s.touches c p && (s.ctx c).frame.inFlight

/-- CAL_REQUEST (R247): the request is queued at the controller. -/
def execCalRequest (stack : StackId) (s : State) : Res :=
  finish s (if s.mcReady stack then s.onMc stack fun m => { m with calReq := true } else s)

/-- A slice of a round of 1 to 4 slices: it is over when the command ends, and the round has `slices` left. -/
def slice1 (s : State) (k : StackId) (slices : Fin 4) : State :=
  s.onMc k fun m =>
    let left := if m.calPend = 0 then BitVec.ofNat 4 slices.1 else m.calPend - 1
    { m with calPend := left, calReq := decide (left ≠ 0) }

/-- CAL_SLICE (R247): in a calibration window. -/
def execCalSlice (stack : StackId) (slices : Fin 4) (s : State) : Res :=
  let m := s.mcs.get stack
  finish s (if s.mcReady stack && m.calReq && s.calWindow (partOfStack stack) then slice1 s stack slices else s)

/-- CAL_FORCED_SLICE (R247): no window opened in time. -/
def execCalForcedSlice (stack : StackId) (slices : Fin 4) (s : State) : Res :=
  let m := s.mcs.get stack
  finish s (if s.mcReady stack && m.calReq then
      (slice1 s stack slices).onMc stack fun m => { m with calForced := sat32 m.calForced }
    else s)

/-! ### The ingress FIFO (R259) -/

/-- The stream of a FIFO item is INCOMPLETE for its buffer (R283). -/
def itemIncomplete (s : State) (d : DieId) (e : IffItem) : State :=
  let mark : BufInfo → BufInfo := fun y => { y with incomplete := true }
  let i : Fin 32 := ⟨e.profile % 32, Nat.mod_lt _ (by decide)⟩
  let j : Fin 16 := ⟨e.profile % 16, Nat.mod_lt _ (by decide)⟩
  let was := if e.flow then ((s.flow d j).bufs.get e.buf).incomplete else (((s.die d).cams.get i).bufs.get e.buf).incomplete
  if was then s
  else
    let s := if e.flow then s.onFlow d j fun x => { x with bufs := setBuf x.bufs e.buf mark }
      else s.onCam d i fun x => { x with bufs := setBuf x.bufs e.buf mark }
    event s (srcIff d) cStreamInc (some (e.ctx, e.gen)) 0

/-- The link from the FIFO's die to a device address, when it is down (R13, R29). -/
def State.fifoLink (s : State) (d : DieId) (a : Nat) : Option DieLink :=
  (target a).die.bind fun j => if s.linkDown.contains (ioLink d j) then some (ioLink d j) else none

/-- A write of the FIFO that does not take effect whole: a dead link, an isolated partition, an uncorrectable word. -/
def State.fifoBlocked (s : State) (d : DieId) (w : Nat × Bytes) : Bool :=
  (s.fifoLink d w.1).isSome || ((homePart w.1).map s.inReset).getD false || (s.badOfWrites [w]).isSome

/-- A write of the FIFO: lost at a dead link, discarded at an isolated partition, else made visible (R29, R30, R259, R529). -/
def fifoWrite (d : DieId) (e : IffItem) (s : State) (w : Nat × Bytes) : State :=
  match s.fifoLink d w.1, (homePart w.1).filter fun p => s.inReset p with
  | some l, _ => raiseFlt (itemIncomplete s d e) (linkFlt l) (some (e.ctx, e.gen))
  | none, some _ => isolatedDrop (itemIncomplete s d e) (endpointSrc s.part w.1) (e.ctx, e.gen)
  | none, none => writeHere s (e.ctx, e.gen) w.1 w.2

/-- The signal that follows the writes of an item: lost at a dead link, discarded at an isolated partition (R27, R29, R30). -/
def fifoSignal (s : State) (d : DieId) (e : IffItem) : State :=
  match e.signal with
  | none => s
  | some (p, i, n) =>
    if s.linkDown.contains (ioLink d (partDie p)) then raiseFlt s (linkFlt (ioLink d (partDie p))) (some (e.ctx, e.gen))
    else if s.inReset p then isolatedDrop s (srcBlock p) (e.ctx, e.gen)
    else s.addBead p i n

/-- The oldest item of the FIFO drains: an uncorrectable word of the FIFO discards it and faults its context; the bead is
signalled only when all its lines are visible (R27, R239, R259, R357). -/
def drainItem (s : State) (d : DieId) (e : IffItem) (f : Finding) : State :=
  let cg := some (e.ctx, e.gen)
  match f with
  | .double => raiseCode (itemIncomplete s d e) (srcIff d) cIffUe cg 0
  | _ =>
    let s := if f = .single then event s (srcIff d) cSramCe cg 0 else s
    if e.gen ≠ (s.ctx e.ctx).gen then staleDrop s e.ctx
    else
      let blocked := e.writes.any (s.fifoBlocked d)
      let s := e.writes.foldl (fifoWrite d e) s
      if blocked then s else fifoSignal s d e

/-- The stalled writers of a die go on when the FIFO has room, the receive buffers of its MACs among them (R259). -/
def releaseAll (s : State) (d : DieId) : State :=
  let s := s.onDie d fun x => x.refill x.stalled.length
  (allFin 4).foldl (fun s m => releaseHeld ((s.die d).mac.get m).held.length s d m) s

/-- INGRESS_FIFO_DRAIN (R259). -/
def execIngressFifoDrain (die : DieId) (finding : Finding) (s : State) : Res :=
  let s' := match (s.die die).fifo with
    | [] => s
    | e :: r => releaseAll (drainItem (s.onDie die fun x => { x with fifo := r }) die e finding) die
  finish s s'

end Sys2Proof.Machine
end

