-- ==== Sys2Proof/Machine/Mailcore.lean ====
section
/-!
DEFINITION. Machine/Mailcore.lean: the end of a mailbox command (R501, R502, R504).
-/

namespace Sys2Proof.Machine

/-- OK (R504). -/
def mbOk : Nat := 0
/-- PENDING. -/
def mbPending : Nat := 1
/-- BAD_CMD. -/
def mbBadCmd : Nat := 2
/-- BAD_ARG. -/
def mbBadArg : Nat := 3
/-- STATE. -/
def mbState : Nat := 4
/-- IN_USE. -/
def mbInUse : Nat := 5
/-- NOT_PERMITTED. -/
def mbNotPermitted : Nat := 6
/-- BUSY_EMERGENCY. -/
def mbEmergency : Nat := 7
/-- INVALID_IMAGE. -/
def mbInvalid : Nat := 8
/-- SEQ_OLD. -/
def mbSeqOld : Nat := 9
/-- TOO_LARGE. -/
def mbTooLarge : Nat := 10
/-- FLASH_ERROR. -/
def mbFlashError : Nat := 11
/-- PEERED. -/
def mbPeered : Nat := 12
/-- ABORTED. -/
def mbAborted : Nat := 13
/-- HOST_ABSENT. -/
def mbHostAbsent : Nat := 14
/-- CONFIG_ERROR. -/
def mbConfig : Nat := 15

/-- Bytes written into MBOX_DATA at an offset; offsets from 4,096 on are not stored (R502). -/
def mbPut (l : List (Nat × Byte)) (o : Nat) (b : Bytes) : List (Nat × Byte) :=
  l.filter (fun e => decide (e.1 < o)) ++
    ((List.range b.length).zip b).filterMap (fun e => if e.2 = 0 ∨ 4096 ≤ o + e.1 then none else some (o + e.1, e.2)) ++
    l.filter fun e => decide (o + b.length ≤ e.1)

/-- `n` bytes of MBOX_DATA at an offset. -/
def mbGet (l : List (Nat × Byte)) (o n : Nat) : Bytes := (List.range n).map fun i => keyGet 0 l (o + i)

/-- A TYPE 2 interrupt record (R497). -/
def mboxIrq (s : State) (tag : U16) (op status : Nat) (rsp : Bytes) : State :=
  svpIrq s 2 (le 2 tag.toNat ++ le 1 op ++ le 1 status ++ slice rsp 0 28)

/-- A command reaches STATE done: response, status, vector 17 and the TYPE 2 record (R501). -/
def mboxDone (s : State) (tag : U16) (op status : Nat) (rsp : Bytes) : State :=
  let s := s.onHst fun h => { h with
    tag := tag, state := 2, status := BitVec.ofNat 8 status, rspLen := BitVec.ofNat 13 rsp.length
    mbData := mbPut h.mbData 0 rsp }
  mboxIrq (msixSignal s 17) tag op status rsp

/-- The final status of a command that ended with PENDING (R501). -/
def mboxFinal (s : State) (tag : U16) (op status : Nat) : State :=
  mboxIrq (s.onHst fun h => { h with pend := h.pend.filter fun e => decide (e.tag ≠ tag ∨ e.op.toNat ≠ op) }) tag op status []

/-- A command whose effect goes on ends with PENDING (R501). -/
def mboxPend (s : State) (tag : U16) (op : Nat) (args : Bytes) : State :=
  mboxDone (s.onHst fun h => { h with pend := h.pend ++ [⟨tag, BitVec.ofNat 8 op, args⟩] }) tag op mbPending []

/-- A pending command by TAG and OPCODE. -/
def State.pending? (s : State) (tag : U16) (op : Nat) : Option PendCmd :=
  s.hst.pend.find? fun e => e.tag = tag && e.op.toNat = op

/-- CTX_STOP reports its status: the running command ends, or the pending one gets its final status (R501, R503). -/
def stopEnds (s : State) (tag : U16) (status : Nat) : State :=
  if (s.pending? tag 0x11).isSome then mboxFinal s tag 0x11 status
  else if s.hst.state = 1 ∧ s.hst.cmdTag = tag then mboxDone s tag 0x11 status []
  else s

end Sys2Proof.Machine
end

