-- ==== Sys2Proof/Machine/Manager.lean ====
section
/-!
DEFINITION. Machine/Manager.lean: the fabric manager and what a member does for it: joint starts and drains of contexts
with peers (R421, R423, R426 to R428, R431).
-/

namespace Sys2Proof.Machine

/-- Source ID of a ring port (R356). -/
def srcRing (p : RingPort) : U16 := srcId 2 0x14 (portNum p).1

/-- The device carries ring traffic: RING_EN and the bypass open (R407, R417). -/
def State.ringOn (s : State) : Bool := s.ringEn && !s.rng.bypass

/-- This device is the ring manager (R421). -/
def State.isMgr (s : State) : Bool := s.ringOn && s.rng.hasMgr && decide (s.rng.mgrId = s.rng.id)

/-- A ring ID as a member mask. -/
def idBit (i : BitVec 2) : BitVec 4 := (1 : BitVec 4) <<< i.toNat

/-- This device runs the context, and with peers. -/
def State.runsPeered (s : State) (c : CtxId) : Bool := s.hasCtx c && s.peers c ≠ 0

/-- The devices of a context with peers: PEERS and this device; for a context that this device does not run, those whose DIGEST
names it (R426, R427; log 29). -/
def State.jointMask (s : State) (c : CtxId) : BitVec 4 :=
  if s.runsPeered c then BitVec.ofNat 4 (s.peers c) ||| idBit s.rng.id
  else (s.rng.digests.filter fun e => decide (e.1 = c)).foldl (fun m e => m ||| idBit e.2.1) 0

/-- The generation of a context with peers as this device knows it: its own context's, else the one last started (R427). -/
def State.peerGen (s : State) (c : CtxId) : BitVec 12 := if s.runsPeered c then (s.ctx c).gen else s.rng.gens.get c

/-- Contexts with peers. -/
def State.peered (s : State) : List CtxId := (allFin 16).filter s.runsPeered

/-- A context that must go down: in RUN or STARTING. -/
def State.isUp (s : State) (c : CtxId) : Bool := (s.ctx c).state = .run || (s.ctx c).state = .starting

/-- Faults a context at the word of the manager: no CTX_FAIL goes back (R428 step 3). -/
def failQuiet (s : State) (c : CtxId) (code : U16) : State :=
  let t := faultCtx (reactCtx { s with rng := { s.rng with bypass := true } } c) c code false
  { t with rng := { t.rng with bypass := s.rng.bypass } }

/-- The image was not rejected for its tables or its lock-step contexts, and the weights of the context passed their check (R299,
R382, R489). -/
def State.imageRuns (s : State) (c : CtxId) : Bool :=
  !s.boot.badWgt.getLsbD c.1 && !s.hst.tablesBad && !s.hst.lksRefused

/-- The partitions that a context touches are in service, no device-scoped event holds it, and the image may run (R369,
R372). -/
def State.mayRun (s : State) (c : CtxId) : Bool :=
  s.canLoad c && !s.err.restart.contains c && (s.dev = .configured || s.dev = .run || s.dev = .degraded)
    && s.imageRuns c

/-- A context enters STARTING with the manager's generation (R427). -/
def peerStart (s : State) (c : CtxId) (gen : BitVec 12) : State :=
  let s := s.onRng fun r => { r with gens := r.gens.set c.1 gen }
  let x := s.ctx c
  if s.mayRun c && !x.peerHold && (x.state = .idle || (x.state = .faulted && s.autoRestart c)) then
    (tryStart (s.onCtx c fun x => { x with gen := gen - 1 }) c).2
  else s

/-- The DIGEST message of a member for a context: this device's own digests stand in State. -/
def State.progOf (s : State) (c : CtxId) (i : BitVec 2) : Option Bytes :=
  if i = s.rng.id then some (slice (s.boot.prog.get c) 0 32)
  else (s.rng.digests.find? fun e => e.1 = c && e.2.1 = i).map fun e => slice e.2.2.1 0 32

/-- The program digests of the devices of a context with peers, as the manager knows them. -/
def State.jointProgs (s : State) (c : CtxId) : List (Option Bytes) :=
  (((List.range 4).filter fun i => (s.jointMask c).getLsbD i).map (BitVec.ofNat 2)).map (s.progOf c)

/-- A context with peers waits to start: this device's own by its state, another one from two devices on (R427, R428; log 29). -/
def State.waitsJoint (s : State) (c : CtxId) : Bool :=
  let x := s.ctx c
  if s.runsPeered c then !x.peerHold && ((x.state = .idle && s.enabled c) || (x.state = .faulted && s.autoRestart c))
  else !s.rng.live.getLsbD c.1 && decide (2 ≤ (s.jointProgs c).length)

/-- The manager would start a context with peers: every device of its mask is a member and has sent its digests, no drain is
awaited, and the context waits to start (R427, R428). -/
def State.jointWanted (s : State) (c : CtxId) : Bool :=
  s.isMgr && decide (s.jointMask c &&& s.rng.members = s.jointMask c) && (s.rng.acks.find? fun e => e.1 = c).isNone &&
    s.waitsJoint c && !(s.jointProgs c).contains none

/-- The manager may start a context with peers now: a link of its own is up (R427). -/
def State.jointReady (s : State) (c : CtxId) : Bool :=
  s.jointWanted c && s.rng.ports.toList.any fun p => decide (p.state = .up)

/-- The manager starts a context with peers when every device of its mask is a member and the program digests agree;
else the context stays as it is, and a difference is recorded (R427). -/
def jointStart (s : State) (c : CtxId) : State :=
  let progs := s.jointProgs c
  if !s.jointReady c then s
  else if !progs.all (· = progs.headD none) then s.onRng fun r => { r with digestErr := true }
  else
    let g := s.rng.gens.get c + 1
    let s := mgmtSend s 3 none (startBody c g s.rng.members)
    if s.runsPeered c then peerStart s c g
    else s.onRng fun r => { r with gens := r.gens.set c.1 g, live := r.live ||| (1 <<< c.1) }

/-- The manager has every acknowledgement that it awaits: CTX_DRAINED, then START (R428 step 5). Devices that left are
not awaited (R374). -/
def drainedIf (s : State) (c : CtxId) : State :=
  match s.rng.acks.find? fun e => e.1 = c with
  | none => s
  | some e =>
    let want := s.jointMask c &&& s.rng.members
    if s.isMgr && decide (want &&& e.2 = want) then
      let s := s.onRng fun r => { r with
        acks := r.acks.filter fun a => decide (a.1 ≠ c), live := r.live &&& ~~~((1 : U16) <<< c.1) }
      let s := mgmtSend s 6 none (drainedBody c (s.peerGen c) e.2)
      jointStart (s.onCtx c fun x => { x with peerHold := false }) c
    else s

/-- A member's acknowledgement reaches the manager; a generation already drained is discarded (R428, R431). -/
def takeAck (s : State) (c : CtxId) (gen : BitVec 12) (src : BitVec 2) : State :=
  if !s.isMgr || gen ≠ s.peerGen c then s
  else
    let old := ((s.rng.acks.find? fun e => e.1 = c).map (·.2)).getD 0
    let s := s.onRng fun r => { r with acks := (c, old ||| idBit src) :: r.acks.filter fun a => decide (a.1 ≠ c) }
    drainedIf s c

/-- This device acknowledges the drain of a context with peers (R428 step 4). -/
def sendAck (s : State) (c : CtxId) : State :=
  let g := (s.ctx c).gen
  if !s.ringOn then s
  else if s.isMgr then takeAck s c g s.rng.id
  else mgmtSend s 5 (some s.rng.mgrId) (ackBody c g)

end Sys2Proof.Machine
end

