-- ==== Sys2Proof/Machine/Recovery.lean ====
section
/-!
DEFINITION. Machine/Recovery.lean: coalesced records, the end of a drain, of a partition reset and of a device-scoped
event, and the weight mirrors (R261, R355, R361, R362, R369, R370, R372).
-/

namespace Sys2Proof.Machine

/-! ### Restart (R361 step 6) -/

/-- A FAULTED context restarts now: auto-restart on, no peers, nothing holds it. -/
def State.restartable (s : State) (c : CtxId) : Bool :=
  (s.ctx c).state = .faulted && s.autoRestart c && decide (s.peers c = 0) && s.mayRun c

/-- Restarts a context when it may; one with peers that missed the manager's START follows it while every device of its mask is a
member, and the manager starts one that waited for this device (R369 step 8, R427). -/
def restart (s : State) (c : CtxId) : State :=
  if s.restartable c then (tryStart s c).2
  else if !s.runsPeered c || !s.ringOn then s
  else if (s.ctx c).state = .faulted && decide (s.rng.gens.get c ≠ (s.ctx c).gen) &&
      decide (s.jointMask c &&& s.rng.members = s.jointMask c) then peerStart s c (s.rng.gens.get c)
  else jointStart s c

/-- The replayed contexts enter STARTING and restore their saves, once every context is stopped (R397 step 2). -/
def startReplayed (s : State) : State :=
  if s.dev = .replay && s.rep.active && s.rep.stopping.isEmpty then
    s.rep.saves.foldl (fun s e =>
      if (s.ctx e.1).state = .idle then
        let r := if s.imageRuns e.1 then tryStart s e.1 else (false, s)
        if r.1 then ckptRestore r.2 e.1 else r.2
      else s) s
  else s

/-- An IDLE context starts as at boot: by this device, or by the manager where it has peers (R399, R452). -/
def bootStart (s : State) (c : CtxId) : State :=
  if s.dev = .replay || !s.enabled c || !s.mayRun c then s
  else if s.peers c = 0 then (tryStart s c).2
  else jointStart s c

/-- A context that the start or the end of a replay stopped is IDLE; what comes next depends on which of the two it was
(R397, R399). -/
def replayStopped (s : State) (c : CtxId) : State :=
  let s := toIdle s c
  let s : State := { s with rep := { s.rep with stopping := s.rep.stopping.filter fun x => decide (x ≠ c) } }
  startReplayed (bootStart s c)

/-- A drain is over: FAULTED or IDLE, CTX_DRAINED, and the restart (R361 steps 4 to 6). -/
def drained (s : State) (c : CtxId) (ns : U32) : State :=
  let s := event s srcAgg 0x0C05 (some (s.cg c)) ns.toNat
  if s.rep.stopping.contains c then replayStopped s c
  else match (s.ctx c).stopTag with
  | some tag => stopEnds (toIdle (s.onCtx c fun x => { x with stopTag := none }) c) tag mbOk
  | none =>
    let s := setCtxState s c .faulted
    if s.peers c ≠ 0 then sendAck s c else restart s c

/-! ### Weights (R260, R261) -/

/-- The weight regions that the image places in a partition, each once. -/
def State.weights (s : State) (p : PartId) : List Region :=
  ((allFin 16).flatMap fun c => (s.regions c).filter fun r => r.isWeights && decide (target r.base = .dram p)).foldl
    (fun l r => if l.any fun k => k.base = r.base then l else l ++ [r]) []

/-- The bytes of the section that initialises a region, cut or padded to its size. -/
def State.regionImage (s : State) (r : Region) : Bytes :=
  match s.img[r.sect]? with
  | some x => slice x.bytes 0 (min r.size x.bytes.length)
  | none => []

/-- The bytes that the mirror of a region holds (R260). -/
def State.mirrorOf (s : State) (r : Region) : Option Bytes := (s.mirrors.find? fun e => e.1 = r.base).map (·.2)

/-- The digests of the 1 MiB chunks of some bytes (R382). -/
def chunkDigests (b : Bytes) : Bytes :=
  (List.range ((b.length + mib - 1) / mib)).flatMap fun i => sha256 ((b.drop (mib * i)).take mib)

/-- Some bytes of a region match the chunk table of its weight set, entry by entry and as a whole (R382). -/
def State.chunksMatch (s : State) (r : Region) (b : Bytes) : Bool :=
  match s.img[r.sect]? with
  | none => false
  | some x => decide (s.secD 0x31 0xFF x.index.toNat = chunkDigests b)

/-- The shared read-only weight regions of a context, in image order. -/
def State.weightRegions (s : State) (c : CtxId) : List Region := (s.regions c).filter fun r => r.isWeights && decide (r.kind = 5)

/-- The weights digest of a context (R382). -/
def State.wgtDigest (s : State) (c : CtxId) : Bytes :=
  if s.hasCtx c then sha256 ((s.weightRegions c).flatMap fun r => chunkDigests (s.regionImage r)) else zeros 32

/-- The contexts whose weights fail their chunk table as they load (R382). -/
def State.badWeights (s : State) : BitVec 16 :=
  BitVec.ofNat 16 (sumN ((allFin 16).map fun c =>
    if (s.weightRegions c).all fun r => s.chunksMatch r (s.regionImage r) then 0 else 2 ^ c.1))

/-- Writes the primary copies of a partition's weights from boot memory; each chunk is checked as it arrives (R261, R382). -/
def loadWeights (s : State) (p : PartId) : State :=
  ((s.weights p).foldl (fun s r => svpWrite s r.base (s.regionImage r)) s).onBoot fun b => { b with
    badWgt := b.badWgt ||| s.badWeights }

/-- The copy of a region passes the check against the weights digest, which covers regions of kind 5 (R261, R382). -/
def State.copyOk (s : State) (r : Region) (b : Bytes) : Bool := decide (r.kind ≠ 5) || s.chunksMatch r b

/-- The mirror of a region can serve a restore: its partition is not in reset, no mirror there is invalid, and the copy passes
its check (R261). -/
def State.mirrorGood (s : State) (p : PartId) (r : Region) : Bool :=
  let q := r.mirrorPart p
  !s.inReset q && ((allFin 8).all fun k => partOfStack k ≠ q || !(s.mcs.get k).mirrorBad) &&
    ((s.mirrorOf r).map (s.copyOk r)).getD false

/-- Writes the primary copies of a partition's weights from their mirrors (R261). -/
def restoreWeights (s : State) (p : PartId) : State :=
  (s.weights p).foldl (fun s r => svpWrite s r.base ((s.mirrorOf r).getD [])) s

/-- The weight regions whose mirrors a partition keeps. -/
def State.mirrored (s : State) (q : PartId) : List Region :=
  (allFin 4).flatMap fun p => (s.weights p).filter fun r => decide (r.mirrorPart p = q)

/-- The mirrors in a partition are lost (R370). -/
def loseMirrors (s : State) (q : PartId) : State :=
  { s with mirrors := s.mirrors.filter fun e => !(s.mirrored q).any fun r => decide (r.base = e.1) }

/-- The mirrors in a partition are copied from their primaries (R260, R370, R451). -/
def copyMirrors (s : State) (q : PartId) : State :=
  let t := loseMirrors s q
  { t with mirrors := t.mirrors ++ (s.mirrored q).map fun r => (r.base, s.peek r.base (s.regionImage r).length) }

/-- Other partitions keep mirrors in this one. -/
def State.holdsMirrors (s : State) (p : PartId) : Bool :=
  (allFin 4).any fun q => q ≠ p && (s.weights q).any fun r => decide (r.mirrorPart q = p)

/-- The partition returns to service (R369 step 8, R370): its stacks are trained, mirrors kept in it are invalid until
recopied, PART_RESET_END is recorded, and the contexts that may run restart. -/
def backInService (s : State) (p : PartId) (us : U32) : State :=
  let bad := s.holdsMirrors p
  let s := loseMirrors s p
  let s := (allFin 8).foldl (fun s k => if partOfStack k = p ∧ stackPresent s.part k then
    s.onMc k fun m => { m with mirrorBad := bad } else s) s
  let s := s.onPart p fun x => { x with prt := { x.prt with state := .service, reload := false, svpWait := none, lastUs := us } }
  let r := (s.prt p).prt
  let s := event s srcAgg 0x0C03 none
    (p.1 + r.causeCode.toNat * 4 + r.causeSrc.toNat % 0x4000 * 2 ^ 18 + us.toNat * 2 ^ 32)
  ((allFin 16).filter fun c => s.touches c p).foldl restart s

/-- The stacks of a partition have retrained (R246). -/
def retrain (s : State) (p : PartId) : State :=
  (allFin 8).foldl (fun s k => if partOfStack k = p ∧ stackPresent s.part k then
    s.onMc k fun m => { m with present := true, trained := true } else s) s

/-! ### Commands -/

/-- COALESCE_FLUSH (R355). -/
def execCoalesceFlush (src code : U16) (ctx : Option CtxId) (s : State) : Res :=
  let s' := match s.err.coal.find? fun w => w.src = src && w.code = code && decide ((w.ctx.map (·.1)) = ctx) with
    | some w => writeCoal (s.onErr fun e => { e with coal := e.coal.filter fun x => decide (x ≠ w) }) w
    | none => s
  finish s s'

/-- DRAIN_COMPLETE (R361). -/
def execDrainComplete (c : CtxId) (drainNs : U32) (s : State) : Res :=
  finish s (if (s.ctx c).state = .draining then drained s c drainNs else s)

/-- DRAIN_TIMEOUT (R362): the partitions that hold a transaction of the context reset. A stop command that waits for
the drain goes on as a pending one (R501). -/
def execDrainTimeout (c : CtxId) (holders : BitVec 4) (s : State) : Res :=
  let s' := if (s.ctx c).state = .draining then
      let s := match (s.ctx c).stopTag with
        | some tag => if s.hst.state = 1 ∧ s.hst.cmdTag = tag then mboxPend s tag 0x11 [BitVec.ofNat 8 c.1] else s
        | none => s
      resetParts s srcAgg cDrainTimeout 0 (s.cg c) ((allFin 4).filter fun p => holders.getLsbD p.1)
    else s
  finish s s'

/-- The restore of a partition's weights waits for the SVP that restarts (R466). -/
def svpWait (s : State) (p : PartId) (us : U32) : State :=
  s.onPart p fun x => { x with prt := { x.prt with svpWait := some us } }

/-- The end of a partition reset (R369 steps 5 to 8): the SVP restores the weights, or with no mirror to restore from, the
partition waits for the reload from boot memory (R261). -/
def partResetEnd (s : State) (p : PartId) (us : U32) : State :=
  if s.inReset p && !(s.prt p).prt.reload then
    if !s.svpRuns then svpWait s p us else
    let s := retrain s p
    if (s.weights p).all fun r => s.mirrorGood p r then backInService (restoreWeights s p) p us
    else s.onPart p fun x => { x with prt := { x.prt with state := .restoring, reload := true, svpWait := none } }
  else s

/-- The weights of a partition that found no mirror are reloaded, and it returns to service (R261). -/
def weightReload (s : State) (p : PartId) (us : U32) : State :=
  if !(s.prt p).prt.reload then s
  else if !s.svpRuns then svpWait s p us
  else backInService (event (loadWeights s p) srcAgg 0x0C09 none 0) p us

/-- DEVICE_EVENT_RESTART (R372): the Tally is ready, and no second event put the device in SAFE state. -/
def execDeviceEventRestart (s : State) : Res :=
  let s' := if s.err.deviceAt.isSome && s.tly.ready && !s.tly.restarting && s.dev != .safe then
      let l := s.err.restart
      l.foldl restart (s.onErr fun e => { e with restart := [] })
    else s
  finish s s'

/-- MIRROR_RECOPY_COMPLETE (R370): the recopied mirror holds fresh check bits. -/
def execMirrorRecopyComplete (stack : StackId) (s : State) : Res :=
  let s' := if s.mcReady stack then
      let s := copyMirrors (s.onMc stack fun m => { m with mirrorBad := false }) (partOfStack stack)
      { s with bad := s.bad.filter fun k => !(decide (target k = .dram (partOfStack stack)) &&
          decide (stackOf s.part (partOfStack stack) k = stack) && s.inMirror k) }
    else s
  finish s s'

/-- PEER_DRAIN_TIMEOUT (R362): the context stays FAULTED until the manager reports the peer drained or removed. -/
def execPeerDrainTimeout (c : CtxId) (s : State) : Res :=
  let x := s.ctx c
  let s' := if s.peers c ≠ 0 && (x.state = .draining || x.state = .faulted) then
      s.onCtx c fun x => { x with peerHold := true }
    else s
  finish s s'

end Sys2Proof.Machine
end

