-- ==== Sys2Proof/Machine/Crash.lean ====
section
/-!
DEFINITION. Machine/Crash.lean: the firmware processors and their crash dumps (R454, R457).
-/

namespace Sys2Proof.Machine

/-! ### The processors (R454) -/

/-- All processors, in the numbering of R457. -/
def allProcs : List Proc := [.svp, .pwp, .seq0, .seq1, .seq2, .seq3, .tally]

/-- The partition of a sequencer. -/
def seqPart : Proc → Option PartId
  | .seq0 => some 0
  | .seq1 => some 1
  | .seq2 => some 2
  | .seq3 => some 3
  | .svp | .pwp | .tally => none

/-- The sequencer of a partition. -/
def seqOf (p : PartId) : Proc :=
  match p with
  | 0 => .seq0
  | 1 => .seq1
  | 2 => .seq2
  | 3 => .seq3

/-- Source ID of a processor (R356). -/
def srcProc (p : Proc) : U16 :=
  match seqPart p with
  | some q => srcPart 0x0A q
  | none => match p with
    | .pwp => srcId 2 0x28 0
    | .tally => srcTally
    | _ => srcSvp

/-- Position of a processor's firmware: SVP, PWP, SEQ, Tally; its section type is one more (R442, R465). -/
def fwSlot : Proc → Fin 4
  | .svp => 0
  | .pwp => 1
  | .seq0 | .seq1 | .seq2 | .seq3 => 2
  | .tally => 3

/-- Updates a processor. -/
def State.onProc (s : State) (p : Proc) (f : FwpRegs → FwpRegs) : State := s.onFwp (procNum p) f

/-- PROC_FAULT. -/
def cProcFault : U16 := 0x0B01
/-- PROC_WDG. -/
def cProcWdg : U16 := 0x0B02

/-! ### Crash dumps (R457) -/

/-- The processor that a dump slot's header names. -/
def State.dumpOwner (s : State) (n : Nat) : Fin 7 := ⟨fld (s.peek (dumpBase n) 8) 6 2 % 7, Nat.mod_lt _ (by decide)⟩

/-- The header of a crash dump. -/
def dumpHeader (s : State) (p : Proc) (code : U16) : Bytes :=
  let src := srcProc p
  let r : ErrRec := ⟨src, code, tabGet 0 s.err.seqs src, s.now64, 0, 0, 0, 1, 0⟩
  withCrc32 (padTo 252 (le 4 0x44435A42 ++ le 2 1 ++ le 2 (procNum p).1 ++ errBytes r ++ le 4 s.boot.seq.toNat
    ++ slice (s.boot.fw.get (fwSlot p)) 0 32 ++ le 4 (s.proc p).restarts.toNat))

/-- Writes a crash dump into slot 6 or 7 in turn; registers, stack and SRAM are free bytes. A dump overwritten before its
copy counts for its processor. -/
def crashDump (s : State) (p : Proc) (code : U16) : State :=
  let n := if s.boot.nextDump then 7 else 6
  let s := if s.boot.uncopied.contains n then
      s.onFwp (s.dumpOwner n) fun x => { x with dumpLost := sat32 x.dumpLost }
    else s
  let body := (List.range 0x3FF00).map fun i => Config.dumpByte (s.free + i)
  let s := { s with mem := memPut 0 s.mem (dumpBase n) (dumpHeader s p code ++ body), free := s.free + 0x3FF00 }
  let s := s.onProc p fun x => { x with slot := decide (n = 7), code := code }
  s.onBoot fun b => { b with nextDump := decide (n = 6), uncopied := b.uncopied.filter (· ≠ n) ++ [n] }

/-- The SVP copies samples and dumps to the log (R371, R457): types 3 and 2. -/
def copyDumps (s : State) : State :=
  if (s.proc .svp).state ≠ .running then s
  else (s.boot.uncopied.foldl (fun s n => logAppend s (if n < 6 then 3 else 2) (s.peek (dumpBase n) 0x40000)) s).onBoot
    fun b => { b with uncopied := [] }

end Sys2Proof.Machine
end

