-- ==== Sys2Proof/Machine/StartTest.lean ====
section
/-!
DEFINITION. Machine/StartTest.lean: the start-up error injection, its pin test and its report (R341 to R344), and the
injection register of a pair hub (R351).
-/

namespace Sys2Proof.Machine

/-! ### Events in expected-event mode (R342) -/

/-- An injected event: its record carries INJECTED and is stored as every record is, with its copy in the log; it faults no context
(R342, R353, R360, log 36). -/
def injected (s : State) (e : U16 × U16) : State := drainRecords (event s e.1 e.2 none 0)

/-- A write of `PHB_INJECT`: with ARM set the hub injects one difference, and ARM clears (R351). -/
def phbInject (s : State) (p : PartId) (v : U32) : State :=
  let w := v &&& 0xF
  if w.getLsbD 0 then
    injected (s.onPart p fun x => { x with hub := { x.hub with inject := w &&& 0xE } }) (srcPart 0x08 p, cPairMismatch)
  else s.onPart p fun x => { x with hub := { x.hub with inject := w } }

/-! ### The table of expected events (R341, R342) -/

/-- The pairs of a source with each of some codes. -/
def withCodes (src : U16) (codes : List U16) : List (U16 × U16) := codes.map fun c => (src, c)

/-- The I/O dies of a part. -/
def ioDies (p : Part) : List DieId := (allFin 2).filter fun d => diePresent p d

/-- The numbers of the dies of a part (R356). -/
def dieNums (p : Part) : List Nat := [0, 1] ++ (ioDies p).map fun d => 2 + d.1

/-- The ends of the die-to-die links of a part (R13). -/
def bridges (p : Part) : List U16 :=
  ([DieLink.d0d1, .d0n0, .d1n0] ++ (if hasN1 p then [DieLink.d0n1, .d1n1] else [])).flatMap fun l => [(linkEnds l).1, (linkEnds l).2]

/-- The same pairs once for each of `n` checkers that share a source ID. -/
def times (n : Nat) (l : List (U16 × U16)) : List (U16 × U16) := (List.replicate n l).flatten

/-- The ports of the endpoints of a compute die's Haul road: cores, controllers of populated stacks, partition blocks and
Stockpile banks (R16). -/
def haulPorts (p : Part) : List Nat :=
  (List.range 6).map (2 * ·) ++ (((List.range 4).filter fun k => !fourStacks p || k % 2 = 0).map fun k => 12 + 2 * k) ++
    [20, 22] ++ (List.range 32).map (· + 24)

/-- The clock monitors of a die. DESIGN CHOICE (log 36): a compute die monitors WCK, FAB, the ARR clocks of its partitions, CTL,
FIO and SAFE, an I/O die FAB, CTL, TIM, FIO and SAFE, and N0 the Tally clock too (R20, R333). -/
def clockMons (die : Nat) : Nat := if die < 2 then 7 else if die = 2 then 6 else 5

/-- The voltage monitors of a die. DESIGN CHOICE (log 36): a compute die monitors the rails of its partitions, VDD_FAB, VM1, VM2, VMQ,
VPHY_HS and VPHY_H, an I/O die VDD_IO, VPHY_HS, VPHY_H and VDD18, and N0 VDD_AON too (R334, R507). -/
def railMons (die : Nat) : Nat := if die < 2 then 8 else if die = 2 then 5 else 4

/-- The injections of steps 2 to 10, each with the source and the code of the event that it must produce: for every
bank, endpoint, feeder queue and monitor (R94, R237, R240, R341, log 36). -/
def stepTable (p : Part) : Nat → List (U16 × U16)
  | 2 => (allFin 12).flatMap (fun i => times 64 (withCodes (srcCore 0x06 i) [cLedgeCe, cLedgeUe])) ++
      [0, 1].flatMap (fun d => times 32 (withCodes (srcId d 0x0D 0) [cStockCe, cStockUe])) ++
      (ioDies p).flatMap (fun d => times 2 (withCodes (srcIff d) [cSramCe, cIffUe]) ++
        [0, 1].flatMap fun i => times 2 (withCodes (srcId (2 + d.1) 0x10 i) [cSramCe, cCrushEcc])) ++
      withCodes srcTally [cSramCe, 0x0A02] ++ [(srcAgg, cSramCe)] ++
      ((allFin 8).filter (stackPresent p)).flatMap fun k => withCodes (srcMc k) [cDramCe, cLinkRetry, cDramUe]
  | 3 => (allFin 12).flatMap (fun i => withCodes (srcCore 0x02 i) [cAccResidue, cOutResidue] ++
      [(srcCore 0x03 i, cSettResidue), (srcCore 0x04 i, cScreenResidue)]) ++
      (allFin 4).map fun q => (srcPart 0x09 q, cDressResidue)
  | 4 => (allFin 12).flatMap fun i => List.replicate 8 (srcCore 0x01 i, cArrayCheck)
  | 5 => allQueues.map (fun q => (srcQueue q, cDescCrc)) ++
      [0, 1].flatMap (fun d => (haulPorts p).map fun k => (srcPort d k, cXportCrc)) ++
      ((ioDies p).map (fun d => srcId (2 + d.1) 0x0E 0) ++ bridges p ++ [srcId 2 0x14 0, srcId 2 0x14 1]).map (fun e => (e, cXportCrc)) ++
      (allFin 12).flatMap fun i => List.replicate 257 (srcCore 0x01 i, cFeedParity)
  | 6 => (allFin 4).flatMap fun q => List.replicate 9 (srcPart 0x08 q, cPairMismatch)
  | 7 => List.replicate 2 (srcTally, 0x0A01)
  | 8 => (allFin 16).flatMap fun c => List.replicate 32 (srcId 2 0x20 c.1, cWdgEarly) ++
      List.replicate 32 (srcId 2 0x20 c.1, cWdgLate) ++ [(srcId 2 0x22 c.1, 0x0A03)]
  | 9 => (dieNums p).flatMap fun d => (List.range (clockMons d)).flatMap fun m => List.replicate 3 (srcId d 0x23 m, 0x0901)
  | 10 => (dieNums p).flatMap (fun d => (List.range (railMons d)).flatMap fun m => List.replicate 2 (srcId d 0x24 m, 0x0902)) ++
      [0, 1].map fun d => (srcId d 0x25 0, 0x0903)
  | _ => []

/-- The injections of a step: the first one puts a test event on every error wire that a later step uses (R15, R341). -/
def injections (p : Part) (k : Nat) : List (U16 × U16) :=
  if k = 1 then ((List.range 9).flatMap fun j => stepTable p (j + 2)).dedup else stepTable p k

/-- The events that a step with this deviation shows: one missing (1), one too many, which the run without injection shows
too (2), or one from another source (3). -/
def observed (l : List (U16 × U16)) (kind : Nat) (src : U16) : List (U16 × U16) :=
  match kind with
  | 1 => l.eraseP fun e => decide (e.1 = src)
  | 2 => l ++ [(src, ((l.head?).map (·.2)).getD 0)]
  | 3 => match l with
    | e :: r => (src, e.2) :: r
    | [] => []
  | _ => l

/-! ### The pin test (R343) -/

/-- The levels at the balls under the internal commands: an active event forces SAFE_ST to 0b00 where the force path works, and
the start-up hold or the event keeps ERR_OUT_N low. In the layout of `TLY_PIN_SENSE` (R324). -/
def ballLevels (forceOk active hold : Bool) (safeCmd : BitVec 2) (release alive : Bool) : BitVec 4 :=
  let safe : BitVec 2 := if active && forceOk then 0 else safeCmd
  BitVec.ofNat 4 (safe.toNat + 4 * b2n (release && !hold && !(active && forceOk)) + 8 * b2n alive)

/-- The three readings of `TLY_PIN_SENSE` in the pin test are right. -/
def pinTestOk (forceOk : Bool) : Bool :=
  let a := ballLevels forceOk true true 1 false false
  let b := ballLevels forceOk true true 1 true false
  decide (a.extractLsb' 0 2 = 0) && !b.getLsbD 2 && !b.getLsbD 3

/-! ### The sequence (R341, R342, R344) -/

/-- What the sequence has done: STEPS_OK, injections and events. -/
structure StartRun where
  /-- The state. -/
  s : State
  /-- STEPS_OK. -/
  ok : Nat := 0
  /-- Injections made. -/
  inj : Nat := 0
  /-- Events observed. -/
  ev : Nat := 0
  /-- A step has failed. -/
  failed : Bool := false

/-- One step: every injection, with the events that come of it, and the Tally's judgement of them; no step follows one that
fails (R342, log 36). -/
def startStep (t : StartTest) (r : StartRun) (k : Nat) : StartRun :=
  if r.failed then r
  else
    let dev := decide (t.failStep.1 = k)
    let l := injections r.s.part k
    let o := if dev then observed l t.failKind.1 t.failSrc else l
    let late := dev && decide (t.failKind.1 = 4)
    let pins := decide (k = 11) && !pinTestOk (!(dev && decide (t.failKind.1 = 5)))
    let bad := decide (o ≠ l) || late || pins || dev
    { s := o.foldl injected r.s, ok := if bad then r.ok else r.ok + 2 ^ (k - 1), inj := r.inj + l.length, ev := r.ev + o.length
      failed := bad }

/-- The sequence in SELFTEST state, in expected-event mode. -/
def startRun (s : State) (t : StartTest) : StartRun :=
  let s : State := { s with dev := .selftest }
  let r := ((List.range 12).map (· + 1)).foldl (startStep t) { s := s.onErr fun e => { e with expect := true } }
  { r with s := r.s.onErr fun e => { e with expect := false } }

/-- The start-up report (R344). How many checkers share a source ID is not stated: the counts are at least one for each source
and code, and free above that (log 36). -/
def startReport (r : StartRun) (t : StartTest) (more : Nat) : Bytes :=
  let bad (n : Nat) : Nat := if r.failed then n else 0
  withCrc32 (le 4 0x54535A42 ++ le 2 1 ++ le 1 (b2n r.failed) ++ le 1 (bad t.failStep.1) ++ le 2 (bad t.failSrc.toNat)
    ++ le 1 (bad t.failKind.1) ++ zeros 1 ++ le 4 t.durationUs.toNat ++ le 2 r.ok ++ zeros 2 ++ le 4 (r.inj + more)
    ++ le 4 (r.ev + more) ++ zeros 32)

/-- Step 4 of the start: the start-up error injection, its report and the copy of it in the log (R341 to R344, R452). A failure
is SAFE state. -/
def startTest (s : State) (t : StartTest) : State :=
  let r := startRun s t
  let report := startReport r t (Config.moreCheckers r.s.free)
  let s : State := { r.s with free := r.s.free + 1 }
  let s := logAppend (s.onBoot fun b => { b with report := report }) 4 report
  let age : CoreRt → CoreRt := fun x => { x with lst := { x.lst with ageFrom := s.boot.odo.runTicks } }
  let s : State := { s with cores := s.cores.map age }
  if r.failed then enterSafe s else s.onTly fun y => { y with selftestOk := true, ready := true }

end Sys2Proof.Machine
end

