-- ==== Sys2Proof/Machine/Boot.lean ====
section
/-!
DEFINITION. Machine/Boot.lean: device reset, the image banks and their checks, the start sequence (R433 to R453,
R511).
-/

namespace Sys2Proof.Machine

/-! ### Device reset (R511) -/

/-- The whole device in reset: what only flash, fuses, straps and the outside hold stays. -/
def resetDevice (s : State) : State :=
  { ({} : State) with
    part := s.part, out := s.out, free := s.free, pending := s.pending
    pins := { ({} : Pins) with wakeN := s.pins.wakeN, xspiSplit := s.pins.xspiSplit }
    rng := { ({} : RngRegs) with id := s.rng.id }
    boot := { ({} : BootRegs) with
      flashSize := s.boot.flashSize, flash := s.boot.flash, logs := s.boot.logs, failed := s.boot.failed
      fuses := s.boot.fuses, odo := { s.boot.odo with runTicks := 0 } } }

/-! ### Image banks (R434 to R436) -/

/-- H of R434. -/
def State.flashH (s : State) : Nat := if s.pins.xspiSplit then s.boot.flashSize / 2 else s.boot.flashSize

/-- Capacity of an image bank (R434). -/
def State.bankCap (s : State) : Nat := min 0x10000000 (s.flashH - 0x800000)

/-- Where an image bank starts in flash: CS0 at 0, CS1 at 2^32 (R434). -/
def State.bankBase (s : State) (b : Fin 2) : Nat := if b = 0 then 0 else if s.pins.xspiSplit then s.flashH else 2 ^ 32

/-- Bytes of flash. -/
def State.flashRead (s : State) (a n : Nat) : Bytes := memRead 0xFF s.boot.flash a n

/-- Bytes of an image bank. -/
def State.bankRead (s : State) (b : Fin 2) (o n : Nat) : Bytes := s.flashRead (s.bankBase b + o) n

/-- SEQ of a header (R435). -/
def hdrSeq (h : Bytes) : U32 := BitVec.ofNat 32 (fld h 0x008 4)
/-- LENGTH. -/
def hdrLen (h : Bytes) : Nat := fld h 0x00C 4
/-- ROLLBACK. -/
def hdrRollback (h : Bytes) : Nat := byteAt h 0x010
/-- KEY_SLOT. -/
def hdrSlot (h : Bytes) : Nat := byteAt h 0x011
/-- REVOKE. -/
def hdrRevoke (h : Bytes) : Nat := byteAt h 0x012 % 16
/-- NSECT. -/
def hdrNsect (h : Bytes) : Nat := fld h 0x014 2
/-- STAB_OFF. -/
def hdrStab (h : Bytes) : Nat := fld h 0x018 4
/-- LIVE of BFLAGS. -/
def hdrLive (h : Bytes) : Bool := bit (fld h 0x060 4) 0

/-- The key-hash slot is programmed, not revoked and equal to the header's key (R436 check 3). -/
def keyTrusted (f : Fuses) (h : Bytes) : Bool :=
  if hk : hdrSlot h < 4 then
    match f.keys.get ⟨hdrSlot h, hk⟩ with
    | some k => !f.revoked.getLsbD (hdrSlot h) && k = sha256 (slice h 0x080 388)
    | none => false
  else false

/-- The checks of R436 on a header, in their order. -/
def State.headerOk (s : State) (h : Bytes) : Bool :=
  decide (fld h 0 4 = 0x49465A42) && decide (fld h 4 2 = 1) && decide (fld h 6 2 = 0x400) &&
  decide (fld h 0x07C 4 = (crc32 (slice h 0 0x07C)).toNat) &&
  decide (0x400 ≤ hdrLen h) && decide (hdrLen h ≤ s.bankCap) && decide (fld h 0x01C 4 = 64 * hdrNsect h) &&
  decide (hdrStab h + 64 * hdrNsect h ≤ hdrLen h) &&
  keyTrusted s.boot.fuses h &&
  decide (s.boot.fuses.count ≤ hdrRollback h) && decide (hdrRollback h ≤ 64) &&
  !bit (hdrRevoke h) (hdrSlot h) &&
  pssVerify (slice h 0 0x280) (slice h 0x280 384) (unbe (slice h 0x080 384)) (unbe (slice h 0x200 4))

/-- The header of a bank. -/
def State.bankHeader (s : State) (b : Fin 2) : Bytes := s.bankRead b 0 0x400

/-- A valid bank (R436). -/
def State.bankValid (s : State) (b : Fin 2) : Bool := s.headerOk (s.bankHeader b)

/-- The other bank. -/
def otherBank (b : Fin 2) : Fin 2 := if b = 0 then 1 else 0

/-- The bank that the boot ROM chooses, when one is valid (R437). -/
def State.chooseBank (s : State) : Option (Fin 2) :=
  match s.bankValid 0, s.bankValid 1 with
  | false, false => none
  | true, false => some 0
  | false, true => some 1
  | true, true =>
    let b : Fin 2 := if newer (hdrSeq (s.bankHeader 1)) (hdrSeq (s.bankHeader 0)) then 1 else 0
    some (if 3 ≤ s.boot.failed.get b then otherBank b else b)

/-! ### Sections (R441 to R444) -/

/-- An entry of the section table (R441). -/
structure SectEntry where
  /-- TYPE. -/
  ty : Nat
  /-- CTX. -/
  ctx : Nat
  /-- SFLAGS. -/
  sflags : Nat
  /-- OFFSET. -/
  off : Nat
  /-- LENGTH. -/
  len : Nat
  /-- INDEX. -/
  index : Nat
  /-- DIGEST. -/
  digest : Bytes
  deriving DecidableEq, Repr

/-- Entry `i` of a section table. -/
def sectEntry (t : Bytes) (i : Nat) : SectEntry :=
  let e := slice t (64 * i) 64
  { ty := fld e 0 2, ctx := byteAt e 2, sflags := byteAt e 3, off := fld e 4 4, len := fld e 8 4, index := fld e 0x0C 2
    digest := slice e 0x10 32 }

/-- Section types with CTX 0xFF (R442). -/
def deviceTypes : List Nat := [0x01, 0x02, 0x03, 0x04, 0x10, 0x11, 0x12, 0x13, 0x30, 0x31]
/-- Section types of a context (R442). -/
def contextTypes : List Nat := [0x20, 0x21, 0x22, 0x23, 0x24, 0x25, 0x26, 0x27, 0x28, 0x29, 0x2A, 0x2B]

/-- The entries of a bank under a header, when the table's digest is right and no type is a reserved one (R435, R437, R442). -/
def State.sectTable (s : State) (b : Fin 2) (h : Bytes) : Option (List SectEntry) :=
  let t := s.bankRead b (hdrStab h) (64 * hdrNsect h)
  let es := (List.range (hdrNsect h)).map (sectEntry t)
  if sha256 t = slice h 0x020 32 && es.all fun e => deviceTypes.contains e.ty || contextTypes.contains e.ty then some es else none

/-- The size that a type has: its bound for firmware, else what the section's own counts or those of its context's CONTEXT
section `cx` come to (R140, R175, R276, R298, R442, R443, R445 to R450, log 38). -/
def sizeOk (ty : Nat) (cx d : Bytes) : Bool :=
  let n := d.length
  match ty with
  | 0x01 => decide (n ≤ 0x200000)
  | 0x02 | 0x03 => decide (n ≤ 0x40000)
  | 0x04 => decide (n ≤ 0x80000)
  | 0x10 | 0x25 => decide (n = 256)
  | 0x11 => decide (n = 320)
  | 0x12 => decide (n = 1024)
  | 0x13 | 0x20 => decide (n = 64)
  | 0x21 => decide (n = 32 * byteAt cx 2)
  | 0x22 => decide (n = 32 * byteAt cx 3)
  | 0x23 => decide (n = 128 + 66 * fld d 4 2)
  | 0x24 => decide (n = sumN ((List.range 4).map fun p => fld cx (0x0C + 2 * p) 2))
  | 0x26 => decide (n = 10384)
  | 0x27 => decide (n = 4224)
  | 0x28 => decide (n = 64 + 12 * fld cx 0x30 2)
  | 0x29 => decide (n = 64 + 16 * byteAt d 2 + 32 * fld d 4 2 + 32 * byteAt d 3)
  | 0x2A => decide (n % 16 = 0)
  | _ => true

/-- The entry of a context's CONTEXT section. -/
def ctxEntry (es : List SectEntry) (c : Nat) : Option SectEntry := es.find? fun k => decide (k.ty = 0x20) && decide (k.ctx = c)

/-- The checks of R442 and R443 on an entry whose bytes are `d`. -/
def State.entryOk (s : State) (b : Fin 2) (es : List SectEntry) (e : SectEntry) (d : Bytes) : Bool :=
  if deviceTypes.contains e.ty then decide (e.ctx = 0xFF) && sizeOk e.ty [] d
  else match ctxEntry es e.ctx with
    | some k => decide (e.ctx < 16) && sizeOk e.ty (s.bankRead b k.off k.len) d
    | none => false

/-- The sections of some entries of a bank, each hashed and checked; none when one fails (R437, R443, R451). -/
def State.readSections (s : State) (b : Fin 2) (es l : List SectEntry) : Option (List Section) :=
  let l := l.map fun e =>
    let d := s.bankRead b e.off e.len
    if s.entryOk b es e d && sha256 d = e.digest then
      some ({ ty := BitVec.ofNat 16 e.ty, ctx := BitVec.ofNat 8 e.ctx, sflags := BitVec.ofNat 8 e.sflags
              index := BitVec.ofNat 16 e.index, digest := e.digest, bytes := d } : Section)
    else none
  if l.contains none then none else some l.reduceOption

/-- All sections of a bank. -/
def State.loadSections (s : State) (b : Fin 2) (h : Bytes) : Option (List Section) :=
  match s.sectTable b h with
  | none => none
  | some es => s.readSections b es es

/-- The firmware sections of a bank (R452 step 3). -/
def State.loadFirmware (s : State) (b : Fin 2) (h : Bytes) : Option (List Section) :=
  match s.sectTable b h with
  | none => none
  | some es => s.readSections b es (es.filter fun e => decide (e.ty ≤ 4))

/-! ### Program digests (R381, R444) -/

/-- The program digest of a context. -/
def State.progDigest (s : State) (c : CtxId) : Bytes :=
  if s.hasCtx c then
    sha256 ((s.img.filter fun x => x.sflags.getLsbD 0 && (x.ctx.toNat = c.1 || x.ctx = 0xFF)).flatMap (·.bytes))
  else zeros 32

/-! ### What a start loads -/

/-- The regions that a section initialises or that start at zero, each once (R448, R451). -/
def loadRegions (s : State) : State :=
  ((allFin 16).flatMap s.regions).foldl (fun s r =>
    let s := if r.zeroInit then dropWindow s r.base r.size else s
    if r.sect ≠ 0xFFFF then svpWrite s r.base (s.regionImage r) else s) s

/-- Registers of the ports and MACs from NET_CONFIG (R446). -/
def loadNet (s : State) : State :=
  { s with io := Vector.ofFn fun d =>
      let b := s.secD 0x11 0xFF d.1
      let x := s.io.get d
      { x with
        csi := Vector.ofFn fun i =>
          let n := byteAt b (8 * i.1) % 128
          { x.csi.get i with lanes := if n = 4 then 2 else if n = 2 then 1 else 0, fsAdj := BitVec.ofNat 32 (fld b (8 * i.1 + 4) 4) }
        mac := Vector.ofFn fun m =>
          let v := byteAt s.devCfg 0x10
          { x.mac.get m with
            rxLat := BitVec.ofNat 16 (fld b (0x048 + 64 * m.1) 2), txLat := BitVec.ofNat 16 (fld b (0x04A + 64 * m.1) 2)
            ptpPort := bit v 7 && decide (bits v 2 2 = d.1) && decide (bits v 1 0 = m.1) } } }

/-- Servo shifts, ERR_HOLD and the ring of one from DEVICE_CONFIG (R285, R321, R407, R421, R445). -/
def loadDevice (s : State) : State :=
  let on := s.ringEn
  let s := s.onTb fun b => { b with
    kpSh := BitVec.ofNat 6 (byteAt s.devCfg 0x0C), kiSh := BitVec.ofNat 6 (byteAt s.devCfg 0x0D) }
  let s := s.onTly fun t => { t with errHold := BitVec.ofNat 10 (fld s.devCfg 6 2) }
  if on then
    (s.onRng fun r => { r with members := idBit r.id, mgrId := r.id, hasMgr := s.mgrCapable }).onTb fun b => { b with
      serving := s.mgrCapable }
  else s

/-- The contexts that enable lock-step, in ascending ID (R489). -/
def State.lksCtxs (s : State) : List CtxId := (allFin 16).filter fun c => s.hasCtx c && (s.lksCfg c).1

/-- Assigns the lock-step slots (R405, R489). -/
def loadLks (s : State) : State :=
  let l := s.lksCtxs
  { s with lks := Vector.ofFn fun i => { ({} : LksRegs) with ctx := l[i.1]? } }

/-- The code of a core's newest FENCE entry. -/
def fenceCode (es : List LogEntry) (i : CoreId) : U16 :=
  match (es.filter fun e => decide (e.ty = 6) && decide (byteAt e.payload 0 = i.1)).getLast? with
  | some e => BitVec.ofNat 16 (fld e.payload 2 2)
  | none => 0

/-- Fenced cores of the log are fenced again, with the code that fenced them (R367, R377). -/
def loadFences (s : State) : State :=
  let es := (s.boot.logs.get (activeLog s)).entries
  let m := fencedBy es
  let l := (allFin 12).filter fun i => m.testBit i.1
  let s := l.foldl (fun s i => s.onCore i fun x => { x with cfh := { x.cfh with fenced := true, lastCode := fenceCode es i } }) s
  l.foldl (fun s i => match adopterOf s i with
    | some a =>
      let s := s.onCore i fun x => { x with cfh := { x.cfh with adopter := BitVec.ofNat 2 a.1 } }
      s.onPart (partOfCore i) fun x => { x with slotMap := x.slotMap.map fun k => if k = slotOfCore i then a else k }
    | none => s) s

/-- The counts of the newest ODOMETER entry go on (R459). -/
def loadOdo (s : State) : State :=
  match (newestOf (s.boot.logs.get (activeLog s)).entries [5] 1).head? with
  | none => s.onBoot fun b => { b with odo := { ({} : Odo) with starts := 1 } }
  | some e =>
    let p := e.payload
    s.onBoot fun b => { b with odo := {
      powered := fld p 0 8, running := fld p 8 8, starts := BitVec.ofNat 32 (fld p 16 4) + 1
      resets := BitVec.ofNat 32 (fld p 20 4), fencings := BitVec.ofNat 32 (fld p 24 4)
      thermals := BitVec.ofNat 32 (fld p 28 4), hot := fld p 32 8, maxTj := BitVec.ofNat 16 (fld p 40 2) } }

/-- The recorder starts when the image declares a region (R385, R386). -/
def startRecorder (s : State) : State :=
  let t := s.recMib
  if t = 0 then s
  else setRecState (s.onRec fun r => { r with nblk := t - recHeadMib t, wblk := 0 }) .recording

/-- Every populated domain but those of fenced cores is ON (R452, R475). -/
def powerDomains (s : State) (v : DomState) : State :=
  (List.range 64).foldl (fun s n =>
    if domPresent s.part n && !s.domFenced n then s.onDom n fun d => { d with state := v } else s) s

/-- All populated stacks are trained (R246). -/
def trainAll (s : State) : State := (allFin 4).foldl retrain s

/-- The PWP sets the operating points and writes the AVS targets; the first target is a value between floor and ceiling that the
spec does not give (R452 step 5, R470). -/
def startPower (s : State) : State :=
  (allFin 4).foldl (fun s p =>
    let d := s.pickDiv p
    let r := avsRange d
    let mv := r.1 + Config.avsStart s.free % (r.2 - r.1 + 1)
    let s := { s with free := s.free + 1 }
    (s.onRail p fun x => { x with
      div := some d, want := d, floorMv := BitVec.ofNat 10 r.1, ceilMv := BitVec.ofNat 10 r.2, avsMv := BitVec.ofNat 10 mv }).emit
      (.avs p (BitVec.ofNat 10 mv))) s

/-! ### The start sequence (R452) -/

/-- A BOOT entry of the log: result 0 started, 1 FALLBACK (R458, log 9). -/
def bootEntry (s : State) (b : Fin 2) (result : Nat) : State :=
  logAppend s 8 (le 1 b.1 ++ le 1 result ++ zeros 2 ++ le 4 (hdrSeq (s.bankHeader b)).toNat ++ le 8 s.now64.toNat)

/-- A start from a bank counts as failed until BOOT_OK (R437). -/
def countStart (s : State) (b : Fin 2) : State :=
  s.onBoot fun x => { x with failed := x.failed.set b.1 (x.failed.get b + 1) }

/-- The recovery mailbox (R438). -/
def recovery (s : State) : State :=
  let s := powerDomains s .onFio
  (s.onBoot fun b => { b with recovery := true }).onHst fun h => { h with ready := true }

/-- BOOT registers of a start; a bank that this start fell back from is invalid (R437, R467). -/
def bootRegs (s : State) (b : Fin 2) (img : List Section) : State :=
  let h := s.bankHeader b
  let other := !s.boot.fallback && s.bankValid (otherBank b)
  let fw := fun ty => ((img.find? fun x => x.ty.toNat = ty).map (·.digest)).getD []
  let s : State := { s with img := img }
  s.onBoot fun x => { x with
    bank := b, keySlot := BitVec.ofNat 2 (hdrSlot h), seq := hdrSeq h, otherValid := other
    otherSeq := if other then hdrSeq (s.bankHeader (otherBank b)) else 0, header := h
    fw := #v[fw 1, fw 2, fw 3, fw 4] }

/-- Step 3: the processors run the firmware of the bank, the Tally has checked its measurement and the mailbox is served
(R296, R452). -/
def startProcs (s : State) : State :=
  let up : FwpRegs → FwpRegs := fun p => { p with state := .running, newFw := true }
  let s : State := { s with fwp := s.fwp.map up }
  s.onHst fun h => { h with ready := true }

/-- Step 7: sections, mirrors, digests, registers of the image and the recorder; the device is CONFIGURED. -/
def configure (s : State) : State :=
  let s := (allFin 4).foldl copyMirrors (loadRegions s)
  let s := s.onBoot fun b => { b with
    prog := Vector.ofFn s.progDigest, wgt := Vector.ofFn s.wgtDigest, badWgt := s.badWeights }
  let s := loadLks (loadDevice (loadNet s))
  { startRecorder s with dev := .configured }

/-- An enabled context without peers starts with the image (R34, R427, R452 step 8). -/
def startContexts (s : State) : State :=
  ((allFin 16).filter fun c => s.hasCtx c && s.enabled c && decide (s.peers c = 0) && !s.boot.badWgt.getLsbD c.1).foldl
    (fun s c => if (s.ctx c).state = .idle then (tryStart s c).2 else s) s

/-- The image keeps the conditions that the SVP checks at start: one ALIVE context, the evaluation budgets (R299). -/
def State.tablesOk (s : State) : Bool :=
  decide (((allFin 16).filter s.aliveCtx).length ≤ 1) && decide (sumN ((allFin 16).map fun c => fld (s.tallyTab c) 8 2) ≤ 800)

/-- Step 8: the contexts start, unless the tables break a condition or more than four contexts enable lock-step (R299, R417,
R452, R489). -/
def startImage (s : State) : State :=
  if 4 < s.lksCtxs.length then s.onHst fun h => { h with lksRefused := true }
  else if !s.tablesOk then s.onHst fun h => { h with tablesBad := true }
  else
    let s := if s.ringEn then s.onRng fun r => { r with bypass := false } else s
    bootOk (startContexts s)

/-- The start goes back to step 1: processors halted, clocks on FIO, no image (R437, R452, log 38). -/
def startAgain (s : State) : State :=
  let stop : FwpRegs → FwpRegs := fun x => { x with state := .halted, newFw := false }
  let s : State := { s with dev := .boot, img := [], fwp := s.fwp.map stop, pwr := { s.pwr with pll := false } }
  (s.onHst fun h => { h with ready := false }).onTly fun t => { t with ready := false, selftestOk := false }

/-- Steps 2 and 3 from a bank whose firmware is checked. -/
def startFirmware (s : State) (b : Fin 2) (fw : List Section) : State :=
  startProcs (powerDomains (loadFences (bootEntry (bootRegs s b fw) b 0)) .onFio)

/-- Steps 4 to 6. -/
def startDevice (s : State) (t : StartTest) : State :=
  let s := startTest s t
  if s.dev = .safe then s else
    let s := startPower s
    trainAll (powerDomains { s with pwr := { s.pwr with pll := true } } .onPll)

/-- Steps 7 and 8 with the sections of the image. -/
def startSections (s : State) (img : List Section) : State := startImage (configure { s with img := img })

/-- The start from a bank fell back: its entry in the log, and step 1 again (R437). -/
def fellBack (s : State) (b : Fin 2) : State := (startAgain (bootEntry s b 1)).onBoot fun x => { x with fallback := true }

/-- A processor faults before step 8: its crash dump and record, and the whole start from step 1 (R452, R455, R457). -/
def procStops (s : State) (p : Proc) : State :=
  startAgain (event (crashDump s p cProcFault) (srcProc p) cProcFault none 0)

/-- The start from a bank, steps 2 to 8; false when its section table or a section fails (R437, R452). -/
def startBank (s : State) (b : Fin 2) (t : StartTest) : State × Bool :=
  let h := s.bankHeader b
  let all := s.loadSections b h
  let s := countStart s b
  match s.loadFirmware b h with
  | none => (s, false)
  | some fw =>
    let s := startDevice (startFirmware s b fw) t
    if s.dev = .safe then (s, true)
    else match all with
      | none => (s, false)
      | some img => (startSections s img, true)

/-- The start from the other bank only, else recovery (R437, R438). -/
def startOther (s : State) (b : Fin 2) (t : StartTest) : State :=
  let s := fellBack s b
  let o := otherBank b
  if s.bankValid o then
    let r := startBank s o t
    if r.2 then r.1 else recovery (startAgain r.1)
  else recovery s

/-- The start from the bank that the ROM chooses (R437). -/
def startChosen (s : State) (t : StartTest) : State :=
  match s.chooseBank with
  | none => recovery s
  | some b => let r := startBank s b t; if r.2 then r.1 else startOther r.1 b t

/-- The start sequence after the release of device reset. A processor fault before step 8 comes after step 3 of its first pass
(R437, R438, R452). -/
def startUp (s : State) (t : StartTest) : State :=
  let s := loadOdo (s.onPins fun p => { p with xspiRstN := true, pads := .run })
  match t.proc, s.chooseBank with
  | some p, some b => match s.loadFirmware b (s.bankHeader b) with
    | some fw => startChosen (procStops (startFirmware (countStart s b) b fw) p) t
    | none => startChosen s t
  | _, _ => startChosen s t

/-! ### Commands -/

/-- POWER_GOOD (R452, R512): straps are sampled and the start runs from a device in reset. -/
def execPowerGood (ringId : BitVec 2) (xspiSplit : Bool) (t : StartTest) (s : State) : Res :=
  let r := resetDevice s
  let r := { r with pins := { r.pins with xspiSplit := xspiSplit }, rng := { r.rng with id := ringId } }
  finish s (startUp r t)

/-- DEVICE_RESET (R511): a pulse from 1 µs to 10 µs may or may not reset the device. -/
def execDeviceReset (lowNs : Nat) (s : State) : Res :=
  if 10000 ≤ lowNs then .next (resetDevice s)
  else if lowNs < 1000 then finish s s
  else
    let k := s.takeFree
    if Config.shortPulseResets k.1 then .next (resetDevice k.2) else finish s k.2

/-- VDD_AON_LOSS (R510): below 0.65 V it is a device reset. -/
def execVddAonLoss (mv : Nat) (s : State) : Res :=
  if mv < 650 then .next ((resetDevice s).onPins fun p => { p with pads := .aonLost }) else finish s s

end Sys2Proof.Machine
end

