-- ==== Sys2Proof/Machine/Power.lean ====
section
/-!
DEFINITION. Machine/Power.lean: dividers, AVS, droop stretching, the thermal loop, the power cap and the emergencies
(R462, R469 to R473, R480 to R483).
-/

namespace Sys2Proof.Machine

/-- The divider that a partition runs at, or takes when its clock switches. -/
def State.divOf (s : State) (p : PartId) : Divider := (s.rail p).div.getD (s.rail p).want

/-- One step faster on the way back to a divider; d5, no limit, once there (R480 to R482). -/
def backUp (x want : Divider) : Divider := if divRank (divUp x) ≤ divRank want then .d5 else divUp x

/-- The end of an emergency starts the 1 s of R462 when no other one holds. -/
def noteClear (s : State) : State :=
  if s.emergency then s else s.onPwr fun p => { p with clearAt := some s.ticks }

/-- The power cap in force in 0.1 W (R481). -/
def State.capNow (s : State) : Nat := (s.pwr.cap.map (·.toNat)).getD (maxPower s.part)

/-- A power emergency begins: counted unless one holds already (R462, R484). -/
def beginPower (s : State) : State :=
  if s.pwr.powerEmerg || s.pwr.voltCond then s.onPwr fun p => { p with clearAt := none }
  else s.onPwr fun p => { p with emergCnt := sat32 p.emergCnt, clearAt := none }

/-- Hottest of the sensors from `lo`, `n` of them. -/
def State.hottest (s : State) (lo n : Nat) : Int :=
  let l := ((allFin 64).filter fun i => decide (lo ≤ i.1) && decide (i.1 < lo + n)).map fun i => s.pwr.sensors.get i
  l.foldl max (l.headD 0)

/-! ### Commands -/

/-- THERMAL_EMERGENCY_CLEAR (R482): every sensor reads 130 °C or less. -/
def execThermalEmergencyClear (s : State) : Res :=
  let s' := if s.pwr.emerg && decide (s.hottest 0 64 ≤ 2080) then
      let s := s.onPwr fun p => { p with emerg := false, alert := false }
      let s := s.onPins fun p => { p with thermAlertN := true }
      let s := (allFin 4).foldl (fun s p => s.onRail p fun x => { x with forced := false }) s
      refreshDev (noteClear s)
    else s
  finish s s'

/-- DROOP_DETECT (R473): an episode counts once. -/
def execDroopDetect (p : PartId) (s : State) : Res :=
  finish s (s.onRail p fun x => if x.stretch then x else { x with stretch := true, stretchCnt := sat32 x.stretchCnt })

/-- DROOP_STRETCH_END (R473). -/
def execDroopStretchEnd (p : PartId) (s : State) : Res := finish s (s.onRail p fun x => { x with stretch := false })

/-- The limits of the voltage monitor of a core rail in µV, under and over: 3 % off the AVS target, which a limit follows at once
on a step away from the rail and 20 µs later on a step towards it (R334, R472). -/
def PwrPart.limits (x : PwrPart) : Nat × Nat :=
  let l := x.avsPast.map (·.toNat)
  (970 * l.foldl min x.avsMv.toNat, 1030 * l.foldl max x.avsMv.toNat)

/-- The root periods of an ARR cycle: the divider, and one more while a droop stretch is in force (R22, R473). -/
def PwrPart.rootPeriods (x : PwrPart) : Option Nat := x.div.map fun d => (match d with
  | .d5 => 5
  | .d6 => 6
  | .d8 => 8
  | .d10 => 10) + b2n x.stretch

/-- One reading of the margin monitors (R472): the new rail state. -/
def avsStep (x : PwrPart) (margin : Nat) : PwrPart :=
  let t := x.avsMv.toNat
  let lo := x.floorMv.toNat
  let hi := x.ceilMv.toNat
  let run := if 10 ≤ margin then x.goodRun + 1 else 0
  let x := { x with margin := BitVec.ofNat 8 (min 255 margin), avsPast := (x.avsMv :: x.avsPast).take 2 }
  if hi < t then
    if 9 ≤ x.overRun then { x with avsMv := BitVec.ofNat 10 (max hi (t - 10)), overRun := 0, goodRun := 0 }
    else { x with overRun := x.overRun + 1, goodRun := 0 }
  else if margin < 4 then { x with avsMv := BitVec.ofNat 10 (max lo (min hi (t + 10))), goodRun := 0, overRun := 0 }
  else if 100 ≤ run then { x with avsMv := BitVec.ofNat 10 (max lo (t - 5)), goodRun := 0, overRun := 0 }
  else { x with avsMv := BitVec.ofNat 10 (max lo t), goodRun := run, overRun := 0 }

/-- AVS_LOOP_UPDATE (R472): a new target is written to the PMIC; a faster divider that waited for it follows (R471, R483). -/
def execAvsLoopUpdate (p : PartId) (margin : Nat) (s : State) : Res :=
  let x := avsStep (s.rail p) margin
  let x := if s.pwpRuns && !x.forced then x.settle else x
  let t := s.onRail p fun _ => x
  finish s (if x.avsMv = (s.rail p).avsMv then t else t.emit (.avs p x.avsMv))

/-- PWP_THERMAL_STEP (R480): throttle the hotter partition of a die above 135 °C, restore every throttled one at 130 °C or
less. A partition on its way back from a thermal emergency goes one step too (R482). -/
def execPwpThermalStep (die : Fin 2) (s : State) : Res :=
  let a := partOf (2 * die.1)
  let b := partOf (2 * die.1 + 1)
  let ha := s.hottest (16 * a.1) 16
  let hb := s.hottest (16 * b.1) 16
  let step := fun (f : State → PartId → PwrPart → PwrPart) =>
    let s := [a, b].foldl (fun s p => chooseDiv (s.onRail p fun x =>
      let x := if s.pwr.emerg then x else { x with cooling := backUp x.cooling (s.wantDiv p) }
      f s p x) p) s
    s.onPwr fun x => { x with loop := (allFin 4).any fun p => decide ((s.rail p).heat ≠ .d5) }
  let s' := if !s.pwpRuns then s
    else if 2160 < max ha hb then
      step fun s p x => if p = (if ha < hb then b else a) then { x with heat := divDown (s.divOf p) } else x
    else if max ha hb ≤ 2080 then step fun s p x => { x with heat := backUp x.heat (s.wantDiv p) }
    else step fun _ _ x => x
  finish s s'

/-- POWER_EMERGENCY (R481, R462): above the cap an emergency begins, and while one holds the partition that draws most power goes
one step slower. -/
def execPowerEmergency (power : U16) (heaviest : PartId) (s : State) : Res :=
  let s := s.onPwr fun p => { p with now := power }
  let s := if s.capNow < power.toNat then (beginPower s).onPwr fun p => { p with powerEmerg := true } else s
  let s' := if (s.pwr.powerEmerg || s.pwr.voltCond) && s.pwpRuns then
      chooseDiv (s.onRail heaviest fun x => { x with capped := divDown (s.divOf heaviest) }) heaviest
    else s
  finish s s'

/-- POWER_EMERGENCY_CLEAR (R481): power below 95 % of the cap and no VOLT_MON condition end the emergency; the PWP then restores
one step at a time. -/
def execPowerEmergencyClear (power : U16) (voltOk : Bool) (s : State) : Res :=
  let s := s.onPwr fun p => { p with now := power }
  let s' := if (s.pwr.powerEmerg || s.pwr.voltCond) && voltOk && decide (100 * power.toNat < 95 * s.capNow) then
      noteClear (s.onPwr fun p => { p with powerEmerg := false, voltCond := false })
    else if s.pwr.powerEmerg || s.pwr.voltCond || !s.pwpRuns then s
    else (allFin 4).foldl (fun s p => chooseDiv (s.onRail p fun x => { x with capped := backUp x.capped (s.wantDiv p) }) p) s
  finish s s'

/-- ARR_DIVIDER_CHANGE (R22, R471): the PWP asks for the divider that R470 and the loops choose; any other request, and one while
the thermal emergency forces divider 10, is dropped (R470, R483). -/
def execArrDividerChange (p : PartId) (div : Divider) (s : State) : Res :=
  finish s (if div = s.pickDiv p then askDiv s p div else s)

end Sys2Proof.Machine
end

