-- ==== Sys2Proof/Machine/Domains.lean ====
section
/-!
DEFINITION. Machine/Domains.lean: entry into RET and OFF, wake and clock switch of the power domains (R475 to R479).
-/

namespace Sys2Proof.Machine

/-- A wake source powers a domain that is in RET or OFF, on FIO; a device in reset wakes nothing (R478, R479, R528). -/
def wakeDom (src : Nat) (s : State) (n : Nat) : State :=
  if s.pins.pads = .run && domPresent s.part n && !s.domFenced n && s.domIsDown n then domUp s n src false else s

/-- A domain enters RET or OFF; a low WAKE_N wakes it at once (R477, R478, R483). -/
def enterDom (s : State) (n : Nat) (ret host : Bool) : State :=
  let s := domDown s n ret host
  if s.pins.wakeN then s else wakeDom 6 s n

/-- The wake order of R479: memory interfaces, Stockpiles, Ledges, cores, I/O groups. -/
def wakeOrder : List Nat :=
  (List.range 8).map (· + 0x28) ++ [0x20, 0x21] ++ (List.range 12).map (· + 0x10) ++ List.range 12 ++
    (List.range 12).map (· + 0x30)

/-- An Ethernet frame wakes its group: `PWR_DOM.LAST_WAKE` when it does (R478). -/
def State.ethWakes (s : State) (d : DieId) (m : MacId) (frame : Bytes) : Option Nat :=
  let x := s.die d
  if x.wakePattern then
    if (List.range 64).all fun i => !x.mask.getLsbD i || byteAt frame i = byteAt x.pattern i then some 3 else none
  else if slice frame 0 6 = s.station d m then some 2
  else none

/-- The domains that a wake source wakes, in the order of R479. -/
def wakeBy (s : State) (w : WakeSrc) : State :=
  match w with
  | .csi d p => [camDom d p.1, cruDom d].foldl (wakeDom 1) s
  | .ethernet d m f => match s.ethWakes d m f with
    | some k => wakeDom k s (ethDom d)
    | none => s
  | .ring => [0x35, 0x36].foldl (wakeDom 4) s
  | .pcie => wakeDom 5 s 0x34
  | .wakeN low =>
    let s := s.onPins fun p => { p with wakeN := !low }
    if low then wakeOrder.foldl (wakeDom 6) s else s

/-! ### Commands -/

/-- DOMAIN_IDLE_TIMEOUT (R476): the PWP places a domain out of use in RET. -/
def execDomainIdleTimeout (id : BitVec 6) (s : State) : Res :=
  let n := id.toNat
  let s' := if domPresent s.part n && !domFixed n && !s.domInUse n && !s.domFenced n && !s.domIsDown n && s.pwpRuns then
      enterDom s n true false
    else s
  finish s s'

/-- DOMAIN_WAKE (R478). -/
def execDomainWake (w : WakeSrc) (s : State) : Res := finish s (wakeBy s w)

/-- The PWP switches a woken domain to its PLL-derived clock (R479). -/
def clockSwitch (s : State) (n : Nat) : State :=
  if (s.dom n).state = .onFio && s.pwr.pll && s.pwpRuns then s.onDom n fun d => { d with state := .onPll } else s

/-- WAKE_CLOCK_SWITCH (R479). -/
def execWakeClockSwitch (id : BitVec 6) (s : State) : Res := finish s (clockSwitch s id.toNat)

end Sys2Proof.Machine
end

