-- ==== Sys2Proof/Machine/Staging.lean ====
section
/-!
DEFINITION. Machine/Staging.lean: the staging session and the boot flash it writes (R433, R434, R460).
-/

namespace Sys2Proof.Machine

/-- Erases a stretch of flash. -/
def flashErase (s : State) (a n : Nat) : State := s.onBoot fun b => { b with flash := memErase b.flash a n }

/-- Programs bytes of flash that is erased: programming clears bits (R433). -/
def flashProgram (s : State) (a : Nat) (d : Bytes) : State :=
  s.onBoot fun b => { b with flash := memPut 0xFF b.flash a (List.zipWith (· &&& ·) (memRead 0xFF b.flash a d.length) d) }

/-- Where the bank that is not running starts in flash. -/
def State.stagedBase (s : State) : Nat := s.bankBase (otherBank s.boot.bank)

/-- A mailbox command of the staging session. -/
def isStageOp (op : Nat) : Bool := decide (0x30 ≤ op) && decide (op ≤ 0x33)

/-- A live activation is running or deferred. -/
def State.activation (s : State) : Bool :=
  s.boot.updState = .live || s.boot.updState = .deferredEmergency || s.boot.updState = .deferredReset

/-- `UPD_STATUS.STATE` follows the staging session; a live activation that runs or waits keeps its own value there (R463, R467,
DESIGN CHOICE, log 33). -/
def State.setUpd (s : State) (v : UpdState) : State := if s.activation then s else s.onBoot fun b => { b with updState := v }

/-- A live activation that had not begun will not begin: the state of staging shows again (R462, R467). -/
def BootRegs.unbegun (b : BootRegs) : BootRegs :=
  { b with updState := if b.staging.isSome then .staging else if b.otherValid then .staged else .idle }

/-- The session ends: its header sector is erased, and commands of it that are pending end with ABORTED (R460, R501). -/
def endStaging (s : State) : State :=
  if s.boot.staging.isNone then s
  else
    let s := flashErase s s.stagedBase 0x1000
    let s := (s.onBoot fun b => { b with staging := none, otherValid := false, otherSeq := 0 }).setUpd .idle
    (s.hst.pend.filter fun e => isStageOp e.op.toNat).foldl (fun s e => mboxFinal s e.tag e.op.toNat mbAborted) s

/-- The staging buffer: base and bytes (R438, R445). -/
def State.stageBuf (s : State) : Nat × Nat :=
  if s.boot.recovery then (0x040000000000, 0x200000) else (fld s.devCfg 0x50 6, fld s.devCfg 0x58 2 * mib)

end Sys2Proof.Machine
end

