-- ==== Sys2Proof/Machine/HostPort.lean ====
section
/-!
DEFINITION. Machine/HostPort.lean: host presence, doorbells, rings, the BAR2 window and the resets of the endpoint (R373,
R485 to R500).
-/

namespace Sys2Proof.Machine

/-! ### Presence (R373, R500) -/

/-- A host access to PCIE in RET or OFF wakes it, and waits for the clock that the PWP switches (R478, R479). -/
def pcieUp (s : State) : State := clockSwitch (wakeDom 5 s 0x34) 0x34

/-- An access of the host, whose effect is `f`: it comes over a link that is up to a function in D0. A device in reset has its
receivers off (R511), and an access that still waits for PCIE has no effect (R479; DESIGN CHOICE, log 37). -/
def hostAccess (s : State) (f : State → State) : State :=
  let s := pcieUp s
  if s.pins.pads = .run && s.domLive 0x34 then f (s.onHst fun h => { h with linkUp := true, d3hot := false }) else s

/-- Frames in flight carry HOST_ABSENT (R80, R373). -/
def flagAbsent (s : State) : State :=
  ((allFin 16).filter fun c => (s.ctx c).frame.inFlight).foldl (fun s c => setFlag s c fHostAbsent) s

/-- The host is marked absent: HOST_ABSENT is recorded, if it was present, and a staging session ends (R373, R500). -/
def markAbsent (s : State) : State :=
  if s.hst.hostAbsent then endStaging s
  else
    let s := (s.onHst fun h => { h with hostAbsent := true }).onErr fun e => { e with hostAbsent := true }
    endStaging (flagAbsent (event s srcAgg 0x0C06 none 0))

/-- The host is marked present: each enabled ring starts empty (R500). -/
def markPresent (s : State) : State :=
  let up : RingRegs → RingRegs := fun r => if r.en then { r with tail := r.head } else r
  let s := s.onHst fun h => { h with hostAbsent := false, rings := h.rings.map up }
  event (s.onErr fun e => { e with hostAbsent := false }) srcAgg 0x0C07 none 0

/-! ### Rings (R493 to R496) -/

/-- A write of `RING_CTRL`: SIZE_LOG2 only while the ring is disabled, and enabling sets TAIL to HEAD (R496). -/
def ringCtrl (r : RingRegs) (v : U32) : RingRegs :=
  let en := v.getLsbD 8
  { r with
    coal := BitVec.ofNat 8 (v.toNat >>> 16), irqEn := v.getLsbD 9, en := en
    sizeLog2 := if r.en then r.sizeLog2 else BitVec.ofNat 5 v.toNat
    tail := if en && !r.en then r.head else r.tail }

/-! ### The BAR2 window (R492) -/

/-- The device address of a BAR2 offset. -/
def State.bar2Addr (s : State) (off : BitVec 30) : Nat := s.hst.bar2Base.toNat * mib + off.toNat

/-- The host may read at an address. -/
def State.bar2Reads (s : State) (a n : Nat) : Bool :=
  let ok := fun x => match target x with
    | .dram _ => !absentAt s.part x
    | .stock _ => true
    | _ => false
  !s.boot.recovery && ok a && ok (a + (n - 1)) && target a = target (a + (n - 1))

/-- A range lies in one of some windows. -/
def inWindows (l : List (Nat × Nat)) (a n : Nat) : Bool := l.any fun w => decide (w.1 ≤ a) && decide (a + n ≤ w.1 + w.2)

/-- The host may write at an address: the staging buffer where it lies in a stack or a Stockpile, or in recovery in the dump
SRAM; and the recorder extents while replay is allowed and the recorder stands still. -/
def State.bar2Writes (s : State) (a n : Nat) : Bool :=
  (inWindows [s.stageBuf] a n && (s.boot.recovery || s.bar2Reads a n)) ||
  (!s.boot.recovery && s.replayEn && (s.recd.state = .frozen || s.recd.state = .disabled) &&
    inWindows (s.recExt.map fun e => (e.1, e.2 * mib)) a n)

/-- A rejected or failed access is counted in `HST_REJ_CNT`. -/
def reject (s : State) : State := s.onHst fun h => { h with rejCnt := sat32 h.rejCnt }

/-- The partition of an address is in reset. -/
def State.addrReset (s : State) (a : Nat) : Bool :=
  match homePart a with
  | some p => s.inReset p
  | none => false

/-- An access without a context is discarded at the boundary of a partition in reset: counted there and recorded by the endpoint
(R30, R356, R492). -/
def hostIsolated (s : State) (a : Nat) : State := raiseCode s (endpointSrc s.part a) cIsolated none

/-- An access without a context finds an uncorrectable word: recorded and counted, no context faulted (R492). -/
def hostUe (s : State) (k : Nat) : State :=
  reject (recordUe s k)

/-- A BAR2 read: the data and what it counts. -/
def bar2Read (s : State) (a n : Nat) : Bytes × State :=
  if !s.bar2Reads a n then (zeros n, reject s)
  else if s.addrReset a then (zeros n, hostIsolated s a)
  else match s.badIn a n false with
    | some k => (zeros n, hostUe s k)
    | none => (s.peek a n, s)

/-- A BAR2 write. -/
def bar2Write (s : State) (a : Nat) (d : Bytes) : State :=
  if d.isEmpty then s
  else if !s.bar2Writes a d.length then reject s
  else if s.addrReset a then hostIsolated s a
  else match s.badIn a d.length true with
    | some k => hostUe (s.pokePart (0, 0) a d) k
    | none => s.poke (0, 0) a d

/-! ### Commands -/

/-- HOST_HEARTBEAT_TIMEOUT (R373). -/
def execHostHeartbeatTimeout (s : State) : Res := finish s (markAbsent s)

/-- PCIE_LINK_DOWN (R373). -/
def execPcieLinkDown (s : State) : Res := finish s (markAbsent (s.onHst fun h => { h with linkUp := false }))

/-- DB_HEARTBEAT (R500): the age restarts; an absent host stays absent. -/
def execDbHeartbeat (_value : U32) (s : State) : Res := finish s (hostAccess s fun t => t.onHst fun h => { h with hbFrom := s.ticks })

/-- DB_RING_HEAD (R494, R499). -/
def execDbRingHead (r : Fin 17) (value : U32) (s : State) : Res :=
  finish s (hostAccess s fun t => t.onRing r fun x => { x with head := value })

/-- RING_CTRL_WRITE (R496). -/
def execRingCtrlWrite (r : Fin 17) (value : U32) (s : State) : Res :=
  finish s (hostAccess s fun t => t.onRing r fun x => ringCtrl x value)

/-- RING_IRQ_TIMEOUT (R495): records not yet signalled are signalled after 1 ms. -/
def execRingIrqTimeout (r : Fin 17) (s : State) : Res :=
  let x := s.ring r
  let s' := if x.irqEn && decide (0 < x.unsignalled) then
      msixSignal (s.onRing r fun y => { y with unsignalled := 0 }) ⟨r.1, by omega⟩
    else s
  finish s s'

/-- BAR2_READ (R492). -/
def execBar2Read (off : BitVec 30) (len : Nat) (s : State) : Res :=
  finish s (hostAccess s fun t => let r := bar2Read t (s.bar2Addr off) len; r.2.emit (.readData r.1))

/-- BAR2_WRITE (R492). -/
def execBar2Write (off : BitVec 30) (data : Bytes) (s : State) : Res :=
  finish s (hostAccess s fun t => bar2Write t (s.bar2Addr off) data)

/-- A status bit of AER is set (R485, R486). -/
def aerSet (s : State) (k : Nat) : State := s.onHst fun h => { h with aer := h.aer ||| (1 <<< k) }

/-- PCIE_REJECTED_TLP (R486): a poisoned write and an unexpected completion count alike; AER reports the write. PRESUMED: Poisoned
TLP Received is bit 12 of the status, after PCI Express (log 4). -/
def execPcieRejectedTlp (poisoned : Bool) (s : State) : Res :=
  finish s (hostAccess s fun t => if poisoned then aerSet (reject t) 12 else reject t)

/-- PCIE_FUNCTION_RESET (R500): the data path, the Tally, the pins, the recorder and the contexts stay. -/
def execPcieFunctionReset (s : State) : Res := finish s (markAbsent (resetEndpoint s))

/-- D3HOT_ENTRY (R500). -/
def execD3hotEntry (s : State) : Res := finish s (markAbsent (s.onHst fun h => { h with d3hot := true }))

end Sys2Proof.Machine
end

