-- ==== Sys2Proof/Machine/Activation.lean ====
section
/-!
DEFINITION. Machine/Activation.lean: the firmware processors: faults, restarts and live activation (R454 to R456, R461 to R463).
-/

namespace Sys2Proof.Machine

/-! ### Restarts (R454 to R456) -/

/-- Commands of the mailbox that an SVP restart interrupts end with ABORTED, and a live activation that has not begun does not
begin; one that restarts the SVP itself goes on (R454, R466, R501). -/
def abortCommands (s : State) (keepAct : Bool) : State :=
  let s := if s.hst.state = 1 then mboxDone s s.hst.cmdTag s.hst.cmdOp.toNat mbAborted [] else s
  let s := endStaging s
  let s := if !keepAct && s.activation && s.boot.actLeft.isEmpty && s.boot.updState != .live then
      s.onBoot BootRegs.unbegun else s
  (s.hst.pend.filter fun e => !(keepAct && decide (e.op = 0x34))).foldl (fun s e => mboxFinal s e.tag e.op.toNat mbAborted) s

/-- The sequencer has lost its place in the frames whose lists it had not finished (R24, R456). -/
def losePlace (s : State) (p : PartId) : State :=
  (allFin 16).foldl (fun s c =>
    if (s.ctx c).frame.inFlight && (s.frameLists c).any (fun l => decide (l.part = p.1) && decide (s.fedOf c l < l.ndesc)) then
      s.onFrame c fun f => { f with seqLost := p :: f.seqLost }
    else s) s

/-- A processor restarts: what stops with it (R24, R287, R454). A PWP restart that falls due in an emergency waits (R462). -/
def restartProc (s : State) (p : Proc) (fault : Bool) : State :=
  if p = .pwp ∧ s.emergency then s.onProc p fun x => { x with state := .deferred }
  else
    let s := s.onProc p fun x => { x with state := .restarting, restarts := sat32 x.restarts }
    match p with
    | .svp => servoFreeze (abortCommands s (!fault))
    | .pwp => s
    | .tally => s.onTly fun t => { t with restarting := true, ready := false }
    | .seq0 | .seq1 | .seq2 | .seq3 => match seqPart p with
      | some q => if fault then losePlace s q else s
      | none => s

/-- The third fault of a processor within 60 s (R455). -/
def thirdFault (s : State) (p : Proc) : State :=
  let s := s.onProc p fun x => { x with state := .disabled }
  match seqPart p with
  | some q => partOffline (losePlace s q) q
  | none => enterSafe (if p = .tally then s.onTly fun t => { t with ready := false } else s)

/-- A processor fault: record, crash dump, restart (R455). A live activation passes over the processor, and a sequencer whose
partition is in reset stays halted until step 8 (R374, R466). -/
def faultProc (s : State) (p : Proc) (code : U16) : State :=
  if (s.proc p).state ≠ .running then s
  else
    let times := ((s.proc p).faults.filter fun t => s.within t 60) ++ [s.ticks]
    let s := crashDump s p code
    let s := event s (srcProc p) code none 0
    let s := s.onProc p fun x => { x with faults := times, activating := false }
    let s := s.onBoot fun b => { b with actLeft := b.actLeft.filter fun q => decide (q ≠ p) }
    let held := ((seqPart p).map s.inReset).getD false
    let s := match seqPart p with
      | some q => s.onPart q fun x => { x with seqWait := held }
      | none => s
    if 3 ≤ times.length then thirdFault s p
    else if held then ((seqPart p).map (losePlace s)).getD s |>.onProc p fun x => { x with state := .halted }
    else restartProc s p true

/-! ### Live activation (R461 to R463) -/

/-- The order in which processors restart (R461). -/
def actOrder : List Proc := [.seq0, .seq1, .seq2, .seq3, .pwp, .svp, .tally]

/-- What must be the same in two images for a live activation: every section but the firmware. -/
def sectKeys (l : List Section) : List (U16 × Byte × U16 × Bytes) :=
  (l.filter fun x => decide (4 < x.ty.toNat)).map fun x => (x.ty, x.ctx, x.index, x.digest)

/-- The bank that is not active and its sections, when it is valid and newer (R461, R503). -/
def State.stagedImage (s : State) : Option (List Section) :=
  let o := otherBank s.boot.bank
  let h := s.bankHeader o
  if s.headerOk h && newer (hdrSeq h) s.boot.seq then s.loadSections o h else none

/-- ACTIVATE LIVE is permitted (R461). -/
def State.liveOk (s : State) (img : List Section) : Bool :=
  s.dflag 7 && hdrLive (s.bankHeader (otherBank s.boot.bank)) && decide (sectKeys img = sectKeys s.img) &&
    (s.dev = .run || s.dev = .degraded)

/-- Some partition is in reset. -/
def State.anyReset (s : State) : Bool := (allFin 4).any s.inReset

/-- Every pending ACTIVATE gets its final status. -/
def actFinal (s : State) (status : Nat) : State :=
  (s.hst.pend.filter fun e => decide (e.op = 0x34)).foldl (fun s e => mboxFinal s e.tag 0x34 status) s

/-- A live activation is over. -/
def endLive (s : State) (status : Nat) : State :=
  actFinal (s.onBoot fun b => { b with
    updState := if b.staging.isSome then .staging else .idle, nextProc := 0xF, actLeft := [] }) status

/-- `UPD_STATUS.NEXT_PROC` for the processors left. -/
def nextNum (l : List Proc) : BitVec 4 := (l.head?.map fun p => BitVec.ofNat 4 (procNum p).1).getD 0xF

/-- The staged bank becomes the active one, and the processors whose firmware differs are named (R461). -/
def beginLive (s : State) (img : List Section) : State :=
  let o := otherBank s.boot.bank
  let h := s.bankHeader o
  let fw := fun (p : Proc) => ((img.find? fun x => x.ty.toNat = (fwSlot p).1 + 1).map (·.digest)).getD []
  let left := actOrder.filter fun p => decide (fw p ≠ s.boot.fw.get (fwSlot p)) && decide ((s.proc p).state = .running)
  let s := left.foldl (fun s p => s.onProc p fun x => { x with newFw := false }) s
  let s : State := { s with img := img }
  let s := s.onBoot fun b => { b with
    bank := o, keySlot := BitVec.ofNat 2 (hdrSlot h), seq := hdrSeq h, otherSeq := b.seq, otherValid := true, header := h
    live := true, updState := .live, actLeft := left, nextProc := nextNum left, runFrom := none }
  if left.isEmpty then endLive s mbOk else s

/-- A live activation that may begin: now, or once the emergency or the partition reset is over (R462, R463). -/
def startLive (s : State) : State :=
  match s.stagedImage with
  | none => endLive s mbInvalid
  | some img =>
    if s.emergency then s.onBoot fun b => { b with updState := .deferredEmergency }
    else if s.anyReset then s.onBoot fun b => { b with updState := .deferredReset }
    else beginLive s img

/-- The next processor of a live activation restarts; a sequencer at its frame boundary (R456, R461). -/
def actStep (s : State) (p : Proc) : State :=
  let s := s.onBoot fun b => { b with nextProc := nextNum (b.actLeft.drop 1) }
  let s := s.onProc p fun x => { x with activating := true }
  match seqPart p with
  | some q => s.onPart q fun x => { x with seqWait := true }
  | none => restartProc s p false

/-- One step of a live activation; the restart of the PWP that falls due in an emergency is deferred with it (R461, R462). -/
def liveStep (s : State) : State :=
  match s.boot.updState with
  | .deferredReset => if s.anyReset then s else startLive s
  | .live =>
    if allProcs.any fun p => (s.proc p).activating then s
    else match s.boot.actLeft with
      | [] => endLive s mbOk
      | p :: _ =>
        if s.emergency then (if p = .pwp then actStep s p else s).onBoot fun b => { b with updState := .deferredEmergency }
        else actStep s p
  | .idle | .staging | .staged | .deferredEmergency => s

end Sys2Proof.Machine
end

