-- ==== Sys2Proof/Machine/Mailbox.lean ====
section
/-!
DEFINITION. Machine/Mailbox.lean: the mailbox and its commands (R438, R440, R460 to R465, R501 to R504).
-/

namespace Sys2Proof.Machine

/-- What a command answers: the state, the status, and the response; with PENDING, what the command keeps. -/
abbrev MbAns := State × Nat × Bytes

/-- A plain answer. -/
def ans (s : State) (status : Nat) : MbAns := (s, status, [])

/-! ### Contexts and maintenance -/

/-- NOP: too many lock-step contexts are told once, with BAD_ARG (R489). -/
def mbNop (s : State) (_ : Bytes) : MbAns :=
  if s.hst.lksRefused && !s.hst.lksTold then ans (s.onHst fun h => { h with lksTold := true }) mbBadArg
  else (s, mbOk, le 4 s.boot.seq.toNat ++ slice (s.boot.fw.get 0) 0 32)

/-- HOST_ATTACH (R500); PCIE comes into use (R476). -/
def mbAttach (s : State) (_ : Bytes) : MbAns :=
  ans (bringOn (markPresent s)) mbOk

/-- HOST_DETACH (R500). -/
def mbDetach (s : State) (_ : Bytes) : MbAns := ans (markAbsent s) mbOk

/-- CTX_START (R34, R503). -/
def mbCtxStart (s : State) (a : Bytes) : MbAns :=
  let c := ctxOf (byteAt a 0)
  let x := s.ctx c
  if 15 < byteAt a 0 ∨ !s.hasCtx c then ans s mbBadArg
  else if !(x.state = .idle || x.state = .faulted) || !s.mayRun c then ans s mbState
  else if s.peers c ≠ 0 then ans s mbPeered
  else
    let s := if x.state = .faulted then setCtxState s c .idle else s
    let r := tryStart s c
    ans r.2 (if r.1 then mbOk else mbConfig)

/-- FENCE_CLEAR (R367): takes effect at the next start. -/
def mbFenceClear (s : State) (a : Bytes) : MbAns :=
  let m := fld a 0 2
  if (List.range 16).any fun i => m.testBit i && !s.fencedMask.testBit i then ans s mbBadArg
  else ans (logAppend s 7 (le 2 m)) mbOk

/-- SELFTEST_REQ (R350). -/
def mbSelftest (s : State) (a : Bytes) : MbAns :=
  let m := fld a 0 2
  if (List.range 16).any fun i => m.testBit i && (decide (12 ≤ i) || s.fencedMask.testBit i) then ans s mbBadArg
  else
    let l := (allFin 12).filter fun i => m.testBit i.1
    ans (l.foldl (fun s i => s.onCore i fun x => { x with lst := { x.lst with req := true } }) s) mbOk

/-- CAL_REQ (R247). -/
def mbCal (s : State) (a : Bytes) : MbAns :=
  let m := byteAt a 0
  let l := (allFin 8).filter fun k => m.testBit k.1
  if l.any fun k => !stackPresent s.part k then ans s mbBadArg
  else ans ((l.filter fun k => !s.domIsDown (0x28 + k.1)).foldl (fun s k => s.onMc k fun x => { x with calReq := true }) s) mbOk

/-! ### Power -/

/-- A domain request takes effect (R476, R477). -/
def domRequest (s : State) (n st : Nat) : State :=
  if st = 2 then
    let s := if s.domLive n then s else domUp s n 7 s.pwr.pll
    s.onDom n fun d => { d with hostReq := true }
  else enterDom s n (decide (st = 1)) true

/-- Why a domain request is refused (R476, R503). -/
def State.domRefusal (s : State) (n st : Nat) : Option Nat :=
  if 63 < n ∨ 2 < st ∨ !domPresent s.part n ∨ s.domFenced n then some mbBadArg
  else if s.domInUse n then some mbInUse
  else if st ≠ 2 ∧ !s.pins.wakeN then some mbState
  else none

/-- PWR_DOMAIN: a request waits for a PWP that restarts (R454). -/
def mbPwrDomain (s : State) (a : Bytes) : MbAns :=
  match s.domRefusal (byteAt a 0) (byteAt a 1) with
  | some k => ans s k
  | none => if s.pwpRuns then ans (domRequest s (byteAt a 0) (byteAt a 1)) mbOk else (s, mbPending, a)

/-- WAKE_MODE (R478). -/
def mbWakeMode (s : State) (a : Bytes) : MbAns :=
  let d : DieId := ⟨byteAt a 0 % 2, Nat.mod_lt _ (by decide)⟩
  if 1 < byteAt a 0 ∨ 1 < byteAt a 1 ∨ !diePresent s.part d then ans s mbBadArg
  else ans (s.onDie d fun x => { x with
    wakePattern := decide (byteAt a 1 = 1), mask := BitVec.ofNat 64 (fld a 8 8), pattern := slice a 16 64 }) mbOk

/-- POWER_CAP (R481). -/
def mbPowerCap (s : State) (a : Bytes) : MbAns :=
  let v := fld a 0 2
  if v = 0 then ans (s.onPwr fun p => { p with cap := none }) mbOk
  else if v < 600 ∨ maxPower s.part < v then ans s mbBadArg
  else ans (s.onPwr fun p => { p with cap := some (BitVec.ofNat 16 v) }) mbOk

/-! ### Staging (R460) -/

/-- A command of the staging session is pending. -/
def State.stagePending (s : State) : Bool := s.hst.pend.any fun e => isStageOp e.op.toNat

/-- STAGE_OPEN: allowed in every state but BOOT; an activation that waits meets the bank as it is then (R463). In recovery no
image runs, and any SEQ is new (R438). -/
def mbStageOpen (s : State) (a : Bytes) : MbAns :=
  let len := fld a 0 4
  let seq := BitVec.ofNat 32 (fld a 4 4)
  if s.boot.staging.isSome ∨ s.stagePending ∨ (s.dev = .boot ∧ !s.boot.recovery) then ans s mbState
  else if !s.boot.recovery ∧ !newer seq s.boot.seq then ans s mbSeqOld
  else if s.bankCap < len then ans s mbTooLarge
  else ((s.onBoot fun b => { b with
    staging := some ⟨len, seq, List.replicate 0x400 0xFF, 0⟩, updBytes := 0 }).setUpd .staging, mbPending, a)

/-- STAGE_WRITE: the SVP reads the data that lie in STAGE_BUF now. -/
def mbStageWrite (s : State) (a : Bytes) : MbAns :=
  let off := fld a 0 4
  let len := fld a 4 4
  match s.boot.staging with
  | none => ans s mbState
  | some g =>
    if s.stagePending then ans s mbState
    else if off ≠ g.next ∨ s.stageBuf.2 < len ∨ s.bankCap < off + len then ans s mbBadArg
    else (s, mbPending, a ++ s.peek s.stageBuf.1 len)

/-- STAGE_CLOSE. -/
def mbStageClose (s : State) (a : Bytes) : MbAns :=
  if s.boot.staging.isNone ∨ s.stagePending then ans s mbState else (s, mbPending, a)

/-- STAGE_ABORT. -/
def mbStageAbort (s : State) (_ : Bytes) : MbAns :=
  if s.boot.staging.isNone then ans s mbState else ans (endStaging s) mbOk

/-! ### Activation, commit and reset -/

/-- ACTIVATE: mode NEXT, and the checks of mode LIVE (R461, R463). -/
def mbActivate (s : State) (a : Bytes) : MbAns :=
  let mode := byteAt a 0
  if 1 < mode then ans s mbBadArg
  else if mode = 1 ∧ s.dev = .replay then ans s mbState
  else match s.stagedImage with
    | none => ans s mbInvalid
    | some img =>
      if mode = 0 then ans s mbOk
      else if s.liveOk img then (s, mbPending, a)
      else ans s mbNotPermitted

/-- COMMIT (R440). -/
def mbCommit (s : State) (a : Bytes) : MbAns :=
  let ran := match s.boot.runFrom with
    | some t => decide (t + 60 * ticksPerSec ≤ s.ticks)
    | none => false
  if !ran then ans s mbState
  else if s.emergency then ans s mbEmergency
  else (s, mbPending, a)

/-- RESET may take place: no emergency for 1 s, and no partition in reset (R503). -/
def State.mayReset (s : State) : Bool :=
  !s.emergency && !s.anyReset && !((s.pwr.clearAt.map fun t => decide (s.ticks < t + ticksPerSec)).getD false)

/-! ### Identity and log -/

/-- The attestation report without its signature (R465). -/
def attestBody (s : State) (nonce : Bytes) : Bytes :=
  le 4 0x54415A42 ++ le 2 1 ++ le 1 (devNum s.dev) ++ le 1 s.boot.bank.1 ++ slice nonce 0 32
    ++ slice s.boot.fuses.serial 0 16 ++ le 8 s.now64.toNat ++ le 4 s.boot.seq.toNat ++ le 1 s.boot.fuses.count
    ++ le 1 s.boot.keySlot.toNat ++ le 2 (sumN ((allFin 16).map fun c => if s.enabled c then 2 ^ c.1 else 0))
    ++ le 2 s.fencedMask ++ zeros 22 ++ s.boot.fw.toList.flatMap (slice · 0 32)
    ++ (allFin 16).flatMap (fun c => if s.enabled c then slice (s.boot.prog.get c) 0 32 else zeros 32)
    ++ s.boot.wgt.toList.flatMap (slice · 0 32)

/-- ATTEST (R465). -/
def mbAttest (s : State) (a : Bytes) : MbAns :=
  let b := attestBody s a
  let salt := (List.range 32).map fun i => Config.saltByte (s.free + i)
  ({ s with free := s.free + 32 }, mbOk, b ++ pssSign b salt s.boot.fuses.idN s.boot.fuses.idD)

/-- GET_CERT (R464). -/
def mbGetCert (s : State) (_ : Bytes) : MbAns :=
  (s, mbOk, le 4 s.boot.fuses.cert.length ++ s.boot.fuses.cert)

/-- LOG_READ: the bytes of a log bank as they lie in flash (R458). -/
def mbLogRead (s : State) (a : Bytes) : MbAns :=
  let bank : Fin 2 := ⟨byteAt a 0 % 2, Nat.mod_lt _ (by decide)⟩
  let off := fld a 4 4
  let len := fld a 8 2
  if 1 < byteAt a 0 ∨ len = 0 ∨ 4088 < len ∨ logCap < off + len then ans s mbBadArg
  else
    let b := (((logBankBytes (s.boot.logs.get bank)).drop off).take len)
    (s, mbOk, b ++ List.replicate (len - b.length) 0xFF)

/-- CLR_STAT (R263). -/
def mbClrStat (s : State) (a : Bytes) : MbAns :=
  let m := byteAt a 0
  if 3 < m ∨ (m.testBit 1 ∧ !diePresent s.part 1) then ans s mbBadArg
  else
    let l := (allFin 2).filter fun d => m.testBit d.1
    ans (l.foldl (fun s d => s.onDie d fun x => { x with hiwater := 0 }) s) mbOk

/-! ### The protocol (R501, R503) -/

/-- The bytes of arguments that an opcode takes; none for an opcode that the table does not name. -/
def argBytes (op : Nat) : Option Nat :=
  match op with
  | 0x00 | 0x01 | 0x02 | 0x32 | 0x33 | 0x35 | 0x36 | 0x39 => some 0
  | 0x10 | 0x11 | 0x1A | 0x34 | 0x40 => some 1
  | 0x18 | 0x19 | 0x20 | 0x22 => some 2
  | 0x21 => some 80
  | 0x30 | 0x31 => some 8
  | 0x38 => some 32
  | 0x3A => some 10
  | _ => none

/-- Served in recovery: NOP, the staging commands and RESET (R503). -/
def servedInRecovery (op : Nat) : Bool := op = 0 || isStageOp op || op = 0x36

/-- A refusal that no command escapes (R503). -/
def State.mbRefusal (s : State) (op : Nat) (a : Bytes) : Option Nat :=
  match argBytes op with
  | none => some mbBadCmd
  | some n =>
    if s.boot.recovery && !servedInRecovery op then some mbBadCmd
    else if !s.boot.recovery && s.hst.hostAbsent && decide (1 < op) then some mbHostAbsent
    else if a.length ≠ n then some mbBadArg
    else none

/-- The answer of a command by opcode. -/
def mbAnswer (op : Nat) (s : State) (a : Bytes) : MbAns :=
  match op with
  | 0x00 => mbNop s a
  | 0x01 => mbAttach s a
  | 0x02 => mbDetach s a
  | 0x10 => mbCtxStart s a
  | 0x18 => mbFenceClear s a
  | 0x19 => mbSelftest s a
  | 0x1A => mbCal s a
  | 0x20 => mbPwrDomain s a
  | 0x21 => mbWakeMode s a
  | 0x22 => mbPowerCap s a
  | 0x30 => mbStageOpen s a
  | 0x31 => mbStageWrite s a
  | 0x32 => mbStageClose s a
  | 0x33 => mbStageAbort s a
  | 0x34 => mbActivate s a
  | 0x35 => mbCommit s a
  | 0x38 => mbAttest s a
  | 0x39 => mbGetCert s a
  | 0x3A => mbLogRead s a
  | 0x40 => mbClrStat s a
  | _ => ans s mbBadCmd

/-- A command reaches its end, or goes on as a pending one. -/
def mbEnd (tag : U16) (op : Nat) (r : MbAns) : State :=
  if r.2.1 = mbPending then mboxPend r.1 tag op r.2.2 else mboxDone r.1 tag op r.2.1 r.2.2

/-- CTX_STOP: the mailbox stays busy until the drain is over (R361, R503). -/
def mbCtxStop (s : State) (tag : U16) (a : Bytes) : State :=
  let c := ctxOf (byteAt a 0)
  if 15 < byteAt a 0 then mboxDone s tag 0x11 mbBadArg []
  else if (s.ctx c).state ≠ .run then mboxDone s tag 0x11 mbState []
  else if s.peers c ≠ 0 then mboxDone s tag 0x11 mbPeered []
  else teardown (s.onHst fun h => { h with state := 1 }) c (some tag) 0

/-- RESET: at once, or pending (R503). -/
def mbReset (s : State) (tag : U16) (a : Bytes) : State :=
  if s.mayReset then resetDevice s else mboxPend s tag 0x36 a

/-- The SVP, or the ROM in recovery, serves a command. -/
def serve (s : State) (tag : U16) (op : Nat) (a : Bytes) : State :=
  match s.mbRefusal op a with
  | some k => mboxDone s tag op k []
  | none =>
    if op = 0x11 then mbCtxStop s tag a
    else if op = 0x36 then mbReset s tag a
    else
      let r := mbAnswer op s a
      let t := mbEnd tag op r
      if op = 0x34 ∧ r.2.1 = mbPending then startLive t else t

/-- `DB_MBOX`: the command in the mailbox registers is submitted (R501). -/
def doorbell (s : State) : State :=
  let tag := s.hst.cmdTag
  let op := s.hst.cmdOp
  let a := mbGet s.hst.mbData 0 s.hst.argLen.toNat
  if s.hst.state = 1 then s.onHst fun h => { h with mboxIgn := sat32 h.mboxIgn }
  else if !s.hst.ready then s
  else if s.boot.recovery || (s.proc .svp).state = .running then serve s tag op.toNat a
  else s.onHst fun h => { h with held := some ⟨tag, op, a⟩ }

/-- The host writes arguments, length, opcode and tag, and the doorbell. While the mailbox is busy the writes are ignored
(R501). -/
def submit (s : State) (tag : U16) (op : Nat) (a : Bytes) : State :=
  hostAccess s fun t => doorbell (if t.hst.state = 1 then t else t.onHst fun h => { h with
    cmdTag := tag, cmdOp := BitVec.ofNat 8 op, argLen := BitVec.ofNat 13 a.length, mbData := mbPut h.mbData 0 a })

/-! ### Commands -/

/-- CTX_START. -/
def execCtxStart (tag : U16) (args : Bytes) (s : State) : Res := finish s (submit s tag 0x10 args)
/-- CTX_STOP. -/
def execCtxStop (tag : U16) (args : Bytes) (s : State) : Res := finish s (submit s tag 0x11 args)
/-- NOP. -/
def execMboxNop (tag : U16) (args : Bytes) (s : State) : Res := finish s (submit s tag 0x00 args)
/-- HOST_ATTACH. -/
def execHostAttach (tag : U16) (args : Bytes) (s : State) : Res := finish s (submit s tag 0x01 args)
/-- HOST_DETACH. -/
def execHostDetach (tag : U16) (args : Bytes) (s : State) : Res := finish s (submit s tag 0x02 args)
/-- FENCE_CLEAR. -/
def execFenceClear (tag : U16) (args : Bytes) (s : State) : Res := finish s (submit s tag 0x18 args)
/-- SELFTEST_REQ. -/
def execSelftestReq (tag : U16) (args : Bytes) (s : State) : Res := finish s (submit s tag 0x19 args)
/-- CAL_REQ. -/
def execCalReq (tag : U16) (args : Bytes) (s : State) : Res := finish s (submit s tag 0x1A args)
/-- PWR_DOMAIN. -/
def execPwrDomain (tag : U16) (args : Bytes) (s : State) : Res := finish s (submit s tag 0x20 args)
/-- WAKE_MODE. -/
def execWakeMode (tag : U16) (args : Bytes) (s : State) : Res := finish s (submit s tag 0x21 args)
/-- POWER_CAP. -/
def execPowerCap (tag : U16) (args : Bytes) (s : State) : Res := finish s (submit s tag 0x22 args)
/-- STAGE_OPEN. -/
def execStageOpen (tag : U16) (args : Bytes) (s : State) : Res := finish s (submit s tag 0x30 args)
/-- STAGE_WRITE. -/
def execStageWrite (tag : U16) (args : Bytes) (s : State) : Res := finish s (submit s tag 0x31 args)
/-- STAGE_CLOSE. -/
def execStageClose (tag : U16) (args : Bytes) (s : State) : Res := finish s (submit s tag 0x32 args)
/-- STAGE_ABORT. -/
def execStageAbort (tag : U16) (args : Bytes) (s : State) : Res := finish s (submit s tag 0x33 args)
/-- ACTIVATE. -/
def execActivate (tag : U16) (args : Bytes) (s : State) : Res := finish s (submit s tag 0x34 args)
/-- COMMIT. -/
def execCommit (tag : U16) (args : Bytes) (s : State) : Res := finish s (submit s tag 0x35 args)
/-- RESET. -/
def execResetCmd (tag : U16) (args : Bytes) (s : State) : Res := finish s (submit s tag 0x36 args)
/-- ATTEST. -/
def execAttest (tag : U16) (args : Bytes) (s : State) : Res := finish s (submit s tag 0x38 args)
/-- GET_CERT. -/
def execGetCert (tag : U16) (args : Bytes) (s : State) : Res := finish s (submit s tag 0x39 args)
/-- LOG_READ. -/
def execLogRead (tag : U16) (args : Bytes) (s : State) : Res := finish s (submit s tag 0x3A args)
/-- CLR_STAT. -/
def execClrStat (tag : U16) (args : Bytes) (s : State) : Res := finish s (submit s tag 0x40 args)
/-- A command with any opcode; one that the table does not name ends with BAD_CMD. -/
def execMboxBadCmd (opcode : Byte) (tag : U16) (args : Bytes) (s : State) : Res := finish s (submit s tag opcode.toNat args)

end Sys2Proof.Machine
end

