-- ==== Sys2Proof/Machine/Firmware.lean ====
section
/-!
DEFINITION. Machine/Firmware.lean: the events of the firmware processors, the end of a partition reset with what waited for it,
the end of pending mailbox commands and the odometer (R369, R374, R440, R454 to R463, R501).
-/

namespace Sys2Proof.Machine

/-! ### A processor runs again (R455) -/

/-- Triggers that were latched while a sequencer restarted start their frames (R39, R456). -/
def startLatched (s : State) (p : PartId) : State :=
  (allFin 16).foldl (fun s c =>
    let x := s.ctx c
    match x.latched with
    | some l =>
      if x.state = .run && !x.frame.inFlight && s.hasWork c p && !s.seqHeld c then frameStart s c l true else s
    | none => s) s

/-- The frame boundary of a sequencer: every frame in flight of a context with a list in its partition has had its last
descriptor accepted (R456). -/
def State.atBoundary (s : State) (p : PartId) : Bool :=
  (allFin 16).all fun c => !s.hasWork c p || !(s.ctx c).frame.inFlight ||
    (s.frameLists c).all fun l => decide (l.ndesc ≤ s.fedOf c l)

/-- A sequencer restart: the SVP requests it, or a live activation has; it takes place at a frame boundary, once the
descriptors in the hardware queues have run, and else stays requested; one of a live activation waits out an emergency
(R24, R456, R462, R374). -/
def seqRestart (s : State) (p : PartId) : State :=
  let q := seqOf p
  if (s.proc q).state ≠ .running then s
  else
  let s := s.onPart p fun x => { x with seqWait := true }
  if !s.atBoundary p || s.inReset p || (partQueues p).any (fun k => !(s.queue k).entries.isEmpty) then s
  else if (s.proc q).activating && s.emergency then s.onBoot fun b => { b with updState := .deferredEmergency }
  else restartProc (s.onPart p fun x => { x with seqWait := false }) q false

/-- What waited for the end of a partition reset: the restart of its sequencer, and a live activation once no partition is in
reset (R374, R463). -/
def serveDeferred (s : State) (p : PartId) : State :=
  let s := if !(s.prt p).seqWait then s
    else if (s.proc (seqOf p)).state = .halted then restartProc (s.onPart p fun x => { x with seqWait := false }) (seqOf p) true
    else seqRestart s p
  if s.boot.updState = .deferredReset && !s.anyReset then startLive s else s

/-- The end of a partition reset, and what waited for it. -/
def endReset (s : State) (p : PartId) (us : U32) : State :=
  let t := partResetEnd s p us
  if s.inReset p && !t.inReset p then serveDeferred t p else t

/-- The end of a weight reload, and what waited for it. -/
def endReload (s : State) (p : PartId) (us : U32) : State :=
  let t := weightReload s p us
  if (s.prt p).prt.reload && !(t.prt p).prt.reload then serveDeferred t p else t

/-- Weight restores that waited for the SVP (R466). -/
def serveRestores (s : State) : State :=
  (allFin 4).foldl (fun s p => match (s.prt p).prt.svpWait with
    | some us => if (s.prt p).prt.reload then endReload s p us else endReset s p us
    | none => s) s

/-- Domain requests that waited for the PWP (R454). -/
def servePower (s : State) : State :=
  (s.hst.pend.filter fun e => decide (e.op = 0x20)).foldl (fun s e =>
    let n := byteAt e.args 0
    let st := byteAt e.args 1
    match s.domRefusal n st with
    | some k => mboxFinal s e.tag 0x20 k
    | none => mboxFinal (domRequest s n st) e.tag 0x20 mbOk) s

/-- A doorbell that was held (R501). -/
def serveHeld (s : State) : State :=
  match s.hst.held with
  | none => s
  | some h => serve (s.onHst fun x => { x with held := none }) h.tag h.op.toNat h.args

/-- The running firmware's digest is that of the active bank once every processor of the kind runs it (R465). -/
def noteFw (s : State) (p : Proc) : State :=
  if allProcs.all fun q => decide (fwSlot q ≠ fwSlot p) || (s.proc q).newFw then
    let d := ((s.img.find? fun x => x.ty.toNat = (fwSlot p).1 + 1).map (·.digest)).getD (s.boot.fw.get (fwSlot p))
    s.onBoot fun b => { b with fw := b.fw.set (fwSlot p).1 d }
  else s

/-- What a processor takes up again. -/
def resumeDuty (s : State) (p : Proc) : State :=
  match p with
  | .svp => serveHeld (serveRestores s)
  | .pwp => chooseDivs (bringOn (servePower s))
  | .tally => s.onTly fun t => { t with restarting := false, ready := true }
  | .seq0 | .seq1 | .seq2 | .seq3 => match seqPart p with
    | some q => startLatched s q
    | none => s

/-- A restarted processor runs the firmware of the active bank (R455, R461, R468). -/
def procDone (s : State) (p : Proc) : State :=
  let s := s.onProc p fun x => { x with state := .running, newFw := true, activating := false }
  let s := s.onBoot fun b => { b with actLeft := b.actLeft.filter fun q => decide (q ≠ p) }
  let s := resumeDuty (noteFw s p) p
  if s.boot.updState = .live ∧ s.boot.actLeft = [] ∧ !allProcs.any (fun q => (s.proc q).activating) then endLive s mbOk else s

/-! ### Emergencies (R462) -/

/-- The emergency has been clear for 1 s: a deferred PWP restart and a deferred activation go on. -/
def deferResume (s : State) : State :=
  if s.emergency then s
  else
    let s := if (s.proc .pwp).state = .deferred then restartProc s .pwp true else s
    if s.boot.updState = .deferredEmergency then
      if s.boot.actLeft.isEmpty then startLive s else s.onBoot fun b => { b with updState := .live }
    else s

/-- Sequencers that a live activation asked to restart keep the old firmware. -/
def dropWaits (s : State) : State :=
  (allFin 4).foldl (fun s p =>
    if (s.prt p).seqWait then
      (s.onPart p fun x => { x with seqWait := false }).onProc (seqOf p) fun x => { x with activating := false }
    else s) s

/-- The emergency has lasted 10 s after the request: ACTIVATE and RESET end with BUSY_EMERGENCY. -/
def deferCancel (s : State) : State :=
  if !s.emergency then s
  else
    let s := if s.boot.updState ≠ .deferredEmergency then s
      else if s.boot.actLeft.isEmpty then actFinal (s.onBoot BootRegs.unbegun) mbEmergency
      else endLive (dropWaits s) mbEmergency
    (s.hst.pend.filter fun e => decide (e.op = 0x36)).foldl (fun s e => mboxFinal s e.tag 0x36 mbEmergency) s

/-! ### Pending commands (R440, R460, R501) -/

/-- STAGE_OPEN ends: the bank is erased, header sector first. -/
def endOpen (s : State) (e : PendCmd) (ok : Bool) : State :=
  if ok then
    let s := flashErase s s.stagedBase s.bankCap
    mboxFinal (s.onBoot fun b => { b with otherValid := false, otherSeq := 0 }) e.tag 0x30 mbOk
  else mboxFinal ((s.onBoot fun b => { b with staging := none }).setUpd .idle) e.tag 0x30 mbFlashError

/-- STAGE_WRITE ends: the data are programmed, but for bytes 0x000 to 0x3FF, which the SVP holds. -/
def endWrite (s : State) (e : PendCmd) (ok : Bool) : State :=
  match s.boot.staging with
  | none => mboxFinal s e.tag 0x31 mbAborted
  | some g =>
    if !ok then mboxFinal s e.tag 0x31 mbFlashError
    else
      let off := fld e.args 0 4
      let d := e.args.drop 8
      let low := d.take (0x400 - off)
      let high := d.drop (0x400 - off)
      let s := flashProgram s (s.stagedBase + max off 0x400) high
      let s := s.onBoot fun b => { b with
        staging := some { g with held := if off < 0x400 then patch g.held off low else g.held, next := off + d.length }
        updBytes := b.updBytes + BitVec.ofNat 32 high.length }
      mboxFinal s e.tag 0x31 mbOk

/-- STAGE_CLOSE ends: the bank is read back and checked under the held header, which is programmed last. -/
def endClose (s : State) (e : PendCmd) (ok : Bool) : State :=
  match s.boot.staging with
  | none => mboxFinal s e.tag 0x32 mbAborted
  | some g =>
    if !ok then mboxFinal s e.tag 0x32 mbFlashError
    else if s.headerOk g.held && (s.loadSections (otherBank s.boot.bank) g.held).isSome then
      let s := flashProgram s s.stagedBase g.held
      let s := s.onBoot fun b => { b with
        staging := none, updBytes := b.updBytes + 0x400, otherValid := true, otherSeq := hdrSeq g.held }
      mboxFinal (s.setUpd .staged) e.tag 0x32 mbOk
    else mboxFinal s e.tag 0x32 mbInvalid

/-- COMMIT ends: fuses of the counter, revoke fuses, the log entry (R440). -/
def endCommit (s : State) (e : PendCmd) : State :=
  let h := s.boot.header
  let s := s.onBoot fun b => { b with fuses := { b.fuses with
    count := max b.fuses.count (hdrRollback h), revoked := b.fuses.revoked ||| BitVec.ofNat 4 (hdrRevoke h) } }
  let s := logAppend s 10 (le 1 s.boot.fuses.count ++ le 1 s.boot.fuses.revoked.toNat)
  let ok := s.bankValid (otherBank s.boot.bank)
  let s := s.onBoot fun b => { b with
    otherValid := ok, otherSeq := if ok then b.otherSeq else 0
    updState := if !ok && b.updState = .staged then .idle else b.updState }
  mboxFinal s e.tag 0x35 mbOk

/-- A pending command finishes. CTX_STOP, PWR_DOMAIN and ACTIVATE end with the event they wait for. -/
def pendDone (s : State) (e : PendCmd) (flashOk : Bool) : State :=
  match e.op.toNat with
  | 0x30 => endOpen s e flashOk
  | 0x31 => endWrite s e flashOk
  | 0x32 => endClose s e flashOk
  | 0x35 => endCommit s e
  | 0x36 => if s.mayReset then resetDevice s else s
  | _ => s

/-! ### The odometer (R459) -/

/-- The 64 bytes of an ODOMETER entry. -/
def odoBytes (s : State) : Bytes :=
  let o := s.boot.odo
  le 8 (o.powered + s.ticks / ticksPerSec) ++ le 8 (o.running + o.runTicks / ticksPerSec) ++ le 4 o.starts.toNat
    ++ le 4 o.resets.toNat ++ le 4 o.fencings.toNat ++ le 4 o.thermals.toNat ++ le 8 (o.hot + o.hotTicks / ticksPerSec)
    ++ le 2 o.maxTj.toNat ++ zeros 22

/-! ### Commands -/

/-- PARTITION_RESET_END (R261, R369, R374). -/
def execPartitionResetEnd (p : PartId) (us : U32) (s : State) : Res :=
  finish s (endReset s p us)

/-- WEIGHT_RELOAD (R261, R374). -/
def execWeightReload (p : PartId) (us : U32) (s : State) : Res :=
  finish s (endReload s p us)

/-- PROC_WDG (R454). -/
def execProcWdg (proc : Proc) (s : State) : Res := finish s (faultProc s proc cProcWdg)

/-- PROC_FAULT (R455). -/
def execProcFault (proc : Proc) (s : State) : Res := finish s (faultProc s proc cProcFault)

/-- PROC_RESTART_DONE (R455). -/
def execProcRestartDone (proc : Proc) (s : State) : Res :=
  finish s (if (s.proc proc).state = .restarting then procDone s proc else s)

/-- SEQUENCER_RESTART (R456). -/
def execSequencerRestart (p : PartId) (s : State) : Res := finish s (seqRestart s p)

/-- LIVE_ACTIVATION_STEP (R461). -/
def execLiveActivationStep (s : State) : Res := finish s (liveStep s)

/-- EMERGENCY_DEFER_RESUME (R462). -/
def execEmergencyDeferResume (s : State) : Res := finish s (deferResume s)

/-- EMERGENCY_DEFER_CANCEL (R462). -/
def execEmergencyDeferCancel (s : State) : Res := finish s (deferCancel s)

/-- MBOX_PENDING_COMPLETE (R501): the SVP, or the ROM in recovery, must run. -/
def execMboxPendingComplete (tag : U16) (flashOk : Bool) (s : State) : Res :=
  let s' := if s.boot.recovery || (s.proc .svp).state = .running then
      match s.hst.pend.find? fun e => e.tag = tag with
      | some e => pendDone s e flashOk
      | none => s
    else s
  finish s s'

/-- ODOMETER_APPEND (R459). -/
def execOdometerAppend (s : State) : Res :=
  finish s (if (s.proc .svp).state = .running then logAppend s 5 (odoBytes s) else s)

end Sys2Proof.Machine
end

