-- ==== Sys2Proof/Machine/Monitors.lean ====
section
/-!
DEFINITION. Machine/Monitors.lean: clock, voltage and temperature monitors and the start of the thermal emergency (R333 to
R335, R482).
-/

namespace Sys2Proof.Machine

/-- CLK_MON. -/
def cClkMon : U16 := 0x0901
/-- VOLT_MON. -/
def cVoltMon : U16 := 0x0902
/-- TEMP_MON. -/
def cTempMon : U16 := 0x0903

/-- DETAIL of class 9 (R358). -/
def monDetail (mon value : Nat) : Nat := mon % 256 + value % 2 ^ 32 * 256

/-- A die by its number in a source ID is populated: N1 is not on every part. -/
def dieThere (part : Part) (d : Fin 4) : Bool := d ≠ 3 || hasN1 part

/-- The median of a die's 32 readings, doubled: the sum of the two middle ones. -/
def median2 (l : List Int) : Int :=
  let m := l.insertionSort (· ≤ ·)
  m.getD 15 0 + m.getD 16 0

/-- The readings of a die. -/
def dieReadings (r : Vector Int 64) (d : Fin 2) : List Int := (r.toList.drop (32 * d.1)).take 32

/-- A sensor reads out of range: outside −55 °C to 175 °C, or more than 20 °C from the median of its die (R335). -/
def sensorBad (r : Vector Int 64) (i : Fin 64) : Bool :=
  let v := r.get i
  let m := median2 (dieReadings r ⟨i.1 / 32, by omega⟩)
  decide (v < -880) || decide (2800 < v) || decide (640 < (2 * v - m).natAbs)

/-- The thermal emergency begins (R482, R22): divider 10 everywhere, with no firmware on the path. -/
def thermalTrip (s : State) : State :=
  let s := s.onPwr fun p => { p with emerg := true, alert := true, thermCnt := sat32 p.thermCnt, clearAt := none }
  let s := s.onPins fun p => { p with thermAlertN := false }
  let s := (allFin 4).foldl (fun s p => s.onRail p fun x => { x.ask .d10 with forced := true, cooling := .d10 }) s
  let mark : CtxRt → CtxRt := fun x => { x with
    frame := if x.frame.inFlight then { x.frame with thermal := true } else x.frame
    latched := x.latched.map fun l => { l with thermal := true } }
  let s : State := { s with ctxs := s.ctxs.map mark }
  let wait : TallyItem → TallyItem := fun i => { i with thermal := true }
  let s := s.onTly fun t => { t with queue := t.queue.map wait }
  let s := event s srcAgg 0x0C08 none 0
  let s := s.onBoot fun b => { b with odo := { b.odo with thermals := b.odo.thermals + 1 } }
  refreshDev s

/-- The hottest reading and its sensor, the lowest on a tie. -/
def hotSensor (r : Vector Int 64) : Fin 64 := (allFin 64).foldl (fun b i => if r.get b < r.get i then i else b) 0

/-- A sample of the 64 sensors (R335, R482). A sensor raises its event when it leaves its range. -/
def takeSample (s : State) (r : Vector Int 64) : State :=
  let old := s.pwr.sensors
  let h := hotSensor r
  let t := r.get h
  let s := s.onPwr fun p => { p with sensors := r, tjMax := BitVec.ofInt 16 t, hotSensor := BitVec.ofNat 6 h.1 }
  let s := s.onBoot fun b => { b with odo := { b.odo with
    maxTj := if b.odo.maxTj.toInt < t then BitVec.ofInt 16 t else b.odo.maxTj } }
  let s := if 2240 ≤ t ∧ !s.pwr.emerg then thermalTrip s else s
  ((allFin 64).filter fun i => sensorBad r i && !sensorBad old i).foldl (fun s i =>
    raiseCode s (srcId (i.1 / 32) 0x25 (i.1 % 32)) cTempMon none (monDetail (i.1 % 32) (twos 32 (r.get i)))) s

/-! ### Commands -/

/-- VOLT_MON (R334): a device-scoped event and, while its condition holds, a power emergency (R462). -/
def execVoltMon (die : Fin 4) (mon : BitVec 6) (value : U32) (s : State) : Res :=
  let s' := if dieThere s.part die then
      raiseCode ((beginPower s).onPwr fun p => { p with voltCond := true }) (srcId die.1 0x24 mon.toNat) cVoltMon none
        (monDetail mon.toNat value.toNat)
    else s
  finish s s'

/-- CLK_MON (R333). -/
def execClkMon (die : Fin 4) (mon : BitVec 6) (value : U32) (s : State) : Res :=
  let s' := if dieThere s.part die then
      raiseCode s (srcId die.1 0x23 mon.toNat) cClkMon none (monDetail mon.toNat value.toNat)
    else s
  finish s s'

/-- TEMP_SAMPLE (R335, R482). -/
def execTempSample (readings : Vector Int 64) (s : State) : Res := finish s (takeSample s readings)

end Sys2Proof.Machine
end

