-- ==== Sys2Proof/Machine/Recorder.lean ====
section
/-!
DEFINITION. Machine/Recorder.lean: the host's recorder commands and the end of the post window (R394, R404).
-/

namespace Sys2Proof.Machine

/-- The host trigger of `REC_CMD.FREEZE`; it takes effect when the image sets HOST_REC. -/
def hostFreeze (s : State) : State := if s.hostRec then recTrigger s 3 0 else s

/-- `REC_CMD.RELEASE` ends a freeze: recording resumes over the oldest blocks, with no cause. -/
def hostRelease (s : State) : State :=
  if s.hostRec && s.recd.state = .frozen then
    let s : State := { s with io := s.io.map fun d => { d with tapBlock := none } }
    setRecState (s.onRec fun r => { r with cause := 0, ckptBlock := none }) .recording
  else s

/-- A write of `REC_CMD`: FREEZE, then RELEASE. -/
def recCmd (s : State) (v : U32) : State :=
  let s := if v.getLsbD 0 then hostFreeze s else s
  if v.getLsbD 1 then hostRelease s else s

/-- POST_MS are over: the recorder freezes. -/
def postEnds (s : State) : State := if s.recd.state = .postWindow then setRecState s .frozen else s

/-- REC_CMD_FREEZE (R394). -/
def execRecCmdFreeze (s : State) : Res := finish s (hostFreeze s)

/-- REC_CMD_RELEASE (R394). -/
def execRecCmdRelease (s : State) : Res := finish s (hostRelease s)

/-- RECORDER_POST_WINDOW_END (R394). -/
def execRecorderPostWindowEnd (s : State) : Res := finish s (postEnds s)

end Sys2Proof.Machine
end

