-- ==== Sys2Proof/Machine/Rules.lean ====
section
/-!
DEFINITION. Machine/Rules.lean: the Tally's schema, rules and golden checks (R300 to R306, R309).
-/

namespace Sys2Proof.Machine

/-! ### The tables (R298, R300, R303) -/

/-- A schema field (R300). -/
structure FieldCfg where
  /-- OFFSET. -/
  off : Nat
  /-- TYPE. -/
  ty : Nat
  /-- CMODE. -/
  counted : Bool
  /-- STRIDE. -/
  stride : Nat
  /-- MAXCNT. -/
  maxCnt : Nat
  /-- CNT_OFF. -/
  cntOff : Nat
  deriving DecidableEq, Repr

/-- A rule (R303). -/
structure RuleCfg where
  /-- TYPE. -/
  ty : Nat
  /-- ACT on violation. -/
  act : Nat
  /-- ACT when DEP is INCOMPLETE. -/
  depAct : Nat
  /-- FA. -/
  fa : Nat
  /-- FB. -/
  fb : Nat
  /-- Aggregate of A. -/
  aggA : Nat
  /-- Aggregate of B. -/
  aggB : Nat
  /-- DEP. -/
  dep : Nat
  /-- ARG0. -/
  arg0 : Int
  /-- ARG1. -/
  arg1 : Int
  /-- ARG2. -/
  arg2 : Int
  deriving DecidableEq, Repr

/-- NFIELD of a Tally context block. -/
def nField (t : Bytes) : Nat := byteAt t 2
/-- NDIG. -/
def nDig (t : Bytes) : Nat := byteAt t 3
/-- NRULE. -/
def nRule (t : Bytes) : Nat := fld t 4 2
/-- EVAL_BUDGET in µs. -/
def evalBudget (t : Bytes) : Nat := fld t 8 2

/-- Field `i` of the schema; none when the table has fewer. -/
def fieldCfg (t : Bytes) (i : Nat) : Option FieldCfg :=
  if i < nField t then
    let e := slice t (64 + 16 * i) 16
    some { off := fld e 0 4, ty := byteAt e 4, counted := byteAt e 5 = 1, stride := fld e 6 2, maxCnt := fld e 8 4
           cntOff := fld e 12 4 }
  else none

/-- Rule `i`. -/
def ruleCfg (t : Bytes) (i : Nat) : RuleCfg :=
  let e := slice t (64 + 16 * nField t + 32 * i) 32
  { ty := byteAt e 0, act := bits (byteAt e 1) 1 0, depAct := bits (byteAt e 1) 3 2, fa := byteAt e 2, fb := byteAt e 3
    aggA := bits (byteAt e 4) 3 0, aggB := bits (byteAt e 4) 7 4, dep := byteAt e 5
    arg0 := sgn 64 (fld e 8 8), arg1 := sgn 64 (fld e 16 8), arg2 := sgn 64 (fld e 24 8) }

/-- Expected digest `i`. -/
def expectedDigest (t : Bytes) (i : Nat) : Bytes := slice t (64 + 16 * nField t + 32 * nRule t + 32 * i) 32

/-- Bytes of an element of a type (R300). -/
def elemSize : Nat → Nat
  | 0 | 1 => 1
  | 2 | 3 => 2
  | 4 | 5 => 4
  | 8 => 32
  | _ => 8

/-- Elements of a field in a payload. -/
def fieldCount (f : FieldCfg) (pl : Bytes) : Nat := if f.counted then fld pl f.cntOff 4 else f.maxCnt

/-- The bytes of element `i`. -/
def elemBytes (f : FieldCfg) (pl : Bytes) (i : Nat) : Bytes := slice pl (f.off + f.stride * i) (elemSize f.ty)

/-- The int64 value of element `i` (R300). -/
def elemInt (f : FieldCfg) (pl : Bytes) (i : Nat) : Int :=
  let n := unle (elemBytes f pl i)
  match f.ty with
  | 1 => sgn 8 n
  | 3 => sgn 16 n
  | 5 => sgn 32 n
  | 6 => sgn 64 n
  | _ => n

/-- The elements of a field. -/
def fieldInts (f : FieldCfg) (pl : Bytes) : List Int := (List.range (fieldCount f pl)).map (elemInt f pl)

/-! ### The frame as the Tally reads it -/

/-- What a judgment reads: table, header and payload of the record. -/
structure Judged where
  /-- The Tally table of the context. -/
  tab : Bytes
  /-- The 128-byte header. -/
  hdr : Bytes
  /-- The payload. -/
  pl : Bytes
  deriving DecidableEq, Repr

/-- PAYLOAD_LEN. -/
def Judged.plen (j : Judged) : Nat := fld j.hdr 0x58 4
/-- T_SEAL. -/
def Judged.tSeal (j : Judged) : U64 := BitVec.ofNat 64 (fld j.hdr 0x20 8)
/-- INCOMPLETE. -/
def Judged.incomplete (j : Judged) : Nat := fld j.hdr 0x68 8

/-- Number of 1 bits of a 64-bit value. -/
def ones64 (n : Nat) : Nat := ((List.range 64).filter n.testBit).length

/-- The value of a pseudo-field (R302). -/
def pseudo (j : Judged) (i : Nat) : Int :=
  if 0xC0 ≤ i ∧ i ≤ 0xCD then b2n (bit (fld j.hdr 0x54 4) (i - 0xC0))
  else match i with
    | 0xD0 => fld j.hdr 0x60 4
    | 0xD1 => fld j.hdr 0x50 4
    | 0xD2 => fld j.hdr 0x70 4
    | 0xD3 => ones64 j.incomplete
    | 0xD4 => fld j.hdr 0x64 4
    | 0xD5 => tsDiff j.tSeal (BitVec.ofNat 64 (fld j.hdr 0x10 8))
    | _ => 0

/-- The elements that a field index names. -/
def valuesOf (j : Judged) (i : Nat) : List Int :=
  if 0xC0 ≤ i then [pseudo j i]
  else match fieldCfg j.tab i with
    | some f => fieldInts f j.pl
    | none => []

/-- The number of elements of a field index. -/
def countOf (j : Judged) (i : Nat) : Nat :=
  if 0xC0 ≤ i then 1
  else match fieldCfg j.tab i with
    | some f => fieldCount f j.pl
    | none => 0

/-- An aggregate (R303). `e` stands for the smallest or largest element of a field with none, which the spec does not
state. -/
def aggregate (agg : Nat) (e : Int) (j : Judged) (i : Nat) : Int :=
  if agg = 4 then countOf j i
  else
    let l := valuesOf j i
    match agg, l with
    | 1, x :: r => r.foldl min x
    | 2, x :: r => r.foldl max x
    | 3, _ => l.foldl (· + ·) 0
    | 5, _ => (l.filter (· ≠ 0)).length
    | _, _ => e

/-! ### Schema bounds (R301) -/

/-- Every element of a field lies inside the payload. -/
def fieldFits (j : Judged) (i : Nat) : Bool :=
  if 0xC0 ≤ i then true
  else match fieldCfg j.tab i with
    | none => true
    | some f =>
      let n := fieldCount f j.pl
      n = 0 || decide (f.off + f.stride * (n - 1) + elemSize f.ty ≤ j.plen)

/-- A rule is skipped because its stream is INCOMPLETE (R306). -/
def skipped (j : Judged) (r : RuleCfg) : Bool := r.dep ≠ 0xFF && bit j.incomplete (r.dep % 64)

/-- The elements that a rule reads lie inside the payload. -/
def ruleFits (j : Judged) (r : RuleCfg) : Bool :=
  skipped j r ||
    ((r.aggA = 4 || fieldFits j r.fa) && (r.ty ≠ 4 || r.aggB = 4 || fieldFits j r.fb))

/-- The schema is well formed for the record (R301). -/
def schemaOk (j : Judged) : Bool :=
  decide (fld j.hdr 6 2 = fld j.tab 0 2) &&
  ((List.range (nField j.tab)).all fun i => match fieldCfg j.tab i with
    | some f => !f.counted || (decide (f.cntOff + 4 ≤ j.plen) && decide (fieldCount f j.pl ≤ f.maxCnt))
    | none => true) &&
  (List.range (nRule j.tab)).all fun i => ruleFits j (ruleCfg j.tab i)

/-! ### Rules (R304 to R306) -/

/-- A previous value of a DELTA rule: rule, frame, value (R305). -/
abbrev PrevVal := Nat × U32 × Int

/-- The previous value that a DELTA rule may use. -/
def prevOf (l : List PrevVal) (i : Nat) (frame : U32) (gap : Int) : Option Int :=
  match l.find? fun e => e.1 = i with
  | none => none
  | some e =>
    let d := (frame - e.2.1).toNat
    if 1 ≤ d ∧ (d : Int) ≤ gap then some e.2.2 else none

/-- The ages that an AGE rule considers, in ns. -/
def agesOf (j : Judged) (r : RuleCfg) : List Int :=
  let age := fun t : Nat => tsDiff j.tSeal (BitVec.ofNat 64 t)
  if r.fa = 0xFF then [age (fld j.hdr 0x18 8)]
  else
    let l := (valuesOf j r.fa).map (·.toNat)
    match r.aggA, l with
    | 1, x :: t => [age (t.foldl min x)]
    | 2, x :: t => [age (t.foldl max x)]
    | _, _ => l.map age

/-- The classes that a STATUS rule counts. -/
def statusCount (cl : Vector U32 16) (mask : Nat) : Nat :=
  sumN ((allFin 16).map fun k => if mask.testBit k.1 then (cl.get k).toNat else 0)

/-- A rule is violated (R304). `e` as in `aggregate`; `prev` is v_prev of a DELTA rule. -/
def violated (j : Judged) (cl : Vector U32 16) (r : RuleCfg) (prev : Option Int) (e : Nat → Int) : Bool :=
  let out := fun x : Int => decide (x < r.arg0) || decide (r.arg1 < x)
  match r.ty with
  | 1 =>
    if r.aggA = 0 then decide (r.arg2 < ((valuesOf j r.fa).filter out).length)
    else out (aggregate r.aggA (e 0) j r.fa)
  | 2 =>
    let n := ((valuesOf j r.fa).filter fun x => !out x).length
    let w := twos 64 r.arg2
    decide (n < w % 2 ^ 32) || decide (w / 2 ^ 32 < n)
  | 3 => match prev with
    | some p => decide (r.arg0 < ((aggregate r.aggA (e 0) j r.fa - p).natAbs : Int))
    | none => false
  | 4 =>
    let a := aggregate r.aggA (e 0) j r.fa
    let b := aggregate r.aggB (e 1) j r.fb
    decide (r.arg2 < ((r.arg0 * a - r.arg1 * b).natAbs : Int))
  | 5 => (agesOf j r).any fun x => decide (r.arg0 < x) || decide (x < -r.arg1)
  | 6 => decide (r.arg1 < statusCount cl (twos 64 r.arg0))
  | 7 => match fieldCfg j.tab r.fa with
    | some f => decide (elemBytes f j.pl 0 ≠ expectedDigest j.tab r.arg0.toNat)
    | none => false
  | _ => false

/-- What an evaluation leaves: outcomes above 0 as (rule, action), the violation map and the values of DELTA rules. -/
structure Outcome where
  /-- Rules with a non-zero outcome. -/
  acts : List (Nat × Nat)
  /-- VIOL. -/
  viol : Nat
  /-- v_prev of each DELTA rule. -/
  prev : List PrevVal
  deriving DecidableEq, Repr

/-- One rule (R305, R306). -/
def evalRule (j : Judged) (cl : Vector U32 16) (frame : U32) (free : Nat) (o : Outcome) (i : Nat) : Outcome :=
  let r := ruleCfg j.tab i
  if skipped j r then
    if r.depAct = 0 then o else { o with acts := o.acts ++ [(i, r.depAct)], viol := o.viol + 2 ^ i }
  else
    let e := fun k => Config.emptyAggregate (free + 2 * i + k)
    let v := violated j cl r (prevOf o.prev i frame r.arg1) e
    let o := if r.ty = 3 then
        { o with prev := (i, frame, aggregate r.aggA (e 0) j r.fa) :: o.prev.filter fun p => decide (p.1 ≠ i) }
      else o
    if !v then o
    else { o with acts := if r.act = 0 then o.acts else o.acts ++ [(i, r.act)], viol := o.viol + 2 ^ i }

/-- The first `n` rules, in ascending index (R307). -/
def evalRules (j : Judged) (cl : Vector U32 16) (frame : U32) (free n : Nat) (prev : List PrevVal) : Outcome :=
  (List.range n).foldl (evalRule j cl frame free) { acts := [], viol := 0, prev := prev }

end Sys2Proof.Machine
end

