-- ==== Sys2Proof/Machine/Tally.lean ====
section
/-!
DEFINITION. Machine/Tally.lean: judging a frame, delivering a verdict, the verdict deadline, the lock-step of the Tally and
ERR_OUT_N (R297, R309, R312 to R322), and the replay comparator (R399).
-/

namespace Sys2Proof.Machine

/-! ### The replay comparator (R399) -/

/-- Two headers agree in the fields of R378: TRUNCATED, INCOMPLETE, NDC and FLAGS bits 0, 1, 2, 5, 8, 12, 13. -/
def sameFields (a b : Bytes) : Bool :=
  fld a 0x60 4 = fld b 0x60 4 && fld a 0x68 8 = fld b 0x68 8 && fld a 0x50 4 = fld b 0x50 4 &&
    decide (fld a 0x54 4 &&& 0x3127 = fld b 0x54 4 &&& 0x3127)

/-- A frame whose DIGEST differs with no non-determinism: the first one is latched and may stop the feeder. -/
def digestDiffers (r : RepRegs) (frame : U32) : RepRegs :=
  let r := { r with digestDiff := sat32 r.digestDiff }
  if r.hasFirst then r
  else { r with hasFirst := true, firstFrame := frame, stopped := r.rflags.getLsbD 1 }

/-- Classifies a replayed frame by its header as SEAL wrote it, and its verdict. -/
def replayClass (s : State) (c : CtxId) (frame : U32) (hdr : Bytes) (v reason : Nat) : RepRegs :=
  let r := s.rep
  match s.resultMark c frame with
  | none => { r with unchecked := sat32 r.unchecked }
  | some x =>
    let old := x.payload
    let sameV := decide (byteAt old (128 + 7) = v) && decide (fld old (128 + 10) 2 = reason)
    if !x.ok || r.spoiled.contains (c.1, frame.toNat) then { r with unchecked := sat32 r.unchecked }
    else if bit (fld old (128 + 0x50) 4) 0 then
      if sameV then r else { r with verdictDiff := sat32 r.verdictDiff }
    else if slice hdr 0x30 32 ≠ slice old 0x30 32 then
      if fld hdr 0x50 4 ≠ 0 ∨ fld old 0x50 4 ≠ 0 then { r with nondet := sat32 r.nondet } else digestDiffers r frame
    else if !sameFields hdr old then { r with fieldDiff := sat32 r.fieldDiff }
    else if !sameV then { r with verdictDiff := sat32 r.verdictDiff }
    else { r with matchCnt := sat32 r.matchCnt }

/-! ### Delivering a verdict (R312 to R322) -/

/-- A verdict with what it carries. -/
structure Judgment where
  /-- PASS, DEGRADED or FAIL. -/
  v : Verdict
  /-- REASON. -/
  reason : Nat
  /-- VIOL. -/
  viol : Nat
  /-- EVAL_NS. -/
  evalNs : Nat
  /-- Written by the deadline unit. -/
  deadline : Bool
  deriving DecidableEq, Repr

/-- The 96-byte verdict record (R313). -/
def verdictRecord (s : State) (i : TallyItem) (j : Judgment) : Bytes :=
  withCrc32 (le 4 0x56445A42 ++ le 2 1 ++ le 1 i.ctx.1 ++ le 1 (verdictNum j.v) ++ le 2 i.gen.toNat ++ le 2 j.reason
    ++ le 4 i.frame.toNat ++ le 4 i.recordSeq.toNat ++ le 4 (s.ctx i.ctx).vseq.toNat ++ le 8 i.tSeal.toNat
    ++ le 8 s.now64.toNat ++ le 32 j.viol ++ le 4 i.nFault.toNat ++ le 4 j.evalNs
    ++ le 4 (b2n i.record.isNone + 2 * b2n j.deadline + 4 * b2n i.replay + 8 * b2n i.degradedWin) ++ zeros 8)

/-- The header with its verdict fields and a new HDR_CRC (R79, R82). -/
def judgedHeader (hdr : Bytes) (t : U64) (v : Verdict) (reason : Nat) : Bytes :=
  withCrc32 (patch (patch (slice hdr 0 124) 0x28 (le 8 t.toNat)) 0x5C (le 1 (verdictNum v) ++ zeros 1 ++ le 2 reason))

/-- Counts of the Tally (R324). -/
def countVerdict (t : TlyRegs) (j : Judgment) : TlyRegs :=
  { t with
    verdicts := t.verdicts + 1
    fails := if j.v = .fail then sat32 t.fails else t.fails
    degraded := if j.v = .degraded then sat32 t.degraded else t.degraded
    deadline := if j.deadline then sat32 t.deadline else t.deadline
    evalMax := if t.evalMax.toNat < j.evalNs then BitVec.ofNat 32 j.evalNs else t.evalMax }

/-- What a verdict does to overrides and to the egress stop latch of its context (R319, R320). -/
def settleCtx (s : State) (i : TallyItem) (j : Judgment) : State :=
  let c := i.ctx
  let s := s.onCtx c fun x => { x with verdict := j.v, reason := BitVec.ofNat 16 j.reason, hasVerdict := true, vseq := x.vseq + 1 }
  if j.v = .fail then
    reactCtx s c
  else
    let open_ := (s.ctx c).state = .run && decide (i.gen = (s.ctx c).gen)
    let s := s.onCtx c fun x => { x with override := false, stopLatch := x.stopLatch && !open_ }
    let left := s.tly.devAwait.filter fun k => decide (k ≠ c)
    s.onTly fun t => { t with
      devAwait := left, devOverride := t.devOverride && !(left.isEmpty && t.devAwait.contains c) }

/-- The record that a verdict is released with (R314). -/
def deliver (s : State) (i : TallyItem) (j : Judgment) (vrec : Bytes) : State :=
  match i.record, s.holdMode i.ctx && !j.deadline with
  | some a, true =>
    if i.lost then release s i.ctx vrec
    else
      let s := s.poke (i.ctx, i.gen) a (judgedHeader (s.peek a 128) s.now64 j.v j.reason)
      if j.v = .fail then release s i.ctx vrec else releaseResult s i.ctx (s.recordBytes a)
  | _, _ => release s i.ctx vrec

/-- The recorder's RESULT_MARK (R389). -/
def resultMarkRec (s : State) (i : TallyItem) (hdr vrec : Bytes) : State :=
  if s.recActive && s.recItems.any fun x => x.kind = 7 && decide (x.markCtx = i.ctx.1) then
    recWrite s (.tap 0) srcMark 8 0 s.now64 (i.ctx.1 + 16 * b2n i.record.isNone) (slice hdr 0 128 ++ vrec)
  else s

/-- A verdict freezes the recorder as its context selects (R394). -/
def verdictFreeze (s : State) (i : TallyItem) (j : Judgment) : State :=
  let on := s.freezeOn i.ctx
  if (j.v = .fail ∧ 1 ≤ on) ∨ (j.v = .degraded ∧ on = 2) then
    recTrigger s 1 (BitVec.ofNat 32 ((ctxGen i.ctx i.gen).toNat * 65536 + j.reason))
  else s

/-- Writes a verdict and all that follows it. -/
def giveVerdict (s : State) (i : TallyItem) (j : Judgment) : State :=
  let hdr := match i.record with
    | some a => if i.lost then zeros 128 else s.peek a 128
    | none => zeros 128
  let vrec := verdictRecord s i j
  let s := resultMarkRec s i hdr vrec
  let s := s.onTly fun t => countVerdict t j
  let s := settleCtx s i j
  let s := deliver s i j vrec
  let s := if i.replay then { s with rep := replayClass s i.ctx i.frame hdr (verdictNum j.v) j.reason } else s
  let s := verdictFreeze s i j
  if s.aliveCtx i.ctx && !j.deadline && !i.replay && s.dev != .replay then s.onPins fun p => { p with alive := !p.alive } else s

/-! ### Judging (R301, R307, R309, R312) -/

/-- HDR_CRC is right. -/
def hdrCrcOk (hdr : Bytes) : Bool := decide (fld hdr 124 4 = (crc32 (hdr.take 124)).toNat)

/-- The golden inputs were processed (R309). -/
def goldenOk (s : State) (i : TallyItem) : Bool :=
  let t := s.tallyTab i.ctx
  let want : U64 := BitVec.ofNat 64 (fld t 0x14 8)
  decide (i.goldDone.toNat = fld t 0x10 4) && decide (want &&& i.goldStreams = want)

/-- A core's self-test pass is overdue in a partition where the context has work (R349). -/
def State.passOverdue (s : State) (c : CtxId) : Bool :=
  (allFin 12).any fun k => (s.core k).lst.overdue && !s.isFenced k && s.hasWork c (partOfCore k)

/-- Sources that do not rest on the record's contents: (level, code), level 1 DEGRADED, 2 FAIL. -/
def plainSources (s : State) (i : TallyItem) : List (Nat × Nat) :=
  (if i.faulted then [(2, 0x0001)] else []) ++ (if i.devFault then [(2, 0x0002)] else []) ++
  (if s.tly.selftestOk then [] else [(2, 0x0003)]) ++
  (if i.record.isSome && !goldenOk s i then [(2, 0x0007)] else []) ++ (if i.lost then [(2, 0x0009)] else []) ++
  (if s.coreFencedFor i.ctx then [(1, 0x0010)] else []) ++ (if s.passOverdue i.ctx then [(1, 0x0011)] else []) ++
  (if i.thermal || s.pwr.emerg then [(1, 0x0012)] else [])

/-- The worst level and the lowest code at it (R312). -/
def worst (l : List (Nat × Nat)) : Verdict × Nat :=
  let m := l.foldl (fun m e => max m e.1) 0
  let code := ((l.filter fun e => e.1 = m).map (·.2)).foldl min 0xFFFF
  if m = 0 then (.pass, 0) else if m = 1 then (.degraded, code) else (.fail, code)

/-- Judges a frame that waits: the verdict, the values of DELTA rules, and the free values used. -/
def judge (s : State) (i : TallyItem) (evalNs : Nat) : Judgment × List PrevVal × Nat :=
  let x := s.ctx i.ctx
  let plain := plainSources s i
  let stop : List (Nat × Nat) → Judgment × List PrevVal × Nat := fun l =>
    let w := worst l
    (⟨w.1, w.2, 0, evalNs, false⟩, x.prev, 0)
  match i.record with
  | none => stop plain
  | some a =>
    if plain.any fun e => decide (e.2 ≤ 3) || decide (e.2 = 9) then stop plain
    else
      let hdr := s.peek a 128
      if !hdrCrcOk hdr then stop (plain ++ [(2, 0x0005)])
      else
        let j : Judged := { tab := s.tallyTab i.ctx, hdr := hdr, pl := s.peek (a + 128) (fld hdr 0x58 4) }
        if !schemaOk j then stop (plain ++ [(2, 0x0006)])
        else
          let late := decide (1000 * evalBudget j.tab < evalNs)
          let n := nRule j.tab
          let m := if late then min n (Config.rulesDone s.free) else n
          let o := evalRules j i.classes i.frame (s.free + 1) m x.prev
          let acts := o.acts.map fun e => (min 2 e.2, 0x1000 + e.1)
          let w := worst (plain ++ (if late then [(2, 0x0008)] else []) ++ acts)
          (⟨w.1, w.2, o.viol, evalNs, false⟩, o.prev, 1 + 2 * n)

/-- The frame whose turn it is (R312). -/
def State.tallyHead (s : State) : Option TallyItem := s.tly.queue.find? fun i => !i.unqueued

/-- The Tally reads the record: an uncorrectable word or a transport error on the way faults the context, and a read at an
isolated partition is discarded (R30, R239, R256, R312). -/
def readRecord (s : State) (i : TallyItem) (f : Facts) : State :=
  match i.record with
  | none => s
  | some a =>
    let cg := some (i.ctx, i.gen)
    let s := applyFacts s f cg
    let n := 128 + min (fld (s.peek a 128) 0x58 4) 0x1000000
    match s.badIn a n false with
    | some k => raiseRun s (ueFlt s.part k) cg
    | none => match f.xport with
      | some x => raiseCode s srcTally cXportCrc cg x.toNat
      | none => s

/-- The Tally judges its next frame. A frame that the deadline unit has judged is dropped (R315). -/
def takeVerdict (s : State) (evalNs : Nat) (f : Facts) : State :=
  match s.tallyHead with
  | none => s
  | some i =>
    if !s.tly.ready || s.tly.restarting then s
    else if i.late then s.onTly fun t => { t with queue := t.queue.erase i, deadline := sat32 t.deadline }
    else
      let s := s.onTly fun t => { t with ceCnt := BitVec.ofNat 8 (min 255 (t.ceCnt.toNat + f.tallyCe)) }
      let s := readRecord s i f
      match s.tallyHead with
      | none => s
      | some i =>
        let r := judge s i evalNs
        let s := s.onTly fun t => { t with queue := t.queue.erase i }
        let s : State := { s with free := s.free + r.2.2 }
        let s := s.onCtx i.ctx fun x => if i.gen = x.gen then { x with prev := r.2.1 } else x
        giveVerdict s i r.1

/-! ### The deadline unit (R315) -/

/-- TALLY_LATE. -/
def cTallyLate : U16 := 0x0A03

/-- The verdict deadline of a context's oldest frame: FAIL, TALLY_LATE, and its event. -/
def deadline (s : State) (c : CtxId) : State :=
  match s.tly.queue.find? fun i => decide (i.ctx = c) && !i.late with
  | none => s
  | some i =>
    let lateItem : TallyItem → TallyItem := fun k => if k = i then { k with late := true } else k
    let q := if i.unqueued then s.tly.queue.erase i else s.tly.queue.map lateItem
    let s := s.onTly fun t => { t with queue := q }
    let s := giveVerdict s i ⟨.fail, 0x0004, 0, 0, true⟩
    let s := s.onCtx c fun x => { x with stopLatch := true }
    raiseCode s (srcId 2 0x22 c.1) cTallyLate (some (i.ctx, i.gen))

/-! ### Commands -/

/-- TALLY_VERDICT (R312). -/
def execTallyVerdict (evalNs : U32) (f : Facts) (s : State) : Res := finish s (takeVerdict s evalNs.toNat f)

/-- VERDICT_DEADLINE (R315). -/
def execVerdictDeadline (c : CtxId) (s : State) : Res := finish s (deadline s c)

/-- TALLY_LOCKSTEP (R297): a device-scoped event; the Tally restarts, and a second event within 1 h is SAFE state. -/
def execTallyLockstep (sram : Bool) (s : State) : Res :=
  let again := match s.tly.lockstepAt with
    | some t => s.within t 3600
    | none => false
  let s' := raiseCode s srcTally (if sram then 0x0A02 else 0x0A01) none
  let s' := s'.onTly fun t => { t with lockstepErr := true, lockstepAt := some s.ticks }
  let s' := if again then enterSafe s' else s'
  finish s (if (s'.proc .tally).state = .running then restartProc s' .tally true else s')

/-- ERR_HOLD_EXPIRY (R321): ERR_HOLD has passed since the last event. ERR_OUT_N is released as soon as SAFE_ST is not 0b00 too,
once the start-up test has passed. -/
def execErrHoldExpiry (s : State) : Res := finish s (s.onTly fun t => { t with holdOver := true })

end Sys2Proof.Machine
end

