-- ==== Sys2Proof/Machine/Replay.lean ====
section
/-!
DEFINITION. Machine/Replay.lean: the start and the end of a replay (R396, R397, R399) and the replay feeder (R397, R398).
-/

namespace Sys2Proof.Machine

/-! ### The recorded region (R385 to R388, R396) -/

/-- A recorder region as a replay reads it: its header and its extents. -/
structure Recorded where
  /-- The 4 KiB header. -/
  hdr : Bytes
  /-- Extents: base and size in MiB. -/
  ext : List (Nat × Nat)
  deriving DecidableEq, Repr

/-- The region that a replay control block names: extents as recorded, or concatenated at SRC (LOADED). -/
def recordedAt (s : State) (src : Nat) (loaded : Bool) : Recorded :=
  let h := s.peek src 4096
  let ext := ((List.range 4).map fun i => (fld h (0x30 + 8 * i) 6, fld h (0x36 + 8 * i) 2)).filter (·.2 ≠ 0)
  { hdr := h, ext := if loaded then [(src, sumN (ext.map (·.2)))] else ext }

/-- The blocks that the region retains, oldest first: from KEEP up to WBLK. -/
def Recorded.order (r : Recorded) : List Nat :=
  let n := fld r.hdr 8 4
  let w := fld r.hdr 0x0C 4
  let k := fld r.hdr 0x10 4
  let len := if (w + n - k) % max 1 n = 0 then n else (w + n - k) % max 1 n
  (List.range len).map fun i => (k + i) % max 1 n

/-- The records that the region retains. -/
def Recorded.items (r : Recorded) (s : State) : List RecItem :=
  let head := recHeadMib (sumN (r.ext.map (·.2)))
  parseRegion s.peek s.ueIn (fun n => extAddr r.ext ((head + n) * mib)) (fun n => extAddr r.ext (4096 + 16 * n)) r.order

/-! ### What a replay takes from it (R396, R397, R399) -/

/-- The save of a context that a replay restores: the latest at or before START, or the oldest retained. -/
def chosenSave (items : List RecItem) (start : Nat) (c : CtxId) : Option RecItem :=
  let l := items.filter fun x => x.kind = 6 && x.ok && decide (x.ckptCtx = c.1)
  if start = 0xFFFFFFFF then l.head? else (l.filter fun x => decide (x.ckptFrame ≤ start)).getLast?

/-- The FRAME_MARKs to apply: those of the replayed contexts after their saves, up to END. -/
def marksOf (items : List RecItem) (saves : List (CtxId × RecItem)) (last : Nat) : List RecItem :=
  items.filter fun x => x.kind = 7 && x.ok && (last = 0xFFFFFFFF || decide (x.markFrame ≤ last)) &&
    saves.any fun e => decide (e.1.1 = x.markCtx) && decide (0 ≤ tsDiff x.time e.2.time)

/-- Stream entries of a FRAME_MARK: stream, buffer, SOURCE and SEQ (R392). -/
def RecItem.entries (x : RecItem) : List (Nat × Fin 2 × U16 × U32) :=
  x.markStreams.map fun e => (e.1 % 64, ⟨e.1 / 64 % 2, Nat.mod_lt _ (by decide)⟩, BitVec.ofNat 16 e.2.1, BitVec.ofNat 32 e.2.2)

/-- Kinds of records that the feeder injects or applies in the order of TIME. -/
def fedKind (k : Byte) : Bool := [1, 2, 3, 4, 5, 9].contains k.toNat

/-- The ingress records to inject: of each source from the first record that a frame names on, else from the earliest
save on. -/
def ingressOf (items marks : List RecItem) (saves : List (CtxId × RecItem)) : List RecItem :=
  let named := marks.flatMap (·.entries)
  items.filter fun x =>
    fedKind x.kind &&
    if named.any fun e => e.2.2.1 = x.src then named.any fun e => e.2.2.1 = x.src && !(x.seq - e.2.2.2).msb
    else saves.any fun e => decide (0 ≤ tsDiff x.time e.2.time)

/-- The next record of the merge: of the first records of all sources the one with the least TIME, then SOURCE (R397). -/
def mergeNext (l : List RecItem) : Option RecItem :=
  let heads := l.foldl (fun acc x => if acc.any fun y => decide (y.src = x.src) then acc else acc ++ [x]) []
  match heads with
  | [] => none
  | a :: r => some (r.foldl (fun a b =>
      if tsDiff b.time a.time < 0 || (tsDiff b.time a.time = 0 && decide (b.src.toNat < a.src.toNat)) then b else a) a)

/-- The merge of the sources, each in its own order. The first argument bounds the number of records. -/
def mergeAll : Nat → List RecItem → List RecItem
  | 0, _ => []
  | n + 1, l => match mergeNext l with
    | none => []
    | some x => x :: mergeAll n (l.erase x)

/-- Virtual channel of a camera record. -/
def RecItem.vc (x : RecItem) : Nat := bits x.aux.toNat 7 6
/-- The record is an FS. -/
def RecItem.isFs (x : RecItem) : Bool := x.kind = 3 && !x.aux.getLsbD 0

/-- The records of a source from the one named on, through the one that starts the next frame or sweep of its stream. -/
def bufferSpan (items : List RecItem) (named : List U32) (src : U16) (seq : U32) : List RecItem :=
  match (items.filter (·.src = src)).dropWhile (·.seq ≠ seq) with
  | [] => []
  | x :: r =>
    let next (y : RecItem) : Bool := if x.kind = 3 then y.isFs && decide (y.vc = x.vc) else named.contains y.seq
    let own := r.takeWhile fun y => !next y
    x :: own ++ (r.drop own.length).take 1

/-- The records that a buffer consumed: of a camera those of its virtual channel before the next frame, of a flow also the record
in which the next sweep starts. -/
def bufferItems (span : List RecItem) : List RecItem :=
  match span with
  | [] => []
  | x :: r => if x.kind ≠ 3 then span
    else x :: (r.filter fun y => (y.kind = 9 || decide (y.vc = x.vc)) && !(y.isFs && decide (y.vc = x.vc)))

/-- The records that a buffer consumed are all there: the source has no gap in SEQ from the first one on, and a camera frame has its
FE or is followed by the next frame (R388, R403). -/
def noGap (span : List RecItem) : Bool :=
  match span with
  | [] => false
  | x :: r => (span.zip r).all (fun e => decide (e.1.next = e.2.seq)) &&
    (x.kind ≠ 3 || r.any fun y => y.kind = 3 && decide (y.vc = x.vc))

/-- The frames that consume a record which failed its CRC, was LOSS or is missing (R399, R403). -/
def spoiledFrames (items marks : List RecItem) : List (Nat × Nat) :=
  (marks.filter fun m => m.entries.any fun e =>
      let named := (marks.flatMap (·.entries)).filterMap fun k => if k.1 = e.1 && k.2.2.1 = e.2.2.1 then some k.2.2.2 else none
      let l := bufferSpan items named e.2.2.1 e.2.2.2
      !noGap l || (bufferItems l).any fun y => !y.ok || y.kind = 9).map fun m => (m.markCtx, m.markFrame)

/-! ### Start and end (R396, R397, R399) -/

/-- A recorded SOURCE names the I/O die N1 on a part without it. -/
def dieAbsent (s : State) (items : List RecItem) : Bool := !hasN1 s.part && items.any fun x => bits x.src.toNat 15 12 = 3

/-- Why a replay is refused: the number of `REP_STATUS.ERROR` (R396). -/
def replayError (s : State) (r : Recorded) (items : List RecItem) (sel : List CtxId) (start : Nat) : Option (BitVec 4) :=
  if !s.replayEn || s.dev = .safe then some 1
  else if (crc32 (r.hdr.take 0xFFC)).toNat ≠ fld r.hdr 0xFFC 4 then some 2
  else if sel.any fun c => slice r.hdr (0x100 + 32 * c.1) 32 ≠ slice (s.boot.prog.get c) 0 32 ∨
      slice r.hdr (0x300 + 32 * c.1) 32 ≠ slice (s.boot.wgt.get c) 0 32 then some 3
  else if sel.any fun c => (chosenSave items start c).isNone then some 4
  else if dieAbsent s items then some 5
  else none

/-- The replay control block that `REP_CB` points at (R396). -/
def State.replayCb (s : State) : Bytes := s.peek s.rep.cb.toNat 64

/-- The records of the region that it names. -/
def State.replayItems (s : State) : List RecItem :=
  let r := recordedAt s (fld s.replayCb 0 6) (bit (byteAt s.replayCb 0x0A) 2)
  r.items s

/-- The contexts of its CTX_MASK. -/
def State.replaySel (s : State) : List CtxId := (allFin 16).filter fun c => bit (fld s.replayCb 8 2) c.1

/-- Why a START now would be refused; none when it is accepted (R396). -/
def State.startError (s : State) : Option (BitVec 4) :=
  replayError s (recordedAt s (fld s.replayCb 0 6) (bit (byteAt s.replayCb 0x0A) 2)) s.replayItems s.replaySel
    (fld s.replayCb 0x0C 4)

/-- A context is stopped for a replay: torn down without an answer to anyone, or on its way out already (R361, R397). -/
def stopForReplay (s : State) (c : CtxId) : State :=
  let x := s.ctx c
  let list (s : State) : State := s.onRep fun r => { r with stopping := r.stopping ++ [c] }
  match x.state with
  | .idle => s
  | .faulted => setCtxState s c .idle
  | .draining => if x.stopTag.isNone && !s.rep.stopping.contains c then list s else s
  | .starting | .run => list ((teardown s c (some 0) 0).onCtx c fun y => { y with stopTag := none })

/-- Stops every context. -/
def stopAll (s : State) : State := (allFin 16).foldl stopForReplay s

/-- The replay has ended: TYPE 5 tells the host (R399, R497). -/
def replayEnds (s : State) : State :=
  let s := s.onRep fun r => { r with active := false, finished := true }
  svpIrq s 5 (le 4 (16 * s.rep.error.toNat + 2))

/-- `REP_CTRL.START`: refused with an error, or every context is stopped and the device enters REPLAY (R396, R397). -/
def replayStart (s : State) : State :=
  if s.rep.active then s
  else
    let cb := s.replayCb
    let items := s.replayItems
    match s.startError with
    | some e => s.onRep fun x => { x with error := e }
    | none =>
      let saves := s.replaySel.filterMap fun c => (chosenSave items (fld cb 0x0C 4) c).map fun x => (c, x)
      let marks := marksOf items saves (fld cb 0x10 4)
      let feed := mergeAll (items.length + 1) (ingressOf items marks saves ++ marks)
      let s := s.onRep fun x => { x with
        error := 0, finished := false, active := true, hasFirst := false, stopped := false
        mask := BitVec.ofNat 16 (fld cb 8 2), rflags := BitVec.ofNat 8 (byteAt cb 0x0A), endFrame := BitVec.ofNat 32 (fld cb 0x10 4)
        feed := feed, marks := marks, results := items.filter (·.kind = 8), saves := saves
        spoiled := spoiledFrames items marks }
      let s := (stopAll s).onTb fun b => { b with hold := true }
      startReplayed { s with dev := .replay }

/-- `REP_CTRL.END`: the replay ends, its contexts stop, and the device returns to CONFIGURED, where the image's contexts
start as at boot (R399). -/
def replayEnd (s : State) : State :=
  if s.dev ≠ .replay then s
  else
    let s := if s.rep.active then replayEnds s else s
    let s := (stopAll s).onTb fun b => { b with hold := false }
    let s : State := { s with dev := .configured }
    ((allFin 16).filter fun c => (s.ctx c).state = .idle).foldl bootStart s

/-! ### Frames from FRAME_MARKs (R397, R398) -/

/-- The buffers of a frame as its mark names them: a stream without an entry has none. -/
def markConsumed (s : State) (c : CtxId) (x : RecItem) : List Consumed :=
  (allFin 64).filterMap fun i =>
    let k := s.streamCfg c i.1
    let d : DieId := ⟨k.2.1 % 2, Nat.mod_lt _ (by decide)⟩
    let buf := (x.entries.find? fun e => decide (e.1 = i.1)).map fun e => e.2.1
    if k.1 = 1 then
      if (s.camProf c d ⟨k.2.2 % 32, Nat.mod_lt _ (by decide)⟩).mode = 0 then none else some ⟨i, false, d, k.2.2, buf⟩
    else if k.1 = 2 then some ⟨i, true, d, k.2.2, buf⟩
    else none

/-- The trigger that a mark stands for. -/
def markTrigger (s : State) (c : CtxId) (x : RecItem) : Latched :=
  { time := BitVec.ofNat 64 (fld x.payload 8 8), flags := flagBit fArrivalTimeout (bit (fld x.payload 16 4) 2)
    incomplete := BitVec.ofNat 64 (fld x.payload 24 8), consumed := markConsumed s c x, classes := (s.ctx c).classCnt }

/-- A FRAME_MARK starts its frame, once the context is in RUN and its previous frame has ended; none while it waits. -/
def applyMark (s : State) (x : RecItem) : Option State :=
  let c := ctxOf x.markCtx
  match (s.ctx c).state with
  | .idle | .faulted => some s
  | .starting | .draining => none
  | .run =>
    if (s.ctx c).frame.inFlight || s.seqHeld c then none
    else
      let s := s.onCtx c fun y => { y with
        nextFrame := BitVec.ofNat 32 x.markFrame, missedSince := BitVec.ofNat 32 (fld x.payload 20 4) }
      some (frameStart s c (markTrigger s c x) (bit (fld x.payload 16 4) 0))

/-! ### Camera records (R397) -/

/-- I/O die and number of a source ID of a port or a MAC. -/
def srcDie (src : U16) : DieId := ⟨bits src.toNat 15 12 % 2, Nat.mod_lt _ (by decide)⟩
/-- Instance of a source ID. -/
def srcInst (src : U16) : Nat := bits src.toNat 5 0

/-- The later records of the same virtual channel that wait to be injected. -/
def sameVc (s : State) (x : RecItem) : List RecItem :=
  s.rep.feed.tail.filter fun y => decide (y.src = x.src) && [1, 2, 3, 4].contains y.kind.toNat && decide (y.vc = x.vc)

/-- The buffer that a FRAME_MARK names for the frame or sweep that starts with a record. -/
def namedBuf (s : State) (x : RecItem) : Option (Fin 2) :=
  (s.rep.marks.flatMap (·.entries)).findSome? fun e => if e.2.2.1 = x.src ∧ e.2.2.2 = x.seq then some e.2.1 else none

/-- The buffer that ingress opens in REPLAY; none while it is held (R397 step 6). -/
def State.replayBuf (s : State) (c : CtxId) (flow : Bool) (d : DieId) (profile : Nat) (last : Fin 2)
    (named : Option (Fin 2)) : Option (Fin 2) :=
  match named with
  | some b => if s.bufHeld c flow d profile b then none else some b
  | none => s.nextBuf c flow d profile last

/-- The other one of two buffers. -/
def otherBuf (b : Fin 2) : Fin 2 := if b = 0 then 1 else 0

/-- An FS record: the sensor frame starts in its buffer, or is skipped where an overrun marker follows (R397). -/
def replayFs (s : State) (x : RecItem) (d : DieId) (i : Fin 32) (c : CtxId) : Option State :=
  let skip := match sameVc s x with
    | y :: _ => y.kind = 4 && decide (bits y.aux.toNat 1 0 = 1)
    | [] => false
  let off := decide ((s.camProf c d i).mode = 0) || !s.camLive d i c
  if skip || off then some (camStart s d i c x.time x.seq skip)
  else match s.replayBuf c false d i.1 ((s.die d).cams.get i).last (namedBuf s x) with
    | none => none
    | some b => some (camStart (s.onCam d i fun r => { r with last := otherBuf b }) d i c x.time x.seq false)

/-- A line-drop marker after the record covers line `n` (R180, R397 step 5). -/
def lineDropped (l : List RecItem) (n : Nat) : Bool :=
  (l.takeWhile fun y => !y.isFs).any fun y => y.kind = 4 && decide (bits y.aux.toNat 1 0 = 0) &&
    decide (bits y.aux.toNat 20 8 ≤ n) && decide (n < bits y.aux.toNat 20 8 + bits y.aux.toNat 31 21)

/-- The port buffer has room for a line, or the line does not enter it (R180, R397 step 6). -/
def lineFits (s : State) (d : DieId) (i : Fin 32) (p : StreamProf) (n : Nat) : Bool :=
  p.mode != 1 || !((s.die d).cams.get i).frameOpen || decide (portBytes s d p.port + n ≤ 65536)

/-- Injects the lines of a CSI_LINES record while they fit: the lines left over. -/
def injectLines (d : DieId) (i : Fin 32) (p : StreamProf) (dt : Nat) (later : List RecItem) :
    Nat → List Bytes → State → State × List Bytes
  | _, [], s => (s, [])
  | n, b :: r, s =>
    if lineFits s d i p b.length then injectLines d i p dt later (n + 1) r (camLine s d i p dt b true (lineDropped later n))
    else (s, b :: r)

/-- The lines of a CSI_LINES record. -/
def RecItem.lines (x : RecItem) : List Bytes :=
  let n := bits x.aux.toNat 31 21
  let len := x.payload.length / max 1 n
  (List.range n).map fun k => slice x.payload (k * len) len

/-- A CSI_LINES record with only its last lines left: none of them, or the record that stays at the head. -/
def RecItem.rest (x : RecItem) (l : List Bytes) : Option RecItem :=
  if l.isEmpty then none
  else
    let gone := bits x.aux.toNat 31 21 - l.length
    some { x with
      payload := l.flatten
      aux := BitVec.ofNat 32 (bits x.aux.toNat 7 0 + (bits x.aux.toNat 20 8 + gone) * 2 ^ 8 + l.length * 2 ^ 21) }

/-- A marker of a camera: what its event counted (R180, R267). -/
def replayMark (s : State) (x : RecItem) (d : DieId) (port : PortId) (slot : Option (Fin 32 × CtxId)) : State :=
  match bits x.aux.toNat 1 0, slot with
  | 0, some (i, c) =>
    s.onCru d ⟨(s.camProf c d i).cru % 2, Nat.mod_lt _ (by decide)⟩ fun r => { r with
      portDrop := BitVec.ofNat 32 (min (2 ^ 32 - 1) (r.portDrop.toNat + bits x.aux.toNat 31 21)) }
  | 2, _ =>
    let s := s.onCsi d port fun r => { r with eccDrop := sat32 r.eccDrop }
    match slot with
    | some (i, c) => if bits x.aux.toNat 31 21 = 0 then s else lostLine s d i (s.camProf c d i)
    | none => s
  | _, _ => s

/-- A camera record: the state and what stays of the record at the head; none while the feeder waits. -/
def replayCam (s : State) (x : RecItem) : Option (State × Option RecItem) :=
  let d := srcDie x.src
  let port : PortId := ⟨srcInst x.src % 8, Nat.mod_lt _ (by decide)⟩
  let slot := s.camSlot d port.1 x.vc
  match x.kind.toNat, slot with
  | 4, _ => some (replayMark s x d port slot, none)
  | 2, none => some (loosePacket s d port x.vc (BitVec.ofNat 6 x.aux.toNat) x.payload (!x.rflags.getLsbD 1), none)
  | _, none => some (s, none)
  | 1, some (i, c) =>
    let r := injectLines d i (s.camProf c d i) (bits x.aux.toNat 5 0) (sameVc s x) (bits x.aux.toNat 20 8) x.lines s
    if r.2.length = x.lines.length && !r.2.isEmpty then none else some (r.1, x.rest r.2)
  | 2, some (i, c) =>
    if lineFits s d i (s.camProf c d i) x.payload.length then
      some (camPacket s d i c (BitVec.ofNat 6 x.aux.toNat) x.payload (!x.rflags.getLsbD 1), none)
    else none
  | 3, some (i, c) =>
    if x.isFs then (replayFs s x d i c).map fun s => (s, none)
    else some (camEnd s d i (s.camProf c d i), none)
  | _, _ => some (s, none)

/-! ### FLOW records (R397) -/

/-- One FLOW entry (R390): receive time, ESTAT, flow-table entry, and frame bytes. -/
structure FlowEntry where
  /-- Receive time minus the record's TIME, in ns. -/
  dt : Nat
  /-- ESTAT. -/
  estat : Nat
  /-- Flow-table entry index. -/
  idx : Nat
  /-- The frame bytes. -/
  frame : Bytes
  deriving DecidableEq, Repr

/-- The first entry of a FLOW payload, and the bytes after it. -/
def flowEntry (b : Bytes) : FlowEntry × Bytes :=
  let n := fld b 0 2
  ({ dt := fld b 4 4, estat := byteAt b 2, idx := byteAt b 3 % 64, frame := slice b 8 n }, b.drop (8 + (n + 7) / 8 * 8))

/-- A flow of a MAC opens a sweep with this frame: the flow and its context. -/
def State.opensSweep (s : State) (d : DieId) (m : MacId) (f : Bytes) : Option (Fin 16 × CtxId) :=
  match s.frameEntry d m f with
  | none => none
  | some ((_, a, p), pl) =>
    let i : Fin 16 := ⟨p % 16, Nat.mod_lt _ (by decide)⟩
    match (s.flow d i).ctx with
    | none => none
    | some c =>
      let t := s.template d (s.flowProf c d i).template
      let nb := ((t.blocks pl).map fun n => if t.packetOk pl n then n else 0).getD 0
      let az (b : Nat) : U32 := BitVec.ofNat 32 (twos 32 (t.val t.fdAz pl b 0 * t.azMul - t.sweepAz))
      let step (r : FlowRt × Bool) (b : Nat) : FlowRt × Bool :=
        let up : FlowRt → FlowRt := fun y => { y with
          prevAz := some (az b), prevSweep := some (BitVec.ofNat 32 (twos 32 (t.val t.fdSweep pl 0 0))) }
        (up r.1, r.2 || sweepStarts r.1 t pl b)
      if bit a 1 && s.flowLive d i c && ((List.range nb).foldl step (s.flow d i, false)).2 then some (i, c) else none

/-- A receive-buffer drop, as its entry records it (R281). -/
def replayDrop (s : State) (d : DieId) (m : MacId) (k : Nat) : State :=
  let s := s.onMac d m fun x => { x with rxDrop := sat32 x.rxDrop }
  let e := ((((s.die d).mac.get m).table)[k]?).getD []
  if bit (byteAt e 6) 1 then flowIncomplete s d ⟨byteAt e 7 % 16, Nat.mod_lt _ (by decide)⟩ else s

/-- An overrun marker follows the FLOW record at the head: the sweep of this flow that its last frame starts was skipped (R379,
R397, log 41). -/
def sweepSkipped (s : State) (x : RecItem) (i : Fin 16) : Bool :=
  match s.rep.feed.tail.find? fun y => decide (y.src = x.src) with
  | some y => y.kind = 4 && decide (bits y.aux.toNat 1 0 = 1) && decide (bits y.aux.toNat 20 8 = i.1)
  | none => false

/-- One entry of a FLOW record, the last one of it where `last` says so; none while the feeder waits for a buffer. -/
def replayEntry (s : State) (x : RecItem) (d : DieId) (m : MacId) (e : FlowEntry) (last : Bool) : Option State :=
  let time := tsOfNs (tsNs x.time + e.dt)
  match e.estat with
  | 1 => some (fcsError s d m time)
  | 2 => some (replayDrop s d m e.idx)
  | _ =>
    let f := e.frame ++ zeros 4
    if s.rxFull d m f.length then none
    else match s.opensSweep d m f with
    | none => some (macFrame s d m f time false)
    | some (i, c) =>
      if last && sweepSkipped s x i then some (macFrame s d m f time false true)
      else match s.replayBuf c true d i.1 (s.flow d i).last (namedBuf s x) with
      | none => none
      | some b => some (macFrame (s.onFlow d i fun r => { r with last := otherBuf b }) d m f time false)

/-- The entries of a FLOW record while none waits: the state and the bytes left over. -/
def injectEntries (x : RecItem) (d : DieId) (m : MacId) : Nat → Bytes → State → State × Bytes
  | 0, b, s => (s, b)
  | n + 1, b, s =>
    if b.isEmpty then (s, [])
    else
      let e := flowEntry b
      match replayEntry s x d m e.1 e.2.isEmpty with
      | none => (s, b)
      | some s => injectEntries x d m n e.2 s

/-- A FLOW record: the state and what stays of it at the head; none while the feeder waits. -/
def replayFlow (s : State) (x : RecItem) : Option (State × Option RecItem) :=
  let m : MacId := ⟨srcInst x.src % 4, Nat.mod_lt _ (by decide)⟩
  let r := injectEntries x (srcDie x.src) m (x.payload.length + 1) x.payload s
  if r.2.isEmpty then some (r.1, none)
  else if r.2.length = x.payload.length then none
  else some (r.1, some { x with payload := r.2 })

/-! ### The feeder (R397, R398) -/

/-- What the record at the head does once the time base stands at its TIME: the state and what stays of it; none while it
waits. A record that failed its CRC is injected as LOSS, without data (R403). -/
def injectItem (s : State) (x : RecItem) : Option (State × Option RecItem) :=
  let s := s.setFine (tsNs x.time * 2 ^ 32 : Nat)
  if !x.ok then some (s, none)
  else match x.kind.toNat with
  | 7 => (applyMark s x).map fun s => (s, none)
  | 5 => replayFlow s x
  | 9 => some (s, none)
  | _ => replayCam s x

/-- The window is over: no FRAME_MARK is left, no frame runs and every verdict is given. -/
def State.windowOver (s : State) : Bool :=
  !(s.rep.feed.any fun x => decide (x.kind = 7)) &&
  (allFin 16).all (fun c => !(s.ctx c).frame.inFlight && (s.ctx c).state != .starting) &&
  !s.tly.queue.any fun i => i.replay

/-- The feeder takes its next step: it injects the next record, waits, or finds the window over. -/
def feederStep (s : State) : State :=
  if !s.rep.active || s.rep.stopped || !s.rep.stopping.isEmpty then s
  else if s.windowOver then replayEnds s
  else match s.rep.feed with
    | [] => s
    | x :: l => match injectItem s x with
      | none => s
      | some (s', r) => s'.onRep fun q => { q with feed := r.toList ++ l }

/-! ### Commands -/

/-- REP_CTRL_START (R396). -/
def execRepCtrlStart (s : State) : Res := finish s (replayStart s)

/-- REP_CTRL_END (R399). -/
def execRepCtrlEnd (s : State) : Res := finish s (replayEnd s)

/-- REPLAY_INJECT (R397). -/
def execReplayInject (s : State) : Res := finish s (feederStep s)

end Sys2Proof.Machine
end

