-- ==== Sys2Proof/Machine/Registers.lean ====
section
/-!
DEFINITION. Machine/Registers.lean: host writes by address: the host-writable set of R490 with its conditions, the mailbox
buffer and the page of BAR4 (R488 to R490, R496, R499, R502). Every other write is ignored.
-/

namespace Sys2Proof.Machine

/-! ### Register words (R488, R496) -/

/-- A 64-bit register after a write of 4 or 8 bytes at offset `o` of it. -/
def patch64 (old : U64) (o : Nat) (b : Bytes) : U64 := BitVec.ofNat 64 (fld (patch (le 8 old.toNat) o b) 0 8)

/-- Writes of ring `r`: BASE and TAILWB only while it is disabled. -/
def ringReg (s : State) (r : Fin 17) (o : Nat) (b : Bytes) : State :=
  let en := (s.ring r).en
  if o < 8 then
    if en then s else s.onRing r fun x => { x with base := patch64 x.base o b &&& ~~~0xFFF }
  else if o < 0x10 then
    if en then s else s.onRing r fun x => { x with tailWb := patch64 x.tailWb (o - 8) b &&& ~~~7 }
  else if o = 0x10 ∧ b.length = 4 then s.onRing r fun x => ringCtrl x (BitVec.ofNat 32 (fld b 0 4))
  else s

/-- `MBOX_CMD`, `MBOX_ARGLEN` and MBOX_DATA; ignored while STATE is busy (R501, R502). -/
def mboxReg (s : State) (off : Nat) (b : Bytes) : State :=
  if s.hst.state = 1 then s
  else if 0x3000 ≤ off then s.onHst fun h => { h with mbData := mbPut h.mbData (off - 0x3000) b }
  else if b.length ≠ 4 then s
  else if off = 0x2000 then s.onHst fun h => { h with
    cmdTag := BitVec.ofNat 16 (fld b 2 2), cmdOp := BitVec.ofNat 8 (byteAt b 0) }
  else if off = 0x2008 then s.onHst fun h => { h with argLen := BitVec.ofNat 13 (fld b 0 4) }
  else s

/-- Writes of `REP_CTRL` and `REP_CB`; without REPLAY_EN a START answers with its error (R396, R404). -/
def repReg (s : State) (o : Nat) (b : Bytes) : State :=
  if o = 4 ∧ b.length = 4 then
    let s := if bit (byteAt b 0) 0 then replayStart s else s
    if bit (byteAt b 0) 1 then replayEnd s else s
  else if 8 ≤ o ∧ o < 0x10 ∧ s.replayEn then
    s.onRep fun r => { r with cb := (patch64 (r.cb.setWidth 64) (o - 8) b).setWidth 48 }
  else s

/-- A write to BAR0 (R489, R490). -/
def bar0Write (s : State) (off : Nat) (b : Bytes) : State :=
  if 0x3000 ≤ off ∧ off < 0x4000 then mboxReg s off b
  else if !(b.length = 4 || b.length = 8) then s
  else if 0x20 ≤ off ∧ off < 0x28 then
    let v := patch64 (s.hst.bar2Base.setWidth 64 <<< 20) (off - 0x20) b
    s.onHst fun h => { h with bar2Base := (v >>> 20).setWidth 28 }
  else if h : 0x1000 ≤ off ∧ off < 0x1440 then ringReg s ⟨(off - 0x1000) / 0x40, by omega⟩ (off % 0x40) b
  else if 0x2000 ≤ off ∧ off < 0x3000 then mboxReg s off b
  else if off = 0x22004 ∧ b.length = 4 then recCmd s (BitVec.ofNat 32 (fld b 0 4))
  else if 0x23000 ≤ off ∧ off < 0x23010 then repReg s (off - 0x23000) b
  else if h : 0x24000 ≤ off ∧ off < 0x24100 then
    if off % 0x40 = 4 ∧ b.length = 4 ∧ bit (byteAt b 0) 0 then lksRearm s ⟨(off - 0x24000) / 0x40, by omega⟩ else s
  else s

/-- A word of the MSI-X table is written; a pending message leaves when its vector is no longer masked (R499, log 4). -/
def msixWord (s : State) (v : Fin 64) (k : Nat) (w : U32) : State :=
  let e := s.hst.msix.get v
  let e : U64 × U32 × U32 := match k with
    | 0 => ((e.1 >>> 32 <<< 32) ||| (w &&& ~~~3).setWidth 64, e.2.1, e.2.2)
    | 1 => ((e.1 &&& 0xFFFFFFFF) ||| (w.setWidth 64 <<< 32), e.2.1, e.2.2)
    | 2 => (e.1, w, e.2.2)
    | _ => (e.1, e.2.1, w &&& 1)
  let s := s.onHst fun h => { h with msix := h.msix.set v.1 e }
  if s.hst.pba.getLsbD v.1 && !e.2.2.getLsbD 0 then
    msixSignal (s.onHst fun h => { h with pba := h.pba &&& ~~~((1 : U64) <<< v.1) }) v
  else s

/-- A write to the MSI-X table: one word, or two. -/
def msixWrite (s : State) (o : Nat) (b : Bytes) : State :=
  let put (s : State) (o : Nat) (w : Nat) : State :=
    msixWord s ⟨o / 16 % 64, Nat.mod_lt _ (by decide)⟩ (o % 16 / 4) (BitVec.ofNat 32 w)
  if b.length = 4 then put s o (fld b 0 4)
  else if b.length = 8 then put (put s o (fld b 0 4)) (o + 4) (fld b 4 4)
  else s

/-- A write to BAR4 (R499). -/
def bar4Write (s : State) (off : Nat) (b : Bytes) : State :=
  if 0x1000 ≤ off ∧ off < 0x1400 then msixWrite s (off - 0x1000) b
  else if b.length ≠ 4 then s
  else if off = 0 then doorbell s
  else if off = 4 then s.onHst fun h => { h with hbFrom := s.ticks }
  else if h : 0x100 ≤ off ∧ off < 0x144 then
    s.onRing ⟨(off - 0x100) / 4, by omega⟩ fun x => { x with head := BitVec.ofNat 32 (fld b 0 4) }
  else s

/-- REGISTER_WRITE (R488, R490): a write that is not of 1, 2, 4 or 8 bytes at a multiple of its size is ignored. -/
def execRegisterWrite (bar4 : Bool) (off : BitVec 26) (data : Bytes) (s : State) : Res :=
  finish s (hostAccess s fun t =>
    if !([1, 2, 4, 8].contains data.length) || decide (off.toNat % data.length ≠ 0) then t
    else if bar4 then bar4Write t off.toNat data else bar0Write t off.toNat data)

end Sys2Proof.Machine
end

