-- ==== Sys2Proof/Machine/Ring.lean ====
section
/-!
DEFINITION. Machine/Ring.lean: the Seam ring: links (R410, R411, R430), flits (R410, R415), management messages and
membership (R421 to R423), peered contexts (R427, R428), ring idle (R425) and ring time (R289, R424).
-/

namespace Sys2Proof.Machine

/-! ### Ports -/

/-- A ring port. -/
def State.port (s : State) (p : RingPort) : RingPortRt := s.rng.ports.get (portNum p)

/-- The link of a port is up. -/
def State.isPortUp (s : State) (p : RingPort) : Bool := (s.port p).state = .up

/-- The members of a mask. -/
def idsOf (m : BitVec 4) : List (BitVec 2) := ((List.range 4).filter fun i => m.getLsbD i).map (BitVec.ofNat 2)

/-! ### Membership (R407, R421, R423) -/

/-- The members as this device knows them: itself, and every ring ID seen while a link of its own is up. -/
def State.reachable (s : State) : BitVec 4 :=
  if s.isPortUp .e || s.isPortUp .w then s.rng.seen.foldl (fun m e => m ||| idBit e.1) (idBit s.rng.id) else idBit s.rng.id

/-- MGR_CAPABLE of a ring ID. -/
def State.capable (s : State) (i : BitVec 2) : Bool :=
  if i = s.rng.id then s.mgrCapable else s.rng.seen.any fun e => e.1 = i && e.2.1

/-- The manager of a set of members: the lowest ID with MGR_CAPABLE (R421). -/
def State.managerOf (s : State) (m : BitVec 4) : Option (BitVec 2) := (idsOf m).find? s.capable

/-- HELLO messages of a ring ID come by the port (R422). -/
def State.heardBy (s : State) (p : RingPort) (i : BitVec 2) : Bool := s.rng.hears.any fun h => h.1 = i && h.2.1 = p

/-- A link between consecutive members is down: one of this device's own two, or one beyond which a member's HELLO messages no
longer come by one of the ports (R407; log 29). -/
def State.isChain (s : State) : Bool :=
  s.isPortUp .e != s.isPortUp .w ||
    (s.isPortUp .e && s.rng.seen.any fun e => !(s.heardBy .e e.1 && s.heardBy .w e.1))

/-- The member whose E link is down: the last one going east that this device reaches by port E (R422). -/
def State.chainEnd (s : State) (m : BitVec 4) : BitVec 2 :=
  let east := ([1, 2, 3].map fun k => s.rng.id + BitVec.ofNat 2 k).filter fun i => m.getLsbD i.toNat
  if s.isPortUp .e then (east.takeWhile (s.heardBy .e)).getLast?.getD s.rng.id else s.rng.id

/-- Contexts with peers that are in RUN or STARTING. -/
def State.peersUp (s : State) : List CtxId := s.peered.filter s.isUp

/-- A membership change faults every context with peers (R423). -/
def faultPeered (s : State) (p : RingPort) : State :=
  s.peersUp.foldl (fun s c => raiseCode s (srcRing p) cLinkFault (some (s.cg c))) s

/-- DIGEST messages of this device's contexts with peers, to the manager and to the lock-step partners, so to all (R400, R422,
R427; log 39). -/
def sendDigests (s : State) : State :=
  s.peered.foldl (fun s c => mgmtSend s 7 none (digestBody c (s.boot.prog.get c) (s.boot.wgt.get c))) s

/-- Contexts that waited for a peer which is no longer a member wait no more (R362). -/
def releaseHolds (s : State) (m : BitVec 4) : State :=
  s.peered.foldl (fun s c => if s.jointMask c &&& m = s.jointMask c then s else s.onCtx c fun x => { x with peerHold := false }) s

/-- A device that takes the manager role on a ring goes on from the highest generation that any member holds: how far that is
ahead of its own is free (R431). -/
def takeGens (s : State) : State :=
  let r := s.takeFree
  r.2.onRng fun g => { g with gens := g.gens.mapIdx fun c x => x + Config.heldAhead r.1 c }

/-- A membership takes effect: routes, faults, lock-step partners, time, digests, messages that waited, and drains and starts that
the manager owes (R287, R289, R403, R414, R421, R423, R425, R428, R431). -/
def applyMembership (s : State) (m : BitVec 4) (mgr : Option (BitVec 2)) (chain : Bool) (down : BitVec 2) (epoch : U32) :
    State :=
  let own := decide (mgr = some s.rng.id)
  let changed := mgr.isNone || !s.rng.hasMgr || decide (mgr ≠ some s.rng.mgrId)
  let alone := decide (m = idBit s.rng.id)
  let s := faultPeered s .e
  let s := s.onRng fun r => { r with
    members := m, hasMgr := mgr.isSome, mgrId := mgr.getD r.mgrId, chain := chain, downAt := down, epoch := epoch
    digests := [], idle := false, idleAcks := 0, unacked := [] }
  let s := releaseHolds (lksLost s m) m
  let s := if changed && !own then servoFreeze s else s
  let s := s.onTb fun b => { b with
    serving := own, source := if own && decide (b.source = 2) then 0 else b.source
    locked := b.locked && !(own && decide (b.source = 2)) }
  let s := if changed && own && !alone then takeGens s else s
  let s := sendHeld s
  let s := if mgr.isSome && !alone then sendDigests s else s
  if own then s.peered.foldl (fun s c => jointStart (drainedIf s c) c) s else s

/-- The manager publishes MEMBERSHIP with the next epoch (R422, R423). -/
def publish (s : State) (m : BitVec 4) : State :=
  let e := s.rng.epoch + 1
  let down := if s.isChain then s.chainEnd m else 0
  let s := mgmtNow (s.onRng fun r => { r with epoch := e }) 2 none (memberBody m s.rng.id s.isChain down)
  applyMembership s m (some s.rng.id) s.isChain down e

/-- What a change of links or members means here: this device publishes as the manager, or no device can, or the manager
that this device followed has left and its time stands still (R287, R421, R423, R431). -/
def reviewMembers (s : State) : State :=
  let m := s.reachable
  match s.managerOf m with
  | none => applyMembership s m none s.isChain (if s.isChain then s.chainEnd m else 0) s.rng.epoch
  | some i =>
    if i = s.rng.id then publish s m
    else if s.rng.hasMgr && i ≠ s.rng.mgrId then servoFreeze s
    else s

/-- What the membership in force says: members, manager, chain and its down link. -/
abbrev Topology := BitVec 4 × Option (BitVec 2) × Bool × BitVec 2

/-- The membership in force. -/
def State.published (s : State) : Topology :=
  (s.rng.members, if s.rng.hasMgr then some s.rng.mgrId else none, s.rng.chain, s.rng.downAt)

/-- The membership as this device sees the ring. -/
def State.topology (s : State) : Topology :=
  let m := s.reachable
  (m, s.managerOf m, s.isChain, if s.isChain then s.chainEnd m else 0)

/-- The membership follows when the ring is another one than the one in force (R423). -/
def recheck (s : State) : State := if s.topology = s.published then s else reviewMembers s

/-- HELLO messages by a port count as heard now, in an interval yet to come. -/
def hear (l : List (BitVec 2 × RingPort × Nat)) (i : BitVec 2) (p : RingPort) : List (BitVec 2 × RingPort × Nat) :=
  (i, p, 0) :: l.filter fun h => !(h.1 = i && h.2.1 = p)

/-- An interval of HELLO passes: a ring ID that was not heard by a port for 3 intervals is not reached by it any more, and one
that no port reaches, and that is no neighbour, is no member (R423; DESIGN CHOICE, log 29). -/
def expire (s : State) : State :=
  if s.rng.idle || !(s.isPortUp .e || s.isPortUp .w) then s
  else
    let l := (s.rng.hears.map fun h => (h.1, h.2.1, h.2.2 + 1)).filter fun h => decide (h.2.2 < 4)
    let near (i : BitVec 2) : Bool := [RingPort.e, .w].any fun p => s.isPortUp p && decide ((s.port p).peerId = i)
    recheck (s.onRng fun r => { r with hears := l, seen := r.seen.filter fun e => near e.1 || l.any fun h => decide (h.1 = e.1) })

/-! ### Links (R410, R411, R430) -/

/-- A neighbour that this device reaches no more leaves the IDs seen, and nothing is heard by the port. -/
def forget (s : State) (p : RingPort) : State :=
  let x := s.port p
  let y := s.port (otherPort p)
  let keep := fun i : BitVec 2 => !(x.peerValid && i = x.peerId) || (y.peerValid && i = y.peerId)
  let up := s.isPortUp (otherPort p)
  s.onRng fun r => { r with
    seen := if up then r.seen.filter fun e => keep e.1 else []
    hears := r.hears.filter fun h => up && decide (h.2.1 ≠ p) && keep h.1 }

/-- LINK_FAULT at a port: a record for each context with peers that it faults, or one without a context (R410, R423). -/
def linkFault (s : State) (p : RingPort) : State :=
  if s.peersUp.isEmpty then event s (srcRing p) cLinkFault none 0 else faultPeered s p

/-- A link goes down and retrains at once; the membership changes (R410, R423). -/
def linkDown (s : State) (p : RingPort) : State :=
  if !s.ringOn || !s.isPortUp p then s
  else
    let s := s.onPort p fun x => { x with state := .training, down := sat32 x.down, fails := 0, synced := false }
    let s := forget s p
    let s := s.onPort p fun x => { x with peerValid := false }
    reviewMembers (linkFault s p)

/-- An active ID lies between this device and the peer in the direction of the port (R411). -/
def State.skipsMember (s : State) (p : RingPort) (peer : BitVec 2) : Bool :=
  let d := match p with
    | .e => (peer - s.rng.id).toNat
    | .w => (s.rng.id - peer).toNat
  s.rng.seen.any fun e =>
    let k := match p with
      | .e => (e.1 - s.rng.id).toNat
      | .w => (s.rng.id - e.1).toNat
    decide (0 < k) && decide (k < d)

/-- A port holds its link down. -/
def holdDown (s : State) (p : RingPort) (peer : BitVec 2) (v : LinkState) : State :=
  s.onPort p fun x => { x with state := v, peerValid := true, peerId := peer }

/-- A link completes training: the ID of the far end decides (R411, R431). -/
def linkTrained (s : State) (p : RingPort) (peer : BitVec 2) (own : Bool) : State :=
  if !s.ringOn || (s.port p).state ≠ .training then s
  else if own then holdDown s p s.rng.id .ownId
  else if peer = s.rng.id then holdDown (s.onRng fun r => { r with clash := true }) p peer .clash
  else if s.skipsMember p peer then holdDown s p peer .wrongNeighbour
  else
    let s := s.onPort p fun x => { x with state := .up, peerValid := true, peerId := peer, fails := 0 }
    let s := if s.rng.seen.any fun e => decide (e.1 = peer) then s
      else s.onRng fun r => { r with seen := r.seen ++ [(peer, false, false)] }
    let ports := if s.isPortUp (otherPort p) then [p, otherPort p] else [p]
    let s := s.onRng fun r => { r with
      hears := r.seen.foldl (fun l e => ports.foldl (fun l q => if q = p || decide (e.1 = peer) then hear l e.1 q else l) l) r.hears }
    reviewMembers (faultPeered s p)

/-- A signal on all receive lanes of a port that is down (R411). -/
def signalSeen (s : State) (p : RingPort) : State :=
  if s.ringOn && ((s.port p).state = .off || (s.port p).state = .ownId || (s.port p).state = .clash ||
      (s.port p).state = .wrongNeighbour) then s.onPort p fun x => { x with state := .training }
  else s

/-! ### Flits (R32, R410, R415) -/

/-- A destination discards what a peer sends to a context: another generation, or a context that is torn down (R32, R428). -/
def State.discards (s : State) (c : CtxId) (g : BitVec 12) : Bool :=
  decide (g ≠ (s.ctx c).gen) || (s.ctx c).state = .draining || (s.ctx c).state = .faulted

/-- A request of a peer at its destination: end-to-end CRC, generation, then the checks of this device's own context; or the
acknowledgement of the oldest write or signal to that peer. A signal that the context may not send is not acknowledged, and what is
for another member goes on through the other port in its channel (R14, R32, R413, R414, R415, R428). -/
def ringRequest (s : State) (p : RingPort) (t : RingTxn) : State :=
  let bad (c : CtxId) (g : BitVec 12) (a : Nat) : State := raiseCode s (srcRing p) cXportCrc (some (c, g)) a
  let who (c : CtxId) (g : BitVec 12) : Who :=
    { ctx := c, gen := g, part := 0, core := none, src := srcRing p, detail := 0, arrived := true }
  let dead (a : Nat) : Bool := ((target a).die.map fun j => s.linkDown.contains (ioLink 0 j)).getD false
  let down (c : CtxId) (g : BitVec 12) (a : Nat) : State :=
    raiseFlt s (linkFlt (ioLink 0 (((target a).die).getD 0))) (some (c, g))
  match t with
  | .idle => s
  | .transit dst ch inB data => portPass s (otherPort p) (some ch) inB (.transit dst data)
  | .ack src => s.onRng fun r => { r with unacked := r.unacked.eraseP fun u => decide (u.peer = src) }
  | .write src ok c g addr data =>
    if !ok then bad c g addr.toNat
    else if s.discards c g then staleDrop s c
    else if dead addr.toNat then down c g addr.toNat
    else match s.storeAt (who c g) addr.toNat data.length with
      | .error f => raiseRun s f (some (c, g))
      | .ok a => ringSend (writeHere s (c, g) a data) src (.ack src)
  | .read src ok c g addr len =>
    if !ok then bad c g addr.toNat
    else if s.discards c g then staleDrop s c
    else if dead addr.toNat then down c g addr.toNat
    else match s.load (who c g) addr.toNat len with
      | .error f => raiseRun s f (some (c, g))
      | .ok b => ringSend s src (.readData src b)
  | .signal src ok c g bead inc =>
    if !ok then bad c g 0
    else if s.discards c g then staleDrop s c
    else
      let q := partOf (bead.toNat / 4096)
      let i := bead.toNat % 4096
      let t := poolSignal s c g q i inc.toNat
      if s.inReset q || s.ownsBead c q i then ringSend t src (.ack src) else t

/-- A flit: a failing link CRC has it replayed, and after four failed replays the link goes down (R410). -/
def flit (s : State) (p : RingPort) (crcOk : Bool) (t : RingTxn) : State :=
  if !s.ringOn || !s.isPortUp p then s
  else if crcOk then ringRequest (s.onPort p fun x => { x with fails := 0 }) p t
  else if (s.port p).fails < 4 then s.onPort p fun x => { x with retry := sat32 x.retry, fails := x.fails + 1 }
  else linkDown s p

/-! ### Management messages (R422, R425, R427, R428) -/

/-- A message goes on through the other port: a broadcast until the neighbour there is its source, and one for another member
(R413, R414, R422). -/
def passOn (s : State) (h : MgmtHdr) (ty : Nat) (body : Bytes) : State :=
  let q := otherPort h.via
  if h.broadcast && decide ((s.port q).peerId = h.src) then s
  else portPass s q (some .req) h.inB (.mgmt (mgmtMsg ty h.src h.dst h.broadcast h.epoch h.seq body))

/-- A management message of a type and body: the ring is on and its CRC is right, else it is discarded, and counted when its CRC
fails; it goes on where it is not for this device alone, and takes effect where it is for this device, whose own broadcasts end
here (R414, R422). -/
def onMgmt (s : State) (h : MgmtHdr) (ty : Nat) (body : Bytes) (f : State → State) : State :=
  if !s.ringOn then s
  else if !h.crcOk then s.onRng fun r => { r with mgmtDrop := sat32 r.mgmtDrop }
  else if h.broadcast then (if h.src = s.rng.id then s else f (passOn s h ty body))
  else if h.dst = s.rng.id then f s
  else passOn s h ty body

/-- Whether every member takes part in ring idle. -/
def State.allIdle (s : State) : Bool :=
  (idsOf s.rng.members).all fun i => if i = s.rng.id then s.idleEn else s.rng.seen.any fun e => e.1 = i && e.2.2

/-- The manager may ask for ring idle once no context with peers is in RUN: whether it does is free (R425). -/
def maybeIdle (s : State) : State :=
  let none_ := s.peered.all fun c => (s.ctx c).state != .run
  if s.isMgr && !s.rng.idle && s.allIdle && none_ && decide (s.rng.members ≠ idBit s.rng.id) then
    let r := s.takeFree
    if Config.idleRequest r.1 then
      (mgmtSend r.2 8 none (idleBody false)).onRng fun g => { g with idleAcks := idBit g.id }
    else r.2
  else s

/-- HELLO goes out on each up link (R422). -/
def sendHello (s : State) : State :=
  mgmtNow s 1 none (helloBody s.rng.id s.mgrCapable s.idleEn)

/-- HELLO of a member: what it says and the port it came by are kept, and the membership follows when it differs. A new ID counts
as heard by the other port too, until that is found otherwise (R422, R423; log 29). -/
def takeHello (s : State) (p : RingPort) (id : BitVec 2) (mgr idle : Bool) : State :=
  if id = s.rng.id then s
  else
    let new := !(s.rng.seen.any fun e => decide (e.1 = id)) && s.isPortUp (otherPort p)
    recheck (s.onRng fun r => { r with
      seen := r.seen.filter (fun e => decide (e.1 ≠ id)) ++ [(id, mgr, idle)]
      hears := hear (if new then hear r.hears id (otherPort p) else r.hears) id p })

/-- MEMBERSHIP of a manager; a device that is itself to be the manager answers with its own, and one that came by the other way
around the ring before says nothing new (R421, R423). -/
def takeMembership (s : State) (h : MgmtHdr) (m : BitVec 4) (mgr : BitVec 2) (chain : Bool) (down : BitVec 2) : State :=
  if s.published = (m, some mgr, chain, down) ∧ s.rng.epoch = h.epoch ∧ s.rng.idle = false then s
  else
    let s := applyMembership s m (some mgr) chain down h.epoch
    if s.mgrCapable && decide (s.rng.id.toNat < mgr.toNat) then publish s s.reachable else s

/-- START of the manager: the generation is adopted, and a context of this device enters STARTING (R427). -/
def takeStart (s : State) (src : BitVec 2) (c : CtxId) (gen : BitVec 12) (m : BitVec 4) : State :=
  if !(s.rng.hasMgr && decide (src = s.rng.mgrId)) then s
  else if s.runsPeered c && decide (s.jointMask c &&& m = s.jointMask c) then peerStart s c gen
  else s.onRng fun r => { r with gens := r.gens.set c.1 gen }

/-- CTX_FAIL: the manager spreads it; the context is torn down, and one that was stopped is acknowledged. A generation that is not
the present one, or that has been drained already, is discarded (R428, R431). -/
def takeFail (s : State) (c : CtxId) (gen : BitVec 12) (failing : BitVec 2) (code : U16) : State :=
  let mine := s.runsPeered c
  if gen ≠ s.peerGen c || (mine && (s.ctx c).state = .faulted) then s
  else
    let s := if s.isMgr then
        (mgmtSend s 4 none (failBody c gen failing code)).onRng fun r => { r with
          live := if mine then r.live else r.live ||| (1 <<< c.1) }
      else s
    if !mine || (s.ctx c).state = .draining then s
    else if s.isUp c then failQuiet s c code
    else sendAck s c

/-- CTX_DRAINED: the context's peers are drained (R362, R428). -/
def takeDrained (s : State) (c : CtxId) (gen : BitVec 12) : State :=
  if gen = (s.ctx c).gen then s.onCtx c fun x => { x with peerHold := false } else s

/-- DIGEST of a member is kept, and the manager starts what waited for it (R400, R427). -/
def takeDigest (s : State) (src : BitVec 2) (c : CtxId) (prog wgt : Bytes) : State :=
  jointStart (s.onRng fun r => { r with
    digests := (c, src, prog, wgt) :: r.digests.filter fun e => !(e.1 = c && e.2.1 = src) }) c

/-- Every member has acknowledged: the links enter electrical idle (R425). -/
def idleIf (s : State) : State :=
  if s.rng.members &&& s.rng.idleAcks = s.rng.members then
    let down : RingPortRt → RingPortRt := fun x => if x.state = .up then { x with state := .idle } else x
    s.onRng fun r => { r with idle := true, idleAcks := 0, ports := r.ports.map down }
  else s

/-- IDLE: a request is acknowledged to all members, and acknowledgements are gathered (R425). -/
def takeIdle (s : State) (src : BitVec 2) (ack : Bool) : State :=
  if ack then idleIf (s.onRng fun r => { r with idleAcks := r.idleAcks ||| idBit src })
  else if s.idleEn && s.rng.hasMgr && src = s.rng.mgrId then
    idleIf ((mgmtSend s 8 none (idleBody true)).onRng fun r => { r with idleAcks := idBit r.id ||| idBit src })
  else s

/-- The port domains wake, and every link that was idle retrains (R425, R478). -/
def wakePorts (s : State) : State :=
  let up : RingPortRt → RingPortRt := fun x => if x.state = .idle then { x with state := .training } else x
  (wakeBy s .ring).onRng fun r => { r with idle := false, ports := r.ports.map up }

/-- The ring wake ordered set: the ports wake, and it goes on (R425). -/
def ringWakes (s : State) (p : RingPort) : State :=
  if !s.ringOn || !s.rng.idle then s else wakePorts (s.emit (.ring (otherPort p) ⟨none, false⟩ .wake))

/-- This device needs the idle ring, for a message that waits or as the manager to start a context with peers: at its next
HELLO_INTERVAL it sends the wake ordered set on both ports (R425; log 31). -/
def wakeIfNeeded (s : State) : State :=
  if s.rng.idle && (!s.rng.held.isEmpty || (allFin 16).any s.jointWanted) then
    wakePorts ((s.emit (.ring .e ⟨none, false⟩ .wake)).emit (.ring .w ⟨none, false⟩ .wake))
  else s

/-! ### Ring time (R289, R424) -/

/-- A receive timestamp of the ring MAC: 19.2 ns earlier. -/
def State.ringRx (s : State) : U64 := s.stamp (-(96 * 2 ^ 32 : Nat))
/-- A transmit timestamp of the ring MAC: 22.4 ns later. -/
def State.ringTx (s : State) : U64 := s.stamp (112 * 2 ^ 32 : Nat)

/-- A message to the neighbour at a port. -/
def neighbourSend (s : State) (p : RingPort) (ty : Nat) (body : Bytes) : State :=
  let b := mgmtBytes s ty (s.port p).peerId false body
  portSend (s.onRng fun r => { r with seq := r.seq + 1 }) p (.mgmt b)

/-- T_SYNC and then T_FOLLOW on an up link; the receive time is 0 while the neighbour's T_SYNC has not come (R424, log 31). -/
def sendSyncOn (s : State) (p : RingPort) : State :=
  if !s.ringOn || !s.isPortUp p then s
  else
    let t := s.ringTx
    let s := (neighbourSend s p 9 []).onPort p fun x => { x with t1 := t }
    neighbourSend s p 10 (followBody t (s.port p).t4)

/-- T_SYNC of the neighbour is time-stamped. -/
def takeSync (s : State) (p : RingPort) : State :=
  let t := s.ringRx
  if s.isPortUp p then s.onPort p fun x => { x with t4 := t, synced := true } else s

/-- T_FOLLOW completes the exchange; the servo is fed from the link on the route toward the manager alone. θ is positive
when this device is ahead: t1 and t2 belong to the neighbour's T_SYNC, t3 and t4 to this device's (R285, R424). -/
def takeFollow (s : State) (p : RingPort) (sent received : U64) : State :=
  let x := s.port p
  if !s.isPortUp p || !x.synced || x.t1 = 0 || received = 0 || !s.rng.hasMgr || s.rng.mgrId = s.rng.id || routePort s.rng s.rng.mgrId ≠ p then s
  else
    let theta := (tsDiff x.t4 sent - tsDiff received x.t1) * 32768
    servoOffset (s.onTb fun b => { b with source := 2, en := true }) (BitVec.ofInt 48 theta)

/-! ### Commands -/

/-- RING_FLIT_RECEIVE (R410, R415). -/
def execRingFlitReceive (port : RingPort) (crcOk : Bool) (t : RingTxn) (s : State) : Res := finish s (flit s port crcOk t)

/-- RING_LINK_FAULT (R410). -/
def execRingLinkFault (port : RingPort) (s : State) : Res := finish s (linkDown s port)

/-- RING_LINK_TRAINED (R411). -/
def execRingLinkTrained (port : RingPort) (peer : BitVec 2) (own : Bool) (s : State) : Res :=
  finish s (linkTrained s port peer own)

/-- RING_CREDIT_TIMEOUT (R430). -/
def execRingCreditTimeout (port : RingPort) (s : State) : Res :=
  finish s (if s.ringOn && s.isPortUp port then linkDown (s.onPort port fun x => { x with starve := sat32 x.starve }) port else s)

/-- HELLO_INTERVAL (R422, R425). -/
def execHelloInterval (s : State) : Res := finish s (if s.ringOn then maybeIdle (sendHello (wakeIfNeeded (expire s))) else s)

/-- HELLO (R422). -/
def execHello (h : MgmtHdr) (port : RingPort) (id : BitVec 2) (mgrCapable idleEn : Bool) (s : State) : Res :=
  finish s (onMgmt s { h with via := port } 1 (helloBody id mgrCapable idleEn) fun s =>
    if s.isPortUp port then takeHello s port id mgrCapable idleEn else s)

/-- MEMBERSHIP (R423). -/
def execMembership (h : MgmtHdr) (members : BitVec 4) (mgr : BitVec 2) (chain : Bool) (down : BitVec 2) (s : State) : Res :=
  finish s (onMgmt s h 2 (memberBody members mgr chain down) fun s => takeMembership s h members mgr chain down)

/-- RING_START (R427). -/
def execRingStart (h : MgmtHdr) (c : CtxId) (gen : BitVec 12) (members : BitVec 4) (s : State) : Res :=
  finish s (onMgmt s h 3 (startBody c gen members) fun s => takeStart s h.src c gen members)

/-- CTX_FAIL (R428). -/
def execCtxFail (h : MgmtHdr) (c : CtxId) (gen : BitVec 12) (failing : BitVec 2) (code : U16) (s : State) : Res :=
  finish s (onMgmt s h 4 (failBody c gen failing code) fun s => takeFail s c gen failing code)

/-- DRAIN_ACK (R428). -/
def execDrainAck (h : MgmtHdr) (c : CtxId) (gen : BitVec 12) (s : State) : Res :=
  finish s (onMgmt s h 5 (ackBody c gen) fun s => takeAck s c gen h.src)

/-- CTX_DRAINED (R428). -/
def execCtxDrained (h : MgmtHdr) (c : CtxId) (gen : BitVec 12) (acked : BitVec 4) (s : State) : Res :=
  finish s (onMgmt s h 6 (drainedBody c gen acked) fun s => takeDrained s c gen)

/-- RING_DIGEST (R427). -/
def execRingDigest (h : MgmtHdr) (c : CtxId) (prog wgt : Bytes) (s : State) : Res :=
  finish s (onMgmt s h 7 (digestBody c prog wgt) fun s => takeDigest s h.src c prog wgt)

/-- RING_IDLE (R425). -/
def execRingIdle (h : MgmtHdr) (ack : Bool) (s : State) : Res := finish s (onMgmt s h 8 (idleBody ack) fun s => takeIdle s h.src ack)

/-- RING_WAKE (R425). -/
def execRingWake (port : RingPort) (s : State) : Res := finish s (ringWakes s port)

/-- T_SYNC_INTERVAL (R424). -/
def execTSyncInterval (s : State) : Res := finish s (sendSyncOn (sendSyncOn s .e) .w)

/-- T_SYNC (R424). -/
def execTSync (h : MgmtHdr) (port : RingPort) (s : State) : Res := finish s (onMgmt s { h with via := port } 9 [] fun s => takeSync s port)

/-- T_FOLLOW (R424). -/
def execTFollow (h : MgmtHdr) (port : RingPort) (sent received : U64) (s : State) : Res :=
  finish s (onMgmt s { h with via := port } 10 (followBody sent received) fun s => takeFollow s port sent received)

/-- RING_SIGNAL_DETECT (R411). -/
def execRingSignalDetect (port : RingPort) (s : State) : Res := finish s (signalSeen s port)

end Sys2Proof.Machine
end

