-- ==== Sys2Proof/Machine/SelfTest.lean ====
section
/-!
DEFINITION. Machine/SelfTest.lean: the periodic logic self-test of a core (R345 to R349) and the two registers that
inject errors (R117, R351).
-/

namespace Sys2Proof.Machine

/-- Updates the self-test block of a core. -/
def State.onLst (s : State) (i : CoreId) (f : LstRegs → LstRegs) : State :=
  s.onCore i fun x => { x with lst := f x.lst }

/-- The pair partner of a core. -/
def State.partner (s : State) (i : CoreId) : Option CoreId :=
  match (s.prt (partOfCore i)).hub.pair with
  | none => none
  | some (l, t) =>
    if slotOfCore i = l then some (coreOf (partOfCore i) t)
    else if slotOfCore i = t then some (coreOf (partOfCore i) l) else none

/-- The cores that start and end a segment together: the core and its pair partner (R347). -/
def State.testGroup (s : State) (i : CoreId) : List CoreId := i :: (s.partner i).toList

/-- A TEST stage of the core's test-owner context is open (R41, R346). -/
def State.testStageOpen (s : State) (i : CoreId) : Bool :=
  match s.testOwner i with
  | none => false
  | some c => (allFin 32).any fun st => s.testOpen c st

/-- No descriptor runs on an engine of the core: none has been executed and waits for its completion, and no PAIR or SPLIT
waits for its hand-over (R346). -/
def State.enginesIdle (s : State) (i : CoreId) : Bool :=
  (queuesOf i).all fun q => ((s.presented q).take 1).all (fun e => !e.executed) && !s.inHandover q

/-- What a core needs for a segment, the time left apart (R346). -/
def State.mayTest (s : State) (i : CoreId) : Bool :=
  !s.isFenced i && !s.inReset (partOfCore i) && !s.isOffline (partOfCore i) && !(s.core i).lst.running &&
  s.testStageOpen i && s.enginesIdle i &&
  (coresOf (partOfCore i)).all fun k => (s.testGroup i).contains k || !(s.core k).lst.running

/-- A segment starts on a core, or on both cores of a pair, or is deferred because too little of the slot remains
(R346, R347, R349). -/
def segStart (s : State) (i : CoreId) (remainUs : Nat) : State :=
  let g := s.testGroup i
  if !g.all s.mayTest then s
  else if remainUs < (if g.length = 1 then 250 else 262) then
    g.foldl (fun s k => s.onLst k fun l => { l with deferCnt := sat32 l.deferCnt }) s
  else g.foldl (fun s k => clearPipes (s.onLst k fun l => { l with running := true, req := false }) k) s

/-- A pass moves on by one segment; the last one completes the pass (R345, R349, R352). -/
def segPass (s : State) (i : CoreId) : State :=
  s.onLst i fun l =>
    if h : l.nextSeg.1 < 17 then { l with nextSeg := ⟨l.nextSeg.1 + 1, by omega⟩ }
    else { l with nextSeg := 0, passCnt := l.passCnt + 1, overdue := false, ageFrom := s.boot.odo.runTicks }

/-- The context has run a descriptor on the core in the frame in flight, on its own or as the trailing core of a pair (R336,
R348): one of its lists there has been fed further than the queue still holds. -/
def State.ranOn (s : State) (c : CtxId) (i : CoreId) : Bool :=
  (s.ctx c).frame.inFlight && (s.frameLists c).any fun l =>
    let q := s.listQueue l
    (decide (qCore? q = some i) || (decide (qCore? q = s.leadOf i) && (s.leadOf i).isSome)) &&
      decide (((s.queue q).entries.filter fun e => e.ctx = c && e.origin = l.origin && !e.executed).length < s.fedOf c l)

/-- Code of LST_FAIL (R357). -/
def cLstFail : U16 := 0x0801

/-- A signature mismatch: LST_FAIL, the contexts that ran on the core are faulted, and the core is fenced (R348). The
record names the lowest such context. -/
def segFail (s : State) (i : CoreId) : State :=
  let hit := (allFin 16).filter fun c => s.ranOn c i
  let s := s.onLst i fun l => { l with failed := true }
  let s := event s (srcCore 0x0B i) cLstFail (hit.head?.map s.cg) 0
  let s := hit.foldl (fun s c => faultCtx (reactCtx s c) c cLstFail false) s
  fence s i cLstFail

/-- Steps 2 to 4 of R339 after a segment. A self-check that fails ends the pairing with PAIR_HUB_FAULT, as in a hand-over; DEDUCED
(log 25): its context is the core's test-owner context, whose frame carries UNPAIRED. -/
def repair (s : State) (l t : CoreId) (fails : Bool) : State :=
  let p := partOfCore l
  let s := clearPair s l t true
  if fails then
    let s := s.onPart p fun x => { x with hub := { x.hub with pair := none, selfchkFail := true } }
    match s.testOwner l with
    | some c => raiseCode (setFlag s c fUnpaired) (srcPart 0x08 p) cPairHubFault (some (s.cg c)) 0
    | none => event s (srcPart 0x08 p) cPairHubFault none 0
  else s.onPart p fun x => { x with hub := { x.hub with selfchkFail := false } }

/-- When the segments of both cores of a pair have ended, the hub repeats steps 2 to 4 of R339 (R347). -/
def rejoin (s : State) (i : CoreId) (fails : Bool) : State :=
  match s.leadOf i, s.trailOf i with
  | some l, _ => if (s.core l).lst.running then s else repair s l i fails
  | none, some t => if (s.core t).lst.running then s else repair s i t fails
  | none, none => s

/-- A segment ends (R345, R347, R348). -/
def segEnd (s : State) (i : CoreId) (sigOk : Bool) (us : U32) (fails : Bool) : State :=
  if !(s.core i).lst.running then s
  else
    let s := s.onLst i fun l => { l with running := false, lastUs := us }
    if sigOk then rejoin (segPass s i) i fails else segFail s i

/-- LST_SEGMENT_START (R346, R347). -/
def execLstSegmentStart (core : CoreId) (remainUs : Nat) (s : State) : Res := finish s (segStart s core remainUs)

/-- LST_SEGMENT_END (R345, R347, R348). -/
def execLstSegmentEnd (core : CoreId) (r : SegResult) (us : U32) (s : State) : Res :=
  finish s (segEnd s core r.sigOk us r.checkFails)

/-- LATENT_OVERDUE (R349): a fenced core never makes a pass overdue. -/
def execLatentOverdue (core : CoreId) (s : State) : Res :=
  finish s (if s.isFenced core then s else s.onLst core fun l => { l with overdue := true })

/-- ARR_INJECT_WRITE (R117): ARM, QUARTER and HALF; ignored outside SELFTEST state. -/
def execArrInjectWrite (core : CoreId) (value : U32) (s : State) : Res :=
  finish s (if s.dev = .selftest then s.onCore core fun x => { x with arr := { x.arr with inject := value &&& 0x107 } }
    else s)

/-- PHB_INJECT_WRITE (R351): ARM injects one difference and clears; ignored outside SELFTEST state. -/
def execPhbInjectWrite (p : PartId) (value : U32) (s : State) : Res :=
  finish s (if s.dev = .selftest then phbInject s p value else s)

end Sys2Proof.Machine
end

