-- ==== Sys2Proof/Machine/Dispatch.lean ====
section
/-!
DEFINITION. Machine/Dispatch.lean: which meaning each command has.
-/

namespace Sys2Proof.Machine

def exec (i : Instr) (s : State) : Host.Outcome State Fault Refusal :=
  match i with
  | .powerGood ringId xspiSplit t => Sys2Proof.Machine.execPowerGood ringId xspiSplit t s
  | .deviceReset lowNs => Sys2Proof.Machine.execDeviceReset lowNs s
  | .vddAonLoss mv => Sys2Proof.Machine.execVddAonLoss mv s
  | .voltMon die mon value => Sys2Proof.Machine.execVoltMon die mon value s
  | .clkMon die mon value => Sys2Proof.Machine.execClkMon die mon value s
  | .tempSample readings => Sys2Proof.Machine.execTempSample readings s
  | .thermalEmergencyClear => Sys2Proof.Machine.execThermalEmergencyClear s
  | .droopDetect p => Sys2Proof.Machine.execDroopDetect p s
  | .droopStretchEnd p => Sys2Proof.Machine.execDroopStretchEnd p s
  | .avsLoopUpdate p margin => Sys2Proof.Machine.execAvsLoopUpdate p margin s
  | .pwpThermalStep die => Sys2Proof.Machine.execPwpThermalStep die s
  | .powerEmergency power heaviest => Sys2Proof.Machine.execPowerEmergency power heaviest s
  | .powerEmergencyClear power voltOk => Sys2Proof.Machine.execPowerEmergencyClear power voltOk s
  | .arrDividerChange p div => Sys2Proof.Machine.execArrDividerChange p div s
  | .ctxStart tag args => Sys2Proof.Machine.execCtxStart tag args s
  | .ctxStop tag args => Sys2Proof.Machine.execCtxStop tag args s
  | .listsLoaded c => Sys2Proof.Machine.execListsLoaded c s
  | .scheduleTrigger c => Sys2Proof.Machine.execScheduleTrigger c s
  | .arrivalTimeout c => Sys2Proof.Machine.execArrivalTimeout c s
  | .descriptorAccept q side origin raw => Sys2Proof.Machine.execDescriptorAccept q side origin raw s
  | .nop q => Sys2Proof.Machine.execNop q s
  | .fence q => Sys2Proof.Machine.execFence q s
  | .move core f => Sys2Proof.Machine.execMove core f s
  | .digest core f => Sys2Proof.Machine.execDigest core f s
  | .checkpoint core f => Sys2Proof.Machine.execCheckpoint core f s
  | .sealOp core f => Sys2Proof.Machine.execSealOp core f s
  | .pair core => Sys2Proof.Machine.execPair core s
  | .splitOp core => Sys2Proof.Machine.execSplitOp core s
  | .array core f => Sys2Proof.Machine.execArray core f s
  | .scaleAdapt core f => Sys2Proof.Machine.execScaleAdapt core f s
  | .sett core f => Sys2Proof.Machine.execSett core f s
  | .gather core f => Sys2Proof.Machine.execGather core f s
  | .scatter core f => Sys2Proof.Machine.execScatter core f s
  | .sort core f => Sys2Proof.Machine.execSort core f s
  | .topk core f => Sys2Proof.Machine.execTopk core f s
  | .voxel core f => Sys2Proof.Machine.execVoxel core f s
  | .neighbour core f => Sys2Proof.Machine.execNeighbour core f s
  | .segred core f => Sys2Proof.Machine.execSegred core f s
  | .compact core f => Sys2Proof.Machine.execCompact core f s
  | .matchOp core f => Sys2Proof.Machine.execMatchOp core f s
  | .edge core f => Sys2Proof.Machine.execEdge core f s
  | .dress p f => Sys2Proof.Machine.execDress p f s
  | .descriptorComplete k => Sys2Proof.Machine.execDescriptorComplete k s
  | .beadSignal c gen p bead inc => Sys2Proof.Machine.execBeadSignal c gen p bead inc s
  | .beadTimeout q => Sys2Proof.Machine.execBeadTimeout q s
  | .stageEvent c st isEnd elapsedUs => Sys2Proof.Machine.execStageEvent c st isEnd elapsedUs s
  | .wdgLate c st elapsedUs => Sys2Proof.Machine.execWdgLate c st elapsedUs s
  | .testStageEnd c st => Sys2Proof.Machine.execTestStageEnd c st s
  | .pairHandover p selfcheckFails => Sys2Proof.Machine.execPairHandover p selfcheckFails s
  | .csiFrameStart k frameNo => Sys2Proof.Machine.execCsiFrameStart k frameNo s
  | .csiFrameEnd k frameNo => Sys2Proof.Machine.execCsiFrameEnd k frameNo s
  | .csiLongPacket k dt payload crcOk => Sys2Proof.Machine.execCsiLongPacket k dt payload crcOk s
  | .crusherLine die cru finding => Sys2Proof.Machine.execCrusherLine die cru finding s
  | .ethFrameReceive die mac frame buf => Sys2Proof.Machine.execEthFrameReceive die mac frame buf s
  | .sweepTimeout die profile => Sys2Proof.Machine.execSweepTimeout die profile s
  | .srvOffsetWrite theta => Sys2Proof.Machine.execSrvOffsetWrite theta s
  | .syncReceiptTimeout => Sys2Proof.Machine.execSyncReceiptTimeout s
  | .haulTransaction t => Sys2Proof.Machine.execHaulTransaction t s
  | .sramScrub addr finding => Sys2Proof.Machine.execSramScrub addr finding s
  | .dramScrub stack addr finding raced passEnd => Sys2Proof.Machine.execDramScrub stack addr finding raced passEnd s
  | .calRequest stack => Sys2Proof.Machine.execCalRequest stack s
  | .calSlice stack slices => Sys2Proof.Machine.execCalSlice stack slices s
  | .calForcedSlice stack slices => Sys2Proof.Machine.execCalForcedSlice stack slices s
  | .coalesceFlush src code ctx => Sys2Proof.Machine.execCoalesceFlush src code ctx s
  | .drainComplete c drainNs => Sys2Proof.Machine.execDrainComplete c drainNs s
  | .drainTimeout c holders => Sys2Proof.Machine.execDrainTimeout c holders s
  | .partitionResetEnd p us => Sys2Proof.Machine.execPartitionResetEnd p us s
  | .weightReload p us => Sys2Proof.Machine.execWeightReload p us s
  | .deviceEventRestart => Sys2Proof.Machine.execDeviceEventRestart s
  | .hostHeartbeatTimeout => Sys2Proof.Machine.execHostHeartbeatTimeout s
  | .pcieLinkDown => Sys2Proof.Machine.execPcieLinkDown s
  | .tallyVerdict evalNs f => Sys2Proof.Machine.execTallyVerdict evalNs f s
  | .verdictDeadline c => Sys2Proof.Machine.execVerdictDeadline c s
  | .tallyLockstep sram => Sys2Proof.Machine.execTallyLockstep sram s
  | .errHoldExpiry => Sys2Proof.Machine.execErrHoldExpiry s
  | .lstSegmentStart core remainUs => Sys2Proof.Machine.execLstSegmentStart core remainUs s
  | .lstSegmentEnd core r us => Sys2Proof.Machine.execLstSegmentEnd core r us s
  | .latentOverdue core => Sys2Proof.Machine.execLatentOverdue core s
  | .procWdg proc => Sys2Proof.Machine.execProcWdg proc s
  | .procFault proc => Sys2Proof.Machine.execProcFault proc s
  | .procRestartDone proc => Sys2Proof.Machine.execProcRestartDone proc s
  | .sequencerRestart p => Sys2Proof.Machine.execSequencerRestart p s
  | .recCmdFreeze => Sys2Proof.Machine.execRecCmdFreeze s
  | .recCmdRelease => Sys2Proof.Machine.execRecCmdRelease s
  | .recorderPostWindowEnd => Sys2Proof.Machine.execRecorderPostWindowEnd s
  | .repCtrlStart => Sys2Proof.Machine.execRepCtrlStart s
  | .repCtrlEnd => Sys2Proof.Machine.execRepCtrlEnd s
  | .replayInject => Sys2Proof.Machine.execReplayInject s
  | .lksMessage c msg => Sys2Proof.Machine.execLksMessage c msg s
  | .lksCtrlRearm slot => Sys2Proof.Machine.execLksCtrlRearm slot s
  | .ringFlitReceive port crcOk t => Sys2Proof.Machine.execRingFlitReceive port crcOk t s
  | .ringLinkFault port => Sys2Proof.Machine.execRingLinkFault port s
  | .ringLinkTrained port peer own => Sys2Proof.Machine.execRingLinkTrained port peer own s
  | .ringCreditTimeout port => Sys2Proof.Machine.execRingCreditTimeout port s
  | .helloInterval => Sys2Proof.Machine.execHelloInterval s
  | .hello h port id mgrCapable idleEn => Sys2Proof.Machine.execHello h port id mgrCapable idleEn s
  | .membership h members mgr chain down => Sys2Proof.Machine.execMembership h members mgr chain down s
  | .ringStart h c gen members => Sys2Proof.Machine.execRingStart h c gen members s
  | .ctxFail h c gen failing code => Sys2Proof.Machine.execCtxFail h c gen failing code s
  | .drainAck h c gen => Sys2Proof.Machine.execDrainAck h c gen s
  | .ctxDrained h c gen acked => Sys2Proof.Machine.execCtxDrained h c gen acked s
  | .ringDigest h c prog wgt => Sys2Proof.Machine.execRingDigest h c prog wgt s
  | .ringIdle h ack => Sys2Proof.Machine.execRingIdle h ack s
  | .ringWake port => Sys2Proof.Machine.execRingWake port s
  | .tSyncInterval => Sys2Proof.Machine.execTSyncInterval s
  | .tSync h port => Sys2Proof.Machine.execTSync h port s
  | .tFollow h port sent received => Sys2Proof.Machine.execTFollow h port sent received s
  | .domainIdleTimeout id => Sys2Proof.Machine.execDomainIdleTimeout id s
  | .domainWake w => Sys2Proof.Machine.execDomainWake w s
  | .wakeClockSwitch id => Sys2Proof.Machine.execWakeClockSwitch id s
  | .mboxNop tag args => Sys2Proof.Machine.execMboxNop tag args s
  | .hostAttach tag args => Sys2Proof.Machine.execHostAttach tag args s
  | .hostDetach tag args => Sys2Proof.Machine.execHostDetach tag args s
  | .fenceClear tag args => Sys2Proof.Machine.execFenceClear tag args s
  | .selftestReq tag args => Sys2Proof.Machine.execSelftestReq tag args s
  | .calReq tag args => Sys2Proof.Machine.execCalReq tag args s
  | .pwrDomain tag args => Sys2Proof.Machine.execPwrDomain tag args s
  | .wakeMode tag args => Sys2Proof.Machine.execWakeMode tag args s
  | .powerCap tag args => Sys2Proof.Machine.execPowerCap tag args s
  | .stageOpen tag args => Sys2Proof.Machine.execStageOpen tag args s
  | .stageWrite tag args => Sys2Proof.Machine.execStageWrite tag args s
  | .stageClose tag args => Sys2Proof.Machine.execStageClose tag args s
  | .stageAbort tag args => Sys2Proof.Machine.execStageAbort tag args s
  | .activate tag args => Sys2Proof.Machine.execActivate tag args s
  | .liveActivationStep => Sys2Proof.Machine.execLiveActivationStep s
  | .emergencyDeferResume => Sys2Proof.Machine.execEmergencyDeferResume s
  | .emergencyDeferCancel => Sys2Proof.Machine.execEmergencyDeferCancel s
  | .commit tag args => Sys2Proof.Machine.execCommit tag args s
  | .resetCmd tag args => Sys2Proof.Machine.execResetCmd tag args s
  | .attest tag args => Sys2Proof.Machine.execAttest tag args s
  | .getCert tag args => Sys2Proof.Machine.execGetCert tag args s
  | .logRead tag args => Sys2Proof.Machine.execLogRead tag args s
  | .clrStat tag args => Sys2Proof.Machine.execClrStat tag args s
  | .mboxBadCmd opcode tag args => Sys2Proof.Machine.execMboxBadCmd opcode tag args s
  | .mboxPendingComplete tag flashOk => Sys2Proof.Machine.execMboxPendingComplete tag flashOk s
  | .dbHeartbeat value => Sys2Proof.Machine.execDbHeartbeat value s
  | .dbRingHead r value => Sys2Proof.Machine.execDbRingHead r value s
  | .ringCtrlWrite r value => Sys2Proof.Machine.execRingCtrlWrite r value s
  | .ringIrqTimeout r => Sys2Proof.Machine.execRingIrqTimeout r s
  | .bar2Read off len => Sys2Proof.Machine.execBar2Read off len s
  | .bar2Write off data => Sys2Proof.Machine.execBar2Write off data s
  | .tbSecLoRead => Sys2Proof.Machine.execTbSecLoRead s
  | .registerWrite bar4 off data => Sys2Proof.Machine.execRegisterWrite bar4 off data s
  | .pcieRejectedTlp poisoned => Sys2Proof.Machine.execPcieRejectedTlp poisoned s
  | .pcieFunctionReset => Sys2Proof.Machine.execPcieFunctionReset s
  | .d3hotEntry => Sys2Proof.Machine.execD3hotEntry s
  | .arrInjectWrite core value => Sys2Proof.Machine.execArrInjectWrite core value s
  | .phbInjectWrite p value => Sys2Proof.Machine.execPhbInjectWrite p value s
  | .odometerAppend => Sys2Proof.Machine.execOdometerAppend s
  | .ingressFifoDrain die finding => Sys2Proof.Machine.execIngressFifoDrain die finding s
  | .mirrorRecopyComplete stack => Sys2Proof.Machine.execMirrorRecopyComplete stack s
  | .flowRecordTimeout die k => Sys2Proof.Machine.execFlowRecordTimeout die k s
  | .peerDrainTimeout c => Sys2Proof.Machine.execPeerDrainTimeout c s
  | .ethLinkChange die mac speed anDone => Sys2Proof.Machine.execEthLinkChange die mac speed anDone s
  | .gptpSyncInterval => Sys2Proof.Machine.execGptpSyncInterval s
  | .ringSignalDetect port => Sys2Proof.Machine.execRingSignalDetect port s

end Sys2Proof.Machine
end

