-- ==== Sys2Proof/Safety.lean ====
section
/-!
DEFINITION. Safety.lean: what a good state is and what a command leaves alone, in the terms that the statements use.
-/

namespace Sys2Proof.Machine

/-- Memory, flash and the erased form are canonical (R234, R434). -/
abbrev State.memOk (s : State) : Prop := memWf 0 s.mem ∧ memWf 0xFF s.boot.flash

/-- SAFE_ST shows what R320 lays down, and never the code it excludes. -/
abbrev State.pinsOk (s : State) : Prop := s.pins.safeSt = safeStOf s

/-- No sequence counter of a record source has more than one home: each source is listed once (R353, R354). -/
abbrev ErrRegs.seqsOk (e : ErrRegs) : Prop := (e.seqs.map (·.1)).Nodup

/-- The kinds of state that a frame statement names. -/
inductive Kind where
  | part | dev | cores | parts | ctxs | io | mcs | stks | mem | bad | linkDown | mirrors | lineOwner | img | tb | tly | err
  | hst | pwr
  | boot | fwp | rng | lks | recd | rep | pins | ticks | free | pending
  deriving DecidableEq, Repr

/-- The aggregator apart from its FIFOs and its record store, which the end of every command may move on (R354, R360). -/
def ErrRegs.still (e : ErrRegs) : ErrRegs := { e with fifo := [], store := [], wrIdx := 0, wrapped := false }

/-- The host port apart from what the interrupt ring and MSI-X keep (R495 to R498). -/
def HstRegs.still (h : HstRegs) : HstRegs :=
  { h with rings := Vector.replicate 17 {}, pba := 0, dropCnt := 0, irqSeqAgg := 0, irqSeqSvp := 0 }

/-- The boot block apart from the log banks and the tick since which every context has been in RUN (R440, R458). -/
def BootRegs.still (b : BootRegs) : BootRegs := { b with logs := #v[{}, {}], runFrom := none }

/-- The pins apart from SAFE_ST, which every command drives again, and ERR_OUT_N, which is released with it once ERR_HOLD
has passed (R320, R321). -/
def Pins.still (p : Pins) : Pins := { p with safeSt := 0, errOutN := false }

/-- A kind of state is the same before and after. -/
def Kind.same : Kind → State → State → Prop
  | .part, s, t => t.part = s.part
  | .dev, s, t => t.dev = s.dev
  | .cores, s, t => t.cores = s.cores
  | .parts, s, t => t.parts = s.parts
  | .ctxs, s, t => t.ctxs = s.ctxs
  | .io, s, t => t.io = s.io
  | .mcs, s, t => t.mcs = s.mcs
  | .stks, s, t => t.stks = s.stks
  | .mem, s, t => t.mem = s.mem
  | .bad, s, t => t.bad = s.bad
  | .linkDown, s, t => t.linkDown = s.linkDown
  | .mirrors, s, t => t.mirrors = s.mirrors
  | .lineOwner, s, t => t.lineOwner = s.lineOwner
  | .img, s, t => t.img = s.img
  | .tb, s, t => t.tb = s.tb
  | .tly, s, t => t.tly = s.tly
  | .err, s, t => t.err.still = s.err.still
  | .hst, s, t => t.hst.still = s.hst.still
  | .pwr, s, t => t.pwr = s.pwr
  | .boot, s, t => t.boot.still = s.boot.still
  | .fwp, s, t => t.fwp = s.fwp
  | .rng, s, t => t.rng = s.rng
  | .lks, s, t => t.lks = s.lks
  | .recd, s, t => t.recd = s.recd
  | .rep, s, t => t.rep = s.rep
  | .pins, s, t => t.pins.still = s.pins.still
  | .ticks, s, t => t.ticks = s.ticks
  | .free, s, t => t.free = s.free
  | .pending, s, t => t.pending = s.pending

/-- How an engine runs one row of the opcode table: its queue, opcode, what the physical world may do to the run, the
residue checker and the run itself (R53). -/
structure EngineRow where
  /-- The hardware queue. -/
  queue : QueueId
  /-- OPCODE. -/
  op : Nat
  /-- What the run meets. -/
  facts : Facts
  /-- Source type and code of its residue checker. -/
  resid : Option (Nat × U16)
  /-- The run. -/
  body : State → Job → Out

/-- The rows that an engine runs from the head of a queue and that end with the entry executed. -/
def engineOf : Instr → Option EngineRow
  | .move i f => some ⟨.core i .mq, 0x10, f, none, moveBody⟩
  | .digest i f => some ⟨.core i .mq, 0x11, f, none, fun s j => engOut s (digestRun s j)⟩
  | .checkpoint i f => some ⟨.core i .mq, 0x12, f, none, ckptBody⟩
  | .sealOp i f => some ⟨.core i .mq, 0x13, f, none, fun s j => engOut s (sealRun s j)⟩
  | .array i f => some ⟨.core i .aq, 0x20, f, some (0x02, cOutResidue), arrayBody f⟩
  | .scaleAdapt i f => some ⟨.core i .aq, 0x21, f, none, scaleAdaptBody⟩
  | .sett i f => some ⟨.core i .sq, 0x30, f, some (0x03, cSettResidue), settBody f⟩
  | .gather i f => some ⟨.core i .xq, 0x40, f, some (0x04, cScreenResidue), screenBody f⟩
  | .scatter i f => some ⟨.core i .xq, 0x41, f, some (0x04, cScreenResidue), screenBody f⟩
  | .sort i f => some ⟨.core i .xq, 0x42, f, some (0x04, cScreenResidue), screenBody f⟩
  | .topk i f => some ⟨.core i .xq, 0x43, f, some (0x04, cScreenResidue), screenBody f⟩
  | .voxel i f => some ⟨.core i .xq, 0x44, f, some (0x04, cScreenResidue), screenBody f⟩
  | .neighbour i f => some ⟨.core i .xq, 0x45, f, some (0x04, cScreenResidue), screenBody f⟩
  | .segred i f => some ⟨.core i .xq, 0x46, f, some (0x04, cScreenResidue), screenBody f⟩
  | .compact i f => some ⟨.core i .xq, 0x47, f, some (0x04, cScreenResidue), screenBody f⟩
  | .matchOp i f => some ⟨.core i .xq, 0x48, f, some (0x04, cScreenResidue), screenBody f⟩
  | .edge i f => some ⟨.core i .xq, 0x49, f, some (0x04, cScreenResidue), screenBody f⟩
  | .dress p f => some ⟨.dq p, 0x50, f, some (0x09, cDressResidue), dressBody⟩
  | _ => none

/-- The state that a run starts from: its stage has started and the words it meets are known (R42, R239). -/
def EngineRow.start (r : EngineRow) (s : State) (j : Job) : State :=
  applyFacts (startStage (ioLinkFails s r.facts) j.who.ctx j.h.stage) r.facts (some (j.who.ctx, j.who.gen))

/-- The mailbox commands: opcode, TAG and arguments (R503). -/
def mboxOf : Instr → Option (Nat × U16 × Bytes)
  | .mboxNop t a => some (0x00, t, a)
  | .hostAttach t a => some (0x01, t, a)
  | .hostDetach t a => some (0x02, t, a)
  | .ctxStart t a => some (0x10, t, a)
  | .ctxStop t a => some (0x11, t, a)
  | .fenceClear t a => some (0x18, t, a)
  | .selftestReq t a => some (0x19, t, a)
  | .calReq t a => some (0x1A, t, a)
  | .pwrDomain t a => some (0x20, t, a)
  | .wakeMode t a => some (0x21, t, a)
  | .powerCap t a => some (0x22, t, a)
  | .stageOpen t a => some (0x30, t, a)
  | .stageWrite t a => some (0x31, t, a)
  | .stageClose t a => some (0x32, t, a)
  | .stageAbort t a => some (0x33, t, a)
  | .activate t a => some (0x34, t, a)
  | .commit t a => some (0x35, t, a)
  | .resetCmd t a => some (0x36, t, a)
  | .attest t a => some (0x38, t, a)
  | .getCert t a => some (0x39, t, a)
  | .logRead t a => some (0x3A, t, a)
  | .clrStat t a => some (0x40, t, a)
  | .mboxBadCmd op t a => some (op.toNat, t, a)
  | _ => none

/-- The management messages of the ring: their header (R422). -/
def mgmtOf : Instr → Option MgmtHdr
  | .hello h .. | .membership h .. | .ringStart h .. | .ctxFail h .. | .drainAck h .. | .ctxDrained h ..
  | .ringDigest h .. | .ringIdle h .. | .tSync h .. | .tFollow h .. => some h
  | _ => none

/-- The host reaches the device: it is out of reset and PCIE is live (R479, R511). -/
abbrev State.hostLive (s : State) : Prop := s.pins.pads = .run ∧ s.domLive 0x34 = true

/-- The mailbox serves a command at once: the host reaches it, it is not busy, its server runs, and no refusal of R503 that all commands share
applies (R501, R503). -/
abbrev State.serves (s : State) (op : Nat) (args : Bytes) : Prop :=
  s.hostLive ∧ s.hst.state ≠ 1 ∧ s.hst.ready = true ∧ (s.boot.recovery = true ∨ (s.proc .svp).state = .running) ∧
    args.length ≤ 4096 ∧ s.mbRefusal op args = none

/-- The mailbox shows STATE done with a tag, a status and a response (R501, R502). -/
abbrev State.answered (t : State) (tag : U16) (status : Nat) (rsp : Bytes) : Prop :=
  t.hst.state = 2 ∧ t.hst.tag = tag ∧ t.hst.status = BitVec.ofNat 8 status ∧
    t.hst.rspLen = BitVec.ofNat 13 rsp.length ∧ (rsp.length ≤ 4096 → mbGet t.hst.mbData 0 rsp.length = rsp)

/-- Every kind of state but those listed is the same. -/
def State.keeps (s : State) (l : List Kind) (t : State) : Prop := ∀ k, k ∉ l → k.same s t

end Sys2Proof.Machine
end

