-- ==== Sys2Proof/Certificates/Slice0/Obligations.lean ====
section
/-!
DEFINITION. Certificates/Slice0/Obligations.lean: the statements for the provers. "keeps" names the kinds of state that may
change; all other kinds stay (Safety.lean). The end of every command drives SAFE_ST, forwards records and follows BOOT_OK's
clock, which the frames leave open.
-/

open Sys2Proof Sys2Proof.Machine

/-! ### Power up and reset -/

/-- DEVICE_RESET with a pulse of 10 µs or more and VDD_AON_LOSS below 0.65 V: the device is in reset; flash, fuses, log
and the odometer's counts stay, and so do the straps that were sampled (R510, R511).
Model's choices in it: log 3. -/
def Obligations.ResetPulseLeavesTheResetState : Prop :=
  ∀ s : State, ∀ c : Instr, (∃ n, 10000 ≤ n ∧ c = .deviceReset n) ∨ (∃ mv, mv < 650 ∧ c = .vddAonLoss mv) →
    ∃ t, exec c s = .next t ∧ t.dev = .boot ∧ t.mem = [] ∧ t.img = [] ∧
      (∀ x, t.ctx x = {}) ∧ (∀ i, t.core i = {}) ∧ (∀ p, t.prt p = {}) ∧ t.tly = {} ∧ t.err = {} ∧ t.tb = {} ∧
      t.pins.safeSt = 0 ∧ t.pins.errOutN = false ∧ t.pins.alive = false ∧ t.pins.thermAlertN = true ∧
      t.pins.pmbAlertN = true ∧ t.pins.xspiRstN = false ∧
      t.boot.flash = s.boot.flash ∧ t.boot.logs = s.boot.logs ∧ t.boot.fuses = s.boot.fuses ∧
      t.boot.odo = { s.boot.odo with runTicks := 0 } ∧
      t.rng.id = s.rng.id ∧ t.pins.xspiSplit = s.pins.xspiSplit ∧ t.pending = s.pending

/-- POWER_GOOD with a valid bank whose sections are right and a start-up test that passes: the device is CONFIGURED on
that bank's image, the processors run, the Tally is ready (R437, R452).
POWER_GOOD without a valid bank: the recovery mailbox is served and the device stays in BOOT (R437, R438). A failure of the
start-up test is SAFE state (R342).
Model's choices in it: log 36. -/
def Obligations.PowerGoodStartsABankOrRecovers : Prop :=
  (∀ (s : State) (id : BitVec 2) (split : Bool) (tst : StartTest) (b : Fin 2) (img : List Section),
    (let r := resetDevice s
     let r : State := { r with pins := { r.pins with xspiSplit := split }, rng := { r.rng with id := id } }
     r.chooseBank = some b ∧ r.loadSections b (r.bankHeader b) = some img) →
    (tst.proc = none ∨ s.boot.failed.get b < 2) → tst.failStep.1 = 0 →
    ∃ t, exec (.powerGood id split tst) s = .next t ∧ t.dev = .configured ∧ t.boot.bank = b ∧ t.img = img ∧
      t.rng.id = id ∧ t.pins.xspiSplit = split ∧ t.tly.ready = true ∧ t.tly.selftestOk = true ∧ t.hst.ready = true ∧
      (∀ p, (t.proc p).state = .running) ∧ t.boot.recovery = false) ∧
  (∀ (s : State) (id : BitVec 2) (split : Bool) (tst : StartTest) (b : Fin 2) (img : List Section),
    (let r := resetDevice s
     let r : State := { r with pins := { r.pins with xspiSplit := split }, rng := { r.rng with id := id } }
     r.chooseBank = some b ∧ r.loadSections b (r.bankHeader b) = some img) →
    (tst.proc = none ∨ s.boot.failed.get b < 2) → tst.failStep.1 ≠ 0 →
    ∃ t, exec (.powerGood id split tst) s = .next t ∧ t.dev = .safe ∧ t.boot.bank = b ∧ t.tly.selftestOk = false ∧
      t.pins.safeSt = 0 ∧ t.pins.errOutN = false ∧ t.ctxs = (resetDevice s).ctxs) ∧
  (∀ (s : State) (id : BitVec 2) (split : Bool) (tst : StartTest),
    (let r := resetDevice s
     let r : State := { r with pins := { r.pins with xspiSplit := split }, rng := { r.rng with id := id } }
     r.bankValid 0 = false ∧ r.bankValid 1 = false) →
    ∃ t, exec (.powerGood id split tst) s = .next t ∧ t.dev = .boot ∧ t.boot.recovery = true ∧ t.hst.ready = true ∧
      t.img = [] ∧ t.mem = [] ∧ t.pins.safeSt = 0)

/-! ### Clocks, rails and heat -/

/-- The commands on one partition's rail: droop stretch and its end, an AVS reading, a divider that the PWP asks for: a slower
one at once, a faster one when the voltage has settled; another one than the PWP chooses is dropped (R470 to R473). Only that
partition's clock and rail change.
Model's choices in it: log 43. -/
def Obligations.RailCommandsSetOnePartition : Prop :=
  ∀ (s : State) (p : PartId),
    (∃ t, exec (.droopDetect p) s = .next t ∧ (t.rail p).stretch = true ∧
      (t.rail p).stretchCnt = (if (s.rail p).stretch then (s.rail p).stretchCnt else sat32 (s.rail p).stretchCnt) ∧
      (∀ q, q ≠ p → t.prt q = s.prt q) ∧ s.keeps [.parts] t) ∧
    (∃ t, exec (.droopStretchEnd p) s = .next t ∧ t.rail p = { s.rail p with stretch := false } ∧
      (∀ q, q ≠ p → t.prt q = s.prt q) ∧ s.keeps [.parts] t) ∧
    (∀ m, (s.rail p).floorMv ≤ (s.rail p).ceilMv →
      (s.rail p).floorMv ≤ (s.rail p).avsMv → (s.rail p).avsMv ≤ (s.rail p).ceilMv → m < 4 →
      ∃ t, exec (.avsLoopUpdate p m) s = .next t ∧ (t.rail p).margin = BitVec.ofNat 8 m ∧
        (t.rail p).avsMv.toNat = min (s.rail p).ceilMv.toNat ((s.rail p).avsMv.toNat + 10) ∧
        (∀ q, q ≠ p → t.prt q = s.prt q) ∧ s.keeps [.parts] t) ∧
    (∀ m, (s.rail p).floorMv ≤ (s.rail p).avsMv → (s.rail p).avsMv ≤ (s.rail p).ceilMv → 4 ≤ m → m < 10 →
      ∃ t, exec (.avsLoopUpdate p m) s = .next t ∧ (t.rail p).margin = BitVec.ofNat 8 m ∧
        (t.rail p).avsMv = (s.rail p).avsMv ∧ (∀ q, q ≠ p → t.prt q = s.prt q) ∧ s.keeps [.parts] t) ∧
    (∀ d, d = s.pickDiv p → s.pwpRuns = true → (s.rail p).forced = false →
      ∃ t, exec (.arrDividerChange p d) s = .next t ∧ (t.rail p).want = d ∧
        (t.rail p).floorMv = BitVec.ofNat 10 (avsRange d).1 ∧ (t.rail p).ceilMv = BitVec.ofNat 10 (avsRange d).2 ∧
        (t.rail p).div = (match (s.rail p).div with
          | none => none
          | some c => some (if divRank c ≤ divRank d ∨ (t.rail p).settled = true then d else c)) ∧
        (∀ q, q ≠ p → t.prt q = s.prt q) ∧ s.keeps [.parts] t) ∧
    (∀ d, d ≠ s.pickDiv p → ∃ t, exec (.arrDividerChange p d) s = .next t ∧ s.keeps [] t)

/-- The thermal emergency: a sample with a sensor at 140 °C or more begins it, and THERMAL_EMERGENCY_CLEAR ends it at
130 °C or less everywhere (R482); another sample that no sensor leaves its range with is only kept.
The PWP's thermal loop and the power cap: one partition goes one divider step slower, and a power emergency is held
until the power is below 95 % of the cap (R480, R481, R462).
Model's choices in it: log 37, 43. -/
def Obligations.HeatAndPowerThrottleTheClocks : Prop :=
  (∀ (s : State) (r : Vector Int 64), s.pwr.emerg = false → (∃ i, 2240 ≤ r.get i) →
    ∃ t, exec (.tempSample r) s = .next t ∧ t.pwr.emerg = true ∧ t.pwr.alert = true ∧ t.pins.thermAlertN = false ∧
      t.pwr.sensors = r ∧ t.pwr.thermCnt = sat32 s.pwr.thermCnt ∧
      (∀ p, (t.rail p).forced = true ∧ (t.rail p).div = (s.rail p).div.map fun _ => .d10) ∧
      t.boot.odo.thermals = s.boot.odo.thermals + 1 ∧ t.ticks = s.ticks ∧ t.pending = s.pending) ∧
  (∀ (s : State) (r : Vector Int 64), (s.pwr.emerg = true ∨ ∀ i, r.get i < 2240) →
    (∀ i, sensorBad r i = true → sensorBad s.pwr.sensors i = true) →
    ∃ t, exec (.tempSample r) s = .next t ∧ t.pwr.sensors = r ∧ t.pwr.emerg = s.pwr.emerg ∧ s.keeps [.pwr, .boot] t) ∧
  (∀ s : State, s.pwr.emerg = true → (∀ i, s.pwr.sensors.get i ≤ 2080) →
    ∃ t, exec .thermalEmergencyClear s = .next t ∧ t.pwr.emerg = false ∧ t.pwr.alert = false ∧
      t.pins.thermAlertN = true ∧ (∀ p, (t.rail p).forced = false) ∧ s.keeps [.parts, .pwr, .pins, .dev] t) ∧
  (∀ (s : State) (d : Fin 2), s.pwpRuns = true →
    2160 < s.hottest (32 * d.1) 16 → s.hottest (32 * d.1 + 16) 16 ≤ s.hottest (32 * d.1) 16 →
    ∀ a c, a = partOf (2 * d.1) → (s.rail a).forced = false → (s.rail a).div = some c →
    divRank (s.rail a).want ≤ divRank c →
    ∃ t, exec (.pwpThermalStep d) s = .next t ∧ t.pwr.loop = true ∧ (t.rail a).heat = divDown c ∧
      (t.rail a).div = some (t.pickDiv a) ∧ divRank (divDown c) ≤ divRank (t.pickDiv a) ∧
      (∀ q, q ≠ a → q ≠ partOf (2 * d.1 + 1) → t.prt q = s.prt q) ∧ s.keeps [.parts, .pwr] t) ∧
  (∀ (s : State) (w : U16) (p : PartId) (c : Divider), s.capNow < w.toNat → s.pwpRuns = true →
    (s.rail p).forced = false → (s.rail p).div = some c → divRank (s.rail p).want ≤ divRank c →
    ∃ t, exec (.powerEmergency w p) s = .next t ∧ t.pwr.powerEmerg = true ∧ t.pwr.now = w ∧
      (t.rail p).capped = divDown c ∧ (t.rail p).div = some (t.pickDiv p) ∧ divRank (divDown c) ≤ divRank (t.pickDiv p) ∧
      (∀ q, q ≠ p → t.prt q = s.prt q) ∧ s.keeps [.parts, .pwr] t) ∧
  (∀ (s : State) (w : U16), s.pwr.powerEmerg = true → 100 * w.toNat < 95 * s.capNow →
    ∃ t, exec (.powerEmergencyClear w true) s = .next t ∧ t.pwr.powerEmerg = false ∧ t.pwr.voltCond = false ∧
      t.pwr.now = w ∧ s.keeps [.pwr] t)

/-- A clock or voltage monitor of a populated die: a device-scoped event, so every context that is not IDLE is torn down
and every egress is stopped (R317, R329, R333, R334). -/
def Obligations.MonitorTripIsADeviceEvent : Prop :=
  ∀ (s : State) (die : Fin 4) (mon : BitVec 6) (v : U32) (c : Instr), dieThere s.part die = true → s.err.expect = false →
    (c = .clkMon die mon v ∨ c = .voltMon die mon v) →
    ∃ t, exec c s = .next t ∧ t.err.deviceEvent = true ∧ t.err.deviceAt = some s.ticks ∧ t.tly.devOverride = true ∧
      t.pins.errOutN = false ∧ (∀ x, (t.ctx x).stopLatch = true) ∧
      (∀ x, ((s.ctx x).state = .run ∨ (s.ctx x).state = .starting) → (t.ctx x).state = .draining) ∧
      (c = .voltMon die mon v → t.pwr.voltCond = true) ∧ t.mem = s.mem ∧ t.tb = s.tb ∧ t.pending = s.pending

/-- The domain commands: the PWP's idle entry into RET, a wake by each source, WAKE_N high again, a device in reset, which wakes
nothing, and the switch to the PLL-derived clock (R476 to R479, R528).
Model's choices in it: log 37. -/
def Obligations.DomainsSleepAndWake : Prop :=
  (∀ (s : State) (id : BitVec 6), domPresent s.part id.toNat = true → domFixed id.toNat = false →
    s.domInUse id.toNat = false → s.domFenced id.toNat = false → s.domIsDown id.toNat = false → s.pwpRuns = true →
    s.pins.wakeN = true →
    ∃ t, exec (.domainIdleTimeout id) s = .next t ∧ (t.dom id.toNat).state = .ret ∧
      (∀ n, n ≠ id.toNat → t.dom n = s.dom n) ∧ t.mem = s.mem ∧ t.ctxs = s.ctxs ∧ t.pending = s.pending) ∧
  (∀ (s : State) (w : WakeSrc) (l : List Nat) (k : Nat), s.pins.pads = .run →
    (w = .pcie ∧ l = [0x34] ∧ k = 5 ∨ w = .ring ∧ l = [0x35, 0x36] ∧ k = 4 ∨
      (∃ d p, w = .csi d p ∧ l = [camDom d p.1, cruDom d] ∧ k = 1) ∨
      (∃ d m f, w = .ethernet d m f ∧ s.ethWakes d m f = some k ∧ l = [ethDom d]) ∨
      w = .wakeN true ∧ l = wakeOrder ∧ k = 6) →
    ∃ t, exec (.domainWake w) s = .next t ∧
      (∀ n, n ∈ l → domPresent s.part n = true → s.domFenced n = false → s.domIsDown n = true →
        (t.dom n).state = .onFio ∧ (t.dom n).lastWake = BitVec.ofNat 3 k ∧ (t.dom n).wakes = sat16 (s.dom n).wakes) ∧
      (∀ n, (n ∉ l ∨ s.domIsDown n = false) → t.dom n = s.dom n) ∧
      s.keeps (if w = .wakeN true then [.pwr, .mcs, .pins] else [.pwr]) t) ∧
  (∀ s : State, ∃ t, exec (.domainWake (.wakeN false)) s = .next t ∧ t.pins.wakeN = true ∧ s.keeps [.pins] t) ∧
  (∀ (s : State) (w : WakeSrc), s.pins.pads ≠ .run → ∃ t, exec (.domainWake w) s = .next t ∧
    s.keeps (match w with
      | .wakeN _ => [.pins]
      | _ => []) t) ∧
  (∀ (s : State) (d : DieId) (m : MacId) (f : Bytes), s.ethWakes d m f = none →
    ∃ t, exec (.domainWake (.ethernet d m f)) s = .next t ∧ s.keeps [] t) ∧
  (∀ (s : State) (id : BitVec 6), (s.dom id.toNat).state = .onFio → s.pwr.pll = true → s.pwpRuns = true →
    ∃ t, exec (.wakeClockSwitch id) s = .next t ∧ (t.dom id.toNat).state = .onPll ∧
      (∀ n, n ≠ id.toNat → t.dom n = s.dom n) ∧ s.keeps [.pwr] t)

/-! ### Contexts, triggers and frames -/

/-- LISTS_LOADED: a context in STARTING whose partitions are in service enters RUN, and with it the device, once the domains in
use are ON, which a PWP that runs brings ON; else it waits (R34, R437, R452, R476, R483). No other context changes.
Model's choices in it: log 16. -/
def Obligations.ListsLoadedEntersRun : Prop :=
  ∀ (s : State) (c : CtxId), (s.ctx c).state = .starting → s.canLoad c = true →
    ((s.pwpRuns = true ∨ ∀ n, s.domWaits n = false) →
      ∃ t, exec (.listsLoaded c) s = .next t ∧ (t.ctx c).state = .run ∧ (t.ctx c).gen = (s.ctx c).gen ∧
        (t.ctx c).runNs = s.nowNs ∧ (∀ x, x ≠ c → t.ctx x = s.ctx x) ∧ (∀ n, t.domWaits n = false) ∧
        ((s.dev = .configured ∨ s.dev = .run ∨ s.dev = .degraded) → t.dev = .run ∨ t.dev = .degraded) ∧
        s.keeps [.ctxs, .dev, .mcs, .pwr, .lks, .boot, .hst] t) ∧
    (s.pwpRuns = false → (∃ n, s.domWaits n = true) → ∃ t, exec (.listsLoaded c) s = .next t ∧ s.keeps [] t)

/-- SCHEDULE_TRIGGER with no frame in flight starts a frame with the next number at the instant of R37 (R37, R39, R40).
ARRIVAL_TIMEOUT: the frame starts with ARRIVAL_TIMEOUT set and the streams that have not delivered are INCOMPLETE
(R38, R80).
Model's choices in it: log 17, 43. -/
def Obligations.TriggersStartTheNextFrame : Prop :=
  (∀ (s : State) (c : CtxId), (s.ctx c).state = .run → s.arrivalTrig c = false → s.dev ≠ .replay →
    (s.ctx c).frame.inFlight = false → s.seqHeld c = false →
    ∃ t, exec (.scheduleTrigger c) s = .next t ∧ (t.ctx c).frameNum = (s.ctx c).nextFrame ∧
      (t.ctx c).nextFrame = (s.ctx c).nextFrame + 1 ∧ (t.ctx c).lastTrig = some (1000 * s.nextInstant c) ∧
      (t.ctx c).latched = none ∧ (t.ctx c).frame.hasSealed = false ∧ (t.ctx c).trigMissed = (s.ctx c).trigMissed ∧
      (∀ p i, s.ownsBead c p i = true → s.streamBead c p i = false → t.bead p i = 0) ∧
      (∀ p i, s.ownsBead c p i = false → t.bead p i = s.bead p i) ∧
      (∀ x, x ≠ c → t.ctx x = s.ctx x)) ∧
  (∀ (s : State) (c : CtxId), (s.ctx c).state = .run → s.arrivalTrig c = true → (s.ctx c).arrived ≠ 0 → s.dev ≠ .replay →
    (s.ctx c).frame.inFlight = false → s.seqHeld c = false →
    ∃ t, exec (.arrivalTimeout c) s = .next t ∧ (t.ctx c).arrived = 0 ∧
      (t.ctx c).frameNum = (s.ctx c).nextFrame ∧ (t.ctx c).nextFrame = (s.ctx c).nextFrame + 1 ∧
      (t.ctx c).frame.flags.getLsbD fArrivalTimeout = true ∧
      (∀ i : Fin 64, (BitVec.ofNat 64 (s.arrStreams c)).getLsbD i.1 = true → (s.ctx c).arrived.getLsbD i.1 = false →
        (t.ctx c).frame.incomplete.getLsbD i.1 = true) ∧
      (∀ x, x ≠ c → t.ctx x = s.ctx x))

/-- A trigger that falls in a frame in flight is latched; while one is latched a further trigger is discarded and counted
(R39). The frame in flight goes on.
Model's choices in it: log 17. -/
def Obligations.TriggerInFlightIsLatchedThenCounted : Prop :=
  ∀ (s : State) (c : CtxId), (s.ctx c).state = .run → s.arrivalTrig c = false → s.dev ≠ .replay →
    (s.ctx c).frame.inFlight = true →
    ∃ t, exec (.scheduleTrigger c) s = .next t ∧ (t.ctx c).frame = (s.ctx c).frame ∧
      (t.ctx c).frameNum = (s.ctx c).frameNum ∧ (∀ x, x ≠ c → t.ctx x = s.ctx x) ∧
      ((s.ctx c).latched = none → ((t.ctx c).latched.map (·.flags)) = some 0 ∧
        (t.ctx c).trigMissed = (s.ctx c).trigMissed) ∧
      (∀ l, (s.ctx c).latched = some l → (t.ctx c).latched = some l ∧
        (t.ctx c).trigMissed = sat32 (s.ctx c).trigMissed ∧ (t.ctx c).missedSince = sat32 (s.ctx c).missedSince)

/-! ### Queues -/

/-- DESCRIPTOR_ACCEPT: the next descriptor of a list, as it lies in memory, that passes the checks of R52 joins its queue with
its GEN written; the feeder's place and the expected QSEQ move on by one (R47, R48, R52, R450). A descriptor whose CRC is wrong
is not accepted: the context is torn down and the queue is left without its entries (R52, R361).
Model's choices in it: log 38. -/
def Obligations.DescriptorsJoinTheirQueueOrFault : Prop :=
  (∀ (s : State) (q : QueueId) (c : CtxId) (o : Fin 4) (l : ListCfg), s.canFeed q c = true → s.nextList q c = some l →
    l.origin = o →
    (s.listDesc c l (s.fedOf c l)).2 = none →
    (let b := withGen (s.listDesc c l (s.fedOf c l)).1 (s.ctx c).gen
     let h := hdrOf b
     let s1 := bumpExpect (advance s c l) q c o
     let w : Who := { ctx := c, gen := h.gen, part := qPart q, core := qCore? q, src := srcQueue q, detail := descDetail q h o }
     descCrc b = h.crc ∧ h.ctx = c ∧ h.gen = (s.ctx c).gen ∧ h.qseq = (((s.queue q).expect.get c).get o) ∧
     check4 s1 q c o h (b.drop 16) = none ∧ beadsOk s1 q c h = true ∧ payloadRange s1 w h.opcode (b.drop 16) = .ok () ∧
     ((s.queue q).entries ≠ [] ∨
       ((((s.queue q).lastStage.get c).get o).toNat ≤ h.stage ∧
         (h.golden = true ∨ l.ngold h.stage ≤ goldCount (s.queue q) c o h.stage)))) →
    (s.listOf c q o = some l) →
    ∃ t, exec (.descriptorAccept q c o none) s = .next t ∧
      (t.queue q).entries = (s.queue q).entries ++ [⟨withGen (s.listDesc c l (s.fedOf c l)).1 (s.ctx c).gen, c, o, false, false, 0, 0⟩] ∧
      (((t.queue q).expect.get c).get o) = (((s.queue q).expect.get c).get o) + 1 ∧
      t.fedOf c l = s.fedOf c l + 1 ∧ (∀ q', q' ≠ q → t.queue q' = s.queue q') ∧ s.keeps [.cores, .parts, .ctxs] t) ∧
  (∀ (s : State) (q : QueueId) (c : CtxId) (o : Fin 4) (b : Bytes), s.canFeed q c = true → s.err.expect = false →
    b.length = 64 → descCrc b ≠ (hdrOf b).crc →
    ∃ t, exec (.descriptorAccept q c o (some b)) s = .next t ∧ (t.ctx c).state = .draining ∧
      (t.ctx c).stopLatch = true ∧ (t.ctx c).frame.inFlight = false ∧
      (∀ q' e, e ∈ (t.queue q').entries → e.ctx ≠ c) ∧ (∀ x, x ≠ c → t.ctx x = s.ctx x) ∧ t.mem = s.mem)

/-- DESCRIPTOR_COMPLETE: the executed head leaves its queue and its signal is added to the bead modulo 2^32 (R57). A signal
to a ring peer is sent and the head waits for its acknowledgement; a head that waits for a peer changes nothing (R57, R415). A
difference at the pair hub or a dead link on the signal's only route faults the context, and no bead changes (R18, R29, R337).
BEAD_SIGNAL: a signal of the present generation to an owned bead adds its increment, and one of an old generation is
discarded and counted (R32, R57).
Model's choices in it: log 29. -/
def Obligations.SignalsAddToTheirBead : Prop :=
  (∀ (s : State) (q : QueueId) (e : QEntry) (r : List QEntry) (diff : Option (Fin 4 × BitVec 12)),
    (s.queue q).entries = e :: r → e.executed = true → s.awaitsPeer q e (hdrOf e.bytes) = false →
    (e.sent = true ∨ signalStop s q e (hdrOf e.bytes) diff = none) →
    ((s.ctx e.ctx).latched = none ∨ ∃ e2 ∈ r, e2.ctx = e.ctx) →
    (popHead (account s q e (hdrOf e.bytes)) q e (hdrOf e.bytes)).headFault q = none →
    (let h := hdrOf e.bytes
     (h.sigRing = false ∨ h.sigDev = s.rng.id.toNat) ∧ s.inReset h.sigPart = false) →
    ∃ t, exec (.descriptorComplete ⟨q, diff⟩) s = .next t ∧ (t.queue q).entries = r ∧
      t.bead (hdrOf e.bytes).sigPart (hdrOf e.bytes).sigIdx =
        s.bead (hdrOf e.bytes).sigPart (hdrOf e.bytes).sigIdx + BitVec.ofNat 32 (hdrOf e.bytes).sigInc ∧
      (∀ p i, (p, i) ≠ ((hdrOf e.bytes).sigPart, (hdrOf e.bytes).sigIdx) → t.bead p i = s.bead p i) ∧
      (∀ q', q' ≠ q → t.queue q' = s.queue q') ∧ s.keeps [.cores, .parts, .ctxs, .lks] t) ∧
  (∀ (s : State) (q : QueueId) (e : QEntry) (r : List QEntry) (diff : Option (Fin 4 × BitVec 12)),
    (s.queue q).entries = e :: r → e.executed = true →
    (s.awaitsPeer q e (hdrOf e.bytes) = true → ∃ t, exec (.descriptorComplete ⟨q, diff⟩) s = .next t ∧ s.keeps [] t) ∧
    (s.awaitsPeer q e (hdrOf e.bytes) = false → s.signalsPeer (hdrOf e.bytes) = true → e.sent = false →
      signalStop s q e (hdrOf e.bytes) diff = none →
      ∃ t, exec (.descriptorComplete ⟨q, diff⟩) s = .next t ∧ (t.queue q).entries = { e with sent := true } :: r ∧
        t.rng.unacked = s.rng.unacked ++ [⟨BitVec.ofNat 2 (hdrOf e.bytes).sigDev, q, e.ctx, true⟩] ∧
        (∀ p i, t.bead p i = s.bead p i) ∧ (∀ q', q' ≠ q → t.queue q' = s.queue q') ∧
        s.keeps [.cores, .parts, .rng] t) ∧
    (∀ l, s.awaitsPeer q e (hdrOf e.bytes) = false → e.sent = false → diff = none →
      s.signalLink q (hdrOf e.bytes) = some l → (hdrOf e.bytes).gen = (s.ctx e.ctx).gen → (s.ctx e.ctx).state = .run →
      s.err.expect = false →
      ∃ t, exec (.descriptorComplete ⟨q, diff⟩) s = .next t ∧ (t.ctx e.ctx).state = .draining ∧
        (t.ctx e.ctx).stopLatch = true ∧ (∀ p i, t.bead p i = s.bead p i) ∧ (∀ x, x ≠ e.ctx → t.ctx x = s.ctx x) ∧
        t.mem = s.mem)) ∧
  (∀ (s : State) (c : CtxId) (g : BitVec 12) (p : PartId) (b : BitVec 12) (n : BitVec 4),
    (g = (s.ctx c).gen → s.inReset p = false → s.ownsBead c p b.toNat = true →
      ∃ t, exec (.beadSignal c g p b n) s = .next t ∧ t.bead p b.toNat = s.bead p b.toNat + BitVec.ofNat 32 n.toNat ∧
        (∀ p' i, (p', i) ≠ (p, b.toNat) → t.bead p' i = s.bead p' i) ∧ (∀ q, t.queue q = s.queue q) ∧
        s.keeps [.parts] t) ∧
    (g ≠ (s.ctx c).gen → ∃ t, exec (.beadSignal c g p b n) s = .next t ∧
      t.ctx c = { s.ctx c with staleTxn := sat32 (s.ctx c).staleTxn } ∧ (∀ x, x ≠ c → t.ctx x = s.ctx x) ∧
      s.keeps [.ctxs] t))

/-- NOP and FENCE: the head of the queue is executed and nothing else of the machine changes but its stage and, on an AQ, the
chains that the output stage keeps from one AQ descriptor to the next (R53, R62, R159). A FENCE of scope 1 runs once every
write of its queue to a ring peer is acknowledged, and until then changes nothing (R62, R415).
Model's choices in it: log 29. -/
def Obligations.NopAndFenceOnlyExecuteTheHead : Prop :=
  ∀ (s : State) (q : QueueId) (j : Job) (c : Instr),
    ((c = .nop q ∧ s.job q (· = 0x00) = some j ∨ c = .fence q ∧ s.job q (· = 0x01) = some j ∧ s.fenceReady q = true) →
      ∃ t, exec c s = .next t ∧
        (let u := (match q with
            | .core i .aq => forgetAq s i
            | _ => s).onHead q fun e => { e with executed := true, sum := 0, cnt := 0 }
         t.cores = u.cores ∧ t.parts = u.parts) ∧
        t.ctxs = (startStage s j.who.ctx j.h.stage).ctxs ∧ t.bad = s.bad.dedup ∧
        (t.queue q).entries = { j.e with executed := true, sum := 0, cnt := 0 } :: (s.queue q).entries.tail ∧
        (∀ q', q' ≠ q → t.queue q' = s.queue q') ∧ (∀ x, (t.ctx x).state = (s.ctx x).state) ∧
        (∀ x, x ≠ j.who.ctx → t.ctx x = s.ctx x) ∧ s.keeps [.cores, .parts, .ctxs, .bad] t) ∧
    (s.fenceReady q = false → ∃ t, exec (.fence q) s = .next t ∧ s.keeps [] t)

/-- BEAD_TIMEOUT and WDG_LATE fault the context and reset the partitions that hold it up (R59, R316, R368).
Stage events: an end that reaches the watchdog inside its window is told and changes nothing else, one before its minimum
faults the context, an end of the frame before comes first, and a start or an end that is not there changes nothing;
TEST_STAGE_END ends an open TEST stage, one that an earlier frame left open first (R39, R42, R43, R316).
Model's choices in it: log 38, 43. -/
def Obligations.ExpiriesFaultAndWindowsAreChecked : Prop :=
  (∀ (s : State) (q : QueueId) (e : QEntry) (r : List QEntry), s.err.expect = false → (s.queue q).entries = e :: r →
    e.executed = false → s.waitDone q (hdrOf e.bytes) = false → (s.ctx e.ctx).state = .run →
    (s.prt (qPart q)).prt.state = .service →
    ∃ t, exec (.beadTimeout q) s = .next t ∧ (t.ctx e.ctx).state = .draining ∧ (t.ctx e.ctx).stopLatch = true ∧
      ((t.prt (qPart q)).prt.state = .resetting ∨ (t.prt (qPart q)).prt.state = .offline) ∧
      (t.prt (qPart q)).prt.causeCode = cBeadTimeout ∧ t.pins.errOutN = false ∧ t.ticks = s.ticks) ∧
  (∀ (s : State) (c : CtxId) (st : Fin 32) (us : Nat) (x : StageCfg), s.err.expect = false → s.stageCfg c st.1 = some x →
    x.test = false → (s.ctx c).state = .run → (s.stageRt c st).phase = .running → (s.stageRt c st).late = false →
    (s.window c x).2 < us → (∀ p, (s.prt p).prt.state = .service) →
    ∃ t, exec (.wdgLate c st us) s = .next t ∧ (t.ctx c).state = .draining ∧ (t.ctx c).stopLatch = true ∧
      (∀ p ∈ openParts s c st x, (t.prt p).prt.state = .resetting ∨ (t.prt p).prt.state = .offline) ∧
      t.pins.errOutN = false) ∧
  (∀ (s : State) (c : CtxId) (st : Fin 32) (x : StageCfg), s.stageCfg c st.1 = some x →
    (∀ us b, (b = false ∨ x.test = true ∨ (s.ctx c).state ≠ .run ∨ tellEnd s c st x = none) →
      ∃ t, exec (.stageEvent c st b us) s = .next t ∧ s.keeps [] t) ∧
    (x.test = false → (s.ctx c).state = .run → (s.ctx c).frame.ends.find? (fun e => decide (e.1 = st)) = none →
      (s.stageRt c st).phase = .ended → (s.stageRt c st).told = false →
      (∀ us, (s.window c x).1 ≤ us → ∃ t, exec (.stageEvent c st true us) s = .next t ∧
        t.stageRt c st = { s.stageRt c st with told := true } ∧ (∀ i, i ≠ st → t.stageRt c i = s.stageRt c i) ∧
        (t.ctx c).state = .run ∧ (∀ y, y ≠ c → t.ctx y = s.ctx y) ∧ s.keeps [.ctxs] t) ∧
      (∀ us, us < (s.window c x).1 → s.err.expect = false →
        ∃ t, exec (.stageEvent c st true us) s = .next t ∧ (t.ctx c).state = .draining ∧ (t.ctx c).stopLatch = true ∧
          (∀ y, y ≠ c → t.ctx y = s.ctx y) ∧ t.mem = s.mem)) ∧
    (∀ e, x.test = false → (s.ctx c).state = .run →
      (s.ctx c).frame.ends.find? (fun e => decide (e.1 = st)) = some e →
      (∀ us, e.2 ≤ us → ∃ t, exec (.stageEvent c st true us) s = .next t ∧
        (t.ctx c).frame = { (s.ctx c).frame with ends := (s.ctx c).frame.ends.filter fun d => decide (d.1 ≠ st) } ∧
        (t.ctx c).state = .run ∧ (∀ y, y ≠ c → t.ctx y = s.ctx y) ∧ s.keeps [.ctxs] t) ∧
      (∀ us, us < e.2 → s.err.expect = false →
        ∃ t, exec (.stageEvent c st true us) s = .next t ∧ (t.ctx c).state = .draining ∧ (t.ctx c).stopLatch = true ∧
          (∀ y, y ≠ c → t.ctx y = s.ctx y) ∧ t.mem = s.mem))) ∧
  (∀ (s : State) (c : CtxId) (st : Fin 32),
    (s.testOpen c st = true → st ∉ (s.ctx c).frame.tests →
      ∃ t, exec (.testStageEnd c st) s = .next t ∧ (t.stageRt c st).phase = .ended ∧
        (∀ i, i ≠ st → t.stageRt c i = s.stageRt c i) ∧ (∀ y, y ≠ c → t.ctx y = s.ctx y) ∧ s.keeps [.ctxs] t) ∧
    ((s.ctx c).state = .run → st ∈ (s.ctx c).frame.tests →
      ∃ t, exec (.testStageEnd c st) s = .next t ∧
        (t.ctx c).frame = { (s.ctx c).frame with tests := (s.ctx c).frame.tests.erase st } ∧
        (∀ y, y ≠ c → t.ctx y = s.ctx y) ∧ s.keeps [.ctxs] t) ∧
    (s.testOpen c st = false → ∃ t, exec (.testStageEnd c st) s = .next t ∧ s.keeps [] t))

/-! ### Engines -/

/-- Every engine row: the head of its queue, free to start, whose run meets no fault, is executed; memory is what the run's
writes leave, the bytes outside them stay as the run left them, and no other queue's entries are executed by it (R53, R56,
R57). A queue whose head may not start (empty, waiting, executed, of another opcode, in a hand-over, a self-test, a partition
out of service or a core that is not on its PLL-derived clock) runs nothing: an engine command then changes nothing (R56, R60,
R70, R346, R479). A head that fails the check of its stage or its golden order is not started and faults its context (R44,
R45).
Model's choices in it: log 19, 38, 44. -/
def Obligations.EngineRowsRunTheHeadOnly : Prop :=
  (∀ (c : Instr) (r : EngineRow) (s : State) (j : Job), engineOf c = some r → s.job r.queue (· = r.op) = some j →
    (r.body (r.start s j) j).flt = none → pairFlt (r.start s j) r.facts j = none →
    factFlt (r.start s j) r.facts j r.resid = none →
    (r.start s j).badOfWrites (mirrorPair (r.start s j) (r.body (r.start s j) j).writes) = none →
    linkLost r.facts (r.body (r.start s j) j).writes = none →
    ∃ t, exec c s = .next t ∧
      ((t.queue r.queue).entries.map fun e => (e.bytes, e.ctx, e.origin)) =
        (((r.body (r.start s j) j).after.queue r.queue).entries.map fun e => (e.bytes, e.ctx, e.origin)) ∧
      (∀ e, (t.queue r.queue).entries.head? = some e → e.executed = true) ∧
      t.mem = (commitRun (r.body (r.start s j) j).after j.who (r.body (r.start s j) j).writes).mem ∧
      (∀ a, (∀ w, w ∈ mirrorPair (r.body (r.start s j) j).after (r.body (r.start s j) j).writes →
          a < w.1 ∨ w.1 + w.2.length ≤ a) →
        memGet 0 t.mem a = memGet 0 (r.body (r.start s j) j).after.mem a) ∧
      (∀ q, q ≠ r.queue → t.queue q = (r.body (r.start s j) j).after.queue q) ∧
      t.ctxs = (r.body (r.start s j) j).after.ctxs ∧ t.pending = (r.body (r.start s j) j).after.pending) ∧
  (∀ (c : Instr) (r : EngineRow) (s : State), engineOf c = some r →
    (s.job r.queue (· = r.op) = none → s.headFault r.queue = none → ∃ t, exec c s = .next t ∧ s.keeps [] t) ∧
    (∀ e code, s.headFault r.queue = some code → (s.queue r.queue).entries.head? = some e → s.err.expect = false →
      (s.ctx e.ctx).state = .run →
      ∃ t, exec c s = .next t ∧ (t.ctx e.ctx).state = .draining ∧ (t.ctx e.ctx).stopLatch = true ∧
        (∀ x, x ≠ e.ctx → t.ctx x = s.ctx x) ∧ (∀ q k, k ∈ (t.queue q).entries → k.ctx ≠ e.ctx) ∧ t.mem = s.mem))

/-- Every engine row: a run that meets a fault of its own faults its context; the context is torn down and its egress is
stopped (R317, R361). -/
def Obligations.EngineFaultTearsTheContextDown : Prop :=
  ∀ (c : Instr) (r : EngineRow) (s : State) (j : Job) (f : Flt), engineOf c = some r →
    s.job r.queue (· = r.op) = some j → (r.body (r.start s j) j).flt = some f → f.cores = [] → f.reset = none →
    isDevice f.code = false → isFault f.code = true →
    (r.body (r.start s j) j).after.err.expect = false →
    ((r.body (r.start s j) j).after.ctx j.who.ctx).gen = j.who.gen →
    ((r.body (r.start s j) j).after.ctx j.who.ctx).state = .run →
    ∃ t, exec c s = .next t ∧ (t.ctx j.who.ctx).state = .draining ∧ (t.ctx j.who.ctx).stopLatch = true ∧
      t.pins.errOutN = false ∧ (∀ q e, e ∈ (t.queue q).entries → e.ctx ≠ j.who.ctx)

/-- MOVE, FMT 0 and one row, both ends on this device and disjoint: the destination holds the source bytes, and so does its
place in the Ledge of the trailing core when it lies in the Ledge of a leading one (R336); no other byte of memory
changes (R67).
Model's choices in it: log 19. -/
def Obligations.PlainMoveCopiesItsBytes : Prop :=
  ∀ (s : State) (i : CoreId) (j : Job) (x y : Nat) (b : Bytes), s.job (.core i .mq) (· = 0x10) = some j →
    moveFmt j.p = 0 → fld j.p 28 2 = 1 → fld j.p 30 2 = 1 →
    s.isLocal (addrField j.p 0) = true → s.isLocal (addrField j.p 8) = true →
    (let s1 := startStage s j.who.ctx j.h.stage
     s1.access j.who (addrField j.p 0).addr (fld j.p 24 4) false = .ok x ∧
     s1.load j.who (addrField j.p 0).addr (fld j.p 24 4) = .ok b ∧
     s1.storeAt j.who (addrField j.p 8).addr (fld j.p 24 4) = .ok y) →
    (x + fld j.p 24 4 ≤ y ∨ y + fld j.p 24 4 ≤ x) →
    (∀ k, target y = .ledge k → target (y + fld j.p 24 4 - 1) = .ledge k) → s.bad = [] → s.linkDown = [] →
    ∃ t, exec (.move i {}) s = .next t ∧
      (∀ k, k < fld j.p 24 4 → memGet 0 t.mem (y + k) = b.getD k 0) ∧
      (∀ a, (∀ w, w ∈ mirrorPair s [(y, b)] → a < w.1 ∨ w.1 + w.2.length ≤ a) → memGet 0 t.mem a = memGet 0 s.mem a) ∧
      (∀ e, (t.queue (.core i .mq)).entries.head? = some e → e.executed = true) ∧
      (∀ c, c ≠ j.who.ctx → t.ctx c = s.ctx c) ∧ s.keeps [.cores, .ctxs, .mem, .lineOwner, .free] t

/-- DIGEST: a part that opens a slot, free or its queue's own, feeds it the bytes read, and a later part of the same queue
adds its own; the last part closes the slot with SHA-256 of all bytes fed, and writes it to its destination, or no memory
where that is 0 (R73, R74).
Model's choices in it: log 42. -/
def Obligations.DigestOpensAndClosesItsSlot : Prop :=
  ∀ (s : State) (i : CoreId) (j : Job) (b : Bytes), s.job (.core i .mq) (· = 0x11) = some j →
    (let s1 := startStage s j.who.ctx j.h.stage
     s1.isLocal (addrField j.p 0) = true ∧ s1.otherLedge j.who (addrField j.p 0).addr (fld j.p 8 4) = false ∧
     s1.load j.who (addrField j.p 0).addr (fld j.p 8 4) = .ok b) → s.bad = [] →
    (let n : Fin 16 := ⟨byteAt j.p 12 % 16, Nat.mod_lt _ (by decide)⟩
     let x := (s.ctx j.who.ctx).slots.get n
     let mode := byteAt j.p 13 % 4
     let fed := (if mode = 0 ∨ mode = 3 then [] else x.fed) ++ b
     (x.owner = some (.core i .mq) ∨ x.owner = none ∧ (mode = 0 ∨ mode = 3)) →
     (mode < 2 →
      ∃ t, exec (.digest i {}) s = .next t ∧ (((t.ctx j.who.ctx).slots.get n).owner = some (.core i .mq)) ∧
        ((t.ctx j.who.ctx).slots.get n).fed = fed ∧ t.mem = s.mem) ∧
     (2 ≤ mode → fld j.p 16 8 = 0 →
      ∃ t, exec (.digest i {}) s = .next t ∧ ((t.ctx j.who.ctx).slots.get n).owner = none ∧
        ((t.ctx j.who.ctx).slots.get n).value = sha256 fed ∧ t.mem = s.mem) ∧
     (∀ y, 2 ≤ mode → fld j.p 16 8 ≠ 0 →
      (let s1 := startStage s j.who.ctx j.h.stage
       s1.isLocal (addrField j.p 16) = true ∧ s1.otherLedge j.who (addrField j.p 16).addr 32 = false ∧
       s1.storeAt j.who (addrField j.p 16).addr 32 = .ok y) →
      ∃ t, exec (.digest i {}) s = .next t ∧ ((t.ctx j.who.ctx).slots.get n).owner = none ∧
        ((t.ctx j.who.ctx).slots.get n).value = sha256 fed ∧
        (∀ k, k < 32 → memGet 0 t.mem (y + k) = (sha256 fed).getD k 0) ∧
        (∀ a, (∀ w, w ∈ mirrorPair s [(y, sha256 fed)] → a < w.1 ∨ w.1 + w.2.length ≤ a) →
          memGet 0 t.mem a = memGet 0 s.mem a)))

/-- PAIR and SPLIT wait for the hand-over that PAIR_HANDOVER then makes: the pair stands in the hub, or is gone from it
(R69, R70, R339, R351). With a fenced core PAIR completes without pairing and the frame is UNPAIRED, SPLIT completes, and so
does a hand-over that finds one; a PAIR of the pair that stands completes at once (R70, R340).
Model's choices in it: log 38. -/
def Obligations.PairingTakesAHandOver : Prop :=
  (∀ (s : State) (i : CoreId) (j : Job), s.job (.core i .mq) (· = 0x18) = some j → j.h.qseq = 0 →
    s.isFenced (coreOf j.who.part (pairCores j).1) = false → s.isFenced (coreOf j.who.part (pairCores j).2) = false →
    (s.prt j.who.part).hub.pair = none →
    ∃ t, exec (.pair i) s = .next t ∧
      (t.prt j.who.part).hub.want = some ((pairCores j).1, (pairCores j).2, true, j.who.ctx) ∧
      (t.prt j.who.part).hub.pair = none ∧ (∀ q, t.queue q = s.queue q) ∧ s.keeps [.parts, .ctxs] t) ∧
  (∀ (s : State) (i : CoreId) (j : Job), s.job (.core i .mq) (· = 0x19) = some j → j.h.qseq = 0 →
    s.isFenced (coreOf j.who.part (pairCores j).1) = false → s.isFenced (coreOf j.who.part (pairCores j).2) = false →
    ((s.prt j.who.part).hub.pair = some (pairCores j) ∨
      (s.prt j.who.part).hub.pair = some ((pairCores j).2, (pairCores j).1)) →
    ∃ t, exec (.splitOp i) s = .next t ∧
      (t.prt j.who.part).hub.want = some ((pairCores j).1, (pairCores j).2, false, j.who.ctx) ∧
      (∀ q, t.queue q = s.queue q) ∧ s.keeps [.parts, .ctxs] t) ∧
  (∀ (s : State) (i : CoreId) (j : Job) (c : Instr) (isPair : Bool),
    (c = .pair i ∧ isPair = true ∧ s.job (.core i .mq) (· = 0x18) = some j ∨
      c = .splitOp i ∧ isPair = false ∧ s.job (.core i .mq) (· = 0x19) = some j) → j.h.qseq = 0 →
    (s.isFenced (coreOf j.who.part (pairCores j).1) = true ∨ s.isFenced (coreOf j.who.part (pairCores j).2) = true ∨
      isPair = true ∧ (s.prt j.who.part).hub.pair = some (pairCores j)) →
    ∃ t, exec c s = .next t ∧ (∀ e, (t.queue (.core i .mq)).entries.head? = some e → e.executed = true) ∧
      (∀ p, (t.prt p).hub = (s.prt p).hub) ∧
      (isPair = true → (s.isFenced (coreOf j.who.part (pairCores j).1) = true ∨
          s.isFenced (coreOf j.who.part (pairCores j).2) = true) →
        (t.ctx j.who.ctx).frame.flags.getLsbD fUnpaired = true) ∧
      (∀ x, x ≠ j.who.ctx → t.ctx x = s.ctx x) ∧ s.keeps [.cores, .ctxs, .err] t) ∧
  (∀ (s : State) (p : PartId) (l tr : Fin 3) (isPair : Bool) (c : CtxId), (s.prt p).hub.want = some (l, tr, isPair, c) →
    s.isFenced (coreOf p l) = false → s.isFenced (coreOf p tr) = false →
    ∃ t, exec (.pairHandover p false) s = .next t ∧ (t.prt p).hub.want = none ∧
      (t.prt p).hub.pair = (if isPair then some (l, tr) else none) ∧
      (t.prt p).hub.pairCnt = (if isPair then (s.prt p).hub.pairCnt + 1 else (s.prt p).hub.pairCnt) ∧
      (∀ e, (t.queue (.core (coreOf p l) .mq)).entries.head? = some e → e.executed = true) ∧
      s.keeps [.cores, .parts] t) ∧
  (∀ (s : State) (p : PartId) (l tr : Fin 3) (isPair fails : Bool) (c : CtxId),
    (s.prt p).hub.want = some (l, tr, isPair, c) →
    (s.isFenced (coreOf p l) = true ∨ s.isFenced (coreOf p tr) = true) →
    ∃ t, exec (.pairHandover p fails) s = .next t ∧ (t.prt p).hub.want = none ∧ (t.prt p).hub.pair = none ∧
      (∀ e, (t.queue (.core (coreOf p l) .mq)).entries.head? = some e → e.executed = true) ∧
      (isPair = true → (t.ctx c).frame.flags.getLsbD fUnpaired = true) ∧
      s.keeps [.cores, .parts, .ctxs, .err] t) ∧
  (∀ (s : State) (p : PartId) (l tr : Fin 3) (c : CtxId), (s.prt p).hub.want = some (l, tr, true, c) →
    s.isFenced (coreOf p l) = false → s.isFenced (coreOf p tr) = false →
    s.err.expect = false → (s.ctx c).state = .run →
    ∃ t, exec (.pairHandover p true) s = .next t ∧ (t.prt p).hub.want = none ∧ (t.prt p).hub.selfchkFail = true ∧
      (t.ctx c).frame.flags.getLsbD fUnpaired = true ∧ (t.ctx c).state = .draining)

/-! ### Numerics and compressed forms -/

/-- The spoil form loses nothing: a segment of 256 bytes decoded from its index entry and its slot is the segment
(R166, R167, R169). -/
def Obligations.SpoilFormRoundTrips : Prop :=
  ∀ p : Bytes, p.length = 256 → spoilIndexOk (spoilEncode p).1 = true ∧ (spoilEncode p).2.length = (spoilEncode p).1 ∧
    spoilDecode (spoilEncode p).1 ((spoilSlot (spoilEncode p).2).take (spoilEncode p).1) = some p

/-- The feeder's rewrite of GEN keeps a right CRC right and a wrong CRC wrong, and changes nothing but GEN and CRC
(R450). -/
def Obligations.GenRewriteKeepsTheCrcVerdict : Prop :=
  ∀ (b : Bytes) (g : BitVec 12), b.length = 64 →
    (hdrOf (withGen b g)).gen = g ∧
    (descCrc (withGen b g) = (hdrOf (withGen b g)).crc ↔ descCrc b = (hdrOf b).crc) ∧
    (∀ i, i < 64 → i ≠ 2 → i ≠ 3 → i ≠ 14 → i ≠ 15 → byteAt (withGen b g) i = byteAt b i) ∧
    (hdrOf (withGen b g)).sigInc = (hdrOf b).sigInc

/-- Rounding to nearest with ties to even: the result is within half a unit, and on a tie it is even (R128, R161).
A requantised code lies between QMIN and QMAX, and the rescale of R128 lies in 48 bits and is monotone in its
argument (R128, R129, R132). -/
def Obligations.RoundingAndLimits : Prop :=
  (∀ (v : Int) (n : Nat), 0 < n →
    2 * (rneShr v n * 2 ^ n - v) ≤ 2 ^ n ∧ 2 * (v - rneShr v n * 2 ^ n) ≤ 2 ^ n ∧
    ((2 * (rneShr v n * 2 ^ n - v) = 2 ^ n ∨ 2 * (v - rneShr v n * 2 ^ n) = 2 ^ n) → rneShr v n % 2 = 0)) ∧
  (∀ (v : Int) (d : Nat), 0 < d →
    2 * (rneDiv v d * d - v) ≤ d ∧ 2 * (v - rneDiv v d * d) ≤ d ∧
    ((2 * (rneDiv v d * d - v) = d ∨ 2 * (v - rneDiv v d * d) = d) → rneDiv v d % 2 = 0)) ∧
  (∀ (k : Quant) (v : Int), k.qmin ≤ k.qmax → k.qmin ≤ k.code v ∧ k.code v ≤ k.qmax) ∧
  (∀ (p : Int) (sc : Nat), sc < 65536 → -(2 ^ 47) ≤ rescale p sc ∧ rescale p sc < 2 ^ 47) ∧
  (∀ (p q : Int) (sc : Nat), sc < 65536 → p ≤ q → rescale p sc ≤ rescale q sc) ∧
  (∀ n s l, statBin n s l < 64)

/-! ### The mailbox -/

/-- While STATE is busy every mailbox command is ignored and counted in `HST_MBOX_IGN` (R501).
A command that shares a refusal of R503 (no such opcode, recovery, an absent host, a wrong length) ends with that
status and has no other effect.
BAD_CMD: an opcode that the table does not name ends with BAD_CMD and has no other effect (R503, R504).
Model's choices in it: log 33. -/
def Obligations.MailboxRefusalsOnlyAnswer : Prop :=
  (∀ (c : Instr) (op : Nat) (tag : U16) (a : Bytes) (s : State), mboxOf c = some (op, tag, a) → s.hostLive → s.hst.state = 1 →
    ∃ t, exec c s = .next t ∧ t.hst.mboxIgn = sat32 s.hst.mboxIgn ∧ t.hst.state = 1 ∧ t.hst.cmdTag = s.hst.cmdTag ∧
      t.hst.mbData = s.hst.mbData ∧ s.keeps [.hst] t) ∧
  (∀ (c : Instr) (op : Nat) (tag : U16) (a : Bytes) (s : State) (k : Nat), mboxOf c = some (op, tag, a) →
    s.hostLive → s.hst.state ≠ 1 → s.hst.ready = true → (s.boot.recovery = true ∨ (s.proc .svp).state = .running) →
    a.length ≤ 4096 → s.mbRefusal op a = some k →
    ∃ t, exec c s = .next t ∧ t.answered tag k [] ∧ s.keeps [.hst] t) ∧
  (∀ (s : State) (op : Byte) (tag : U16) (a : Bytes), s.hostLive → s.hst.state ≠ 1 → s.hst.ready = true →
    (s.boot.recovery = true ∨ (s.proc .svp).state = .running) → a.length ≤ 4096 → argBytes op.toNat = none →
    ∃ t, exec (.mboxBadCmd op tag a) s = .next t ∧ t.answered tag mbBadCmd [] ∧ s.keeps [.hst] t)

/-- NOP answers BOOT_SEQ and the SVP's firmware digest, and BAD_ARG once where too many contexts enable lock-step; HOST_ATTACH
and HOST_DETACH set and clear the host's presence, HOST_ATTACH empties every enabled host ring (R489, R500, R503).
Model's choices in it: log 33. -/
def Obligations.NopAttachDetach : Prop :=
  ∀ (s : State) (tag : U16),
    (s.serves 0x00 [] → s.hst.lksRefused = true → s.hst.lksTold = false →
      ∃ t, exec (.mboxNop tag []) s = .next t ∧ t.answered tag mbBadArg [] ∧ t.hst.lksTold = true ∧
        t.hst.lksRefused = true ∧ s.keeps [.hst] t) ∧
    (s.serves 0x00 [] → (s.hst.lksRefused = false ∨ s.hst.lksTold = true) →
      ∃ t, exec (.mboxNop tag []) s = .next t ∧
        t.answered tag mbOk (le 4 s.boot.seq.toNat ++ slice (s.boot.fw.get 0) 0 32) ∧ s.keeps [.hst] t) ∧
    (s.serves 0x01 [] →
      ∃ t, exec (.hostAttach tag []) s = .next t ∧ t.answered tag mbOk [] ∧ t.hst.hostAbsent = false ∧
        t.err.hostAbsent = false ∧
        (∀ r : Fin 17, r.1 < 16 → (s.ring r).en = true → (t.ring r).tail = (s.ring r).head) ∧
        s.keeps [.hst, .err, .mcs, .pwr] t) ∧
    (s.serves 0x02 [] →
      ∃ t, exec (.hostDetach tag []) s = .next t ∧ t.answered tag mbOk [] ∧ t.hst.hostAbsent = true ∧
        (s.hst.hostAbsent = false → t.err.hostAbsent = true) ∧ t.mem = s.mem ∧ t.cores = s.cores ∧ t.parts = s.parts)

/-- CTX_START: an IDLE or FAULTED context of the image, without peers and with a right configuration, enters STARTING with its
next generation; no other context changes (R33, R34, R36, R503). CTX_STOP: a context in RUN drains with its egress stopped; its
descriptors leave every queue and the mailbox stays busy until the drain is over (R361, R503).
Model's choices in it: log 33. -/
def Obligations.ContextCommandsStartAndDrain : Prop :=
  (∀ (s : State) (tag : U16) (n : Byte), s.serves 0x10 [n] → n.toNat < 16 → s.hasCtx (ctxOf n.toNat) = true →
    ((s.ctx (ctxOf n.toNat)).state = .idle ∨ (s.ctx (ctxOf n.toNat)).state = .faulted) →
    s.mayRun (ctxOf n.toNat) = true → s.peers (ctxOf n.toNat) = 0 → configCheck s (ctxOf n.toNat) = none →
    ∃ t, exec (.ctxStart tag [n]) s = .next t ∧ t.answered tag mbOk [] ∧
      (t.ctx (ctxOf n.toNat)).state = .starting ∧ (t.ctx (ctxOf n.toNat)).gen = (s.ctx (ctxOf n.toNat)).gen + 1 ∧
      (t.ctx (ctxOf n.toNat)).frameNum = 0 ∧ (t.ctx (ctxOf n.toNat)).stopLatch = false ∧
      (∀ x, x ≠ ctxOf n.toNat → t.ctx x = s.ctx x) ∧
      (∀ p i, s.ownsBead (ctxOf n.toNat) p i = true → t.bead p i = 0)) ∧
  (∀ (s : State) (tag : U16) (n : Byte), s.serves 0x11 [n] → n.toNat < 16 → (s.ctx (ctxOf n.toNat)).state = .run →
    s.peers (ctxOf n.toNat) = 0 →
    ∃ t, exec (.ctxStop tag [n]) s = .next t ∧ (t.ctx (ctxOf n.toNat)).state = .draining ∧
      (t.ctx (ctxOf n.toNat)).stopTag = some tag ∧ (t.ctx (ctxOf n.toNat)).stopLatch = true ∧ t.hst.state = 1 ∧
      (∀ q e, e ∈ (t.queue q).entries → e.ctx ≠ ctxOf n.toNat) ∧ (∀ x, x ≠ ctxOf n.toNat → t.ctx x = s.ctx x) ∧
      t.mem = s.mem)

/-- The maintenance commands: FENCE_CLEAR writes its log entry, SELFTEST_REQ sets LST_STATUS.REQ of the named cores,
CAL_REQ queues a calibration of the named stacks that are ON (R247, R350, R367).
Model's choices in it: log 9, 33. -/
def Obligations.MaintenanceCommandsTakeEffect : Prop :=
  ∀ (s : State) (tag : U16) (a : Bytes),
    (s.serves 0x18 a → (∀ i, i < 16 → (fld a 0 2).testBit i = true → s.fencedMask.testBit i = true) → s.err.fifo = [] →
      ∃ t, exec (.fenceClear tag a) s = .next t ∧ t.answered tag mbOk [] ∧
        (((t.boot.logs.get (activeLog t)).entries.getLast?).map fun e => (e.ty, e.payload)) = some (7, le 2 (fld a 0 2)) ∧
        s.keeps [.hst] t) ∧
    (s.serves 0x19 a →
      (∀ i, i < 16 → (fld a 0 2).testBit i = true → i < 12 ∧ s.fencedMask.testBit i = false) →
      ∃ t, exec (.selftestReq tag a) s = .next t ∧ t.answered tag mbOk [] ∧
        (∀ i : CoreId, t.core i = { s.core i with lst := { (s.core i).lst with
          req := (s.core i).lst.req || (fld a 0 2).testBit i.1 } }) ∧ s.keeps [.hst, .cores] t) ∧
    (s.serves 0x1A a → (∀ k : StackId, (byteAt a 0).testBit k.1 = true → stackPresent s.part k = true) →
      ∃ t, exec (.calReq tag a) s = .next t ∧ t.answered tag mbOk [] ∧
        (∀ k : StackId, t.mcs.get k = { s.mcs.get k with calReq := (s.mcs.get k).calReq ||
          ((byteAt a 0).testBit k.1 && !s.domIsDown (0x28 + k.1)) }) ∧
        s.keeps [.hst, .mcs] t)

/-- The power and I/O commands: PWR_DOMAIN to OFF, RET and ON, WAKE_MODE, POWER_CAP and CLR_STAT (R263, R476, R478, R481,
R503).
Model's choices in it: log 33, 37. -/
def Obligations.PowerAndIoCommandsTakeEffect : Prop :=
  ∀ (s : State) (tag : U16) (a : Bytes),
    (s.serves 0x20 a → s.domRefusal (byteAt a 0) (byteAt a 1) = none → s.pwpRuns = true →
      ∃ t, exec (.pwrDomain tag a) s = .next t ∧ t.answered tag mbOk [] ∧
        (byteAt a 1 = 0 → (t.dom (byteAt a 0)).state = .off) ∧ (byteAt a 1 = 1 → (t.dom (byteAt a 0)).state = .ret) ∧
        (byteAt a 1 = 2 → t.domIsDown (byteAt a 0) = false) ∧ (t.dom (byteAt a 0)).hostReq = true ∧
        (∀ n, n ≠ byteAt a 0 → t.dom n = s.dom n) ∧ (byteAt a 1 ≠ 0 → t.mem = s.mem) ∧ t.ctxs = s.ctxs) ∧
    (∀ d : DieId, s.serves 0x21 a → byteAt a 0 = d.1 → byteAt a 1 ≤ 1 → diePresent s.part d = true →
      ∃ t, exec (.wakeMode tag a) s = .next t ∧ t.answered tag mbOk [] ∧
        t.die d = { s.die d with wakePattern := decide (byteAt a 1 = 1), mask := BitVec.ofNat 64 (fld a 8 8), pattern := slice a 16 64 } ∧
        (∀ e, e ≠ d → t.die e = s.die e) ∧ s.keeps [.hst, .io] t) ∧
    (s.serves 0x22 a → 600 ≤ fld a 0 2 → fld a 0 2 ≤ maxPower s.part →
      ∃ t, exec (.powerCap tag a) s = .next t ∧ t.answered tag mbOk [] ∧ t.pwr.cap = some (BitVec.ofNat 16 (fld a 0 2)) ∧
        t.pwr.doms = s.pwr.doms ∧ s.keeps [.hst, .pwr] t) ∧
    (s.serves 0x40 a → byteAt a 0 ≤ 3 → ((byteAt a 0).testBit 1 = true → diePresent s.part 1 = true) →
      ∃ t, exec (.clrStat tag a) s = .next t ∧ t.answered tag mbOk [] ∧
        (∀ d : DieId, t.die d = if (byteAt a 0).testBit d.1 then { s.die d with hiwater := 0 } else s.die d) ∧
        s.keeps [.hst, .io] t)

/-- The identity and log commands answer what they name: ATTEST its report and a signature of 384 bytes, GET_CERT the
certificate with its length, LOG_READ the bytes of a log bank (R458, R464, R465).
Model's choices in it: log 33. -/
def Obligations.IdentityAndLogCommandsAnswer : Prop :=
  ∀ (s : State) (tag : U16) (a : Bytes),
    (s.serves 0x38 a →
      ∃ t sig, exec (.attest tag a) s = .next t ∧ sig.length = 384 ∧
        t.answered tag mbOk (attestBody s a ++ sig) ∧
        s.keeps [.hst, .free] t) ∧
    (s.serves 0x39 [] →
      ∃ t, exec (.getCert tag []) s = .next t ∧
        t.answered tag mbOk (le 4 s.boot.fuses.cert.length ++ s.boot.fuses.cert) ∧ s.keeps [.hst] t) ∧
    (∀ b : Fin 2, s.serves 0x3A a → byteAt a 0 = b.1 → 0 < fld a 8 2 → fld a 8 2 ≤ 4088 →
      fld a 4 4 + fld a 8 2 ≤ logCap →
      ∃ t d, exec (.logRead tag a) s = .next t ∧ d.length = fld a 8 2 ∧ t.answered tag mbOk d ∧
        (∀ i, i < fld a 8 2 → d.getD i 0 = (logBankBytes (s.boot.logs.get b)).getD (fld a 4 4 + i) 0xFF) ∧
        s.keeps [.hst] t)

/-- The staging session: STAGE_OPEN opens it, beside a live activation too, and is pending, STAGE_WRITE and STAGE_CLOSE are
pending, STAGE_ABORT ends it and erases the header sector (R460, R463, R501). A pending STAGE_WRITE that ends well: the data
stand in flash from their offset on where the flash was erased, the session's place moves on and the command leaves the pending
ones (R433, R460, R501).
Model's choices in it: log 33. -/
def Obligations.StagingSessionProgramsFlash : Prop :=
  (∀ (s : State) (tag : U16) (a : Bytes),
    (s.serves 0x30 a → s.boot.staging = none → s.stagePending = false →
      (s.dev ≠ .boot ∨ s.boot.recovery = true) →
      (s.boot.recovery = true ∨ newer (BitVec.ofNat 32 (fld a 4 4)) s.boot.seq = true) → fld a 0 4 ≤ s.bankCap →
      ∃ t, exec (.stageOpen tag a) s = .next t ∧ t.answered tag mbPending [] ∧
        t.boot.staging = some ⟨fld a 0 4, BitVec.ofNat 32 (fld a 4 4), List.replicate 0x400 0xFF, 0⟩ ∧
        t.boot.updState = (if s.activation then s.boot.updState else .staging) ∧
        t.hst.pend = s.hst.pend ++ [⟨tag, 0x30, a⟩] ∧ s.keeps [.hst, .boot] t) ∧
    (∀ g, s.serves 0x31 a → s.boot.staging = some g → s.stagePending = false → fld a 0 4 = g.next →
      fld a 4 4 ≤ s.stageBuf.2 → fld a 0 4 + fld a 4 4 ≤ s.bankCap →
      ∃ t, exec (.stageWrite tag a) s = .next t ∧ t.answered tag mbPending [] ∧
        t.hst.pend = s.hst.pend ++ [⟨tag, 0x31, a ++ s.peek s.stageBuf.1 (fld a 4 4)⟩] ∧ s.keeps [.hst] t) ∧
    (s.serves 0x32 [] → s.boot.staging.isSome = true → s.stagePending = false →
      ∃ t, exec (.stageClose tag []) s = .next t ∧ t.answered tag mbPending [] ∧
        t.hst.pend = s.hst.pend ++ [⟨tag, 0x32, []⟩] ∧ s.keeps [.hst] t) ∧
    (s.serves 0x33 [] → s.boot.staging.isSome = true →
      ∃ t, exec (.stageAbort tag []) s = .next t ∧ t.answered tag mbOk [] ∧ t.boot.staging = none ∧
        t.boot.updState = (if s.activation then s.boot.updState else .idle) ∧ t.boot.otherValid = false ∧
        (∀ i, s.stagedBase ≤ i → i < s.stagedBase + 0x1000 → memGet 0xFF t.boot.flash i = 0xFF) ∧
        (∀ i, (i < s.stagedBase ∨ s.stagedBase + 0x1000 ≤ i) → memGet 0xFF t.boot.flash i = memGet 0xFF s.boot.flash i) ∧
        s.keeps [.hst, .boot] t)) ∧
  (∀ (s : State) (tag : U16) (e : PendCmd) (g : Staging), (s.boot.recovery = true ∨ (s.proc .svp).state = .running) →
    s.hst.pend.find? (fun x => x.tag = tag) = some e → e.op = 0x31 → s.boot.staging = some g → 0x400 ≤ fld e.args 0 4 →
    memRead 0xFF s.boot.flash (s.stagedBase + fld e.args 0 4) (e.args.drop 8).length =
      List.replicate (e.args.drop 8).length 0xFF →
    ∃ t, exec (.mboxPendingComplete tag true) s = .next t ∧
      (∀ i, i < (e.args.drop 8).length →
        memGet 0xFF t.boot.flash (s.stagedBase + fld e.args 0 4 + i) = (e.args.drop 8).getD i 0) ∧
      (t.boot.staging.map (·.next)) = some (fld e.args 0 4 + (e.args.drop 8).length) ∧
      (∀ x, x ∈ t.hst.pend → ¬ (x.tag = tag ∧ x.op = 0x31)) ∧ s.keeps [.hst, .boot] t)

/-- ACTIVATE, COMMIT and RESET: NEXT answers OK for a valid newer bank, LIVE is pending and makes that bank the active one,
COMMIT is pending once every context has run for 60 s, RESET puts the device in reset (R440, R461, R503).
Model's choices in it: log 33. -/
def Obligations.ActivateCommitReset : Prop :=
  ∀ (s : State) (tag : U16) (img : List Section),
    (s.serves 0x34 [0] → s.stagedImage = some img →
      ∃ t, exec (.activate tag [0]) s = .next t ∧ t.answered tag mbOk [] ∧ s.keeps [.hst] t) ∧
    (s.serves 0x34 [1] → s.stagedImage = some img → s.liveOk img = true → s.emergency = false → s.anyReset = false →
      ∃ t, exec (.activate tag [1]) s = .next t ∧ t.answered tag mbPending [] ∧ t.img = img ∧
        t.boot.bank = otherBank s.boot.bank ∧ t.boot.live = true ∧ t.ctxs = s.ctxs ∧ t.mem = s.mem ∧ t.dev = s.dev) ∧
    (∀ r, s.serves 0x35 [] → s.boot.runFrom = some r → r + 60 * ticksPerSec ≤ s.ticks → s.emergency = false →
      ∃ t, exec (.commit tag []) s = .next t ∧ t.answered tag mbPending [] ∧
        t.hst.pend = s.hst.pend ++ [⟨tag, 0x35, []⟩] ∧ s.keeps [.hst] t) ∧
    (s.serves 0x36 [] → s.mayReset = true →
      ∃ t, exec (.resetCmd tag []) s = .next t ∧ t.dev = .boot ∧ t.mem = [] ∧ (∀ c, t.ctx c = {}) ∧
        t.boot.flash = s.boot.flash ∧ t.boot.fuses = s.boot.fuses ∧ t.pins.safeSt = 0)

/-! ### Firmware processors -/

/-- PROC_WDG and PROC_FAULT of the Tally: a crash dump, then a restart; the third fault within 60 s is SAFE state
(R455, R457).
PROC_RESTART_DONE, the sequencer's restart at its frame boundary once its partition's queues are empty, until which the
request waits, and the odometer entry (R24, R454, R456, R459).
Model's choices in it: log 32. -/
def Obligations.ProcessorsFaultAndRestart : Prop :=
  (∀ (s : State) (c : Instr) (p : Proc), p = .tally ∨ p = .pwp → (c = .procWdg p ∨ c = .procFault p) →
    (s.proc p).state = .running → s.emergency = false →
    (((s.proc p).faults.filter fun t => s.within t 60).length < 2 →
      ∃ t, exec c s = .next t ∧ (t.proc p).state = .restarting ∧ (t.proc p).restarts = sat32 (s.proc p).restarts ∧
        t.dev = s.dev ∧ t.ctxs = s.ctxs ∧
        (p = .tally → t.tly.restarting = true ∧ t.tly.ready = false ∧ t.pins.safeSt = 0)) ∧
    (2 ≤ ((s.proc p).faults.filter fun t => s.within t 60).length →
      ∃ t, exec c s = .next t ∧ (t.proc p).state = .disabled ∧ t.dev = .safe ∧ t.pins.safeSt = 0 ∧ t.ctxs = s.ctxs)) ∧
  (∀ s : State, (s.proc .tally).state = .restarting → s.boot.updState ≠ .live →
    ∃ t, exec (.procRestartDone .tally) s = .next t ∧ (t.proc .tally).state = .running ∧
      (t.proc .tally).newFw = true ∧ t.tly.ready = true ∧ t.tly.restarting = false ∧ s.keeps [.fwp, .boot, .tly] t) ∧
  (∀ (s : State) (p : PartId), (s.proc (seqOf p)).state = .running →
    (s.atBoundary p = true → s.inReset p = false → (∀ q ∈ partQueues p, (s.queue q).entries = []) →
      ((s.proc (seqOf p)).activating = false ∨ s.emergency = false) →
      ∃ t, exec (.sequencerRestart p) s = .next t ∧ (t.proc (seqOf p)).state = .restarting ∧
        (t.prt p).seqWait = false ∧ (t.proc (seqOf p)).restarts = sat32 (s.proc (seqOf p)).restarts ∧
        (∀ q, q ≠ p → t.prt q = s.prt q) ∧ s.keeps [.fwp, .parts] t) ∧
    ((s.atBoundary p = false ∨ s.inReset p = true ∨ ∃ q ∈ partQueues p, (s.queue q).entries ≠ []) →
      ∃ t, exec (.sequencerRestart p) s = .next t ∧ (t.prt p).seqWait = true ∧
        (∀ q, q ≠ p → t.prt q = s.prt q) ∧ s.keeps [.parts] t)) ∧
  (∀ (s : State) (p : PartId), (s.proc (seqOf p)).state ≠ .running →
    ∃ t, exec (.sequencerRestart p) s = .next t ∧ s.keeps [] t) ∧
  (∀ s : State, (s.proc .svp).state = .running → s.err.fifo = [] →
    ∃ t, exec .odometerAppend s = .next t ∧
      (((t.boot.logs.get (activeLog t)).entries.getLast?).map fun e => (e.ty, e.payload)) = some (5, odoBytes s) ∧
      s.keeps [] t)

/-- Live activation: a step restarts the next processor, an emergency defers it, the restart of the PWP that fell due too, its
end lets it go on and 10 s of it cancel it (R461, R462).
Model's choices in it: log 33. -/
def Obligations.LiveActivationStepsAndDefers : Prop :=
  (∀ (s : State) (p : PartId) (r : List Proc), s.boot.updState = .live → s.boot.actLeft = seqOf p :: r →
    (∀ q, (s.proc q).activating = false) → s.emergency = false →
    ∃ t, exec .liveActivationStep s = .next t ∧ (t.proc (seqOf p)).activating = true ∧ (t.prt p).seqWait = true ∧
      t.boot.nextProc = nextNum r ∧ s.keeps [.fwp, .parts, .boot] t) ∧
  (∀ (s : State) (p : Proc) (r : List Proc), s.boot.updState = .live → s.boot.actLeft = p :: r →
    (∀ q, (s.proc q).activating = false) → s.emergency = true →
    ∃ t, exec .liveActivationStep s = .next t ∧ t.boot.updState = .deferredEmergency ∧ t.boot.actLeft = p :: r ∧
      (p = .pwp → (t.proc .pwp).state = .deferred) ∧ (p ≠ .pwp → t.fwp = s.fwp) ∧ s.keeps [.fwp, .boot] t) ∧
  (∀ s : State, s.emergency = false → (s.proc .pwp).state = .deferred → s.boot.updState ≠ .deferredEmergency →
    ∃ t, exec .emergencyDeferResume s = .next t ∧ (t.proc .pwp).state = .restarting ∧
      (t.proc .pwp).restarts = sat32 (s.proc .pwp).restarts ∧ s.keeps [.fwp] t) ∧
  (∀ (s : State) (p : Proc) (r : List Proc), s.boot.updState = .deferredEmergency → s.boot.actLeft = p :: r →
    s.emergency = false → (s.proc .pwp).state ≠ .deferred →
    ∃ t, exec .emergencyDeferResume s = .next t ∧ t.boot.updState = .live ∧ t.boot.actLeft = p :: r ∧
      s.keeps [.boot] t) ∧
  (∀ s : State, s.emergency = true → s.boot.updState = .deferredEmergency → s.boot.actLeft = [] →
    ∃ t, exec .emergencyDeferCancel s = .next t ∧
      t.boot.updState = (if s.boot.staging.isSome then .staging else if s.boot.otherValid then .staged else .idle) ∧
      (∀ e, e ∈ t.hst.pend → e.op ≠ 0x34 ∧ e.op ≠ 0x36) ∧ s.keeps [.hst, .boot] t)

/-! ### Self-test and injection -/

/-- A self-test segment on a core, or on both cores of a pair: it starts when they may be tested and 250 µs remain, 262 µs for
a pair, it is deferred and counted when less remains, and a right signature moves the pass on; where the hub's self-check fails
after the segments of a pair, the pairing ends (R345, R346, R347, R349, R352). A wrong signature fences the core and another
core of its partition adopts its slot, or where none is left the partition goes offline; the device is DEGRADED (R348, R364,
R366). The two injection registers take a write in SELFTEST state and ignore it in every other state; ARM of `PHB_INJECT`
clears with its one injection (R117, R351).
Model's choices in it: log 25, 36. -/
def Obligations.SelfTestRunsFailsAndInjects : Prop :=
  (∀ (s : State) (i : CoreId),
    (s.partner i ≠ some i → (∀ k ∈ s.testGroup i, s.mayTest k = true) →
      (∀ us, (if s.partner i = none then 250 else 262) ≤ us → ∃ t, exec (.lstSegmentStart i us) s = .next t ∧
        (∀ k ∈ s.testGroup i, (t.core k).lst = { (s.core k).lst with running := true, req := false }) ∧
        (∀ k, k ∉ s.testGroup i → t.core k = s.core k) ∧ s.keeps [.cores] t) ∧
      (∀ us, us < (if s.partner i = none then 250 else 262) → ∃ t, exec (.lstSegmentStart i us) s = .next t ∧
        (∀ k ∈ s.testGroup i,
          t.core k = { s.core k with lst := { (s.core k).lst with deferCnt := sat32 (s.core k).lst.deferCnt } }) ∧
        (∀ k, k ∉ s.testGroup i → t.core k = s.core k) ∧ s.keeps [.cores] t)) ∧
    ((∃ k ∈ s.testGroup i, s.mayTest k = false) →
      ∀ us, ∃ t, exec (.lstSegmentStart i us) s = .next t ∧ s.keeps [] t) ∧
    ((s.core i).lst.running = false →
      ∀ ok us fails, ∃ t, exec (.lstSegmentEnd i ⟨ok, fails⟩ us) s = .next t ∧ s.keeps [] t) ∧
    ((s.core i).lst.running = true →
      ∀ us, ∃ t, exec (.lstSegmentEnd i ⟨true, false⟩ us) s = .next t ∧ (t.core i).lst.running = false ∧
        (t.core i).lst.lastUs = us ∧ ((t.core i).lst.nextSeg.1 = ((s.core i).lst.nextSeg.1 + 1) % 18) ∧
        ((s.core i).lst.nextSeg.1 = 17 → (t.core i).lst.passCnt = (s.core i).lst.passCnt + 1 ∧
          (t.core i).lst.overdue = false) ∧
        (∀ k, k ≠ i → (t.core k).lst = (s.core k).lst ∧ (s.partner i ≠ some k → t.core k = s.core k)) ∧
        (∀ p, (t.prt p).hub.pair = (s.prt p).hub.pair) ∧
        s.keeps (if s.partner i = none then [.cores] else [.cores, .parts]) t) ∧
    (∀ k us, (s.core i).lst.running = true → s.partner i = some k → (s.core k).lst.running = false →
      ∃ t, exec (.lstSegmentEnd i ⟨true, true⟩ us) s = .next t ∧ (t.core i).lst.running = false ∧
        (t.prt (partOfCore i)).hub.pair = none ∧ (t.prt (partOfCore i)).hub.selfchkFail = true) ∧
    (s.isFenced i = false →
      ∃ t, exec (.latentOverdue i) s = .next t ∧
        t.core i = { s.core i with lst := { (s.core i).lst with overdue := true } } ∧
        (∀ k, k ≠ i → t.core k = s.core k) ∧ s.keeps [.cores] t)) ∧
  (∀ (s : State) (i : CoreId) (us : U32) (fails : Bool), (s.core i).lst.running = true → s.isFenced i = false →
    s.dev = .run → s.err.expect = false →
    (∀ a, adopterOf s i = some a →
      ∃ t, exec (.lstSegmentEnd i ⟨false, fails⟩ us) s = .next t ∧ t.isFenced i = true ∧ (t.core i).lst.failed = true ∧
        (t.core i).cfh.adopter = BitVec.ofNat 2 a.1 ∧ t.dev = .degraded ∧
        (∀ r, (t.prt (partOfCore i)).slotMap.get r =
          if (s.prt (partOfCore i)).slotMap.get r = slotOfCore i then a else (s.prt (partOfCore i)).slotMap.get r) ∧
        t.boot.odo.fencings = s.boot.odo.fencings + 1) ∧
    (adopterOf s i = none → s.cutOff i = false →
      ∃ t, exec (.lstSegmentEnd i ⟨false, fails⟩ us) s = .next t ∧ (t.core i).lst.failed = true ∧
        (t.prt (partOfCore i)).prt.state = .offline ∧ t.err.offline.getLsbD (partOfCore i).1 = true ∧
        t.dev = .degraded)) ∧
  (∀ (s : State) (v : U32),
    (∀ i : CoreId, ∃ t, exec (.arrInjectWrite i v) s = .next t ∧
      (t.core i).arr.inject = (if s.dev = .selftest then v &&& 0x107 else (s.core i).arr.inject) ∧
      (∀ k, k ≠ i → t.core k = s.core k) ∧ s.keeps [.cores] t) ∧
    (∀ p : PartId, ∃ t, exec (.phbInjectWrite p v) s = .next t ∧
      (t.prt p).hub.inject = (if s.dev ≠ .selftest then (s.prt p).hub.inject
        else if v.getLsbD 0 then v &&& 0xE else v &&& 0xF) ∧
      (∀ q, q ≠ p → t.prt q = s.prt q) ∧
      s.keeps (if s.dev = .selftest ∧ v.getLsbD 0 = true then [.parts, .err] else [.parts]) t))

/-! ### The host port -/

/-- The doorbells and ring registers: the heartbeat restarts the age and leaves an absent host absent, a head write sets the
head, `RING_CTRL` sets COAL, IRQ_EN and EN, takes SIZE_LOG2 only while the ring is disabled and empties the ring that it
enables (R494, R496, R499, R500). An access to PCIE in RET or OFF wakes it, and one that finds it off its PLL-derived clock, or
the device in reset, has no other effect (R478, R479, R511).
Model's choices in it: log 28, 37. -/
def Obligations.DoorbellsAndRingControl : Prop :=
  (∀ (s : State) (v : U32), s.pins.pads = .run → (s.domLive 0x34 = true ∨
      s.domIsDown 0x34 = true ∧ s.pwpRuns = true) →
    ∃ t, exec (.dbHeartbeat v) s = .next t ∧ t.hst.hbFrom = s.ticks ∧ t.hst.hostAbsent = s.hst.hostAbsent ∧
      t.domLive 0x34 = true ∧ (s.domIsDown 0x34 = true → (t.dom 0x34).lastWake = 5) ∧
      s.keeps (if s.domLive 0x34 = true then [.hst] else [.hst, .pwr]) t) ∧
  (∀ (s : State) (c : Instr), ((∃ v, c = .dbHeartbeat v) ∨ (∃ r v, c = .dbRingHead r v) ∨ (∃ r v, c = .ringCtrlWrite r v) ∨
      (∃ o n, c = .bar2Read o n) ∨ (∃ o d, c = .bar2Write o d) ∨ (∃ p, c = .pcieRejectedTlp p) ∨
      (∃ b o d, c = .registerWrite b o d) ∨ (mboxOf c).isSome = true) →
    (s.pins.pads ≠ .run ∨ (pcieUp s).domLive 0x34 = false) → ∃ t, exec c s = .next t ∧ s.keeps [.pwr] t) ∧
  (∀ (s : State) (r : Fin 17), r.1 < 16 → (s.ring r).irqEn = true → 0 < (s.ring r).unsignalled → s.hst.msixEn = true →
    (s.hst.msix.get ⟨r.1, by omega⟩).2.2.getLsbD 0 = false →
    ∃ t, exec (.ringIrqTimeout r) s = .next t ∧ (t.ring r).unsignalled = 0 ∧
      OutEvent.msix (BitVec.ofNat 6 r.1) (s.hst.msix.get ⟨r.1, by omega⟩).1 (s.hst.msix.get ⟨r.1, by omega⟩).2.1 ∈ t.out ∧
      s.keeps [.hst] t) ∧
  (∀ (s : State) (v : U32) (r : Fin 17), s.hostLive → r.1 < 16 →
      (∃ t, exec (.dbRingHead r v) s = .next t ∧ t.ring r = { s.ring r with head := v } ∧
        (∀ q : Fin 17, q.1 < 16 → q ≠ r → t.ring q = s.ring q) ∧ s.keeps [.hst] t) ∧
      (∃ t, exec (.ringCtrlWrite r v) s = .next t ∧ (t.ring r).en = v.getLsbD 8 ∧ (t.ring r).irqEn = v.getLsbD 9 ∧
        (t.ring r).coal = BitVec.ofNat 8 (v.toNat >>> 16) ∧
        ((s.ring r).en = true → (t.ring r).sizeLog2 = (s.ring r).sizeLog2 ∧ (t.ring r).tail = (s.ring r).tail) ∧
        ((s.ring r).en = false → (t.ring r).sizeLog2 = BitVec.ofNat 5 v.toNat ∧
          (v.getLsbD 8 = true → (t.ring r).tail = (s.ring r).head)) ∧
        (∀ q : Fin 17, q.1 < 16 → q ≠ r → t.ring q = s.ring q) ∧ s.keeps [.hst] t))

/-- The host is lost: in every state a heartbeat timeout, a link down, a function reset or D3hot leaves it absent. Where it was
present HOST_ABSENT is recorded and frames in flight carry the flag; where it was absent already only the link, the power state
or the endpoint's own registers change. A staging session ends in both cases. No queue, no byte of memory and nothing else of a
context changes (R373, R500).
Model's choices in it: log 28. -/
def Obligations.HostLossKeepsTheDataPath : Prop :=
  ∀ (s : State) (c : Instr), (c = .hostHeartbeatTimeout ∨ c = .pcieLinkDown ∨ c = .pcieFunctionReset ∨ c = .d3hotEntry) →
    ∃ t, exec c s = .next t ∧ t.hst.hostAbsent = true ∧
      t.err.hostAbsent = (!s.hst.hostAbsent || s.err.hostAbsent) ∧
      t.boot.staging = none ∧ (s.hst.hostAbsent = true → s.keeps [.hst, .boot] t) ∧
      (c = .pcieLinkDown → t.hst.linkUp = false) ∧ (c = .d3hotEntry → t.hst.d3hot = true) ∧
      (c = .pcieFunctionReset → t.hst.bar2Base = 0 ∧ t.hst.state = 0 ∧ ∀ r : Fin 17, r.1 < 16 → t.ring r = {}) ∧
      (∀ x, t.ctx x = if (s.ctx x).frame.inFlight = true ∧ s.hst.hostAbsent = false
        then (setFlag s x fHostAbsent).ctx x else s.ctx x) ∧
      (∀ x, (s.ctx x).frame.inFlight = true → s.hst.hostAbsent = false →
        (t.ctx x).frame.flags.getLsbD fHostAbsent = true) ∧
      s.keeps [.hst, .err, .ctxs, .boot] t

/-- BAR2 and rejected packets, of a host that reaches the device: a read of readable memory returns its bytes, a write that the
host may make stores its bytes there and nowhere else, an access to a partition in reset reads zeros or is dropped and is
counted there, every other access and every rejected packet is counted, a poisoned write in AER too (R30, R486, R492).
REGISTER_WRITE: a write of `HST_BAR2_BASE` sets bits [47:20], one of a ring's base only while the ring is disabled, the
heartbeat doorbell of BAR4 restarts the age, and a write that no host-writable register takes changes nothing (R488, R490,
R491, R496, R499).
Model's choices in it: log 28, 45. -/
def Obligations.HostAccessesReachOnlyWhatTheyMay : Prop :=
  (∀ (s : State) (off : BitVec 30), s.hostLive →
    (∀ n, s.bar2Reads (s.bar2Addr off) n = true → s.addrReset (s.bar2Addr off) = false →
      s.badIn (s.bar2Addr off) n false = none →
      ∃ t, exec (.bar2Read off n) s = .next t ∧ OutEvent.readData (s.peek (s.bar2Addr off) n) ∈ t.out ∧ s.keeps [.hst] t) ∧
    (∀ n, s.bar2Reads (s.bar2Addr off) n = false →
      ∃ t, exec (.bar2Read off n) s = .next t ∧ OutEvent.readData (zeros n) ∈ t.out ∧
        t.hst.rejCnt = sat32 s.hst.rejCnt ∧ s.keeps [.hst] t) ∧
    (s.addrReset (s.bar2Addr off) = true →
      (∀ n, s.bar2Reads (s.bar2Addr off) n = true →
        ∃ t, exec (.bar2Read off n) s = .next t ∧ OutEvent.readData (zeros n) ∈ t.out ∧
          s.keeps [.hst, .err, .parts] t) ∧
      (∀ d : Bytes, s.bar2Writes (s.bar2Addr off) d.length = true →
        d ≠ [] → ∃ t, exec (.bar2Write off d) s = .next t ∧ (∀ p, homePart (s.bar2Addr off) = some p →
          (t.prt p).prt.isoDrops = sat32 (s.prt p).prt.isoDrops) ∧ s.keeps [.hst, .err, .parts] t)) ∧
    (∀ d : Bytes, d ≠ [] → s.bar2Writes (s.bar2Addr off) d.length = true →
      s.addrReset (s.bar2Addr off) = false → s.badIn (s.bar2Addr off) d.length true = none →
      ∃ t, exec (.bar2Write off d) s = .next t ∧
        (∀ i, i < d.length → memGet 0 t.mem (s.bar2Addr off + i) = d.getD i 0) ∧
        (∀ a, (a < s.bar2Addr off ∨ s.bar2Addr off + d.length ≤ a) → memGet 0 t.mem a = memGet 0 s.mem a) ∧
        s.keeps [.hst, .mem, .bad, .lineOwner] t) ∧
    (∀ d : Bytes, d ≠ [] → s.bar2Writes (s.bar2Addr off) d.length = false →
      ∃ t, exec (.bar2Write off d) s = .next t ∧ t.hst.rejCnt = sat32 s.hst.rejCnt ∧ s.keeps [.hst] t) ∧
    (∀ p, ∃ t, exec (.pcieRejectedTlp p) s = .next t ∧ t.hst.rejCnt = sat32 s.hst.rejCnt ∧
      (p = true → t.hst.aer.getLsbD 12 = true) ∧ s.keeps [.hst] t)) ∧
  (∀ s : State, s.hostLive →
    (∀ d : Bytes, d.length = 8 →
      ∃ t, exec (.registerWrite false 0x20 d) s = .next t ∧ t.hst.bar2Base = BitVec.ofNat 28 (fld d 0 8 / 2 ^ 20) ∧
        s.keeps [.hst] t) ∧
    (∀ (r : Fin 17) (d : Bytes), d.length = 8 → r.1 < 16 →
      ∃ t, exec (.registerWrite false (BitVec.ofNat 26 (0x1000 + 0x40 * r.1)) d) s = .next t ∧
        (t.ring r).base = (if (s.ring r).en then (s.ring r).base else BitVec.ofNat 64 (fld d 0 8) &&& ~~~0xFFF) ∧
        s.keeps [.hst] t) ∧
    (∀ d : Bytes, d.length = 4 →
      ∃ t, exec (.registerWrite true 4 d) s = .next t ∧ t.hst.hbFrom = s.ticks ∧ t.hst.hostAbsent = s.hst.hostAbsent ∧
        s.keeps [.hst] t) ∧
    (∀ (off : BitVec 26) (d : Bytes), 0x25000 ≤ off.toNat →
      ∃ t, exec (.registerWrite false off d) s = .next t ∧ s.keeps [.hst] t ∧ t.hst.bar2Base = s.hst.bar2Base ∧
        (∀ r : Fin 17, r.1 < 16 → t.ring r = s.ring r) ∧ t.hst.mbData = s.hst.mbData))

/-! ### The time base -/

/-- The servo: an offset in RUN moves TB_ADDEND within 500 ppm of its nominal value and stores θ; a servo that is off or on
hold only stores it, and in holdover the second in a row regains lock; TB_SEC_LO latches the other words of one instant; a
receipt timeout freezes the servo; the link's speed is noted; at its interval the engine asks for the link delay, and as
grandmaster it sends Announce and a two-step Sync first (R285, R286, R287, R291, R293).
The offset after lock that is larger than STEP_NS steps the time base once where a step is allowed (R288).
Model's choices in it: log 13, 14, 15. -/
def Obligations.TimeBaseCommandsSteerTheClock : Prop :=
  (∀ s : State,
    (∀ θ, s.tb.en = true → s.tb.hold = false → s.tb.holdover = false → s.dev = .run → s.dflag 5 = false →
      ∃ t, exec (.srvOffsetWrite θ) s = .next t ∧ t.tb.theta = θ ∧ t.tb.locked = true ∧
        t.tb.sec = s.tb.sec ∧ t.tb.ns = s.tb.ns ∧
        (0x280000000 - 5368709 : Int) ≤ t.tb.addend.toNat ∧ (t.tb.addend.toNat : Int) ≤ 0x280000000 + 5368709 ∧
        -5368709 ≤ t.tb.integ.toInt ∧ t.tb.integ.toInt ≤ 5368709 ∧ s.keeps [.tb] t) ∧
    (∀ θ, (s.tb.en = false ∨ s.tb.hold = true ∧ s.tb.holdover = false) →
      ∃ t, exec (.srvOffsetWrite θ) s = .next t ∧ t.tb = { s.tb with theta := θ } ∧ s.keeps [.tb] t) ∧
    (∀ θ, s.tb.en = true → s.tb.holdover = true →
      ∃ t, exec (.srvOffsetWrite θ) s = .next t ∧
        t.tb = (if 1 ≤ s.tb.good then
            { s.tb with theta := θ, holdover := false, hold := false, locked := true, first := true, good := 0 }
          else { s.tb with theta := θ, good := s.tb.good + 1 }) ∧ s.keeps [.tb] t) ∧
    (∃ t, exec .tbSecLoRead s = .next t ∧ OutEvent.readData (le 4 s.tb.sec.toNat) ∈ t.out ∧
      t.tb = { s.tb with latHi := BitVec.ofNat 16 (s.tb.sec.toNat >>> 32), latNs := s.tb.ns, latFrac := s.tb.frac } ∧
      s.keeps [.tb] t) ∧
    (s.isGm = false → s.ringPeer = false →
      ∃ t, exec .syncReceiptTimeout s = .next t ∧ t.tb.holdover = true ∧ t.tb.hold = true ∧ t.tb.locked = false ∧
        t.tb.gm = none ∧ t.tb.addend = s.tb.addend ∧ s.keeps [.tb] t) ∧
    ((s.isGm = true ∨ s.ringPeer = true) → ∃ t, exec .syncReceiptTimeout s = .next t ∧ s.keeps [] t) ∧
    (∀ d m sp an, diePresent s.part d = true → sp ≠ 3 →
      ∃ t, exec (.ethLinkChange d m sp an) s = .next t ∧
        (t.die d).mac.get m = { (s.die d).mac.get m with speed := sp, anDone := an } ∧
        (∀ k, k ≠ m → (t.die d).mac.get k = (s.die d).mac.get k) ∧ s.keeps [.io] t) ∧
    (∀ d m sp an, (diePresent s.part d = false ∨ sp = 3) →
      ∃ t, exec (.ethLinkChange d m sp an) s = .next t ∧ s.keeps [] t) ∧
    (∀ d m, s.ptpPort = some (d, m) → s.ringPeer = false → diePresent s.part d = true →
      ∃ t, exec .gptpSyncInterval s = .next t ∧ t.tb.pdSeq = s.tb.pdSeq + 1 ∧ t.tb.pdResp = none ∧
        OutEvent.eth d m (ptpFrame (s.station d m) 2 0 s.tb.pdSeq (zeros 20)) ∈ t.out ∧
        (s.isGm = true → t.tb.syncSeq = s.tb.syncSeq + 1 ∧ t.tb.serving = true ∧
          OutEvent.eth d m (ptpFrame (s.station d m) 0 0x0200 s.tb.syncSeq (zeros 10)) ∈ t.out ∧
          OutEvent.eth d m (ptpFrame (s.station d m) 8 0 s.tb.syncSeq (ptpTime (s.txStamp d m) ++ followTlv)) ∈ t.out) ∧
        (s.isGm = false → t.tb.syncSeq = s.tb.syncSeq ∧ t.tb.serving = s.tb.serving) ∧ s.keeps [.tb] t) ∧
    ((s.ptpPort = none ∨ s.ringPeer = true) → ∃ t, exec .gptpSyncInterval s = .next t ∧ s.keeps [] t)) ∧
  (∀ (s : State) (θ : BitVec 48), s.tb.en = true → s.tb.hold = false → s.tb.holdover = false → s.tb.first = true →
    s.stepNs * 65536 < θ.toInt.natAbs → s.mayStep = true →
    ∃ t, exec (.srvOffsetWrite θ) s = .next t ∧ t.tb.stepCnt = sat32 s.tb.stepCnt ∧ t.tb.integ = 0 ∧
      t.tb.addend = s.tb.addend ∧ t.tb.first = false ∧
      (0 ≤ (s.fine : Int) - θ.toInt * 65536 → (s.fine : Int) - θ.toInt * 65536 < 2 ^ 48 * 1000000000 * 2 ^ 32 →
        (t.fine : Int) = s.fine - θ.toInt * 65536) ∧
      (∀ x, (t.ctx x).state = (s.ctx x).state ∧ (t.ctx x).frame = (s.ctx x).frame ∧
        (t.ctx x).nextFrame = (s.ctx x).nextFrame) ∧ s.keeps [.tb, .ctxs] t)

/-! ### Fabric, scrubbing, calibration -/

/-- A Haul road transaction at its destination: a good write of the present generation stores its bytes and nothing else, a
good read changes nothing, one of an old generation is discarded and counted, one that its context may not make stores
nothing and faults it, and so does one with a wrong end-to-end CRC; one whose link fails under it takes the link down and
faults the context (R14, R29, R32, R35, R255, R256).
Model's choices in it: log 29. -/
def Obligations.HaulWritesStoreOrAreDropped : Prop :=
  ∀ (s : State) (x : HaulTxn),
    let w : Who := { ctx := x.ctx, gen := x.gen, part := 0, core := none, src := x.src, detail := 0, arrived := true }
    (∀ a, x.link = none → x.crcOk = true → x.gen = (s.ctx x.ctx).gen → x.write = true →
      s.storeAt w x.addr.toNat x.data.length = .ok a → s.badOfWrites (mirrorPair s [(a, x.data)]) = none →
      ∃ t, exec (.haulTransaction x) s = .next t ∧ t.mem = (s.commit (x.ctx, x.gen) (mirrorPair s [(a, x.data)])).mem ∧
        ((∀ k, target a = .ledge k → ∀ i, i < x.data.length → target (a + i) = .ledge k) →
          ∀ i, i < x.data.length → memGet 0 t.mem (a + i) = x.data.getD i 0 ∧
            ∀ y, s.trailAt a = some y → memGet 0 t.mem (y + i) = x.data.getD i 0) ∧
        (∀ k, (∀ e ∈ mirrorPair s [(a, x.data)], k < e.1 ∨ e.1 + e.2.length ≤ k) → memGet 0 t.mem k = memGet 0 s.mem k) ∧
        s.keeps [.mem, .bad, .lineOwner] t) ∧
    (∀ b, x.link = none → x.crcOk = true → x.gen = (s.ctx x.ctx).gen → x.write = false →
      s.load w x.addr.toNat x.len = .ok b → ∃ t, exec (.haulTransaction x) s = .next t ∧ s.keeps [] t) ∧
    (x.link = none → x.crcOk = true → x.gen ≠ (s.ctx x.ctx).gen →
      ∃ t, exec (.haulTransaction x) s = .next t ∧
        t.ctx x.ctx = { s.ctx x.ctx with staleTxn := sat32 (s.ctx x.ctx).staleTxn } ∧
        (∀ y, y ≠ x.ctx → t.ctx y = s.ctx y) ∧ s.keeps [.ctxs] t) ∧
    (x.gen = (s.ctx x.ctx).gen → (s.ctx x.ctx).state = .run → s.err.expect = false →
      (x.link.isSome = true ∨ x.crcOk = false ∨
        ∃ f, x.write = true ∧ s.storeAt w x.addr.toNat x.data.length = .error f ∧ isFault f.code = true) →
      ∃ t, exec (.haulTransaction x) s = .next t ∧ (t.ctx x.ctx).state = .draining ∧ (t.ctx x.ctx).stopLatch = true ∧
        (∀ y, y ≠ x.ctx → t.ctx y = s.ctx y) ∧ t.mem = s.mem ∧ (∀ l, x.link = some l → l ∈ t.linkDown))

/-- Scrubbing: a word corrected in a Ledge is counted, its scrubber goes on behind it and no byte changes; an uncorrectable
word that no context owns is zeroed and good again; the end of a DRAM pass is counted (R242, R248, R250). Calibration: a
request is queued, a slice is made in an open window, and a forced slice is counted (R247).
Model's choices in it: log 43, 45. -/
def Obligations.ScrubbersAndCalibration : Prop :=
  (∀ (s : State) (i : CoreId) (a : Nat), target a = .ledge i → s.inReset (partOfCore i) = false → s.isFenced i = false →
    s.domIsDown (0x10 + i.1) = false → s.bad = [] →
    ∃ t, exec (.sramScrub a .single) s = .next t ∧
      t.core i = { s.core i with scrubAt := BitVec.ofNat 24 (a + 8), ldgCe := sat32 (s.core i).ldgCe } ∧
      (∀ k, k ≠ i → t.core k = s.core k) ∧ s.keeps [.cores, .err, .ctxs] t) ∧
  (∀ (s : State) (j : Fin 2) (a : Nat), target a = .stock j → s.domIsDown (0x20 + j.1) = false → s.sramOwner a = none →
    ∃ t, exec (.sramScrub a .double) s = .next t ∧
      (∀ k, a / 8 * 8 ≤ k → k < a / 8 * 8 + 8 → memGet 0 t.mem k = 0) ∧
      (∀ k, (k < a / 8 * 8 ∨ a / 8 * 8 + 8 ≤ k) → memGet 0 t.mem k = memGet 0 s.mem k) ∧
      a / 8 * 8 ∉ t.bad ∧ t.ctxs = s.ctxs ∧ (target (a / 8 * 8) = .stock j → (t.stks.get j).ueCnt = sat32 (s.stks.get j).ueCnt)) ∧
  (∀ (s : State) (k : StackId) (a : Nat) (p : PartId) (raced passEnd : Bool), target a = .dram p →
    s.mcReady k = true → stackOf s.part p a = k → absentAt s.part a = false → s.inReset p = false → s.bad = [] →
    ∃ t, exec (.dramScrub k a .clean raced passEnd) s = .next t ∧
      t.mcs.get k = { s.mcs.get k with
        scrubPass := if passEnd then (s.mcs.get k).scrubPass + 1 else (s.mcs.get k).scrubPass } ∧ (∀ n, n ≠ k → t.mcs.get n = s.mcs.get n) ∧
      s.keeps [.mcs] t) ∧
  (∀ (s : State) (k : StackId), s.mcReady k = true →
    (∃ t, exec (.calRequest k) s = .next t ∧ t.mcs.get k = { s.mcs.get k with calReq := true } ∧
      (∀ n, n ≠ k → t.mcs.get n = s.mcs.get n) ∧ s.keeps [.mcs] t) ∧
    (∀ n, (s.mcs.get k).calReq = true → s.calWindow (partOfStack k) = true →
      ∃ t, exec (.calSlice k n) s = .next t ∧
        (t.mcs.get k).calPend = (if (s.mcs.get k).calPend = 0 then BitVec.ofNat 4 n.1 else (s.mcs.get k).calPend - 1) ∧
        (t.mcs.get k).calReq = decide ((t.mcs.get k).calPend ≠ 0) ∧
        (t.mcs.get k).calForced = (s.mcs.get k).calForced ∧ s.keeps [.mcs] t) ∧
    (∀ n, (s.mcs.get k).calReq = true →
      ∃ t, exec (.calForcedSlice k n) s = .next t ∧ (t.mcs.get k).calForced = sat32 (s.mcs.get k).calForced ∧
        (t.mcs.get k).calReq = decide ((t.mcs.get k).calPend ≠ 0) ∧ s.keeps [.mcs] t))

/-- The ingress FIFO drains its oldest item: its writes become visible in order, then the bead signal follows them (R27,
R259). An item of an old generation is discarded and counted, one with an uncorrectable word faults its context and writes
nothing, and one for a partition in reset is discarded, counted there and not signalled; an empty FIFO stays so (R27, R30,
R32, R239, R357).
Model's choices in it: log 29, 35. -/
def Obligations.IngressItemsWriteThenSignal : Prop :=
  (∀ (s : State) (d : DieId), (s.die d).fifo = [] → ∀ f, ∃ t, exec (.ingressFifoDrain d f) s = .next t ∧ s.keeps [] t) ∧
  (∀ (s : State) (d : DieId) (e : IffItem) (r : List IffItem), (s.die d).fifo = e :: r →
    (∀ m, ((s.die d).mac.get m).held = []) → (s.die d).stalled = [] →
    (∀ f, f ≠ .double → e.gen = (s.ctx e.ctx).gen → (∀ w ∈ e.writes, s.fifoBlocked d w = false) →
      (∀ w ∈ mirrorPair s e.writes, s.badOfWrites [w] = none) →
      (∀ x, e.signal = some x → s.inReset x.1 = false ∧ ioLink d (partDie x.1) ∉ s.linkDown) →
      ∃ t, exec (.ingressFifoDrain d f) s = .next t ∧ (t.die d).fifo = r ∧
        t.mem = (s.commit (e.ctx, e.gen) (mirrorPair s e.writes)).mem ∧
        (∀ a b, e.writes = [(a, b)] → (∀ k, target a = .ledge k → ∀ i, i < b.length → target (a + i) = .ledge k) →
          ∀ k, k < b.length → memGet 0 t.mem (a + k) = b.getD k 0) ∧
        (∀ k, (∀ w ∈ mirrorPair s e.writes, k < w.1 ∨ w.1 + w.2.length ≤ k) → memGet 0 t.mem k = memGet 0 s.mem k) ∧
        (∀ p i n, e.signal = some (p, i, n) → t.bead p i = s.bead p i + BitVec.ofNat 32 n ∧
          ∀ p' i', (p', i') ≠ (p, i) → t.bead p' i' = s.bead p' i') ∧
        (e.signal = none → t.parts = s.parts) ∧
        s.keeps (if f = .clean then [.io, .mem, .bad, .lineOwner, .parts]
          else [.io, .mem, .bad, .lineOwner, .parts, .err, .ctxs]) t) ∧
    (e.gen ≠ (s.ctx e.ctx).gen →
      ∃ t, exec (.ingressFifoDrain d .clean) s = .next t ∧ (t.die d).fifo = r ∧
        t.ctx e.ctx = { s.ctx e.ctx with staleTxn := sat32 (s.ctx e.ctx).staleTxn } ∧
        (∀ x, x ≠ e.ctx → t.ctx x = s.ctx x) ∧ s.keeps [.io, .ctxs] t) ∧
    (e.gen = (s.ctx e.ctx).gen → (s.ctx e.ctx).state = .run → s.err.expect = false →
      ∃ t, exec (.ingressFifoDrain d .double) s = .next t ∧ (t.die d).fifo = r ∧ (t.ctx e.ctx).state = .draining ∧
        (t.ctx e.ctx).stopLatch = true ∧ (∀ x, x ≠ e.ctx → t.ctx x = s.ctx x) ∧ t.mem = s.mem ∧
        ∀ p i, t.bead p i = s.bead p i) ∧
    (∀ a b q, e.writes = [(a, b)] → e.gen = (s.ctx e.ctx).gen → s.fifoLink d a = none → homePart a = some q →
      s.inReset q = true →
      ∃ t, exec (.ingressFifoDrain d .clean) s = .next t ∧ (t.die d).fifo = r ∧
        (t.prt q).prt.isoDrops = sat32 (s.prt q).prt.isoDrops ∧ t.mem = s.mem ∧ (∀ p i, t.bead p i = s.bead p i) ∧
        (∀ x, (t.ctx x).state = (s.ctx x).state)))

/-! ### Faults and recovery -/

/-- COALESCE_FLUSH: the window of R355 closes and its record, with the count, reaches the record store.
Model's choices in it: log 45. -/
def Obligations.CoalescedRecordReachesTheStore : Prop :=
  ∀ (s : State) (w : Coal),
    s.err.coal.find? (fun x => x.src = w.src && x.code = w.code && decide ((x.ctx.map (·.1)) = w.ctx.map (·.1))) = some w →
    s.err.fifo = [] →
    ∃ t, exec (.coalesceFlush w.src w.code (w.ctx.map (·.1))) s = .next t ∧ w ∉ t.err.coal ∧
      (∃ r, r ∈ t.err.store ∧ r.src = w.src ∧ r.code = w.code ∧ r.count = BitVec.ofNat 16 w.count ∧ r.time = w.time) ∧
      s.keeps [.err] t

/-- DRAIN_COMPLETE: a stopped context is IDLE and its command ends with OK; a faulted one without peers and automatic
restart is FAULTED (R34, R361).
DRAIN_TIMEOUT: every partition in service that holds a transaction of the context is reset (R362, R368).
Model's choices in it: log 35, 43. -/
def Obligations.DrainsEndOrTimeOut : Prop :=
  (∀ (s : State) (c : CtxId) (ns : U32), (s.ctx c).state = .draining → c ∉ s.rep.stopping →
    (∀ tag, (s.ctx c).stopTag = some tag → s.hst.state = 1 → s.hst.cmdTag = tag → s.pending? tag 0x11 = none →
      ∃ t, exec (.drainComplete c ns) s = .next t ∧ (t.ctx c).state = .idle ∧ (t.ctx c).stopTag = none ∧
        t.answered tag mbOk [] ∧ (∀ x, x ≠ c → t.ctx x = s.ctx x)) ∧
    ((s.ctx c).stopTag = none → s.peers c = 0 → s.autoRestart c = false →
      ∃ t, exec (.drainComplete c ns) s = .next t ∧ (t.ctx c).state = .faulted ∧ (t.ctx c).gen = (s.ctx c).gen ∧
        (∀ x, x ≠ c → t.ctx x = s.ctx x) ∧ s.keeps [.ctxs, .err, .hst] t)) ∧
  (∀ (s : State) (c : CtxId) (h : BitVec 4), (s.ctx c).state = .draining → s.err.expect = false →
    ∃ t, exec (.drainTimeout c h) s = .next t ∧ (t.ctx c).state = .draining ∧
      (∀ p : PartId, h.getLsbD p.1 = true → (s.prt p).prt.state = .service →
        ((t.prt p).prt.state = .resetting ∨ (t.prt p).prt.state = .offline) ∧ (t.prt p).prt.causeCode = cDrainTimeout ∧
        (t.prt p).beads = [] ∧ (s.recd.state = .disabled → s.recd.nblk = 0 →
          ∀ a, 0x1000000000 * p.1 ≤ a → a < 0x1000000000 * (p.1 + 1) → memGet 0 t.mem a = 0)))

/-- The end of a partition reset: with good mirrors the partition returns to service and PART_RESET_END is recorded; without
one it waits for the reload, and WEIGHT_RELOAD returns it (R261, R369, R370, R376). While the SVP restarts, both wait for it
and change nothing else (R466). A partition that is not in reset, or waits for its reload, has no reset to end, and one that
waits for none takes no reload.
A recopied mirror holds the primary's bytes and is good again, and a peer that has not drained holds the context (R362, R370);
neither command changes anything else, nor anything at all where there is no such mirror or no such peer.
Model's choices in it: log 22, 32, 35. -/
def Obligations.PartitionsReturnToService : Prop :=
  (∀ (s : State) (p : PartId) (us : U32),
    (s.inReset p = true → (s.prt p).prt.reload = false → s.svpRuns = true →
      (s.weights p).all (fun r => s.mirrorGood p r) = true →
      ∃ t, exec (.partitionResetEnd p us) s = .next t ∧ (t.prt p).prt.state = .service ∧ (t.prt p).prt.lastUs = us ∧
        (s.err.fifo = [] → ∃ x, x ∈ t.err.store ∧ x.src = srcAgg ∧ x.code = 0x0C03) ∧
        (∀ q, q ≠ p → (t.prt q).prt = (s.prt q).prt)) ∧
    (s.inReset p = true → (s.prt p).prt.reload = false → s.svpRuns = true →
      (s.weights p).all (fun r => s.mirrorGood p r) = false →
      ∃ t, exec (.partitionResetEnd p us) s = .next t ∧ (t.prt p).prt.state = .restoring ∧
        (t.prt p).prt.reload = true ∧ (∀ q, q ≠ p → t.prt q = s.prt q) ∧ s.keeps [.parts, .mcs] t) ∧
    ((s.inReset p = false ∨ (s.prt p).prt.reload = true) →
      ∃ t, exec (.partitionResetEnd p us) s = .next t ∧ s.keeps [] t) ∧
    ((s.prt p).prt.reload = false → ∃ t, exec (.weightReload p us) s = .next t ∧ s.keeps [] t) ∧
    (s.svpRuns = false → ∀ i : Instr,
      ((i = .partitionResetEnd p us ∧ s.inReset p = true ∧ (s.prt p).prt.reload = false) ∨
        (i = .weightReload p us ∧ (s.prt p).prt.reload = true)) →
      ∃ t, exec i s = .next t ∧ t.prt p = { s.prt p with prt := { (s.prt p).prt with svpWait := some us } } ∧
        (∀ q, q ≠ p → t.prt q = s.prt q) ∧ s.keeps [.parts] t) ∧
    ((s.prt p).prt.reload = true → s.svpRuns = true →
      ∃ t, exec (.weightReload p us) s = .next t ∧ (t.prt p).prt.state = .service ∧ (t.prt p).prt.reload = false ∧
        (t.prt p).prt.lastUs = us ∧
        (s.err.fifo = [] → ∃ x, x ∈ t.err.store ∧ x.src = srcAgg ∧ x.code = 0x0C03) ∧
        (∀ q, q ≠ p → (t.prt q).prt = (s.prt q).prt))) ∧
  (∀ (s : State) (k : StackId),
    (s.mcReady k = true →
      ∃ t, exec (.mirrorRecopyComplete k) s = .next t ∧ t.mcs.get k = { s.mcs.get k with mirrorBad := false } ∧
        (∀ r ∈ s.mirrored (partOfStack k), (r.base, s.peek r.base (s.regionImage r).length) ∈ t.mirrors) ∧
        (∀ n, n ≠ k → t.mcs.get n = s.mcs.get n) ∧ s.keeps [.mcs, .bad, .mirrors] t) ∧
    (s.mcReady k = false → ∃ t, exec (.mirrorRecopyComplete k) s = .next t ∧ s.keeps [] t)) ∧
  (∀ (s : State) (c : CtxId),
    (s.peers c ≠ 0 → ((s.ctx c).state = .draining ∨ (s.ctx c).state = .faulted) →
      ∃ t, exec (.peerDrainTimeout c) s = .next t ∧ t.ctx c = { s.ctx c with peerHold := true } ∧
        (∀ x, x ≠ c → t.ctx x = s.ctx x) ∧ s.keeps [.ctxs] t) ∧
    ((s.peers c = 0 ∨ ((s.ctx c).state ≠ .draining ∧ (s.ctx c).state ≠ .faulted)) →
      ∃ t, exec (.peerDrainTimeout c) s = .next t ∧ s.keeps [] t))

/-- DEVICE_EVENT_RESTART restarts every context that the device event stopped and that may run (R361, R372).
Model's choices in it: log 35. -/
def Obligations.DeviceEventRestartsItsContexts : Prop :=
  ∀ s : State, s.err.deviceAt.isSome = true → s.tly.ready = true → s.tly.restarting = false →
    s.hst.tablesBad = false → s.hst.lksRefused = false → (s.dev = .run ∨ s.dev = .degraded ∨ s.dev = .configured) →
    ∃ t, exec .deviceEventRestart s = .next t ∧ t.err.restart = [] ∧
      (∀ c, c ∈ s.err.restart → (s.ctx c).state = .faulted → s.autoRestart c = true → s.peers c = 0 →
        s.canLoad c = true → s.boot.badWgt.getLsbD c.1 = false →
        (s.err.restart.head? = some c ∧ configCheck s c = none ∨
          ∀ u : State, u.img = s.img → u.part = s.part → configCheck u c = none) →
        (t.ctx c).state = .starting ∧ (t.ctx c).gen = (s.ctx c).gen + 1) ∧
      (∀ c, c ∉ s.err.restart → t.ctx c = s.ctx c)

/-! ### Cameras and Ethernet -/

/-- A frame start of a loaded, live stream opens a buffer that no frame holds and stamps it; a packet with a bad header is
dropped and counted (R54, R266, R268). A port that NET_CONFIG disables, or whose group is held, delivers nothing (R446, R479).
Model's choices in it: log 24, 40, 51. -/
def Obligations.FrameStartOpensABuffer : Prop :=
  (∀ (s : State) (k : CsiHdr) (n : U16) (i : Fin 32) (c : CtxId) (b : Fin 2), k.ecc = .ok → k.vcx = false →
    s.dev ≠ .replay → diePresent s.part k.die = true → s.portLive k.die k.port = true →
    (k.buffered = .clean ∨ s.recActive = false) →
    s.camSlot k.die k.port.1 k.vc.1 = some (i, c) → ((s.die k.die).cams.get i).frameOpen = false →
    (s.camProf c k.die i).mode ≠ 0 → s.camLive k.die i c = true →
    s.nextBuf c false k.die i.1 ((s.die k.die).cams.get i).last = some b →
    ∃ t, exec (.csiFrameStart k n) s = .next t ∧ ((t.die k.die).cams.get i).frameOpen = true ∧
      ((t.die k.die).cams.get i).buf = some b ∧ ((t.die k.die).cams.get i).last = b ∧
      ((t.die k.die).cams.get i).received = 0 ∧ (((t.die k.die).cams.get i).bufs.get b).opened = true ∧
      (((t.die k.die).cams.get i).bufs.get b).ts = s.fsStamp k.die k.port ∧
      ((t.die k.die).csi.get k.port).fsCnt = ((s.die k.die).csi.get k.port).fsCnt + 1 ∧
      ((t.die k.die).csi.get k.port).vcOpen.getLsbD k.vc.1 = true) ∧
  (∀ (s : State) (k : CsiHdr) (n : U16), k.ecc = .bad → s.dev ≠ .replay → diePresent s.part k.die = true →
    s.portLive k.die k.port = true → s.camSlot k.die k.port.1 k.vc.1 = none →
    ∃ t, exec (.csiFrameStart k n) s = .next t ∧
      ((t.die k.die).csi.get k.port).eccDrop = sat32 ((s.die k.die).csi.get k.port).eccDrop ∧
      ((t.die k.die).csi.get k.port).fsCnt = ((s.die k.die).csi.get k.port).fsCnt ∧
      (t.die k.die).cams = (s.die k.die).cams ∧ s.keeps [.io] t) ∧
  (∀ (s : State) (k : CsiHdr), s.portLive k.die k.port = false →
    (∀ n, ∃ t, exec (.csiFrameStart k n) s = .next t ∧ (t.die k.die).csi = (s.die k.die).csi ∧
      (∀ i, ((t.die k.die).cams.get i).bufs = ((s.die k.die).cams.get i).bufs) ∧ s.keeps [.io] t) ∧
    (∀ dt p ok, ∃ t, exec (.csiLongPacket k dt p ok) s = .next t ∧ s.keeps [] t) ∧
    ∀ n, ∃ t, exec (.csiFrameEnd k n) s = .next t ∧ s.keeps [] t)

/-- A good line of a stream's own type waits for its Crusher, and the frame end closes the frame with the lines that did
not arrive as absent ones (R180, R181, R266).
CRUSHER_LINE takes the line that arrived first and counts its pixels, or waits busy while the ingress FIFO is full, for which
each TIM tick counts its two CTL cycles as stalls (R20, R173, R177, R185, R259, R263).
Model's choices in it: log 24, 40, 51. -/
def Obligations.LinesWaitAreCrushedAndClosed : Prop :=
  (∀ (s : State) (k : CsiHdr) (i : Fin 32) (c : CtxId) (b : Fin 2), k.ecc = .ok → k.vcx = false →
    s.dev ≠ .replay → diePresent s.part k.die = true → s.portLive k.die k.port = true →
    (k.buffered = .clean ∨ s.recActive = false) →
    s.camSlot k.die k.port.1 k.vc.1 = some (i, c) → ((s.die k.die).cams.get i).frameOpen = true →
    ((s.die k.die).cams.get i).buf = some b → ((s.die k.die).cams.get i).ctx = some c → (s.camProf c k.die i).mode = 1 →
    (∀ (dt : BitVec 6) (p : Bytes), dt.toNat = (s.camProf c k.die i).dt → profTypes.contains dt.toNat = true →
      p.length = lineLen (s.camProf c k.die i).dt (s.camProf c k.die i).inW →
      portBytes s k.die (s.camProf c k.die i).port + p.length ≤ 65536 →
      ((s.die k.die).cams.get i).received < (s.camProf c k.die i).inH →
      ∃ t, exec (.csiLongPacket k dt p true) s = .next t ∧
        ((t.die k.die).cams.get i).received = ((s.die k.die).cams.get i).received + 1 ∧
        (((t.die k.die).cams.get i).waiting.getLast?.map (·.data)) =
          some (if ((s.die k.die).cams.get i).lostNext then none else some p) ∧
        ((t.die k.die).cams.get i).waiting.length = ((s.die k.die).cams.get i).waiting.length + 1 ∧
        ((t.die k.die).cams.get i).hashed = ((s.die k.die).cams.get i).hashed ++ p ∧ t.ctxs = s.ctxs ∧ t.parts = s.parts) ∧
    (∀ n : U16, ∃ t, exec (.csiFrameEnd k n) s = .next t ∧ ((t.die k.die).cams.get i).frameOpen = false ∧
      ((t.die k.die).cams.get i).ended = true ∧
      ((t.die k.die).cams.get i).received = max ((s.die k.die).cams.get i).received (s.camProf c k.die i).inH ∧
      ((t.die k.die).csi.get k.port).vcOpen.getLsbD k.vc.1 = false ∧ t.ctxs = s.ctxs ∧ t.parts = s.parts)) ∧
  (∀ (s : State) (d : DieId) (u : Fin 2) (i : Fin 32) (c : CtxId) (l : InLine) (r : List InLine),
    s.domLive (cruDom d) = true → firstLine (crusherQueue s d u) = some i → ((s.die d).cams.get i).ctx = some c →
    ((s.die d).cams.get i).waiting = l :: r →
    (s.fifoFull d = false →
      ∃ t, exec (.crusherLine d u .clean) s = .next t ∧ ((t.die d).cams.get i).waiting = r ∧
        ((t.die d).cru.get u).pixCnt = ((s.die d).cru.get u).pixCnt + BitVec.ofNat 32 (s.camProf c d i).inW ∧
        ((t.die d).cru.get u).lineSubst =
          (if l.data.isSome then ((s.die d).cru.get u).lineSubst else sat32 ((s.die d).cru.get u).lineSubst) ∧
        (∀ j, j ≠ i → (t.die d).cams.get j = (s.die d).cams.get j) ∧ t.mem = s.mem ∧ t.parts = s.parts) ∧
    (s.fifoFull d = true → ∀ f,
      ∃ t, exec (.crusherLine d u f) s = .next t ∧
        (t.die d).cru.get u = { (s.die d).cru.get u with busy := true, profile := BitVec.ofNat 3 (profileNo s d u i) } ∧
        (t.die d).cams = (s.die d).cams ∧ (t.die d).fifo = (s.die d).fifo ∧ s.keeps [.io] t)) ∧
  (∀ (s : State) (d : DieId), s.pending = [] → s.fifoFull d = true →
    ∃ t, step s = .next t ∧ (t.die d).iffStall = sat32 (s.die d).iffStall 2 ∧ (t.die d).cams = (s.die d).cams)

/-- An Ethernet frame: one with a wrong FCS is counted, one of a foreign EtherType is counted as no match, and the payload of
one that a PARSE entry matches goes to the flow parser, or waits for it in the receive buffer while the ingress FIFO is full
(R259, R269, R270, R273, R281, R293).
SWEEP_TIMEOUT closes an open sweep with its header behind the points and its bead complete; FLOW_RECORD_TIMEOUT closes
the open record (R278, R279, R390).
Model's choices in it: log 41, 51. -/
def Obligations.EthernetFramesAndTimeouts : Prop :=
  (∀ (s : State) (d : DieId) (m : MacId) (f : Bytes) (fd : Finding), s.dev ≠ .replay → diePresent s.part d = true →
    (fd = .clean ∨ s.recActive = false) → s.domLive (ethDom d) = true → byteAt (s.macCfg d m) 0 % 128 ≠ 0 →
    (fcsOk f = false → s.macRecords d m = false → s.flowsOfMac d m = [] →
      ∃ t, exec (.ethFrameReceive d m f ⟨false, fd⟩) s = .next t ∧
        (t.die d).mac.get m = { (s.die d).mac.get m with fcsErr := sat32 ((s.die d).mac.get m).fcsErr } ∧ s.keeps [.io] t) ∧
    (fcsOk f = true → s.rxFull d m f.length = false → s.destOk d m (f.take 6) = true → (etherOf f).1 ≠ 0x88F7 →
      (etherOf f).1 ≠ 0x0806 →
      (etherOf f).1 ≠ 0x0800 →
      ∃ t, exec (.ethFrameReceive d m f ⟨false, fd⟩) s = .next t ∧
        (t.die d).mac.get m = { (s.die d).mac.get m with noMatchCnt := sat32 ((s.die d).mac.get m).noMatchCnt } ∧
        s.keeps [.io] t) ∧
    (∀ k a p pl, fcsOk f = true → s.rxFull d m f.length = false → s.destOk d m (f.take 6) = true →
      (etherOf f).1 = 0x0800 → ipOk (etherOf f).2 = true →
      s.frameEntry d m f = some ((k, a, p), pl) → bit a 1 = true → bit a 2 = false →
      ∃ t, exec (.ethFrameReceive d m f ⟨false, fd⟩) s = .next t ∧
        let h : HeldFrame := ⟨⟨p % 16, Nat.mod_lt _ (by decide)⟩, pl, s.rxStamp d m, s.nextRecSeq (srcMac d m), false⟩
        t.io = (flowFrame s d m h).io ∧ t.parts = (flowFrame s d m h).parts)) ∧
  (∀ (s : State) (d : DieId) (i : Fin 16) (b : Fin 2) (c : CtxId), (s.flow d i).sweepOpen = true →
    (s.flow d i).buf = some b → (s.flow d i).ctx = some c →
    ∃ t, exec (.sweepTimeout d i) s = .next t ∧ (t.flow d i).sweepOpen = false ∧ (t.flow d i).buf = none ∧
      (t.flow d i).sweepSeq = (s.flow d i).sweepSeq + 1 ∧ ((t.flow d i).bufs.get b).digest = some (sha256 (s.flow d i).hashed) ∧
      (t.die d).fifo.length + (t.die d).stalled.length = (s.die d).fifo.length + (s.die d).stalled.length + 1 ∧
      t.mem = s.mem ∧ t.parts = s.parts) ∧
  (∀ (s : State) (d : DieId) (m : MacId) (fd : Finding) r, (fd = .clean ∨ s.recActive = false) →
    ((s.die d).mac.get m).record = some r →
    ∃ t, exec (.flowRecordTimeout d ⟨m, fd⟩) s = .next t ∧ ((t.die d).mac.get m).record = none ∧
      (∀ k, k ≠ m → (t.die d).mac.get k = (s.die d).mac.get k) ∧ t.ctxs = s.ctxs ∧ t.parts = s.parts)

/-! ### The Tally, pins and recorder -/

/-- TALLY_VERDICT gives the frame whose turn it is the verdict and reason that R312 derives, counts it and takes the frame
off the queue; a FAIL latches the egress stop and pulls ERR_OUT_N low, and ALIVE toggles with a verdict of its context (R312,
R313, R319, R322, R324). A frame that the deadline unit has judged is dropped and counted (R315); while the Tally restarts or
nothing waits, nothing is judged.
A frame whose context was faulted between trigger and verdict fails with code 0x0001, whatever its record holds
(R312).
VERDICT_DEADLINE: the oldest frame of the context without a verdict fails with code 0x0004, the context is faulted and
its egress stopped (R315).
Model's choices in it: log 34. -/
def Obligations.VerdictsAreGivenOrMissed : Prop :=
  (∀ (s : State) (i : TallyItem) (n : U32), s.tallyHead = some i → s.tly.ready = true → s.tly.restarting = false →
    i.late = false → s.bad = [] → i.gen = (s.ctx i.ctx).gen →
    ∃ t, exec (.tallyVerdict n {}) s = .next t ∧ (t.ctx i.ctx).verdict = (judge s i n.toNat).1.v ∧
      (t.ctx i.ctx).reason = BitVec.ofNat 16 (judge s i n.toNat).1.reason ∧ (t.ctx i.ctx).hasVerdict = true ∧
      (t.ctx i.ctx).vseq = (s.ctx i.ctx).vseq + 1 ∧ t.tly.verdicts = s.tly.verdicts + 1 ∧
      t.tly.queue = s.tly.queue.erase i ∧
      ((judge s i n.toNat).1.v = .fail → (t.ctx i.ctx).stopLatch = true ∧ t.pins.errOutN = false ∧
        t.tly.fails = sat32 s.tly.fails) ∧
      t.pins.alive = (if s.aliveCtx i.ctx = true ∧ i.replay = false ∧ s.dev ≠ .replay then !s.pins.alive else s.pins.alive)) ∧
  (∀ (s : State) (n : U32) (f : Facts),
    (∀ i, s.tallyHead = some i → s.tly.ready = true → s.tly.restarting = false → i.late = true →
      ∃ t, exec (.tallyVerdict n f) s = .next t ∧
        t.tly = { s.tly with queue := s.tly.queue.erase i, deadline := sat32 s.tly.deadline } ∧ s.keeps [.tly] t) ∧
    ((s.tallyHead = none ∨ s.tly.ready = false ∨ s.tly.restarting = true) →
      ∃ t, exec (.tallyVerdict n f) s = .next t ∧ s.keeps [] t)) ∧
  (∀ (s : State) (i : TallyItem) (n : Nat), i.faulted = true →
    (judge s i n).1.v = .fail ∧ (judge s i n).1.reason = 1 ∧ (judge s i n).2.1 = (s.ctx i.ctx).prev) ∧
  (∀ (s : State) (c : CtxId) (i : TallyItem), s.tly.queue.find? (fun k => decide (k.ctx = c) && !k.late) = some i →
    i.gen = (s.ctx c).gen → (s.ctx c).state = .run → s.err.expect = false →
    ∃ t, exec (.verdictDeadline c) s = .next t ∧ (t.ctx c).verdict = .fail ∧ (t.ctx c).reason = 4 ∧
      (t.ctx c).stopLatch = true ∧ (t.ctx c).state = .draining ∧ t.tly.deadline = sat32 s.tly.deadline ∧
      t.pins.errOutN = false)

/-- R306 whole: a rule whose DEP names an INCOMPLETE stream is not evaluated, its outcome is ACT[3:2] and its bit of the
violation map is set when that is not 0; otherwise a violation has the outcome ACT[1:0] and sets the bit, also with action 0,
which adds no outcome. Each rule keeps its own outcome in an evaluation of many. -/
def Obligations.RuleOutcomesFollowDepAndAct : Prop :=
  ∀ (j : Judged) (cl : Vector U32 16) (frame : U32) (free n : Nat) (prev : List PrevVal) (i : Nat), i < n →
    let e := slice j.tab (64 + 16 * nField j.tab + 32 * i) 32
    let r := ruleCfg j.tab i
    let v := violated j cl r (prevOf prev i frame r.arg1) (fun k => Config.emptyAggregate (free + 2 * i + k))
    let o := evalRules j cl frame free n prev
    (byteAt e 5 ≠ 0xFF → j.incomplete.testBit (byteAt e 5 % 64) = true →
      (∀ a, (i, a) ∈ o.acts ↔ a = byteAt e 1 / 4 % 4 ∧ a ≠ 0) ∧
      (o.viol.testBit i = true ↔ byteAt e 1 / 4 % 4 ≠ 0) ∧
      o.prev.find? (fun p => decide (p.1 = i)) = prev.find? (fun p => decide (p.1 = i))) ∧
    ((byteAt e 5 = 0xFF ∨ j.incomplete.testBit (byteAt e 5 % 64) = false) →
      (∀ a, (i, a) ∈ o.acts ↔ v = true ∧ a = byteAt e 1 % 4 ∧ a ≠ 0) ∧ (o.viol.testBit i = true ↔ v = true))

/-- TALLY_LOCKSTEP is a device-scoped event that restarts the Tally; a second one within 1 h puts the device in SAFE state
(R297, R317).
ERR_HOLD_EXPIRY releases ERR_OUT_N when the start-up test has passed and SAFE_ST is not 0b00, and leaves it otherwise until
they are so (R321).
Model's choices in it: log 32. -/
def Obligations.TallyLockstepAndErrorPin : Prop :=
  (∀ (s : State) (b : Bool), s.err.expect = false → (s.proc .tally).state = .running →
    ∃ t, exec (.tallyLockstep b) s = .next t ∧ t.tly.lockstepErr = true ∧ t.tly.lockstepAt = some s.ticks ∧
      t.tly.restarting = true ∧ t.tly.ready = false ∧ (t.proc .tally).state = .restarting ∧
      t.err.deviceEvent = true ∧ t.pins.errOutN = false ∧ t.pins.safeSt = 0 ∧ (∀ x, (t.ctx x).stopLatch = true) ∧
      (∀ k, s.tly.lockstepAt = some k → s.within k 3600 = true → t.dev = .safe)) ∧
  (∀ s : State, ∃ t, exec .errHoldExpiry s = .next t ∧
    t.pins.errOutN = (s.pins.errOutN || (s.tly.selftestOk && decide (safeStOf s ≠ 0))) ∧
    t.tly = { s.tly with holdOver := true } ∧ s.keeps [.pins, .tly] t)

/-- The recorder: FREEZE by the host opens the post window, or freezes at once where the next block to allocate is the first
retained one, the end of the window freezes the recorder, and RELEASE makes it record again (R394, R404).
Model's choices in it: log 26. -/
def Obligations.RecorderFreezesAndIsReleased : Prop :=
  ∀ s : State,
    (s.hostRec = true → s.recd.state = .recording →
      ∃ t, exec .recCmdFreeze s = .next t ∧
        (t.recd.state = .postWindow ∨ (t.recd.state = .frozen ∧ t.recd.postCut = true)) ∧
        (s.recd.nblk = 0 → t.recd.state = .postWindow) ∧ t.recd.cause = 3 ∧ t.recd.tTrig = s.now64 ∧
        t.recd.extra = 0 ∧ s.keeps [.recd, .mem, .bad] t) ∧
    (s.recd.state = .postWindow →
      ∃ t, exec .recorderPostWindowEnd s = .next t ∧ t.recd.state = .frozen ∧ t.recd.tFreeze = s.now64 ∧
        t.recd.cause = s.recd.cause ∧ s.keeps [.recd, .mem, .bad] t) ∧
    (s.hostRec = true → s.recd.state = .frozen →
      ∃ t, exec .recCmdRelease s = .next t ∧ t.recd.state = .recording ∧ t.recd.cause = 0 ∧
        (∀ d, (t.die d).tapBlock = none) ∧ t.recd.ckptBlock = none ∧ s.keeps [.recd, .mem, .bad, .io] t)

/-! ### Lock-step and replay -/

/-- LKS_MESSAGE in an armed slot: a message without a counterpart waits, one with its counterpart is compared, and the first
difference is latched; `LKS_CTRL.REARM` arms a slot anew with empty stores (R402, R405).
Model's choices in it: log 39. -/
def Obligations.LockstepComparesAndRearms : Prop :=
  ∀ (s : State) (c : CtxId) (m : Bytes) (i : Fin 4), s.lksSlot c = some i →
    ((s.lks.get i).state = .armed → (s.lks.get i).suspended ≠ some (lksOf m).1 →
      (s.lks.get i).mine.find? (sameKey (lksOf m)) = none → (s.lks.get i).mine.length + (s.lks.get i).theirs.length < 8192 →
      ∃ t, exec (.lksMessage c m) s = .next t ∧
        t.lks.get i = { s.lks.get i with theirs := (s.lks.get i).theirs ++ [lksOf m] } ∧
        (∀ k, k ≠ i → t.lks.get k = s.lks.get k) ∧ s.keeps [.lks] t) ∧
    (∀ o, (s.lks.get i).state = .armed → (s.lks.get i).suspended ≠ some (lksOf m).1 →
      (s.lks.get i).mine.find? (sameKey (lksOf m)) = some o →
      ∃ t, exec (.lksMessage c m) s = .next t ∧ (t.lks.get i).cmp = (s.lks.get i).cmp + 1 ∧
        ((lksOf m).2.2.2 = o.2.2.2 → (t.lks.get i).state = .armed ∧ (t.lks.get i).mismatch = (s.lks.get i).mismatch) ∧
        ((lksOf m).2.2.2 ≠ o.2.2.2 → (t.lks.get i).state = .mismatch ∧
          (t.lks.get i).mismatch = sat32 (s.lks.get i).mismatch ∧ (t.lks.get i).firstQseq = (lksOf m).2.2.1 ∧
          (t.lks.get i).firstKey = (lksOf m).2.1.setWidth 7 ∧
          (t.lks.get i).firstNs = BitVec.ofNat 32 ((lksOf m).1.toNat % 2 ^ 30)) ∧
        (∀ k, k ≠ i → t.lks.get k = s.lks.get k) ∧ s.keeps [.lks] t) ∧
    ((s.lks.get i).ctx = some c → ((s.lks.get i).state = .mismatch ∨ (s.lks.get i).state = .peerLost) →
      ∃ t, exec (.lksCtrlRearm i) s = .next t ∧ (t.lks.get i).state = lksArm s c ∧ (t.lks.get i).mine = [] ∧
        (t.lks.get i).theirs = [] ∧ (t.lks.get i).cmp = (s.lks.get i).cmp ∧
        (∀ k, k ≠ i → t.lks.get k = s.lks.get k) ∧ s.keeps [.lks] t)

/-- `REP_CTRL.START` is refused with the error of R396, or enters REPLAY with the servo on hold; REPLAY_INJECT applies the
record whose turn it is, a FRAME_MARK by starting its frame and a LOSS record as no data, and ends the replay when the window is
over; `REP_CTRL.END` returns to CONFIGURED (R396, R397, R399, R403). Outside a replay the feeder and END change nothing,
and START changes nothing while one is active.
Model's choices in it: log 27. -/
def Obligations.ReplayStartsInjectsAndEnds : Prop :=
  (∀ s : State, s.rep.active = false → s.startError = none →
    ∃ t, exec .repCtrlStart s = .next t ∧ t.dev = .replay ∧ t.rep.active = true ∧ t.rep.error = 0 ∧
      t.rep.finished = false ∧ t.tb.hold = true ∧ t.rep.mask = BitVec.ofNat 16 (fld s.replayCb 8 2) ∧
      (∀ c, (t.ctx c).state ≠ .run ∧ (t.ctx c).state ≠ .faulted) ∧ t.pins.safeSt = 0) ∧
  (∀ (s : State) (e : BitVec 4), s.rep.active = false → s.startError = some e →
    ∃ t, exec .repCtrlStart s = .next t ∧ t.rep = { s.rep with error := e } ∧ s.keeps [.rep] t) ∧
  (∀ s : State, s.rep.active = true → ∃ t, exec .repCtrlStart s = .next t ∧ s.keeps [] t) ∧
  (∀ (s : State) (x : RecItem) (l : List RecItem), s.rep.active = true → s.rep.stopped = false → s.rep.stopping = [] →
    s.windowOver = false → s.rep.feed = x :: l →
    (x.kind = 7 → x.ok = true → (s.ctx (ctxOf x.markCtx)).state = .run →
      (s.ctx (ctxOf x.markCtx)).frame.inFlight = false → s.seqHeld (ctxOf x.markCtx) = false →
      ∃ t, exec .replayInject s = .next t ∧ t.rep.feed = l ∧
        (t.ctx (ctxOf x.markCtx)).frameNum = BitVec.ofNat 32 x.markFrame ∧
        (∀ c, c ≠ ctxOf x.markCtx → t.ctx c = s.ctx c)) ∧
    ((x.ok = false ∨ x.kind = 9) →
      ∃ t, exec .replayInject s = .next t ∧ t.rep = { s.rep with feed := l } ∧ s.keeps [.rep, .tb] t)) ∧
  (∀ s : State, s.rep.active = true → s.rep.stopped = false → s.rep.stopping = [] → s.windowOver = true →
    ∃ t, exec .replayInject s = .next t ∧ t.rep = { s.rep with active := false, finished := true } ∧ s.keeps [.rep] t) ∧
  (∀ s : State, (s.rep.active = false ∨ s.rep.stopped = true) → ∃ t, exec .replayInject s = .next t ∧ s.keeps [] t) ∧
  (∀ s : State, s.dev = .replay →
    ∃ t, exec .repCtrlEnd s = .next t ∧ t.dev = .configured ∧ t.rep.active = false ∧ t.tb.hold = false ∧
      (s.rep.active = true → t.rep.finished = true) ∧ (∀ c, (t.ctx c).state ≠ .run) ∧ t.pins.safeSt = 0) ∧
  (∀ s : State, s.dev ≠ .replay → ∃ t, exec .repCtrlEnd s = .next t ∧ s.keeps [] t)

/-! ### The Seam ring -/

/-- The links of the ring: a good write flit of the present generation stores its bytes and nothing else and is acknowledged by
its route in its channel and class, a good read is answered with its bytes; one of an old generation or of a context that is
torn down is discarded and counted, an acknowledgement ends the oldest wait for that peer, and what is for another member goes
on through the other port in its channel, in class B once it has crossed the dateline; a flit with a bad link CRC is counted
for replay and the fifth one takes the link down, as a link fault and a credit timeout do; a link that completes training is
up, or held down for its own or an equal ID or a wrong neighbour; ring time and the wake set go out (R32, R410 to R415, R424,
R425, R428, R430).
Model's choices in it: log 29, 31. -/
def Obligations.RingLinksCarryFlitsAndRetrain : Prop :=
  ∀ (s : State) (p : RingPort), s.ringOn = true →
    (∀ src c addr, s.isPortUp p = true → s.discards c (s.ctx c).gen = false →
      (∀ j, (target addr.toNat).die = some j → ioLink 0 j ∉ s.linkDown) →
      let w : Who := { ctx := c, gen := (s.ctx c).gen, part := 0, core := none, src := srcRing p, detail := 0, arrived := true }
      let q := routePort s.rng src
      (∀ data a, s.storeAt w addr.toNat data.length = .ok a → s.badOfWrites (mirrorPair s [(a, data)]) = none →
        ∃ t, exec (.ringFlitReceive p true (.write src true c (s.ctx c).gen addr data)) s = .next t ∧
          t.mem = (s.commit (c, (s.ctx c).gen) (mirrorPair s [(a, data)])).mem ∧
          ((∀ k, target a = .ledge k → ∀ i, i < data.length → target (a + i) = .ledge k) →
            ∀ i, i < data.length → memGet 0 t.mem (a + i) = data.getD i 0) ∧
          (∀ k, (∀ e ∈ mirrorPair s [(a, data)], k < e.1 ∨ e.1 + e.2.length ≤ k) → memGet 0 t.mem k = memGet 0 s.mem k) ∧
          (s.isPortUp q = true → OutEvent.ring q ⟨some .rsp, hopCrosses s.rng q⟩ (.ack src) ∈ t.out) ∧
          s.keeps [.mem, .bad, .lineOwner, .rng] t) ∧
      (∀ len b, s.load w addr.toNat len = .ok b →
        ∃ t, exec (.ringFlitReceive p true (.read src true c (s.ctx c).gen addr len)) s = .next t ∧
          (s.isPortUp q = true → OutEvent.ring q ⟨some .rsp, hopCrosses s.rng q⟩ (.readData src b) ∈ t.out) ∧
          s.keeps [.rng] t)) ∧
    (∀ src c g addr data, s.isPortUp p = true → s.discards c g = true →
      ∃ t, exec (.ringFlitReceive p true (.write src true c g addr data)) s = .next t ∧
        t.ctx c = { s.ctx c with staleTxn := sat32 (s.ctx c).staleTxn } ∧ (∀ x, x ≠ c → t.ctx x = s.ctx x) ∧
        s.keeps [.ctxs, .rng] t) ∧
    (∀ src, s.isPortUp p = true →
      ∃ t, exec (.ringFlitReceive p true (.ack src)) s = .next t ∧
        t.rng.unacked = s.rng.unacked.eraseP (fun u => decide (u.peer = src)) ∧ s.keeps [.rng] t) ∧
    (∀ dst ch inB data, s.isPortUp p = true →
      ∃ t, exec (.ringFlitReceive p true (.transit dst ch inB data)) s = .next t ∧
        (s.isPortUp (otherPort p) = true →
          OutEvent.ring (otherPort p) ⟨some ch, inB || hopCrosses s.rng (otherPort p)⟩ (.transit dst data) ∈ t.out) ∧
        s.keeps [.rng] t) ∧
    (∀ x, s.isPortUp p = true → (s.port p).fails < 4 →
      ∃ t, exec (.ringFlitReceive p false x) s = .next t ∧
        t.port p = { s.port p with retry := sat32 (s.port p).retry, fails := (s.port p).fails + 1 } ∧
        t.port (otherPort p) = s.port (otherPort p) ∧ s.keeps [.rng] t) ∧
    (∀ x c, s.isPortUp p = true →
      (c = .ringFlitReceive p false x ∧ 4 ≤ (s.port p).fails ∨ c = .ringLinkFault p ∨ c = .ringCreditTimeout p) →
      ∃ t, exec c s = .next t ∧ (t.port p).state = .training ∧ (t.port p).down = sat32 (s.port p).down ∧
        (t.port p).peerValid = false ∧
        (t.port p).starve = (if c = .ringCreditTimeout p then sat32 (s.port p).starve else (s.port p).starve)) ∧
    (∀ peer, (s.port p).state = .training →
      (∃ t, exec (.ringLinkTrained p peer true) s = .next t ∧ (t.port p).state = .ownId ∧ s.keeps [.rng] t) ∧
      (peer = s.rng.id → ∃ t, exec (.ringLinkTrained p peer false) s = .next t ∧ (t.port p).state = .clash ∧
        t.rng.clash = true ∧ s.keeps [.rng] t) ∧
      (peer ≠ s.rng.id → s.skipsMember p peer = true → ∃ t, exec (.ringLinkTrained p peer false) s = .next t ∧
        (t.port p).state = .wrongNeighbour ∧ s.keeps [.rng] t) ∧
      (peer ≠ s.rng.id → s.skipsMember p peer = false → ∃ t, exec (.ringLinkTrained p peer false) s = .next t ∧
        (t.port p).state = .up ∧ (t.port p).peerId = peer ∧ (t.port p).peerValid = true)) ∧
    (((s.port p).state = .off ∨ (s.port p).state = .ownId ∨ (s.port p).state = .clash ∨
        (s.port p).state = .wrongNeighbour) → ∃ t, exec (.ringSignalDetect p) s = .next t ∧ (t.port p).state = .training ∧
      t.port (otherPort p) = s.port (otherPort p) ∧ s.keeps [.rng] t) ∧
    (s.rng.idle = true → ∃ t, exec (.ringWake p) s = .next t ∧ t.rng.idle = false ∧
      (∀ q, t.port q = if (s.port q).state = .idle then { s.port q with state := .training } else s.port q) ∧
      OutEvent.ring (otherPort p) ⟨none, false⟩ .wake ∈ t.out ∧ s.keeps [.rng, .pwr] t) ∧
    (∃ t, exec .tSyncInterval s = .next t ∧
      (t.port p).t1 = (if s.isPortUp p then s.ringTx else (s.port p).t1) ∧ s.keeps [.rng] t)

/-- The management messages: one with a bad CRC is only counted, and one for another member goes on through the other port; one
that is addressed here has the effect of its type: HELLO is noted, MEMBERSHIP takes effect with its epoch, START of the manager
starts or is noted, CTX_FAIL tears its context down, DRAIN_ACK, CTX_DRAINED, DIGEST and IDLE are gathered, T_SYNC is stamped and
T_FOLLOW feeds the servo (R414, R422 to R425, R427, R428).
Model's choices in it: log 29, 30, 31. -/
def Obligations.RingMessagesTakeEffect : Prop :=
  ∀ (s : State) (h : MgmtHdr), s.ringOn = true →
    (∀ c, mgmtOf c = some h → h.crcOk = false →
      ∃ t, exec c s = .next t ∧ t.rng = { s.rng with mgmtDrop := sat32 s.rng.mgmtDrop } ∧ s.keeps [.rng] t) ∧
    (∀ c, mgmtOf c = some h → h.crcOk = true → h.broadcast = false → h.dst ≠ s.rng.id →
      let q := otherPort (match c with | .hello _ p .. | .tSync _ p | .tFollow _ p .. => p | _ => h.via)
      ∃ t, exec c s = .next t ∧ s.keeps [] t ∧
        (s.isPortUp q = true → ∃ b, OutEvent.ring q ⟨some .req, h.inB || hopCrosses s.rng q⟩ (.mgmt b) ∈ t.out)) ∧
    (s.isMgr = false → (s.rng.idle = false ∨ s.rng.held = []) → (∀ x ∈ s.rng.hears, x.2.2 < 3) →
      (∀ e ∈ s.rng.seen, ∃ x ∈ s.rng.hears, x.1 = e.1) → s.topology = s.published →
      ∃ t, exec .helloInterval s = .next t ∧ t.rng.seq = s.rng.seq + 1 ∧ t.rng.seen = s.rng.seen ∧
        t.rng.members = s.rng.members ∧
        (∀ p, s.isPortUp p = true → ∃ b, OutEvent.ring p ⟨some .req, hopCrosses s.rng p⟩ (.mgmt b) ∈ t.out) ∧ s.keeps [.rng] t) ∧
    (h.crcOk = true → ((h.broadcast = true ∧ h.src ≠ s.rng.id) ∨ (h.broadcast = false ∧ h.dst = s.rng.id)) →
      (∀ p id mc ie, s.isPortUp p = true → id ≠ s.rng.id → (∃ e ∈ s.rng.seen, e.1 = id) →
        let g := { s.rng with seen := s.rng.seen.filter (fun e => decide (e.1 ≠ id)) ++ [(id, mc, ie)], hears := hear s.rng.hears id p }
        ({ s with rng := g } : State).topology = s.published →
        ∃ t, exec (.hello h p id mc ie) s = .next t ∧ t.rng = g ∧ s.keeps [.rng] t) ∧
      (∀ m mgr chain down, (s.mgrCapable = false ∨ mgr.toNat ≤ s.rng.id.toNat) →
        ∃ t, exec (.membership h m mgr chain down) s = .next t ∧ t.rng.members = m ∧ t.rng.hasMgr = true ∧
          t.rng.mgrId = mgr ∧ t.rng.chain = chain ∧ t.rng.downAt = down ∧ t.rng.epoch = h.epoch ∧ t.rng.idle = false) ∧
      (∀ c g m, s.rng.hasMgr = true → h.src = s.rng.mgrId → s.runsPeered c = true →
        s.jointMask c &&& m = s.jointMask c → s.mayRun c = true →
        (s.ctx c).peerHold = false → (s.ctx c).state = .idle → configCheck s c = none →
        ∃ t, exec (.ringStart h c g m) s = .next t ∧ (t.ctx c).state = .starting ∧ (t.ctx c).gen = g ∧
          t.rng.gens.get c = g ∧ (∀ x, x ≠ c → t.ctx x = s.ctx x)) ∧
      (∀ c g m, s.rng.hasMgr = true → h.src = s.rng.mgrId →
        (s.runsPeered c = false ∨ s.jointMask c &&& m ≠ s.jointMask c) →
        ∃ t, exec (.ringStart h c g m) s = .next t ∧ t.rng.gens.get c = g ∧
          (∀ x, x ≠ c → t.rng.gens.get x = s.rng.gens.get x) ∧ s.keeps [.rng] t) ∧
      (∀ c g m, (s.rng.hasMgr = false ∨ h.src ≠ s.rng.mgrId) → ∃ t, exec (.ringStart h c g m) s = .next t ∧ s.keeps [] t) ∧
      (∀ c d k, s.isMgr = false → s.runsPeered c = true → (s.ctx c).state = .run →
        ∃ t, exec (.ctxFail h c (s.ctx c).gen d k) s = .next t ∧ (t.ctx c).state = .draining ∧
          (t.ctx c).stopLatch = true ∧ t.pins.errOutN = false ∧ (∀ x, x ≠ c → t.ctx x = s.ctx x) ∧ t.mem = s.mem) ∧
      (∀ c, s.isMgr = true → s.rng.acks = [] → s.jointMask c &&& s.rng.members &&& idBit h.src ≠ s.jointMask c &&& s.rng.members →
        ∃ t, exec (.drainAck h c (s.peerGen c)) s = .next t ∧ t.rng.acks = [(c, idBit h.src)] ∧ s.keeps [.rng] t) ∧
      (∀ c m, ∃ t, exec (.ctxDrained h c (s.ctx c).gen m) s = .next t ∧
        t.ctx c = { s.ctx c with peerHold := false } ∧ (∀ x, x ≠ c → t.ctx x = s.ctx x) ∧ s.keeps [.ctxs] t) ∧
      (∀ c pd wd, ∃ t, exec (.ringDigest h c pd wd) s = .next t ∧ (c, h.src, pd, wd) ∈ t.rng.digests) ∧
      (∃ t, exec (.ringIdle h true) s = .next t ∧
        (s.rng.members &&& (s.rng.idleAcks ||| idBit h.src) = s.rng.members → t.rng.idle = true ∧
          ∀ p, (t.port p).state = if (s.port p).state = .up then .idle else (s.port p).state) ∧
        (s.rng.members &&& (s.rng.idleAcks ||| idBit h.src) ≠ s.rng.members →
          t.rng = { s.rng with idleAcks := s.rng.idleAcks ||| idBit h.src }) ∧ s.keeps [.rng] t) ∧
      (∃ t, exec (.ringIdle h false) s = .next t ∧
        (s.idleEn = true → s.rng.hasMgr = true → h.src = s.rng.mgrId →
          (s.rng.members &&& (idBit s.rng.id ||| idBit h.src) = s.rng.members → t.rng.idle = true ∧
            ∀ p, (t.port p).state = if (s.port p).state = .up then .idle else (s.port p).state) ∧
          (s.rng.members &&& (idBit s.rng.id ||| idBit h.src) ≠ s.rng.members → s.rng.idle = false → s.rng.held = [] →
            t.rng = { s.rng with seq := s.rng.seq + 1, idleAcks := idBit s.rng.id ||| idBit h.src })) ∧
        (¬ (s.idleEn = true ∧ s.rng.hasMgr = true ∧ h.src = s.rng.mgrId) → t.rng = s.rng) ∧ s.keeps [.rng] t) ∧
      (∀ p, s.isPortUp p = true →
        ∃ t, exec (.tSync h p) s = .next t ∧ t.port p = { s.port p with t4 := s.ringRx, synced := true } ∧
          t.port (otherPort p) = s.port (otherPort p) ∧ s.keeps [.rng] t) ∧
      (∀ p a b, s.isPortUp p = true → (s.port p).synced = true → (s.port p).t1 ≠ 0 → b ≠ 0 → s.rng.hasMgr = true →
        s.rng.mgrId ≠ s.rng.id → routePort s.rng s.rng.mgrId = p →
        ∃ t, exec (.tFollow h p a b) s = .next t ∧ t.tb.source = 2 ∧ t.tb.en = true ∧
          t.tb.theta = BitVec.ofInt 48 ((tsDiff (s.port p).t4 a - tsDiff b (s.port p).t1) * 32768) ∧
          s.keeps [.tb, .ctxs] t))

/-! ### The machine as a whole -/

/-- A step takes the command at the front of the queue and runs its meaning on the state with the queue's rest; no command
stops the block, and on an empty queue one TIM tick passes (log 1).
Model's choices in it: log 1. -/
def Obligations.StepRunsTheFrontCommand : Prop :=
  (∀ (c : Instr) (r : List Instr) (s : State), step { s with pending := c :: r } = exec c { s with pending := r }) ∧
  (∀ s : State, s.pending = [] → step s = .next (copyDumps (tick s)) ∧ (copyDumps (tick s)).ticks = s.ticks + 1) ∧
  (∀ (c : Instr) (s : State), ∃ t, exec c s = .next t)

/-- After reset the device is in BOOT with SAFE_ST 0b00, ERR_OUT_N and ALIVE low, every context IDLE with generation 0,
every bead 0, the slot map straight, the host port disabled and the ring bypassed (R7, R34, R36, R54, R236, R320, R417,
R496, R511); memory and pins are in their canonical form.
Model's choices in it: log 6. -/
def Obligations.ResetStateIsAsTheSpecSays : Prop :=
  State.reset.dev = .boot ∧ State.reset.pins.safeSt = 0 ∧ State.reset.pins.errOutN = false ∧
  State.reset.pins.alive = false ∧ State.reset.pins.thermAlertN = true ∧ State.reset.pins.pmbAlertN = true ∧
  State.reset.pins.xspiRstN = false ∧
  (∀ c, (State.reset.ctx c).state = .idle ∧ (State.reset.ctx c).gen = 0 ∧ (State.reset.ctx c).latched = none) ∧
  (∀ p i, State.reset.bead p i = 0) ∧ (∀ q, (State.reset.queue q).entries = []) ∧
  (∀ p r, (State.reset.prt p).slotMap.get r = r) ∧ (∀ r : Fin 17, (State.reset.ring r).en = false) ∧
  State.reset.rng.bypass = true ∧ State.reset.img = [] ∧ State.reset.pending = [] ∧
  State.reset.memOk ∧ State.reset.pinsOk

/-- In every state that a step reaches SAFE_ST is what R320 lays down for that state, and never the code 0b11. -/
def Obligations.SafeStFollowsItsRuleAtEveryStep : Prop :=
  ∀ s t : State, s.pinsOk → step s = .next t → t.pinsOk ∧ t.pins.safeSt ≠ 3

/-- The memory operations keep the canonical form; a write is read back and leaves every other byte; memories in canonical
form that read alike are equal (R234, log 6).
Model's choices in it: log 6. -/
def Obligations.MemoryKeepsItsCanonicalForm : Prop :=
  ∀ (d : Byte) (m : List Host.Cell), memWf d m →
    (∀ a b, memWf d (memPut d m a b) ∧ (∀ i, i < b.length → memGet d (memPut d m a b) (a + i) = b.getD i 0) ∧
      (∀ k, (k < a ∨ a + b.length ≤ k) → memGet d (memPut d m a b) k = memGet d m k)) ∧
    (∀ a n, memWf d (memErase m a n) ∧ (∀ k, a ≤ k → k < a + n → memGet d (memErase m a n) k = d) ∧
      (∀ k, (k < a ∨ a + n ≤ k) → memGet d (memErase m a n) k = memGet d m k)) ∧
    (∀ a n i, i < n → (memRead d m a n).getD i 0 = memGet d m (a + i)) ∧
    (∀ m', memWf d m' → (∀ k, memGet d m' k = memGet d m k) → m' = m)

/-! ### Rules stated whole -/

/-- R56 whole: a descriptor with WAIT_EN at the head of a queue does not start, and nothing behind it does, while
(int32)(B − WAIT_THRESH) is negative; once it is not, the wait is over. The test is made anew in every state. A head that fails
its check (R44, R45) faults its context whether or not it waits, as another statement says. -/
def Obligations.HeadOfAQueueWaitsForItsBead : Prop :=
  ∀ (s : State) (q : QueueId) (e : QEntry) (r : List QEntry), (s.queue q).entries = e :: r →
    (hdrOf e.bytes).waitEn = true →
    ((s.bead (qPart q) (hdrOf e.bytes).waitBead - (hdrOf e.bytes).thresh).toInt < 0 →
      s.waitDone q (hdrOf e.bytes) = false ∧
      (∀ c x, engineOf c = some x → x.queue = q → s.headFault q = none → ∃ t, exec c s = .next t ∧ s.keeps [] t) ∧
      (∀ c, s.headFault q = none → (c = .nop q ∨ c = .fence q ∨ ∃ i, q = .core i .mq ∧ (c = .pair i ∨ c = .splitOp i)) →
        ∃ t, exec c s = .next t ∧ s.keeps [] t)) ∧
    (0 ≤ (s.bead (qPart q) (hdrOf e.bytes).waitBead - (hdrOf e.bytes).thresh).toInt →
      s.waitDone q (hdrOf e.bytes) = true)

/-- R40 whole: the frame number is 0 for the first frame after STARTING, goes up by 1 at each frame start, wraps modulo
2^32, and a discarded trigger does not consume one. Every frame starts through `frameStart`, and every
trigger fires through `trigger`, whatever caused it. -/
def Obligations.FrameNumbersCountUpAndWrap : Prop :=
  (∀ (s : State) (c : CtxId), ((enterStarting s c).ctx c).nextFrame = 0) ∧
  (∀ (s : State) (c : CtxId) (l : Latched) (late : Bool),
    ((frameStart s c l late).ctx c).frameNum = (s.ctx c).nextFrame ∧
    ((frameStart s c l late).ctx c).nextFrame.toNat = ((s.ctx c).nextFrame.toNat + 1) % 2 ^ 32) ∧
  (∀ (s : State) (c : CtxId), (s.ctx c).state = .starting → s.canLoad c = true →
    ∃ t, exec (.listsLoaded c) s = .next t ∧ (t.ctx c).nextFrame = (s.ctx c).nextFrame) ∧
  (∀ (s : State) (c : CtxId) (k : Instr), (s.ctx c).state = .run → s.dev ≠ .replay → s.seqHeld c = false →
    (s.ctx c).frame.inFlight = false →
    (k = .scheduleTrigger c ∧ s.arrivalTrig c = false ∨
      k = .arrivalTimeout c ∧ s.arrivalTrig c = true ∧ (s.ctx c).arrived ≠ 0) →
    ∃ t, exec k s = .next t ∧ (t.ctx c).frameNum = (s.ctx c).nextFrame ∧
      (t.ctx c).nextFrame.toNat = ((s.ctx c).nextFrame.toNat + 1) % 2 ^ 32) ∧
  (∀ (s : State) (c : CtxId) (l : Latched), (s.ctx c).state = .run → s.arrivalTrig c = false → s.dev ≠ .replay →
    (s.ctx c).frame.inFlight = true → (s.ctx c).latched = some l →
    ∃ t, exec (.scheduleTrigger c) s = .next t ∧ (t.ctx c).nextFrame = (s.ctx c).nextFrame ∧
      (t.ctx c).frameNum = (s.ctx c).frameNum) ∧
  (∀ (s : State) (c : CtxId) (flags : U32) (missing : U64), (s.ctx c).latched.isSome = true →
    ((s.ctx c).frame.inFlight = true ∨ s.seqHeld c = true) →
    ((trigger s c flags missing).ctx c).nextFrame = (s.ctx c).nextFrame ∧
    ((trigger s c flags missing).ctx c).frameNum = (s.ctx c).frameNum)
end

