-- ==== Sys2Proof/Laws/State.lean ====
section
/-!
SUPPORT. Laws/State.lean: what each update of a unit of State leaves alone, one lemma for each field, and what it writes.
-/

namespace Sys2Proof.Machine

/-! ### onCore -/

@[simp] theorem State.part_onCore (s : State) (i : CoreId) (f : CoreRt → CoreRt) : (s.onCore i f).part = s.part := rfl
@[simp] theorem State.dev_onCore (s : State) (i : CoreId) (f : CoreRt → CoreRt) : (s.onCore i f).dev = s.dev := rfl
@[simp] theorem State.parts_onCore (s : State) (i : CoreId) (f : CoreRt → CoreRt) : (s.onCore i f).parts = s.parts := rfl
@[simp] theorem State.ctxs_onCore (s : State) (i : CoreId) (f : CoreRt → CoreRt) : (s.onCore i f).ctxs = s.ctxs := rfl
@[simp] theorem State.io_onCore (s : State) (i : CoreId) (f : CoreRt → CoreRt) : (s.onCore i f).io = s.io := rfl
@[simp] theorem State.mcs_onCore (s : State) (i : CoreId) (f : CoreRt → CoreRt) : (s.onCore i f).mcs = s.mcs := rfl
@[simp] theorem State.stks_onCore (s : State) (i : CoreId) (f : CoreRt → CoreRt) : (s.onCore i f).stks = s.stks := rfl
@[simp] theorem State.mem_onCore (s : State) (i : CoreId) (f : CoreRt → CoreRt) : (s.onCore i f).mem = s.mem := rfl
@[simp] theorem State.bad_onCore (s : State) (i : CoreId) (f : CoreRt → CoreRt) : (s.onCore i f).bad = s.bad := rfl
@[simp] theorem State.linkDown_onCore (s : State) (i : CoreId) (f : CoreRt → CoreRt) : (s.onCore i f).linkDown = s.linkDown := rfl
@[simp] theorem State.mirrors_onCore (s : State) (i : CoreId) (f : CoreRt → CoreRt) : (s.onCore i f).mirrors = s.mirrors := rfl
@[simp] theorem State.lineOwner_onCore (s : State) (i : CoreId) (f : CoreRt → CoreRt) : (s.onCore i f).lineOwner = s.lineOwner := rfl
@[simp] theorem State.img_onCore (s : State) (i : CoreId) (f : CoreRt → CoreRt) : (s.onCore i f).img = s.img := rfl
@[simp] theorem State.tb_onCore (s : State) (i : CoreId) (f : CoreRt → CoreRt) : (s.onCore i f).tb = s.tb := rfl
@[simp] theorem State.tly_onCore (s : State) (i : CoreId) (f : CoreRt → CoreRt) : (s.onCore i f).tly = s.tly := rfl
@[simp] theorem State.err_onCore (s : State) (i : CoreId) (f : CoreRt → CoreRt) : (s.onCore i f).err = s.err := rfl
@[simp] theorem State.hst_onCore (s : State) (i : CoreId) (f : CoreRt → CoreRt) : (s.onCore i f).hst = s.hst := rfl
@[simp] theorem State.pwr_onCore (s : State) (i : CoreId) (f : CoreRt → CoreRt) : (s.onCore i f).pwr = s.pwr := rfl
@[simp] theorem State.boot_onCore (s : State) (i : CoreId) (f : CoreRt → CoreRt) : (s.onCore i f).boot = s.boot := rfl
@[simp] theorem State.fwp_onCore (s : State) (i : CoreId) (f : CoreRt → CoreRt) : (s.onCore i f).fwp = s.fwp := rfl
@[simp] theorem State.rng_onCore (s : State) (i : CoreId) (f : CoreRt → CoreRt) : (s.onCore i f).rng = s.rng := rfl
@[simp] theorem State.lks_onCore (s : State) (i : CoreId) (f : CoreRt → CoreRt) : (s.onCore i f).lks = s.lks := rfl
@[simp] theorem State.recd_onCore (s : State) (i : CoreId) (f : CoreRt → CoreRt) : (s.onCore i f).recd = s.recd := rfl
@[simp] theorem State.rep_onCore (s : State) (i : CoreId) (f : CoreRt → CoreRt) : (s.onCore i f).rep = s.rep := rfl
@[simp] theorem State.pins_onCore (s : State) (i : CoreId) (f : CoreRt → CoreRt) : (s.onCore i f).pins = s.pins := rfl
@[simp] theorem State.ticks_onCore (s : State) (i : CoreId) (f : CoreRt → CoreRt) : (s.onCore i f).ticks = s.ticks := rfl
@[simp] theorem State.free_onCore (s : State) (i : CoreId) (f : CoreRt → CoreRt) : (s.onCore i f).free = s.free := rfl
@[simp] theorem State.out_onCore (s : State) (i : CoreId) (f : CoreRt → CoreRt) : (s.onCore i f).out = s.out := rfl
@[simp] theorem State.pending_onCore (s : State) (i : CoreId) (f : CoreRt → CoreRt) : (s.onCore i f).pending = s.pending := rfl
@[simp] theorem State.prt_onCore (s : State) (i : CoreId) (f : CoreRt → CoreRt) (m : PartId) : (s.onCore i f).prt m = s.prt m := rfl
@[simp] theorem State.ctx_onCore (s : State) (i : CoreId) (f : CoreRt → CoreRt) (m : CtxId) : (s.onCore i f).ctx m = s.ctx m := rfl
@[simp] theorem State.die_onCore (s : State) (i : CoreId) (f : CoreRt → CoreRt) (m : DieId) : (s.onCore i f).die m = s.die m := rfl

/-! ### onPart -/

@[simp] theorem State.part_onPart (s : State) (p : PartId) (f : PartRt → PartRt) : (s.onPart p f).part = s.part := rfl
@[simp] theorem State.dev_onPart (s : State) (p : PartId) (f : PartRt → PartRt) : (s.onPart p f).dev = s.dev := rfl
@[simp] theorem State.cores_onPart (s : State) (p : PartId) (f : PartRt → PartRt) : (s.onPart p f).cores = s.cores := rfl
@[simp] theorem State.ctxs_onPart (s : State) (p : PartId) (f : PartRt → PartRt) : (s.onPart p f).ctxs = s.ctxs := rfl
@[simp] theorem State.io_onPart (s : State) (p : PartId) (f : PartRt → PartRt) : (s.onPart p f).io = s.io := rfl
@[simp] theorem State.mcs_onPart (s : State) (p : PartId) (f : PartRt → PartRt) : (s.onPart p f).mcs = s.mcs := rfl
@[simp] theorem State.stks_onPart (s : State) (p : PartId) (f : PartRt → PartRt) : (s.onPart p f).stks = s.stks := rfl
@[simp] theorem State.mem_onPart (s : State) (p : PartId) (f : PartRt → PartRt) : (s.onPart p f).mem = s.mem := rfl
@[simp] theorem State.bad_onPart (s : State) (p : PartId) (f : PartRt → PartRt) : (s.onPart p f).bad = s.bad := rfl
@[simp] theorem State.linkDown_onPart (s : State) (p : PartId) (f : PartRt → PartRt) : (s.onPart p f).linkDown = s.linkDown := rfl
@[simp] theorem State.mirrors_onPart (s : State) (p : PartId) (f : PartRt → PartRt) : (s.onPart p f).mirrors = s.mirrors := rfl
@[simp] theorem State.lineOwner_onPart (s : State) (p : PartId) (f : PartRt → PartRt) : (s.onPart p f).lineOwner = s.lineOwner := rfl
@[simp] theorem State.img_onPart (s : State) (p : PartId) (f : PartRt → PartRt) : (s.onPart p f).img = s.img := rfl
@[simp] theorem State.tb_onPart (s : State) (p : PartId) (f : PartRt → PartRt) : (s.onPart p f).tb = s.tb := rfl
@[simp] theorem State.tly_onPart (s : State) (p : PartId) (f : PartRt → PartRt) : (s.onPart p f).tly = s.tly := rfl
@[simp] theorem State.err_onPart (s : State) (p : PartId) (f : PartRt → PartRt) : (s.onPart p f).err = s.err := rfl
@[simp] theorem State.hst_onPart (s : State) (p : PartId) (f : PartRt → PartRt) : (s.onPart p f).hst = s.hst := rfl
@[simp] theorem State.pwr_onPart (s : State) (p : PartId) (f : PartRt → PartRt) : (s.onPart p f).pwr = s.pwr := rfl
@[simp] theorem State.boot_onPart (s : State) (p : PartId) (f : PartRt → PartRt) : (s.onPart p f).boot = s.boot := rfl
@[simp] theorem State.fwp_onPart (s : State) (p : PartId) (f : PartRt → PartRt) : (s.onPart p f).fwp = s.fwp := rfl
@[simp] theorem State.rng_onPart (s : State) (p : PartId) (f : PartRt → PartRt) : (s.onPart p f).rng = s.rng := rfl
@[simp] theorem State.lks_onPart (s : State) (p : PartId) (f : PartRt → PartRt) : (s.onPart p f).lks = s.lks := rfl
@[simp] theorem State.recd_onPart (s : State) (p : PartId) (f : PartRt → PartRt) : (s.onPart p f).recd = s.recd := rfl
@[simp] theorem State.rep_onPart (s : State) (p : PartId) (f : PartRt → PartRt) : (s.onPart p f).rep = s.rep := rfl
@[simp] theorem State.pins_onPart (s : State) (p : PartId) (f : PartRt → PartRt) : (s.onPart p f).pins = s.pins := rfl
@[simp] theorem State.ticks_onPart (s : State) (p : PartId) (f : PartRt → PartRt) : (s.onPart p f).ticks = s.ticks := rfl
@[simp] theorem State.free_onPart (s : State) (p : PartId) (f : PartRt → PartRt) : (s.onPart p f).free = s.free := rfl
@[simp] theorem State.out_onPart (s : State) (p : PartId) (f : PartRt → PartRt) : (s.onPart p f).out = s.out := rfl
@[simp] theorem State.pending_onPart (s : State) (p : PartId) (f : PartRt → PartRt) : (s.onPart p f).pending = s.pending := rfl
@[simp] theorem State.core_onPart (s : State) (p : PartId) (f : PartRt → PartRt) (m : CoreId) : (s.onPart p f).core m = s.core m := rfl
@[simp] theorem State.ctx_onPart (s : State) (p : PartId) (f : PartRt → PartRt) (m : CtxId) : (s.onPart p f).ctx m = s.ctx m := rfl
@[simp] theorem State.die_onPart (s : State) (p : PartId) (f : PartRt → PartRt) (m : DieId) : (s.onPart p f).die m = s.die m := rfl

/-! ### onCtx -/

@[simp] theorem State.part_onCtx (s : State) (c : CtxId) (f : CtxRt → CtxRt) : (s.onCtx c f).part = s.part := rfl
@[simp] theorem State.dev_onCtx (s : State) (c : CtxId) (f : CtxRt → CtxRt) : (s.onCtx c f).dev = s.dev := rfl
@[simp] theorem State.cores_onCtx (s : State) (c : CtxId) (f : CtxRt → CtxRt) : (s.onCtx c f).cores = s.cores := rfl
@[simp] theorem State.parts_onCtx (s : State) (c : CtxId) (f : CtxRt → CtxRt) : (s.onCtx c f).parts = s.parts := rfl
@[simp] theorem State.io_onCtx (s : State) (c : CtxId) (f : CtxRt → CtxRt) : (s.onCtx c f).io = s.io := rfl
@[simp] theorem State.mcs_onCtx (s : State) (c : CtxId) (f : CtxRt → CtxRt) : (s.onCtx c f).mcs = s.mcs := rfl
@[simp] theorem State.stks_onCtx (s : State) (c : CtxId) (f : CtxRt → CtxRt) : (s.onCtx c f).stks = s.stks := rfl
@[simp] theorem State.mem_onCtx (s : State) (c : CtxId) (f : CtxRt → CtxRt) : (s.onCtx c f).mem = s.mem := rfl
@[simp] theorem State.bad_onCtx (s : State) (c : CtxId) (f : CtxRt → CtxRt) : (s.onCtx c f).bad = s.bad := rfl
@[simp] theorem State.linkDown_onCtx (s : State) (c : CtxId) (f : CtxRt → CtxRt) : (s.onCtx c f).linkDown = s.linkDown := rfl
@[simp] theorem State.mirrors_onCtx (s : State) (c : CtxId) (f : CtxRt → CtxRt) : (s.onCtx c f).mirrors = s.mirrors := rfl
@[simp] theorem State.lineOwner_onCtx (s : State) (c : CtxId) (f : CtxRt → CtxRt) : (s.onCtx c f).lineOwner = s.lineOwner := rfl
@[simp] theorem State.img_onCtx (s : State) (c : CtxId) (f : CtxRt → CtxRt) : (s.onCtx c f).img = s.img := rfl
@[simp] theorem State.tb_onCtx (s : State) (c : CtxId) (f : CtxRt → CtxRt) : (s.onCtx c f).tb = s.tb := rfl
@[simp] theorem State.tly_onCtx (s : State) (c : CtxId) (f : CtxRt → CtxRt) : (s.onCtx c f).tly = s.tly := rfl
@[simp] theorem State.err_onCtx (s : State) (c : CtxId) (f : CtxRt → CtxRt) : (s.onCtx c f).err = s.err := rfl
@[simp] theorem State.hst_onCtx (s : State) (c : CtxId) (f : CtxRt → CtxRt) : (s.onCtx c f).hst = s.hst := rfl
@[simp] theorem State.pwr_onCtx (s : State) (c : CtxId) (f : CtxRt → CtxRt) : (s.onCtx c f).pwr = s.pwr := rfl
@[simp] theorem State.boot_onCtx (s : State) (c : CtxId) (f : CtxRt → CtxRt) : (s.onCtx c f).boot = s.boot := rfl
@[simp] theorem State.fwp_onCtx (s : State) (c : CtxId) (f : CtxRt → CtxRt) : (s.onCtx c f).fwp = s.fwp := rfl
@[simp] theorem State.rng_onCtx (s : State) (c : CtxId) (f : CtxRt → CtxRt) : (s.onCtx c f).rng = s.rng := rfl
@[simp] theorem State.lks_onCtx (s : State) (c : CtxId) (f : CtxRt → CtxRt) : (s.onCtx c f).lks = s.lks := rfl
@[simp] theorem State.recd_onCtx (s : State) (c : CtxId) (f : CtxRt → CtxRt) : (s.onCtx c f).recd = s.recd := rfl
@[simp] theorem State.rep_onCtx (s : State) (c : CtxId) (f : CtxRt → CtxRt) : (s.onCtx c f).rep = s.rep := rfl
@[simp] theorem State.pins_onCtx (s : State) (c : CtxId) (f : CtxRt → CtxRt) : (s.onCtx c f).pins = s.pins := rfl
@[simp] theorem State.ticks_onCtx (s : State) (c : CtxId) (f : CtxRt → CtxRt) : (s.onCtx c f).ticks = s.ticks := rfl
@[simp] theorem State.free_onCtx (s : State) (c : CtxId) (f : CtxRt → CtxRt) : (s.onCtx c f).free = s.free := rfl
@[simp] theorem State.out_onCtx (s : State) (c : CtxId) (f : CtxRt → CtxRt) : (s.onCtx c f).out = s.out := rfl
@[simp] theorem State.pending_onCtx (s : State) (c : CtxId) (f : CtxRt → CtxRt) : (s.onCtx c f).pending = s.pending := rfl
@[simp] theorem State.core_onCtx (s : State) (c : CtxId) (f : CtxRt → CtxRt) (m : CoreId) : (s.onCtx c f).core m = s.core m := rfl
@[simp] theorem State.prt_onCtx (s : State) (c : CtxId) (f : CtxRt → CtxRt) (m : PartId) : (s.onCtx c f).prt m = s.prt m := rfl
@[simp] theorem State.die_onCtx (s : State) (c : CtxId) (f : CtxRt → CtxRt) (m : DieId) : (s.onCtx c f).die m = s.die m := rfl

/-! ### onFrame -/

@[simp] theorem State.part_onFrame (s : State) (c : CtxId) (f : FrameRt → FrameRt) : (s.onFrame c f).part = s.part := rfl
@[simp] theorem State.dev_onFrame (s : State) (c : CtxId) (f : FrameRt → FrameRt) : (s.onFrame c f).dev = s.dev := rfl
@[simp] theorem State.cores_onFrame (s : State) (c : CtxId) (f : FrameRt → FrameRt) : (s.onFrame c f).cores = s.cores := rfl
@[simp] theorem State.parts_onFrame (s : State) (c : CtxId) (f : FrameRt → FrameRt) : (s.onFrame c f).parts = s.parts := rfl
@[simp] theorem State.io_onFrame (s : State) (c : CtxId) (f : FrameRt → FrameRt) : (s.onFrame c f).io = s.io := rfl
@[simp] theorem State.mcs_onFrame (s : State) (c : CtxId) (f : FrameRt → FrameRt) : (s.onFrame c f).mcs = s.mcs := rfl
@[simp] theorem State.stks_onFrame (s : State) (c : CtxId) (f : FrameRt → FrameRt) : (s.onFrame c f).stks = s.stks := rfl
@[simp] theorem State.mem_onFrame (s : State) (c : CtxId) (f : FrameRt → FrameRt) : (s.onFrame c f).mem = s.mem := rfl
@[simp] theorem State.bad_onFrame (s : State) (c : CtxId) (f : FrameRt → FrameRt) : (s.onFrame c f).bad = s.bad := rfl
@[simp] theorem State.linkDown_onFrame (s : State) (c : CtxId) (f : FrameRt → FrameRt) : (s.onFrame c f).linkDown = s.linkDown := rfl
@[simp] theorem State.mirrors_onFrame (s : State) (c : CtxId) (f : FrameRt → FrameRt) : (s.onFrame c f).mirrors = s.mirrors := rfl
@[simp] theorem State.lineOwner_onFrame (s : State) (c : CtxId) (f : FrameRt → FrameRt) : (s.onFrame c f).lineOwner = s.lineOwner := rfl
@[simp] theorem State.img_onFrame (s : State) (c : CtxId) (f : FrameRt → FrameRt) : (s.onFrame c f).img = s.img := rfl
@[simp] theorem State.tb_onFrame (s : State) (c : CtxId) (f : FrameRt → FrameRt) : (s.onFrame c f).tb = s.tb := rfl
@[simp] theorem State.tly_onFrame (s : State) (c : CtxId) (f : FrameRt → FrameRt) : (s.onFrame c f).tly = s.tly := rfl
@[simp] theorem State.err_onFrame (s : State) (c : CtxId) (f : FrameRt → FrameRt) : (s.onFrame c f).err = s.err := rfl
@[simp] theorem State.hst_onFrame (s : State) (c : CtxId) (f : FrameRt → FrameRt) : (s.onFrame c f).hst = s.hst := rfl
@[simp] theorem State.pwr_onFrame (s : State) (c : CtxId) (f : FrameRt → FrameRt) : (s.onFrame c f).pwr = s.pwr := rfl
@[simp] theorem State.boot_onFrame (s : State) (c : CtxId) (f : FrameRt → FrameRt) : (s.onFrame c f).boot = s.boot := rfl
@[simp] theorem State.fwp_onFrame (s : State) (c : CtxId) (f : FrameRt → FrameRt) : (s.onFrame c f).fwp = s.fwp := rfl
@[simp] theorem State.rng_onFrame (s : State) (c : CtxId) (f : FrameRt → FrameRt) : (s.onFrame c f).rng = s.rng := rfl
@[simp] theorem State.lks_onFrame (s : State) (c : CtxId) (f : FrameRt → FrameRt) : (s.onFrame c f).lks = s.lks := rfl
@[simp] theorem State.recd_onFrame (s : State) (c : CtxId) (f : FrameRt → FrameRt) : (s.onFrame c f).recd = s.recd := rfl
@[simp] theorem State.rep_onFrame (s : State) (c : CtxId) (f : FrameRt → FrameRt) : (s.onFrame c f).rep = s.rep := rfl
@[simp] theorem State.pins_onFrame (s : State) (c : CtxId) (f : FrameRt → FrameRt) : (s.onFrame c f).pins = s.pins := rfl
@[simp] theorem State.ticks_onFrame (s : State) (c : CtxId) (f : FrameRt → FrameRt) : (s.onFrame c f).ticks = s.ticks := rfl
@[simp] theorem State.free_onFrame (s : State) (c : CtxId) (f : FrameRt → FrameRt) : (s.onFrame c f).free = s.free := rfl
@[simp] theorem State.out_onFrame (s : State) (c : CtxId) (f : FrameRt → FrameRt) : (s.onFrame c f).out = s.out := rfl
@[simp] theorem State.pending_onFrame (s : State) (c : CtxId) (f : FrameRt → FrameRt) : (s.onFrame c f).pending = s.pending := rfl
@[simp] theorem State.core_onFrame (s : State) (c : CtxId) (f : FrameRt → FrameRt) (m : CoreId) : (s.onFrame c f).core m = s.core m := rfl
@[simp] theorem State.prt_onFrame (s : State) (c : CtxId) (f : FrameRt → FrameRt) (m : PartId) : (s.onFrame c f).prt m = s.prt m := rfl
@[simp] theorem State.die_onFrame (s : State) (c : CtxId) (f : FrameRt → FrameRt) (m : DieId) : (s.onFrame c f).die m = s.die m := rfl

/-! ### onDie -/

@[simp] theorem State.part_onDie (s : State) (d : DieId) (f : IoDie → IoDie) : (s.onDie d f).part = s.part := rfl
@[simp] theorem State.dev_onDie (s : State) (d : DieId) (f : IoDie → IoDie) : (s.onDie d f).dev = s.dev := rfl
@[simp] theorem State.cores_onDie (s : State) (d : DieId) (f : IoDie → IoDie) : (s.onDie d f).cores = s.cores := rfl
@[simp] theorem State.parts_onDie (s : State) (d : DieId) (f : IoDie → IoDie) : (s.onDie d f).parts = s.parts := rfl
@[simp] theorem State.ctxs_onDie (s : State) (d : DieId) (f : IoDie → IoDie) : (s.onDie d f).ctxs = s.ctxs := rfl
@[simp] theorem State.mcs_onDie (s : State) (d : DieId) (f : IoDie → IoDie) : (s.onDie d f).mcs = s.mcs := rfl
@[simp] theorem State.stks_onDie (s : State) (d : DieId) (f : IoDie → IoDie) : (s.onDie d f).stks = s.stks := rfl
@[simp] theorem State.mem_onDie (s : State) (d : DieId) (f : IoDie → IoDie) : (s.onDie d f).mem = s.mem := rfl
@[simp] theorem State.bad_onDie (s : State) (d : DieId) (f : IoDie → IoDie) : (s.onDie d f).bad = s.bad := rfl
@[simp] theorem State.linkDown_onDie (s : State) (d : DieId) (f : IoDie → IoDie) : (s.onDie d f).linkDown = s.linkDown := rfl
@[simp] theorem State.mirrors_onDie (s : State) (d : DieId) (f : IoDie → IoDie) : (s.onDie d f).mirrors = s.mirrors := rfl
@[simp] theorem State.lineOwner_onDie (s : State) (d : DieId) (f : IoDie → IoDie) : (s.onDie d f).lineOwner = s.lineOwner := rfl
@[simp] theorem State.img_onDie (s : State) (d : DieId) (f : IoDie → IoDie) : (s.onDie d f).img = s.img := rfl
@[simp] theorem State.tb_onDie (s : State) (d : DieId) (f : IoDie → IoDie) : (s.onDie d f).tb = s.tb := rfl
@[simp] theorem State.tly_onDie (s : State) (d : DieId) (f : IoDie → IoDie) : (s.onDie d f).tly = s.tly := rfl
@[simp] theorem State.err_onDie (s : State) (d : DieId) (f : IoDie → IoDie) : (s.onDie d f).err = s.err := rfl
@[simp] theorem State.hst_onDie (s : State) (d : DieId) (f : IoDie → IoDie) : (s.onDie d f).hst = s.hst := rfl
@[simp] theorem State.pwr_onDie (s : State) (d : DieId) (f : IoDie → IoDie) : (s.onDie d f).pwr = s.pwr := rfl
@[simp] theorem State.boot_onDie (s : State) (d : DieId) (f : IoDie → IoDie) : (s.onDie d f).boot = s.boot := rfl
@[simp] theorem State.fwp_onDie (s : State) (d : DieId) (f : IoDie → IoDie) : (s.onDie d f).fwp = s.fwp := rfl
@[simp] theorem State.rng_onDie (s : State) (d : DieId) (f : IoDie → IoDie) : (s.onDie d f).rng = s.rng := rfl
@[simp] theorem State.lks_onDie (s : State) (d : DieId) (f : IoDie → IoDie) : (s.onDie d f).lks = s.lks := rfl
@[simp] theorem State.recd_onDie (s : State) (d : DieId) (f : IoDie → IoDie) : (s.onDie d f).recd = s.recd := rfl
@[simp] theorem State.rep_onDie (s : State) (d : DieId) (f : IoDie → IoDie) : (s.onDie d f).rep = s.rep := rfl
@[simp] theorem State.pins_onDie (s : State) (d : DieId) (f : IoDie → IoDie) : (s.onDie d f).pins = s.pins := rfl
@[simp] theorem State.ticks_onDie (s : State) (d : DieId) (f : IoDie → IoDie) : (s.onDie d f).ticks = s.ticks := rfl
@[simp] theorem State.free_onDie (s : State) (d : DieId) (f : IoDie → IoDie) : (s.onDie d f).free = s.free := rfl
@[simp] theorem State.out_onDie (s : State) (d : DieId) (f : IoDie → IoDie) : (s.onDie d f).out = s.out := rfl
@[simp] theorem State.pending_onDie (s : State) (d : DieId) (f : IoDie → IoDie) : (s.onDie d f).pending = s.pending := rfl
@[simp] theorem State.core_onDie (s : State) (d : DieId) (f : IoDie → IoDie) (m : CoreId) : (s.onDie d f).core m = s.core m := rfl
@[simp] theorem State.prt_onDie (s : State) (d : DieId) (f : IoDie → IoDie) (m : PartId) : (s.onDie d f).prt m = s.prt m := rfl
@[simp] theorem State.ctx_onDie (s : State) (d : DieId) (f : IoDie → IoDie) (m : CtxId) : (s.onDie d f).ctx m = s.ctx m := rfl

/-! ### onMc -/

@[simp] theorem State.part_onMc (s : State) (k : StackId) (f : McRegs → McRegs) : (s.onMc k f).part = s.part := rfl
@[simp] theorem State.dev_onMc (s : State) (k : StackId) (f : McRegs → McRegs) : (s.onMc k f).dev = s.dev := rfl
@[simp] theorem State.cores_onMc (s : State) (k : StackId) (f : McRegs → McRegs) : (s.onMc k f).cores = s.cores := rfl
@[simp] theorem State.parts_onMc (s : State) (k : StackId) (f : McRegs → McRegs) : (s.onMc k f).parts = s.parts := rfl
@[simp] theorem State.ctxs_onMc (s : State) (k : StackId) (f : McRegs → McRegs) : (s.onMc k f).ctxs = s.ctxs := rfl
@[simp] theorem State.io_onMc (s : State) (k : StackId) (f : McRegs → McRegs) : (s.onMc k f).io = s.io := rfl
@[simp] theorem State.stks_onMc (s : State) (k : StackId) (f : McRegs → McRegs) : (s.onMc k f).stks = s.stks := rfl
@[simp] theorem State.mem_onMc (s : State) (k : StackId) (f : McRegs → McRegs) : (s.onMc k f).mem = s.mem := rfl
@[simp] theorem State.bad_onMc (s : State) (k : StackId) (f : McRegs → McRegs) : (s.onMc k f).bad = s.bad := rfl
@[simp] theorem State.linkDown_onMc (s : State) (k : StackId) (f : McRegs → McRegs) : (s.onMc k f).linkDown = s.linkDown := rfl
@[simp] theorem State.mirrors_onMc (s : State) (k : StackId) (f : McRegs → McRegs) : (s.onMc k f).mirrors = s.mirrors := rfl
@[simp] theorem State.lineOwner_onMc (s : State) (k : StackId) (f : McRegs → McRegs) : (s.onMc k f).lineOwner = s.lineOwner := rfl
@[simp] theorem State.img_onMc (s : State) (k : StackId) (f : McRegs → McRegs) : (s.onMc k f).img = s.img := rfl
@[simp] theorem State.tb_onMc (s : State) (k : StackId) (f : McRegs → McRegs) : (s.onMc k f).tb = s.tb := rfl
@[simp] theorem State.tly_onMc (s : State) (k : StackId) (f : McRegs → McRegs) : (s.onMc k f).tly = s.tly := rfl
@[simp] theorem State.err_onMc (s : State) (k : StackId) (f : McRegs → McRegs) : (s.onMc k f).err = s.err := rfl
@[simp] theorem State.hst_onMc (s : State) (k : StackId) (f : McRegs → McRegs) : (s.onMc k f).hst = s.hst := rfl
@[simp] theorem State.pwr_onMc (s : State) (k : StackId) (f : McRegs → McRegs) : (s.onMc k f).pwr = s.pwr := rfl
@[simp] theorem State.boot_onMc (s : State) (k : StackId) (f : McRegs → McRegs) : (s.onMc k f).boot = s.boot := rfl
@[simp] theorem State.fwp_onMc (s : State) (k : StackId) (f : McRegs → McRegs) : (s.onMc k f).fwp = s.fwp := rfl
@[simp] theorem State.rng_onMc (s : State) (k : StackId) (f : McRegs → McRegs) : (s.onMc k f).rng = s.rng := rfl
@[simp] theorem State.lks_onMc (s : State) (k : StackId) (f : McRegs → McRegs) : (s.onMc k f).lks = s.lks := rfl
@[simp] theorem State.recd_onMc (s : State) (k : StackId) (f : McRegs → McRegs) : (s.onMc k f).recd = s.recd := rfl
@[simp] theorem State.rep_onMc (s : State) (k : StackId) (f : McRegs → McRegs) : (s.onMc k f).rep = s.rep := rfl
@[simp] theorem State.pins_onMc (s : State) (k : StackId) (f : McRegs → McRegs) : (s.onMc k f).pins = s.pins := rfl
@[simp] theorem State.ticks_onMc (s : State) (k : StackId) (f : McRegs → McRegs) : (s.onMc k f).ticks = s.ticks := rfl
@[simp] theorem State.free_onMc (s : State) (k : StackId) (f : McRegs → McRegs) : (s.onMc k f).free = s.free := rfl
@[simp] theorem State.out_onMc (s : State) (k : StackId) (f : McRegs → McRegs) : (s.onMc k f).out = s.out := rfl
@[simp] theorem State.pending_onMc (s : State) (k : StackId) (f : McRegs → McRegs) : (s.onMc k f).pending = s.pending := rfl
@[simp] theorem State.core_onMc (s : State) (k : StackId) (f : McRegs → McRegs) (m : CoreId) : (s.onMc k f).core m = s.core m := rfl
@[simp] theorem State.prt_onMc (s : State) (k : StackId) (f : McRegs → McRegs) (m : PartId) : (s.onMc k f).prt m = s.prt m := rfl
@[simp] theorem State.ctx_onMc (s : State) (k : StackId) (f : McRegs → McRegs) (m : CtxId) : (s.onMc k f).ctx m = s.ctx m := rfl
@[simp] theorem State.die_onMc (s : State) (k : StackId) (f : McRegs → McRegs) (m : DieId) : (s.onMc k f).die m = s.die m := rfl

/-! ### onStk -/

@[simp] theorem State.part_onStk (s : State) (j : Fin 2) (f : StkRegs → StkRegs) : (s.onStk j f).part = s.part := rfl
@[simp] theorem State.dev_onStk (s : State) (j : Fin 2) (f : StkRegs → StkRegs) : (s.onStk j f).dev = s.dev := rfl
@[simp] theorem State.cores_onStk (s : State) (j : Fin 2) (f : StkRegs → StkRegs) : (s.onStk j f).cores = s.cores := rfl
@[simp] theorem State.parts_onStk (s : State) (j : Fin 2) (f : StkRegs → StkRegs) : (s.onStk j f).parts = s.parts := rfl
@[simp] theorem State.ctxs_onStk (s : State) (j : Fin 2) (f : StkRegs → StkRegs) : (s.onStk j f).ctxs = s.ctxs := rfl
@[simp] theorem State.io_onStk (s : State) (j : Fin 2) (f : StkRegs → StkRegs) : (s.onStk j f).io = s.io := rfl
@[simp] theorem State.mcs_onStk (s : State) (j : Fin 2) (f : StkRegs → StkRegs) : (s.onStk j f).mcs = s.mcs := rfl
@[simp] theorem State.mem_onStk (s : State) (j : Fin 2) (f : StkRegs → StkRegs) : (s.onStk j f).mem = s.mem := rfl
@[simp] theorem State.bad_onStk (s : State) (j : Fin 2) (f : StkRegs → StkRegs) : (s.onStk j f).bad = s.bad := rfl
@[simp] theorem State.linkDown_onStk (s : State) (j : Fin 2) (f : StkRegs → StkRegs) : (s.onStk j f).linkDown = s.linkDown := rfl
@[simp] theorem State.mirrors_onStk (s : State) (j : Fin 2) (f : StkRegs → StkRegs) : (s.onStk j f).mirrors = s.mirrors := rfl
@[simp] theorem State.lineOwner_onStk (s : State) (j : Fin 2) (f : StkRegs → StkRegs) : (s.onStk j f).lineOwner = s.lineOwner := rfl
@[simp] theorem State.img_onStk (s : State) (j : Fin 2) (f : StkRegs → StkRegs) : (s.onStk j f).img = s.img := rfl
@[simp] theorem State.tb_onStk (s : State) (j : Fin 2) (f : StkRegs → StkRegs) : (s.onStk j f).tb = s.tb := rfl
@[simp] theorem State.tly_onStk (s : State) (j : Fin 2) (f : StkRegs → StkRegs) : (s.onStk j f).tly = s.tly := rfl
@[simp] theorem State.err_onStk (s : State) (j : Fin 2) (f : StkRegs → StkRegs) : (s.onStk j f).err = s.err := rfl
@[simp] theorem State.hst_onStk (s : State) (j : Fin 2) (f : StkRegs → StkRegs) : (s.onStk j f).hst = s.hst := rfl
@[simp] theorem State.pwr_onStk (s : State) (j : Fin 2) (f : StkRegs → StkRegs) : (s.onStk j f).pwr = s.pwr := rfl
@[simp] theorem State.boot_onStk (s : State) (j : Fin 2) (f : StkRegs → StkRegs) : (s.onStk j f).boot = s.boot := rfl
@[simp] theorem State.fwp_onStk (s : State) (j : Fin 2) (f : StkRegs → StkRegs) : (s.onStk j f).fwp = s.fwp := rfl
@[simp] theorem State.rng_onStk (s : State) (j : Fin 2) (f : StkRegs → StkRegs) : (s.onStk j f).rng = s.rng := rfl
@[simp] theorem State.lks_onStk (s : State) (j : Fin 2) (f : StkRegs → StkRegs) : (s.onStk j f).lks = s.lks := rfl
@[simp] theorem State.recd_onStk (s : State) (j : Fin 2) (f : StkRegs → StkRegs) : (s.onStk j f).recd = s.recd := rfl
@[simp] theorem State.rep_onStk (s : State) (j : Fin 2) (f : StkRegs → StkRegs) : (s.onStk j f).rep = s.rep := rfl
@[simp] theorem State.pins_onStk (s : State) (j : Fin 2) (f : StkRegs → StkRegs) : (s.onStk j f).pins = s.pins := rfl
@[simp] theorem State.ticks_onStk (s : State) (j : Fin 2) (f : StkRegs → StkRegs) : (s.onStk j f).ticks = s.ticks := rfl
@[simp] theorem State.free_onStk (s : State) (j : Fin 2) (f : StkRegs → StkRegs) : (s.onStk j f).free = s.free := rfl
@[simp] theorem State.out_onStk (s : State) (j : Fin 2) (f : StkRegs → StkRegs) : (s.onStk j f).out = s.out := rfl
@[simp] theorem State.pending_onStk (s : State) (j : Fin 2) (f : StkRegs → StkRegs) : (s.onStk j f).pending = s.pending := rfl
@[simp] theorem State.core_onStk (s : State) (j : Fin 2) (f : StkRegs → StkRegs) (m : CoreId) : (s.onStk j f).core m = s.core m := rfl
@[simp] theorem State.prt_onStk (s : State) (j : Fin 2) (f : StkRegs → StkRegs) (m : PartId) : (s.onStk j f).prt m = s.prt m := rfl
@[simp] theorem State.ctx_onStk (s : State) (j : Fin 2) (f : StkRegs → StkRegs) (m : CtxId) : (s.onStk j f).ctx m = s.ctx m := rfl
@[simp] theorem State.die_onStk (s : State) (j : Fin 2) (f : StkRegs → StkRegs) (m : DieId) : (s.onStk j f).die m = s.die m := rfl

/-! ### onFwp -/

@[simp] theorem State.part_onFwp (s : State) (i : Fin 7) (f : FwpRegs → FwpRegs) : (s.onFwp i f).part = s.part := rfl
@[simp] theorem State.dev_onFwp (s : State) (i : Fin 7) (f : FwpRegs → FwpRegs) : (s.onFwp i f).dev = s.dev := rfl
@[simp] theorem State.cores_onFwp (s : State) (i : Fin 7) (f : FwpRegs → FwpRegs) : (s.onFwp i f).cores = s.cores := rfl
@[simp] theorem State.parts_onFwp (s : State) (i : Fin 7) (f : FwpRegs → FwpRegs) : (s.onFwp i f).parts = s.parts := rfl
@[simp] theorem State.ctxs_onFwp (s : State) (i : Fin 7) (f : FwpRegs → FwpRegs) : (s.onFwp i f).ctxs = s.ctxs := rfl
@[simp] theorem State.io_onFwp (s : State) (i : Fin 7) (f : FwpRegs → FwpRegs) : (s.onFwp i f).io = s.io := rfl
@[simp] theorem State.mcs_onFwp (s : State) (i : Fin 7) (f : FwpRegs → FwpRegs) : (s.onFwp i f).mcs = s.mcs := rfl
@[simp] theorem State.stks_onFwp (s : State) (i : Fin 7) (f : FwpRegs → FwpRegs) : (s.onFwp i f).stks = s.stks := rfl
@[simp] theorem State.mem_onFwp (s : State) (i : Fin 7) (f : FwpRegs → FwpRegs) : (s.onFwp i f).mem = s.mem := rfl
@[simp] theorem State.bad_onFwp (s : State) (i : Fin 7) (f : FwpRegs → FwpRegs) : (s.onFwp i f).bad = s.bad := rfl
@[simp] theorem State.linkDown_onFwp (s : State) (i : Fin 7) (f : FwpRegs → FwpRegs) : (s.onFwp i f).linkDown = s.linkDown := rfl
@[simp] theorem State.mirrors_onFwp (s : State) (i : Fin 7) (f : FwpRegs → FwpRegs) : (s.onFwp i f).mirrors = s.mirrors := rfl
@[simp] theorem State.lineOwner_onFwp (s : State) (i : Fin 7) (f : FwpRegs → FwpRegs) : (s.onFwp i f).lineOwner = s.lineOwner := rfl
@[simp] theorem State.img_onFwp (s : State) (i : Fin 7) (f : FwpRegs → FwpRegs) : (s.onFwp i f).img = s.img := rfl
@[simp] theorem State.tb_onFwp (s : State) (i : Fin 7) (f : FwpRegs → FwpRegs) : (s.onFwp i f).tb = s.tb := rfl
@[simp] theorem State.tly_onFwp (s : State) (i : Fin 7) (f : FwpRegs → FwpRegs) : (s.onFwp i f).tly = s.tly := rfl
@[simp] theorem State.err_onFwp (s : State) (i : Fin 7) (f : FwpRegs → FwpRegs) : (s.onFwp i f).err = s.err := rfl
@[simp] theorem State.hst_onFwp (s : State) (i : Fin 7) (f : FwpRegs → FwpRegs) : (s.onFwp i f).hst = s.hst := rfl
@[simp] theorem State.pwr_onFwp (s : State) (i : Fin 7) (f : FwpRegs → FwpRegs) : (s.onFwp i f).pwr = s.pwr := rfl
@[simp] theorem State.boot_onFwp (s : State) (i : Fin 7) (f : FwpRegs → FwpRegs) : (s.onFwp i f).boot = s.boot := rfl
@[simp] theorem State.rng_onFwp (s : State) (i : Fin 7) (f : FwpRegs → FwpRegs) : (s.onFwp i f).rng = s.rng := rfl
@[simp] theorem State.lks_onFwp (s : State) (i : Fin 7) (f : FwpRegs → FwpRegs) : (s.onFwp i f).lks = s.lks := rfl
@[simp] theorem State.recd_onFwp (s : State) (i : Fin 7) (f : FwpRegs → FwpRegs) : (s.onFwp i f).recd = s.recd := rfl
@[simp] theorem State.rep_onFwp (s : State) (i : Fin 7) (f : FwpRegs → FwpRegs) : (s.onFwp i f).rep = s.rep := rfl
@[simp] theorem State.pins_onFwp (s : State) (i : Fin 7) (f : FwpRegs → FwpRegs) : (s.onFwp i f).pins = s.pins := rfl
@[simp] theorem State.ticks_onFwp (s : State) (i : Fin 7) (f : FwpRegs → FwpRegs) : (s.onFwp i f).ticks = s.ticks := rfl
@[simp] theorem State.free_onFwp (s : State) (i : Fin 7) (f : FwpRegs → FwpRegs) : (s.onFwp i f).free = s.free := rfl
@[simp] theorem State.out_onFwp (s : State) (i : Fin 7) (f : FwpRegs → FwpRegs) : (s.onFwp i f).out = s.out := rfl
@[simp] theorem State.pending_onFwp (s : State) (i : Fin 7) (f : FwpRegs → FwpRegs) : (s.onFwp i f).pending = s.pending := rfl
@[simp] theorem State.core_onFwp (s : State) (i : Fin 7) (f : FwpRegs → FwpRegs) (m : CoreId) : (s.onFwp i f).core m = s.core m := rfl
@[simp] theorem State.prt_onFwp (s : State) (i : Fin 7) (f : FwpRegs → FwpRegs) (m : PartId) : (s.onFwp i f).prt m = s.prt m := rfl
@[simp] theorem State.ctx_onFwp (s : State) (i : Fin 7) (f : FwpRegs → FwpRegs) (m : CtxId) : (s.onFwp i f).ctx m = s.ctx m := rfl
@[simp] theorem State.die_onFwp (s : State) (i : Fin 7) (f : FwpRegs → FwpRegs) (m : DieId) : (s.onFwp i f).die m = s.die m := rfl

/-! ### onLks -/

@[simp] theorem State.part_onLks (s : State) (i : Fin 4) (f : LksRegs → LksRegs) : (s.onLks i f).part = s.part := rfl
@[simp] theorem State.dev_onLks (s : State) (i : Fin 4) (f : LksRegs → LksRegs) : (s.onLks i f).dev = s.dev := rfl
@[simp] theorem State.cores_onLks (s : State) (i : Fin 4) (f : LksRegs → LksRegs) : (s.onLks i f).cores = s.cores := rfl
@[simp] theorem State.parts_onLks (s : State) (i : Fin 4) (f : LksRegs → LksRegs) : (s.onLks i f).parts = s.parts := rfl
@[simp] theorem State.ctxs_onLks (s : State) (i : Fin 4) (f : LksRegs → LksRegs) : (s.onLks i f).ctxs = s.ctxs := rfl
@[simp] theorem State.io_onLks (s : State) (i : Fin 4) (f : LksRegs → LksRegs) : (s.onLks i f).io = s.io := rfl
@[simp] theorem State.mcs_onLks (s : State) (i : Fin 4) (f : LksRegs → LksRegs) : (s.onLks i f).mcs = s.mcs := rfl
@[simp] theorem State.stks_onLks (s : State) (i : Fin 4) (f : LksRegs → LksRegs) : (s.onLks i f).stks = s.stks := rfl
@[simp] theorem State.mem_onLks (s : State) (i : Fin 4) (f : LksRegs → LksRegs) : (s.onLks i f).mem = s.mem := rfl
@[simp] theorem State.bad_onLks (s : State) (i : Fin 4) (f : LksRegs → LksRegs) : (s.onLks i f).bad = s.bad := rfl
@[simp] theorem State.linkDown_onLks (s : State) (i : Fin 4) (f : LksRegs → LksRegs) : (s.onLks i f).linkDown = s.linkDown := rfl
@[simp] theorem State.mirrors_onLks (s : State) (i : Fin 4) (f : LksRegs → LksRegs) : (s.onLks i f).mirrors = s.mirrors := rfl
@[simp] theorem State.lineOwner_onLks (s : State) (i : Fin 4) (f : LksRegs → LksRegs) : (s.onLks i f).lineOwner = s.lineOwner := rfl
@[simp] theorem State.img_onLks (s : State) (i : Fin 4) (f : LksRegs → LksRegs) : (s.onLks i f).img = s.img := rfl
@[simp] theorem State.tb_onLks (s : State) (i : Fin 4) (f : LksRegs → LksRegs) : (s.onLks i f).tb = s.tb := rfl
@[simp] theorem State.tly_onLks (s : State) (i : Fin 4) (f : LksRegs → LksRegs) : (s.onLks i f).tly = s.tly := rfl
@[simp] theorem State.err_onLks (s : State) (i : Fin 4) (f : LksRegs → LksRegs) : (s.onLks i f).err = s.err := rfl
@[simp] theorem State.hst_onLks (s : State) (i : Fin 4) (f : LksRegs → LksRegs) : (s.onLks i f).hst = s.hst := rfl
@[simp] theorem State.pwr_onLks (s : State) (i : Fin 4) (f : LksRegs → LksRegs) : (s.onLks i f).pwr = s.pwr := rfl
@[simp] theorem State.boot_onLks (s : State) (i : Fin 4) (f : LksRegs → LksRegs) : (s.onLks i f).boot = s.boot := rfl
@[simp] theorem State.fwp_onLks (s : State) (i : Fin 4) (f : LksRegs → LksRegs) : (s.onLks i f).fwp = s.fwp := rfl
@[simp] theorem State.rng_onLks (s : State) (i : Fin 4) (f : LksRegs → LksRegs) : (s.onLks i f).rng = s.rng := rfl
@[simp] theorem State.recd_onLks (s : State) (i : Fin 4) (f : LksRegs → LksRegs) : (s.onLks i f).recd = s.recd := rfl
@[simp] theorem State.rep_onLks (s : State) (i : Fin 4) (f : LksRegs → LksRegs) : (s.onLks i f).rep = s.rep := rfl
@[simp] theorem State.pins_onLks (s : State) (i : Fin 4) (f : LksRegs → LksRegs) : (s.onLks i f).pins = s.pins := rfl
@[simp] theorem State.ticks_onLks (s : State) (i : Fin 4) (f : LksRegs → LksRegs) : (s.onLks i f).ticks = s.ticks := rfl
@[simp] theorem State.free_onLks (s : State) (i : Fin 4) (f : LksRegs → LksRegs) : (s.onLks i f).free = s.free := rfl
@[simp] theorem State.out_onLks (s : State) (i : Fin 4) (f : LksRegs → LksRegs) : (s.onLks i f).out = s.out := rfl
@[simp] theorem State.pending_onLks (s : State) (i : Fin 4) (f : LksRegs → LksRegs) : (s.onLks i f).pending = s.pending := rfl
@[simp] theorem State.core_onLks (s : State) (i : Fin 4) (f : LksRegs → LksRegs) (m : CoreId) : (s.onLks i f).core m = s.core m := rfl
@[simp] theorem State.prt_onLks (s : State) (i : Fin 4) (f : LksRegs → LksRegs) (m : PartId) : (s.onLks i f).prt m = s.prt m := rfl
@[simp] theorem State.ctx_onLks (s : State) (i : Fin 4) (f : LksRegs → LksRegs) (m : CtxId) : (s.onLks i f).ctx m = s.ctx m := rfl
@[simp] theorem State.die_onLks (s : State) (i : Fin 4) (f : LksRegs → LksRegs) (m : DieId) : (s.onLks i f).die m = s.die m := rfl

/-! ### onCam -/

@[simp] theorem State.part_onCam (s : State) (d : DieId) (i : Fin 32) (f : CamRt → CamRt) : (s.onCam d i f).part = s.part := rfl
@[simp] theorem State.dev_onCam (s : State) (d : DieId) (i : Fin 32) (f : CamRt → CamRt) : (s.onCam d i f).dev = s.dev := rfl
@[simp] theorem State.cores_onCam (s : State) (d : DieId) (i : Fin 32) (f : CamRt → CamRt) : (s.onCam d i f).cores = s.cores := rfl
@[simp] theorem State.parts_onCam (s : State) (d : DieId) (i : Fin 32) (f : CamRt → CamRt) : (s.onCam d i f).parts = s.parts := rfl
@[simp] theorem State.ctxs_onCam (s : State) (d : DieId) (i : Fin 32) (f : CamRt → CamRt) : (s.onCam d i f).ctxs = s.ctxs := rfl
@[simp] theorem State.mcs_onCam (s : State) (d : DieId) (i : Fin 32) (f : CamRt → CamRt) : (s.onCam d i f).mcs = s.mcs := rfl
@[simp] theorem State.stks_onCam (s : State) (d : DieId) (i : Fin 32) (f : CamRt → CamRt) : (s.onCam d i f).stks = s.stks := rfl
@[simp] theorem State.mem_onCam (s : State) (d : DieId) (i : Fin 32) (f : CamRt → CamRt) : (s.onCam d i f).mem = s.mem := rfl
@[simp] theorem State.bad_onCam (s : State) (d : DieId) (i : Fin 32) (f : CamRt → CamRt) : (s.onCam d i f).bad = s.bad := rfl
@[simp] theorem State.linkDown_onCam (s : State) (d : DieId) (i : Fin 32) (f : CamRt → CamRt) : (s.onCam d i f).linkDown = s.linkDown := rfl
@[simp] theorem State.mirrors_onCam (s : State) (d : DieId) (i : Fin 32) (f : CamRt → CamRt) : (s.onCam d i f).mirrors = s.mirrors := rfl
@[simp] theorem State.lineOwner_onCam (s : State) (d : DieId) (i : Fin 32) (f : CamRt → CamRt) : (s.onCam d i f).lineOwner = s.lineOwner := rfl
@[simp] theorem State.img_onCam (s : State) (d : DieId) (i : Fin 32) (f : CamRt → CamRt) : (s.onCam d i f).img = s.img := rfl
@[simp] theorem State.tb_onCam (s : State) (d : DieId) (i : Fin 32) (f : CamRt → CamRt) : (s.onCam d i f).tb = s.tb := rfl
@[simp] theorem State.tly_onCam (s : State) (d : DieId) (i : Fin 32) (f : CamRt → CamRt) : (s.onCam d i f).tly = s.tly := rfl
@[simp] theorem State.err_onCam (s : State) (d : DieId) (i : Fin 32) (f : CamRt → CamRt) : (s.onCam d i f).err = s.err := rfl
@[simp] theorem State.hst_onCam (s : State) (d : DieId) (i : Fin 32) (f : CamRt → CamRt) : (s.onCam d i f).hst = s.hst := rfl
@[simp] theorem State.pwr_onCam (s : State) (d : DieId) (i : Fin 32) (f : CamRt → CamRt) : (s.onCam d i f).pwr = s.pwr := rfl
@[simp] theorem State.boot_onCam (s : State) (d : DieId) (i : Fin 32) (f : CamRt → CamRt) : (s.onCam d i f).boot = s.boot := rfl
@[simp] theorem State.fwp_onCam (s : State) (d : DieId) (i : Fin 32) (f : CamRt → CamRt) : (s.onCam d i f).fwp = s.fwp := rfl
@[simp] theorem State.rng_onCam (s : State) (d : DieId) (i : Fin 32) (f : CamRt → CamRt) : (s.onCam d i f).rng = s.rng := rfl
@[simp] theorem State.lks_onCam (s : State) (d : DieId) (i : Fin 32) (f : CamRt → CamRt) : (s.onCam d i f).lks = s.lks := rfl
@[simp] theorem State.recd_onCam (s : State) (d : DieId) (i : Fin 32) (f : CamRt → CamRt) : (s.onCam d i f).recd = s.recd := rfl
@[simp] theorem State.rep_onCam (s : State) (d : DieId) (i : Fin 32) (f : CamRt → CamRt) : (s.onCam d i f).rep = s.rep := rfl
@[simp] theorem State.pins_onCam (s : State) (d : DieId) (i : Fin 32) (f : CamRt → CamRt) : (s.onCam d i f).pins = s.pins := rfl
@[simp] theorem State.ticks_onCam (s : State) (d : DieId) (i : Fin 32) (f : CamRt → CamRt) : (s.onCam d i f).ticks = s.ticks := rfl
@[simp] theorem State.free_onCam (s : State) (d : DieId) (i : Fin 32) (f : CamRt → CamRt) : (s.onCam d i f).free = s.free := rfl
@[simp] theorem State.out_onCam (s : State) (d : DieId) (i : Fin 32) (f : CamRt → CamRt) : (s.onCam d i f).out = s.out := rfl
@[simp] theorem State.pending_onCam (s : State) (d : DieId) (i : Fin 32) (f : CamRt → CamRt) : (s.onCam d i f).pending = s.pending := rfl
@[simp] theorem State.core_onCam (s : State) (d : DieId) (i : Fin 32) (f : CamRt → CamRt) (m : CoreId) : (s.onCam d i f).core m = s.core m := rfl
@[simp] theorem State.prt_onCam (s : State) (d : DieId) (i : Fin 32) (f : CamRt → CamRt) (m : PartId) : (s.onCam d i f).prt m = s.prt m := rfl
@[simp] theorem State.ctx_onCam (s : State) (d : DieId) (i : Fin 32) (f : CamRt → CamRt) (m : CtxId) : (s.onCam d i f).ctx m = s.ctx m := rfl

/-! ### onFlow -/

@[simp] theorem State.part_onFlow (s : State) (d : DieId) (i : Fin 16) (f : FlowRt → FlowRt) : (s.onFlow d i f).part = s.part := rfl
@[simp] theorem State.dev_onFlow (s : State) (d : DieId) (i : Fin 16) (f : FlowRt → FlowRt) : (s.onFlow d i f).dev = s.dev := rfl
@[simp] theorem State.cores_onFlow (s : State) (d : DieId) (i : Fin 16) (f : FlowRt → FlowRt) : (s.onFlow d i f).cores = s.cores := rfl
@[simp] theorem State.parts_onFlow (s : State) (d : DieId) (i : Fin 16) (f : FlowRt → FlowRt) : (s.onFlow d i f).parts = s.parts := rfl
@[simp] theorem State.ctxs_onFlow (s : State) (d : DieId) (i : Fin 16) (f : FlowRt → FlowRt) : (s.onFlow d i f).ctxs = s.ctxs := rfl
@[simp] theorem State.mcs_onFlow (s : State) (d : DieId) (i : Fin 16) (f : FlowRt → FlowRt) : (s.onFlow d i f).mcs = s.mcs := rfl
@[simp] theorem State.stks_onFlow (s : State) (d : DieId) (i : Fin 16) (f : FlowRt → FlowRt) : (s.onFlow d i f).stks = s.stks := rfl
@[simp] theorem State.mem_onFlow (s : State) (d : DieId) (i : Fin 16) (f : FlowRt → FlowRt) : (s.onFlow d i f).mem = s.mem := rfl
@[simp] theorem State.bad_onFlow (s : State) (d : DieId) (i : Fin 16) (f : FlowRt → FlowRt) : (s.onFlow d i f).bad = s.bad := rfl
@[simp] theorem State.linkDown_onFlow (s : State) (d : DieId) (i : Fin 16) (f : FlowRt → FlowRt) : (s.onFlow d i f).linkDown = s.linkDown := rfl
@[simp] theorem State.mirrors_onFlow (s : State) (d : DieId) (i : Fin 16) (f : FlowRt → FlowRt) : (s.onFlow d i f).mirrors = s.mirrors := rfl
@[simp] theorem State.lineOwner_onFlow (s : State) (d : DieId) (i : Fin 16) (f : FlowRt → FlowRt) : (s.onFlow d i f).lineOwner = s.lineOwner := rfl
@[simp] theorem State.img_onFlow (s : State) (d : DieId) (i : Fin 16) (f : FlowRt → FlowRt) : (s.onFlow d i f).img = s.img := rfl
@[simp] theorem State.tb_onFlow (s : State) (d : DieId) (i : Fin 16) (f : FlowRt → FlowRt) : (s.onFlow d i f).tb = s.tb := rfl
@[simp] theorem State.tly_onFlow (s : State) (d : DieId) (i : Fin 16) (f : FlowRt → FlowRt) : (s.onFlow d i f).tly = s.tly := rfl
@[simp] theorem State.err_onFlow (s : State) (d : DieId) (i : Fin 16) (f : FlowRt → FlowRt) : (s.onFlow d i f).err = s.err := rfl
@[simp] theorem State.hst_onFlow (s : State) (d : DieId) (i : Fin 16) (f : FlowRt → FlowRt) : (s.onFlow d i f).hst = s.hst := rfl
@[simp] theorem State.pwr_onFlow (s : State) (d : DieId) (i : Fin 16) (f : FlowRt → FlowRt) : (s.onFlow d i f).pwr = s.pwr := rfl
@[simp] theorem State.boot_onFlow (s : State) (d : DieId) (i : Fin 16) (f : FlowRt → FlowRt) : (s.onFlow d i f).boot = s.boot := rfl
@[simp] theorem State.fwp_onFlow (s : State) (d : DieId) (i : Fin 16) (f : FlowRt → FlowRt) : (s.onFlow d i f).fwp = s.fwp := rfl
@[simp] theorem State.rng_onFlow (s : State) (d : DieId) (i : Fin 16) (f : FlowRt → FlowRt) : (s.onFlow d i f).rng = s.rng := rfl
@[simp] theorem State.lks_onFlow (s : State) (d : DieId) (i : Fin 16) (f : FlowRt → FlowRt) : (s.onFlow d i f).lks = s.lks := rfl
@[simp] theorem State.recd_onFlow (s : State) (d : DieId) (i : Fin 16) (f : FlowRt → FlowRt) : (s.onFlow d i f).recd = s.recd := rfl
@[simp] theorem State.rep_onFlow (s : State) (d : DieId) (i : Fin 16) (f : FlowRt → FlowRt) : (s.onFlow d i f).rep = s.rep := rfl
@[simp] theorem State.pins_onFlow (s : State) (d : DieId) (i : Fin 16) (f : FlowRt → FlowRt) : (s.onFlow d i f).pins = s.pins := rfl
@[simp] theorem State.ticks_onFlow (s : State) (d : DieId) (i : Fin 16) (f : FlowRt → FlowRt) : (s.onFlow d i f).ticks = s.ticks := rfl
@[simp] theorem State.free_onFlow (s : State) (d : DieId) (i : Fin 16) (f : FlowRt → FlowRt) : (s.onFlow d i f).free = s.free := rfl
@[simp] theorem State.out_onFlow (s : State) (d : DieId) (i : Fin 16) (f : FlowRt → FlowRt) : (s.onFlow d i f).out = s.out := rfl
@[simp] theorem State.pending_onFlow (s : State) (d : DieId) (i : Fin 16) (f : FlowRt → FlowRt) : (s.onFlow d i f).pending = s.pending := rfl
@[simp] theorem State.core_onFlow (s : State) (d : DieId) (i : Fin 16) (f : FlowRt → FlowRt) (m : CoreId) : (s.onFlow d i f).core m = s.core m := rfl
@[simp] theorem State.prt_onFlow (s : State) (d : DieId) (i : Fin 16) (f : FlowRt → FlowRt) (m : PartId) : (s.onFlow d i f).prt m = s.prt m := rfl
@[simp] theorem State.ctx_onFlow (s : State) (d : DieId) (i : Fin 16) (f : FlowRt → FlowRt) (m : CtxId) : (s.onFlow d i f).ctx m = s.ctx m := rfl

/-! ### onCsi -/

@[simp] theorem State.part_onCsi (s : State) (d : DieId) (i : PortId) (f : CsiRegs → CsiRegs) : (s.onCsi d i f).part = s.part := rfl
@[simp] theorem State.dev_onCsi (s : State) (d : DieId) (i : PortId) (f : CsiRegs → CsiRegs) : (s.onCsi d i f).dev = s.dev := rfl
@[simp] theorem State.cores_onCsi (s : State) (d : DieId) (i : PortId) (f : CsiRegs → CsiRegs) : (s.onCsi d i f).cores = s.cores := rfl
@[simp] theorem State.parts_onCsi (s : State) (d : DieId) (i : PortId) (f : CsiRegs → CsiRegs) : (s.onCsi d i f).parts = s.parts := rfl
@[simp] theorem State.ctxs_onCsi (s : State) (d : DieId) (i : PortId) (f : CsiRegs → CsiRegs) : (s.onCsi d i f).ctxs = s.ctxs := rfl
@[simp] theorem State.mcs_onCsi (s : State) (d : DieId) (i : PortId) (f : CsiRegs → CsiRegs) : (s.onCsi d i f).mcs = s.mcs := rfl
@[simp] theorem State.stks_onCsi (s : State) (d : DieId) (i : PortId) (f : CsiRegs → CsiRegs) : (s.onCsi d i f).stks = s.stks := rfl
@[simp] theorem State.mem_onCsi (s : State) (d : DieId) (i : PortId) (f : CsiRegs → CsiRegs) : (s.onCsi d i f).mem = s.mem := rfl
@[simp] theorem State.bad_onCsi (s : State) (d : DieId) (i : PortId) (f : CsiRegs → CsiRegs) : (s.onCsi d i f).bad = s.bad := rfl
@[simp] theorem State.linkDown_onCsi (s : State) (d : DieId) (i : PortId) (f : CsiRegs → CsiRegs) : (s.onCsi d i f).linkDown = s.linkDown := rfl
@[simp] theorem State.mirrors_onCsi (s : State) (d : DieId) (i : PortId) (f : CsiRegs → CsiRegs) : (s.onCsi d i f).mirrors = s.mirrors := rfl
@[simp] theorem State.lineOwner_onCsi (s : State) (d : DieId) (i : PortId) (f : CsiRegs → CsiRegs) : (s.onCsi d i f).lineOwner = s.lineOwner := rfl
@[simp] theorem State.img_onCsi (s : State) (d : DieId) (i : PortId) (f : CsiRegs → CsiRegs) : (s.onCsi d i f).img = s.img := rfl
@[simp] theorem State.tb_onCsi (s : State) (d : DieId) (i : PortId) (f : CsiRegs → CsiRegs) : (s.onCsi d i f).tb = s.tb := rfl
@[simp] theorem State.tly_onCsi (s : State) (d : DieId) (i : PortId) (f : CsiRegs → CsiRegs) : (s.onCsi d i f).tly = s.tly := rfl
@[simp] theorem State.err_onCsi (s : State) (d : DieId) (i : PortId) (f : CsiRegs → CsiRegs) : (s.onCsi d i f).err = s.err := rfl
@[simp] theorem State.hst_onCsi (s : State) (d : DieId) (i : PortId) (f : CsiRegs → CsiRegs) : (s.onCsi d i f).hst = s.hst := rfl
@[simp] theorem State.pwr_onCsi (s : State) (d : DieId) (i : PortId) (f : CsiRegs → CsiRegs) : (s.onCsi d i f).pwr = s.pwr := rfl
@[simp] theorem State.boot_onCsi (s : State) (d : DieId) (i : PortId) (f : CsiRegs → CsiRegs) : (s.onCsi d i f).boot = s.boot := rfl
@[simp] theorem State.fwp_onCsi (s : State) (d : DieId) (i : PortId) (f : CsiRegs → CsiRegs) : (s.onCsi d i f).fwp = s.fwp := rfl
@[simp] theorem State.rng_onCsi (s : State) (d : DieId) (i : PortId) (f : CsiRegs → CsiRegs) : (s.onCsi d i f).rng = s.rng := rfl
@[simp] theorem State.lks_onCsi (s : State) (d : DieId) (i : PortId) (f : CsiRegs → CsiRegs) : (s.onCsi d i f).lks = s.lks := rfl
@[simp] theorem State.recd_onCsi (s : State) (d : DieId) (i : PortId) (f : CsiRegs → CsiRegs) : (s.onCsi d i f).recd = s.recd := rfl
@[simp] theorem State.rep_onCsi (s : State) (d : DieId) (i : PortId) (f : CsiRegs → CsiRegs) : (s.onCsi d i f).rep = s.rep := rfl
@[simp] theorem State.pins_onCsi (s : State) (d : DieId) (i : PortId) (f : CsiRegs → CsiRegs) : (s.onCsi d i f).pins = s.pins := rfl
@[simp] theorem State.ticks_onCsi (s : State) (d : DieId) (i : PortId) (f : CsiRegs → CsiRegs) : (s.onCsi d i f).ticks = s.ticks := rfl
@[simp] theorem State.free_onCsi (s : State) (d : DieId) (i : PortId) (f : CsiRegs → CsiRegs) : (s.onCsi d i f).free = s.free := rfl
@[simp] theorem State.out_onCsi (s : State) (d : DieId) (i : PortId) (f : CsiRegs → CsiRegs) : (s.onCsi d i f).out = s.out := rfl
@[simp] theorem State.pending_onCsi (s : State) (d : DieId) (i : PortId) (f : CsiRegs → CsiRegs) : (s.onCsi d i f).pending = s.pending := rfl
@[simp] theorem State.core_onCsi (s : State) (d : DieId) (i : PortId) (f : CsiRegs → CsiRegs) (m : CoreId) : (s.onCsi d i f).core m = s.core m := rfl
@[simp] theorem State.prt_onCsi (s : State) (d : DieId) (i : PortId) (f : CsiRegs → CsiRegs) (m : PartId) : (s.onCsi d i f).prt m = s.prt m := rfl
@[simp] theorem State.ctx_onCsi (s : State) (d : DieId) (i : PortId) (f : CsiRegs → CsiRegs) (m : CtxId) : (s.onCsi d i f).ctx m = s.ctx m := rfl

/-! ### onMac -/

@[simp] theorem State.part_onMac (s : State) (d : DieId) (i : MacId) (f : MacRegs → MacRegs) : (s.onMac d i f).part = s.part := rfl
@[simp] theorem State.dev_onMac (s : State) (d : DieId) (i : MacId) (f : MacRegs → MacRegs) : (s.onMac d i f).dev = s.dev := rfl
@[simp] theorem State.cores_onMac (s : State) (d : DieId) (i : MacId) (f : MacRegs → MacRegs) : (s.onMac d i f).cores = s.cores := rfl
@[simp] theorem State.parts_onMac (s : State) (d : DieId) (i : MacId) (f : MacRegs → MacRegs) : (s.onMac d i f).parts = s.parts := rfl
@[simp] theorem State.ctxs_onMac (s : State) (d : DieId) (i : MacId) (f : MacRegs → MacRegs) : (s.onMac d i f).ctxs = s.ctxs := rfl
@[simp] theorem State.mcs_onMac (s : State) (d : DieId) (i : MacId) (f : MacRegs → MacRegs) : (s.onMac d i f).mcs = s.mcs := rfl
@[simp] theorem State.stks_onMac (s : State) (d : DieId) (i : MacId) (f : MacRegs → MacRegs) : (s.onMac d i f).stks = s.stks := rfl
@[simp] theorem State.mem_onMac (s : State) (d : DieId) (i : MacId) (f : MacRegs → MacRegs) : (s.onMac d i f).mem = s.mem := rfl
@[simp] theorem State.bad_onMac (s : State) (d : DieId) (i : MacId) (f : MacRegs → MacRegs) : (s.onMac d i f).bad = s.bad := rfl
@[simp] theorem State.linkDown_onMac (s : State) (d : DieId) (i : MacId) (f : MacRegs → MacRegs) : (s.onMac d i f).linkDown = s.linkDown := rfl
@[simp] theorem State.mirrors_onMac (s : State) (d : DieId) (i : MacId) (f : MacRegs → MacRegs) : (s.onMac d i f).mirrors = s.mirrors := rfl
@[simp] theorem State.lineOwner_onMac (s : State) (d : DieId) (i : MacId) (f : MacRegs → MacRegs) : (s.onMac d i f).lineOwner = s.lineOwner := rfl
@[simp] theorem State.img_onMac (s : State) (d : DieId) (i : MacId) (f : MacRegs → MacRegs) : (s.onMac d i f).img = s.img := rfl
@[simp] theorem State.tb_onMac (s : State) (d : DieId) (i : MacId) (f : MacRegs → MacRegs) : (s.onMac d i f).tb = s.tb := rfl
@[simp] theorem State.tly_onMac (s : State) (d : DieId) (i : MacId) (f : MacRegs → MacRegs) : (s.onMac d i f).tly = s.tly := rfl
@[simp] theorem State.err_onMac (s : State) (d : DieId) (i : MacId) (f : MacRegs → MacRegs) : (s.onMac d i f).err = s.err := rfl
@[simp] theorem State.hst_onMac (s : State) (d : DieId) (i : MacId) (f : MacRegs → MacRegs) : (s.onMac d i f).hst = s.hst := rfl
@[simp] theorem State.pwr_onMac (s : State) (d : DieId) (i : MacId) (f : MacRegs → MacRegs) : (s.onMac d i f).pwr = s.pwr := rfl
@[simp] theorem State.boot_onMac (s : State) (d : DieId) (i : MacId) (f : MacRegs → MacRegs) : (s.onMac d i f).boot = s.boot := rfl
@[simp] theorem State.fwp_onMac (s : State) (d : DieId) (i : MacId) (f : MacRegs → MacRegs) : (s.onMac d i f).fwp = s.fwp := rfl
@[simp] theorem State.rng_onMac (s : State) (d : DieId) (i : MacId) (f : MacRegs → MacRegs) : (s.onMac d i f).rng = s.rng := rfl
@[simp] theorem State.lks_onMac (s : State) (d : DieId) (i : MacId) (f : MacRegs → MacRegs) : (s.onMac d i f).lks = s.lks := rfl
@[simp] theorem State.recd_onMac (s : State) (d : DieId) (i : MacId) (f : MacRegs → MacRegs) : (s.onMac d i f).recd = s.recd := rfl
@[simp] theorem State.rep_onMac (s : State) (d : DieId) (i : MacId) (f : MacRegs → MacRegs) : (s.onMac d i f).rep = s.rep := rfl
@[simp] theorem State.pins_onMac (s : State) (d : DieId) (i : MacId) (f : MacRegs → MacRegs) : (s.onMac d i f).pins = s.pins := rfl
@[simp] theorem State.ticks_onMac (s : State) (d : DieId) (i : MacId) (f : MacRegs → MacRegs) : (s.onMac d i f).ticks = s.ticks := rfl
@[simp] theorem State.free_onMac (s : State) (d : DieId) (i : MacId) (f : MacRegs → MacRegs) : (s.onMac d i f).free = s.free := rfl
@[simp] theorem State.out_onMac (s : State) (d : DieId) (i : MacId) (f : MacRegs → MacRegs) : (s.onMac d i f).out = s.out := rfl
@[simp] theorem State.pending_onMac (s : State) (d : DieId) (i : MacId) (f : MacRegs → MacRegs) : (s.onMac d i f).pending = s.pending := rfl
@[simp] theorem State.core_onMac (s : State) (d : DieId) (i : MacId) (f : MacRegs → MacRegs) (m : CoreId) : (s.onMac d i f).core m = s.core m := rfl
@[simp] theorem State.prt_onMac (s : State) (d : DieId) (i : MacId) (f : MacRegs → MacRegs) (m : PartId) : (s.onMac d i f).prt m = s.prt m := rfl
@[simp] theorem State.ctx_onMac (s : State) (d : DieId) (i : MacId) (f : MacRegs → MacRegs) (m : CtxId) : (s.onMac d i f).ctx m = s.ctx m := rfl

/-! ### onCru -/

@[simp] theorem State.part_onCru (s : State) (d : DieId) (i : Fin 2) (f : CruRegs → CruRegs) : (s.onCru d i f).part = s.part := rfl
@[simp] theorem State.dev_onCru (s : State) (d : DieId) (i : Fin 2) (f : CruRegs → CruRegs) : (s.onCru d i f).dev = s.dev := rfl
@[simp] theorem State.cores_onCru (s : State) (d : DieId) (i : Fin 2) (f : CruRegs → CruRegs) : (s.onCru d i f).cores = s.cores := rfl
@[simp] theorem State.parts_onCru (s : State) (d : DieId) (i : Fin 2) (f : CruRegs → CruRegs) : (s.onCru d i f).parts = s.parts := rfl
@[simp] theorem State.ctxs_onCru (s : State) (d : DieId) (i : Fin 2) (f : CruRegs → CruRegs) : (s.onCru d i f).ctxs = s.ctxs := rfl
@[simp] theorem State.mcs_onCru (s : State) (d : DieId) (i : Fin 2) (f : CruRegs → CruRegs) : (s.onCru d i f).mcs = s.mcs := rfl
@[simp] theorem State.stks_onCru (s : State) (d : DieId) (i : Fin 2) (f : CruRegs → CruRegs) : (s.onCru d i f).stks = s.stks := rfl
@[simp] theorem State.mem_onCru (s : State) (d : DieId) (i : Fin 2) (f : CruRegs → CruRegs) : (s.onCru d i f).mem = s.mem := rfl
@[simp] theorem State.bad_onCru (s : State) (d : DieId) (i : Fin 2) (f : CruRegs → CruRegs) : (s.onCru d i f).bad = s.bad := rfl
@[simp] theorem State.linkDown_onCru (s : State) (d : DieId) (i : Fin 2) (f : CruRegs → CruRegs) : (s.onCru d i f).linkDown = s.linkDown := rfl
@[simp] theorem State.mirrors_onCru (s : State) (d : DieId) (i : Fin 2) (f : CruRegs → CruRegs) : (s.onCru d i f).mirrors = s.mirrors := rfl
@[simp] theorem State.lineOwner_onCru (s : State) (d : DieId) (i : Fin 2) (f : CruRegs → CruRegs) : (s.onCru d i f).lineOwner = s.lineOwner := rfl
@[simp] theorem State.img_onCru (s : State) (d : DieId) (i : Fin 2) (f : CruRegs → CruRegs) : (s.onCru d i f).img = s.img := rfl
@[simp] theorem State.tb_onCru (s : State) (d : DieId) (i : Fin 2) (f : CruRegs → CruRegs) : (s.onCru d i f).tb = s.tb := rfl
@[simp] theorem State.tly_onCru (s : State) (d : DieId) (i : Fin 2) (f : CruRegs → CruRegs) : (s.onCru d i f).tly = s.tly := rfl
@[simp] theorem State.err_onCru (s : State) (d : DieId) (i : Fin 2) (f : CruRegs → CruRegs) : (s.onCru d i f).err = s.err := rfl
@[simp] theorem State.hst_onCru (s : State) (d : DieId) (i : Fin 2) (f : CruRegs → CruRegs) : (s.onCru d i f).hst = s.hst := rfl
@[simp] theorem State.pwr_onCru (s : State) (d : DieId) (i : Fin 2) (f : CruRegs → CruRegs) : (s.onCru d i f).pwr = s.pwr := rfl
@[simp] theorem State.boot_onCru (s : State) (d : DieId) (i : Fin 2) (f : CruRegs → CruRegs) : (s.onCru d i f).boot = s.boot := rfl
@[simp] theorem State.fwp_onCru (s : State) (d : DieId) (i : Fin 2) (f : CruRegs → CruRegs) : (s.onCru d i f).fwp = s.fwp := rfl
@[simp] theorem State.rng_onCru (s : State) (d : DieId) (i : Fin 2) (f : CruRegs → CruRegs) : (s.onCru d i f).rng = s.rng := rfl
@[simp] theorem State.lks_onCru (s : State) (d : DieId) (i : Fin 2) (f : CruRegs → CruRegs) : (s.onCru d i f).lks = s.lks := rfl
@[simp] theorem State.recd_onCru (s : State) (d : DieId) (i : Fin 2) (f : CruRegs → CruRegs) : (s.onCru d i f).recd = s.recd := rfl
@[simp] theorem State.rep_onCru (s : State) (d : DieId) (i : Fin 2) (f : CruRegs → CruRegs) : (s.onCru d i f).rep = s.rep := rfl
@[simp] theorem State.pins_onCru (s : State) (d : DieId) (i : Fin 2) (f : CruRegs → CruRegs) : (s.onCru d i f).pins = s.pins := rfl
@[simp] theorem State.ticks_onCru (s : State) (d : DieId) (i : Fin 2) (f : CruRegs → CruRegs) : (s.onCru d i f).ticks = s.ticks := rfl
@[simp] theorem State.free_onCru (s : State) (d : DieId) (i : Fin 2) (f : CruRegs → CruRegs) : (s.onCru d i f).free = s.free := rfl
@[simp] theorem State.out_onCru (s : State) (d : DieId) (i : Fin 2) (f : CruRegs → CruRegs) : (s.onCru d i f).out = s.out := rfl
@[simp] theorem State.pending_onCru (s : State) (d : DieId) (i : Fin 2) (f : CruRegs → CruRegs) : (s.onCru d i f).pending = s.pending := rfl
@[simp] theorem State.core_onCru (s : State) (d : DieId) (i : Fin 2) (f : CruRegs → CruRegs) (m : CoreId) : (s.onCru d i f).core m = s.core m := rfl
@[simp] theorem State.prt_onCru (s : State) (d : DieId) (i : Fin 2) (f : CruRegs → CruRegs) (m : PartId) : (s.onCru d i f).prt m = s.prt m := rfl
@[simp] theorem State.ctx_onCru (s : State) (d : DieId) (i : Fin 2) (f : CruRegs → CruRegs) (m : CtxId) : (s.onCru d i f).ctx m = s.ctx m := rfl

/-! ### setBead -/

@[simp] theorem State.part_setBead (s : State) (p : PartId) (i : Nat) (v : U32) : (s.setBead p i v).part = s.part := rfl
@[simp] theorem State.dev_setBead (s : State) (p : PartId) (i : Nat) (v : U32) : (s.setBead p i v).dev = s.dev := rfl
@[simp] theorem State.cores_setBead (s : State) (p : PartId) (i : Nat) (v : U32) : (s.setBead p i v).cores = s.cores := rfl
@[simp] theorem State.ctxs_setBead (s : State) (p : PartId) (i : Nat) (v : U32) : (s.setBead p i v).ctxs = s.ctxs := rfl
@[simp] theorem State.io_setBead (s : State) (p : PartId) (i : Nat) (v : U32) : (s.setBead p i v).io = s.io := rfl
@[simp] theorem State.mcs_setBead (s : State) (p : PartId) (i : Nat) (v : U32) : (s.setBead p i v).mcs = s.mcs := rfl
@[simp] theorem State.stks_setBead (s : State) (p : PartId) (i : Nat) (v : U32) : (s.setBead p i v).stks = s.stks := rfl
@[simp] theorem State.mem_setBead (s : State) (p : PartId) (i : Nat) (v : U32) : (s.setBead p i v).mem = s.mem := rfl
@[simp] theorem State.bad_setBead (s : State) (p : PartId) (i : Nat) (v : U32) : (s.setBead p i v).bad = s.bad := rfl
@[simp] theorem State.linkDown_setBead (s : State) (p : PartId) (i : Nat) (v : U32) : (s.setBead p i v).linkDown = s.linkDown := rfl
@[simp] theorem State.mirrors_setBead (s : State) (p : PartId) (i : Nat) (v : U32) : (s.setBead p i v).mirrors = s.mirrors := rfl
@[simp] theorem State.lineOwner_setBead (s : State) (p : PartId) (i : Nat) (v : U32) : (s.setBead p i v).lineOwner = s.lineOwner := rfl
@[simp] theorem State.img_setBead (s : State) (p : PartId) (i : Nat) (v : U32) : (s.setBead p i v).img = s.img := rfl
@[simp] theorem State.tb_setBead (s : State) (p : PartId) (i : Nat) (v : U32) : (s.setBead p i v).tb = s.tb := rfl
@[simp] theorem State.tly_setBead (s : State) (p : PartId) (i : Nat) (v : U32) : (s.setBead p i v).tly = s.tly := rfl
@[simp] theorem State.err_setBead (s : State) (p : PartId) (i : Nat) (v : U32) : (s.setBead p i v).err = s.err := rfl
@[simp] theorem State.hst_setBead (s : State) (p : PartId) (i : Nat) (v : U32) : (s.setBead p i v).hst = s.hst := rfl
@[simp] theorem State.pwr_setBead (s : State) (p : PartId) (i : Nat) (v : U32) : (s.setBead p i v).pwr = s.pwr := rfl
@[simp] theorem State.boot_setBead (s : State) (p : PartId) (i : Nat) (v : U32) : (s.setBead p i v).boot = s.boot := rfl
@[simp] theorem State.fwp_setBead (s : State) (p : PartId) (i : Nat) (v : U32) : (s.setBead p i v).fwp = s.fwp := rfl
@[simp] theorem State.rng_setBead (s : State) (p : PartId) (i : Nat) (v : U32) : (s.setBead p i v).rng = s.rng := rfl
@[simp] theorem State.lks_setBead (s : State) (p : PartId) (i : Nat) (v : U32) : (s.setBead p i v).lks = s.lks := rfl
@[simp] theorem State.recd_setBead (s : State) (p : PartId) (i : Nat) (v : U32) : (s.setBead p i v).recd = s.recd := rfl
@[simp] theorem State.rep_setBead (s : State) (p : PartId) (i : Nat) (v : U32) : (s.setBead p i v).rep = s.rep := rfl
@[simp] theorem State.pins_setBead (s : State) (p : PartId) (i : Nat) (v : U32) : (s.setBead p i v).pins = s.pins := rfl
@[simp] theorem State.ticks_setBead (s : State) (p : PartId) (i : Nat) (v : U32) : (s.setBead p i v).ticks = s.ticks := rfl
@[simp] theorem State.free_setBead (s : State) (p : PartId) (i : Nat) (v : U32) : (s.setBead p i v).free = s.free := rfl
@[simp] theorem State.out_setBead (s : State) (p : PartId) (i : Nat) (v : U32) : (s.setBead p i v).out = s.out := rfl
@[simp] theorem State.pending_setBead (s : State) (p : PartId) (i : Nat) (v : U32) : (s.setBead p i v).pending = s.pending := rfl
@[simp] theorem State.core_setBead (s : State) (p : PartId) (i : Nat) (v : U32) (m : CoreId) : (s.setBead p i v).core m = s.core m := rfl
@[simp] theorem State.ctx_setBead (s : State) (p : PartId) (i : Nat) (v : U32) (m : CtxId) : (s.setBead p i v).ctx m = s.ctx m := rfl
@[simp] theorem State.die_setBead (s : State) (p : PartId) (i : Nat) (v : U32) (m : DieId) : (s.setBead p i v).die m = s.die m := rfl

/-! ### addBead -/

@[simp] theorem State.part_addBead (s : State) (p : PartId) (i n : Nat) : (s.addBead p i n).part = s.part := rfl
@[simp] theorem State.dev_addBead (s : State) (p : PartId) (i n : Nat) : (s.addBead p i n).dev = s.dev := rfl
@[simp] theorem State.cores_addBead (s : State) (p : PartId) (i n : Nat) : (s.addBead p i n).cores = s.cores := rfl
@[simp] theorem State.ctxs_addBead (s : State) (p : PartId) (i n : Nat) : (s.addBead p i n).ctxs = s.ctxs := rfl
@[simp] theorem State.io_addBead (s : State) (p : PartId) (i n : Nat) : (s.addBead p i n).io = s.io := rfl
@[simp] theorem State.mcs_addBead (s : State) (p : PartId) (i n : Nat) : (s.addBead p i n).mcs = s.mcs := rfl
@[simp] theorem State.stks_addBead (s : State) (p : PartId) (i n : Nat) : (s.addBead p i n).stks = s.stks := rfl
@[simp] theorem State.mem_addBead (s : State) (p : PartId) (i n : Nat) : (s.addBead p i n).mem = s.mem := rfl
@[simp] theorem State.bad_addBead (s : State) (p : PartId) (i n : Nat) : (s.addBead p i n).bad = s.bad := rfl
@[simp] theorem State.linkDown_addBead (s : State) (p : PartId) (i n : Nat) : (s.addBead p i n).linkDown = s.linkDown := rfl
@[simp] theorem State.mirrors_addBead (s : State) (p : PartId) (i n : Nat) : (s.addBead p i n).mirrors = s.mirrors := rfl
@[simp] theorem State.lineOwner_addBead (s : State) (p : PartId) (i n : Nat) : (s.addBead p i n).lineOwner = s.lineOwner := rfl
@[simp] theorem State.img_addBead (s : State) (p : PartId) (i n : Nat) : (s.addBead p i n).img = s.img := rfl
@[simp] theorem State.tb_addBead (s : State) (p : PartId) (i n : Nat) : (s.addBead p i n).tb = s.tb := rfl
@[simp] theorem State.tly_addBead (s : State) (p : PartId) (i n : Nat) : (s.addBead p i n).tly = s.tly := rfl
@[simp] theorem State.err_addBead (s : State) (p : PartId) (i n : Nat) : (s.addBead p i n).err = s.err := rfl
@[simp] theorem State.hst_addBead (s : State) (p : PartId) (i n : Nat) : (s.addBead p i n).hst = s.hst := rfl
@[simp] theorem State.pwr_addBead (s : State) (p : PartId) (i n : Nat) : (s.addBead p i n).pwr = s.pwr := rfl
@[simp] theorem State.boot_addBead (s : State) (p : PartId) (i n : Nat) : (s.addBead p i n).boot = s.boot := rfl
@[simp] theorem State.fwp_addBead (s : State) (p : PartId) (i n : Nat) : (s.addBead p i n).fwp = s.fwp := rfl
@[simp] theorem State.rng_addBead (s : State) (p : PartId) (i n : Nat) : (s.addBead p i n).rng = s.rng := rfl
@[simp] theorem State.lks_addBead (s : State) (p : PartId) (i n : Nat) : (s.addBead p i n).lks = s.lks := rfl
@[simp] theorem State.recd_addBead (s : State) (p : PartId) (i n : Nat) : (s.addBead p i n).recd = s.recd := rfl
@[simp] theorem State.rep_addBead (s : State) (p : PartId) (i n : Nat) : (s.addBead p i n).rep = s.rep := rfl
@[simp] theorem State.pins_addBead (s : State) (p : PartId) (i n : Nat) : (s.addBead p i n).pins = s.pins := rfl
@[simp] theorem State.ticks_addBead (s : State) (p : PartId) (i n : Nat) : (s.addBead p i n).ticks = s.ticks := rfl
@[simp] theorem State.free_addBead (s : State) (p : PartId) (i n : Nat) : (s.addBead p i n).free = s.free := rfl
@[simp] theorem State.out_addBead (s : State) (p : PartId) (i n : Nat) : (s.addBead p i n).out = s.out := rfl
@[simp] theorem State.pending_addBead (s : State) (p : PartId) (i n : Nat) : (s.addBead p i n).pending = s.pending := rfl
@[simp] theorem State.core_addBead (s : State) (p : PartId) (i n : Nat) (m : CoreId) : (s.addBead p i n).core m = s.core m := rfl
@[simp] theorem State.ctx_addBead (s : State) (p : PartId) (i n : Nat) (m : CtxId) : (s.addBead p i n).ctx m = s.ctx m := rfl
@[simp] theorem State.die_addBead (s : State) (p : PartId) (i n : Nat) (m : DieId) : (s.addBead p i n).die m = s.die m := rfl

/-! ### emit -/

@[simp] theorem State.part_emit (s : State) (e : OutEvent) : (s.emit e).part = s.part := rfl
@[simp] theorem State.dev_emit (s : State) (e : OutEvent) : (s.emit e).dev = s.dev := rfl
@[simp] theorem State.cores_emit (s : State) (e : OutEvent) : (s.emit e).cores = s.cores := rfl
@[simp] theorem State.parts_emit (s : State) (e : OutEvent) : (s.emit e).parts = s.parts := rfl
@[simp] theorem State.ctxs_emit (s : State) (e : OutEvent) : (s.emit e).ctxs = s.ctxs := rfl
@[simp] theorem State.io_emit (s : State) (e : OutEvent) : (s.emit e).io = s.io := rfl
@[simp] theorem State.mcs_emit (s : State) (e : OutEvent) : (s.emit e).mcs = s.mcs := rfl
@[simp] theorem State.stks_emit (s : State) (e : OutEvent) : (s.emit e).stks = s.stks := rfl
@[simp] theorem State.mem_emit (s : State) (e : OutEvent) : (s.emit e).mem = s.mem := rfl
@[simp] theorem State.bad_emit (s : State) (e : OutEvent) : (s.emit e).bad = s.bad := rfl
@[simp] theorem State.linkDown_emit (s : State) (e : OutEvent) : (s.emit e).linkDown = s.linkDown := rfl
@[simp] theorem State.mirrors_emit (s : State) (e : OutEvent) : (s.emit e).mirrors = s.mirrors := rfl
@[simp] theorem State.lineOwner_emit (s : State) (e : OutEvent) : (s.emit e).lineOwner = s.lineOwner := rfl
@[simp] theorem State.img_emit (s : State) (e : OutEvent) : (s.emit e).img = s.img := rfl
@[simp] theorem State.tb_emit (s : State) (e : OutEvent) : (s.emit e).tb = s.tb := rfl
@[simp] theorem State.tly_emit (s : State) (e : OutEvent) : (s.emit e).tly = s.tly := rfl
@[simp] theorem State.err_emit (s : State) (e : OutEvent) : (s.emit e).err = s.err := rfl
@[simp] theorem State.hst_emit (s : State) (e : OutEvent) : (s.emit e).hst = s.hst := rfl
@[simp] theorem State.pwr_emit (s : State) (e : OutEvent) : (s.emit e).pwr = s.pwr := rfl
@[simp] theorem State.boot_emit (s : State) (e : OutEvent) : (s.emit e).boot = s.boot := rfl
@[simp] theorem State.fwp_emit (s : State) (e : OutEvent) : (s.emit e).fwp = s.fwp := rfl
@[simp] theorem State.rng_emit (s : State) (e : OutEvent) : (s.emit e).rng = s.rng := rfl
@[simp] theorem State.lks_emit (s : State) (e : OutEvent) : (s.emit e).lks = s.lks := rfl
@[simp] theorem State.recd_emit (s : State) (e : OutEvent) : (s.emit e).recd = s.recd := rfl
@[simp] theorem State.rep_emit (s : State) (e : OutEvent) : (s.emit e).rep = s.rep := rfl
@[simp] theorem State.pins_emit (s : State) (e : OutEvent) : (s.emit e).pins = s.pins := rfl
@[simp] theorem State.ticks_emit (s : State) (e : OutEvent) : (s.emit e).ticks = s.ticks := rfl
@[simp] theorem State.free_emit (s : State) (e : OutEvent) : (s.emit e).free = s.free := rfl
@[simp] theorem State.pending_emit (s : State) (e : OutEvent) : (s.emit e).pending = s.pending := rfl
@[simp] theorem State.core_emit (s : State) (e : OutEvent) (m : CoreId) : (s.emit e).core m = s.core m := rfl
@[simp] theorem State.prt_emit (s : State) (e : OutEvent) (m : PartId) : (s.emit e).prt m = s.prt m := rfl
@[simp] theorem State.ctx_emit (s : State) (e : OutEvent) (m : CtxId) : (s.emit e).ctx m = s.ctx m := rfl
@[simp] theorem State.die_emit (s : State) (e : OutEvent) (m : DieId) : (s.emit e).die m = s.die m := rfl
@[simp] theorem State.out_emit (s : State) (e : OutEvent) : (s.emit e).out = e :: s.out := rfl

/-! ### onHst -/

@[simp] theorem State.part_onHst (s : State) (f : HstRegs → HstRegs) : (s.onHst f).part = s.part := rfl
@[simp] theorem State.dev_onHst (s : State) (f : HstRegs → HstRegs) : (s.onHst f).dev = s.dev := rfl
@[simp] theorem State.cores_onHst (s : State) (f : HstRegs → HstRegs) : (s.onHst f).cores = s.cores := rfl
@[simp] theorem State.parts_onHst (s : State) (f : HstRegs → HstRegs) : (s.onHst f).parts = s.parts := rfl
@[simp] theorem State.ctxs_onHst (s : State) (f : HstRegs → HstRegs) : (s.onHst f).ctxs = s.ctxs := rfl
@[simp] theorem State.io_onHst (s : State) (f : HstRegs → HstRegs) : (s.onHst f).io = s.io := rfl
@[simp] theorem State.mcs_onHst (s : State) (f : HstRegs → HstRegs) : (s.onHst f).mcs = s.mcs := rfl
@[simp] theorem State.stks_onHst (s : State) (f : HstRegs → HstRegs) : (s.onHst f).stks = s.stks := rfl
@[simp] theorem State.mem_onHst (s : State) (f : HstRegs → HstRegs) : (s.onHst f).mem = s.mem := rfl
@[simp] theorem State.bad_onHst (s : State) (f : HstRegs → HstRegs) : (s.onHst f).bad = s.bad := rfl
@[simp] theorem State.linkDown_onHst (s : State) (f : HstRegs → HstRegs) : (s.onHst f).linkDown = s.linkDown := rfl
@[simp] theorem State.mirrors_onHst (s : State) (f : HstRegs → HstRegs) : (s.onHst f).mirrors = s.mirrors := rfl
@[simp] theorem State.lineOwner_onHst (s : State) (f : HstRegs → HstRegs) : (s.onHst f).lineOwner = s.lineOwner := rfl
@[simp] theorem State.img_onHst (s : State) (f : HstRegs → HstRegs) : (s.onHst f).img = s.img := rfl
@[simp] theorem State.tb_onHst (s : State) (f : HstRegs → HstRegs) : (s.onHst f).tb = s.tb := rfl
@[simp] theorem State.tly_onHst (s : State) (f : HstRegs → HstRegs) : (s.onHst f).tly = s.tly := rfl
@[simp] theorem State.err_onHst (s : State) (f : HstRegs → HstRegs) : (s.onHst f).err = s.err := rfl
@[simp] theorem State.pwr_onHst (s : State) (f : HstRegs → HstRegs) : (s.onHst f).pwr = s.pwr := rfl
@[simp] theorem State.boot_onHst (s : State) (f : HstRegs → HstRegs) : (s.onHst f).boot = s.boot := rfl
@[simp] theorem State.fwp_onHst (s : State) (f : HstRegs → HstRegs) : (s.onHst f).fwp = s.fwp := rfl
@[simp] theorem State.rng_onHst (s : State) (f : HstRegs → HstRegs) : (s.onHst f).rng = s.rng := rfl
@[simp] theorem State.lks_onHst (s : State) (f : HstRegs → HstRegs) : (s.onHst f).lks = s.lks := rfl
@[simp] theorem State.recd_onHst (s : State) (f : HstRegs → HstRegs) : (s.onHst f).recd = s.recd := rfl
@[simp] theorem State.rep_onHst (s : State) (f : HstRegs → HstRegs) : (s.onHst f).rep = s.rep := rfl
@[simp] theorem State.pins_onHst (s : State) (f : HstRegs → HstRegs) : (s.onHst f).pins = s.pins := rfl
@[simp] theorem State.ticks_onHst (s : State) (f : HstRegs → HstRegs) : (s.onHst f).ticks = s.ticks := rfl
@[simp] theorem State.free_onHst (s : State) (f : HstRegs → HstRegs) : (s.onHst f).free = s.free := rfl
@[simp] theorem State.out_onHst (s : State) (f : HstRegs → HstRegs) : (s.onHst f).out = s.out := rfl
@[simp] theorem State.pending_onHst (s : State) (f : HstRegs → HstRegs) : (s.onHst f).pending = s.pending := rfl
@[simp] theorem State.core_onHst (s : State) (f : HstRegs → HstRegs) (m : CoreId) : (s.onHst f).core m = s.core m := rfl
@[simp] theorem State.prt_onHst (s : State) (f : HstRegs → HstRegs) (m : PartId) : (s.onHst f).prt m = s.prt m := rfl
@[simp] theorem State.ctx_onHst (s : State) (f : HstRegs → HstRegs) (m : CtxId) : (s.onHst f).ctx m = s.ctx m := rfl
@[simp] theorem State.die_onHst (s : State) (f : HstRegs → HstRegs) (m : DieId) : (s.onHst f).die m = s.die m := rfl
@[simp] theorem State.hst_onHst (s : State) (f : HstRegs → HstRegs) : (s.onHst f).hst = f s.hst := rfl

/-! ### onBoot -/

@[simp] theorem State.part_onBoot (s : State) (f : BootRegs → BootRegs) : (s.onBoot f).part = s.part := rfl
@[simp] theorem State.dev_onBoot (s : State) (f : BootRegs → BootRegs) : (s.onBoot f).dev = s.dev := rfl
@[simp] theorem State.cores_onBoot (s : State) (f : BootRegs → BootRegs) : (s.onBoot f).cores = s.cores := rfl
@[simp] theorem State.parts_onBoot (s : State) (f : BootRegs → BootRegs) : (s.onBoot f).parts = s.parts := rfl
@[simp] theorem State.ctxs_onBoot (s : State) (f : BootRegs → BootRegs) : (s.onBoot f).ctxs = s.ctxs := rfl
@[simp] theorem State.io_onBoot (s : State) (f : BootRegs → BootRegs) : (s.onBoot f).io = s.io := rfl
@[simp] theorem State.mcs_onBoot (s : State) (f : BootRegs → BootRegs) : (s.onBoot f).mcs = s.mcs := rfl
@[simp] theorem State.stks_onBoot (s : State) (f : BootRegs → BootRegs) : (s.onBoot f).stks = s.stks := rfl
@[simp] theorem State.mem_onBoot (s : State) (f : BootRegs → BootRegs) : (s.onBoot f).mem = s.mem := rfl
@[simp] theorem State.bad_onBoot (s : State) (f : BootRegs → BootRegs) : (s.onBoot f).bad = s.bad := rfl
@[simp] theorem State.linkDown_onBoot (s : State) (f : BootRegs → BootRegs) : (s.onBoot f).linkDown = s.linkDown := rfl
@[simp] theorem State.mirrors_onBoot (s : State) (f : BootRegs → BootRegs) : (s.onBoot f).mirrors = s.mirrors := rfl
@[simp] theorem State.lineOwner_onBoot (s : State) (f : BootRegs → BootRegs) : (s.onBoot f).lineOwner = s.lineOwner := rfl
@[simp] theorem State.img_onBoot (s : State) (f : BootRegs → BootRegs) : (s.onBoot f).img = s.img := rfl
@[simp] theorem State.tb_onBoot (s : State) (f : BootRegs → BootRegs) : (s.onBoot f).tb = s.tb := rfl
@[simp] theorem State.tly_onBoot (s : State) (f : BootRegs → BootRegs) : (s.onBoot f).tly = s.tly := rfl
@[simp] theorem State.err_onBoot (s : State) (f : BootRegs → BootRegs) : (s.onBoot f).err = s.err := rfl
@[simp] theorem State.hst_onBoot (s : State) (f : BootRegs → BootRegs) : (s.onBoot f).hst = s.hst := rfl
@[simp] theorem State.pwr_onBoot (s : State) (f : BootRegs → BootRegs) : (s.onBoot f).pwr = s.pwr := rfl
@[simp] theorem State.fwp_onBoot (s : State) (f : BootRegs → BootRegs) : (s.onBoot f).fwp = s.fwp := rfl
@[simp] theorem State.rng_onBoot (s : State) (f : BootRegs → BootRegs) : (s.onBoot f).rng = s.rng := rfl
@[simp] theorem State.lks_onBoot (s : State) (f : BootRegs → BootRegs) : (s.onBoot f).lks = s.lks := rfl
@[simp] theorem State.recd_onBoot (s : State) (f : BootRegs → BootRegs) : (s.onBoot f).recd = s.recd := rfl
@[simp] theorem State.rep_onBoot (s : State) (f : BootRegs → BootRegs) : (s.onBoot f).rep = s.rep := rfl
@[simp] theorem State.pins_onBoot (s : State) (f : BootRegs → BootRegs) : (s.onBoot f).pins = s.pins := rfl
@[simp] theorem State.ticks_onBoot (s : State) (f : BootRegs → BootRegs) : (s.onBoot f).ticks = s.ticks := rfl
@[simp] theorem State.free_onBoot (s : State) (f : BootRegs → BootRegs) : (s.onBoot f).free = s.free := rfl
@[simp] theorem State.out_onBoot (s : State) (f : BootRegs → BootRegs) : (s.onBoot f).out = s.out := rfl
@[simp] theorem State.pending_onBoot (s : State) (f : BootRegs → BootRegs) : (s.onBoot f).pending = s.pending := rfl
@[simp] theorem State.core_onBoot (s : State) (f : BootRegs → BootRegs) (m : CoreId) : (s.onBoot f).core m = s.core m := rfl
@[simp] theorem State.prt_onBoot (s : State) (f : BootRegs → BootRegs) (m : PartId) : (s.onBoot f).prt m = s.prt m := rfl
@[simp] theorem State.ctx_onBoot (s : State) (f : BootRegs → BootRegs) (m : CtxId) : (s.onBoot f).ctx m = s.ctx m := rfl
@[simp] theorem State.die_onBoot (s : State) (f : BootRegs → BootRegs) (m : DieId) : (s.onBoot f).die m = s.die m := rfl
@[simp] theorem State.boot_onBoot (s : State) (f : BootRegs → BootRegs) : (s.onBoot f).boot = f s.boot := rfl

/-! ### onRng -/

@[simp] theorem State.part_onRng (s : State) (f : RngRegs → RngRegs) : (s.onRng f).part = s.part := rfl
@[simp] theorem State.dev_onRng (s : State) (f : RngRegs → RngRegs) : (s.onRng f).dev = s.dev := rfl
@[simp] theorem State.cores_onRng (s : State) (f : RngRegs → RngRegs) : (s.onRng f).cores = s.cores := rfl
@[simp] theorem State.parts_onRng (s : State) (f : RngRegs → RngRegs) : (s.onRng f).parts = s.parts := rfl
@[simp] theorem State.ctxs_onRng (s : State) (f : RngRegs → RngRegs) : (s.onRng f).ctxs = s.ctxs := rfl
@[simp] theorem State.io_onRng (s : State) (f : RngRegs → RngRegs) : (s.onRng f).io = s.io := rfl
@[simp] theorem State.mcs_onRng (s : State) (f : RngRegs → RngRegs) : (s.onRng f).mcs = s.mcs := rfl
@[simp] theorem State.stks_onRng (s : State) (f : RngRegs → RngRegs) : (s.onRng f).stks = s.stks := rfl
@[simp] theorem State.mem_onRng (s : State) (f : RngRegs → RngRegs) : (s.onRng f).mem = s.mem := rfl
@[simp] theorem State.bad_onRng (s : State) (f : RngRegs → RngRegs) : (s.onRng f).bad = s.bad := rfl
@[simp] theorem State.linkDown_onRng (s : State) (f : RngRegs → RngRegs) : (s.onRng f).linkDown = s.linkDown := rfl
@[simp] theorem State.mirrors_onRng (s : State) (f : RngRegs → RngRegs) : (s.onRng f).mirrors = s.mirrors := rfl
@[simp] theorem State.lineOwner_onRng (s : State) (f : RngRegs → RngRegs) : (s.onRng f).lineOwner = s.lineOwner := rfl
@[simp] theorem State.img_onRng (s : State) (f : RngRegs → RngRegs) : (s.onRng f).img = s.img := rfl
@[simp] theorem State.tb_onRng (s : State) (f : RngRegs → RngRegs) : (s.onRng f).tb = s.tb := rfl
@[simp] theorem State.tly_onRng (s : State) (f : RngRegs → RngRegs) : (s.onRng f).tly = s.tly := rfl
@[simp] theorem State.err_onRng (s : State) (f : RngRegs → RngRegs) : (s.onRng f).err = s.err := rfl
@[simp] theorem State.hst_onRng (s : State) (f : RngRegs → RngRegs) : (s.onRng f).hst = s.hst := rfl
@[simp] theorem State.pwr_onRng (s : State) (f : RngRegs → RngRegs) : (s.onRng f).pwr = s.pwr := rfl
@[simp] theorem State.boot_onRng (s : State) (f : RngRegs → RngRegs) : (s.onRng f).boot = s.boot := rfl
@[simp] theorem State.fwp_onRng (s : State) (f : RngRegs → RngRegs) : (s.onRng f).fwp = s.fwp := rfl
@[simp] theorem State.lks_onRng (s : State) (f : RngRegs → RngRegs) : (s.onRng f).lks = s.lks := rfl
@[simp] theorem State.recd_onRng (s : State) (f : RngRegs → RngRegs) : (s.onRng f).recd = s.recd := rfl
@[simp] theorem State.rep_onRng (s : State) (f : RngRegs → RngRegs) : (s.onRng f).rep = s.rep := rfl
@[simp] theorem State.pins_onRng (s : State) (f : RngRegs → RngRegs) : (s.onRng f).pins = s.pins := rfl
@[simp] theorem State.ticks_onRng (s : State) (f : RngRegs → RngRegs) : (s.onRng f).ticks = s.ticks := rfl
@[simp] theorem State.free_onRng (s : State) (f : RngRegs → RngRegs) : (s.onRng f).free = s.free := rfl
@[simp] theorem State.out_onRng (s : State) (f : RngRegs → RngRegs) : (s.onRng f).out = s.out := rfl
@[simp] theorem State.pending_onRng (s : State) (f : RngRegs → RngRegs) : (s.onRng f).pending = s.pending := rfl
@[simp] theorem State.core_onRng (s : State) (f : RngRegs → RngRegs) (m : CoreId) : (s.onRng f).core m = s.core m := rfl
@[simp] theorem State.prt_onRng (s : State) (f : RngRegs → RngRegs) (m : PartId) : (s.onRng f).prt m = s.prt m := rfl
@[simp] theorem State.ctx_onRng (s : State) (f : RngRegs → RngRegs) (m : CtxId) : (s.onRng f).ctx m = s.ctx m := rfl
@[simp] theorem State.die_onRng (s : State) (f : RngRegs → RngRegs) (m : DieId) : (s.onRng f).die m = s.die m := rfl
@[simp] theorem State.rng_onRng (s : State) (f : RngRegs → RngRegs) : (s.onRng f).rng = f s.rng := rfl

/-! ### onPwr -/

@[simp] theorem State.part_onPwr (s : State) (f : PwrRegs → PwrRegs) : (s.onPwr f).part = s.part := rfl
@[simp] theorem State.dev_onPwr (s : State) (f : PwrRegs → PwrRegs) : (s.onPwr f).dev = s.dev := rfl
@[simp] theorem State.cores_onPwr (s : State) (f : PwrRegs → PwrRegs) : (s.onPwr f).cores = s.cores := rfl
@[simp] theorem State.parts_onPwr (s : State) (f : PwrRegs → PwrRegs) : (s.onPwr f).parts = s.parts := rfl
@[simp] theorem State.ctxs_onPwr (s : State) (f : PwrRegs → PwrRegs) : (s.onPwr f).ctxs = s.ctxs := rfl
@[simp] theorem State.io_onPwr (s : State) (f : PwrRegs → PwrRegs) : (s.onPwr f).io = s.io := rfl
@[simp] theorem State.mcs_onPwr (s : State) (f : PwrRegs → PwrRegs) : (s.onPwr f).mcs = s.mcs := rfl
@[simp] theorem State.stks_onPwr (s : State) (f : PwrRegs → PwrRegs) : (s.onPwr f).stks = s.stks := rfl
@[simp] theorem State.mem_onPwr (s : State) (f : PwrRegs → PwrRegs) : (s.onPwr f).mem = s.mem := rfl
@[simp] theorem State.bad_onPwr (s : State) (f : PwrRegs → PwrRegs) : (s.onPwr f).bad = s.bad := rfl
@[simp] theorem State.linkDown_onPwr (s : State) (f : PwrRegs → PwrRegs) : (s.onPwr f).linkDown = s.linkDown := rfl
@[simp] theorem State.mirrors_onPwr (s : State) (f : PwrRegs → PwrRegs) : (s.onPwr f).mirrors = s.mirrors := rfl
@[simp] theorem State.lineOwner_onPwr (s : State) (f : PwrRegs → PwrRegs) : (s.onPwr f).lineOwner = s.lineOwner := rfl
@[simp] theorem State.img_onPwr (s : State) (f : PwrRegs → PwrRegs) : (s.onPwr f).img = s.img := rfl
@[simp] theorem State.tb_onPwr (s : State) (f : PwrRegs → PwrRegs) : (s.onPwr f).tb = s.tb := rfl
@[simp] theorem State.tly_onPwr (s : State) (f : PwrRegs → PwrRegs) : (s.onPwr f).tly = s.tly := rfl
@[simp] theorem State.err_onPwr (s : State) (f : PwrRegs → PwrRegs) : (s.onPwr f).err = s.err := rfl
@[simp] theorem State.hst_onPwr (s : State) (f : PwrRegs → PwrRegs) : (s.onPwr f).hst = s.hst := rfl
@[simp] theorem State.boot_onPwr (s : State) (f : PwrRegs → PwrRegs) : (s.onPwr f).boot = s.boot := rfl
@[simp] theorem State.fwp_onPwr (s : State) (f : PwrRegs → PwrRegs) : (s.onPwr f).fwp = s.fwp := rfl
@[simp] theorem State.rng_onPwr (s : State) (f : PwrRegs → PwrRegs) : (s.onPwr f).rng = s.rng := rfl
@[simp] theorem State.lks_onPwr (s : State) (f : PwrRegs → PwrRegs) : (s.onPwr f).lks = s.lks := rfl
@[simp] theorem State.recd_onPwr (s : State) (f : PwrRegs → PwrRegs) : (s.onPwr f).recd = s.recd := rfl
@[simp] theorem State.rep_onPwr (s : State) (f : PwrRegs → PwrRegs) : (s.onPwr f).rep = s.rep := rfl
@[simp] theorem State.pins_onPwr (s : State) (f : PwrRegs → PwrRegs) : (s.onPwr f).pins = s.pins := rfl
@[simp] theorem State.ticks_onPwr (s : State) (f : PwrRegs → PwrRegs) : (s.onPwr f).ticks = s.ticks := rfl
@[simp] theorem State.free_onPwr (s : State) (f : PwrRegs → PwrRegs) : (s.onPwr f).free = s.free := rfl
@[simp] theorem State.out_onPwr (s : State) (f : PwrRegs → PwrRegs) : (s.onPwr f).out = s.out := rfl
@[simp] theorem State.pending_onPwr (s : State) (f : PwrRegs → PwrRegs) : (s.onPwr f).pending = s.pending := rfl
@[simp] theorem State.core_onPwr (s : State) (f : PwrRegs → PwrRegs) (m : CoreId) : (s.onPwr f).core m = s.core m := rfl
@[simp] theorem State.prt_onPwr (s : State) (f : PwrRegs → PwrRegs) (m : PartId) : (s.onPwr f).prt m = s.prt m := rfl
@[simp] theorem State.ctx_onPwr (s : State) (f : PwrRegs → PwrRegs) (m : CtxId) : (s.onPwr f).ctx m = s.ctx m := rfl
@[simp] theorem State.die_onPwr (s : State) (f : PwrRegs → PwrRegs) (m : DieId) : (s.onPwr f).die m = s.die m := rfl
@[simp] theorem State.pwr_onPwr (s : State) (f : PwrRegs → PwrRegs) : (s.onPwr f).pwr = f s.pwr := rfl

/-! ### onErr -/

@[simp] theorem State.part_onErr (s : State) (f : ErrRegs → ErrRegs) : (s.onErr f).part = s.part := rfl
@[simp] theorem State.dev_onErr (s : State) (f : ErrRegs → ErrRegs) : (s.onErr f).dev = s.dev := rfl
@[simp] theorem State.cores_onErr (s : State) (f : ErrRegs → ErrRegs) : (s.onErr f).cores = s.cores := rfl
@[simp] theorem State.parts_onErr (s : State) (f : ErrRegs → ErrRegs) : (s.onErr f).parts = s.parts := rfl
@[simp] theorem State.ctxs_onErr (s : State) (f : ErrRegs → ErrRegs) : (s.onErr f).ctxs = s.ctxs := rfl
@[simp] theorem State.io_onErr (s : State) (f : ErrRegs → ErrRegs) : (s.onErr f).io = s.io := rfl
@[simp] theorem State.mcs_onErr (s : State) (f : ErrRegs → ErrRegs) : (s.onErr f).mcs = s.mcs := rfl
@[simp] theorem State.stks_onErr (s : State) (f : ErrRegs → ErrRegs) : (s.onErr f).stks = s.stks := rfl
@[simp] theorem State.mem_onErr (s : State) (f : ErrRegs → ErrRegs) : (s.onErr f).mem = s.mem := rfl
@[simp] theorem State.bad_onErr (s : State) (f : ErrRegs → ErrRegs) : (s.onErr f).bad = s.bad := rfl
@[simp] theorem State.linkDown_onErr (s : State) (f : ErrRegs → ErrRegs) : (s.onErr f).linkDown = s.linkDown := rfl
@[simp] theorem State.mirrors_onErr (s : State) (f : ErrRegs → ErrRegs) : (s.onErr f).mirrors = s.mirrors := rfl
@[simp] theorem State.lineOwner_onErr (s : State) (f : ErrRegs → ErrRegs) : (s.onErr f).lineOwner = s.lineOwner := rfl
@[simp] theorem State.img_onErr (s : State) (f : ErrRegs → ErrRegs) : (s.onErr f).img = s.img := rfl
@[simp] theorem State.tb_onErr (s : State) (f : ErrRegs → ErrRegs) : (s.onErr f).tb = s.tb := rfl
@[simp] theorem State.tly_onErr (s : State) (f : ErrRegs → ErrRegs) : (s.onErr f).tly = s.tly := rfl
@[simp] theorem State.hst_onErr (s : State) (f : ErrRegs → ErrRegs) : (s.onErr f).hst = s.hst := rfl
@[simp] theorem State.pwr_onErr (s : State) (f : ErrRegs → ErrRegs) : (s.onErr f).pwr = s.pwr := rfl
@[simp] theorem State.boot_onErr (s : State) (f : ErrRegs → ErrRegs) : (s.onErr f).boot = s.boot := rfl
@[simp] theorem State.fwp_onErr (s : State) (f : ErrRegs → ErrRegs) : (s.onErr f).fwp = s.fwp := rfl
@[simp] theorem State.rng_onErr (s : State) (f : ErrRegs → ErrRegs) : (s.onErr f).rng = s.rng := rfl
@[simp] theorem State.lks_onErr (s : State) (f : ErrRegs → ErrRegs) : (s.onErr f).lks = s.lks := rfl
@[simp] theorem State.recd_onErr (s : State) (f : ErrRegs → ErrRegs) : (s.onErr f).recd = s.recd := rfl
@[simp] theorem State.rep_onErr (s : State) (f : ErrRegs → ErrRegs) : (s.onErr f).rep = s.rep := rfl
@[simp] theorem State.pins_onErr (s : State) (f : ErrRegs → ErrRegs) : (s.onErr f).pins = s.pins := rfl
@[simp] theorem State.ticks_onErr (s : State) (f : ErrRegs → ErrRegs) : (s.onErr f).ticks = s.ticks := rfl
@[simp] theorem State.free_onErr (s : State) (f : ErrRegs → ErrRegs) : (s.onErr f).free = s.free := rfl
@[simp] theorem State.out_onErr (s : State) (f : ErrRegs → ErrRegs) : (s.onErr f).out = s.out := rfl
@[simp] theorem State.pending_onErr (s : State) (f : ErrRegs → ErrRegs) : (s.onErr f).pending = s.pending := rfl
@[simp] theorem State.core_onErr (s : State) (f : ErrRegs → ErrRegs) (m : CoreId) : (s.onErr f).core m = s.core m := rfl
@[simp] theorem State.prt_onErr (s : State) (f : ErrRegs → ErrRegs) (m : PartId) : (s.onErr f).prt m = s.prt m := rfl
@[simp] theorem State.ctx_onErr (s : State) (f : ErrRegs → ErrRegs) (m : CtxId) : (s.onErr f).ctx m = s.ctx m := rfl
@[simp] theorem State.die_onErr (s : State) (f : ErrRegs → ErrRegs) (m : DieId) : (s.onErr f).die m = s.die m := rfl
@[simp] theorem State.err_onErr (s : State) (f : ErrRegs → ErrRegs) : (s.onErr f).err = f s.err := rfl

/-! ### onTly -/

@[simp] theorem State.part_onTly (s : State) (f : TlyRegs → TlyRegs) : (s.onTly f).part = s.part := rfl
@[simp] theorem State.dev_onTly (s : State) (f : TlyRegs → TlyRegs) : (s.onTly f).dev = s.dev := rfl
@[simp] theorem State.cores_onTly (s : State) (f : TlyRegs → TlyRegs) : (s.onTly f).cores = s.cores := rfl
@[simp] theorem State.parts_onTly (s : State) (f : TlyRegs → TlyRegs) : (s.onTly f).parts = s.parts := rfl
@[simp] theorem State.ctxs_onTly (s : State) (f : TlyRegs → TlyRegs) : (s.onTly f).ctxs = s.ctxs := rfl
@[simp] theorem State.io_onTly (s : State) (f : TlyRegs → TlyRegs) : (s.onTly f).io = s.io := rfl
@[simp] theorem State.mcs_onTly (s : State) (f : TlyRegs → TlyRegs) : (s.onTly f).mcs = s.mcs := rfl
@[simp] theorem State.stks_onTly (s : State) (f : TlyRegs → TlyRegs) : (s.onTly f).stks = s.stks := rfl
@[simp] theorem State.mem_onTly (s : State) (f : TlyRegs → TlyRegs) : (s.onTly f).mem = s.mem := rfl
@[simp] theorem State.bad_onTly (s : State) (f : TlyRegs → TlyRegs) : (s.onTly f).bad = s.bad := rfl
@[simp] theorem State.linkDown_onTly (s : State) (f : TlyRegs → TlyRegs) : (s.onTly f).linkDown = s.linkDown := rfl
@[simp] theorem State.mirrors_onTly (s : State) (f : TlyRegs → TlyRegs) : (s.onTly f).mirrors = s.mirrors := rfl
@[simp] theorem State.lineOwner_onTly (s : State) (f : TlyRegs → TlyRegs) : (s.onTly f).lineOwner = s.lineOwner := rfl
@[simp] theorem State.img_onTly (s : State) (f : TlyRegs → TlyRegs) : (s.onTly f).img = s.img := rfl
@[simp] theorem State.tb_onTly (s : State) (f : TlyRegs → TlyRegs) : (s.onTly f).tb = s.tb := rfl
@[simp] theorem State.err_onTly (s : State) (f : TlyRegs → TlyRegs) : (s.onTly f).err = s.err := rfl
@[simp] theorem State.hst_onTly (s : State) (f : TlyRegs → TlyRegs) : (s.onTly f).hst = s.hst := rfl
@[simp] theorem State.pwr_onTly (s : State) (f : TlyRegs → TlyRegs) : (s.onTly f).pwr = s.pwr := rfl
@[simp] theorem State.boot_onTly (s : State) (f : TlyRegs → TlyRegs) : (s.onTly f).boot = s.boot := rfl
@[simp] theorem State.fwp_onTly (s : State) (f : TlyRegs → TlyRegs) : (s.onTly f).fwp = s.fwp := rfl
@[simp] theorem State.rng_onTly (s : State) (f : TlyRegs → TlyRegs) : (s.onTly f).rng = s.rng := rfl
@[simp] theorem State.lks_onTly (s : State) (f : TlyRegs → TlyRegs) : (s.onTly f).lks = s.lks := rfl
@[simp] theorem State.recd_onTly (s : State) (f : TlyRegs → TlyRegs) : (s.onTly f).recd = s.recd := rfl
@[simp] theorem State.rep_onTly (s : State) (f : TlyRegs → TlyRegs) : (s.onTly f).rep = s.rep := rfl
@[simp] theorem State.pins_onTly (s : State) (f : TlyRegs → TlyRegs) : (s.onTly f).pins = s.pins := rfl
@[simp] theorem State.ticks_onTly (s : State) (f : TlyRegs → TlyRegs) : (s.onTly f).ticks = s.ticks := rfl
@[simp] theorem State.free_onTly (s : State) (f : TlyRegs → TlyRegs) : (s.onTly f).free = s.free := rfl
@[simp] theorem State.out_onTly (s : State) (f : TlyRegs → TlyRegs) : (s.onTly f).out = s.out := rfl
@[simp] theorem State.pending_onTly (s : State) (f : TlyRegs → TlyRegs) : (s.onTly f).pending = s.pending := rfl
@[simp] theorem State.core_onTly (s : State) (f : TlyRegs → TlyRegs) (m : CoreId) : (s.onTly f).core m = s.core m := rfl
@[simp] theorem State.prt_onTly (s : State) (f : TlyRegs → TlyRegs) (m : PartId) : (s.onTly f).prt m = s.prt m := rfl
@[simp] theorem State.ctx_onTly (s : State) (f : TlyRegs → TlyRegs) (m : CtxId) : (s.onTly f).ctx m = s.ctx m := rfl
@[simp] theorem State.die_onTly (s : State) (f : TlyRegs → TlyRegs) (m : DieId) : (s.onTly f).die m = s.die m := rfl
@[simp] theorem State.tly_onTly (s : State) (f : TlyRegs → TlyRegs) : (s.onTly f).tly = f s.tly := rfl

/-! ### onPins -/

@[simp] theorem State.part_onPins (s : State) (f : Pins → Pins) : (s.onPins f).part = s.part := rfl
@[simp] theorem State.dev_onPins (s : State) (f : Pins → Pins) : (s.onPins f).dev = s.dev := rfl
@[simp] theorem State.cores_onPins (s : State) (f : Pins → Pins) : (s.onPins f).cores = s.cores := rfl
@[simp] theorem State.parts_onPins (s : State) (f : Pins → Pins) : (s.onPins f).parts = s.parts := rfl
@[simp] theorem State.ctxs_onPins (s : State) (f : Pins → Pins) : (s.onPins f).ctxs = s.ctxs := rfl
@[simp] theorem State.io_onPins (s : State) (f : Pins → Pins) : (s.onPins f).io = s.io := rfl
@[simp] theorem State.mcs_onPins (s : State) (f : Pins → Pins) : (s.onPins f).mcs = s.mcs := rfl
@[simp] theorem State.stks_onPins (s : State) (f : Pins → Pins) : (s.onPins f).stks = s.stks := rfl
@[simp] theorem State.mem_onPins (s : State) (f : Pins → Pins) : (s.onPins f).mem = s.mem := rfl
@[simp] theorem State.bad_onPins (s : State) (f : Pins → Pins) : (s.onPins f).bad = s.bad := rfl
@[simp] theorem State.linkDown_onPins (s : State) (f : Pins → Pins) : (s.onPins f).linkDown = s.linkDown := rfl
@[simp] theorem State.mirrors_onPins (s : State) (f : Pins → Pins) : (s.onPins f).mirrors = s.mirrors := rfl
@[simp] theorem State.lineOwner_onPins (s : State) (f : Pins → Pins) : (s.onPins f).lineOwner = s.lineOwner := rfl
@[simp] theorem State.img_onPins (s : State) (f : Pins → Pins) : (s.onPins f).img = s.img := rfl
@[simp] theorem State.tb_onPins (s : State) (f : Pins → Pins) : (s.onPins f).tb = s.tb := rfl
@[simp] theorem State.tly_onPins (s : State) (f : Pins → Pins) : (s.onPins f).tly = s.tly := rfl
@[simp] theorem State.err_onPins (s : State) (f : Pins → Pins) : (s.onPins f).err = s.err := rfl
@[simp] theorem State.hst_onPins (s : State) (f : Pins → Pins) : (s.onPins f).hst = s.hst := rfl
@[simp] theorem State.pwr_onPins (s : State) (f : Pins → Pins) : (s.onPins f).pwr = s.pwr := rfl
@[simp] theorem State.boot_onPins (s : State) (f : Pins → Pins) : (s.onPins f).boot = s.boot := rfl
@[simp] theorem State.fwp_onPins (s : State) (f : Pins → Pins) : (s.onPins f).fwp = s.fwp := rfl
@[simp] theorem State.rng_onPins (s : State) (f : Pins → Pins) : (s.onPins f).rng = s.rng := rfl
@[simp] theorem State.lks_onPins (s : State) (f : Pins → Pins) : (s.onPins f).lks = s.lks := rfl
@[simp] theorem State.recd_onPins (s : State) (f : Pins → Pins) : (s.onPins f).recd = s.recd := rfl
@[simp] theorem State.rep_onPins (s : State) (f : Pins → Pins) : (s.onPins f).rep = s.rep := rfl
@[simp] theorem State.ticks_onPins (s : State) (f : Pins → Pins) : (s.onPins f).ticks = s.ticks := rfl
@[simp] theorem State.free_onPins (s : State) (f : Pins → Pins) : (s.onPins f).free = s.free := rfl
@[simp] theorem State.out_onPins (s : State) (f : Pins → Pins) : (s.onPins f).out = s.out := rfl
@[simp] theorem State.pending_onPins (s : State) (f : Pins → Pins) : (s.onPins f).pending = s.pending := rfl
@[simp] theorem State.core_onPins (s : State) (f : Pins → Pins) (m : CoreId) : (s.onPins f).core m = s.core m := rfl
@[simp] theorem State.prt_onPins (s : State) (f : Pins → Pins) (m : PartId) : (s.onPins f).prt m = s.prt m := rfl
@[simp] theorem State.ctx_onPins (s : State) (f : Pins → Pins) (m : CtxId) : (s.onPins f).ctx m = s.ctx m := rfl
@[simp] theorem State.die_onPins (s : State) (f : Pins → Pins) (m : DieId) : (s.onPins f).die m = s.die m := rfl
@[simp] theorem State.pins_onPins (s : State) (f : Pins → Pins) : (s.onPins f).pins = f s.pins := rfl

/-! ### onRec -/

@[simp] theorem State.part_onRec (s : State) (f : RecRegs → RecRegs) : (s.onRec f).part = s.part := rfl
@[simp] theorem State.dev_onRec (s : State) (f : RecRegs → RecRegs) : (s.onRec f).dev = s.dev := rfl
@[simp] theorem State.cores_onRec (s : State) (f : RecRegs → RecRegs) : (s.onRec f).cores = s.cores := rfl
@[simp] theorem State.parts_onRec (s : State) (f : RecRegs → RecRegs) : (s.onRec f).parts = s.parts := rfl
@[simp] theorem State.ctxs_onRec (s : State) (f : RecRegs → RecRegs) : (s.onRec f).ctxs = s.ctxs := rfl
@[simp] theorem State.io_onRec (s : State) (f : RecRegs → RecRegs) : (s.onRec f).io = s.io := rfl
@[simp] theorem State.mcs_onRec (s : State) (f : RecRegs → RecRegs) : (s.onRec f).mcs = s.mcs := rfl
@[simp] theorem State.stks_onRec (s : State) (f : RecRegs → RecRegs) : (s.onRec f).stks = s.stks := rfl
@[simp] theorem State.mem_onRec (s : State) (f : RecRegs → RecRegs) : (s.onRec f).mem = s.mem := rfl
@[simp] theorem State.bad_onRec (s : State) (f : RecRegs → RecRegs) : (s.onRec f).bad = s.bad := rfl
@[simp] theorem State.linkDown_onRec (s : State) (f : RecRegs → RecRegs) : (s.onRec f).linkDown = s.linkDown := rfl
@[simp] theorem State.mirrors_onRec (s : State) (f : RecRegs → RecRegs) : (s.onRec f).mirrors = s.mirrors := rfl
@[simp] theorem State.lineOwner_onRec (s : State) (f : RecRegs → RecRegs) : (s.onRec f).lineOwner = s.lineOwner := rfl
@[simp] theorem State.img_onRec (s : State) (f : RecRegs → RecRegs) : (s.onRec f).img = s.img := rfl
@[simp] theorem State.tb_onRec (s : State) (f : RecRegs → RecRegs) : (s.onRec f).tb = s.tb := rfl
@[simp] theorem State.tly_onRec (s : State) (f : RecRegs → RecRegs) : (s.onRec f).tly = s.tly := rfl
@[simp] theorem State.err_onRec (s : State) (f : RecRegs → RecRegs) : (s.onRec f).err = s.err := rfl
@[simp] theorem State.hst_onRec (s : State) (f : RecRegs → RecRegs) : (s.onRec f).hst = s.hst := rfl
@[simp] theorem State.pwr_onRec (s : State) (f : RecRegs → RecRegs) : (s.onRec f).pwr = s.pwr := rfl
@[simp] theorem State.boot_onRec (s : State) (f : RecRegs → RecRegs) : (s.onRec f).boot = s.boot := rfl
@[simp] theorem State.fwp_onRec (s : State) (f : RecRegs → RecRegs) : (s.onRec f).fwp = s.fwp := rfl
@[simp] theorem State.rng_onRec (s : State) (f : RecRegs → RecRegs) : (s.onRec f).rng = s.rng := rfl
@[simp] theorem State.lks_onRec (s : State) (f : RecRegs → RecRegs) : (s.onRec f).lks = s.lks := rfl
@[simp] theorem State.rep_onRec (s : State) (f : RecRegs → RecRegs) : (s.onRec f).rep = s.rep := rfl
@[simp] theorem State.pins_onRec (s : State) (f : RecRegs → RecRegs) : (s.onRec f).pins = s.pins := rfl
@[simp] theorem State.ticks_onRec (s : State) (f : RecRegs → RecRegs) : (s.onRec f).ticks = s.ticks := rfl
@[simp] theorem State.free_onRec (s : State) (f : RecRegs → RecRegs) : (s.onRec f).free = s.free := rfl
@[simp] theorem State.out_onRec (s : State) (f : RecRegs → RecRegs) : (s.onRec f).out = s.out := rfl
@[simp] theorem State.pending_onRec (s : State) (f : RecRegs → RecRegs) : (s.onRec f).pending = s.pending := rfl
@[simp] theorem State.core_onRec (s : State) (f : RecRegs → RecRegs) (m : CoreId) : (s.onRec f).core m = s.core m := rfl
@[simp] theorem State.prt_onRec (s : State) (f : RecRegs → RecRegs) (m : PartId) : (s.onRec f).prt m = s.prt m := rfl
@[simp] theorem State.ctx_onRec (s : State) (f : RecRegs → RecRegs) (m : CtxId) : (s.onRec f).ctx m = s.ctx m := rfl
@[simp] theorem State.die_onRec (s : State) (f : RecRegs → RecRegs) (m : DieId) : (s.onRec f).die m = s.die m := rfl
@[simp] theorem State.recd_onRec (s : State) (f : RecRegs → RecRegs) : (s.onRec f).recd = f s.recd := rfl

/-! ### onRep -/

@[simp] theorem State.part_onRep (s : State) (f : RepRegs → RepRegs) : (s.onRep f).part = s.part := rfl
@[simp] theorem State.dev_onRep (s : State) (f : RepRegs → RepRegs) : (s.onRep f).dev = s.dev := rfl
@[simp] theorem State.cores_onRep (s : State) (f : RepRegs → RepRegs) : (s.onRep f).cores = s.cores := rfl
@[simp] theorem State.parts_onRep (s : State) (f : RepRegs → RepRegs) : (s.onRep f).parts = s.parts := rfl
@[simp] theorem State.ctxs_onRep (s : State) (f : RepRegs → RepRegs) : (s.onRep f).ctxs = s.ctxs := rfl
@[simp] theorem State.io_onRep (s : State) (f : RepRegs → RepRegs) : (s.onRep f).io = s.io := rfl
@[simp] theorem State.mcs_onRep (s : State) (f : RepRegs → RepRegs) : (s.onRep f).mcs = s.mcs := rfl
@[simp] theorem State.stks_onRep (s : State) (f : RepRegs → RepRegs) : (s.onRep f).stks = s.stks := rfl
@[simp] theorem State.mem_onRep (s : State) (f : RepRegs → RepRegs) : (s.onRep f).mem = s.mem := rfl
@[simp] theorem State.bad_onRep (s : State) (f : RepRegs → RepRegs) : (s.onRep f).bad = s.bad := rfl
@[simp] theorem State.linkDown_onRep (s : State) (f : RepRegs → RepRegs) : (s.onRep f).linkDown = s.linkDown := rfl
@[simp] theorem State.mirrors_onRep (s : State) (f : RepRegs → RepRegs) : (s.onRep f).mirrors = s.mirrors := rfl
@[simp] theorem State.lineOwner_onRep (s : State) (f : RepRegs → RepRegs) : (s.onRep f).lineOwner = s.lineOwner := rfl
@[simp] theorem State.img_onRep (s : State) (f : RepRegs → RepRegs) : (s.onRep f).img = s.img := rfl
@[simp] theorem State.tb_onRep (s : State) (f : RepRegs → RepRegs) : (s.onRep f).tb = s.tb := rfl
@[simp] theorem State.tly_onRep (s : State) (f : RepRegs → RepRegs) : (s.onRep f).tly = s.tly := rfl
@[simp] theorem State.err_onRep (s : State) (f : RepRegs → RepRegs) : (s.onRep f).err = s.err := rfl
@[simp] theorem State.hst_onRep (s : State) (f : RepRegs → RepRegs) : (s.onRep f).hst = s.hst := rfl
@[simp] theorem State.pwr_onRep (s : State) (f : RepRegs → RepRegs) : (s.onRep f).pwr = s.pwr := rfl
@[simp] theorem State.boot_onRep (s : State) (f : RepRegs → RepRegs) : (s.onRep f).boot = s.boot := rfl
@[simp] theorem State.fwp_onRep (s : State) (f : RepRegs → RepRegs) : (s.onRep f).fwp = s.fwp := rfl
@[simp] theorem State.rng_onRep (s : State) (f : RepRegs → RepRegs) : (s.onRep f).rng = s.rng := rfl
@[simp] theorem State.lks_onRep (s : State) (f : RepRegs → RepRegs) : (s.onRep f).lks = s.lks := rfl
@[simp] theorem State.recd_onRep (s : State) (f : RepRegs → RepRegs) : (s.onRep f).recd = s.recd := rfl
@[simp] theorem State.pins_onRep (s : State) (f : RepRegs → RepRegs) : (s.onRep f).pins = s.pins := rfl
@[simp] theorem State.ticks_onRep (s : State) (f : RepRegs → RepRegs) : (s.onRep f).ticks = s.ticks := rfl
@[simp] theorem State.free_onRep (s : State) (f : RepRegs → RepRegs) : (s.onRep f).free = s.free := rfl
@[simp] theorem State.out_onRep (s : State) (f : RepRegs → RepRegs) : (s.onRep f).out = s.out := rfl
@[simp] theorem State.pending_onRep (s : State) (f : RepRegs → RepRegs) : (s.onRep f).pending = s.pending := rfl
@[simp] theorem State.core_onRep (s : State) (f : RepRegs → RepRegs) (m : CoreId) : (s.onRep f).core m = s.core m := rfl
@[simp] theorem State.prt_onRep (s : State) (f : RepRegs → RepRegs) (m : PartId) : (s.onRep f).prt m = s.prt m := rfl
@[simp] theorem State.ctx_onRep (s : State) (f : RepRegs → RepRegs) (m : CtxId) : (s.onRep f).ctx m = s.ctx m := rfl
@[simp] theorem State.die_onRep (s : State) (f : RepRegs → RepRegs) (m : DieId) : (s.onRep f).die m = s.die m := rfl
@[simp] theorem State.rep_onRep (s : State) (f : RepRegs → RepRegs) : (s.onRep f).rep = f s.rep := rfl

/-! ### onTb -/

@[simp] theorem State.part_onTb (s : State) (f : TbRegs → TbRegs) : (s.onTb f).part = s.part := rfl
@[simp] theorem State.dev_onTb (s : State) (f : TbRegs → TbRegs) : (s.onTb f).dev = s.dev := rfl
@[simp] theorem State.cores_onTb (s : State) (f : TbRegs → TbRegs) : (s.onTb f).cores = s.cores := rfl
@[simp] theorem State.parts_onTb (s : State) (f : TbRegs → TbRegs) : (s.onTb f).parts = s.parts := rfl
@[simp] theorem State.ctxs_onTb (s : State) (f : TbRegs → TbRegs) : (s.onTb f).ctxs = s.ctxs := rfl
@[simp] theorem State.io_onTb (s : State) (f : TbRegs → TbRegs) : (s.onTb f).io = s.io := rfl
@[simp] theorem State.mcs_onTb (s : State) (f : TbRegs → TbRegs) : (s.onTb f).mcs = s.mcs := rfl
@[simp] theorem State.stks_onTb (s : State) (f : TbRegs → TbRegs) : (s.onTb f).stks = s.stks := rfl
@[simp] theorem State.mem_onTb (s : State) (f : TbRegs → TbRegs) : (s.onTb f).mem = s.mem := rfl
@[simp] theorem State.bad_onTb (s : State) (f : TbRegs → TbRegs) : (s.onTb f).bad = s.bad := rfl
@[simp] theorem State.linkDown_onTb (s : State) (f : TbRegs → TbRegs) : (s.onTb f).linkDown = s.linkDown := rfl
@[simp] theorem State.mirrors_onTb (s : State) (f : TbRegs → TbRegs) : (s.onTb f).mirrors = s.mirrors := rfl
@[simp] theorem State.lineOwner_onTb (s : State) (f : TbRegs → TbRegs) : (s.onTb f).lineOwner = s.lineOwner := rfl
@[simp] theorem State.img_onTb (s : State) (f : TbRegs → TbRegs) : (s.onTb f).img = s.img := rfl
@[simp] theorem State.tly_onTb (s : State) (f : TbRegs → TbRegs) : (s.onTb f).tly = s.tly := rfl
@[simp] theorem State.err_onTb (s : State) (f : TbRegs → TbRegs) : (s.onTb f).err = s.err := rfl
@[simp] theorem State.hst_onTb (s : State) (f : TbRegs → TbRegs) : (s.onTb f).hst = s.hst := rfl
@[simp] theorem State.pwr_onTb (s : State) (f : TbRegs → TbRegs) : (s.onTb f).pwr = s.pwr := rfl
@[simp] theorem State.boot_onTb (s : State) (f : TbRegs → TbRegs) : (s.onTb f).boot = s.boot := rfl
@[simp] theorem State.fwp_onTb (s : State) (f : TbRegs → TbRegs) : (s.onTb f).fwp = s.fwp := rfl
@[simp] theorem State.rng_onTb (s : State) (f : TbRegs → TbRegs) : (s.onTb f).rng = s.rng := rfl
@[simp] theorem State.lks_onTb (s : State) (f : TbRegs → TbRegs) : (s.onTb f).lks = s.lks := rfl
@[simp] theorem State.recd_onTb (s : State) (f : TbRegs → TbRegs) : (s.onTb f).recd = s.recd := rfl
@[simp] theorem State.rep_onTb (s : State) (f : TbRegs → TbRegs) : (s.onTb f).rep = s.rep := rfl
@[simp] theorem State.pins_onTb (s : State) (f : TbRegs → TbRegs) : (s.onTb f).pins = s.pins := rfl
@[simp] theorem State.ticks_onTb (s : State) (f : TbRegs → TbRegs) : (s.onTb f).ticks = s.ticks := rfl
@[simp] theorem State.free_onTb (s : State) (f : TbRegs → TbRegs) : (s.onTb f).free = s.free := rfl
@[simp] theorem State.out_onTb (s : State) (f : TbRegs → TbRegs) : (s.onTb f).out = s.out := rfl
@[simp] theorem State.pending_onTb (s : State) (f : TbRegs → TbRegs) : (s.onTb f).pending = s.pending := rfl
@[simp] theorem State.core_onTb (s : State) (f : TbRegs → TbRegs) (m : CoreId) : (s.onTb f).core m = s.core m := rfl
@[simp] theorem State.prt_onTb (s : State) (f : TbRegs → TbRegs) (m : PartId) : (s.onTb f).prt m = s.prt m := rfl
@[simp] theorem State.ctx_onTb (s : State) (f : TbRegs → TbRegs) (m : CtxId) : (s.onTb f).ctx m = s.ctx m := rfl
@[simp] theorem State.die_onTb (s : State) (f : TbRegs → TbRegs) (m : DieId) : (s.onTb f).die m = s.die m := rfl
@[simp] theorem State.tb_onTb (s : State) (f : TbRegs → TbRegs) : (s.onTb f).tb = f s.tb := rfl

/-! ### Vectors -/

@[simp] theorem vget_set_self {α : Type} {n : Nat} (v : Vector α n) (i : Fin n) (x : α) (h : i.1 < n) :
    (v.set i.1 x h).get i = x := by
  show (v.set i.1 x h)[i.1] = x
  simp
theorem vget_set_ne {α : Type} {n : Nat} (v : Vector α n) (i j : Fin n) (x : α) (h : i.1 < n) (k : j ≠ i) :
    (v.set i.1 x h).get j = v.get j := by
  show (v.set i.1 x h)[j.1] = v[j.1]
  exact Vector.getElem_set_ne _ _ fun e => k (Fin.ext e.symm)
@[simp] theorem vget_ofFn {α : Type} {n : Nat} (f : Fin n → α) (i : Fin n) : (Vector.ofFn f).get i = f i := by
  show (Vector.ofFn f)[i.1] = f i
  simp
@[simp] theorem vget_map {α β : Type} {n : Nat} (f : α → β) (v : Vector α n) (i : Fin n) : (v.map f).get i = f (v.get i) := by
  show (v.map f)[i.1] = f v[i.1]
  simp
@[simp] theorem vget_replicate {α : Type} {n : Nat} (x : α) (i : Fin n) : (Vector.replicate n x).get i = x := by
  show (Vector.replicate n x)[i.1] = x
  simp
theorem vext {α : Type} {n : Nat} {v w : Vector α n} (h : ∀ i, v.get i = w.get i) : v = w := by
  apply Vector.ext
  intro i hi
  exact h ⟨i, hi⟩

/-! ### What an update writes -/

@[simp] theorem State.core_onCore_self (s : State) (i : CoreId) (f : CoreRt → CoreRt) : (s.onCore i f).core i = f (s.core i) := vget_set_self _ _ _ i.2

theorem State.core_onCore_ne (s : State) (i j : CoreId) (f : CoreRt → CoreRt) (h : j ≠ i) : (s.onCore i f).core j = s.core j := vget_set_ne _ _ _ _ i.2 h

@[simp] theorem State.prt_onPart_self (s : State) (i : PartId) (f : PartRt → PartRt) : (s.onPart i f).prt i = f (s.prt i) := vget_set_self _ _ _ i.2

theorem State.prt_onPart_ne (s : State) (i j : PartId) (f : PartRt → PartRt) (h : j ≠ i) : (s.onPart i f).prt j = s.prt j := vget_set_ne _ _ _ _ i.2 h

@[simp] theorem State.ctx_onCtx_self (s : State) (i : CtxId) (f : CtxRt → CtxRt) : (s.onCtx i f).ctx i = f (s.ctx i) := vget_set_self _ _ _ i.2

theorem State.ctx_onCtx_ne (s : State) (i j : CtxId) (f : CtxRt → CtxRt) (h : j ≠ i) : (s.onCtx i f).ctx j = s.ctx j := vget_set_ne _ _ _ _ i.2 h

@[simp] theorem State.die_onDie_self (s : State) (i : DieId) (f : IoDie → IoDie) : (s.onDie i f).die i = f (s.die i) := vget_set_self _ _ _ i.2

theorem State.die_onDie_ne (s : State) (i j : DieId) (f : IoDie → IoDie) (h : j ≠ i) : (s.onDie i f).die j = s.die j := vget_set_ne _ _ _ _ i.2 h

@[simp] theorem State.mcs_onMc_self (s : State) (i : StackId) (f : McRegs → McRegs) : (s.onMc i f).mcs.get i = f (s.mcs.get i) := vget_set_self _ _ _ i.2

theorem State.mcs_onMc_ne (s : State) (i j : StackId) (f : McRegs → McRegs) (h : j ≠ i) : (s.onMc i f).mcs.get j = s.mcs.get j := vget_set_ne _ _ _ _ i.2 h

@[simp] theorem State.stks_onStk_self (s : State) (i : Fin 2) (f : StkRegs → StkRegs) : (s.onStk i f).stks.get i = f (s.stks.get i) := vget_set_self _ _ _ i.2

theorem State.stks_onStk_ne (s : State) (i j : Fin 2) (f : StkRegs → StkRegs) (h : j ≠ i) : (s.onStk i f).stks.get j = s.stks.get j := vget_set_ne _ _ _ _ i.2 h

@[simp] theorem State.fwp_onFwp_self (s : State) (i : Fin 7) (f : FwpRegs → FwpRegs) : (s.onFwp i f).fwp.get i = f (s.fwp.get i) := vget_set_self _ _ _ i.2

theorem State.fwp_onFwp_ne (s : State) (i j : Fin 7) (f : FwpRegs → FwpRegs) (h : j ≠ i) : (s.onFwp i f).fwp.get j = s.fwp.get j := vget_set_ne _ _ _ _ i.2 h

@[simp] theorem State.lks_onLks_self (s : State) (i : Fin 4) (f : LksRegs → LksRegs) : (s.onLks i f).lks.get i = f (s.lks.get i) := vget_set_self _ _ _ i.2

theorem State.lks_onLks_ne (s : State) (i j : Fin 4) (f : LksRegs → LksRegs) (h : j ≠ i) : (s.onLks i f).lks.get j = s.lks.get j := vget_set_ne _ _ _ _ i.2 h

/-- A queue after an update of it. -/
@[simp] theorem State.queue_onQueue_self (s : State) (q : QueueId) (f : QueueRt → QueueRt) :
    (s.onQueue q f).queue q = f (s.queue q) := by
  cases q with
  | core c k => cases k <;> simp [State.onQueue, State.queue, setCoreQueue, coreQueue]
  | dq p => simp [State.onQueue, State.queue]

/-- Another queue after an update. -/
theorem State.queue_onQueue_ne (s : State) (q r : QueueId) (f : QueueRt → QueueRt) (h : r ≠ q) :
    (s.onQueue q f).queue r = s.queue r := by
  cases q with
  | core c k => cases r with
    | core d l =>
      by_cases e : d = c
      · subst e
        cases k <;> cases l <;> first | exact absurd rfl h | simp [State.onQueue, State.queue, setCoreQueue, coreQueue]
      · simp [State.onQueue, State.queue, State.core_onCore_ne _ _ _ _ e]
    | dq p => rfl
  | dq p => cases r with
    | core d l => rfl
    | dq r =>
      have e : r ≠ p := fun e => h (by rw [e])
      simp [State.onQueue, State.queue, State.prt_onPart_ne _ _ _ _ e]

@[simp] theorem State.part_onQueue (s : State) (q : QueueId) (f : QueueRt → QueueRt) : (s.onQueue q f).part = s.part := by
  cases q <;> rfl

@[simp] theorem State.dev_onQueue (s : State) (q : QueueId) (f : QueueRt → QueueRt) : (s.onQueue q f).dev = s.dev := by
  cases q <;> rfl

@[simp] theorem State.ctxs_onQueue (s : State) (q : QueueId) (f : QueueRt → QueueRt) : (s.onQueue q f).ctxs = s.ctxs := by
  cases q <;> rfl

@[simp] theorem State.io_onQueue (s : State) (q : QueueId) (f : QueueRt → QueueRt) : (s.onQueue q f).io = s.io := by
  cases q <;> rfl

@[simp] theorem State.mcs_onQueue (s : State) (q : QueueId) (f : QueueRt → QueueRt) : (s.onQueue q f).mcs = s.mcs := by
  cases q <;> rfl

@[simp] theorem State.stks_onQueue (s : State) (q : QueueId) (f : QueueRt → QueueRt) : (s.onQueue q f).stks = s.stks := by
  cases q <;> rfl

@[simp] theorem State.mem_onQueue (s : State) (q : QueueId) (f : QueueRt → QueueRt) : (s.onQueue q f).mem = s.mem := by
  cases q <;> rfl

@[simp] theorem State.bad_onQueue (s : State) (q : QueueId) (f : QueueRt → QueueRt) : (s.onQueue q f).bad = s.bad := by
  cases q <;> rfl

@[simp] theorem State.linkDown_onQueue (s : State) (q : QueueId) (f : QueueRt → QueueRt) : (s.onQueue q f).linkDown = s.linkDown := by
  cases q <;> rfl

@[simp] theorem State.mirrors_onQueue (s : State) (q : QueueId) (f : QueueRt → QueueRt) : (s.onQueue q f).mirrors = s.mirrors := by
  cases q <;> rfl

@[simp] theorem State.lineOwner_onQueue (s : State) (q : QueueId) (f : QueueRt → QueueRt) : (s.onQueue q f).lineOwner = s.lineOwner := by
  cases q <;> rfl

@[simp] theorem State.img_onQueue (s : State) (q : QueueId) (f : QueueRt → QueueRt) : (s.onQueue q f).img = s.img := by
  cases q <;> rfl

@[simp] theorem State.tb_onQueue (s : State) (q : QueueId) (f : QueueRt → QueueRt) : (s.onQueue q f).tb = s.tb := by
  cases q <;> rfl

@[simp] theorem State.tly_onQueue (s : State) (q : QueueId) (f : QueueRt → QueueRt) : (s.onQueue q f).tly = s.tly := by
  cases q <;> rfl

@[simp] theorem State.err_onQueue (s : State) (q : QueueId) (f : QueueRt → QueueRt) : (s.onQueue q f).err = s.err := by
  cases q <;> rfl

@[simp] theorem State.hst_onQueue (s : State) (q : QueueId) (f : QueueRt → QueueRt) : (s.onQueue q f).hst = s.hst := by
  cases q <;> rfl

@[simp] theorem State.pwr_onQueue (s : State) (q : QueueId) (f : QueueRt → QueueRt) : (s.onQueue q f).pwr = s.pwr := by
  cases q <;> rfl

@[simp] theorem State.boot_onQueue (s : State) (q : QueueId) (f : QueueRt → QueueRt) : (s.onQueue q f).boot = s.boot := by
  cases q <;> rfl

@[simp] theorem State.fwp_onQueue (s : State) (q : QueueId) (f : QueueRt → QueueRt) : (s.onQueue q f).fwp = s.fwp := by
  cases q <;> rfl

@[simp] theorem State.rng_onQueue (s : State) (q : QueueId) (f : QueueRt → QueueRt) : (s.onQueue q f).rng = s.rng := by
  cases q <;> rfl

@[simp] theorem State.lks_onQueue (s : State) (q : QueueId) (f : QueueRt → QueueRt) : (s.onQueue q f).lks = s.lks := by
  cases q <;> rfl

@[simp] theorem State.recd_onQueue (s : State) (q : QueueId) (f : QueueRt → QueueRt) : (s.onQueue q f).recd = s.recd := by
  cases q <;> rfl

@[simp] theorem State.rep_onQueue (s : State) (q : QueueId) (f : QueueRt → QueueRt) : (s.onQueue q f).rep = s.rep := by
  cases q <;> rfl

@[simp] theorem State.pins_onQueue (s : State) (q : QueueId) (f : QueueRt → QueueRt) : (s.onQueue q f).pins = s.pins := by
  cases q <;> rfl

@[simp] theorem State.ticks_onQueue (s : State) (q : QueueId) (f : QueueRt → QueueRt) : (s.onQueue q f).ticks = s.ticks := by
  cases q <;> rfl

@[simp] theorem State.free_onQueue (s : State) (q : QueueId) (f : QueueRt → QueueRt) : (s.onQueue q f).free = s.free := by
  cases q <;> rfl

@[simp] theorem State.out_onQueue (s : State) (q : QueueId) (f : QueueRt → QueueRt) : (s.onQueue q f).out = s.out := by
  cases q <;> rfl

@[simp] theorem State.pending_onQueue (s : State) (q : QueueId) (f : QueueRt → QueueRt) : (s.onQueue q f).pending = s.pending := by
  cases q <;> rfl

@[simp] theorem State.ctx_onQueue (s : State) (q : QueueId) (f : QueueRt → QueueRt) (m : CtxId) :
    (s.onQueue q f).ctx m = s.ctx m := by
  cases q <;> rfl

@[simp] theorem State.die_onQueue (s : State) (q : QueueId) (f : QueueRt → QueueRt) (m : DieId) :
    (s.onQueue q f).die m = s.die m := by
  cases q <;> rfl

end Sys2Proof.Machine
end

