-- ==== Sys2Proof/Laws/Finish.lean ====
section
/-!
SUPPORT. Laws/Finish.lean: frames compose; what the end of every command may change, said once: the record FIFOs and the
record store, the interrupt ring, MSI-X, the log, BOOT_OK's clock, the outputs and SAFE_ST.
-/

namespace Sys2Proof.Machine

/-! ### Frames -/

theorem Kind.same_refl (k : Kind) (s : State) : k.same s s := by cases k <;> rfl

theorem Kind.same_trans {k : Kind} {s t u : State} (h : k.same s t) (h' : k.same t u) : k.same s u := by
  cases k <;> exact Eq.trans h' h

theorem State.keeps_refl (s : State) (l : List Kind) : s.keeps l s := fun k _ => k.same_refl s

theorem State.keeps_trans {s t u : State} {l : List Kind} (h : s.keeps l t) (h' : t.keeps l u) : s.keeps l u :=
  fun k hk => Kind.same_trans (h k hk) (h' k hk)

/-- A frame may name more kinds. -/
theorem State.keeps_mono {s t : State} {l m : List Kind} (h : s.keeps l t) (hs : ∀ k ∈ l, k ∈ m) : s.keeps m t :=
  fun k hk => h k fun hl => hk (hs k hl)

/-- The updates of a unit leave every kind of state but the unit's own. -/
theorem State.keeps_onCtx (s : State) (c : CtxId) (f : CtxRt → CtxRt) : s.keeps [.ctxs] (s.onCtx c f) := fun k hk => by
  cases k <;> first | rfl | simp at hk
theorem State.keeps_onRng (s : State) (f : RngRegs → RngRegs) : s.keeps [.rng] (s.onRng f) := fun k hk => by
  cases k <;> first | rfl | simp at hk
theorem State.queue_onCtx (s : State) (c : CtxId) (f : CtxRt → CtxRt) (q : QueueId) : (s.onCtx c f).queue q = s.queue q := by
  cases q <;> rfl
theorem State.queue_onRng (s : State) (f : RngRegs → RngRegs) (q : QueueId) : (s.onRng f).queue q = s.queue q := by
  cases q <;> rfl

/-! ### What the end of a command may change -/

/-- Every kind of state is kept, the rings of the contexts too, no output is lost, and ERR_OUT_N stays while its hold time
has not passed. -/
def State.Quiet (s t : State) : Prop :=
  s.keeps [] t ∧ (∀ r : Fin 17, r.1 < 16 → t.ring r = s.ring r) ∧ (∀ e ∈ s.out, e ∈ t.out) ∧
    (s.tly.holdOver = false → t.pins.errOutN = s.pins.errOutN)

theorem State.Quiet.refl (s : State) : s.Quiet s := ⟨s.keeps_refl _, fun _ _ => rfl, fun _ h => h, fun _ => rfl⟩

theorem State.Quiet.trans {s t u : State} (h : s.Quiet t) (h' : t.Quiet u) : s.Quiet u :=
  ⟨s.keeps_trans h.1 h'.1, fun r hr => (h'.2.1 r hr).trans (h.2.1 r hr), fun e he => h'.2.2.1 e (h.2.2.1 e he), fun hh =>
    (h'.2.2.2 ((congrArg TlyRegs.holdOver (h.1 .tly (by simp))).trans hh)).trans (h.2.2.2 hh)⟩

theorem msixSignal_quiet (s : State) (v : Fin 64) : s.Quiet (msixSignal s v) := by
  simp only [msixSignal]
  split
  · exact ⟨fun k _ => by cases k <;> rfl, fun _ _ => rfl, fun _ h => h, fun _ => rfl⟩
  · exact ⟨fun k _ => by cases k <;> rfl, fun _ _ => rfl, fun _ h => List.mem_cons_of_mem _ h, fun _ => rfl⟩

theorem emit_quiet (s : State) (e : OutEvent) : s.Quiet (s.emit e) :=
  ⟨fun k _ => by cases k <;> rfl, fun _ _ => rfl, fun _ h => List.mem_cons_of_mem _ h, fun _ => rfl⟩

theorem onRing16_quiet (s : State) (f : RingRegs → RingRegs) : s.Quiet (s.onRing 16 f) := by
  refine ⟨fun k _ => by cases k <;> rfl, fun r hr => ?_, fun _ h => h, fun _ => rfl⟩
  exact vget_set_ne _ _ _ _ (by decide) fun e => by subst e; exact absurd hr (by decide)

theorem ringDrop16_quiet (s : State) : s.Quiet (ringDrop s 16) := by
  have h := onRing16_quiet s fun x => { x with drop := sat32 x.drop }
  refine h.trans ?_
  exact ⟨fun k _ => by cases k <;> rfl, fun _ _ => rfl, fun _ h => h, fun _ => rfl⟩

theorem ringSignal16_quiet (s : State) : s.Quiet (ringSignal s 16) := by
  simp only [ringSignal]
  split
  · exact (onRing16_quiet s _).trans (msixSignal_quiet _ _)
  · exact onRing16_quiet s _

theorem ringData16_quiet (s : State) (b : Bytes) : s.Quiet (ringData s 16 b) := by
  simp only [ringData]
  split
  · exact emit_quiet s _
  · exact (emit_quiet s _).trans (emit_quiet _ _)

/-- A record to the interrupt ring. -/
theorem ringWrite16_quiet (s : State) (b : Bytes) : s.Quiet (ringWrite s 16 b) := by
  simp only [ringWrite]
  split
  · exact ringDrop16_quiet s
  · exact (((ringData16_quiet s b).trans (onRing16_quiet _ _)).trans (emit_quiet _ _)).trans (ringSignal16_quiet _)

theorem aggIrq_quiet (s : State) (b : Bytes) : s.Quiet (aggIrq s b) := by
  refine State.Quiet.trans (t := s.onHst fun h => { h with irqSeqAgg := s.hst.irqSeqAgg + 1 }) ?_ (ringWrite16_quiet _ _)
  exact ⟨fun k _ => by cases k <;> rfl, fun _ _ => rfl, fun _ h => h, fun _ => rfl⟩

theorem svpIrq_quiet (s : State) (ty : Nat) (b : Bytes) : s.Quiet (svpIrq s ty b) := by
  refine State.Quiet.trans (t := s.onHst fun h => { h with irqSeqSvp := s.hst.irqSeqSvp + 1 }) ?_ (ringWrite16_quiet _ _)
  exact ⟨fun k _ => by cases k <;> rfl, fun _ _ => rfl, fun _ h => h, fun _ => rfl⟩

theorem logAppend_quiet (s : State) (ty : Nat) (p : Bytes) : s.Quiet (logAppend s ty p) := by
  simp only [logAppend]
  split
  · exact ⟨fun k _ => by cases k <;> rfl, fun _ _ => rfl, fun _ h => h, fun _ => rfl⟩
  · exact ⟨fun k _ => by cases k <;> rfl, fun _ _ => rfl, fun _ h => h, fun _ => rfl⟩

theorem storeRecord_quiet (s : State) (r : ErrRec) : s.Quiet (storeRecord s r) := by
  simp only [storeRecord]
  have h : s.Quiet (keepRecord s r) :=
    ⟨fun k _ => by cases k <;> rfl, fun _ _ => rfl, fun _ h => h, fun _ => rfl⟩
  split
  · exact (h.trans (aggIrq_quiet _ _)).trans (logAppend_quiet _ _ _)
  · exact h.trans (aggIrq_quiet _ _)

theorem foldl_quiet {α : Type} (f : State → α → State) (hf : ∀ (s : State) (x : α), s.Quiet (f s x)) (l : List α) (s : State) :
    s.Quiet (l.foldl f s) := by
  induction l generalizing s with
  | nil => exact .refl s
  | cons x l ih => exact (hf s x).trans (ih _)

theorem drainRecords_quiet (s : State) : s.Quiet (drainRecords s) := by
  refine State.Quiet.trans (t := s.onErr fun e => { e with fifo := [] }) ?_ (foldl_quiet _ storeRecord_quiet _ _)
  exact ⟨fun k _ => by cases k <;> rfl, fun _ _ => rfl, fun _ h => h, fun _ => rfl⟩

theorem trackRun_quiet (s : State) : s.Quiet (trackRun s) := by
  simp only [trackRun]
  split <;> exact ⟨fun k _ => by cases k <;> rfl, fun _ _ => rfl, fun _ h => h, fun _ => rfl⟩

theorem drivePins_quiet (old s : State) : s.Quiet (drivePins old s) := by
  simp only [drivePins]
  have h : s.Quiet (s.onPins fun p => { p with
      safeSt := safeStOf s, errOutN := p.errOutN || (s.tly.holdOver && s.tly.selftestOk && decide (safeStOf s ≠ 0)) }) :=
    ⟨fun k _ => by cases k <;> rfl, fun _ _ => rfl, fun _ h => h, fun h => by simp [h]⟩
  split
  · exact h.trans (msixSignal_quiet _ _)
  · exact h

/-- The state in which a command ends. -/
theorem finish_next (old s : State) : ∃ t, finish old s = .next t ∧ s.Quiet t :=
  ⟨_, rfl, ((drainRecords_quiet s).trans (trackRun_quiet _)).trans (drivePins_quiet old _)⟩

/-- A command that ends in `s` keeps what `s` has kept. -/
theorem finish_keeps {old s0 s : State} {l : List Kind} (h : s0.keeps l s) :
    ∃ t, finish old s = .next t ∧ s0.keeps l t ∧ s.Quiet t := by
  obtain ⟨t, ht, hq⟩ := finish_next old s
  exact ⟨t, ht, State.keeps_trans h (State.keeps_mono hq.1 (by simp)), hq⟩

/-! ### Single fields across the end of a command -/

theorem State.Quiet.core {s t : State} (h : s.Quiet t) (i : CoreId) : t.core i = s.core i :=
  congrArg (·.get i) (h.1 .cores (by simp))
theorem State.Quiet.prt {s t : State} (h : s.Quiet t) (p : PartId) : t.prt p = s.prt p :=
  congrArg (·.get p) (h.1 .parts (by simp))
theorem State.Quiet.ctx {s t : State} (h : s.Quiet t) (c : CtxId) : t.ctx c = s.ctx c :=
  congrArg (·.get c) (h.1 .ctxs (by simp))
theorem State.Quiet.die {s t : State} (h : s.Quiet t) (d : DieId) : t.die d = s.die d :=
  congrArg (·.get d) (h.1 .io (by simp))
theorem State.Quiet.mem {s t : State} (h : s.Quiet t) : t.mem = s.mem := h.1 .mem (by simp)
theorem State.Quiet.dev {s t : State} (h : s.Quiet t) : t.dev = s.dev := h.1 .dev (by simp)
theorem State.Quiet.tly {s t : State} (h : s.Quiet t) : t.tly = s.tly := h.1 .tly (by simp)
theorem State.Quiet.img {s t : State} (h : s.Quiet t) : t.img = s.img := h.1 .img (by simp)
theorem State.Quiet.pending {s t : State} (h : s.Quiet t) : t.pending = s.pending := h.1 .pending (by simp)
theorem State.Quiet.queue {s t : State} (h : s.Quiet t) (q : QueueId) : t.queue q = s.queue q := by
  cases q with
  | core c k => simp only [State.queue, h.core]
  | dq p => simp only [State.queue, h.prt]
theorem State.Quiet.hst {s t : State} (h : s.Quiet t) : t.hst.still = s.hst.still := h.1 .hst (by simp)
theorem State.Quiet.boot {s t : State} (h : s.Quiet t) : t.boot.still = s.boot.still := h.1 .boot (by simp)
theorem State.Quiet.err {s t : State} (h : s.Quiet t) : t.err.still = s.err.still := h.1 .err (by simp)
theorem State.Quiet.pins {s t : State} (h : s.Quiet t) : t.pins.still = s.pins.still := h.1 .pins (by simp)

/-- A register of the host port that the end of a command leaves. -/
theorem State.Quiet.hstOf {s t : State} (h : s.Quiet t) {β : Type} (g : HstRegs → β) (hg : ∀ x, g x.still = g x) :
    g t.hst = g s.hst := by rw [← hg t.hst, ← hg s.hst, h.hst]
/-- A register of the boot block that the end of a command leaves. -/
theorem State.Quiet.bootOf {s t : State} (h : s.Quiet t) {β : Type} (g : BootRegs → β) (hg : ∀ x, g x.still = g x) :
    g t.boot = g s.boot := by rw [← hg t.boot, ← hg s.boot, h.boot]
/-- A register of the aggregator that the end of a command leaves. -/
theorem State.Quiet.errOf {s t : State} (h : s.Quiet t) {β : Type} (g : ErrRegs → β) (hg : ∀ x, g x.still = g x) :
    g t.err = g s.err := by rw [← hg t.err, ← hg s.err, h.err]
/-- A pin that the end of a command leaves. -/
theorem State.Quiet.pinsOf {s t : State} (h : s.Quiet t) {β : Type} (g : Pins → β) (hg : ∀ x, g x.still = g x) :
    g t.pins = g s.pins := by rw [← hg t.pins, ← hg s.pins, h.pins]

/-- ERR_OUT_N is as before while its hold time has not passed. -/
theorem State.Quiet.errOut {s t : State} (h : s.Quiet t) (hh : s.tly.holdOver = false) : t.pins.errOutN = s.pins.errOutN :=
  h.2.2.2 hh

/-- The mailbox answer survives the end of a command. -/
theorem State.Quiet.answered {s t : State} (h : s.Quiet t) {tag : U16} {k : Nat} {r : Bytes} (ha : s.answered tag k r) :
    t.answered tag k r := by
  have e := h.hst
  simp only [HstRegs.still, HstRegs.mk.injEq] at e
  simp only [State.answered] at ha ⊢
  simp_all

end Sys2Proof.Machine
end

