-- ==== Sys2Proof/Laws/Memory.lean ====
section
/-!
SUPPORT. Laws/Memory.lean: sparse memory: every operation keeps the canonical form, what is read after a write, and the
bytes that a write leaves.
-/

namespace Sys2Proof.Machine

/-! ### Reading one byte -/

/-- A memory whose addresses all differ from `a` reads as the default there. -/
theorem memGet_absent {d : Byte} {m : List Host.Cell} {a : Nat} (h : ∀ c ∈ m, c.1 ≠ a) : memGet d m a = d := by
  induction m with
  | nil => rfl
  | cons c m ih =>
    obtain ⟨k, v⟩ := c
    have hk : k ≠ a := h (k, v) (List.mem_cons_self ..)
    simp only [memGet, hk, if_false]
    exact ih fun c hc => h c (List.mem_cons_of_mem _ hc)

/-- Reading two memories one behind the other. -/
theorem memGet_append (d : Byte) (m n : List Host.Cell) (a : Nat) :
    memGet d (m ++ n) a = if (∃ c ∈ m, c.1 = a) then memGet d m a else memGet d n a := by
  induction m with
  | nil => simp
  | cons c m ih =>
    obtain ⟨k, v⟩ := c
    by_cases hk : k = a
    · simp [memGet, hk]
    · simp only [List.cons_append, memGet, hk, if_false, ih, List.mem_cons]
      congr 1
      simp [hk]

/-- Dropping cells at other addresses does not change what an address reads as. -/
theorem memGet_filter {d : Byte} {m : List Host.Cell} {p : Host.Cell → Bool} {a : Nat} (h : ∀ v, p (a, v) = true) :
    memGet d (m.filter p) a = memGet d m a := by
  induction m with
  | nil => rfl
  | cons c m ih =>
    obtain ⟨k, v⟩ := c
    by_cases hk : k = a
    · subst hk
      simp [h, memGet]
    · by_cases hp : p (k, v) <;> simp [hp, memGet, hk, ih]

/-- Dropping every cell at an address makes it read as the default. -/
theorem memGet_filter_out {d : Byte} {m : List Host.Cell} {p : Host.Cell → Bool} {a : Nat} (h : ∀ v, p (a, v) = false) :
    memGet d (m.filter p) a = d := by
  apply memGet_absent
  intro c hc e
  have := (List.mem_filter.1 hc).2
  rw [show c = (a, c.2) from by rw [← e]] at this
  simp [h] at this

/-! ### The cells of a write -/

/-- The cells of a write lie inside it and none holds the default. -/
theorem memCells_mem {d : Byte} {a : Nat} {b : Bytes} {c : Host.Cell} (h : c ∈ memCells d a b) :
    a ≤ c.1 ∧ c.1 < a + b.length ∧ c.2 ≠ d := by
  induction b generalizing a with
  | nil => simp [memCells] at h
  | cons x b ih =>
    simp only [memCells] at h
    by_cases hx : x = d
    · simp only [hx, if_true] at h
      have := ih h
      simp only [List.length_cons]
      exact ⟨by omega, by omega, this.2.2⟩
    · simp only [hx, if_false, List.mem_cons] at h
      rcases h with rfl | h
      · simp [hx]
      · have := ih h
        simp only [List.length_cons]
        exact ⟨by omega, by omega, this.2.2⟩

/-- The cells of a write rise. -/
theorem memCells_rise (d : Byte) (a : Nat) (b : Bytes) : (memCells d a b).Pairwise fun x y => x.1 < y.1 := by
  induction b generalizing a with
  | nil => exact List.Pairwise.nil
  | cons x b ih =>
    simp only [memCells]
    split
    · exact ih _
    · refine List.pairwise_cons.2 ⟨fun c hc => ?_, ih _⟩
      have := memCells_mem hc
      exact Nat.lt_of_lt_of_le (Nat.lt_succ_self a) this.1

/-- What the cells of a write read as inside it. -/
theorem memGet_memCells (d : Byte) (a : Nat) (b : Bytes) (i : Nat) : memGet d (memCells d a b) (a + i) = b.getD i d := by
  induction b generalizing a i with
  | nil => simp [memCells, memGet]
  | cons x b ih =>
    cases i with
    | zero =>
      by_cases hx : x = d
      · simp only [memCells, hx, if_true]
        rw [memGet_absent]
        · simp
        · intro c hc e
          have := memCells_mem hc
          omega
      · simp [memCells, hx, memGet]
    | succ i =>
      have e : a + (i + 1) = a + 1 + i := by omega
      by_cases hx : x = d
      · simp only [memCells, hx, if_true, e, ih]
        simp
      · have hk : ¬ a = a + 1 + i := by omega
        simp only [memCells, hx, if_false, e, memGet, hk, ih]
        simp

/-! ### Writing and erasing -/

/-- A write keeps the canonical form. -/
theorem memPut_wf {d : Byte} {m : List Host.Cell} (h : memWf d m) (a : Nat) (b : Bytes) : memWf d (memPut d m a b) := by
  refine ⟨?_, ?_⟩
  · simp only [memPut, List.pairwise_append]
    refine ⟨⟨h.1.filter _, memCells_rise d a b, fun x hx y hy => ?_⟩, h.1.filter _, fun x hx y hy => ?_⟩
    · have hx := (List.mem_filter.1 hx).2
      have := memCells_mem hy
      simp only [decide_eq_true_eq] at hx
      omega
    · have hy := (List.mem_filter.1 hy).2
      simp only [decide_eq_true_eq] at hy
      rcases List.mem_append.1 hx with hx | hx
      · have hx := (List.mem_filter.1 hx).2
        simp only [decide_eq_true_eq] at hx
        omega
      · have := memCells_mem hx
        omega
  · intro c hc
    simp only [memPut, List.mem_append, List.mem_filter] at hc
    rcases hc with (hc | hc) | hc
    · exact h.2 c hc.1
    · exact (memCells_mem hc).2.2
    · exact h.2 c hc.1

/-- A byte outside a write reads as before. -/
theorem memGet_memPut_out (d : Byte) (m : List Host.Cell) {a k : Nat} {b : Bytes} (h : k < a ∨ a + b.length ≤ k) :
    memGet d (memPut d m a b) k = memGet d m k := by
  have hc : memGet d (memCells d a b) k = d := memGet_absent fun c hc => by
    have := memCells_mem hc
    omega
  have hn : ¬ ∃ c ∈ memCells d a b, c.1 = k := fun ⟨c, hc, e⟩ => by
    have := memCells_mem hc
    omega
  simp only [memPut, List.append_assoc, memGet_append, hn, if_false]
  rcases h with h | h
  · have hf : memGet d (m.filter (·.1 < a)) k = memGet d m k := memGet_filter fun v => by simpa using h
    split
    · exact hf
    · rename_i hx
      have : memGet d (m.filter (·.1 < a)) k = d := memGet_absent fun c hc e => hx ⟨c, hc, e⟩
      rw [← hf, this]
      exact memGet_filter_out fun v => by simp; omega
  · have hno : ¬ ∃ c ∈ m.filter (fun c : Host.Cell => decide (c.1 < a)), c.1 = k := fun ⟨c, hc, e⟩ => by
      have := (List.mem_filter.1 hc).2
      simp only [decide_eq_true_eq] at this
      omega
    simp only [hno, if_false]
    exact memGet_filter fun v => by simpa using h

/-- A byte inside a write reads as written. -/
theorem memGet_memPut_in (d : Byte) (m : List Host.Cell) (a : Nat) (b : Bytes) {i : Nat} (h : i < b.length) :
    memGet d (memPut d m a b) (a + i) = b.getD i d := by
  have hno : ¬ ∃ c ∈ m.filter (fun c : Host.Cell => decide (c.1 < a)), c.1 = a + i := fun ⟨c, hc, e⟩ => by
    have := (List.mem_filter.1 hc).2
    simp only [decide_eq_true_eq] at this
    omega
  simp only [memPut, List.append_assoc, memGet_append, hno, if_false]
  split
  · exact memGet_memCells d a b i
  · rename_i hx
    have h1 : memGet d (memCells d a b) (a + i) = d := memGet_absent fun c hc e => hx ⟨c, hc, e⟩
    rw [← memGet_memCells d a b i, h1]
    exact memGet_filter_out fun v => by simp; omega

/-- Erasing keeps the canonical form. -/
theorem memErase_wf {d : Byte} {m : List Host.Cell} (h : memWf d m) (a n : Nat) : memWf d (memErase m a n) :=
  ⟨h.1.filter _, fun c hc => h.2 c (List.mem_filter.1 hc).1⟩

/-- An erased byte reads as the default. -/
theorem memGet_memErase_in (d : Byte) (m : List Host.Cell) {a n k : Nat} (h : a ≤ k) (h' : k < a + n) :
    memGet d (memErase m a n) k = d := memGet_filter_out fun v => by simp; omega

/-- A byte outside an erased range reads as before. -/
theorem memGet_memErase_out (d : Byte) (m : List Host.Cell) {a n k : Nat} (h : k < a ∨ a + n ≤ k) :
    memGet d (memErase m a n) k = memGet d m k := memGet_filter fun v => by simpa using h

end Sys2Proof.Machine
end

