-- ==== Sys2Proof/Laws/Ops.lean ====
section
/-!
SUPPORT. Laws/Ops.lean: what the shared operations over memory, beads and queues do, each said once.
-/

namespace Sys2Proof.Machine

/-! ### Memory -/

/-- A write changes memory, the uncorrectable words it cures and the owners of Ledge lines. -/
theorem poke_keeps (s : State) (w : CtxId × BitVec 12) (a : Nat) (b : Bytes) : s.keeps [.mem, .bad, .lineOwner] (s.poke w a b) := by
  intro k hk
  simp only [State.poke]
  split
  · exact k.same_refl s
  · cases k <;> first | rfl | simp at hk

theorem poke_out (s : State) (w : CtxId × BitVec 12) (a : Nat) (b : Bytes) : (s.poke w a b).out = s.out := by
  simp only [State.poke]; split <;> rfl

theorem poke_mem (s : State) (w : CtxId × BitVec 12) (a : Nat) (b : Bytes) :
    (s.poke w a b).mem = if b = [] then s.mem else memPut 0 s.mem a b := by
  cases b <;> simp [State.poke]

/-- The bytes written are read back. -/
theorem poke_in (s : State) (w : CtxId × BitVec 12) (a : Nat) (b : Bytes) {i : Nat} (h : i < b.length) :
    memGet 0 (s.poke w a b).mem (a + i) = b.getD i 0 := by
  have hb : b ≠ [] := by rintro rfl; simp at h
  rw [poke_mem, if_neg hb, memGet_memPut_in _ _ _ _ h]

/-- Every other byte is as before. -/
theorem poke_elsewhere (s : State) (w : CtxId × BitVec 12) {a k : Nat} {b : Bytes} (h : k < a ∨ a + b.length ≤ k) :
    memGet 0 (s.poke w a b).mem k = memGet 0 s.mem k := by
  rw [poke_mem]
  split
  · rfl
  · exact memGet_memPut_out _ _ h

theorem poke_wf (s : State) (w : CtxId × BitVec 12) (a : Nat) (b : Bytes) (h : memWf 0 s.mem) : memWf 0 (s.poke w a b).mem := by
  rw [poke_mem]
  split
  · exact h
  · exact memPut_wf h _ _

/-! ### Writes that an uncorrectable word may cut (R529) -/

/-- What takes effect of a write lies within it. -/
theorem whole_within (s : State) (a : Nat) (b : Bytes) :
    a ≤ (s.whole a b).1 ∧ (s.whole a b).1 + (s.whole a b).2.length ≤ a + b.length := by
  simp only [State.whole, List.length_take, List.length_drop]
  split <;> split <;> omega

/-- A write that covers no uncorrectable word in part takes effect whole. -/
theorem whole_clean (s : State) (a : Nat) {b : Bytes} (hb : b ≠ []) (h : s.badIn a b.length true = none) :
    s.whole a b = (a, b) := by
  have hn : 0 < b.length := List.length_pos_iff.2 hb
  have key : ∀ k, k < a + b.length → a < k + 8 → (s.bad.contains k && !(decide (a ≤ k) && decide (k + 8 ≤ a + b.length))) = false := by
    intro k h1 h2
    rcases Bool.eq_false_or_eq_true (s.bad.contains k) with hk | hk
    · have := List.find?_eq_none.1 h k (by simpa using hk)
      simp only [hk]
      simp_all
    · rw [hk]; rfl
  have k1 := key (a / 8 * 8) (by omega) (by omega)
  have k2 := key ((a + b.length - 1) / 8 * 8) (by omega) (by omega)
  simp only [State.whole, k1, k2]
  simp

theorem pokePart_clean (s : State) (w : CtxId × BitVec 12) (a : Nat) (b : Bytes) (h : s.badIn a b.length true = none) :
    s.pokePart w a b = s.poke w a b := by
  by_cases hb : b = []
  · subst hb; simp [State.pokePart, State.whole, State.poke]
  · simp only [State.pokePart, whole_clean s a hb h]

theorem pokePart_keeps (s : State) (w : CtxId × BitVec 12) (a : Nat) (b : Bytes) :
    s.keeps [.mem, .bad, .lineOwner] (s.pokePart w a b) := poke_keeps s w _ _

/-- Every byte outside the write is as before. -/
theorem pokePart_elsewhere (s : State) (w : CtxId × BitVec 12) {a k : Nat} {b : Bytes} (h : k < a ∨ a + b.length ≤ k) :
    memGet 0 (s.pokePart w a b).mem k = memGet 0 s.mem k := by
  have := whole_within s a b
  exact poke_elsewhere s w (by omega)

theorem pokePart_wf (s : State) (w : CtxId × BitVec 12) (a : Nat) (b : Bytes) (h : memWf 0 s.mem) :
    memWf 0 (s.pokePart w a b).mem := poke_wf s w _ _ h

/-- A list of writes changes the same kinds. -/
theorem commit_keeps (s : State) (w : CtxId × BitVec 12) (ws : List (Nat × Bytes)) :
    s.keeps [.mem, .bad, .lineOwner] (s.commit w ws) := by
  induction ws generalizing s with
  | nil => exact s.keeps_refl _
  | cons e r ih => exact State.keeps_trans (pokePart_keeps s w e.1 e.2) (ih _)

theorem commit_nil (s : State) (w : CtxId × BitVec 12) : s.commit w [] = s := rfl

theorem commit_one (s : State) (w : CtxId × BitVec 12) (a : Nat) (b : Bytes) : s.commit w [(a, b)] = s.pokePart w a b := rfl

/-- A byte outside every write is as before. -/
theorem commit_elsewhere (s : State) (w : CtxId × BitVec 12) (ws : List (Nat × Bytes)) {k : Nat}
    (h : ∀ e, e ∈ ws → k < e.1 ∨ e.1 + e.2.length ≤ k) : memGet 0 (s.commit w ws).mem k = memGet 0 s.mem k := by
  induction ws generalizing s with
  | nil => rfl
  | cons e r ih =>
    exact (ih (s.pokePart w e.1 e.2) fun x hx => h x (List.mem_cons_of_mem _ hx)).trans
      (pokePart_elsewhere s w (h e List.mem_cons_self))

theorem commit_wf (s : State) (w : CtxId × BitVec 12) (ws : List (Nat × Bytes)) (h : memWf 0 s.mem) :
    memWf 0 (s.commit w ws).mem := by
  induction ws generalizing s with
  | nil => exact h
  | cons e r ih => exact ih _ (pokePart_wf s w e.1 e.2 h)

/-! ### Keyed lists and beads -/

theorem keyGet_keyPut_self {α : Type} [DecidableEq α] (d : α) (l : List (Nat × α)) (k : Nat) (v : α) :
    keyGet d (keyPut d l k v) k = v := by
  have h1 : (l.filter fun x => decide (x.1 < k)).find? (fun e => decide (e.1 = k)) = none := by
    rw [List.find?_eq_none]
    intro x hx e
    have := (List.mem_filter.1 hx).2
    simp at this e
    omega
  have h2 : (l.filter fun e => decide (k < e.1)).find? (fun e => decide (e.1 = k)) = none := by
    rw [List.find?_eq_none]
    intro x hx e
    have := (List.mem_filter.1 hx).2
    simp at this e
    omega
  simp only [keyGet, keyPut, List.find?_append, h1, h2]
  split <;> simp_all

theorem keyGet_keyPut_ne {α : Type} [DecidableEq α] (d : α) (l : List (Nat × α)) {k j : Nat} (v : α) (h : j ≠ k) :
    keyGet d (keyPut d l k v) j = keyGet d l j := by
  simp only [keyGet, keyPut, List.find?_append]
  have hm : (if v = d then [] else [(k, v)]).find? (fun e : Nat × α => decide (e.1 = j)) = none := by
    split
    · rfl
    · simp [Ne.symm h]
  rw [hm]
  have key : ∀ l : List (Nat × α), (((l.filter fun x => decide (x.1 < k)).find? fun e => decide (e.1 = j)).or none).or
      ((l.filter fun e => decide (k < e.1)).find? fun e => decide (e.1 = j)) = l.find? fun e => decide (e.1 = j) := by
    intro l
    rcases Nat.lt_or_gt_of_ne h with hj | hj
    · have h2 : (l.filter fun e => decide (k < e.1)).find? (fun e => decide (e.1 = j)) = none := by
        rw [List.find?_eq_none]
        intro x hx e
        have := (List.mem_filter.1 hx).2
        simp at this e
        omega
      rw [h2, Option.or_none, Option.or_none, List.find?_filter]
      congr 1
      funext e
      by_cases he : e.1 = j <;> simp [he, hj]
    · have h2 : (l.filter fun x => decide (x.1 < k)).find? (fun e => decide (e.1 = j)) = none := by
        rw [List.find?_eq_none]
        intro x hx e
        have := (List.mem_filter.1 hx).2
        simp at this e
        omega
      rw [h2, Option.or_none, Option.none_or, List.find?_filter]
      congr 1
      funext e
      by_cases he : e.1 = j
      · simp [he]; omega
      · simp [he]
  rw [key]

/-- The bead that is set has its value. -/
@[simp] theorem bead_setBead_self (s : State) (p : PartId) (i : Nat) (v : U32) : (s.setBead p i v).bead p i = v := by
  simp [State.bead, State.setBead, keyGet_keyPut_self]

/-- Every other bead is as before. -/
theorem bead_setBead_ne (s : State) {p q : PartId} {i j : Nat} (v : U32) (h : (q, j) ≠ (p, i)) :
    (s.setBead p i v).bead q j = s.bead q j := by
  by_cases hq : q = p
  · subst hq
    have hj : j ≠ i := fun e => h (by rw [e])
    simp [State.bead, State.setBead, keyGet_keyPut_ne _ _ _ hj]
  · simp only [State.bead, State.setBead]
    rw [State.prt_onPart_ne _ _ _ _ hq]

@[simp] theorem bead_addBead_self (s : State) (p : PartId) (i n : Nat) :
    (s.addBead p i n).bead p i = s.bead p i + BitVec.ofNat 32 n := bead_setBead_self ..

theorem bead_addBead_ne (s : State) {p q : PartId} {i j : Nat} (n : Nat) (h : (q, j) ≠ (p, i)) :
    (s.addBead p i n).bead q j = s.bead q j := bead_setBead_ne _ _ h

theorem addBead_keeps (s : State) (p : PartId) (i n : Nat) : s.keeps [.parts] (s.addBead p i n) := by
  intro k hk; cases k <;> first | rfl | simp at hk

/-- Beads do not touch the queues. -/
@[simp] theorem queue_addBead (s : State) (p : PartId) (i n : Nat) (q : QueueId) : (s.addBead p i n).queue q = s.queue q := by
  cases q with
  | core c k => rfl
  | dq r =>
    by_cases h : r = p
    · subst h; simp [State.queue, State.addBead, State.setBead]
    · simp only [State.queue, State.addBead, State.setBead]
      rw [State.prt_onPart_ne _ _ _ _ h]

/-! ### Queues -/

/-- The update of a queue leaves everything but the units that hold queues. -/
theorem onQueue_keeps (s : State) (q : QueueId) (f : QueueRt → QueueRt) : s.keeps [.cores, .parts] (s.onQueue q f) := by
  intro k hk
  cases q <;> cases k <;> first | rfl | simp at hk

theorem onHead_keeps (s : State) (q : QueueId) (f : QEntry → QEntry) : s.keeps [.cores, .parts] (s.onHead q f) :=
  onQueue_keeps s q _

theorem onHead_entries (s : State) (q : QueueId) (f : QEntry → QEntry) {e : QEntry} {r : List QEntry}
    (h : (s.queue q).entries = e :: r) : ((s.onHead q f).queue q).entries = f e :: r := by
  simp [State.onHead, State.queue_onQueue_self, h]

theorem onHead_queue_ne (s : State) {p q : QueueId} (f : QEntry → QEntry) (h : p ≠ q) :
    (s.onHead q f).queue p = s.queue p := State.queue_onQueue_ne _ _ _ _ h

/-- A queue update leaves the beads. -/
@[simp] theorem bead_onQueue (s : State) (q : QueueId) (f : QueueRt → QueueRt) (p : PartId) (i : Nat) :
    (s.onQueue q f).bead p i = s.bead p i := by
  cases q with
  | core c k => rfl
  | dq r =>
    by_cases h : p = r
    · subst h; simp [State.bead, State.onQueue]
    · simp only [State.bead, State.onQueue]
      rw [State.prt_onPart_ne _ _ _ _ h]

/-! ### The head of a queue (R56) -/

/-- A queue whose head may not start has no job. -/
theorem job_none_of_wait {s : State} {q : QueueId} {e : QEntry} {r : List QEntry} (ok : Nat → Bool)
    (h : (s.queue q).entries = e :: r) (hw : s.waitDone q (hdrOf e.bytes) = false) : s.job q ok = none := by
  simp [State.job, h, hw]

/-- What a job says: the head of its queue, not executed, whose wait is over, in a partition that runs. -/
theorem job_spec {s : State} {q : QueueId} {ok : Nat → Bool} {j : Job} (h : s.job q ok = some j) :
    (s.queue q).entries = j.e :: (s.queue q).entries.tail ∧ j.q = q ∧ j.h = hdrOf j.e.bytes ∧ j.p = j.e.bytes.drop 16 ∧
      ok j.h.opcode = true ∧ j.e.executed = false ∧ s.waitDone q j.h = true ∧ s.inHandover q = false ∧
      s.inSegment q = false ∧ s.inReset (qPart q) = false ∧ s.isOffline (qPart q) = false ∧
      j.who = { ctx := j.h.ctx, gen := j.h.gen, part := qPart q, core := qCore? q, src := qSrc q (qEngine q)
                detail := descDetail q j.h j.e.origin } := by
  simp only [State.job] at h
  split at h
  · cases h
  · rename_i e r he
    split at h
    · rename_i hc
      simp only [Bool.and_eq_true, Bool.not_eq_true'] at hc
      cases h
      simp [he, hc]
    · cases h

end Sys2Proof.Machine
end

