-- ==== Sys2Proof/Laws/Reaction.lean ====
section
/-!
SUPPORT. Laws/Reaction.lean: what records, the fault reaction and the teardown of a context change, each said once
(R317, R353 to R361).
-/

namespace Sys2Proof.Machine

/-! ### Records -/

theorem putRecord_keeps (s : State) (src code : U16) (ctx : Option (CtxId × BitVec 12)) (flags count : Nat) (time : U64)
    (detail : Nat) : s.keeps [.err] (putRecord s src code ctx flags count time detail) := by
  intro k hk
  simp only [putRecord]
  split <;> (cases k <;> first | rfl | simp at hk)

theorem putRecord_out (s : State) (src code : U16) (ctx : Option (CtxId × BitVec 12)) (flags count : Nat) (time : U64)
    (detail : Nat) : (putRecord s src code ctx flags count time detail).out = s.out := by
  simp only [putRecord]; split <;> rfl

/-- The aggregator's modes and events that a record leaves alone. -/
def ErrRegs.modes (e : ErrRegs) : Bool × Bool × Option Nat × List CtxId × BitVec 4 × Bool :=
  (e.expect, e.deviceEvent, e.deviceAt, e.restart, e.offline, e.hostAbsent)

theorem putRecord_modes (s : State) (src code : U16) (ctx : Option (CtxId × BitVec 12)) (flags count : Nat) (time : U64)
    (detail : Nat) : (putRecord s src code ctx flags count time detail).err.modes = s.err.modes := by
  simp only [putRecord]; split <;> rfl

theorem writeCoal_keeps (s : State) (w : Coal) : s.keeps [.err] (writeCoal s w) :=
  putRecord_keeps _ _ _ _ _ _ _ _

theorem coalesce_keeps (s : State) (src code : U16) (ctx : Option (CtxId × BitVec 12)) (detail : Nat) :
    s.keeps [.err] (coalesce s src code ctx detail) := by
  simp only [coalesce]
  split
  · intro k hk; cases k <;> first | rfl | simp at hk
  · split
    · refine State.keeps_trans (t := s.onErr _) ?_ (writeCoal_keeps _ _)
      intro k hk; cases k <;> first | rfl | simp at hk
    · intro k hk; cases k <;> first | rfl | simp at hk

theorem coalesce_modes (s : State) (src code : U16) (ctx : Option (CtxId × BitVec 12)) (detail : Nat) :
    (coalesce s src code ctx detail).err.modes = s.err.modes := by
  simp only [coalesce]
  split
  · rfl
  · split
    · exact (putRecord_modes _ _ _ _ _ _ _ _).trans rfl
    · rfl

theorem bumpClass_keeps (s : State) (c : CtxId) (code : U16) : s.keeps [.ctxs] (bumpClass s c code) := by
  intro k hk; cases k <;> first | rfl | simp at hk

/-- A detection without a context changes the aggregator alone. -/
theorem event_keeps_none (s : State) (src code : U16) (detail : Nat) : s.keeps [.err] (event s src code none detail) := by
  simp only [event]
  split
  · exact putRecord_keeps _ _ _ _ _ _ _ _
  · split
    · exact coalesce_keeps _ _ _ _ _
    · exact putRecord_keeps _ _ _ _ _ _ _ _

/-- A detection changes the aggregator and the class counters of its context. -/
theorem event_keeps (s : State) (src code : U16) (ctx : Option (CtxId × BitVec 12)) (detail : Nat) :
    s.keeps [.err, .ctxs] (event s src code ctx detail) := by
  cases ctx with
  | none => exact State.keeps_mono (event_keeps_none _ _ _ _) (by simp)
  | some c =>
    simp only [event]
    split
    · exact State.keeps_mono (putRecord_keeps _ _ _ _ _ _ _ _) (by simp)
    · have hb : s.keeps [.err, .ctxs] (bumpClass s c.1 code) := State.keeps_mono (bumpClass_keeps _ _ _) (by simp)
      split
      · exact State.keeps_trans hb (State.keeps_mono (coalesce_keeps _ _ _ _ _) (by simp))
      · exact State.keeps_trans hb (State.keeps_mono (putRecord_keeps _ _ _ _ _ _ _ _) (by simp))

theorem event_modes (s : State) (src code : U16) (ctx : Option (CtxId × BitVec 12)) (detail : Nat) :
    (event s src code ctx detail).err.modes = s.err.modes := by
  simp only [event]
  split
  · exact putRecord_modes ..
  · split
    · exact (coalesce_modes _ _ _ _ _).trans (by cases ctx <;> rfl)
    · exact (putRecord_modes _ _ _ _ _ _ _ _).trans (by cases ctx <;> rfl)

/-- What a context keeps when a detection is counted for it: everything but the class counters. -/
def CtxRt.uncounted (x : CtxRt) : CtxRt := { x with classCnt := Vector.replicate 16 0 }

theorem event_ctx (s : State) (src code : U16) (ctx : Option (CtxId × BitVec 12)) (detail : Nat) (x : CtxId) :
    ((event s src code ctx detail).ctx x).uncounted = (s.ctx x).uncounted := by
  have hput : ∀ (t : State) (fl n : Nat) (tm : U64), ((putRecord t src code ctx fl n tm detail).ctx x) = t.ctx x :=
    fun t fl n tm => congrArg (·.get x) (putRecord_keeps t src code ctx fl n tm detail .ctxs (by simp))
  have hco : ∀ t : State, (coalesce t src code ctx detail).ctx x = t.ctx x :=
    fun t => congrArg (·.get x) (coalesce_keeps t src code ctx detail .ctxs (by simp))
  cases ctx with
  | none =>
    simp only [event]
    split
    · rw [hput]
    · split
      · rw [hco]
      · rw [hput]
  | some c =>
    have hb : ((bumpClass s c.1 code).ctx x).uncounted = (s.ctx x).uncounted := by
      by_cases h : x = c.1
      · subst h; simp [bumpClass, CtxRt.uncounted]
      · simp only [bumpClass]; rw [State.ctx_onCtx_ne _ _ _ _ h]
    simp only [event]
    split
    · rw [hput]
    · split
      · rw [hco]; exact hb
      · rw [hput]; exact hb

/-- A detection for one context leaves every other one. -/
theorem event_ctx_ne (s : State) (src code : U16) (c : CtxId × BitVec 12) (detail : Nat) {x : CtxId} (h : x ≠ c.1) :
    (event s src code (some c) detail).ctx x = s.ctx x := by
  have hput : ∀ (t : State) (fl n : Nat) (tm : U64), ((putRecord t src code (some c) fl n tm detail).ctx x) = t.ctx x :=
    fun t fl n tm => congrArg (·.get x) (putRecord_keeps t src code (some c) fl n tm detail .ctxs (by simp))
  have hco : ∀ t : State, (coalesce t src code (some c) detail).ctx x = t.ctx x :=
    fun t => congrArg (·.get x) (coalesce_keeps t src code (some c) detail .ctxs (by simp))
  have hb : (bumpClass s c.1 code).ctx x = s.ctx x := State.ctx_onCtx_ne _ _ _ _ h
  simp only [event]
  split
  · rw [hput]
  · split
    · rw [hco]; exact hb
    · rw [hput]; exact hb

/-! ### The state of a context -/

/-- A context takes a state: an interrupt record aside, nothing else changes. -/
theorem setCtxState_quiet (s : State) (c : CtxId) (v : CtxState) :
    (s.onCtx c fun x => { x with state := v }).Quiet (setCtxState s c v) := svpIrq_quiet _ _ _

theorem setCtxState_self (s : State) (c : CtxId) (v : CtxState) : (setCtxState s c v).ctx c = { s.ctx c with state := v } :=
  ((setCtxState_quiet s c v).ctx c).trans (State.ctx_onCtx_self ..)

theorem setCtxState_ne (s : State) {c x : CtxId} (v : CtxState) (h : x ≠ c) : (setCtxState s c v).ctx x = s.ctx x :=
  ((setCtxState_quiet s c v).ctx x).trans (State.ctx_onCtx_ne _ _ _ _ h)

theorem setCtxState_keeps (s : State) (c : CtxId) (v : CtxState) : s.keeps [.ctxs] (setCtxState s c v) := by
  refine State.keeps_trans (t := s.onCtx c fun x => { x with state := v }) ?_
    (State.keeps_mono (setCtxState_quiet s c v).1 (by simp))
  intro k hk; cases k <;> first | rfl | simp at hk

/-- The queues stay where cores and partitions stay. -/
theorem keeps_queue {s t : State} {l : List Kind} (h : s.keeps l t) (hc : Kind.cores ∉ l) (hp : Kind.parts ∉ l) (q : QueueId) :
    t.queue q = s.queue q := by
  cases q with
  | core i k => exact congrArg (fun v : Vector CoreRt 12 => coreQueue (v.get i) k) (h .cores hc)
  | dq p => exact congrArg (fun v : Vector PartRt 4 => (v.get p).dq) (h .parts hp)

/-! ### Teardown (R361) -/

/-- A queue without the descriptors of a context. -/
def QueueRt.without (x : QueueRt) (c : CtxId) : QueueRt := { x with entries := x.entries.filter fun e => decide (e.ctx ≠ c) }

theorem QueueRt.without_idem (x : QueueRt) (c : CtxId) : (x.without c).without c = x.without c := by
  simp [QueueRt.without]

theorem purge_foldl (c : CtxId) (l : List QueueId) (s : State) (q : QueueId) :
    (l.foldl (fun s q => s.onQueue q fun x => x.without c) s).queue q = if q ∈ l then (s.queue q).without c else s.queue q := by
  induction l generalizing s with
  | nil => simp
  | cons p l ih =>
    rw [List.foldl_cons, ih]
    by_cases h : q = p
    · subst h
      simp [State.queue_onQueue_self, QueueRt.without_idem]
    · simp [State.queue_onQueue_ne _ _ _ _ h, h]

theorem mem_allQueues (q : QueueId) : q ∈ allQueues := by
  have hp : qPart q ∈ allFin 4 := List.mem_finRange _
  refine List.mem_flatMap.2 ⟨qPart q, hp, ?_⟩
  cases q with
  | dq p => simp [partQueues, qPart]
  | core i k =>
    refine List.mem_append_left _ (List.mem_flatMap.2 ⟨i, ?_, ?_⟩)
    · have hi : i = coreOf (partOfCore i) (slotOfCore i) := by
        apply Fin.ext; simp [coreOf, partOfCore, slotOfCore]; omega
      have h3 : slotOfCore i = 0 ∨ slotOfCore i = 1 ∨ slotOfCore i = 2 := by
        have := (slotOfCore i).isLt
        omega
      simp only [coresOf, qPart, List.mem_cons, List.not_mem_nil, or_false]
      rcases h3 with h | h | h <;> rw [h] at hi
      · exact .inl hi
      · exact .inr (.inl hi)
      · exact .inr (.inr hi)
    · cases k <;> simp [queuesOf]

/-- Every queue loses the descriptors of the context and keeps the others. -/
theorem purgeQueues_queue (s : State) (c : CtxId) (q : QueueId) : (purgeQueues s c).queue q = (s.queue q).without c := by
  have h := purge_foldl c allQueues s q
  rw [if_pos (mem_allQueues q)] at h
  exact h

theorem purgeQueues_keeps (s : State) (c : CtxId) : s.keeps [.cores, .parts] (purgeQueues s c) := by
  have : ∀ (l : List QueueId) (s : State), s.keeps [.cores, .parts] (l.foldl (fun s q => s.onQueue q fun x =>
      { x with entries := x.entries.filter fun e => decide (e.ctx ≠ c) }) s) := by
    intro l
    induction l with
    | nil => exact fun s => s.keeps_refl _
    | cons q l ih => exact fun s => State.keeps_trans (onQueue_keeps s q _) (ih _)
  exact this _ s

theorem purgeQueues_out (s : State) (c : CtxId) : (purgeQueues s c).out = s.out := by
  have : ∀ (l : List QueueId) (s : State), (l.foldl (fun s q => s.onQueue q fun x =>
      { x with entries := x.entries.filter fun e => decide (e.ctx ≠ c) }) s).out = s.out := by
    intro l
    induction l with
    | nil => exact fun s => rfl
    | cons q l ih => exact fun s => (ih _).trans (by cases q <;> rfl)
  exact this _ s

theorem purgeHubs_keeps (s : State) (c : CtxId) : s.keeps [.parts] (purgeHubs s c) := by
  intro k hk; cases k <;> first | rfl | simp at hk

theorem purgeHubs_prt (s : State) (c : CtxId) (p : PartId) : (purgeHubs s c).prt p =
    if ((s.prt p).hub.want.map fun w => w.2.2.2) = some c then { s.prt p with hub := { (s.prt p).hub with want := none } }
    else s.prt p := by
  simp [purgeHubs, State.prt]

theorem purgeHubs_queue (s : State) (c : CtxId) (q : QueueId) : (purgeHubs s c).queue q = s.queue q := by
  cases q with
  | core i k => rfl
  | dq p => simp only [State.queue, purgeHubs_prt]; split <;> rfl

/-- A transaction that leaves through a port changes nothing but the outputs. -/
theorem portPass_keeps (s : State) (p : RingPort) (ch : Option RingChannel) (inB : Bool) (t : RingOut) :
    s.keeps [] (portPass s p ch inB t) := by
  intro k _
  unfold portPass
  split <;> (cases k <;> rfl)

theorem mgmtNow_keeps (s : State) (ty : Nat) (dst : Option (BitVec 2)) (body : Bytes) :
    s.keeps [.rng] (mgmtNow s ty dst body) := by
  have h (u : State) (p : RingPort) (t : RingOut) : u.keeps [.rng] (portSend u p t) :=
    State.keeps_mono (l := []) (portPass_keeps u p _ _ t) (by simp)
  have h0 : s.keeps [.rng] { s with rng := { s.rng with seq := s.rng.seq + 1 } } := by
    intro k hk; cases k <;> first | rfl | simp at hk
  cases dst with
  | some d => exact State.keeps_trans h0 (h _ _ _)
  | none => exact State.keeps_trans h0 (State.keeps_trans (h _ _ _) (h _ _ _))

theorem mgmtSend_keeps (s : State) (ty : Nat) (dst : Option (BitVec 2)) (body : Bytes) :
    s.keeps [.rng] (mgmtSend s ty dst body) := by
  unfold mgmtSend
  split
  · intro k hk; cases k <;> first | rfl | simp at hk
  · exact mgmtNow_keeps s ty dst body

/-- The purge removes what waits for the context: queues, hubs and the ring's unacknowledged writes. -/
theorem purge_keeps (s : State) (c : CtxId) : s.keeps [.cores, .parts, .rng] (purge s c) :=
  State.keeps_trans (State.keeps_mono (purgeQueues_keeps s c) (by simp))
    (State.keeps_trans (State.keeps_mono (purgeHubs_keeps _ c) (by simp)) (State.keeps_mono (State.keeps_onRng _ _) (by simp)))

theorem purge_queue (s : State) (c : CtxId) (q : QueueId) : (purge s c).queue q = (s.queue q).without c := by
  rw [purge, State.queue_onRng, purgeHubs_queue, purgeQueues_queue]

/-- The context after steps 1 and 2 of its teardown. -/
def CtxRt.torn (x : CtxRt) (stop : Option U16) : CtxRt :=
  { x with state := .draining, stopLatch := true, latched := none, stopTag := stop, frame := { x.frame with inFlight := false } }

/-- The state of a teardown but for the message to the manager. -/
def tornState (s : State) (c : CtxId) (stop : Option U16) : State :=
  (purge (setCtxState s c .draining) c).onCtx c fun x => { x with
    stopLatch := true, latched := none, stopTag := stop, frame := { x.frame with inFlight := false } }

/-- The message to the manager changes the ring alone. -/
theorem teardown_torn (s : State) (c : CtxId) (stop : Option U16) (code : U16) :
    (tornState s c stop).keeps [.rng] (teardown s c stop code) := by
  simp only [teardown]
  split
  · exact mgmtSend_keeps _ _ _ _
  · exact State.keeps_refl _ _

theorem tornState_keeps (s : State) (c : CtxId) (stop : Option U16) :
    s.keeps [.cores, .parts, .ctxs, .rng] (tornState s c stop) :=
  State.keeps_trans (State.keeps_mono (setCtxState_keeps s c .draining) (by simp))
    (State.keeps_trans (State.keeps_mono (purge_keeps _ c) (by simp)) (State.keeps_mono (State.keeps_onCtx _ _ _) (by simp)))

/-- The teardown of a context: contexts, queues, hubs, and the ring's messages and unacknowledged writes. -/
theorem teardown_keeps (s : State) (c : CtxId) (stop : Option U16) (code : U16) :
    s.keeps [.cores, .parts, .ctxs, .rng] (teardown s c stop code) :=
  State.keeps_trans (tornState_keeps s c stop) (State.keeps_mono (teardown_torn s c stop code) (by simp))

theorem purge_ctx (s : State) (c x : CtxId) : (purge s c).ctx x = s.ctx x :=
  congrArg (·.get x) (purge_keeps s c .ctxs (by simp))

theorem teardown_ctx (s : State) (c : CtxId) (stop : Option U16) (code : U16) (x : CtxId) :
    (teardown s c stop code).ctx x = (tornState s c stop).ctx x :=
  congrArg (·.get x) (teardown_torn s c stop code .ctxs (by simp))

/-- The torn-down context drains and its frame is over. -/
theorem teardown_self (s : State) (c : CtxId) (stop : Option U16) (code : U16) :
    (teardown s c stop code).ctx c = (s.ctx c).torn stop := by
  rw [teardown_ctx]
  refine (State.ctx_onCtx_self _ _ _).trans ?_
  rw [purge_ctx, setCtxState_self]
  rfl

/-- Every other context is as before. -/
theorem teardown_ne (s : State) {c x : CtxId} (stop : Option U16) (code : U16) (hx : x ≠ c) :
    (teardown s c stop code).ctx x = s.ctx x := by
  rw [teardown_ctx]
  refine (State.ctx_onCtx_ne _ _ _ _ hx).trans ?_
  rw [purge_ctx, setCtxState_ne _ _ hx]

/-- No queue keeps a descriptor of the context; those of the others stay. -/
theorem teardown_queue (s : State) (c : CtxId) (stop : Option U16) (code : U16) (q : QueueId) :
    (teardown s c stop code).queue q = (s.queue q).without c := by
  rw [keeps_queue (teardown_torn s c stop code) (by simp) (by simp) q]
  rw [tornState, State.queue_onCtx, purge_queue, (setCtxState_quiet s c .draining).queue q, State.queue_onCtx]

theorem purgeQueues_pins (s : State) (c : CtxId) : (purgeQueues s c).pins = s.pins := by
  have : ∀ (l : List QueueId) (s : State), (l.foldl (fun s q => s.onQueue q fun x =>
      { x with entries := x.entries.filter fun e => decide (e.ctx ≠ c) }) s).pins = s.pins := by
    intro l
    induction l with
    | nil => exact fun s => rfl
    | cons q l ih => exact fun s => (ih _).trans (State.pins_onQueue _ _ _)
  exact this _ s

theorem mgmtSend_pins (s : State) (ty : Nat) (dst : Option (BitVec 2)) (body : Bytes) :
    (mgmtSend s ty dst body).pins = s.pins := by
  have h (u : State) (p : RingPort) (ch : Option RingChannel) (b : Bool) (t : RingOut) : (portPass u p ch b t).pins = u.pins := by
    unfold portPass; split <;> rfl
  unfold mgmtSend
  split
  · rfl
  · cases dst with
    | some d => exact h _ _ _ _ _
    | none => exact (h _ _ _ _ _).trans (h _ _ _ _ _)

/-- A teardown leaves ERR_OUT_N while its hold time has not passed. -/
theorem teardown_errOut (s : State) (c : CtxId) (stop : Option U16) (code : U16) (h : s.tly.holdOver = false) :
    (teardown s c stop code).pins.errOutN = s.pins.errOutN := by
  have hh : ∀ u : State, (purgeHubs u c).pins = u.pins := fun _ => rfl
  have h1 : (tornState s c stop).pins.errOutN = s.pins.errOutN := by
    rw [tornState, State.pins_onCtx, purge, State.pins_onRng, hh, purgeQueues_pins]
    exact (setCtxState_quiet s c .draining).errOut h
  simp only [teardown]
  split
  · exact (congrArg Pins.errOutN (mgmtSend_pins _ _ _ _)).trans h1
  · exact h1

/-! ### The reaction to a fault (R317, R361) -/

theorem errLow_keeps (s : State) : s.keeps [.pins, .tly] (errLow s) := by
  intro k hk; cases k <;> first | rfl | simp at hk

theorem errLow_pin (s : State) : (errLow s).pins.errOutN = false := rfl

theorem errLow_hold (s : State) : (errLow s).tly.holdOver = false := rfl

theorem reactCtx_keeps (s : State) (c : CtxId) : s.keeps [.pins, .tly, .ctxs] (reactCtx s c) := by
  intro k hk; cases k <;> first | rfl | simp at hk

theorem reactCtx_self (s : State) (c : CtxId) :
    (reactCtx s c).ctx c = { s.ctx c with stopLatch := true, override := (s.ctx c).override || s.pin c } :=
  State.ctx_onCtx_self ..

theorem reactCtx_ne (s : State) {c x : CtxId} (h : x ≠ c) : (reactCtx s c).ctx x = s.ctx x :=
  State.ctx_onCtx_ne _ _ _ _ h

theorem reactCtx_pin (s : State) (c : CtxId) : (reactCtx s c).pins.errOutN = false := rfl

theorem reactCtx_hold (s : State) (c : CtxId) : (reactCtx s c).tly.holdOver = false := rfl

theorem tallyPush_keeps (s : State) (i : TallyItem) : s.keeps [.tly] (tallyPush s i) := by
  intro k hk
  simp only [tallyPush]
  split <;> (cases k <;> first | rfl | simp at hk)

/-- A fault of a context changes contexts, queues, the Tally's queue and the ring's counter of messages. -/
theorem faultCtx_keeps (s : State) (c : CtxId) (code : U16) (dev : Bool) :
    s.keeps [.cores, .parts, .ctxs, .rng, .tly] (faultCtx s c code dev) := by
  have h0 : ∀ f : TlyRegs → TlyRegs, s.keeps [.cores, .parts, .ctxs, .rng, .tly] (s.onTly f) := fun f k hk => by
    cases k <;> first | rfl | simp at hk
  have h1 : ∀ (t : State) (f : FrameRt → FrameRt), t.keeps [.cores, .parts, .ctxs, .rng, .tly] (t.onFrame c f) :=
    fun t f k hk => by cases k <;> first | rfl | simp at hk
  simp only [faultCtx]
  split
  · split
    · exact State.keeps_trans (State.keeps_trans (State.keeps_trans (h0 _) (h1 _ _))
        (State.keeps_mono (tallyPush_keeps _ _) (by simp))) (State.keeps_mono (teardown_keeps _ _ _ _) (by simp))
    · exact State.keeps_trans (State.keeps_trans (h0 _) (h1 _ _)) (State.keeps_mono (teardown_keeps _ _ _ _) (by simp))
  · exact h0 _

/-- A fault of a context leaves ERR_OUT_N and its hold time, while that has not passed. -/
theorem faultCtx_hold (s : State) (c : CtxId) (code : U16) (dev : Bool) (h : s.tly.holdOver = false) :
    (faultCtx s c code dev).tly.holdOver = false ∧ (faultCtx s c code dev).pins.errOutN = s.pins.errOutN := by
  have hp : ∀ (t : State) (i : TallyItem), (tallyPush t i).tly.holdOver = t.tly.holdOver ∧ (tallyPush t i).pins = t.pins :=
    fun t i => by simp only [tallyPush]; split <;> exact ⟨rfl, rfl⟩
  have key : ∀ u : State, u.tly.holdOver = false → u.pins = s.pins →
      (teardown u c none code).tly.holdOver = false ∧ (teardown u c none code).pins.errOutN = s.pins.errOutN := fun u h1 h2 =>
    ⟨(congrArg TlyRegs.holdOver (teardown_keeps u c none code .tly (by simp))).trans h1,
      (teardown_errOut u c none code h1).trans (congrArg Pins.errOutN h2)⟩
  simp only [faultCtx]
  split
  · split
    · exact key _ ((hp _ _).1.trans h) (hp _ _).2
    · exact key _ h rfl
  · exact ⟨h, rfl⟩

/-- Every other context is as before. -/
theorem faultCtx_ne (s : State) {c x : CtxId} (code : U16) (dev : Bool) (h : x ≠ c) : (faultCtx s c code dev).ctx x = s.ctx x := by
  simp only [faultCtx]
  split
  · rw [teardown_ne _ _ _ h]
    split
    · refine (congrArg (·.get x) (tallyPush_keeps _ _ .ctxs (by simp))).trans ?_
      exact State.ctx_onCtx_ne _ _ _ _ h
    · exact State.ctx_onCtx_ne _ _ _ _ h
  · rfl

/-- A context that runs is torn down: it drains with its stop latch set, and its generation stays. -/
theorem faultCtx_run (s : State) (c : CtxId) (code : U16) (dev : Bool)
    (h : (s.ctx c).state = .run ∨ (s.ctx c).state = .starting) :
    ((faultCtx s c code dev).ctx c).state = .draining ∧ ((faultCtx s c code dev).ctx c).stopLatch = true ∧
      ((faultCtx s c code dev).ctx c).gen = (s.ctx c).gen ∧ ((faultCtx s c code dev).ctx c).frame.inFlight = false ∧
      ((faultCtx s c code dev).ctx c).stopTag = none ∧
      ∀ q, (faultCtx s c code dev).queue q = (s.queue q).without c := by
  have key : ∀ (u : State), (u.ctx c).gen = (s.ctx c).gen →
      (∀ q, u.queue q = s.queue q) → let t := teardown u c none code
      (t.ctx c).state = .draining ∧ (t.ctx c).stopLatch = true ∧ (t.ctx c).gen = (s.ctx c).gen ∧
      (t.ctx c).frame.inFlight = false ∧ (t.ctx c).stopTag = none ∧ ∀ q, t.queue q = (s.queue q).without c := by
    intro u h2 h3
    refine ⟨?_, ?_, ?_, ?_, ?_, fun q => ?_⟩
    · rw [teardown_self]; rfl
    · rw [teardown_self]; rfl
    · rw [teardown_self]; exact h2
    · rw [teardown_self]; rfl
    · rw [teardown_self]; rfl
    · rw [teardown_queue, h3]
  have hf : ∀ (g : TlyRegs → TlyRegs) (f : FrameRt → FrameRt), 
      (((s.onTly g).onFrame c f).ctx c).gen = (s.ctx c).gen ∧ ∀ q, ((s.onTly g).onFrame c f).queue q = s.queue q := by
    intro g f
    refine ⟨?_, fun q => by cases q <;> rfl⟩
    simp [State.onFrame]
  simp only [faultCtx, h, if_true]
  split
  · refine key _ ?_ ?_
    · exact (congrArg CtxRt.gen (congrArg (·.get c) (tallyPush_keeps _ _ .ctxs (by simp)))).trans (hf _ _).1
    · exact fun q => (keeps_queue (tallyPush_keeps _ _) (by simp) (by simp) q).trans ((hf _ _).2 q)
  · exact key _ (hf _ _).1 (hf _ _).2

theorem countIso_keeps (s : State) (f : Flt) : s.keeps [.parts] (countIso s f) := by
  simp only [countIso]
  split
  · intro k hk; cases k <;> first | rfl | simp at hk
  · exact s.keeps_refl _

/-- A fault is no discard at an isolated boundary. -/
theorem countIso_fault (s : State) {f : Flt} (h : isFault f.code = true) : countIso s f = s := by
  have : f.code ≠ cIsolated := fun e => by rw [e] at h; exact absurd h (by decide)
  simp only [countIso, if_neg this]

/-- A fault of a context without cores and reset: records, the context, queues, pins and the Tally. -/
theorem raiseFlt_keeps (s : State) (f : Flt) (ctx : Option (CtxId × BitVec 12)) (hc : f.cores = []) (hr : f.reset = none)
    (hd : isDevice f.code = false) : s.keeps [.err, .cores, .parts, .ctxs, .rng, .tly, .pins] (raiseFlt s f ctx) := by
  have he : s.keeps [.err, .cores, .parts, .ctxs, .rng, .tly, .pins] (event (countIso s f) f.src f.code ctx f.detail) :=
    State.keeps_trans (State.keeps_mono (countIso_keeps s f) (by simp)) (State.keeps_mono (event_keeps _ _ _ _ _) (by simp))
  simp only [raiseFlt, hd, hc, hr, List.foldl_nil]
  split
  · exact he
  · simp only [Bool.false_eq_true, if_false]
    split
    · cases ctx with
      | none => exact he
      | some c =>
        simp only
        split
        · exact State.keeps_trans (State.keeps_trans he (State.keeps_mono (reactCtx_keeps _ _) (by simp)))
            (State.keeps_mono (faultCtx_keeps _ _ _ _) (by simp))
        · exact he
    · exact he

/-- A fault of the present generation of a context that runs: it drains, its egress stops, ERR_OUT_N is low, its
descriptors leave every queue, and every other context is as before (R317, R361). -/
theorem raiseFlt_run (s : State) (f : Flt) (c : CtxId) (hc : f.cores = []) (hr : f.reset = none)
    (hd : isDevice f.code = false) (hf : isFault f.code = true) (he : s.err.expect = false)
    (hs : (s.ctx c).state = .run ∨ (s.ctx c).state = .starting) (t : State)
    (ht : raiseFlt s f (some (c, (s.ctx c).gen)) = t) :
    (t.ctx c).state = .draining ∧ (t.ctx c).stopLatch = true ∧ (t.ctx c).gen = (s.ctx c).gen ∧
      (t.ctx c).frame.inFlight = false ∧ t.pins.errOutN = false ∧ t.tly.holdOver = false ∧
      (∀ q, t.queue q = (s.queue q).without c) ∧ ∀ x, x ≠ c → t.ctx x = s.ctx x := by
  have hu := event_ctx s f.src f.code (some (c, (s.ctx c).gen)) f.detail c
  have hg : ((event s f.src f.code (some (c, (s.ctx c).gen)) f.detail).ctx c).gen = (s.ctx c).gen :=
    (congrArg CtxRt.gen hu : (CtxRt.uncounted _).gen = (CtxRt.uncounted _).gen)
  have hst : ((event s f.src f.code (some (c, (s.ctx c).gen)) f.detail).ctx c).state = (s.ctx c).state :=
    (congrArg CtxRt.state hu : (CtxRt.uncounted _).state = (CtxRt.uncounted _).state)
  have hk := event_keeps s f.src f.code (some (c, (s.ctx c).gen)) f.detail
  have hq : ∀ q, (event s f.src f.code (some (c, (s.ctx c).gen)) f.detail).queue q = s.queue q := keeps_queue hk (by simp) (by simp)
  simp only [raiseFlt, countIso_fault s hf, hd, hc, hr, he, hf, hg, Bool.false_eq_true, if_false, if_true, List.foldl_nil] at ht
  subst ht
  obtain ⟨h1, h2, h3, h4, -, h5⟩ := faultCtx_run (reactCtx (event s f.src f.code (some (c, (s.ctx c).gen)) f.detail) c) c f.code
    false (by rw [reactCtx_self]; simpa [hst] using hs)
  refine ⟨h1, ?_, ?_, h4, ?_, ?_, fun q => ?_, fun x hx => ?_⟩
  · exact h2
  · rw [h3, reactCtx_self, hg]
  · exact (faultCtx_hold _ c f.code false (reactCtx_hold _ c)).2.trans (reactCtx_pin _ c)
  · exact (faultCtx_hold _ c f.code false (reactCtx_hold _ c)).1
  · rw [h5]
    congr 1
    exact (show (reactCtx _ c).queue q = _ by cases q <;> rfl).trans (hq q)
  · rw [faultCtx_ne _ _ _ hx, reactCtx_ne _ hx]
    exact event_ctx_ne _ _ _ _ _ hx

end Sys2Proof.Machine
end

