-- ==== Sys2Proof/Laws/Engine.lean ====
section
/-!
SUPPORT. Laws/Engine.lean: what an engine command does, said once for all of its rows (R53, R56, R57).
-/

namespace Sys2Proof.Machine

/-- The run of an engine row on the head of its queue. -/
def EngineRow.run (r : EngineRow) (s : State) : State := runJob s r.queue (· = r.op) r.facts r.resid r.body

/-- Every engine row is one run. -/
theorem exec_engine {c : Instr} {r : EngineRow} (h : engineOf c = some r) (s : State) : exec c s = finish s (r.run s) := by
  cases c <;> simp only [engineOf, reduceCtorEq] at h <;> (cases h; rfl)

/-- Without a job nothing runs: the head is checked. -/
theorem runJob_none {s : State} {q : QueueId} {ok : Nat → Bool} (f : Facts) (resid : Option (Nat × U16))
    (body : State → Job → Out) (h : s.job q ok = none) : runJob s q ok f resid body = headCheck s q := by
  simp only [runJob, h]

/-- A head without a fault is left. -/
theorem headCheck_ok {s : State} {q : QueueId} (h : s.headFault q = none) : headCheck s q = s := by
  simp only [headCheck, h]
  split <;> simp_all

/-- With a job the row runs from its start. -/
theorem EngineRow.run_some {r : EngineRow} {s : State} {j : Job} (h : s.job r.queue (· = r.op) = some j) :
    r.run s = endRun (r.start s j) r.facts j r.resid (r.body (r.start s j) j) := by
  simp only [EngineRow.run, runJob, h, EngineRow.start]

/-- An engine row whose queue has no job, and no head that fails its check, changes nothing. -/
theorem exec_engine_idle {c : Instr} {r : EngineRow} (h : engineOf c = some r) {s : State}
    (hj : s.job r.queue (· = r.op) = none) (hh : s.headFault r.queue = none) : ∃ t, exec c s = .next t ∧ s.Quiet t := by
  rw [exec_engine h, EngineRow.run, runJob_none _ _ _ hj, headCheck_ok hh]
  exact finish_next s s

/-- Writes that leave no word uncorrectable take effect. -/
theorem commitUe_ok {s after : State} {f : Facts} {w : Who} {ws : List (Nat × Bytes)} (h1 : s.badOfWrites (mirrorPair s ws) = none)
    (h2 : linkLost f ws = none) : commitUe s after f w ws = (commitRun after w ws, none) := by
  simp only [commitUe, h1, h2]

/-- Writes that cover a bad word in part take effect too, and the word is found. -/
theorem commitUe_bad {s after : State} {f : Facts} {w : Who} {ws : List (Nat × Bytes)} {k : Nat}
    (h : s.badOfWrites (mirrorPair s ws) = some k) : commitUe s after f w ws = (commitRun after w ws, some k) := by
  simp only [commitUe, h]

/-- A run without a fault, none of whose writes leaves a word uncorrectable: its writes take effect and the head is
executed. -/
theorem endRun_ok {s : State} {f : Facts} {j : Job} {resid : Option (Nat × U16)} {o : Out} (h1 : o.flt = none)
    (h2 : pairFlt s f j = none) (h3 : factFlt s f j resid = none) (h4 : s.badOfWrites (mirrorPair s o.writes) = none)
    (h5 : linkLost f o.writes = none) :
    ∃ n m, endRun s f j resid o =
      (commitRun o.after j.who o.writes).onHead j.q fun e => { e with executed := true, sum := n, cnt := m } := by
  simp only [endRun, h1, h2, h3, endClean, commitUe_ok h4 h5]
  exact ⟨_, _, rfl⟩

/-- A run whose writes meet a bad word in part: they take effect and the word's fault is raised (R529). -/
theorem endRun_bad {s : State} {f : Facts} {j : Job} {resid : Option (Nat × U16)} {o : Out} {k : Nat} (h1 : o.flt = none)
    (h2 : pairFlt s f j = none) (h3 : factFlt s f j resid = none) (h4 : s.badOfWrites (mirrorPair s o.writes) = some k) :
    endRun s f j resid o =
      runFault (commitRun o.after j.who o.writes) (ueFlt (commitRun o.after j.who o.writes).part k) j.who.ctx j.who.gen := by
  simp only [endRun, h1, h2, h3, endClean, commitUe_bad h4, raiseUe]

/-- A run with a fault of its own, none of whose writes leaves a word uncorrectable: its writes take effect and the fault is
raised, with the further events after it. -/
theorem endRun_fault {s : State} {f : Facts} {j : Job} {resid : Option (Nat × U16)} {o : Out} {x : Flt} (h : o.flt = some x)
    (h4 : s.badOfWrites (mirrorPair s o.writes) = none) (h5 : linkLost f o.writes = none) :
    endRun s f j resid o = o.more.foldl (fun s g =>
        if g.reset.isSome || g.code = cIsolated then raiseRun s g (some (j.who.ctx, j.who.gen))
        else event s g.src g.code (some (j.who.ctx, j.who.gen)) g.detail)
      (runFault (commitRun o.after j.who o.writes) x j.who.ctx j.who.gen) := by
  simp only [endRun, h, commitUe_ok h4 h5, raiseUe]

/-- The writes of a run change memory, the uncorrectable words they cure and the owners of Ledge lines. -/
theorem commitRun_keeps (s : State) (w : Who) (ws : List (Nat × Bytes)) :
    s.keeps [.mem, .bad, .lineOwner] (commitRun s w ws) := commit_keeps _ _ _

/-- A stage that starts changes the frame of its context alone. -/
theorem startStage_keeps (s : State) (c : CtxId) (st : Nat) : s.keeps [.ctxs] (startStage s c st) := by
  intro k hk; cases k <;> first | rfl | simp at hk

theorem startStage_ne (s : State) {c x : CtxId} (st : Nat) (h : x ≠ c) : (startStage s c st).ctx x = s.ctx x :=
  State.ctx_onCtx_ne _ _ _ _ h

end Sys2Proof.Machine
end

