-- ==== Sys2Proof/Laws/Mailbox.lean ====
section
/-!
SUPPORT. Laws/Mailbox.lean: how a mailbox command reaches its answer, said once for all of its rows (R501 to R504).
-/

namespace Sys2Proof.Machine

/-- Every mailbox row submits its opcode. -/
theorem exec_mbox {c : Instr} {op : Nat} {tag : U16} {a : Bytes} (h : mboxOf c = some (op, tag, a)) (s : State) :
    exec c s = finish s (submit s tag op a) := by
  cases c <;> simp only [mboxOf, reduceCtorEq, Option.some.injEq, Prod.mk.injEq] at h <;>
    (obtain ⟨rfl, rfl, rfl⟩ := h; rfl)

/-- MBOX_DATA holds what was written into it (R502). -/
theorem mbGet_mbPut (l : List (Nat × Byte)) (o : Nat) (b : Bytes) (h : o + b.length ≤ 4096) :
    mbGet (mbPut l o b) o b.length = b := by
  refine List.ext_getElem (by simp [mbGet]) fun i h1 h2 => ?_
  have hlo : (l.filter fun e => decide (e.1 < o)).find? (fun e => decide (e.1 = o + i)) = none := by
    rw [List.find?_eq_none]
    intro x hx e
    have := (List.mem_filter.1 hx).2
    simp at this e
    omega
  have hhi : (l.filter fun e => decide (o + b.length ≤ e.1)).find? (fun e => decide (e.1 = o + i)) = none := by
    rw [List.find?_eq_none]
    intro x hx e
    have := (List.mem_filter.1 hx).2
    simp at this e
    omega
  have key : ∀ (n k : Nat) (b : Bytes) (i : Nat), n = b.length → o + k + b.length ≤ 4096 → (hi : i < b.length) →
      ((((List.range' k n).zip b).filterMap fun e : Nat × Byte => if e.2 = 0 ∨ 4096 ≤ o + e.1 then none else some (o + e.1, e.2)).find?
        fun e => decide (e.1 = o + (k + i))) = if b[i] = 0 then none else some (o + (k + i), b[i]) := by
    intro n
    induction n with
    | zero => intro k b i hn _ hi; omega
    | succ n ih =>
      intro k b i hn hb hi
      cases b with
      | nil => simp at hi
      | cons x b =>
        simp only [List.length_cons] at hn hb hi
        simp only [List.range'_succ, List.zip_cons_cons]
        have hx : ∀ m : Nat, 4096 ≤ o + k ↔ False := fun _ => ⟨fun h => by omega, False.elim⟩
        cases i with
        | zero =>
          have hrest : ((((List.range' (k + 1) n).zip b).filterMap fun e : Nat × Byte =>
              if e.2 = 0 ∨ 4096 ≤ o + e.1 then none else some (o + e.1, e.2)).find? fun e => decide (e.1 = o + (k + 0))) = none := by
            rw [List.find?_eq_none]
            intro e he hd
            obtain ⟨y, hy, hy2⟩ := List.mem_filterMap.1 he
            have h1 := List.of_mem_zip (show (y.1, y.2) ∈ _ from hy)
            have h2 := List.mem_range'_1.1 h1.1
            split at hy2
            · cases hy2
            · cases hy2; simp at hd; omega
          by_cases h0 : x = 0
          · rw [List.filterMap_cons_none (by simp [h0]), hrest]; simp [h0]
          · rw [List.filterMap_cons_some (by simp only [h0, false_or, hx 0, if_false]; rfl)]
            simpa using h0
        | succ i =>
          have := ih (k + 1) b i (by omega) (by omega) (by omega)
          rw [show o + (k + (i + 1)) = o + (k + 1 + i) by omega]
          by_cases h0 : x = 0
          · rw [List.filterMap_cons_none (by simp [h0]), this]; simp
          · rw [List.filterMap_cons_some (by simp only [h0, false_or, hx 0, if_false]; rfl), List.find?_cons_of_neg (by simp; omega), this]
            simp
  have hm := key b.length 0 b i rfl (by omega) h2
  simp only [Nat.zero_add, ← List.range_eq_range'] at hm
  simp only [mbGet, List.getElem_map, List.getElem_range, keyGet, mbPut, List.find?_append, hlo, hhi, hm]
  by_cases h0 : b[i] = 0
  · rw [if_pos h0]; exact h0.symm
  · rw [if_neg h0]; rfl

/-- The interrupt record and MSI-X leave the answer alone. -/
theorem mboxIrq_quiet (s : State) (tag : U16) (op status : Nat) (r : Bytes) : s.Quiet (mboxIrq s tag op status r) :=
  svpIrq_quiet _ _ _

theorem mboxDone_quiet (s : State) (tag : U16) (op status : Nat) (r : Bytes) :
    (s.onHst fun h => { h with tag := tag, state := 2, status := BitVec.ofNat 8 status, rspLen := BitVec.ofNat 13 r.length
                               mbData := mbPut h.mbData 0 r }).Quiet (mboxDone s tag op status r) :=
  (msixSignal_quiet _ _).trans (mboxIrq_quiet _ _ _ _ _)

/-- A command that ends shows its answer (R501, R502). -/
theorem mboxDone_answered (s : State) (tag : U16) (op status : Nat) (r : Bytes) : (mboxDone s tag op status r).answered tag status r := by
  refine (mboxDone_quiet s tag op status r).answered ⟨rfl, rfl, rfl, rfl, fun h => ?_⟩
  exact mbGet_mbPut _ _ _ (by omega)

/-- The end of a command changes the host port alone. -/
theorem mboxDone_keeps (s : State) (tag : U16) (op status : Nat) (r : Bytes) : s.keeps [.hst] (mboxDone s tag op status r) := by
  refine State.keeps_trans (t := s.onHst _) ?_ (State.keeps_mono (mboxDone_quiet s tag op status r).1 (by simp))
  intro k hk; cases k <;> first | rfl | simp at hk

/-- The host port after an access: the link is up and the function is in D0. -/
def State.accessed (s : State) : State := s.onHst fun h => { h with linkUp := true, d3hot := false }

/-- The host's registers after a command was written. -/
def State.written (s : State) (tag : U16) (op : Nat) (a : Bytes) : State :=
  s.accessed.onHst fun h => { h with
    cmdTag := tag, cmdOp := BitVec.ofNat 8 op, argLen := BitVec.ofNat 13 a.length, mbData := mbPut h.mbData 0 a }

/-- A domain that is live needs neither wake nor clock switch. -/
theorem clockSwitch_live (s : State) (n src : Nat) (h : s.domLive n = true) : clockSwitch (wakeDom src s n) n = s := by
  simp only [State.domLive, Bool.or_eq_true, Bool.and_eq_true, decide_eq_true_eq, Bool.not_eq_true'] at h
  have hd : s.domIsDown n = false := by
    rcases h with h | h <;> simp [State.domIsDown, h]
  have hw : wakeDom src s n = s := by simp [wakeDom, hd]
  rw [hw, clockSwitch]
  rcases h with h | h <;> simp [h]

/-- An access of a host that reaches the device has its effect. -/
theorem hostAccess_live (s : State) (f : State → State) (h : s.hostLive) : hostAccess s f = f s.accessed := by
  have h1 : pcieUp s = s := clockSwitch_live s _ _ h.2
  simp only [hostAccess, h1, h.1, h.2]
  rfl

theorem accessed_keeps (s : State) : s.keeps [.hst] s.accessed := by
  intro k hk
  cases k <;> first | rfl | simp at hk

theorem written_keeps (s : State) (tag : U16) (op : Nat) (a : Bytes) : s.keeps [.hst] (s.written tag op a) := by
  refine State.keeps_trans (accessed_keeps s) ?_
  intro k hk; cases k <;> first | rfl | simp at hk

/-- The doorbell of a mailbox that is not busy and whose server runs: the command is served as it was written (R501). -/
theorem submit_serve (s : State) (tag : U16) (op : Nat) (a : Bytes) (hl : s.hostLive) (hs : s.hst.state ≠ 1)
    (hr : s.hst.ready = true) (hp : s.boot.recovery = true ∨ (s.proc .svp).state = .running) (hn : a.length ≤ 4096)
    (ho : op < 256) : submit s tag op a = serve (s.written tag op a) tag op a := by
  have e2 : (s.written tag op a).hst.state = s.hst.state := rfl
  have e3 : (s.written tag op a).hst.ready = s.hst.ready := rfl
  have e4 : (s.written tag op a).boot = s.boot := rfl
  have e5 : (s.written tag op a).proc .svp = s.proc .svp := rfl
  have e6 : mbGet (s.written tag op a).hst.mbData 0 (s.written tag op a).hst.argLen.toNat = a := by
    have : (s.written tag op a).hst.argLen.toNat = a.length := by
      show (BitVec.ofNat 13 a.length).toNat = _
      rw [BitVec.toNat_ofNat, Nat.mod_eq_of_lt (by omega)]
    rw [this]
    exact mbGet_mbPut _ _ _ (by omega)
  have e7 : (s.written tag op a).hst.cmdOp.toNat = op := by
    show (BitVec.ofNat 8 op).toNat = _
    rw [BitVec.toNat_ofNat, Nat.mod_eq_of_lt (by omega)]
  have e8 : (s.written tag op a).hst.cmdTag = tag := rfl
  have hw : submit s tag op a = doorbell (s.written tag op a) := by
    rw [submit, hostAccess_live s _ hl]
    have e1 : s.accessed.hst.state = s.hst.state := rfl
    simp only [e1, hs, if_false]; rfl
  rw [hw]
  simp only [doorbell, e2, hs, e3, hr, e4, e5, e6, e7, e8, if_false, Bool.not_true, Bool.false_eq_true]
  rw [if_pos (by simpa using hp)]

end Sys2Proof.Machine
end

