-- ==== Sys2Proof/Laws/Residue.lean ====
section
/-!
SUPPORT. Laws/Residue.lean: the residue that a checker predicts is that of the result, and every upset of one bit is caught (R331).
-/

namespace Sys2Proof.Machine

/-- A residue is the value modulo 3. -/
theorem residue_cast (v : Int) : (residue v : Int) = v % 3 := Int.toNat_of_nonneg (Int.emod_nonneg v (by decide))

theorem residue_eq {v w : Int} : residue v = residue w ↔ v % 3 = w % 3 := by
  rw [← residue_cast, ← residue_cast]; exact Nat.cast_inj.symm

theorem predAdd_residue (a b : Int) : predAdd (residue a) (residue b) = residue (a + b) := by
  have h := residue_cast (a + b); have ha := residue_cast a; have hb := residue_cast b
  simp only [predAdd]; omega

theorem predSub_residue (a b : Int) : predSub (residue a) (residue b) = residue (a - b) := by
  have h := residue_cast (a - b); have ha := residue_cast a; have hb := residue_cast b
  simp only [predSub]; omega

theorem predMul_residue (a b : Int) : predMul (residue a) (residue b) = residue (a * b) := by
  have h : ((predMul (residue a) (residue b) : Nat) : Int) = (residue (a * b) : Nat) := by
    simp only [predMul, Int.natCast_emod, Int.natCast_mul, residue_cast]
    exact (Int.mul_emod a b 3).symm
  exact_mod_cast h

/-- A power of two is 1 or 2 modulo 3, by the parity of its exponent. -/
theorem two_pow_mod (s : Nat) : 2 ^ s % 3 = if s % 2 = 0 then 1 else 2 := by
  induction s with
  | zero => rfl
  | succ s ih => rw [pow_succ, Nat.mul_mod, ih]; split <;> split <;> omega

theorem predShift_residue (v : Int) (s : Nat) : predShift (residue v) s = residue (v * (2 ^ s : Nat)) := by
  have h : residue (v * (2 ^ s : Nat)) = predMul (residue v) (residue ((2 ^ s : Nat) : Int)) := (predMul_residue _ _).symm
  have hp : residue ((2 ^ s : Nat) : Int) = 2 ^ s % 3 := by simp only [residue]; omega
  rw [h, hp, two_pow_mod, predShift, predMul]
  have := residue_cast v
  split <;> omega

theorem predRneShr_residue (v : Int) (s : Nat) : predRneShr v s = residue (rneShr v s) := by
  unfold predRneShr
  generalize hq : v / ((2 ^ s : Nat) : Int) = q
  have h4 : residue (q * ((2 ^ s : Nat) : Int) * ((2 ^ s : Nat) : Int)) = residue q := by
    have hp := two_pow_mod s
    rw [residue_eq, Int.mul_assoc, Int.mul_emod, Int.mul_emod ((2 ^ s : Nat) : Int)]
    have h1 : (((2 ^ s : Nat) : Int) % 3) * (((2 ^ s : Nat) : Int) % 3) % 3 = 1 := by
      generalize (2 : Nat) ^ s = p at hp ⊢
      have : (p : Int) % 3 = 1 ∨ (p : Int) % 3 = 2 := by split at hp <;> omega
      rcases this with h | h <;> rw [h] <;> decide
    rw [h1, Int.mul_one, Int.emod_emod_of_dvd _ (dvd_refl 3)]
  dsimp only
  rw [predSub_residue, show v - (v - q * ((2 ^ s : Nat) : Int)) = q * ((2 ^ s : Nat) : Int) by omega, predShift_residue, h4,
    predAdd_residue]
  congr 1
  omega

/-- The prediction for a clamp: the operand's own residue, or that of the bound taken. -/
theorem predSat_residue {pred : Nat} {v : Int} (out : Int) (h : pred = residue v) : predSat pred v out = residue out := by
  unfold predSat
  split
  · next e => rw [e, h]
  · rfl

theorem predRescale_residue (p : Int) (sc : Nat) : predRescale p sc = residue (rescale p sc) := by
  unfold predRescale
  split
  · next h => rw [h]; rfl
  · next h =>
    refine predSat_residue _ ?_
    unfold rescaleRaw
    rw [if_neg h]
    dsimp only
    split
    · rw [predMul_residue, predShift_residue]
    · exact predRneShr_residue _ _

/-- What a residue checker predicts is the residue of the right result (R331). -/
theorem opPred_residue (o : ResidueOp) : opPred o = residue (opResult o) := by
  cases o with
  | add a b => exact predAdd_residue a b
  | sub a b => exact predSub_residue a b
  | mul a b => exact predMul_residue a b
  | shl v s => exact predShift_residue v s
  | rneShr v s => exact predRneShr_residue v s
  | select a b k => cases k <;> rfl
  | clamp v lo hi => exact predSat_residue _ rfl
  | rescale p sc => exact predRescale_residue p sc

/-- An upset that flips one bit of a result changes its residue (R331). -/
theorem residue_flipBit (v : Int) (i : Nat) : residue (flipBit v i) ≠ residue v := by
  have h := two_pow_mod i
  generalize hp : (2 : Nat) ^ i = p at h
  rw [Ne, residue_eq, flipBit, hp]
  split <;> split at h <;> omega

/-- Every upset of one bit is caught. -/
theorem caught_all (u : ResidueUpset) : caught u = true := by
  rw [caught, opPred_residue]
  exact decide_eq_true (residue_flipBit _ _)

end Sys2Proof.Machine
end

