-- ==== Sys2Proof/Machine/Status.lean ====
section
/-!
DEFINITION. Machine/Status.lean: the status words that show several pieces of State in one register: what a read of them gives,
with the fields in the places of R36, R117, R172, R185, R195, R205, R233, R291, R324, R351, R352, R376 and R377.
-/

namespace Sys2Proof.Machine

/-- A register word of fields, each with its lowest bit and its value. -/
def statusWord (fields : List (Nat × Nat)) : U32 := BitVec.ofNat 32 (sumN (fields.map fun f => f.2 * 2 ^ f.1))

/-- The descriptor that an engine executes: the head of its queue, begun and not completed; the trailing core of a pair executes
that of the leading core (R336). -/
def State.executing (s : State) (q : QueueId) : Option QEntry :=
  match s.presented q with
  | e :: _ => if e.executed then some e else none
  | [] => none

/-- A field of the executing descriptor of a queue; 0 while none executes. -/
def State.ofRun (s : State) (q : QueueId) (f : QEntry → Nat) : Nat := ((s.executing q).map f).getD 0

/-- The descriptor that the array executes on a queue is an ARRAY descriptor. -/
def isArray (e : QEntry) : Bool := decide ((hdrOf e.bytes).opcode = 0x20)

/-- `ARR_STATUS` (R117). DESIGN CHOICE (log 54): SHAPE is 0 while a descriptor without a shape executes. -/
def State.arrStatus (s : State) (i : CoreId) : U32 :=
  let q : QueueId := .core i .aq
  let a := (s.core i).arr
  statusWord [(16, s.ofRun q fun e => if isArray e then byteAt e.bytes 16 else 0), (12, s.ofRun q fun e => (hdrOf e.bytes).ctx.1), (3, b2n a.shadow.isSome),
    (2, b2n a.active.isSome), (1, b2n ((s.trailOf i).isSome || (s.leadOf i).isSome)), (0, b2n (s.executing q).isSome)]

/-- The descriptor uses the output stage: an ARRAY descriptor with OUT_EN (R111). -/
def usesOst (e : QEntry) : Bool := isArray e && bit (byteAt e.bytes 17) 1

/-- A control block of an ARRAY descriptor selects the spoil form (R113, R153). -/
def State.ocbSpoil (s : State) (i : CoreId) (p : Bytes) : Bool :=
  let offs := match packOf (byteAt p 0) with
    | some lim => (List.range lim.1).map fun k => fld (s.peek (ledgeBase i + fld p 32 4 + 32 * k + 12) 4) 0 4
    | none => [fld p 28 4]
  offs.any fun o => bit (fld (s.peek (ledgeBase i + o) 2) 0 2) 8

/-- `OST_STATUS` (R172). DESIGN CHOICE (log 54): the encoder is active while a descriptor that selects the spoil form is in the
output stage. -/
def State.ostStatus (s : State) (i : CoreId) : U32 :=
  let o := (s.core i).ost
  let e := (s.executing (.core i .aq)).filter usesOst
  statusWord [(8, (e.map fun e => (hdrOf e.bytes).ctx.1).getD 0), (3, b2n (e.any fun e => s.ocbSpoil i (e.bytes.drop 16))),
    (2, b2n !o.rowBufs.isEmpty), (1, b2n o.pwl.isSome), (0, b2n e.isSome)]

/-- `SET_STATUS` (R195). -/
def State.setStatus (s : State) (i : CoreId) : U32 :=
  let q : QueueId := .core i .sq
  statusWord [(12, s.ofRun q fun e => (hdrOf e.bytes).ctx.1), (1, s.ofRun q fun e => b2n (settOf (e.bytes.drop 16)).argmax),
    (0, b2n (s.executing q).isSome)]

/-- The executing descriptor decides in deterministic order (R209, R233). -/
def State.ordered (s : State) (i : CoreId) (e : QEntry) : Bool :=
  let h := hdrOf e.bytes
  !s.relaxed h.ctx || h.golden || (s.trailOf i).isSome || (s.leadOf i).isSome

/-- `SCR_STATUS` (R233). -/
def State.scrStatus (s : State) (i : CoreId) : U32 :=
  let q : QueueId := .core i .xq
  statusWord [(12, s.ofRun q fun e => (hdrOf e.bytes).ctx.1), (4, s.ofRun q fun e => (hdrOf e.bytes).opcode % 16),
    (1, s.ofRun q fun e => b2n (s.ordered i e)), (0, b2n (s.executing q).isSome)]

/-- `DRS_STATUS` (R205). -/
def State.drsStatus (s : State) (p : PartId) : U32 :=
  statusWord [(12, s.ofRun (.dq p) fun e => (hdrOf e.bytes).ctx.1), (0, b2n (s.executing (.dq p)).isSome)]

/-- `CRU_STATUS` (R185); a golden tile runs within the step of its frame start, so GOLD_BUSY is 0. -/
def State.cruStatus (s : State) (d : DieId) (i : Fin 2) : U32 :=
  let x := (s.die d).cru.get i
  statusWord [(8, x.profile.toNat), (0, b2n x.busy)]

/-- `PHB_STATUS` (R351). -/
def State.phbStatus (s : State) (p : PartId) : U32 :=
  let h := (s.prt p).hub
  let k := h.pair.getD (0, 0)
  statusWord [(6, k.2.1), (4, k.1.1), (3, b2n h.selfchkFail), (2, b2n h.want.isSome), (0, b2n h.pair.isSome)]

/-- `LST_STATUS` (R352). -/
def State.lstStatus (s : State) (i : CoreId) : U32 :=
  let l := (s.core i).lst
  statusWord [(8, l.nextSeg.1), (3, b2n l.failed), (2, b2n l.overdue), (1, b2n l.req), (0, b2n l.running)]

/-- `LST_PASS_AGE`: seconds in RUN or DEGRADED since the last pass; a fenced core has none (R349, R352). -/
def State.passAge (s : State) (i : CoreId) : U32 :=
  if s.isFenced i then 0
  else BitVec.ofNat 32 (min (2 ^ 32 - 1) ((s.boot.odo.runTicks - (s.core i).lst.ageFrom) / ticksPerSec))

/-- `CFH_STATUS` (R377): PENDING counts the faults of the last code that are still in its window. -/
def State.cfhStatus (s : State) (i : CoreId) : U32 :=
  let x := (s.core i).cfh
  let n := (x.hist.filter fun e => decide (e.1 = x.lastCode) && decide (fenceClock s i none ≤ e.2 + 1000)).length
  statusWord [(31, b2n x.fenced), (29, x.adopter.toNat), (16, min n x.pending.toNat), (0, x.lastCode.toNat)]

/-- The state of a partition as a number (R376). -/
def prtNum : PrtState → Nat
  | .service => 0
  | .isolating => 1
  | .sampling => 2
  | .resetting => 3
  | .training => 4
  | .restoring => 5
  | .starting => 6
  | .offline => 7

/-- `PRT_STATUS` (R376). -/
def State.prtStatus (s : State) (p : PartId) : U32 :=
  let x := (s.prt p).prt
  statusWord [(8, min x.resets600.toNat (x.times.filter fun t => s.within t 600).length), (4, x.slot.toNat), (0, prtNum x.state)]

/-- The lowest stage of the current frame that has not ended; 0 without one. -/
def State.stageOf (s : State) (c : CtxId) : Nat :=
  let f := (s.ctx c).frame
  (((allFin 32).find? fun i => f.inFlight && (s.stageCfg c i.1).isSome && decide ((f.stages.get i).phase ≠ .ended)).map (·.1)).getD 0

/-- `CTX_STATUS` (R36). -/
def State.ctxStatus (s : State) (c : CtxId) : U32 :=
  let x := s.ctx c
  statusWord [(20, x.gen.toNat), (8, s.stageOf c), (3, b2n x.latched.isSome), (0, ctxNum x.state)]

/-- `TB_STATUS` (R291). -/
def State.tbStatus (s : State) : U32 :=
  let b := s.tb
  statusWord [(5, b2n b.serving), (4, b2n b.slewing), (2, b.source.toNat), (1, b2n b.holdover), (0, b2n b.locked)]

/-- `TLY_STATUS` (R324). -/
def State.tlyStatus (s : State) : U32 :=
  let t := s.tly
  statusWord [(24, t.ceCnt.toNat), (8, tallyDepth s), (4, b2n (decide (s.dev = .safe))), (3, b2n t.lockstepErr),
    (2, b2n t.selftestOk), (1, b2n t.restarting), (0, b2n t.ready)]

/-- `TLY_PIN_SENSE`: the levels at the balls (R324, R343). -/
def State.pinSense (s : State) : U32 :=
  statusWord [(3, b2n s.pins.alive), (2, b2n s.pins.errOutN), (0, s.pins.safeSt.toNat)]

/-- `IFF_LEVEL` (R263). -/
def State.iffLevel (s : State) (d : DieId) : U32 := BitVec.ofNat 32 (fifoBytes (s.die d))

/-- `TB_HOLD_TIME`: whole seconds in the current holdover (R291). -/
def State.holdTime (s : State) : U32 :=
  if s.tb.holdover then BitVec.ofNat 32 (min (2 ^ 32 - 1) ((s.ticks - s.tb.holdFrom) / ticksPerSec)) else 0

end Sys2Proof.Machine
end

