-- ==== Sys2Proof/Machine/RegisterMap.lean ====
section
/-!
DEFINITION. Machine/RegisterMap.lean: what a host read of BAR0 or BAR4 answers: the registers of every block at their offsets
(R36, R117, R138, R148, R149, R172, R185, R195, R205, R233, R263, R291 to R293, R324, R351, R352, R375 to R377, R404, R405, R432,
R467, R468, R484, R491, R496, R499, R502) and the address map with its rules of access (R12, R488, R489); and the identity of the
function (R485, R527) and the state of the balls (R511). No command of the table reads a register but TB_SEC_LO_READ, so these
are views of State.
-/

namespace Sys2Proof.Machine

/-! ### Registers of a block -/

/-- A register: its offset in its block, its bytes and its value. -/
abbrev Reg := Nat × Nat × Nat

/-- 32-bit registers one after another. -/
def words (o : Nat) (l : List U32) : List Reg := l.zipIdx.map fun x => (o + 4 * x.2, 4, x.1.toNat)

/-- A read of a block: 4 bytes of a register, or 8 of one of 64 bits; any other access reads zero (R488). -/
def regRead (l : List Reg) (o n : Nat) : Nat :=
  match l.find? fun r => decide (r.1 ≤ o) && decide (o < r.1 + r.2.1) with
  | some r => if decide (n = 4 ∧ (o - r.1) % 4 = 0) || decide (n = 8 ∧ r.2.1 = 8 ∧ o = r.1) then r.2.2 / 2 ^ (8 * (o - r.1)) % 2 ^ (8 * n)
    else 0
  | none => 0

/-- `HST_STATUS` (R491): the mailbox is served by the recovery firmware, or by an SVP that runs. -/
def State.hstStatus (s : State) : U32 :=
  statusWord [(8, devNum s.dev), (4, s.pins.safeSt.toNat), (3, b2n s.boot.recovery), (2, b2n s.hst.hostAbsent),
    (1, b2n (decide (s.hst.state = 1))), (0, b2n (s.hst.ready && (s.boot.recovery || s.svpRuns)))]

/-- `HST_HB_AGE`: ms since the last heartbeat, saturating (R491). -/
def State.hbAge (s : State) : U32 := BitVec.ofNat 32 (min (2 ^ 32 - 1) ((s.ticks - s.hst.hbFrom) * 1000 / ticksPerSec))

/-- HST with the mailbox registers (R491, R502). -/
def State.hstRegs (s : State) : List Reg :=
  let h := s.hst
  words 0 [s.hstStatus, s.hbAge, h.dropCnt, h.rejCnt, h.mboxIgn] ++ [(0x20, 8, h.bar2Base.toNat * 2 ^ 20)] ++
    words 0x2000 [statusWord [(16, h.cmdTag.toNat), (0, h.cmdOp.toNat)],
      statusWord [(16, h.tag.toNat), (8, h.state.toNat), (0, h.status.toNat)], h.argLen.setWidth 32, h.rspLen.setWidth 32]

/-- A ring (R496). -/
def ringRegs (r : RingRegs) : List Reg :=
  [(0x00, 8, r.base.toNat), (0x08, 8, r.tailWb.toNat)] ++
    words 0x10 [statusWord [(16, r.coal.toNat), (9, b2n r.irqEn), (8, b2n r.en), (0, r.sizeLog2.toNat)]] ++
    words 0x18 [r.tail, r.head, r.drop]

/-- The status block of a context (R36). -/
def State.ctxRegs (s : State) (c : CtxId) : List Reg :=
  let x := s.ctx c
  words 0 [s.ctxStatus c, x.frameNum, x.trigMissed, x.ndcTotal, x.staleDesc]

/-- TB (R291). -/
def State.tbRegs (s : State) : List Reg :=
  let b := s.tb
  words 0 [b.sec.setWidth 32, b.latHi.setWidth 32, b.latNs.setWidth 32, b.latFrac, b.addend.setWidth 32,
    BitVec.ofNat 32 (b.addend.toNat / 2 ^ 32),
    statusWord [(20, b.kiSh.toNat), (14, b.kpSh.toNat), (1, b2n b.hold), (0, b2n b.en)]] ++
    words 0x20 [b.theta.setWidth 32, BitVec.ofNat 32 (b.theta.toNat / 2 ^ 32), b.integ, s.tbStatus, b.stepCnt, s.holdTime]

/-- TLY (R324). -/
def State.tlyRegs (s : State) : List Reg :=
  let t := s.tly
  words 0 [s.tlyStatus, t.verdicts, t.fails, t.degraded, t.deadline, t.evalMax, s.pinSense, t.errHold.setWidth 32, t.qfull] ++
    words 0x40 ((allFin 16).map fun c =>
      let x := s.ctx c
      statusWord [(18, b2n x.stopLatch), (16, verdictNum x.verdict), (0, x.reason.toNat)])

/-- REC (R404). -/
def State.recRegs (s : State) : List Reg :=
  let r := s.recd
  words 0 [statusWord [(2, r.cause.toNat), (0, recNum r.state)], 0, BitVec.ofNat 32 (r.bytes / mib), r.loss, r.norec]

/-- REP (R404). -/
def State.repRegs (s : State) : List Reg :=
  let r := s.rep
  words 0 [statusWord [(4, r.error.toNat), (1, b2n r.finished), (0, b2n r.active)], 0] ++ [(0x08, 8, r.cb.toNat)] ++
    words 0x10 [r.matchCnt, r.digestDiff, r.nondet, r.fieldDiff, r.verdictDiff, r.unchecked, r.firstFrame]

/-- What `LKS_STATUS.STATE` shows (R405). -/
def lksNum : LksState → Nat
  | .off => 0
  | .armed => 1
  | .mismatch => 2
  | .imageMismatch => 3
  | .notAllowed => 4
  | .peerLost => 5

/-- A lock-step slot (R405). -/
def lksRegs (l : LksRegs) : List Reg :=
  words 0 [statusWord [(4, (l.ctx.map (·.1)).getD 0), (0, lksNum l.state)], 0, l.cmp, l.mismatch, l.skipped, l.firstNs,
    statusWord [(12, l.firstKey.toNat), (0, l.firstQseq.toNat)]]

/-- What `RNG_PORT.STATE` shows (R432). -/
def linkNum : LinkState → Nat
  | .off => 0
  | .training => 1
  | .up => 2
  | .idle => 3
  | .ownId => 4
  | .clash => 5
  | .wrongNeighbour => 6

/-- The registers of a ring port; they lie in its domain (R432, R475, R488). -/
def State.portRegs (s : State) (k : Fin 2) : List Reg :=
  let p := s.rng.ports.get k
  if s.domIsDown (0x35 + k.1) then []
  else words (0x10 + 0x10 * k.1) [statusWord [(10, b2n p.peerValid), (8, p.peerId.toNat), (0, linkNum p.state)], p.retry, p.down, p.starve]

/-- RNG (R432). -/
def State.rngRegs (s : State) : List Reg :=
  let r := s.rng
  words 0 [statusWord [(12, r.members.toNat), (10, r.mgrId.toNat), (9, b2n s.isMgr), (8, b2n r.chain), (5, b2n r.digestErr), (4, b2n r.idle),
    (3, b2n r.clash), (2, b2n !r.bypass), (0, r.id.toNat)], r.epoch, r.mgmtDrop] ++ (allFin 2).flatMap s.portRegs

/-- What `UPD_STATUS.STATE` shows (R467). -/
def updNum : UpdState → Nat
  | .idle => 0
  | .staging => 1
  | .staged => 2
  | .live => 3
  | .deferredEmergency => 4
  | .deferredReset => 5

/-- BOOT (R467). -/
def State.bootStRegs (s : State) : List Reg :=
  let b := s.boot
  let prog := sumN ((allFin 4).map fun k => if (b.fuses.keys.get k).isSome then 2 ^ k.1 else 0)
  words 0 [statusWord [(24, b.keySlot.toNat), (16, b.fuses.count), (12, b.fuses.revoked.toNat), (8, prog), (5, b2n b.otherValid),
    (4, b2n b.live), (3, b2n b.recovery), (2, b2n b.fallback), (0, b.bank.1)], b.seq, b.otherSeq, b.timeUs,
    statusWord [(8, b.nextProc.toNat), (0, updNum b.updState)], b.updBytes]

/-- What `FWP_STATUS.STATE` shows (R468). -/
def procStNum : ProcState → Nat
  | .halted => 0
  | .running => 1
  | .restarting => 2
  | .deferred => 3
  | .disabled => 4

/-- FWP (R468). -/
def State.fwpRegs (s : State) : List Reg :=
  (allFin 7).flatMap fun i =>
    let x := s.fwp.get i
    words (0x10 * i.1) [statusWord [(3, b2n x.newFw), (0, procStNum x.state)], x.restarts,
      statusWord [(16, b2n x.slot), (0, x.code.toNat)], x.dumpLost]

/-- What `PWR_DOM.STATE` shows (R484). -/
def domStNum : DomState → Nat
  | .off => 0
  | .ret => 1
  | .onFio => 2
  | .onPll => 3

/-- What `PWR_PART.DIV` shows (R484). -/
def divNum : Divider → Nat
  | .d5 => 5
  | .d6 => 6
  | .d8 => 8
  | .d10 => 10

/-- PWR (R484). -/
def State.pwrRegs (s : State) : List Reg :=
  let w := s.pwr
  words 0 ((List.range 64).map fun n =>
    let d := s.dom n
    statusWord [(16, d.wakes.toNat), (8, d.lastWake.toNat), (4, b2n !(domPresent s.part n)), (3, b2n d.hostReq), (2, b2n (s.domInUse n)),
      (0, domStNum d.state)]) ++
  (allFin 4).flatMap (fun p =>
    let x := s.rail p
    words (0x100 + 0x10 * p.1) [statusWord [(16, x.avsMv.toNat), (8, x.margin.toNat), (5, b2n (s.throttled p)), (4, b2n x.forced),
      (0, (x.div.map divNum).getD 0)], x.stretchCnt]) ++
  words 0x140 [statusWord [(16, w.tjMax.toNat), (8, w.hotSensor.toNat), (2, b2n w.alert), (1, b2n w.emerg), (0, b2n w.loop)],
    statusWord [(16, s.capNow), (0, w.now.toNat)], w.emergCnt, w.thermCnt]

/-- ERR (R375). -/
def State.errRegs (s : State) : List Reg :=
  let e := s.err
  words 0 [statusWord [(3, b2n e.hostAbsent), (2, b2n e.wrapped), (1, b2n e.deviceEvent), (0, b2n e.expect)], e.wrIdx, e.lost,
    statusWord [(16, e.offline.toNat), (0, s.fencedMask)]]

/-- ARR (R117). -/
def State.arrRegs (s : State) (i : CoreId) : List Reg :=
  let a := (s.core i).arr
  words 0 [s.arrStatus i, a.issueCnt, a.stallFeed, a.stallFill, a.stallOut, a.checkCnt, a.checkLast, a.inject]

/-- QNT (R148). -/
def qntRegs (q : QntRegs) : List Reg := words 0 [q.termSat, q.accSat, q.skewCnt, q.skewLast]

/-- OST (R172). -/
def State.ostRegs (s : State) (i : CoreId) : List Reg :=
  let o := (s.core i).ost
  words 0 [s.ostStatus i, o.elemCnt, o.linesCnt, o.spoilIn, o.spoilOut, o.residueCnt]

/-- SET (R195). -/
def State.setRegs (s : State) (i : CoreId) : List Reg :=
  let x := (s.core i).set
  words 0 [s.setStatus i, x.macCyc, x.stallIn, x.residueCnt]

/-- SCR (R233). -/
def State.scrRegs (s : State) (i : CoreId) : List Reg :=
  let x := (s.core i).scr
  words 0 [s.scrStatus i, x.elemCnt, x.drop, x.oor, x.sat, x.ndc, x.stallBank, x.residueCnt]

/-- LST (R352). -/
def State.lstRegs (s : State) (i : CoreId) : List Reg :=
  let x := (s.core i).lst
  words 0 [s.lstStatus i, s.passAge i, x.passCnt, x.deferCnt, x.lastUs]

/-- STS (R149). -/
def stsRegs (x : PartRt) : List Reg :=
  words 0 [x.adaptCnt, x.adaptClamp, x.adaptLimit] ++ words 0x10 ((List.range 8).map fun i =>
    BitVec.ofNat 32 (sumN ((List.range 32).map fun k => if ((x.stats.toList[32 * i + k]?).map (·.overBit)).getD false then 2 ^ k else 0)))

/-- PHB (R351). -/
def State.phbRegs (s : State) (p : PartId) : List Reg :=
  let h := (s.prt p).hub
  words 0 [s.phbStatus p, h.mismatchCnt, h.pairCnt, h.mismatchLast, h.inject]

/-- DRS (R205). -/
def State.drsRegs (s : State) (p : PartId) : List Reg :=
  let x := (s.prt p).drs
  words 0 [s.drsStatus p, x.boxCnt, x.truncCnt, x.badBox, x.residueCnt, x.fetch]

/-- PRT (R376). -/
def State.prtRegs (s : State) (p : PartId) : List Reg :=
  let x := (s.prt p).prt
  words 0 [s.prtStatus p, x.resetCnt, x.lastUs, statusWord [(16, x.causeSrc.toNat), (0, x.causeCode.toNat)]]

/-- The bytes of a statistics slot (R138). -/
def statBytes (x : StatSlot) : Bytes :=
  x.bins.toList.flatMap (fun b => le 4 b.toNat) ++ le 8 x.maxp.toNat ++ le 8 x.maxn.toNat ++ le 4 x.sat.toNat ++
    le 4 x.zgroup.toNat ++ le 4 x.thresh.toNat ++ le 4 (x.owner.1 + 16 * b2n x.assigned + 32 * b2n x.consumed + 64 * b2n x.overBit)

/-- MC (R263). -/
def mcRegs (m : McRegs) : List Reg :=
  words 0 [statusWord [(4, m.calPend.toNat), (3, b2n m.mirrorBad), (2, b2n m.cal), (1, b2n m.trained), (0, b2n m.present)], m.ceCnt, m.ueCnt,
    m.linkCnt, m.calForced, m.scrubPass] ++ [(0x18, 8, m.ueAddr.toNat)]

/-- CSI (R292). -/
def csiRegs (x : CsiRegs) : List Reg :=
  words 0 [statusWord [(4, x.vcOpen.toNat), (1, x.lanes.toNat), (0, b2n x.hs)], x.fsAdj, x.eccCorr, x.eccDrop, x.crcErr, x.dtDrop, x.fsCnt]

/-- MAC (R293). -/
def macRegs (x : MacRegs) : List Reg :=
  words 0 [statusWord [(3, b2n x.ptpPort), (2, b2n x.anDone), (0, x.speed.toNat)], x.rxLat.setWidth 32, x.txLat.setWidth 32, x.fcsErr, x.rxDrop,
    x.noMatchCnt, x.malformed, x.noret, x.pts, x.toffSat]

/-- CRU (R185). -/
def State.cruRegs (s : State) (d : DieId) (i : Fin 2) : List Reg :=
  let x := (s.die d).cru.get i
  words 0 [s.cruStatus d i, x.pixCnt, x.lineSubst, x.portDrop, x.long, x.eccCorr]

/-- IFF (R263). -/
def State.iffRegs (s : State) (d : DieId) : List Reg := words 0 [s.iffLevel d, (s.die d).hiwater, (s.die d).iffStall]

/-! ### The address map (R489)

A block whose domain is RET or OFF, whose partition is in reset, or which is absent reads zero (R12, R488). DEDUCED (log 55): LST,
CFH and the blocks of a partition belong to the always-on domain, which holds what the table of R475 does not name; PRT, whose
STATE shows the steps of the reset, is read during it. -/

/-- The blocks of a core. -/
def State.coreRegs (s : State) (i : CoreId) (o : Nat) : List Reg :=
  let own (l : List Reg) := if s.domIsDown i.1 then [] else l
  if s.inReset (partOfCore i) then []
  else match o / 0x1000 with
    | 0 => own (s.arrRegs i)
    | 1 => own (qntRegs (s.core i).qnt)
    | 2 => own (s.ostRegs i)
    | 3 => own (s.setRegs i)
    | 4 => own (s.scrRegs i)
    | 5 => if s.domIsDown (0x10 + i.1) then [] else words 0 [(s.core i).ldgCe, (s.core i).ldgUe]
    | 6 => s.lstRegs i
    | 7 => words 0 [s.cfhStatus i, (s.core i).cfh.faultCnt]
    | _ => []

/-- The blocks of an I/O die. -/
def State.ioRegs (s : State) (d : DieId) (o : Nat) : List Reg :=
  let own (n : Nat) (l : List Reg) := if s.domIsDown n then [] else l
  if !diePresent s.part d then []
  else match o / 0x10000 with
    | 0 => if h : o / 0x1000 < 8 then own (camDom d (o / 0x1000)) (csiRegs ((s.die d).csi.get ⟨o / 0x1000, h⟩)) else []
    | 1 => if h : o / 0x1000 % 16 < 4 then own (ethDom d) (macRegs ((s.die d).mac.get ⟨o / 0x1000 % 16, h⟩)) else []
    | 2 => if h : o / 0x1000 % 16 < 2 then own (cruDom d) (s.cruRegs d ⟨o / 0x1000 % 16, h⟩) else []
    | 3 => if o / 0x1000 % 16 = 0 then s.iffRegs d else []
    | _ => []

/-- The blocks of a stack's controller and of a Stockpile. -/
def State.memRegs (s : State) (o : Nat) : List Reg :=
  if h : o / 0x1000 < 8 then
    let k : StackId := ⟨o / 0x1000, h⟩
    if !stackPresent s.part k || s.domIsDown (0x28 + k.1) || s.inReset ⟨k.1 / 2, by omega⟩ then [] else mcRegs (s.mcs.get k)
  else if h : o / 0x1000 - 8 < 2 then
    let j : Fin 2 := ⟨o / 0x1000 - 8, h⟩
    if s.domIsDown (0x20 + j.1) then [] else words 0 [(s.stks.get j).ceCnt, (s.stks.get j).ueCnt]
  else []

/-- The registers of the page that holds a BAR0 offset; rings, context blocks and lock-step slots by their stride. -/
def State.bar0Regs (s : State) (off : Nat) : List Reg :=
  if h : 0x1000 ≤ off ∧ off < 0x1440 then (ringRegs (s.ring ⟨(off - 0x1000) / 0x40, by omega⟩)).map fun r => (r.1 + off / 0x40 * 0x40, r.2)
  else if off < 0x3000 then s.hstRegs
  else if h : 0x10000 ≤ off ∧ off < 0x10400 then
    (s.ctxRegs ⟨(off - 0x10000) / 0x40, by omega⟩).map fun r => (r.1 + off / 0x40 * 0x40, r.2)
  else if h : 0x24000 ≤ off ∧ off < 0x24100 then
    (lksRegs (s.lks.get ⟨(off - 0x24000) / 0x40, by omega⟩)).map fun r => (r.1 + off / 0x40 * 0x40, r.2)
  else
    let page := off / 0x1000 * 0x1000
    let at_ (l : List Reg) : List Reg := l.map fun r => (r.1 + page, r.2)
    at_ (match off / 0x1000 with
      | 0x20 => s.tbRegs
      | 0x21 => s.tlyRegs
      | 0x22 => s.recRegs
      | 0x23 => s.repRegs
      | 0x25 => s.rngRegs
      | 0x26 => s.bootStRegs
      | 0x27 => s.fwpRegs
      | 0x28 => s.pwrRegs
      | 0x30 => s.errRegs
      | k =>
        if h : 0x400 ≤ k ∧ k < 0x600 then s.ioRegs ⟨(k - 0x400) / 0x100, by omega⟩ (off % 0x100000)
        else if h : 0x1000 ≤ k ∧ k < 0x10C0 then s.coreRegs ⟨(k - 0x1000) / 0x10, by omega⟩ (off % 0x10000)
        else if h : 0x2000 ≤ k ∧ k < 0x2400 then
          let p : PartId := ⟨(k - 0x2000) / 0x100, by omega⟩
          let own (l : List Reg) := if s.inReset p then [] else l
          match k % 0x100 with
          | 0 => own (stsRegs (s.prt p))
          | 1 => own (s.phbRegs p)
          | 2 => own (s.drsRegs p)
          | 3 => s.prtRegs p
          | _ => []
        else if 0x3000 ≤ k then s.memRegs (off - 0x3000000)
        else [])

/-- A stored error record by its place in the store (R360). -/
def State.errAt (s : State) (k : Nat) : Bytes :=
  match s.err.store[(s.err.wrIdx.toNat + 2047 - k % 2048) % 2048]? with
  | some r => errBytes r
  | none => zeros 32

/-- The windows of BAR0 that hold bytes: record store, start-up report, dump SRAM, statistics slots (R138, R344, R360, R371, R489);
the bytes of an access that lies in one. -/
def State.bar0Window (s : State) (off n : Nat) : Option Bytes :=
  if 0x40000 ≤ off ∧ off < 0x50000 then some (slice (s.errAt ((off - 0x40000) / 32)) (off % 32) n)
  else if 0x50000 ≤ off ∧ off < 0x50040 then some (slice (s.boot.report ++ zeros 64) (off - 0x50000) n)
  else if 0x200000 ≤ off ∧ off < 0x400000 then some (s.peek (dumpBase 0 + (off - 0x200000)) n)
  else if h : 0x2000000 ≤ off ∧ off < 0x2400000 then
    let p : PartId := ⟨(off - 0x2000000) / 0x100000, by omega⟩
    let o := off % 0x100000
    if 0x10000 ≤ o ∧ o < 0x30000 then
      some (if s.inReset p then zeros n
        else slice ((((s.prt p).stats.toList[(o - 0x10000) / 0x200]?).map statBytes).getD [] ++ zeros 0x200) (o % 0x200) n)
    else none
  else none

/-- A host read of BAR0: `n` bytes at an offset (R488, R489). DEDUCED (log 55): a window takes the aligned accesses of 4 and 8
bytes. -/
def State.bar0Read (s : State) (off n : Nat) : Bytes :=
  if !([1, 2, 4, 8].contains n) || decide (off % n ≠ 0) then zeros n
  else if 0x3000 ≤ off ∧ off < 0x4000 then mbGet s.hst.mbData (off - 0x3000) n
  else match s.bar0Window off n with
    | some b => if n = 4 ∨ n = 8 then b else zeros n
    | none => le n (regRead (s.bar0Regs off) off n)

/-- A host read of BAR4: the MSI-X table and the pending bits; the doorbells are write-only and read zero (R499). -/
def State.bar4Read (s : State) (off n : Nat) : Bytes :=
  if !(n = 4 || n = 8) || decide (off % n ≠ 0) then zeros n
  else if h : 0x1000 ≤ off ∧ off < 0x1400 then
    let e := s.hst.msix.get ⟨(off - 0x1000) / 16, by omega⟩
    slice (le 8 e.1.toNat ++ le 4 e.2.1.toNat ++ le 4 e.2.2.toNat) (off % 16) n
  else if 0x2000 ≤ off ∧ off < 0x2008 then slice (le 8 s.hst.pba.toNat) (off - 0x2000) n
  else zeros n

/-! ### Identity of the function (R485, R527) -/

/-- The PCI Vendor ID of every part. -/
def vendorId : U16 := 0x1E7B

/-- The PCI Device ID of a part. -/
def deviceId : Part → U16
  | .gb1241 => 0x1241
  | .gb1242 => 0x1242
  | .gb1281 => 0x1281
  | .gb1282 => 0x1282

/-- The class code: processing accelerator. -/
def classCode : BitVec 24 := 0x120000

/-- What configuration space shows of the identity: Vendor ID, Device ID, class code (R485, R527). -/
def State.identity (s : State) : U16 × U16 × BitVec 24 := (vendorId, deviceId s.part, classCode)

/-! ### The balls (R511) -/

/-- What a ball group does that is not in operation. -/
inductive BallState where
  | operating | drivenLow | released | highZ | idle | bypassed
  deriving DecidableEq, Repr

/-- The ball groups of R511; the first is SAFE_ST and ALIVE, the second THERM_ALERT_N and PMB_ALERT_N. -/
inductive BallGroup where
  | safe | alerts | errOut | xspiRst | receivers | transmitters | ring | buses
  deriving DecidableEq, Repr

/-- The state of a ball group; without VDD_AON the pull-downs hold the safe-state balls (R510, R511, R528). -/
def State.balls (s : State) (g : BallGroup) : BallState :=
  match s.pins.pads, g with
  | .run, .ring => if s.rng.bypass then .bypassed else .operating
  | .run, _ => .operating
  | _, .ring => .bypassed
  | .unpowered, _ => .highZ
  | .aonLost, .safe | .aonLost, .errOut => .highZ
  | _, .safe | _, .errOut | _, .xspiRst => .drivenLow
  | _, .alerts | _, .buses => .released
  | _, .receivers => .highZ
  | _, .transmitters => .idle

end Sys2Proof.Machine
end

