-- ==== Sys2Proof/Tests/Slice0.lean ====
section
/-!
SUPPORT. Tests/Slice0.lean: ill-formed commands that WellFormed refuses, values that the spec states, and for each
obligation with hypotheses a small state that meets them (the clauses are numbered as they stand in the statement).
-/

namespace Sys2Proof.Tests

set_option Elab.async false

open Sys2Proof Sys2Proof.Machine

/-! ### Well-formed commands -/

/-- A descriptor of 63 bytes is ill-formed, one of 64 bytes is not. -/
theorem test_wf_descriptor :
    (Instr.descriptorAccept (.dq 0) 0 3 (some (zeros 63))).wf = false ∧
    (Instr.descriptorAccept (.dq 0) 0 3 (some (zeros 64))).wf = true := by decide +kernel

/-- Arguments of 4,097 bytes do not fit the mailbox, 4,096 do. -/
theorem test_wf_args : (Instr.logRead 1 (zeros 4097)).wf = false ∧ (Instr.logRead 1 (zeros 4096)).wf = true := by decide +kernel

/-- A finding of an engine run names a 64-bit word. -/
theorem test_wf_facts :
    (Instr.move 0 { ue := [12] }).wf = false ∧ (Instr.dress 0 { ce := [4] }).wf = false ∧
    (Instr.move 0 { ue := [16], ce := [8] }).wf = true := by decide +kernel

/-- A register write has a size of 1, 2, 4 or 8, is aligned, and lies in BAR4 where it names BAR4. -/
theorem test_wf_register_write :
    (Instr.registerWrite false 0x20 (zeros 3)).wf = false ∧ (Instr.registerWrite false 0x21 (zeros 4)).wf = false ∧
    (Instr.registerWrite true 0x10000 (zeros 4)).wf = false ∧ (Instr.registerWrite true 0x1000 (zeros 4)).wf = true := by
  decide +kernel

/-- A lock-step message has 32 bytes. -/
theorem test_wf_lks_message : (Instr.lksMessage 0 (zeros 31)).wf = false ∧ (Instr.lksMessage 0 (zeros 32)).wf = true := by
  decide +kernel

/-- A DIGEST message carries 32 and 16 bytes. -/
theorem test_wf_ring_digest :
    (Instr.ringDigest { src := 1 } 0 (zeros 31) (zeros 16)).wf = false ∧
    (Instr.ringDigest { src := 1 } 0 (zeros 32) (zeros 15)).wf = false ∧
    (Instr.ringDigest { src := 1 } 0 (zeros 32) (zeros 16)).wf = true := by decide +kernel

/-! ### Values from outside the model -/

/-- The check values of the CRCs on the nine digits "123456789" (CRC-16 of R51, CRC-32 of IEEE 802.3). -/
theorem test_crc_check_values :
    let d : Bytes := [0x31, 0x32, 0x33, 0x34, 0x35, 0x36, 0x37, 0x38, 0x39]
    crc16 d = 0x29B1 ∧ crc32 d = 0xCBF43926 := by decide +kernel

/-- The digest of "abc" (FIPS 180-4): its first and last four bytes. -/
theorem test_sha256_abc :
    (sha256 [0x61, 0x62, 0x63]).take 4 = [0xBA, 0x78, 0x16, 0xBF] ∧ (sha256 [0x61, 0x62, 0x63]).drop 28 = [0xF2, 0x00, 0x15, 0xAD] := by
  decide +kernel

/-- Rounding to nearest, ties to even, by hand: 2.5, 3.5, -2.5, 7/2 and 5/2. -/
theorem test_ties_to_even :
    rneShr 5 1 = 2 ∧ rneShr 7 1 = 4 ∧ rneShr (-5) 1 = -2 ∧ rneDiv 7 2 = 4 ∧ rneDiv 5 2 = 2 := by decide +kernel

/-- The IDs of R527; a ball of the safe state and a receiver in reset (R511). -/
theorem test_identity :
    deviceId .gb1241 = 0x1241 ∧ deviceId .gb1282 = 0x1282 ∧ vendorId = 0x1E7B ∧ State.reset.balls .safe = .drivenLow ∧
    State.reset.balls .receivers = .highZ := by decide +kernel

/-! ### Small states -/

/-- Zero bytes with some fields written. -/
def blk (n : Nat) (l : List (Nat × Bytes)) : Bytes := l.foldl (fun b e => patch b e.1 e.2) (zeros n)

/-- A section. -/
def sect (ty ctx idx : Nat) (b : Bytes) : Section :=
  ⟨BitVec.ofNat 16 ty, BitVec.ofNat 8 ctx, 0, BitVec.ofNat 16 idx, [], b⟩

/-- A DEVICE_CONFIG with DFLAGS. -/
def devSec (dflags : Nat) (l : List (Nat × Bytes)) : Section := sect 0x10 0xFF 0 (blk 256 ((0, le 4 dflags) :: l))

/-- A CONTEXT section of context 0: CFLAGS, one region, one stage, beads 0 to 7 of partition 0, period 1,000 µs. -/
def ctxSec (cflags : Nat) (l : List (Nat × Bytes)) : Section :=
  sect 0x20 0 0 (blk 64 ([(1, le 1 cflags), (2, [1, 1]), (0x0C, le 2 8), (0x18, le 4 1000)] ++ l))

/-- One region: 64 KiB of partition 0 from 0x1000 on. -/
def regSec : Section := sect 0x21 0 0 (blk 32 [(0, le 8 0x1000), (8, le 8 0x10000), (0x12, le 2 0xFFFF)])

/-- One stage: the MQ of slot 0 in partition 0, from 10 to 20 µs, degraded from 30 to 40 µs. -/
def stageSec (kind : Nat) : Section :=
  sect 0x22 0 0 (blk 32 [(0, le 1 kind), (8, le 8 8), (0x10, le 4 10), (0x14, le 4 20), (0x18, le 4 30), (0x1C, le 4 40)])

/-- A descriptor with a right CRC: header words and payload. -/
def desc (w0 w1 w2 w3 : Nat) (p : Bytes) : Bytes :=
  let b := le 4 w0 ++ le 4 w1 ++ le 4 w2 ++ le 4 w3 ++ slice p 0 48
  patch b 14 (le 2 (descCrc b).toNat)

/-- A list of one descriptor for the MQ of slot 0 in partition 0. -/
def listSec (d : Bytes) : Section := sect 0x23 0 0 (blk 0x80 [(2, [3]), (4, le 2 1)] ++ d ++ zeros 2)

/-- A device in RUN with context 0 in RUN on the sections given: out of reset, every domain on its PLL-derived clock. -/
def run (img : List Section) : State :=
  { State.reset with
    dev := .run, img := img
    pins := { State.reset.pins with pads := .run }
    pwr := { State.reset.pwr with pll := true, doms := Vector.replicate 64 { ({} : DomRt) with state := .onPll } }
    hst := { State.reset.hst with ready := true, hostAbsent := false, linkUp := true }
    tly := { State.reset.tly with ready := true, selftestOk := true }
    fwp := Vector.replicate 7 { ({} : FwpRegs) with state := .running }
    ctxs := State.reset.ctxs.set 0 { ({} : CtxRt) with state := .run, gen := 5 } }

/-- The sections of a context without a list. -/
def secs : List Section := [devSec 0 [], ctxSec 1 [], regSec, stageSec 0]

/-- The same with a frame in flight. -/
def inFrame (s : State) : State := s.onFrame 0 fun f => { f with inFlight := true, begun := true }

/-- An entry of context 0 in the MQ of core 0. -/
def queued (s : State) (d : Bytes) (ex : Bool) : State :=
  s.onQueue (.core 0 .mq) fun x => { x with entries := x.entries ++ [⟨d, 0, 0, ex, false, 0, 0⟩] }

/-! ### Witnesses: power up and clocks -/

theorem test_wit_reset_pulse :
    (∃ n, 10000 ≤ n ∧ Instr.deviceReset 10000 = .deviceReset n) ∧ (∃ mv, mv < 650 ∧ Instr.vddAonLoss 649 = .vddAonLoss mv) :=
  ⟨⟨10000, by decide, rfl⟩, ⟨649, by decide, rfl⟩⟩

theorem test_wit_recovery :
    let r := resetDevice State.reset
    let r : State := { r with pins := { r.pins with xspiSplit := false }, rng := { r.rng with id := 2 } }
    r.bankValid 0 = false ∧ r.bankValid 1 = false := by decide +kernel

theorem test_wit_rail_avs :
    let s := (run secs).onRail 3 fun x => { x with floorMv := 600, avsMv := 600, ceilMv := 600, div := some .d5 }
    (s.rail 3).floorMv ≤ (s.rail 3).ceilMv ∧ (s.rail 3).floorMv ≤ (s.rail 3).avsMv ∧
    (s.rail 3).avsMv ≤ (s.rail 3).ceilMv ∧ 3 < 4 ∧ s.pwpRuns = true ∧ (s.rail 3).forced = false ∧
    (s.rail 3).div.isSome = true := by decide +kernel

theorem test_wit_heat_1 : (run secs).pwr.emerg = false ∧ ∃ i : Fin 64, 2240 ≤ (Vector.replicate 64 (2240 : Int)).get i :=
  ⟨by decide +kernel, ⟨63, by decide +kernel⟩⟩

theorem test_wit_heat_below :
    (∀ i, (Vector.replicate 64 (2239 : Int)).get i < 2240) ∧ ∀ i, sensorBad (Vector.replicate 64 (2239 : Int)) i = false := by
  decide +kernel

theorem test_wit_heat_2 :
    let s := (run secs).onPwr fun p => { p with emerg := true, sensors := Vector.replicate 64 2080 }
    s.pwr.emerg = true ∧ ∀ i, s.pwr.sensors.get i ≤ 2080 := by decide +kernel

theorem test_wit_heat_3 :
    let s := (run secs).onPwr fun p => { p with sensors := Vector.replicate 64 2161 }
    let s := s.onRail 2 fun x => { x with div := some .d5, want := .d5 }
    s.pwpRuns = true ∧ 2160 < s.hottest (32 * 1) 16 ∧ s.hottest (32 * 1 + 16) 16 ≤ s.hottest (32 * 1) 16 ∧
    partOf (2 * 1) = 2 ∧ (s.rail 2).forced = false ∧ (s.rail 2).div = some .d5 ∧ divRank (s.rail 2).want ≤ divRank .d5 := by
  decide +kernel

theorem test_wit_heat_4 :
    let s := (run secs).onRail 0 fun x => { x with div := some .d5, want := .d5 }
    s.capNow < 0xFFFF ∧ s.pwpRuns = true ∧ (s.rail 0).forced = false ∧ (s.rail 0).div = some .d5 ∧
    divRank (s.rail 0).want ≤ divRank .d5 := by decide +kernel

/-- The divider that the PWP asks for on an idle rail, and one that it does not. -/
theorem test_wit_rail_divider :
    let s := run secs
    s.pwpRuns = true ∧ (s.rail 3).forced = false ∧ s.pickDiv 3 ≠ (if s.pickDiv 3 = .d5 then .d10 else .d5) := by decide +kernel

theorem test_wit_heat_5 :
    let s := (run secs).onPwr fun p => { p with powerEmerg := true }
    s.pwr.powerEmerg = true ∧ 100 * (100 : U16).toNat < 95 * s.capNow := by decide +kernel

theorem test_wit_monitor : dieThere (run secs).part 0 = true ∧ dieThere (run secs).part 3 = true ∧ (run secs).err.expect = false := by
  decide +kernel

theorem test_wit_domain_idle :
    let s := (run secs).onDom 0x34 fun d => { d with state := .onPll }
    let s := s.onHst fun h => { h with hostAbsent := true }
    domPresent s.part 0x34 = true ∧ domFixed 0x34 = false ∧ s.domInUse 0x34 = false ∧ s.domFenced 0x34 = false ∧
    s.domIsDown 0x34 = false ∧ s.pwpRuns = true ∧ s.pins.wakeN = true := by decide +kernel

/-- A frame to the station of MAC 0 of the IOD wakes its group; one to another station does not. -/
theorem test_wit_domain_wake :
    (let s := (run secs).onDom 0x34 fun d => { d with state := .off }
     s.pins.pads = .run ∧ domPresent s.part 0x34 = true ∧ s.domFenced 0x34 = false ∧ s.domIsDown 0x34 = true) ∧
    State.reset.pins.pads ≠ .run ∧ (run secs).ethWakes 0 0 ((run secs).station 0 0 ++ zeros 58) = some 2 ∧
    (run secs).ethWakes 0 0 (List.replicate 64 0xFF) = none ∧
    ((run secs).onDie 0 fun d => { d with wakePattern := true, mask := 1, pattern := zeros 64 }).ethWakes 0 0 (zeros 64) = some 3 := by
  decide +kernel

theorem test_wit_domain_switch :
    let s := ((run secs).onDom 5 fun d => { d with state := .onFio }).onPwr fun p => { p with pll := true }
    (s.dom 5).state = .onFio ∧ s.pwr.pll = true ∧ s.pwpRuns = true := by decide +kernel

/-! ### Witnesses: contexts, triggers and queues -/

theorem test_wit_lists_loaded :
    let s := (run secs).onCtx 0 fun x => { x with state := .starting }
    (s.ctx 0).state = .starting ∧ s.canLoad 0 = true ∧ s.pwpRuns = true ∧
    (let w : State := { s.onDom 0x34 fun d => { d with state := .onFio } with fwp := s.fwp.set 1 {} }
     w.pwpRuns = false ∧ w.domWaits 0x34 = true) := by decide +kernel

theorem test_wit_trigger :
    ((run secs).ctx 0).state = .run ∧ (run secs).arrivalTrig 0 = false ∧ (run secs).dev ≠ .replay ∧
    ((run secs).ctx 0).frame.inFlight = false ∧ (run secs).seqHeld 0 = false := by decide +kernel

theorem test_wit_arrival :
    let s := (run [devSec 0 [], ctxSec 0x11 [(0x20, le 8 3)], regSec, stageSec 0]).onCtx 0 fun x => { x with arrived := 1 }
    (s.ctx 0).state = .run ∧ s.arrivalTrig 0 = true ∧ (s.ctx 0).arrived ≠ 0 ∧ s.dev ≠ .replay ∧
    (s.ctx 0).frame.inFlight = false ∧ s.seqHeld 0 = false ∧
    (BitVec.ofNat 64 (s.arrStreams 0)).getLsbD 1 = true ∧ (s.ctx 0).arrived.getLsbD 1 = false := by decide +kernel

theorem test_wit_latch :
    let s := inFrame (run secs)
    let l : Latched := { time := 0, flags := 0, incomplete := 0, consumed := [], classes := Vector.replicate 16 0 }
    let s2 := s.onCtx 0 fun x => { x with latched := some l }
    ((s.ctx 0).state = .run ∧ s.arrivalTrig 0 = false ∧ s.dev ≠ .replay ∧ (s.ctx 0).frame.inFlight = true ∧
      (s.ctx 0).latched = none) ∧
    ((s2.ctx 0).state = .run ∧ s2.arrivalTrig 0 = false ∧ s2.dev ≠ .replay ∧ (s2.ctx 0).frame.inFlight = true ∧
      (s2.ctx 0).latched = some l) := by decide +kernel


/-- A descriptor without signal for context 0 of generation 5: OPCODE, FLAGS, STAGE 0, QSEQ, payload. -/
def plain (op flags qseq : Nat) (p : Bytes) : Bytes := desc (op + flags * 0x100 + 5 * 0x10000) qseq 0 0 p

/-- The list of `listSec`, as the image view reads it. -/
def list0 (d : Bytes) : ListCfg :=
  { index := 0, part := 0, slot := 0, queue := 3, split := 0, ndesc := 1, bytes := (listSec d).bytes }

theorem test_wit_accept :
    let d := plain 0 0 0 []
    let s := inFrame (run (secs ++ [listSec d]))
    let q : QueueId := .core 0 .mq
    let l := list0 d
    let b := withGen (s.listDesc 0 l (s.fedOf 0 l)).1 (s.ctx 0).gen
    let h := hdrOf b
    let s1 := bumpExpect (advance s 0 l) q 0 0
    let w : Who := { ctx := 0, gen := h.gen, part := qPart q, core := qCore? q, src := srcQueue q, detail := descDetail q h 0 }
    s.canFeed q 0 = true ∧ s.nextList q 0 = some l ∧ l.origin = 0 ∧ (s.listDesc 0 l (s.fedOf 0 l)).2 = none ∧ descCrc b = h.crc ∧ h.ctx = 0 ∧ h.gen = (s.ctx 0).gen ∧
    h.qseq = (((s.queue q).expect.get 0).get 0) ∧ check4 s1 q 0 0 h (b.drop 16) = none ∧ beadsOk s1 q 0 h = true ∧
    payloadRange s1 w h.opcode (b.drop 16) = .ok () ∧
    ((((s.queue q).lastStage.get 0).get 0).toNat ≤ h.stage ∧ (h.golden = true ∨
      l.ngold h.stage ≤ goldCount (s.queue q) 0 0 h.stage)) ∧
    s.listOf 0 q 0 = some l := by decide +kernel

theorem test_wit_accept_crc :
    let s := inFrame (run secs)
    s.canFeed (.core 0 .mq) 0 = true ∧ s.err.expect = false ∧ (zeros 64).length = 64 ∧
    descCrc (zeros 64) ≠ (hdrOf (zeros 64)).crc := by decide +kernel

theorem test_wit_complete :
    let d := desc (15 * 2 ^ 28 + 5 * 0x10000) 0 0 7 []
    let g := plain 0 4 1 []
    let s := queued (queued (inFrame (run secs)) d true) g false
    let h := hdrOf d
    (s.queue (.core 0 .mq)).entries = [⟨d, 0, 0, true, false, 0, 0⟩, ⟨g, 0, 0, false, false, 0, 0⟩] ∧ (s.ctx 0).latched = none ∧
    s.awaitsPeer (.core 0 .mq) ⟨d, 0, 0, true, false, 0, 0⟩ h = false ∧
    signalStop s (.core 0 .mq) ⟨d, 0, 0, true, false, 0, 0⟩ h none = none ∧
    (popHead (account s (.core 0 .mq) ⟨d, 0, 0, true, false, 0, 0⟩ h) (.core 0 .mq) ⟨d, 0, 0, true, false, 0, 0⟩ h).headFault
      (.core 0 .mq) = none ∧ h.sigRing = false ∧ s.inReset h.sigPart = false := by
  decide +kernel

/-- A head with a signal to the peer of ID 2, on a device of ID 0. -/
def peerHead (sent : Bool) (u : List Unacked) : State :=
  let s := (run secs).onQueue (.core 0 .mq) fun x =>
    { x with entries := [⟨desc (15 * 2 ^ 28 + 5 * 0x10000 + 0x200) 0 0 (0x8000 + 7) [], 0, 0, true, sent, 0, 0⟩] }
  s.onRng fun r => { r with unacked := u }

/-- The signal of that head, whether it waits and whether it goes to a peer. -/
def peerWait (s : State) : List (Bool × Bool × Bool) :=
  (s.queue (.core 0 .mq)).entries.map fun e =>
    (e.executed, s.awaitsPeer (.core 0 .mq) e (hdrOf e.bytes), s.signalsPeer (hdrOf e.bytes))

theorem test_wit_signal_peer :
    peerWait (peerHead false []) = [(true, false, true)] ∧
    peerWait (peerHead true [⟨2, .core 0 .mq, 0, true⟩]) = [(true, true, true)] ∧
    ((peerHead false []).queue (.core 0 .mq)).entries.map (fun e =>
      (signalStop (peerHead false []) (.core 0 .mq) e (hdrOf e.bytes) none).isNone) = [true] := by decide +kernel

/-- A head whose signal goes to the other die while the only link is down. -/
theorem test_wit_signal_dead_link :
    let d := desc (15 * 2 ^ 28 + 5 * 0x10000) 0 0 (2 * 4096 + 7) []
    let s : State := { queued (run secs) d true with linkDown := [.d0d1] }
    (s.queue (.core 0 .mq)).entries = [⟨d, 0, 0, true, false, 0, 0⟩] ∧
    s.awaitsPeer (.core 0 .mq) ⟨d, 0, 0, true, false, 0, 0⟩ (hdrOf d) = false ∧ s.signalLink (.core 0 .mq) (hdrOf d) = some .d0d1 ∧
    (hdrOf d).gen = (s.ctx 0).gen ∧ (s.ctx 0).state = .run ∧ s.err.expect = false := by decide +kernel

theorem test_wit_signal :
    ((run secs).ctx 0).gen = 5 ∧ (run secs).inReset 0 = false ∧ (run secs).ownsBead 0 0 7 = true ∧
    (run secs).ownsBead 0 0 8 = false ∧ ((run secs).ctx 0).gen ≠ 4 := by decide +kernel

/-- A FENCE of scope 1 waits for the write of its queue that ring peer 2 has not acknowledged. -/
theorem test_wit_fence_scope :
    let s := queued (run secs) (plain 1 0 0 [1]) false
    s.fenceReady (.core 0 .mq) = true ∧
    (s.onRng fun r => { r with unacked := [⟨2, .core 0 .mq, 0, false⟩] }).fenceReady (.core 0 .mq) = false := by decide +kernel

theorem test_wit_nop_fence :
    ((queued (run secs) (plain 0 0 0 []) false).job (.core 0 .mq) (· = 0x00)).isSome = true ∧
    ((queued (run secs) (plain 1 0 0 []) false).job (.core 0 .mq) (· = 0x01)).isSome = true := by decide +kernel

theorem test_wit_bead_timeout :
    let d := desc (0x100 + 5 * 0x10000) 0 1 0 []
    let s := queued (run secs) d false
    s.err.expect = false ∧ (s.queue (.core 0 .mq)).entries = [⟨d, 0, 0, false, false, 0, 0⟩] ∧
    s.waitDone (.core 0 .mq) (hdrOf d) = false ∧ (s.ctx 0).state = .run ∧ (s.prt 0).prt.state = .service := by decide +kernel

/-- Stage 0 of the frame in a phase. -/
def staged (s : State) (p : StagePhase) : State := onStage (inFrame s) 0 0 fun r => { r with phase := p }

theorem test_wit_watchdog :
    let s := staged (run secs) .running
    s.err.expect = false ∧ ((s.stageCfg 0 0).map fun x => (x.test, s.window 0 x)) = some (false, 10, 20) ∧
    (s.ctx 0).state = .run ∧ (s.stageRt 0 0).phase = .running ∧ (s.stageRt 0 0).late = false ∧
    (∀ p, (s.prt p).prt.state = .service) := by decide +kernel

theorem test_wit_stage_early :
    let s := staged (run secs) .ended
    ((s.stageCfg 0 0).map fun x => (x.test, s.window 0 x)) = some (false, 10, 20) ∧ (s.ctx 0).state = .run ∧
    (s.stageRt 0 0).phase = .ended ∧ (s.stageRt 0 0).told = false ∧
    (s.ctx 0).frame.ends.find? (fun e => decide (e.1 = (0 : Fin 32))) = none ∧ s.err.expect = false ∧
    (let r := s.onFrame 0 fun f => { f with ends := [(0, 10)] }
     (r.ctx 0).frame.ends.find? (fun e => decide (e.1 = (0 : Fin 32))) = some (0, 10)) ∧
    (staged (run secs) .running).testOpen 0 0 = false := by decide +kernel

theorem test_wit_test_stage :
    let s := staged (run [devSec 0 [], ctxSec 1 [], regSec, stageSec 1]) .running
    (s.stageCfg 0 0).isSome = true ∧ s.testOpen 0 0 = true ∧ (0 : Fin 32) ∉ (s.ctx 0).frame.tests ∧
    (let r := s.onFrame 0 fun f => { f with tests := [0] }
     (r.ctx 0).state = .run ∧ (0 : Fin 32) ∈ (r.ctx 0).frame.tests) := by decide +kernel

theorem test_wit_pair :
    let s := queued (run secs) (plain 0x18 0 0 [1]) false
    ((s.job (.core 0 .mq) (· = 0x18)).map fun j => (j.h.qseq, s.isFenced (coreOf j.who.part (pairCores j).1),
      s.isFenced (coreOf j.who.part (pairCores j).2), (s.prt j.who.part).hub.pair)) = some (0, false, false, none) := by
  decide +kernel

/-- What the statement on pairing asks of a PAIR or SPLIT at the head. -/
def pairHyp (s : State) (op : Nat) : List Bool :=
  match s.job (.core 0 .mq) (· = op) with
  | none => []
  | some j =>
    [decide (j.h.qseq = 0), s.isFenced (coreOf j.who.part (pairCores j).1), s.isFenced (coreOf j.who.part (pairCores j).2),
      decide ((s.prt j.who.part).hub.pair = some (pairCores j)),
      decide ((s.prt j.who.part).hub.pair = some ((pairCores j).2, (pairCores j).1))]

/-- A pair that stands, either core leading, and core 1 fenced. -/
theorem test_wit_split :
    let s := queued (run secs) (plain 0x19 0 0 [1]) false
    let d := queued (run secs) (plain 0x18 0 0 [1]) false
    pairHyp (s.onPart 0 fun x => { x with hub := { x.hub with pair := some (0, 1) } }) 0x19 = [true, false, false, true, false] ∧
    pairHyp (s.onPart 0 fun x => { x with hub := { x.hub with pair := some (1, 0) } }) 0x19 = [true, false, false, false, true] ∧
    pairHyp (d.onPart 0 fun x => { x with hub := { x.hub with pair := some (0, 1) } }) 0x18 = [true, false, false, true, false] ∧
    pairHyp (d.onCore 1 fun x => { x with cfh := { x.cfh with fenced := true } }) 0x18 = [true, false, true, false, false] := by
  decide +kernel

theorem test_wit_handover :
    let s := (run secs).onPart 0 fun x => { x with hub := { x.hub with want := some (0, 1, true, 0) } }
    (s.prt 0).hub.want = some (0, 1, true, 0) ∧ s.isFenced (coreOf 0 0) = false ∧ s.isFenced (coreOf 0 1) = false ∧
    s.err.expect = false ∧ (s.ctx 0).state = .run ∧
    (s.onCore 1 fun x => { x with cfh := { x.cfh with fenced := true } }).isFenced (coreOf 0 1) = true := by decide +kernel

/-! ### Witnesses: engines -/

/-- An engine row runs the head of its queue to its end. -/
def engineOk (c : Instr) (s : State) : Bool :=
  match engineOf c with
  | none => false
  | some r => match s.job r.queue (· = r.op) with
    | none => false
    | some j => (r.body (r.start s j) j).flt.isNone && (pairFlt (r.start s j) r.facts j).isNone &&
      (factFlt (r.start s j) r.facts j r.resid).isNone &&
      ((r.start s j).badOfWrites (mirrorPair (r.start s j) (r.body (r.start s j) j).writes)).isNone &&
      (linkLost r.facts (r.body (r.start s j) j).writes).isNone

/-- A MOVE of 16 bytes from 0x1000 to 0x2000. -/
def moveDesc : Bytes := plain 0x10 0 0 (le 8 0x1000 ++ le 8 0x2000 ++ le 8 0 ++ le 4 16 ++ le 2 1 ++ le 2 1)

/-- A head of a stage below its queue's last one faults; an empty queue has no job and no fault. -/
theorem test_wit_head_fault :
    let s := (queued (run secs) (plain 0 0 0 []) false).onQueue (.core 0 .mq) fun x =>
      { x with lastStage := x.lastStage.set 0 ((x.lastStage.get 0).set 0 1) }
    s.headFault (.core 0 .mq) = some cStageOrder ∧ ((s.queue (.core 0 .mq)).entries.head?.map (·.ctx)) = some 0 ∧
    (s.ctx 0).state = .run ∧ s.err.expect = false ∧ ((run secs).job (.core 0 .mq) (· = 0x10)).isNone = true ∧
    (run secs).headFault (.core 0 .mq) = none := by decide +kernel

theorem test_wit_move : engineOk (.move 0 {}) (queued (run secs) moveDesc false) = true := by decide +kernel

theorem test_wit_plain_move :
    let s := queued (run secs) moveDesc false
    ((s.job (.core 0 .mq) (· = 0x10)).map fun j =>
      (moveFmt j.p, fld j.p 28 2, fld j.p 30 2, s.isLocal (addrField j.p 0), s.isLocal (addrField j.p 8))) =
        some (0, 1, 1, true, true) ∧
    ((s.job (.core 0 .mq) (· = 0x10)).map fun j =>
      let s1 := startStage s j.who.ctx j.h.stage
      ((s1.access j.who (addrField j.p 0).addr (fld j.p 24 4) false).toOption,
       (s1.load j.who (addrField j.p 0).addr (fld j.p 24 4)).toOption,
       (s1.storeAt j.who (addrField j.p 8).addr (fld j.p 24 4)).toOption)) =
        some (some 0x1000, some (zeros 16), some 0x2000) ∧ s.bad = [] ∧ s.linkDown = [] ∧
    (∀ k, target 0x2000 = .ledge k → target (0x2000 + 16 - 1) = .ledge k) := by decide +kernel

/-- A SEAL with a record outside the regions ends with a fault of its own. -/
theorem test_wit_engine_fault :
    let s := queued (inFrame (run secs)) (plain 0x13 0 0 []) false
    (match engineOf (.sealOp 0 {}) with
      | none => false
      | some r => match s.job r.queue (· = r.op) with
        | none => false
        | some j =>
          let o := r.body (r.start s j) j
          (match o.flt with
            | none => false
            | some f => f.cores.isEmpty && f.reset.isNone && !isDevice f.code && isFault f.code) &&
          !o.after.err.expect && decide ((o.after.ctx j.who.ctx).gen = j.who.gen) &&
          decide ((o.after.ctx j.who.ctx).state = .run)) = true := by decide +kernel

/-- A DIGEST of 16 bytes: mode, destination 0. -/
def digestDesc (mode : Nat) : Bytes := plain 0x11 0 0 (le 8 0x1000 ++ le 4 16 ++ [0, BitVec.ofNat 8 mode])

/-- A DIGEST whose last part goes to 0x3000. -/
def digestTo : Bytes := plain 0x11 0 0 (le 8 0x1000 ++ le 4 16 ++ [0, 3, 0, 0] ++ le 8 0x3000)

/-- The hypotheses of the statement on DIGEST, for a mode and an owner of the slot. -/
def digestHyp (s : State) (mode : Nat) (own : Option QueueId) : Bool :=
  match s.job (.core 0 .mq) (· = 0x11) with
  | none => false
  | some j =>
    let s1 := startStage s j.who.ctx j.h.stage
    s1.isLocal (addrField j.p 0) && (s1.load j.who (addrField j.p 0).addr (fld j.p 8 4)).toBool &&
      decide (((s.ctx j.who.ctx).slots.get ⟨byteAt j.p 12 % 16, Nat.mod_lt _ (by decide)⟩).owner = own) &&
      decide (byteAt j.p 13 % 4 = mode) && !s1.otherLedge j.who (addrField j.p 0).addr (fld j.p 8 4) && s.bad.isEmpty &&
      (decide (fld j.p 16 8 = 0) || s1.isLocal (addrField j.p 16) && !s1.otherLedge j.who (addrField j.p 16).addr 32 &&
        (s1.storeAt j.who (addrField j.p 16).addr 32).toBool)

theorem test_wit_digest :
    digestHyp (queued (run secs) (digestDesc 0) false) 0 none = true ∧
    digestHyp (setSlot (queued (run secs) (digestDesc 2) false) 0 0 { owner := some (.core 0 .mq) }) 2
      (some (.core 0 .mq)) = true ∧
    digestHyp (queued (run secs) digestTo false) 3 none = true := by decide +kernel

theorem test_wit_engine_digest : engineOk (.digest 0 {}) (queued (run secs) (digestDesc 0) false) = true := by decide +kernel

theorem test_wit_engine_checkpoint : engineOk (.checkpoint 0 {}) (queued (run secs) (plain 0x12 0 0 []) false) = true := by
  decide +kernel

theorem test_wit_engine_seal :
    engineOk (.sealOp 0 {}) (queued (inFrame (run secs)) (plain 0x13 0 0 (le 8 0x1000)) false) = true := by decide +kernel


/-- The sections of a context with the Ledge of core 0 as a second region; the first region has the kind given. -/
def ledSecs (kind : Nat) (l : List (Nat × Bytes)) : List Section :=
  [devSec 0 [], ctxSec 1 ((2, [2]) :: l),
   sect 0x21 0 0 (blk 64 [(0, le 8 0x1000), (8, le 8 0x10000), (0x10, [BitVec.ofNat 8 kind]), (0x12, le 2 0xFFFF),
     (32, le 8 0x020000000000), (40, le 8 0x1000000), (0x32, le 2 0xFFFF)]), stageSec 0]

/-- A context on such sections with a descriptor in a queue and some memory; the payload is allowed. -/
def ready (q : QueueId) (op : Nat) (p : Bytes) (m : List (Nat × Bytes)) (kind : Nat := 0) (l : List (Nat × Bytes) := []) :
    State :=
  let s := (run (ledSecs kind l)).onQueue q fun x => { x with entries := [⟨plain op 0 0 p, 0, 0, false, false, 0, 0⟩] }
  { s with mem := m.foldl (fun m e => memPut 0 m e.1 e.2) [] }

/-- The row runs to its end on an allowed payload. -/
def runsOk (c : Instr) (s : State) : Bool :=
  engineOk c s && match engineOf c with
    | none => false
    | some r => match (s.queue r.queue).entries with
      | [e] => payloadOk s 0 r.op (e.bytes.drop 16)
      | _ => false

/-- An offset in the Ledge of core 0. -/
def led (o : Nat) : Nat := 0x020000000000 + o

/-- A Screen payload. -/
def scrPay (a b c d n cap pb loc cnt opt : Nat) : Bytes :=
  le 8 a ++ le 8 b ++ le 8 c ++ le 8 d ++ le 4 n ++ le 4 cap ++ le 3 pb ++ [BitVec.ofNat 8 loc] ++ le 3 cnt ++ [BitVec.ofNat 8 opt]

theorem test_wit_engine_gather :
    runsOk (.gather 0 {}) (ready (.core 0 .xq) 0x40 (scrPay 0x1000 0x2000 0x3000 0 2 4 0 0 0 0) []) = true := by decide +kernel

theorem test_wit_engine_scatter :
    runsOk (.scatter 0 {}) (ready (.core 0 .xq) 0x41 (scrPay 0x1000 0x2000 0x3000 0 2 4 0 0 0 0) []) = true := by decide +kernel

theorem test_wit_engine_sort :
    runsOk (.sort 0 {}) (ready (.core 0 .xq) 0x42 (scrPay 0x1000 0 0x2000 0x3000 2 0 0 0 0 12) []) = true := by decide +kernel

theorem test_wit_engine_topk :
    runsOk (.topk 0 {}) (ready (.core 0 .xq) 0x43 (scrPay 0x1000 0 0x2000 0x3000 2 1 0 0 0 0) []) = true := by decide +kernel

/-- A VOXEL parameter block: grid of 4 × 4 × 4 unit voxels at the origin, 256 table entries, lists at offset 0x4000. -/
def voxPb (nvox : Nat) : Bytes :=
  blk 64 [(12, le 2 1), (14, le 2 1), (16, le 2 1), (18, le 2 4), (20, le 2 4), (22, le 2 4), (24, [8, 1, 1, 1]),
    (0x20, le 8 0x4000), (0x28, le 4 nvox)]

theorem test_wit_engine_voxel :
    runsOk (.voxel 0 {}) (ready (.core 0 .xq) 0x44 (scrPay 0x1000 0x2000 0x3000 0x8000 1 1 0x40 2 0 1)
      [(led 0x40, voxPb 0)]) = true := by decide +kernel

theorem test_wit_engine_neighbour :
    runsOk (.neighbour 0 {}) (ready (.core 0 .xq) 0x45 (scrPay 0x1000 0x2000 0x3000 0x8000 1 0 0 0 0 0)
      [(led 0, blk 32 [(0, le 4 0x40), (4, le 4 0x2000), (8, le 8 0x6000), (0x10, le 4 1), (0x14, [1, 1])]),
       (led 0x40, voxPb 0)]) = true := by decide +kernel

theorem test_wit_engine_segred :
    runsOk (.segred 0 {}) (ready (.core 0 .xq) 0x46 (scrPay 0x1000 0x2000 0x3000 0x8000 2 1 0 0 0 0) []) = true := by
  decide +kernel

theorem test_wit_engine_compact :
    runsOk (.compact 0 {}) (ready (.core 0 .xq) 0x47 (scrPay 0x1000 0x2000 0x3000 0x8000 2 1 0 0 0 0) []) = true := by
  decide +kernel

theorem test_wit_engine_match :
    runsOk (.matchOp 0 {}) (ready (.core 0 .xq) 0x48 (scrPay 0x1000 0 0x3000 0x8000 2 2 0 0 0 0)
      [(led 0, blk 32 [(4, le 4 8)])]) = true := by decide +kernel

theorem test_wit_engine_edge :
    runsOk (.edge 0 {}) (ready (.core 0 .xq) 0x49 (scrPay 0x1000 0x2000 0x3000 0 1 1 0 0 0 0)
      [(led 0, blk 32 [(0, le 2 1), (4, le 4 32)])]) = true := by decide +kernel

theorem test_wit_engine_scale_adapt :
    runsOk (.scaleAdapt 0 {}) (ready (.core 0 .aq) 0x21 (le 8 0x1000 ++ le 4 0 ++ [1, 0] ++ le 2 65535) [] 4 [(0x30, le 2 1)]) =
      true := by decide +kernel

theorem test_wit_engine_dress :
    runsOk (.dress 0 {}) (ready (.dq 0) 0x50
      (le 8 0x1000 ++ le 8 0x2000 ++ le 8 0x3000 ++ le 8 0 ++ le 2 1 ++ [1, 1, 0, 0] ++ le 2 1 ++ le 4 32 ++ [1])
      [(0x2000, le 8 0x4000 ++ le 2 1 ++ le 2 1 ++ le 2 1)]) = true := by decide +kernel

theorem test_wit_engine_sett :
    runsOk (.sett 0 {}) (ready (.core 0 .sq) 0x30
      (le 8 0x1000 ++ le 8 0x4000 ++ le 2 1 ++ le 2 1 ++ le 2 1 ++ le 2 1 ++ [0x11, 0x11, 0, 3] ++ le 2 0 ++ le 2 1 ++
        le 4 0 ++ le 4 0x2000 ++ le 4 0x3000 ++ le 4 0x80)
      [(led 0x80, blk 32 [(0x0C, le 2 255), (0x1A, le 2 1)])]) = true := by decide +kernel

theorem test_wit_engine_array :
    runsOk (.array 0 {}) (ready (.core 0 .aq) 0x20
      ([0, 3, 0, 0] ++ le 2 1 ++ le 2 1 ++ [1, 1] ++ le 2 0 ++ le 4 0 ++ le 4 0 ++ le 4 0x2000 ++ le 4 0x3000 ++ le 4 0x40 ++
        le 4 0 ++ [1])
      [(led 0, blk 32 [(0, le 4 0x1000), (6, le 2 1), (8, le 2 1), (10, le 2 1), (12, [0x11, 0x11]), (15, [1]), (20, le 2 1)]),
       (led 0x40, blk 64 [(0x0C, le 2 255), (0x10, le 4 0x4000), (0x2C, le 2 1), (0x2E, le 2 1), (0x32, le 2 1)])]) = true := by
  decide +kernel


/-! ### Witnesses: the boot path and the mailbox -/

/-- A DEVICE_CONFIG that allows live updates, and the image of that one section. -/
def oneImg : List Section := [{ devSec 0x80 [] with digest := sha256 (devSec 0x80 []).bytes }]

/-- Its entry in the section table. -/
def oneEntry : Bytes :=
  blk 64 [(0, le 2 0x10), (2, [0xFF]), (4, le 4 0x440), (8, le 4 256), (0x10, sha256 (devSec 0x80 []).bytes)]

/-- The signed part of the image's header: LIVE is set, the key has modulus 2^3072 − 1 and exponent 1. -/
def hdrPart : Bytes :=
  let h := blk 0x280 [(0, le 4 0x49465A42), (4, le 2 1), (6, le 2 0x400), (8, le 4 9), (0x0C, le 4 0x540), (0x14, le 2 1),
    (0x18, le 4 0x400), (0x1C, le 4 64), (0x20, sha256 oneEntry), (0x60, le 4 1), (0x80, List.replicate 384 0xFF), (0x200, be 4 1)]
  patch h 0x7C (le 4 (crc32 (slice h 0 0x7C)).toNat)

/-- The image with its signature. -/
def goodImage : Bytes := hdrPart ++ pssEncode hdrPart (zeros 32) ++ oneEntry ++ (devSec 0x80 []).bytes

/-- A device whose flash holds that image in a bank and whose key slot 0 names its key. -/
def flashed (s : State) (b : Fin 2) : State :=
  s.onBoot fun x => { x with
    flash := memPut 0xFF [] (s.bankBase b) goodImage
    fuses := { x.fuses with keys := x.fuses.keys.set 0 (some (sha256 (slice goodImage 0x80 388))) } }

set_option maxRecDepth 1000000 in
theorem test_wit_power_good :
    (let r := resetDevice (flashed State.reset 0)
     let r : State := { r with pins := { r.pins with xspiSplit := false }, rng := { r.rng with id := 2 } }
     r.chooseBank = some 0 ∧ r.loadSections 0 (r.bankHeader 0) = some oneImg) ∧ (({} : StartTest).failStep).1 = 0 ∧
      (({ failStep := 12 } : StartTest).failStep).1 ≠ 0 := by
  decide +kernel

theorem test_wit_gen_rewrite : (zeros 64).length = 64 := by decide +kernel

theorem test_wit_rounding :
    (∃ n : Nat, 0 < n) ∧ (∃ k : Quant, k.qmin ≤ k.qmax) ∧ (∃ sc : Nat, sc < 65536 ∧ ∃ p q : Int, p ≤ q) :=
  ⟨⟨1, by decide⟩, ⟨⟨0, 0, 0, 255⟩, by decide⟩, ⟨65535, by decide, 0, 1, by decide⟩⟩

theorem test_wit_mailbox_refusals :
    let s := run secs
    let busy := s.onHst fun h => { h with state := 1 }
    mboxOf (.mboxNop 7 []) = some (0, 7, []) ∧ busy.hostLive ∧ s.hostLive ∧ busy.hst.state = 1 ∧
    s.hst.state ≠ 1 ∧ s.hst.ready = true ∧ (s.boot.recovery = true ∨ (s.proc .svp).state = .running) ∧
    ([] : Bytes).length ≤ 4096 ∧ s.mbRefusal 0 [1] = some mbBadArg ∧ argBytes 0x41 = none := by decide +kernel

theorem test_wit_nop_attach_detach :
    (run secs).serves 0x00 [] ∧ (run secs).hst.lksRefused = false ∧
    (let s := (run secs).onHst fun h => { h with lksRefused := true }
     s.serves 0x00 [] ∧ s.hst.lksRefused = true ∧ s.hst.lksTold = false) ∧ (run secs).serves 0x01 [] ∧ (run secs).serves 0x02 [] ∧
    ((run secs).onHst fun h => { h with hostAbsent := true }).serves 0x01 [] := by decide +kernel

theorem test_wit_ctx_start :
    let s := (run secs).onCtx 0 fun x => { x with state := .faulted }
    s.serves 0x10 [0] ∧ (0 : Byte).toNat < 16 ∧ s.hasCtx (ctxOf 0) = true ∧ (s.ctx (ctxOf 0)).state = .faulted ∧
    s.mayRun (ctxOf 0) = true ∧ s.peers (ctxOf 0) = 0 ∧ configCheck s (ctxOf 0) = none := by decide +kernel

theorem test_wit_ctx_stop :
    (run secs).serves 0x11 [0] ∧ ((run secs).ctx (ctxOf 0)).state = .run ∧ (run secs).peers (ctxOf 0) = 0 := by decide +kernel

/-- Core 11 fenced. -/
def fenced11 : State := (run secs).onCore 11 fun x => { x with cfh := { x.cfh with fenced := true } }

theorem test_wit_maintenance :
    (fenced11.serves 0x18 (le 2 0x800) ∧
      (∀ i, i < 16 → (fld (le 2 0x800) 0 2).testBit i = true → fenced11.fencedMask.testBit i = true) ∧ fenced11.err.fifo = []) ∧
    (fenced11.serves 0x19 (le 2 0x400) ∧
      (∀ i, i < 16 → (fld (le 2 0x400) 0 2).testBit i = true → i < 12 ∧ fenced11.fencedMask.testBit i = false)) ∧
    (fenced11.serves 0x1A [0x55] ∧
      (∀ k : StackId, (byteAt [0x55] 0).testBit k.1 = true → stackPresent fenced11.part k = true)) := by decide +kernel

theorem test_wit_power_io :
    let s := run secs
    (s.serves 0x20 [0x35, 0] ∧ s.domRefusal 0x35 0 = none ∧ s.pwpRuns = true) ∧
    (s.serves 0x20 [0x35, 1] ∧ s.domRefusal 0x35 1 = none) ∧ (s.serves 0x20 [0x35, 2] ∧ s.domRefusal 0x35 2 = none) ∧
    (s.serves 0x21 (zeros 80) ∧ diePresent s.part 0 = true) ∧
    (s.serves 0x22 (le 2 600) ∧ 600 ≤ fld (le 2 600) 0 2 ∧ fld (le 2 600) 0 2 ≤ maxPower s.part) ∧
    (s.serves 0x40 [1] ∧ byteAt [1] 0 ≤ 3) := by decide +kernel

theorem test_wit_identity_log :
    let s := run secs
    let a : Bytes := le 1 1 ++ zeros 3 ++ le 4 0 ++ le 2 4088
    s.serves 0x38 (zeros 32) ∧ s.serves 0x39 [] ∧ s.serves 0x3A a ∧ byteAt a 0 = (1 : Fin 2).1 ∧ 0 < fld a 8 2 ∧
    fld a 8 2 ≤ 4088 ∧ fld a 4 4 + fld a 8 2 ≤ logCap := by decide +kernel

/-- A device with a staging buffer of 1 MiB at 0x1000 and host updates allowed. -/
def stagingDev : State := run [devSec 0x80 [(0x50, le 6 0x1000), (0x58, le 2 1)], ctxSec 1 [], regSec, stageSec 0]

/-- A session whose next place is `n`. -/
def session (s : State) (n : Nat) : State :=
  s.onBoot fun b => { b with staging := some ⟨0x2000, 9, List.replicate 0x400 0xFF, n⟩, updState := .staging }

theorem test_wit_stage_open :
    let s := stagingDev
    let a := le 4 0x2000 ++ le 4 9
    s.serves 0x30 a ∧ s.boot.staging = none ∧ s.stagePending = false ∧ s.activation = false ∧
    (s.dev ≠ .boot ∨ s.boot.recovery = true) ∧
    (s.boot.recovery = true ∨ newer (BitVec.ofNat 32 (fld a 4 4)) s.boot.seq = true) ∧ fld a 0 4 ≤ s.bankCap := by
  decide +kernel

theorem test_wit_stage_write_close_abort :
    let s := session stagingDev 0x400
    let a := le 4 0x400 ++ le 4 16
    (s.serves 0x31 a ∧ (s.boot.staging.map (·.next)) = some 0x400 ∧ s.stagePending = false ∧ fld a 0 4 = 0x400 ∧
      fld a 4 4 ≤ s.stageBuf.2 ∧ fld a 0 4 + fld a 4 4 ≤ s.bankCap) ∧
    (s.serves 0x32 [] ∧ s.boot.staging.isSome = true) ∧ s.serves 0x33 [] := by decide +kernel

theorem test_wit_stage_write_ends :
    let a := le 4 0x400 ++ le 4 16 ++ List.replicate 16 0x5A
    let s := (session stagingDev 0x400).onHst fun h => { h with pend := [⟨7, 0x31, a⟩] }
    (s.boot.recovery = true ∨ (s.proc .svp).state = .running) ∧
    s.hst.pend.find? (fun x => x.tag = 7) = some ⟨7, 0x31, a⟩ ∧ s.boot.staging.isSome = true ∧ 0x400 ≤ fld a 0 4 ∧
    memRead 0xFF s.boot.flash (s.stagedBase + fld a 0 4) (a.drop 8).length = List.replicate (a.drop 8).length 0xFF := by
  decide +kernel

set_option maxRecDepth 1000000 in
theorem test_wit_activate :
    let s := flashed (run oneImg) 1
    s.serves 0x34 [0] ∧ s.serves 0x34 [1] ∧ s.stagedImage = some oneImg ∧ s.liveOk oneImg = true ∧ s.emergency = false ∧
    s.anyReset = false := by decide +kernel

theorem test_wit_commit_reset :
    let s := (run secs).onBoot fun b => { b with runFrom := some 0 }
    let s : State := { s with ticks := 60 * ticksPerSec }
    s.serves 0x35 [] ∧ s.boot.runFrom = some 0 ∧ 0 + 60 * ticksPerSec ≤ s.ticks ∧ s.emergency = false ∧
    s.serves 0x36 [] ∧ s.mayReset = true := by decide +kernel

/-! ### Witnesses: firmware processors, self-test -/

/-- A processor with two faults within 60 s. -/
def twoFaults (s : State) (p : Proc) : State := s.onProc p fun x => { x with faults := [0, 0] }

theorem test_wit_proc_fault :
    ((run secs).proc .tally).state = .running ∧ (run secs).emergency = false ∧
    (((run secs).proc .tally).faults.filter fun t => (run secs).within t 60).length < 2 ∧
    2 ≤ (((twoFaults (run secs) .pwp).proc .pwp).faults.filter fun t => (twoFaults (run secs) .pwp).within t 60).length ∧
    ((twoFaults (run secs) .pwp).proc .pwp).state = .running := by decide +kernel

theorem test_wit_proc_restart :
    let s := (run secs).onProc .tally fun x => { x with state := .restarting }
    (s.proc .tally).state = .restarting ∧ s.boot.updState ≠ .live := by decide +kernel

theorem test_wit_seq_restart :
    let s := run secs
    s.atBoundary 2 = true ∧ s.inReset 2 = false ∧ (s.proc (seqOf 2)).state = .running ∧
    (s.proc (seqOf 2)).activating = false ∧ (∀ q ∈ partQueues 2, (s.queue q).entries = []) ∧
    ((queued s (plain 0 0 0 []) false).queue (.core 0 .mq)).entries ≠ [] ∧ QueueId.core 0 .mq ∈ partQueues 0 ∧
    ((s.onProc (seqOf 2) fun x => { x with state := .restarting }).proc (seqOf 2)).state ≠ .running := by decide +kernel

theorem test_wit_odometer : ((run secs).proc .svp).state = .running ∧ (run secs).err.fifo = [] := by decide +kernel

/-- A live activation with processors left, and an emergency or none. -/
def activating (st : UpdState) (l : List Proc) (em : Bool) : State :=
  ((run secs).onBoot fun b => { b with updState := st, actLeft := l }).onPwr fun p => { p with powerEmerg := em }

theorem test_wit_live_activation :
    (let s := activating .live [seqOf 1, .tally] false
     s.boot.updState = .live ∧ s.boot.actLeft = [seqOf 1, .tally] ∧ s.emergency = false) ∧
    (∀ em, ∀ i : Fin 7, ((activating .live [seqOf 1] em).fwp.get i).activating = false) ∧
    (let s := activating .live [.tally] true
     s.boot.updState = .live ∧ s.boot.actLeft = [.tally] ∧ s.emergency = true) ∧
    (let s := activating .deferredEmergency [.tally] false
     s.boot.updState = .deferredEmergency ∧ s.boot.actLeft = [.tally] ∧ s.emergency = false ∧ (s.proc .pwp).state ≠ .deferred) ∧
    (let s := activating .deferredEmergency [] true
     s.emergency = true ∧ s.boot.updState = .deferredEmergency ∧ s.boot.actLeft = []) ∧
    (let s := (run secs).onProc .pwp fun x => { x with state := .deferred }
     s.emergency = false ∧ (s.proc .pwp).state = .deferred ∧ s.boot.updState ≠ .deferredEmergency) := by decide +kernel

/-- A context with an open TEST stage that owns the tests of cores 4 and 5. -/
def testing : State := staged (run [devSec 0 [(0x44, [0x80, 0x80])], ctxSec 1 [], regSec, stageSec 1]) .running

theorem test_wit_self_test :
    (testing.partner 5 = none ∧ (∀ k ∈ testing.testGroup 5, testing.mayTest k = true) ∧ testing.mayTest 0 = false) ∧
    (let s := testing.onPart (partOfCore 5) fun x => { x with hub := { x.hub with pair := some (slotOfCore 5, slotOfCore 4) } }
     s.partner 5 = some 4 ∧ (∀ k ∈ s.testGroup 5, s.mayTest k = true) ∧ (s.core 4).lst.running = false ∧
       ((s.onCore 5 fun x => { x with lst := { x.lst with running := true } }).core 5).lst.running = true) ∧
    (let s := testing.onCore 5 fun x => { x with lst := { x.lst with running := true } }
     let t := (s.onCore 3 fun x => { x with cfh := { x.cfh with fenced := true } }).onCore 4 fun x =>
       { x with cfh := { x.cfh with fenced := true } }
     (s.core 5).lst.running = true ∧ s.isFenced 5 = false ∧ adopterOf s 5 = some (slotOfCore 5 + 1) ∧
       adopterOf t 5 = none ∧ t.cutOff 5 = false ∧ s.dev = .run ∧ s.err.expect = false) ∧
    (let s := testing.onCore 5 fun x => { x with lst := { x.lst with running := true, nextSeg := 17 } }
     (s.core 5).lst.running = true ∧ (s.core 5).lst.nextSeg.1 = 17) := by decide +kernel

/-! ### Witnesses: the host port -/

theorem test_wit_ring_irq :
    let s := (run secs).onHst fun h => { h with rings := h.rings.set 15 { h.rings[15] with irqEn := true, unsignalled := 3 } }
    let s := s.onHst fun h => { h with msix := h.msix.set 15 (0, 0, 0), msixEn := true }
    s.hst.msixEn = true ∧ (s.ring 15).irqEn = true ∧ 0 < (s.ring 15).unsignalled ∧ (s.hst.msix.get ⟨15, by omega⟩).2.2.getLsbD 0 = false := by
  decide +kernel

/-- `HST_BAR2_BASE` reads back bits [47:20]; an access that is not aligned reads zero (R488, R491). -/
theorem test_bar0_read :
    let s := (run secs).onHst fun h => { h with bar2Base := 0x123 }
    s.bar0Read 0x20 8 = [0, 0, 0x30, 0x12, 0, 0, 0, 0] ∧ s.bar0Read 0x22 4 = zeros 4 := by decide +kernel

/-- A host that reaches the device, one that wakes PCIE, one that finds it on FIO, and a device in reset. -/
theorem test_wit_host_live :
    let s := run secs
    let w := s.onDom 0x34 fun d => { d with state := .off }
    let f : State := { s.onDom 0x34 fun d => { d with state := .onFio } with fwp := s.fwp.set 1 {} }
    s.hostLive ∧ (w.pins.pads = .run ∧ w.domIsDown 0x34 = true ∧ w.pwpRuns = true) ∧ (pcieUp f).domLive 0x34 = false ∧
    State.reset.pins.pads ≠ .run := by decide +kernel

theorem test_wit_host_loss : (run secs).hst.hostAbsent = false := by decide +kernel

theorem test_wit_bar2 :
    let s := stagingDev
    s.hostLive ∧ s.bar2Reads (s.bar2Addr 0x1000) 8 = true ∧ s.addrReset (s.bar2Addr 0x1000) = false ∧
    s.badIn (s.bar2Addr 0x1000) 8 false = none ∧ ([1, 2, 3, 4] : Bytes) ≠ [] ∧
    s.badIn (s.bar2Addr 0x1000) 4 true = none ∧
    s.bar2Writes (s.bar2Addr 0) 4 = false ∧ s.bar2Writes (s.bar2Addr 0x1000) 4 = true ∧
    (let r := s.onHst fun h => { h with bar2Base := BitVec.ofNat 28 (0x020000000000 / 2 ^ 20) }
     r.bar2Reads (r.bar2Addr 0) 8 = false) ∧
    (let r := s.onPart 0 fun x => { x with prt := { x.prt with state := .resetting } }
     r.addrReset (r.bar2Addr 0x1000) = true ∧ r.bar2Reads (r.bar2Addr 0x1000) 8 = true ∧
       r.bar2Writes (r.bar2Addr 0x1000) 4 = true) := by decide +kernel

theorem test_wit_register_write : (zeros 8).length = 8 ∧ 0x25000 ≤ (0x25000 : BitVec 26).toNat := by decide +kernel


/-! ### Witnesses: time, fabric, scrubbing -/

theorem test_wit_servo :
    let s := (run secs).onTb fun t => { t with en := true }
    s.tb.en = true ∧ s.tb.hold = false ∧ s.tb.holdover = false ∧ s.dev = .run ∧ s.dflag 5 = false ∧
    s.isGm = false ∧ s.ringPeer = false ∧ diePresent s.part 0 = true ∧ (2 : BitVec 2) ≠ 3 ∧
    s.ptpPort = none ∧
    (let r := s.onTb fun t => { t with hold := true, holdover := true, good := 1 }
     r.tb.en = true ∧ r.tb.holdover = true ∧ 1 ≤ r.tb.good) := by decide +kernel

theorem test_wit_sync_interval :
    let s := run [devSec 0x40 [(0x10, [0x80])], ctxSec 1 [], regSec, stageSec 0]
    s.ptpPort = some (0, 0) ∧ s.ringPeer = false ∧ diePresent s.part 0 = true ∧ s.isGm = true := by decide +kernel

theorem test_wit_time_step :
    let s := (run [devSec 0x20 [(8, le 4 1000)], ctxSec 1 [], regSec, stageSec 0]).onTb fun t => { t with en := true, sec := 9 }
    let θ : BitVec 48 := BitVec.ofNat 48 (1001 * 65536)
    s.tb.en = true ∧ s.tb.hold = false ∧ s.tb.holdover = false ∧ s.tb.first = true ∧
    s.stepNs * 65536 < θ.toInt.natAbs ∧ s.mayStep = true ∧ 0 ≤ (s.fine : Int) - θ.toInt * 65536 ∧
    (s.fine : Int) - θ.toInt * 65536 < 2 ^ 48 * 1000000000 * 2 ^ 32 := by decide +kernel

theorem test_wit_haul :
    let s := run secs
    let x : HaulTxn := { ctx := 0, gen := 5, write := true, addr := 0x1000, data := [1, 2, 3] }
    let w : Who := { ctx := x.ctx, gen := x.gen, part := 0, core := none, src := x.src, detail := 0, arrived := true }
    (x.link = none ∧ x.crcOk = true ∧ x.gen = (s.ctx x.ctx).gen ∧ x.write = true ∧
      (s.storeAt w x.addr.toNat x.data.length).toOption = some 0x1000 ∧
      s.badOfWrites (mirrorPair s [(0x1000, x.data)]) = none ∧ target 0x1000 = .dram 0) ∧
    (s.load w 0x1000 4).toOption = some (zeros 4) ∧
    ({ x with gen := 4 }).gen ≠ (s.ctx x.ctx).gen ∧
    ({ x with crcOk := false }).crcOk = false ∧ ({ x with link := some .d0d1 }).link.isSome = true ∧
    (match s.storeAt w 0x900000 3 with
      | .ok _ => false
      | .error f => isFault f.code) = true ∧ (s.ctx x.ctx).state = .run ∧ s.err.expect = false := by decide +kernel

theorem test_wit_sram_scrub :
    let s := run secs
    target (led 64) = .ledge 0 ∧ s.inReset (partOfCore 0) = false ∧ s.isFenced 0 = false ∧ s.domIsDown 0x10 = false ∧ s.bad = [] ∧
    target 0x010000000020 = .stock 0 ∧ s.domIsDown 0x20 = false ∧ s.sramOwner 0x010000000020 = none := by decide +kernel

theorem test_wit_dram_scrub :
    let s := run secs
    target 0x20000 = .dram 0 ∧ s.mcReady (stackOf s.part 0 0x20000) = true ∧ absentAt s.part 0x20000 = false ∧
    s.inReset 0 = false ∧ s.bad = [] := by decide +kernel

theorem test_wit_calibration :
    let s := (run secs).onMc 2 fun x => { x with calReq := true }
    s.mcReady 2 = true ∧ (s.mcs.get 2).calReq = true ∧ s.calWindow (partOfStack 2) = true := by decide +kernel

theorem test_wit_ingress :
    let e : IffItem := { ctx := 0, gen := 5, writes := [(0x1000, [7])], signal := some (0, 3, 1), flow := false, profile := 0, buf := 0 }
    let s := (run secs).onDie 0 fun x => { x with fifo := [e] }
    let r := s.onPart 0 fun x => { x with prt := { x.prt with state := .resetting } }
    (s.die 0).fifo = [e] ∧ (∀ m, ((s.die 0).mac.get m).held = []) ∧ e.gen = (s.ctx e.ctx).gen ∧
    (s.die 0).stalled = [] ∧ (∀ w ∈ e.writes, s.fifoBlocked 0 w = false) ∧
    (∀ w ∈ mirrorPair s e.writes, s.badOfWrites [w] = none) ∧ s.inReset 0 = false ∧ ioLink 0 (partDie 0) ∉ s.linkDown ∧ (s.ctx 0).state = .run ∧ s.err.expect = false ∧
    ({ e with gen := 4 }).gen ≠ (s.ctx e.ctx).gen ∧ (r.fifoLink 0 0x1000 = none ∧ homePart 0x1000 = some 0 ∧ r.inReset 0 = true) ∧
    ((run secs).die 0).fifo = [] := by decide +kernel

/-! ### Witnesses: faults and recovery -/

theorem test_wit_coalesce :
    let w : Coal := { src := 1, code := cDramCe, ctx := some (0, 5), count := 2, time := 7, detail := 0 }
    let s := (run secs).onErr fun e => { e with coal := [w] }
    s.err.coal.find? (fun x => x.src = w.src && x.code = w.code && decide ((x.ctx.map (·.1)) = w.ctx.map (·.1))) = some w ∧
    s.err.fifo = [] := by decide +kernel

/-- Context 0 drains. -/
def draining : State := (run secs).onCtx 0 fun x => { x with state := .draining }

theorem test_wit_drain :
    let s := (draining.onCtx 0 fun x => { x with stopTag := some 9 }).onHst fun h => { h with state := 1, cmdTag := 9 }
    ((s.ctx 0).state = .draining ∧ 0 ∉ s.rep.stopping ∧ (s.ctx 0).stopTag = some 9 ∧ s.hst.state = 1 ∧ s.hst.cmdTag = 9 ∧
      s.pending? 9 0x11 = none) ∧
    ((draining.ctx 0).stopTag = none ∧ draining.peers 0 = 0 ∧ draining.autoRestart 0 = false) ∧
    (draining.err.expect = false ∧ (1 : BitVec 4).getLsbD (0 : PartId).1 = true ∧ (draining.prt 0).prt.state = .service ∧
      draining.recd.state = .disabled ∧ draining.recd.nblk = 0) := by decide +kernel

/-- Partition 1 in reset, its weights (the 256 bytes of section 0) at a region of context 0 with a mirror in partition 2. -/
def resetting : State :=
  { (run [devSec 0 [], ctxSec 1 [], sect 0x21 0 0 (blk 32 [(0, le 8 0x1000000000), (8, le 8 0x1000), (0x10, [5, 1]), (0x14, [2])]),
      stageSec 0, sect 0x31 0xFF 0 (sha256 (devSec 0 []).bytes)]).onPart 1 fun x => { x with prt := { x.prt with state := .resetting } }
    with mirrors := [(0x1000000000, (devSec 0 []).bytes)] }

theorem test_wit_partition :
    (resetting.inReset 1 = true ∧ (resetting.prt 1).prt.reload = false ∧ resetting.svpRuns = true ∧ resetting.weights 1 ≠ [] ∧
      (resetting.weights 1).all (fun r => resetting.mirrorGood 1 r) = true) ∧
    (let s := (resetting.onMc 4 fun x => { x with mirrorBad := true }).onMc 5 fun x => { x with mirrorBad := true }
     s.inReset 1 = true ∧ (s.prt 1).prt.reload = false ∧ (s.weights 1).all (fun r => s.mirrorGood 1 r) = false) ∧
    (let s := resetting.onPart 1 fun x => { x with prt := { x.prt with reload := true } }
     (s.prt 1).prt.reload = true ∧ s.svpRuns = true) ∧
    ({ resetting with fwp := resetting.fwp.set 0 {} } : State).svpRuns = false ∧ (run secs).inReset 1 = false ∧ (run secs).mcReady 4 = true ∧ resetting.mcReady 2 = false ∧
    resetting.mirrored (partOfStack 4) ≠ [] := by decide +kernel

/-- A context with a ring peer. -/
def peered : State := run [devSec 3 [], ctxSec 9 [(0x2C, [2])], regSec, stageSec 0]

theorem test_wit_peer_drain :
    let s := peered.onCtx 0 fun x => { x with state := .faulted }
    s.peers 0 ≠ 0 ∧ (s.ctx 0).state = .faulted ∧ (run secs).peers 0 = 0 ∧ (peered.ctx 0).state = .run := by decide +kernel

theorem test_wit_device_restart :
    let s := (run [devSec 0 [], ctxSec 9 [], regSec, stageSec 0]).onCtx 0 fun x => { x with state := .faulted }
    let s := s.onErr fun e => { e with deviceAt := some 0, restart := [0] }
    s.err.deviceAt.isSome = true ∧ s.tly.ready = true ∧ s.tly.restarting = false ∧ s.hst.tablesBad = false ∧ s.hst.lksRefused = false ∧
    s.dev = .run ∧ 0 ∈ s.err.restart ∧
    (s.ctx 0).state = .faulted ∧ s.autoRestart 0 = true ∧ s.peers 0 = 0 ∧ s.canLoad 0 = true ∧
    s.boot.badWgt.getLsbD (0 : CtxId).1 = false ∧ s.err.restart.head? = some 0 ∧ configCheck s 0 = none ∧
    1 ∉ s.err.restart := by decide +kernel

/-! ### Witnesses: cameras and Ethernet -/

/-- A camera stream on port 0, virtual channel 0: RAW8, 8 × 2 pixels; the port is enabled. -/
def camDev (f : CamRt → CamRt) : State :=
  let s := run [devSec 0 [], ctxSec 1 [], regSec, stageSec 0, sect 0x11 0xFF 0 (blk 320 [(0, [0x80]), (0x40, [1])]),
    sect 0x26 0 0 (blk 144 [(1, [0x2A, 0, 1]), (8, le 2 8), (10, le 2 2), (0x58, le 8 0x1000), (0x60, le 8 0x2000)])]
  s.onCam 0 0 fun x => f { x with ctx := some 0, gen := 5 }

/-- A header of that stream. -/
def camHdr (e : HdrEcc) : CsiHdr := { die := 0, port := 0, vc := 0, ecc := e }

theorem test_wit_frame_start :
    let s := camDev id
    let k := camHdr .ok
    (k.ecc = .ok ∧ k.vcx = false ∧ s.dev ≠ .replay ∧ diePresent s.part k.die = true ∧
      s.portLive k.die k.port = true ∧ k.buffered = .clean ∧ s.camSlot k.die k.port.1 k.vc.1 = some (0, 0) ∧
      ((s.die k.die).cams.get 0).frameOpen = false ∧ (s.camProf 0 k.die 0).mode ≠ 0 ∧ s.camLive k.die 0 0 = true ∧
      s.nextBuf 0 false k.die 0 ((s.die k.die).cams.get 0).last = some 0) ∧
    (let k : CsiHdr := { die := 0, port := 0, vc := 1, ecc := .bad }
     k.ecc = .bad ∧ s.portLive k.die k.port = true ∧ s.camSlot k.die k.port.1 k.vc.1 = none) ∧
    s.portLive 0 1 = false := by decide +kernel

theorem test_wit_long_packet :
    let s := camDev fun x => { x with frameOpen := true, buf := some 0, received := 1 }
    let k := camHdr .ok
    let dt : BitVec 6 := 0x2A
    s.portLive k.die k.port = true ∧ s.camSlot k.die k.port.1 k.vc.1 = some (0, 0) ∧
    ((s.die k.die).cams.get 0).frameOpen = true ∧ ((s.die k.die).cams.get 0).buf = some 0 ∧
    ((s.die k.die).cams.get 0).ctx = some 0 ∧ (s.camProf 0 k.die 0).mode = 1 ∧ dt.toNat = (s.camProf 0 k.die 0).dt ∧
    (zeros 8).length = lineLen (s.camProf 0 k.die 0).dt (s.camProf 0 k.die 0).inW ∧
    portBytes s k.die (s.camProf 0 k.die 0).port + (zeros 8).length ≤ 65536 ∧ k.buffered = .clean ∧
    profTypes.contains dt.toNat = true ∧ ((s.die k.die).cams.get 0).received < (s.camProf 0 k.die 0).inH := by decide +kernel

theorem test_wit_crusher :
    let s := camDev fun x => { x with waiting := [⟨3, none⟩] }
    s.domLive (cruDom 0) = true ∧ firstLine (crusherQueue s 0 0) = some 0 ∧ ((s.die 0).cams.get 0).ctx = some 0 ∧
    ((s.die 0).cams.get 0).waiting = [⟨3, none⟩] ∧ s.fifoFull 0 = false := by decide +kernel

/-- A full FIFO. -/
theorem test_wit_crusher_stall :
    let e : IffItem :=
      { ctx := 0, gen := 5, writes := [(0x1000, zeros 0x800000)], signal := none, flow := false, profile := 0, buf := 0 }
    ((camDev fun x => { x with waiting := [⟨3, none⟩] }).onDie 0 fun x => { x with fifo := [e] }).fifoFull 0 = true := by
  have h : ∀ (s : State) (l : List IffItem), ((s.onDie 0 fun x => { x with fifo := l }).die 0).fifo = l := fun s l => by
    simp [State.onDie, State.die, Vector.get_eq_getElem]
  simp only [State.fifoFull, IoDie.full, fifoBytes, h, List.map, sumN, zeros, List.length_replicate]
  decide

/-- An Ethernet frame to every station: EtherType and the bytes after it, 60 bytes and FCS. -/
def ethFrame (ty : Nat) (p : Bytes) : Bytes :=
  withCrc32 (slice (List.replicate 6 0xFF ++ zeros 6 ++ be 2 ty ++ p) 0 60)

/-- A UDP datagram of 4 bytes to port 0x0940. -/
def udpPacket : Bytes :=
  [0x45, 0] ++ be 2 32 ++ zeros 4 ++ [64, 17] ++ be 2 0x7ACE ++ zeros 8 ++ be 2 0 ++ be 2 0x0940 ++ be 2 12 ++ be 2 0 ++ [1, 2, 3, 4]

theorem test_wit_eth_port :
    let s := camDev id
    s.dev ≠ .replay ∧ diePresent s.part 0 = true ∧ s.domLive (ethDom 0) = true ∧ byteAt (s.macCfg 0 0) 0 % 128 ≠ 0 ∧
    s.recActive = false ∧ fcsOk (zeros 63) = false ∧ s.macRecords 0 0 = false ∧ s.flowsOfMac 0 0 = [] := by decide +kernel

set_option maxRecDepth 1000000 in
theorem test_wit_eth_foreign :
    let s := camDev id
    let f := ethFrame 0x1234 []
    fcsOk f = true ∧ s.rxFull 0 0 f.length = false ∧ s.destOk 0 0 (f.take 6) = true ∧ (etherOf f).1 ≠ 0x88F7 ∧ (etherOf f).1 ≠ 0x0806 ∧
    (etherOf f).1 ≠ 0x0800 := by decide +kernel

set_option maxRecDepth 1000000 in
theorem test_wit_eth_parse :
    let s := (camDev id).onMac 0 0 fun x => { x with table := [zeros 4 ++ le 2 0x0940 ++ [0x0B, 0]] }
    let f := ethFrame 0x0800 udpPacket
    fcsOk f = true ∧ s.rxFull 0 0 f.length = false ∧ s.destOk 0 0 (f.take 6) = true ∧ (etherOf f).1 = 0x0800 ∧ ipOk (etherOf f).2 = true ∧
    s.frameEntry 0 0 f = some ((0, 0x0B, 0), [1, 2, 3, 4]) ∧ bit 0x0B 1 = true ∧ bit 0x0B 2 = false := by decide +kernel

theorem test_wit_sweep_record :
    (let s := (run secs).onFlow 1 15 fun x => { x with sweepOpen := true, buf := some 1, ctx := some 0 }
     (s.flow 1 15).sweepOpen = true ∧ (s.flow 1 15).buf = some 1 ∧ (s.flow 1 15).ctx = some 0) ∧
    (let s := (run secs).onMac 0 3 fun x => { x with record := some (0, 1, []) }
     s.recActive = false ∧ ((s.die 0).mac.get 3).record = some (0, 1, [])) := by decide +kernel

/-! ### Witnesses: the Tally and the recorder -/

/-- A frame that waits for its verdict. -/
def item (faulted : Bool) : TallyItem :=
  { ctx := 0, gen := 5, frame := 0, record := none, recordSeq := 0, tSeal := 0, tTrigger := 0, armed := 0, goldDone := 0
    goldStreams := 0, classes := Vector.replicate 16 0, degradedWin := false, faulted := faulted, devFault := false
    thermal := false, nFault := 0, replay := false }

theorem test_wit_verdict :
    let s := (run secs).onTly fun t => { t with queue := [item false] }
    (s.tallyHead = some (item false) ∧ s.tly.ready = true ∧ s.tly.restarting = false ∧ (item false).late = false ∧ s.bad = [] ∧
      (item false).gen = (s.ctx (item false).ctx).gen) ∧ (item true).faulted = true ∧
    (s.tly.queue.find? (fun k => decide (k.ctx = 0) && !k.late) = some (item false) ∧ (s.ctx 0).state = .run ∧
      s.err.expect = false) ∧ (run secs).tallyHead = none ∧
    (let s := (run secs).onTly fun t => { t with queue := [{ item true with late := true }] }
     s.tallyHead = some { item true with late := true }) := by decide +kernel

/-- A record with stream 3 INCOMPLETE, and a table of one rule with an ACT and a DEP byte. -/
def judged (act dep : Nat) : Judged :=
  { tab := blk 96 [(64, [1, BitVec.ofNat 8 act, 0xD0, 0xFF, 0, BitVec.ofNat 8 dep])], hdr := blk 128 [(0x68, le 8 8)], pl := [] }

/-- A skipped rule with ACT[3:2] = 2 ends in action 2 and is in the map; a violated rule of action 0 is in the map only
(R306). -/
theorem test_rule_outcomes :
    (let j := judged 0x08 3
     let e := slice j.tab (64 + 16 * nField j.tab + 32 * 0) 32
     0 < 1 ∧ byteAt e 5 ≠ 0xFF ∧ j.incomplete.testBit (byteAt e 5 % 64) = true ∧
       (evalRules j (Vector.replicate 16 0) 0 0 1 []).acts = [(0, 2)] ∧ (evalRules j (Vector.replicate 16 0) 0 0 1 []).viol = 1) ∧
    (let j := { judged 0 0xFF with hdr := blk 128 [(0x60, le 4 5)] }
     (byteAt (slice j.tab (64 + 16 * nField j.tab + 32 * 0) 32) 5 = 0xFF) ∧
       (evalRules j (Vector.replicate 16 0) 0 0 1 []).acts = [] ∧ (evalRules j (Vector.replicate 16 0) 0 0 1 []).viol = 1) := by
  decide +kernel

theorem test_wit_tally_lockstep :
    let s := (run secs).onTly fun t => { t with lockstepAt := some 0 }
    s.err.expect = false ∧ (s.proc .tally).state = .running ∧ s.tly.lockstepAt = some 0 ∧ s.within 0 3600 = true := by
  decide +kernel

/-- A device whose host may command the recorder. -/
def recorder (st : RecState) : State :=
  (run [devSec 0x10 [], ctxSec 1 [], regSec, stageSec 0]).onRec fun r => { r with state := st }

theorem test_wit_recorder :
    ((recorder .recording).hostRec = true ∧ (recorder .recording).recd.state = .recording ∧ (recorder .recording).recd.nblk = 0) ∧
    (recorder .postWindow).recd.state = .postWindow ∧
    ((recorder .frozen).hostRec = true ∧ (recorder .frozen).recd.state = .frozen) := by decide +kernel

/-! ### Witnesses: lock-step and replay -/

theorem test_wit_lockstep :
    let m := blk 32 [(0, le 8 5), (10, le 2 3), (24, le 8 77)]
    let s := (run secs).onLks 2 fun x => { x with ctx := some 0, state := .armed }
    let s1 := s.onLks 2 fun x => { x with mine := [lksOf m] }
    let s2 := s.onLks 2 fun x => { x with mine := [lksOf (patch m 24 (le 8 78))] }
    (s.lksSlot 0 = some 2 ∧ (s.lks.get 2).state = .armed ∧ (s.lks.get 2).suspended ≠ some (lksOf m).1 ∧
      (s.lks.get 2).mine.find? (sameKey (lksOf m)) = none ∧ (s.lks.get 2).mine.length + (s.lks.get 2).theirs.length < 8192) ∧
    (s1.lks.get 2).mine.find? (sameKey (lksOf m)) = some (lksOf m) ∧
    (∃ o, (s2.lks.get 2).mine.find? (sameKey (lksOf m)) = some o ∧ (lksOf m).2.2.2 ≠ o.2.2.2) ∧
    (let s3 := s.onLks 2 fun x => { x with state := .mismatch }
     (s3.lks.get 2).ctx = some 0 ∧ (s3.lks.get 2).state = .mismatch) := by
  refine ⟨by decide +kernel, by decide +kernel, ⟨lksOf (patch (blk 32 [(0, le 8 5), (10, le 2 3), (24, le 8 77)]) 24 (le 8 78)), by decide +kernel⟩,
    by decide +kernel⟩

theorem test_wit_replay_refused : (run secs).rep.active = false ∧ (run secs).startError = some 1 := by decide +kernel

/-- A device that may replay, a control block at 0x3000 and a recording at 0x8000 whose header CRC is right: the first four
bytes bring the CRC to 0, where the zeros after them keep it. -/
def repDev : State :=
  let s := (run [devSec 8 [], ctxSec 1 [], regSec, stageSec 0]).onRep fun r => { r with cb := 0x3000 }
  { s with mem := memPut 0 (memPut 0 (memPut 0 [] 0x3000 (le 6 0x8000)) 0x8000 (List.replicate 4 0xFF)) 0x8FFC (List.replicate 4 0xFF) }

theorem crc_of_zeros : ∀ n, (zeros n).foldl crc32Step 0#32 = 0#32
  | 0 => rfl
  | n + 1 => by
    have h : crc32Step 0#32 0#8 = 0#32 := by decide
    simpa [zeros, List.replicate_succ, h] using crc_of_zeros n

theorem crc_of_header (n : Nat) : crc32 (255#8 :: 255#8 :: 255#8 :: 255#8 :: zeros n) = 0xFFFFFFFF#32 := by
  have h : crc32Step (crc32Step (crc32Step (crc32Step 0xFFFFFFFF#32 255#8) 255#8) 255#8) 255#8 = 0#32 := by decide +kernel
  simp only [crc32, List.foldl_cons]
  rw [h, crc_of_zeros]
  decide

set_option maxRecDepth 1000000 in
theorem test_wit_replay_header :
    (recordedAt repDev 0x8000 false).hdr.take 0xFFC = List.replicate 4 0xFF ++ zeros 4088 ∧
    fld (recordedAt repDev 0x8000 false).hdr 0xFFC 4 = 0xFFFFFFFF := by decide +kernel

theorem test_wit_replay_start : repDev.rep.active = false ∧ repDev.startError = none := by
  have h1 : fld repDev.replayCb 0 6 = 0x8000 := by decide +kernel
  have h2 : bit (byteAt repDev.replayCb 0x0A) 2 = false := by decide +kernel
  have h3 : repDev.replaySel = [] := by decide +kernel
  have h4 : (repDev.replayEn && decide (repDev.dev ≠ .safe)) = true := by decide +kernel
  have h5 : dieAbsent repDev repDev.replayItems = false := by decide +kernel
  refine ⟨by decide +kernel, ?_⟩
  simp only [State.startError, h1, h2, h3]
  simp only [Bool.and_eq_true, decide_eq_true_eq] at h4
  simp [replayError, h4.1, h4.2, test_wit_replay_header, crc_of_header, h5]

/-- A replay with one mark left, for frame 9 of context 0. -/
def replaying : State :=
  let x : RecItem := { src := srcMark, kind := 7, rflags := 0, seq := 0, time := 0, aux := 0, payload := blk 32 [(4, le 4 9)], ok := true, block := 0, next := 1 }
  { (run secs).onRep fun r => { r with active := true, feed := [x] } with dev := .replay }

theorem test_wit_replay_inject :
    let s := replaying
    s.rep.active = true ∧ s.rep.stopped = false ∧ s.rep.stopping = [] ∧ s.windowOver = false ∧
    (match s.rep.feed with
      | [x] => decide (x.kind = 7) && decide ((s.ctx (ctxOf x.markCtx)).state = .run) &&
          !(s.ctx (ctxOf x.markCtx)).frame.inFlight && !s.seqHeld (ctxOf x.markCtx)
      | _ => false) = true ∧ s.dev = .replay ∧ (run secs).dev ≠ .replay ∧
    (let r := s.onRep fun r => { r with feed := r.feed.map fun x => { x with kind := 9 } }
     r.windowOver = true ∧ (r.onCtx 0 fun x => { x with frame := { x.frame with inFlight := true } }).windowOver = false) ∧
    (run secs).rep.active = false := by decide +kernel


/-! ### Witnesses: the ring -/

/-- A member of the ring, with ID 1 and both ports in a state. -/
def ringDev (st : LinkState) (mgr : BitVec 2) (f : RngRegs → RngRegs) : State :=
  peered.onRng fun r => f { r with
    id := 1, bypass := false, members := 3, hasMgr := true, mgrId := mgr
    ports := Vector.replicate 2 { ({} : RingPortRt) with state := st } }

theorem test_wit_ring_links :
    (let s := ringDev .up 0 id
     s.ringOn = true ∧ s.isPortUp .e = true ∧ (∀ j, (target 0x1000).die = some j → ioLink 0 j ∉ s.linkDown) ∧
       s.discards 0 (s.ctx 0).gen = false ∧
       (s.storeAt { ctx := 0, gen := (s.ctx 0).gen, part := 0, core := none, src := srcRing .e, detail := 0, arrived := true }
         0x1000 2).toOption = some 0x1000 ∧ s.badOfWrites (mirrorPair s [(0x1000, [1, 2])]) = none ∧
       (s.load { ctx := 0, gen := (s.ctx 0).gen, part := 0, core := none, src := srcRing .e, detail := 0, arrived := true }
         0x1000 2).toOption = some [0, 0] ∧ s.discards 0 4 = true ∧
       (s.port .e).fails < 4) ∧
    (let s := (ringDev .up 0 id).onPort .w fun p => { p with fails := 4 }
     s.ringOn = true ∧ s.isPortUp .w = true ∧ 4 ≤ (s.port .w).fails) ∧
    (let s := ringDev .training 0 id
     s.ringOn = true ∧ (s.port .e).state = .training ∧ (1 : BitVec 2) = s.rng.id ∧ (2 : BitVec 2) ≠ s.rng.id ∧
       s.skipsMember .e 2 = false ∧ (ringDev .training 0 fun r => { r with seen := [(2, false, false)] }).skipsMember .e 3 = true) ∧
    (ringDev .off 0 id).ringOn = true ∧ ((ringDev .off 0 id).port .e).state = .off ∧
    ((ringDev .clash 0 id).port .e).state = .clash ∧
    (ringDev .idle 0 fun r => { r with idle := true }).rng.idle = true := by decide +kernel

/-- A member that follows manager 0 and hears it by both ports. -/
def follower : State := ringDev .up 0 fun r => { r with seen := [(0, true, true)], hears := [(0, .e, 2), (0, .w, 0)] }

theorem test_wit_ring_hello :
    let s := follower
    (s.isMgr = false ∧ s.rng.idle = false ∧ (∀ x ∈ s.rng.hears, x.2.2 < 3) ∧
      (∀ e ∈ s.rng.seen, (s.rng.hears.any fun x => decide (x.1 = e.1)) = true) ∧ s.topology = s.published) ∧
    s.isPortUp .e = true ∧ (0 : BitVec 2) ≠ s.rng.id ∧ (0, true, true) ∈ s.rng.seen ∧
    (s.onRng fun r => { r with
      seen := r.seen.filter (fun e => decide (e.1 ≠ 0)) ++ [(0, true, false)], hears := hear r.hears 0 .e }).topology = s.published := by
  decide +kernel

theorem test_wit_ring_messages :
    let h : MgmtHdr := { src := 0, broadcast := true }
    let s := follower
    s.ringOn = true ∧ mgmtOf (.ringIdle { h with crcOk := false } true) = some { h with crcOk := false } ∧
    (let k : MgmtHdr := { src := 0, dst := 2 }
     mgmtOf (.tSync k .e) = some k ∧ k.crcOk = true ∧ k.broadcast = false ∧ k.dst ≠ s.rng.id) ∧
    h.crcOk = true ∧ h.broadcast = true ∧ h.src ≠ s.rng.id ∧
    (0 : BitVec 2).toNat ≤ s.rng.id.toNat ∧ s.rng.hasMgr = true ∧ h.src = s.rng.mgrId ∧ s.runsPeered 0 = true ∧
    s.runsPeered 1 = false ∧ (1 : BitVec 2) ≠ s.rng.mgrId ∧ (s.ctx 0).state = .run ∧ s.rng.held = [] := by decide +kernel

theorem test_wit_ring_start :
    let s := (ringDev .up 0 fun r => { r with members := 3, id := 0 }).onCtx 0 fun x => { x with state := .idle }
    s.ringOn = true ∧ s.rng.hasMgr = true ∧ (0 : BitVec 2) = s.rng.mgrId ∧ s.runsPeered 0 = true ∧ s.jointMask 0 &&& 3 = s.jointMask 0 ∧ s.mayRun 0 = true ∧
    (s.ctx 0).peerHold = false ∧ (s.ctx 0).state = .idle ∧ configCheck s 0 = none := by decide +kernel

theorem test_wit_ring_manager :
    let s := ringDev .up 1 fun r => { r with members := 0xF }
    s.ringOn = true ∧ s.isMgr = true ∧ s.rng.acks = [] ∧
    (let s := (run [devSec 3 [], ctxSec 9 [(0x2C, [5])], regSec, stageSec 0]).onRng fun _ => s.rng
     s.isMgr = true ∧ s.jointMask 0 &&& s.rng.members &&& idBit 0 ≠ s.jointMask 0 &&& s.rng.members) := by decide +kernel

theorem test_wit_ring_idle :
    let s := ringDev .up 0 id
    (let t := s.onRng fun r => { r with idleAcks := 2 }
     t.rng.members &&& (t.rng.idleAcks ||| idBit 0) = t.rng.members) ∧
    s.rng.members &&& (s.rng.idleAcks ||| idBit 0) ≠ s.rng.members := by decide +kernel

theorem test_wit_ring_time :
    let s := (ringDev .up 0 id).onPort .e fun p => { p with synced := true, t1 := 9 }
    s.isPortUp .e = true ∧ (s.port .e).synced = true ∧ (s.port .e).t1 ≠ 0 ∧ s.rng.hasMgr = true ∧
    s.rng.mgrId ≠ s.rng.id ∧ routePort s.rng s.rng.mgrId = .e := by decide +kernel

/-! ### Witnesses: the machine as a whole, and the rules stated whole -/

/-- The worked example of R245: stack M4, channel 1 and its offset on both parts. -/
theorem test_channel_of_dram :
    stackOf .gb1282 2 0x002123456700 = 4 ∧ channelOf 0x002123456700 = 1 ∧ channelOffset .gb1282 0x002123456700 = 0x2468AC00 ∧
    stackOf .gb1242 2 0x002123456700 = 4 ∧ channelOffset .gb1242 0x002123456700 = 0x48D15900 := by decide +kernel

theorem test_wit_step : State.reset.pending = [] := by decide +kernel

theorem test_wit_pins : State.reset.pinsOk ∧ ∃ t, step State.reset = .next t := ⟨by decide +kernel, _, rfl⟩

theorem test_wit_memory :
    memWf 0 [(3, 1), (5, 2)] ∧ memWf 0 [(3, 1), (5, 2)] ∧ (∀ k, memGet 0 [(3, 1), (5, 2)] k = memGet 0 [(3, 1), (5, 2)] k) :=
  ⟨by decide +kernel, by decide +kernel, fun _ => rfl⟩

/-- A NOP at the head of the MQ of core 0 that waits for bead 0 to reach 2, with a bead value. -/
def waiting (v : U32) : State :=
  (queued (run secs) (desc (0x100 + 5 * 0x10000) 0 2 0 []) false).setBead 0 0 v

theorem test_wit_wait :
    (match ((waiting 1).queue (.core 0 .mq)).entries with
      | [e] => (hdrOf e.bytes).waitEn &&
          decide (((waiting 1).bead 0 (hdrOf e.bytes).waitBead - (hdrOf e.bytes).thresh).toInt < 0) &&
          decide (0 ≤ ((waiting 2).bead 0 (hdrOf e.bytes).waitBead - (hdrOf e.bytes).thresh).toInt)
      | _ => false) = true := by decide +kernel

theorem test_wit_frame_number :
    let s := (run secs).onCtx 0 fun x => { x with nextFrame := 0xFFFFFFFF }
    (s.ctx 0).state = .run ∧ s.dev ≠ .replay ∧ s.seqHeld 0 = false ∧ (s.ctx 0).frame.inFlight = false ∧
    s.arrivalTrig 0 = false ∧
    (let r := (run secs).onCtx 0 fun x => { x with state := .starting }
     (r.ctx 0).state = .starting ∧ r.canLoad 0 = true) := by decide +kernel

end Sys2Proof.Tests
end

section
/-!
PROOFS. What the host's accesses of BAR2 and of the registers do, one lemma for each case of the operations they share, and
the state after reset.
-/

namespace Sys2Proof.Machine

/-! ### An access of the host (R478, R511) -/

theorem State.keeps_onHst (s : State) (f : HstRegs → HstRegs) : s.keeps [.hst] (s.onHst f) := fun k hk => by
  cases k
  case hst => simp at hk
  all_goals rfl

/-- A command that is an access of a host that reaches the device ends in the access's effect, and its frame is the effect's
own and the host port. -/
theorem hostAccess_finish {s : State} {c : Instr} {f : State → State} {l : List Kind} (hl : s.hostLive)
    (hc : exec c s = finish s (hostAccess s f)) (hk : s.accessed.keeps l (f s.accessed)) (hh : Kind.hst ∈ l) :
    ∃ t, exec c s = .next t ∧ s.keeps l t ∧ (f s.accessed).Quiet t := by
  rw [hc, hostAccess_live s f hl]
  exact finish_keeps (State.keeps_trans (State.keeps_mono (accessed_keeps s) (by simpa using hh)) hk)

/-! What BAR2 reaches does not depend on the link and the power state of the function. -/

theorem bar2Reads_accessed (s : State) (a n : Nat) : s.accessed.bar2Reads a n = s.bar2Reads a n := by
  simp only [State.bar2Reads]
  rfl

theorem bar2Writes_accessed (s : State) (a n : Nat) : s.accessed.bar2Writes a n = s.bar2Writes a n := by
  simp only [State.bar2Writes, bar2Reads_accessed]
  rfl

theorem addrReset_accessed (s : State) (a : Nat) : s.accessed.addrReset a = s.addrReset a := by
  simp only [State.addrReset]
  rfl

/-- A rejected access changes its counter alone. -/
theorem reject_keeps (s : State) : s.keeps [.hst] (reject s) := s.keeps_onHst _

/-! ### Accesses to a partition in reset (R30, R492) -/

/-- The port of a core lies behind the boundary of its partition. -/
theorem boundaryPart_corePort : ∀ i : CoreId, boundaryPart (srcPort (i.1 / 6) (2 * (i.1 % 6))) = partOfCore i := by decide

/-- The port of a controller lies behind the boundary of the partition that its stack serves. -/
theorem boundaryPart_stackPort :
    ∀ k : StackId, boundaryPart (srcPort (k.1 / 4) (12 + 2 * (k.1 % 4))) = partOf (k.1 / 2) := by decide

/-- The stack of a DRAM address is one of its partition's two. -/
theorem partOf_stackOf (part : Part) (p : PartId) (a : Nat) : partOf ((stackOf part p a).1 / 2) = p := by
  apply Fin.ext
  simp only [partOf, stackOf]
  split
  · simp only; omega
  · simp only; omega

/-- The endpoint at a device address lies behind the boundary of the address's own partition. -/
theorem boundaryPart_endpointSrc (part : Part) {a : Nat} {p : PartId} (h : homePart a = some p) :
    boundaryPart (endpointSrc part a) = p := by
  cases ht : target a with
  | dram q =>
    obtain rfl : q = p := by simpa [homePart, ht] using h
    simp only [endpointSrc, ht, boundaryPart_stackPort, partOf_stackOf]
  | ledge i =>
    obtain rfl : partOfCore i = p := by simpa [homePart, ht] using h
    simp only [endpointSrc, ht, boundaryPart_corePort]
  | stock | selfWin | slotWin | dump | unmapped => simp [homePart, ht] at h

/-- A discard without a context is a count at the boundary and a detection; it faults nothing. -/
theorem hostIsolated_eq (s : State) (a : Nat) : hostIsolated s a =
    event (countIso s { src := endpointSrc s.part a, code := cIsolated, detail := 0 }) (endpointSrc s.part a) cIsolated none 0 := by
  have hd : isDevice cIsolated = false := by decide
  have hf : isFault cIsolated = false := by decide
  simp [hostIsolated, raiseCode, raiseFlt, hd, hf]

theorem hostIsolated_keeps (s : State) (a : Nat) : s.keeps [.err, .parts] (hostIsolated s a) := by
  rw [hostIsolated_eq]
  exact State.keeps_trans (State.keeps_mono (countIso_keeps s _) (by simp)) (State.keeps_mono (event_keeps_none _ _ _ _) (by simp))

/-- The partition of the address counts the discard. -/
theorem hostIsolated_isoDrops (s : State) {a : Nat} {p : PartId} (h : homePart a = some p) :
    ((hostIsolated s a).prt p).prt.isoDrops = sat32 (s.prt p).prt.isoDrops := by
  have hparts (t : State) (src : U16) : (event t src cIsolated none 0).prt p = t.prt p :=
    congrArg (·.get p) (event_keeps_none t src cIsolated 0 .parts (by simp))
  rw [hostIsolated_eq, hparts]
  simp [countIso, boundaryPart_endpointSrc s.part h]

/-! ### The BAR2 window (R492) -/

theorem bar2Read_rejected {s : State} {a n : Nat} (h : s.bar2Reads a n = false) : bar2Read s a n = (zeros n, reject s) := by
  simp [bar2Read, h]

theorem bar2Read_inReset {s : State} {a n : Nat} (h : s.bar2Reads a n = true) (hr : s.addrReset a = true) :
    bar2Read s a n = (zeros n, hostIsolated s a) := by
  simp [bar2Read, h, hr]

theorem bar2Read_clean {s : State} {a n : Nat} (h : s.bar2Reads a n = true) (hr : s.addrReset a = false)
    (hb : s.badIn a n false = none) : bar2Read s a n = (s.peek a n, s) := by
  simp [bar2Read, h, hr, hb]

theorem bar2Write_rejected {s : State} {a : Nat} {d : Bytes} (hd : d ≠ []) (h : s.bar2Writes a d.length = false) :
    bar2Write s a d = reject s := by
  simp [bar2Write, hd, h]

theorem bar2Write_inReset {s : State} {a : Nat} {d : Bytes} (hd : d ≠ []) (h : s.bar2Writes a d.length = true)
    (hr : s.addrReset a = true) : bar2Write s a d = hostIsolated s a := by
  simp [bar2Write, hd, h, hr]

theorem bar2Write_clean {s : State} {a : Nat} {d : Bytes} (hd : d ≠ []) (h : s.bar2Writes a d.length = true)
    (hr : s.addrReset a = false) (hb : s.badIn a d.length true = none) : bar2Write s a d = s.poke (0, 0) a d := by
  simp [bar2Write, hd, h, hr, hb]

/-- A BAR2 read shows the host its data, and its frame is that of what it counts. -/
theorem exec_bar2Read {s u : State} {off : BitVec 30} {n : Nat} {b : Bytes} {l : List Kind} (hl : s.hostLive)
    (hr : bar2Read s.accessed (s.bar2Addr off) n = (b, u)) (hk : s.accessed.keeps l u) (hh : Kind.hst ∈ l) :
    ∃ t, exec (.bar2Read off n) s = .next t ∧ OutEvent.readData b ∈ t.out ∧ s.keeps l t ∧ u.Quiet t := by
  have he : u.Quiet (u.emit (.readData b)) := emit_quiet u _
  obtain ⟨t, ht, hkt, hq⟩ := hostAccess_finish (c := .bar2Read off n)
    (f := fun t => (bar2Read t (s.bar2Addr off) n).2.emit (.readData (bar2Read t (s.bar2Addr off) n).1)) hl rfl
    (by rw [hr]; exact State.keeps_trans hk (State.keeps_mono he.1 (by simp))) hh
  rw [hr] at hq
  exact ⟨t, ht, hq.2.2.1 _ (List.mem_cons_self ..), hkt, he.trans hq⟩

/-- A BAR2 write ends in its effect. -/
theorem exec_bar2Write {s u : State} {off : BitVec 30} {d : Bytes} {l : List Kind} (hl : s.hostLive)
    (hw : bar2Write s.accessed (s.bar2Addr off) d = u) (hk : s.accessed.keeps l u) (hh : Kind.hst ∈ l) :
    ∃ t, exec (.bar2Write off d) s = .next t ∧ s.keeps l t ∧ u.Quiet t := by
  subst hw
  exact hostAccess_finish (f := fun t => bar2Write t (s.bar2Addr off) d) hl rfl hk hh

/-! ### Rejected packets (R486) -/

/-- What a rejected packet does: it is counted, and a poisoned write is shown in AER. -/
def rejectTlp (poisoned : Bool) (s : State) : State := if poisoned then aerSet (reject s) 12 else reject s

theorem exec_pcieRejectedTlp (p : Bool) (s : State) : exec (.pcieRejectedTlp p) s = finish s (hostAccess s (rejectTlp p)) := rfl

theorem rejectTlp_keeps (p : Bool) (s : State) : s.keeps [.hst] (rejectTlp p s) := by
  cases p
  · exact reject_keeps s
  · exact State.keeps_trans (reject_keeps s)
      (State.keeps_onHst (reject s) fun h => { h with aer := h.aer ||| (1 <<< 12) })

theorem rejectTlp_rejCnt (p : Bool) (s : State) : (rejectTlp p s).hst.rejCnt = sat32 s.hst.rejCnt := by
  cases p <;> rfl

theorem rejectTlp_aer (s : State) : (rejectTlp true s).hst.aer.getLsbD 12 = true := by
  show (s.hst.aer ||| (1 <<< 12 : U32)).getLsbD 12 = true
  rw [BitVec.getLsbD_or, show (1 <<< 12 : U32).getLsbD 12 = true from rfl, Bool.or_true]

/-! ### Register writes (R488, R490, R496, R499) -/

/-- A write of all 8 bytes of a register replaces it. -/
theorem patch64_whole (old : U64) {d : Bytes} (h : d.length = 8) : patch64 old 0 d = BitVec.ofNat 64 (fld d 0 8) := by
  have hp : patch (le 8 old.toNat) 0 d = d := by simp [patch, slice, le, h]
  rw [patch64, hp]

theorem bar0Write_bar2Base (s : State) {d : Bytes} (h : d.length = 8) :
    bar0Write s 0x20 d = s.onHst fun x => { x with bar2Base := BitVec.ofNat 28 (fld d 0 8 / 2 ^ 20) } := by
  have hv : (BitVec.ofNat 64 (fld d 0 8) >>> 20).setWidth 28 = BitVec.ofNat 28 (fld d 0 8 / 2 ^ 20) := by
    apply BitVec.eq_of_toNat_eq
    simp only [BitVec.toNat_setWidth, BitVec.toNat_ushiftRight, BitVec.toNat_ofNat, Nat.shiftRight_eq_div_pow]
    omega
  simp [bar0Write, h, patch64_whole _ h, hv]

theorem ring_onRing_self (s : State) (r : Fin 17) (f : RingRegs → RingRegs) : (s.onRing r f).ring r = f (s.ring r) :=
  vget_set_self _ _ _ r.2

/-- The base of a ring is taken only while the ring is disabled. -/
theorem bar0Write_ringBase (s : State) {r : Fin 17} (hr : r.1 < 16) {d : Bytes} (h : d.length = 8) :
    bar0Write s (0x1000 + 0x40 * r.1) d =
      if (s.ring r).en then s else s.onRing r fun x => { x with base := BitVec.ofNat 64 (fld d 0 8) &&& ~~~0xFFF } := by
  have hi : (⟨(0x1000 + 0x40 * r.1 - 0x1000) / 0x40, by omega⟩ : Fin 17) = r := Fin.ext (by simp only; omega)
  have ho : (0x1000 + 0x40 * r.1) % 0x40 = 0 := by omega
  rw [bar0Write, if_neg (by omega), if_neg (by simp [h]), if_neg (by omega), dif_pos (by omega), hi, ho]
  simp [ringReg, patch64_whole _ h]

/-- No register lies beyond the lock-step slots. -/
theorem bar0Write_beyond (s : State) {off : Nat} (d : Bytes) (h : 0x25000 ≤ off) : bar0Write s off d = s := by
  rw [bar0Write, if_neg (by omega)]
  split
  · rfl
  · rw [if_neg (by omega), dif_neg (by omega), if_neg (by omega), if_neg (by omega), if_neg (by omega), dif_neg (by omega)]

theorem bar4Write_heartbeat (s : State) {d : Bytes} (h : d.length = 4) :
    bar4Write s 4 d = s.onHst fun x => { x with hbFrom := s.ticks } := by
  simp [bar4Write, h]

/-- What a register write does once the access reaches the device: a size or place that R488 does not allow is ignored. -/
def registerAccess (bar4 : Bool) (off : BitVec 26) (d : Bytes) (t : State) : State :=
  if !([1, 2, 4, 8].contains d.length) || decide (off.toNat % d.length ≠ 0) then t
  else if bar4 then bar4Write t off.toNat d else bar0Write t off.toNat d

theorem registerAccess_bar0 {off : BitVec 26} {d : Bytes} (s : State) (hd : d.length = 8) (ha : off.toNat % 8 = 0) :
    registerAccess false off d s = bar0Write s off.toNat d := by
  simp [registerAccess, hd, ha]

theorem registerAccess_bar4 {off : BitVec 26} {d : Bytes} (s : State) (hd : d.length = 4) (ha : off.toNat % 4 = 0) :
    registerAccess true off d s = bar4Write s off.toNat d := by
  simp [registerAccess, hd, ha]

theorem registerAccess_beyond {off : BitVec 26} (d : Bytes) (s : State) (h : 0x25000 ≤ off.toNat) :
    registerAccess false off d s = s := by
  simp only [registerAccess]
  split
  · rfl
  · exact bar0Write_beyond s d h

/-- A register write ends in its effect. -/
theorem exec_registerWrite {s u : State} {bar4 : Bool} {off : BitVec 26} {d : Bytes} (hl : s.hostLive)
    (hw : registerAccess bar4 off d s.accessed = u) (hk : s.accessed.keeps [.hst] u) :
    ∃ t, exec (.registerWrite bar4 off d) s = .next t ∧ s.keeps [.hst] t ∧ u.Quiet t := by
  subst hw
  exact hostAccess_finish (f := registerAccess bar4 off d) hl rfl hk (by simp)

/-! ### The state after reset (R511) -/

theorem ctx_reset (c : CtxId) : State.reset.ctx c = {} := vget_replicate _ c

theorem prt_reset (p : PartId) : State.reset.prt p = {} := vget_replicate _ p

theorem core_reset (i : CoreId) : State.reset.core i = {} := vget_replicate _ i

theorem queue_reset (q : QueueId) : (State.reset.queue q).entries = [] := by
  cases q with
  | core i k => rw [State.queue, core_reset]; cases k <;> rfl
  | dq p => rw [State.queue, prt_reset]

theorem ring_reset (r : Fin 17) : State.reset.ring r = {} := vget_replicate _ r

/-- Memory and flash hold no cell after reset (log 6). -/
theorem memOk_reset : State.reset.memOk := ⟨⟨.nil, by simp [State.reset]⟩, .nil, by simp [State.reset]⟩

/-- A device in BOOT shows SAFE_ST 0b00 (R320). -/
theorem pinsOk_reset : State.reset.pinsOk := by
  have hdev : State.reset.dev = .boot := rfl
  rw [State.pinsOk, safeStOf, if_pos (.inl hdev)]
  rfl

end Sys2Proof.Machine

open Sys2Proof Sys2Proof.Machine

/-- Settles O35. An access of a host that reaches the device ends in its effect (`hostAccess_finish`), and each clause is the case
of that effect which its conditions pick: rejected, discarded at a partition in reset, or carried out. -/
theorem hostAccessesReachOnlyWhatTheyMay : Obligations.HostAccessesReachOnlyWhatTheyMay := by
  unfold Obligations.HostAccessesReachOnlyWhatTheyMay
  refine ⟨fun s off hl => ⟨fun n hr hs hb => ?_, fun n hr => ?_, fun hs => ⟨fun n hr => ?_, fun d hw hd => ?_⟩,
    fun d hd hw hs hb => ?_, fun d hd hw => ?_, fun p => ?_⟩, fun s hl => ⟨fun d hd => ?_, fun r d hd hr => ?_, fun d hd => ?_,
    fun off d ho => ?_⟩⟩
  · rw [← bar2Reads_accessed] at hr
    rw [← addrReset_accessed] at hs
    obtain ⟨t, ht, ho, hk, -⟩ := exec_bar2Read hl (bar2Read_clean hr hs hb) (State.keeps_refl _ [.hst]) (by simp)
    exact ⟨t, ht, ho, hk⟩
  · rw [← bar2Reads_accessed] at hr
    obtain ⟨t, ht, ho, hk, hq⟩ := exec_bar2Read hl (bar2Read_rejected hr) (reject_keeps _) (by simp)
    exact ⟨t, ht, ho, hq.hstOf (·.rejCnt) fun _ => rfl, hk⟩
  · rw [← bar2Reads_accessed] at hr
    rw [← addrReset_accessed] at hs
    obtain ⟨t, ht, ho, hk, -⟩ := exec_bar2Read (l := [.hst, .err, .parts]) hl (bar2Read_inReset hr hs)
      (State.keeps_mono (hostIsolated_keeps _ _) (by simp)) (by simp)
    exact ⟨t, ht, ho, hk⟩
  · rw [← bar2Writes_accessed] at hw
    rw [← addrReset_accessed] at hs
    obtain ⟨t, ht, hk, hq⟩ := exec_bar2Write (l := [.hst, .err, .parts]) hl (bar2Write_inReset hd hw hs)
      (State.keeps_mono (hostIsolated_keeps _ _) (by simp)) (by simp)
    refine ⟨t, ht, fun p hp => ?_, hk⟩
    rw [hq.prt p, hostIsolated_isoDrops _ hp]
    rfl
  · rw [← bar2Writes_accessed] at hw
    rw [← addrReset_accessed] at hs
    obtain ⟨t, ht, hk, hq⟩ := exec_bar2Write (l := [.hst, .mem, .bad, .lineOwner]) hl (bar2Write_clean hd hw hs hb)
      (State.keeps_mono (poke_keeps _ _ _ _) (by simp)) (by simp)
    refine ⟨t, ht, fun i hi => ?_, fun a ha => ?_, hk⟩
    · rw [hq.mem, poke_in _ _ _ _ hi]
    · rw [hq.mem, poke_elsewhere _ _ ha]
      rfl
  · rw [← bar2Writes_accessed] at hw
    obtain ⟨t, ht, hk, hq⟩ := exec_bar2Write hl (bar2Write_rejected hd hw) (reject_keeps _) (by simp)
    exact ⟨t, ht, hq.hstOf (·.rejCnt) fun _ => rfl, hk⟩
  · obtain ⟨t, ht, hk, hq⟩ := hostAccess_finish hl (exec_pcieRejectedTlp p s) (rejectTlp_keeps p _) (by simp)
    refine ⟨t, ht, (hq.hstOf (·.rejCnt) fun _ => rfl).trans (rejectTlp_rejCnt p _), fun hp => ?_, hk⟩
    subst hp
    exact (congrArg (·.getLsbD 12) (hq.hstOf (·.aer) fun _ => rfl)).trans (rejectTlp_aer _)
  · obtain ⟨t, ht, hk, hq⟩ := exec_registerWrite hl
      ((registerAccess_bar0 (off := 0x20) _ hd (by decide)).trans (bar0Write_bar2Base _ hd)) (State.keeps_onHst _ _)
    exact ⟨t, ht, hq.hstOf (·.bar2Base) fun _ => rfl, hk⟩
  · have ho : (BitVec.ofNat 26 (0x1000 + 0x40 * r.1)).toNat = 0x1000 + 0x40 * r.1 := by
      rw [BitVec.toNat_ofNat, Nat.mod_eq_of_lt (by omega)]
    obtain ⟨t, ht, hk, hq⟩ := exec_registerWrite hl
      ((registerAccess_bar0 (off := BitVec.ofNat 26 (0x1000 + 0x40 * r.1)) _ hd (by rw [ho]; omega)).trans
        (ho ▸ bar0Write_ringBase s.accessed hr hd)) (by split; exacts [State.keeps_refl _ _, State.keeps_onHst _ _])
    refine ⟨t, ht, ?_, hk⟩
    rw [hq.2.1 r hr, show s.accessed.ring r = s.ring r from rfl]
    split
    · rfl
    · rw [ring_onRing_self]
  · obtain ⟨t, ht, hk, hq⟩ := exec_registerWrite hl
      ((registerAccess_bar4 (off := 4) _ hd (by decide)).trans (bar4Write_heartbeat _ hd)) (State.keeps_onHst _ _)
    exact ⟨t, ht, hq.hstOf (·.hbFrom) fun _ => rfl, hq.hstOf (·.hostAbsent) fun _ => rfl, hk⟩
  · obtain ⟨t, ht, hk, hq⟩ := exec_registerWrite hl (registerAccess_beyond d _ ho) (State.keeps_refl _ _)
    exact ⟨t, ht, hk, hq.hstOf (·.bar2Base) fun _ => rfl, hq.2.1, hq.hstOf (·.mbData) fun _ => rfl⟩

/-- Settles O56, unit by unit of the reset state. -/
theorem resetStateIsAsTheSpecSays : Obligations.ResetStateIsAsTheSpecSays := by
  unfold Obligations.ResetStateIsAsTheSpecSays
  refine ⟨rfl, rfl, rfl, rfl, rfl, rfl, rfl, fun c => ?_, fun p i => ?_, queue_reset, fun p r => ?_, fun r => ?_, rfl, rfl, rfl,
    memOk_reset, pinsOk_reset⟩
  · rw [ctx_reset]
    exact ⟨rfl, rfl, rfl⟩
  · rw [State.bead, prt_reset]
    rfl
  · rw [prt_reset]
    revert r
    decide
  · rw [ring_reset]
end

section
/-!
PROOFS. Transactions of the Haul road at their destination (R14, R29, R32, R35, R255, R256): what a write that reaches its place
stores, why a checked write is refused, and what a fault of a running context leaves.
-/

namespace Sys2Proof.Machine

/-! ### Uncorrectable words and writes (R529) -/

/-- A range that touches no bad word touches none of fewer bad words. -/
theorem badIn_none_of_subset {s t : State} (hsub : ∀ k ∈ t.bad, k ∈ s.bad) {a n : Nat} {full : Bool}
    (h : s.badIn a n full = none) : t.badIn a n full = none :=
  List.find?_eq_none.2 fun k hk => List.find?_eq_none.1 h k (hsub k hk)

theorem badOfWrites_eq_none_iff {s : State} {ws : List (Nat × Bytes)} :
    s.badOfWrites ws = none ↔ ∀ w ∈ ws, s.badIn w.1 w.2.length true = none := by
  by_cases hb : s.bad = []
  · simp [State.badOfWrites, State.badIn, hb]
  · simp [State.badOfWrites, hb, List.findSome?_eq_none_iff]

/-- A write only cures words. -/
theorem poke_bad_subset (s : State) (w : CtxId × BitVec 12) (a : Nat) (b : Bytes) : ∀ k ∈ (s.poke w a b).bad, k ∈ s.bad := by
  intro k hk
  simp only [State.poke] at hk
  split at hk
  · exact hk
  · exact (List.mem_filter.1 hk).1

theorem commit_bad_subset (s : State) (w : CtxId × BitVec 12) (ws : List (Nat × Bytes)) :
    ∀ k ∈ (s.commit w ws).bad, k ∈ s.bad := by
  induction ws generalizing s with
  | nil => exact fun k hk => hk
  | cons e r ih => exact fun k hk => poke_bad_subset s w _ _ k (ih _ k hk)

theorem commit_append (s : State) (w : CtxId × BitVec 12) (l m : List (Nat × Bytes)) :
    s.commit w (l ++ m) = (s.commit w l).commit w m := List.foldl_append

/-- What a write does to a memory and its bad words depends on these alone. -/
theorem pokePart_congr {s t : State} (hm : t.mem = s.mem) (hb : t.bad = s.bad) (w : CtxId × BitVec 12) (a : Nat) (b : Bytes) :
    (t.pokePart w a b).mem = (s.pokePart w a b).mem ∧ (t.pokePart w a b).bad = (s.pokePart w a b).bad := by
  have hw : t.whole a b = s.whole a b := by simp only [State.whole, hb]
  simp only [State.pokePart, hw, State.poke]
  split
  · exact ⟨hm, hb⟩
  · simp only [hm, hb, and_self]

theorem commit_congr {s t : State} (hm : t.mem = s.mem) (hb : t.bad = s.bad) (w : CtxId × BitVec 12)
    (ws : List (Nat × Bytes)) : (t.commit w ws).mem = (s.commit w ws).mem := by
  induction ws generalizing s t with
  | nil => exact hm
  | cons e r ih =>
    obtain ⟨hm', hb'⟩ := pokePart_congr hm hb w e.1 e.2
    exact ih hm' hb'

/-! ### The copy in the trailing core's Ledge (R336, log 19) -/

theorem trailAt_congr {s t : State} (h : t.parts = s.parts) (a : Nat) : t.trailAt a = s.trailAt a := by
  simp only [State.trailAt, State.trailOf, State.prt, h]

theorem mirrorPair_congr {s t : State} (h : t.parts = s.parts) (ws : List (Nat × Bytes)) : mirrorPair t ws = mirrorPair s ws := by
  simp only [mirrorPair, trailAt_congr h]

theorem mirrorPair_cons (s : State) (w : Nat × Bytes) (ws : List (Nat × Bytes)) :
    mirrorPair s (w :: ws) = mirrorPair s [w] ++ mirrorPair s ws := by
  simp [mirrorPair]

theorem mirrorPair_of_none {s : State} {a : Nat} (h : s.trailAt a = none) (b : Bytes) : mirrorPair s [(a, b)] = [(a, b)] := by
  simp [mirrorPair, h]

theorem mirrorPair_of_some {s : State} {a y : Nat} (h : s.trailAt a = some y) (b : Bytes) :
    mirrorPair s [(a, b)] = [(a, b), (y, b)] := by
  simp [mirrorPair, h]

/-- An address in a Ledge lies in the window of its core. -/
theorem target_ledge_window {a : Nat} {i : CoreId} (h : target a = .ledge i) : a / 0x1000000 = 0x20000 + i.1 := by
  simp only [target] at h
  split at h
  · split at h <;> cases h
  split at h
  · cases h
  split at h
  · cases h
  split at h
  · split at h
    · cases h
      simp only
      omega
    · split at h
      · cases h
      split at h
      · cases h
      · split at h <;> cases h
  · cases h

/-- The copy of a write that stays in one Ledge lies at the same place or apart from it. -/
theorem trailAt_apart {s : State} {a y n : Nat} (h : s.trailAt a = some y)
    (hin : ∀ k, target a = .ledge k → ∀ i, i < n → target (a + i) = .ledge k) : y = a ∨ a + n ≤ y ∨ y + n ≤ a := by
  simp only [State.trailAt] at h
  split at h
  · next i hi =>
    obtain ⟨t, -, rfl⟩ := Option.map_eq_some_iff.1 h
    have ha := target_ledge_window hi
    rcases Nat.eq_zero_or_pos n with rfl | hn
    · omega
    · have he := target_ledge_window (hin i hi (n - 1) (by omega))
      simp only [ledgeBase]
      omega
  · cases h

/-- A write none of whose words stays uncorrectable is read back, in the trailing core's Ledge too. -/
theorem commit_mirrorPair_in {s : State} {a : Nat} {b : Bytes} (w : CtxId × BitVec 12)
    (hb : ∀ e ∈ mirrorPair s [(a, b)], s.badIn e.1 e.2.length true = none)
    (hin : ∀ k, target a = .ledge k → ∀ i, i < b.length → target (a + i) = .ledge k) {i : Nat} (hi : i < b.length) :
    memGet 0 (s.commit w (mirrorPair s [(a, b)])).mem (a + i) = b.getD i 0 ∧
      ∀ y, s.trailAt a = some y → memGet 0 (s.commit w (mirrorPair s [(a, b)])).mem (y + i) = b.getD i 0 := by
  cases hy : s.trailAt a with
  | none =>
    rw [mirrorPair_of_none hy] at hb ⊢
    rw [commit_one, pokePart_clean s w a b (hb (a, b) (by simp))]
    exact ⟨poke_in s w a b hi, fun y h => by cases h⟩
  | some y =>
    rw [mirrorPair_of_some hy] at hb ⊢
    have h1 : s.pokePart w a b = s.poke w a b := pokePart_clean s w a b (hb (a, b) (by simp))
    have h2 : (s.poke w a b).pokePart w y b = (s.poke w a b).poke w y b :=
      pokePart_clean _ w y b (badIn_none_of_subset (poke_bad_subset s w a b) (hb (y, b) (by simp)))
    have hc : s.commit w [(a, b), (y, b)] = (s.poke w a b).poke w y b := by
      rw [← h2, ← h1]
      rfl
    rw [hc]
    refine ⟨?_, fun z hz => ?_⟩
    · rcases trailAt_apart hy hin with rfl | hap
      · exact poke_in _ w y b hi
      · rw [poke_elsewhere _ w (by omega)]
        exact poke_in s w a b hi
    · cases hz
      exact poke_in _ w y b hi

/-- A write at its destination that leaves no word uncorrectable is a commit. -/
theorem writeHere_clean {s : State} {a : Nat} {b : Bytes} (cg : CtxId × BitVec 12)
    (h : s.badOfWrites (mirrorPair s [(a, b)]) = none) : writeHere s cg a b = s.commit cg (mirrorPair s [(a, b)]) := by
  simp only [writeHere, h]

/-! ### Why a checked write is refused (R29, R30, R35, R236) -/

/-- A fault of an access that met no uncorrectable word: it counts against no core and resets no partition. -/
structure Flt.OfAccess (f : Flt) : Prop where
  cores : f.cores = []
  reset : f.reset = none
  code : f.code = cCtxRange ∨ f.code = cMemFenced ∨ f.code = cLinkFault ∨ f.code = cIsolated

theorem Flt.OfAccess.notDevice {f : Flt} (h : f.OfAccess) : isDevice f.code = false := by
  obtain h | h | h | h := h.code <;> rw [h] <;> decide

theorem Flt.OfAccess.ueAddr {f : Flt} (h : f.OfAccess) : f.ueAddr = none := by
  obtain h | h | h | h := h.code <;> simp only [Flt.ueAddr, h] <;> rfl

theorem resolve_error {s : State} {w : Who} {a : Nat} {f : Flt} (h : s.resolve w a = .error f) : f.OfAccess := by
  have hr : (w.flt cCtxRange).OfAccess := ⟨rfl, rfl, .inl rfl⟩
  have hf : (w.flt cMemFenced).OfAccess := ⟨rfl, rfl, .inr (.inl rfl)⟩
  have hl (i : CoreId) (off : Nat) (hi : (if s.cutOff i then .error (w.flt cMemFenced) else .ok (ledgeBase i + off) : Eng Nat) =
      .error f) : f.OfAccess := by
    split at hi <;> cases hi
    exact hf
  simp only [State.resolve] at h
  split at h
  · split at h <;> cases h
    exact hr
  · cases h
  · exact hl _ _ h
  · split at h
    · exact hl _ _ h
    · cases h
      exact hr
  · exact hl _ _ h
  · cases h
    exact hr
  · cases h
    exact hr

theorem access_error {s : State} {w : Who} {a n : Nat} {write : Bool} {f : Flt} (h : s.access w a n write = .error f) :
    f.OfAccess := by
  have hr : (w.flt cCtxRange).OfAccess := ⟨rfl, rfl, .inl rfl⟩
  simp only [State.access] at h
  split at h
  · next hres =>
    cases h
    exact resolve_error hres
  split at h
  · split at h <;> cases h
    exact hr
  split at h
  · cases h
    exact hr
  split at h
  · cases h
    exact ⟨rfl, rfl, .inr (.inl rfl)⟩
  split at h
  · cases h
    exact hr
  split at h <;> cases h
  exact ⟨rfl, rfl, .inr (.inr (.inl rfl))⟩

theorem storeAt_error {s : State} {w : Who} {a n : Nat} {f : Flt} (h : s.storeAt w a n = .error f) : f.OfAccess := by
  simp only [State.storeAt] at h
  split at h
  · next hacc =>
    cases h
    exact access_error hacc
  split at h
  · next hiso =>
    cases h
    simp only [State.isolated] at hiso
    split at hiso <;> cases hiso
    exact ⟨rfl, rfl, .inr (.inr (.inr rfl))⟩
  · cases h

/-- The fault of an access that met no uncorrectable word is raised alone. -/
theorem raiseRun_ofAccess {f : Flt} (h : f.OfAccess) (s : State) (ctx : Option (CtxId × BitVec 12)) :
    raiseRun s f ctx = raiseFlt s f ctx := by
  simp only [raiseRun, h.ueAddr]

/-! ### A fault after detections of its context (R317, R361) -/

theorem event_expect (s : State) (src code : U16) (ctx : Option (CtxId × BitVec 12)) (detail : Nat) :
    (event s src code ctx detail).err.expect = s.err.expect :=
  congrArg Prod.fst (event_modes s src code ctx detail)

/-- `u` differs from `s` in the contexts by detections counted for `c` at most, and is in expected-event mode as `s` is. -/
structure State.Noted (s : State) (c : CtxId) (u : State) : Prop where
  self : (u.ctx c).uncounted = (s.ctx c).uncounted
  others : ∀ x, x ≠ c → u.ctx x = s.ctx x
  expect : u.err.expect = s.err.expect

theorem State.Noted.refl (s : State) (c : CtxId) : s.Noted c s := ⟨rfl, fun _ _ => rfl, rfl⟩

theorem State.Noted.of_eq {s u : State} {c : CtxId} (hc : u.ctxs = s.ctxs) (he : u.err = s.err) : s.Noted c u := by
  have hx (x : CtxId) : u.ctx x = s.ctx x := congrArg (·.get x) hc
  exact ⟨congrArg CtxRt.uncounted (hx c), fun x _ => hx x, congrArg ErrRegs.expect he⟩

theorem State.Noted.trans {s t u : State} {c : CtxId} (h : s.Noted c t) (h' : t.Noted c u) : s.Noted c u :=
  ⟨h'.self.trans h.self, fun x hx => (h'.others x hx).trans (h.others x hx), h'.expect.trans h.expect⟩

theorem State.Noted.state {s u : State} {c : CtxId} (h : s.Noted c u) (x : CtxId) : (u.ctx x).state = (s.ctx x).state := by
  by_cases hx : x = c
  · subst hx
    exact (congrArg CtxRt.state h.self :)
  · rw [h.others x hx]

theorem State.Noted.gen {s u : State} {c : CtxId} (h : s.Noted c u) : (u.ctx c).gen = (s.ctx c).gen :=
  (congrArg CtxRt.gen h.self :)

/-- A detection for a context. -/
theorem event_noted (s : State) (src code : U16) (c : CtxId) (g : BitVec 12) (detail : Nat) :
    s.Noted c (event s src code (some (c, g)) detail) :=
  ⟨event_ctx s src code _ detail c, fun _ hx => event_ctx_ne s src code (c, g) detail hx, event_expect s src code _ detail⟩

/-- A fault of a context alone: it counts against no core and resets no partition. -/
structure Flt.OfCtx (f : Flt) : Prop where
  cores : f.cores = []
  reset : f.reset = none
  notDevice : isDevice f.code = false
  fault : isFault f.code = true

/-- A code of a context's own fault, raised with a source and a detail. -/
theorem Flt.ofCtx_of_code {src code : U16} {detail : Nat} (hd : isDevice code = false) (hf : isFault code = true) :
    Flt.OfCtx { src := src, code := code, detail := detail } := ⟨rfl, rfl, hd, hf⟩

theorem linkFlt_ofCtx (l : DieLink) : (linkFlt l).OfCtx := Flt.ofCtx_of_code (by decide) (by decide)

theorem Flt.OfAccess.ofCtx {f : Flt} (h : f.OfAccess) (hf : isFault f.code = true) : f.OfCtx :=
  ⟨h.cores, h.reset, h.notDevice, hf⟩

/-- A fault of a context that ran: it drains with its egress stopped, and every other context is as before. -/
theorem raiseFlt_drains {s u : State} {f : Flt} {c : CtxId} (hn : s.Noted c u) (hf : f.OfCtx)
    (hs : (s.ctx c).state = .run) (he : s.err.expect = false) :
    ((raiseFlt u f (some (c, (s.ctx c).gen))).ctx c).state = .draining ∧
      ((raiseFlt u f (some (c, (s.ctx c).gen))).ctx c).stopLatch = true ∧
      ∀ x, x ≠ c → (raiseFlt u f (some (c, (s.ctx c).gen))).ctx x = s.ctx x := by
  obtain ⟨hst, hstop, -, -, -, -, -, hne⟩ := raiseFlt_run u f c hf.cores hf.reset hf.notDevice hf.fault (hn.expect.trans he)
    (.inl ((hn.state c).trans hs)) _ rfl
  rw [hn.gen] at hst hstop hne
  exact ⟨hst, hstop, fun x hx => (hne x hx).trans (hn.others x hx)⟩

/-! ### The Haul road (R14, R29, R32, R255, R256) -/

/-- Who writes or reads at the destination of a Haul road transaction. -/
def haulWho (x : HaulTxn) : Who :=
  { ctx := x.ctx, gen := x.gen, part := 0, core := none, src := x.src, detail := 0, arrived := true }

theorem exec_haulTransaction (x : HaulTxn) (s : State) : exec (.haulTransaction x) s = finish s (haul s x) := rfl

theorem haul_link {s : State} {x : HaulTxn} {l : DieLink} (h : x.link = some l) :
    haul s x = linkFails s l (some (x.ctx, x.gen)) := by
  simp [haul, h]

theorem haul_crc {s : State} {x : HaulTxn} (hl : x.link = none) (hc : x.crcOk = false) :
    haul s x = raiseCode s x.src cXportCrc (some (x.ctx, x.gen)) x.addr.toNat := by
  simp [haul, hl, hc]

theorem haul_stale {s : State} {x : HaulTxn} (hl : x.link = none) (hc : x.crcOk = true) (hg : x.gen ≠ (s.ctx x.ctx).gen) :
    haul s x = staleDrop s x.ctx := by
  simp [haul, hl, hc, hg]

theorem haul_write {s : State} {x : HaulTxn} {a : Nat} (hl : x.link = none) (hc : x.crcOk = true)
    (hg : x.gen = (s.ctx x.ctx).gen) (hw : x.write = true) (ha : s.storeAt (haulWho x) x.addr.toNat x.data.length = .ok a) :
    haul s x = writeHere s (x.ctx, x.gen) a x.data := by
  simp only [haulWho] at ha
  simp [haul, hl, hc, ← hg, hw, ha]

theorem haul_write_refused {s : State} {x : HaulTxn} {f : Flt} (hl : x.link = none) (hc : x.crcOk = true)
    (hg : x.gen = (s.ctx x.ctx).gen) (hw : x.write = true) (hf : s.storeAt (haulWho x) x.addr.toNat x.data.length = .error f) :
    haul s x = raiseRun s f (some (x.ctx, x.gen)) := by
  simp only [haulWho] at hf
  simp [haul, hl, hc, ← hg, hw, hf]

theorem haul_read {s : State} {x : HaulTxn} {b : Bytes} (hl : x.link = none) (hc : x.crcOk = true)
    (hg : x.gen = (s.ctx x.ctx).gen) (hw : x.write = false) (hb : s.load (haulWho x) x.addr.toNat x.len = .ok b) :
    haul s x = s := by
  simp only [haulWho] at hb
  simp [haul, hl, hc, ← hg, hw, hb]

/-- The state between the two records of a failed link: the link is down, and its far bridge has reported it. -/
def linkNoted (s : State) (l : DieLink) (ctx : Option (CtxId × BitVec 12)) : State :=
  event { s with linkDown := (l :: s.linkDown).dedup } (linkEnds l).2 cLinkFault ctx 0

theorem linkFails_eq (s : State) (l : DieLink) (ctx : Option (CtxId × BitVec 12)) :
    linkFails s l ctx = raiseFlt (linkNoted s l ctx) (linkFlt l) ctx := rfl

theorem linkNoted_noted (s : State) (l : DieLink) (c : CtxId) (g : BitVec 12) : s.Noted c (linkNoted s l (some (c, g))) :=
  State.Noted.trans (t := { s with linkDown := (l :: s.linkDown).dedup }) (.of_eq rfl rfl) (event_noted _ _ _ c g _)

theorem linkNoted_mem (s : State) (l : DieLink) (ctx : Option (CtxId × BitVec 12)) : (linkNoted s l ctx).mem = s.mem :=
  event_keeps _ _ _ ctx _ .mem (by simp)

theorem mem_linkDown_linkNoted (s : State) (l : DieLink) (ctx : Option (CtxId × BitVec 12)) :
    l ∈ (linkNoted s l ctx).linkDown := by
  have h : (linkNoted s l ctx).linkDown = (l :: s.linkDown).dedup := event_keeps _ _ _ ctx _ .linkDown (by simp)
  rw [h]
  exact List.mem_dedup.2 List.mem_cons_self

/-- A transaction that its context may not make, whose CRC is wrong or whose link fails: a fault of the context, raised alone,
after the far bridge's record of a failed link. -/
theorem haul_faults {s : State} {x : HaulTxn} (hg : x.gen = (s.ctx x.ctx).gen)
    (h : x.link.isSome = true ∨ x.crcOk = false ∨
      ∃ f, x.write = true ∧ s.storeAt (haulWho x) x.addr.toNat x.data.length = .error f ∧ isFault f.code = true) :
    ∃ u f, haul s x = raiseFlt u f (some (x.ctx, x.gen)) ∧ s.Noted x.ctx u ∧ u.mem = s.mem ∧
      (∀ l, x.link = some l → l ∈ u.linkDown) ∧ f.OfCtx := by
  cases hl : x.link with
  | some l =>
    refine ⟨linkNoted s l (some (x.ctx, x.gen)), linkFlt l, (haul_link hl).trans (linkFails_eq s l _),
      linkNoted_noted s l _ _, linkNoted_mem s l _, fun k hk => ?_, linkFlt_ofCtx l⟩
    obtain rfl : l = k := Option.some.inj hk
    exact mem_linkDown_linkNoted s l _
  | none =>
    cases hc : x.crcOk with
    | false => exact ⟨s, _, haul_crc hl hc, .refl s _, rfl, by simp, Flt.ofCtx_of_code (by decide) (by decide)⟩
    | true =>
      obtain ⟨f, hw, he, hf⟩ : ∃ f, x.write = true ∧ s.storeAt (haulWho x) x.addr.toNat x.data.length = .error f ∧
          isFault f.code = true := by simpa [hl, hc] using h
      have ha := storeAt_error he
      refine ⟨s, f, ?_, .refl s _, rfl, by simp, ha.ofCtx hf⟩
      rw [haul_write_refused hl hc hg hw he, raiseRun_ofAccess ha]

/-- A discarded transaction is counted for its context, and nothing else changes. -/
theorem staleDrop_self (s : State) (c : CtxId) :
    (staleDrop s c).ctx c = { s.ctx c with staleTxn := sat32 (s.ctx c).staleTxn } := State.ctx_onCtx_self ..

theorem staleDrop_ne (s : State) {c x : CtxId} (h : x ≠ c) : (staleDrop s c).ctx x = s.ctx x := State.ctx_onCtx_ne _ _ _ _ h

theorem staleDrop_keeps (s : State) (c : CtxId) : s.keeps [.ctxs] (staleDrop s c) := State.keeps_onCtx _ _ _

end Sys2Proof.Machine

open Sys2Proof Sys2Proof.Machine

/-- Settles O37. What a transaction does is decided at its destination in the order of `haul`; a write that is taken is a commit of
its bytes and their copy (`commit_mirrorPair_in`), and every refusal that faults is one fault raised alone (`haul_faults`). -/
theorem haulWritesStoreOrAreDropped : Obligations.HaulWritesStoreOrAreDropped := by
  unfold Obligations.HaulWritesStoreOrAreDropped
  refine fun s x => ⟨fun a hl hc hg hw ha hb => ?_, fun b hl hc hg hw hb => ?_, fun hl hc hg => ?_, fun hg hs he h => ?_⟩
  · obtain ⟨t, ht, hk, hq⟩ := finish_keeps (old := s) (commit_keeps s (x.ctx, x.gen) (mirrorPair s [(a, x.data)]))
    rw [← writeHere_clean (x.ctx, x.gen) hb, ← haul_write hl hc hg hw ha, ← exec_haulTransaction] at ht
    refine ⟨t, ht, hq.mem, fun hin i hi => ?_, fun k hout => ?_, hk⟩
    · rw [hq.mem]
      exact commit_mirrorPair_in _ (badOfWrites_eq_none_iff.1 hb) hin hi
    · rw [hq.mem]
      exact commit_elsewhere s _ _ hout
  · rw [exec_haulTransaction, haul_read hl hc hg hw hb]
    obtain ⟨t, ht, hq⟩ := finish_next s s
    exact ⟨t, ht, hq.1⟩
  · rw [exec_haulTransaction, haul_stale hl hc hg]
    obtain ⟨t, ht, hk, hq⟩ := finish_keeps (old := s) (staleDrop_keeps s x.ctx)
    exact ⟨t, ht, (hq.ctx _).trans (staleDrop_self s _), fun y hy => (hq.ctx y).trans (staleDrop_ne s hy), hk⟩
  · obtain ⟨u, f, hu, hn, hm, hld, hf⟩ := haul_faults hg h
    obtain ⟨hst, hstop, hne⟩ := raiseFlt_drains hn hf hs he
    have hk := raiseFlt_keeps u f (some (x.ctx, x.gen)) hf.cores hf.reset hf.notDevice
    obtain ⟨t, ht, hq⟩ := finish_next s (raiseFlt u f (some (x.ctx, x.gen)))
    rw [← hg] at hst hstop hne
    rw [← hu, ← exec_haulTransaction] at ht
    refine ⟨t, ht, ?_, ?_, fun y hy => (hq.ctx y).trans (hne y hy), hq.mem.trans ((hk .mem (by simp)).trans hm), fun l hl => ?_⟩
    · rw [hq.ctx, hst]
    · rw [hq.ctx, hstop]
    · have hd : t.linkDown = u.linkDown := (hq.1 .linkDown (by simp)).trans (hk .linkDown (by simp))
      exact hd ▸ hld l hl
end

section
/-!
PROOFS. The drain of the ingress FIFO, one lemma for each way its oldest item ends (R27, R30, R32, R239, R259, R357).
-/

namespace Sys2Proof.Machine

/-! ### Beads across records and faults -/

theorem bead_congr {s t : State} {p : PartId} (h : t.prt p = s.prt p) (i : Nat) : t.bead p i = s.bead p i := by
  rw [State.bead, State.bead, h]

/-- The beads stay where the partitions stay. -/
theorem keeps_bead {s t : State} {l : List Kind} (h : s.keeps l t) (hp : Kind.parts ∉ l) (p : PartId) (i : Nat) :
    t.bead p i = s.bead p i :=
  bead_congr (congrArg (·.get p) (h .parts hp)) i

theorem State.Quiet.bead {s t : State} (h : s.Quiet t) (p : PartId) (i : Nat) : t.bead p i = s.bead p i :=
  keeps_bead h.1 (by simp) p i

/-- A discard at a boundary is counted beside the beads. -/
theorem countIso_bead (s : State) (f : Flt) (p : PartId) (i : Nat) : (countIso s f).bead p i = s.bead p i := by
  simp only [countIso]
  split
  · by_cases h : p = boundaryPart f.src
    · subst h
      simp [State.bead]
    · exact bead_congr (State.prt_onPart_ne _ _ _ _ h) i
  · rfl

theorem purgeQueues_bead (s : State) (c : CtxId) (p : PartId) (i : Nat) : (purgeQueues s c).bead p i = s.bead p i := by
  have key (l : List QueueId) (s : State) : (l.foldl (fun s q => s.onQueue q fun x =>
      { x with entries := x.entries.filter fun e => decide (e.ctx ≠ c) }) s).bead p i = s.bead p i := by
    induction l generalizing s with
    | nil => rfl
    | cons q l ih => exact (ih _).trans (bead_onQueue s q _ p i)
  exact key _ s

theorem purgeHubs_bead (s : State) (c : CtxId) (p : PartId) (i : Nat) : (purgeHubs s c).bead p i = s.bead p i := by
  simp only [State.bead, purgeHubs_prt]
  split <;> rfl

theorem teardown_bead (s : State) (c : CtxId) (stop : Option U16) (code : U16) (p : PartId) (i : Nat) :
    (teardown s c stop code).bead p i = s.bead p i := by
  have hrng (u : State) (f : RngRegs → RngRegs) : (u.onRng f).bead p i = u.bead p i :=
    keeps_bead (State.keeps_onRng u f) (by simp) p i
  have hctx (u : State) (f : CtxRt → CtxRt) : (u.onCtx c f).bead p i = u.bead p i :=
    keeps_bead (State.keeps_onCtx u c f) (by simp) p i
  rw [keeps_bead (teardown_torn s c stop code) (by simp) p i, tornState, hctx, purge, hrng, purgeHubs_bead, purgeQueues_bead]
  exact keeps_bead (setCtxState_keeps s c .draining) (by simp) p i

theorem faultCtx_bead (s : State) (c : CtxId) (code : U16) (dev : Bool) (p : PartId) (i : Nat) :
    (faultCtx s c code dev).bead p i = s.bead p i := by
  simp only [faultCtx]
  split
  · rw [teardown_bead]
    split
    · exact keeps_bead (tallyPush_keeps _ _) (by simp) p i
    · rfl
  · rfl

/-- A fault without cores and reset leaves the beads. -/
theorem raiseFlt_bead (s : State) (f : Flt) (ctx : Option (CtxId × BitVec 12)) (hc : f.cores = []) (hr : f.reset = none)
    (hd : isDevice f.code = false) (p : PartId) (i : Nat) : (raiseFlt s f ctx).bead p i = s.bead p i := by
  have he : (event (countIso s f) f.src f.code ctx f.detail).bead p i = s.bead p i :=
    (keeps_bead (event_keeps _ _ _ _ _) (by simp) p i).trans (countIso_bead s f p i)
  simp only [raiseFlt, hd, hc, hr, List.foldl_nil, Bool.false_eq_true, if_false]
  split
  · exact he
  split
  · split
    · split
      · rw [faultCtx_bead]
        exact (keeps_bead (reactCtx_keeps _ _) (by simp) p i).trans he
      · exact he
    · exact he
  · exact he

theorem countIso_noted (s : State) (f : Flt) (c : CtxId) : s.Noted c (countIso s f) := by
  simp only [countIso]
  split
  · exact .of_eq rfl rfl
  · exact .refl s c

/-- A discard of a context at an isolated boundary is a count there and a detection; it faults nothing (R30). -/
theorem isolatedDrop_eq (s : State) (src : U16) (cg : CtxId × BitVec 12) :
    isolatedDrop s src cg = event (countIso s { src := src, code := cIsolated, detail := 0 }) src cIsolated (some cg) 0 := by
  have hd : isDevice cIsolated = false := by decide
  have hf : isFault cIsolated = false := by decide
  simp [isolatedDrop, raiseCode, raiseFlt, hd, hf]

theorem isolatedDrop_keeps (s : State) (src : U16) (cg : CtxId × BitVec 12) :
    s.keeps [.err, .ctxs, .parts] (isolatedDrop s src cg) := by
  rw [isolatedDrop_eq]
  exact State.keeps_trans (State.keeps_mono (countIso_keeps s _) (by simp)) (State.keeps_mono (event_keeps _ _ _ _ _) (by simp))

theorem isolatedDrop_bead (s : State) (src : U16) (cg : CtxId × BitVec 12) (p : PartId) (i : Nat) :
    (isolatedDrop s src cg).bead p i = s.bead p i :=
  raiseFlt_bead s _ _ rfl rfl (by decide : isDevice cIsolated = false) p i

theorem isolatedDrop_noted (s : State) (src : U16) (c : CtxId) (g : BitVec 12) : s.Noted c (isolatedDrop s src (c, g)) := by
  rw [isolatedDrop_eq]
  exact (countIso_noted s _ c).trans (event_noted _ src cIsolated c g 0)

/-- The partition that the source ID names counts the discard. -/
theorem isolatedDrop_isoDrops (s : State) (src : U16) (cg : CtxId × BitVec 12) :
    ((isolatedDrop s src cg).prt (boundaryPart src)).prt.isoDrops = sat32 (s.prt (boundaryPart src)).prt.isoDrops := by
  have hparts (t : State) : (event t src cIsolated (some cg) 0).prt (boundaryPart src) = t.prt (boundaryPart src) :=
    congrArg (fun v : Vector PartRt 4 => v.get (boundaryPart src)) (event_keeps t src cIsolated (some cg) 0 .parts (by simp))
  rw [isolatedDrop_eq, hparts]
  simp [countIso]

/-! ### The I/O die -/

theorem State.keeps_onDie (s : State) (d : DieId) (f : IoDie → IoDie) : s.keeps [.io] (s.onDie d f) := fun k hk => by
  cases k
  case io => simp at hk
  all_goals rfl

/-- An update that leaves the die leaves the state. -/
theorem State.onDie_eq_self {s : State} {d : DieId} {f : IoDie → IoDie} (h : f (s.die d) = s.die d) : s.onDie d f = s := by
  have hv : s.io.set d.1 (f (s.die d)) = s.io := vext fun e => by
    by_cases he : e = d
    · subst he
      rw [vget_set_self, h]
      rfl
    · exact vget_set_ne _ _ _ _ d.2 he
  simp only [State.onDie, hv]

/-- What waits at a die: its FIFO, the writers that it stalls, and the frames that its MACs hold. -/
def IoDie.waits (x : IoDie) : List IffItem × List IffItem × Vector MacRegs 4 := (x.fifo, x.stalled, x.mac)

theorem waits_congr {s t : State} (h : t.io = s.io) (d : DieId) : (t.die d).waits = (s.die d).waits :=
  congrArg (fun v : Vector IoDie 2 => (v.get d).waits) h

/-- No writer of a die is stalled. -/
def IoDie.unstalled (x : IoDie) : Prop := x.stalled = [] ∧ ∀ m, (x.mac.get m).held = []

/-- Without stalled writers the end of a drain releases nothing. -/
theorem releaseAll_idle {s : State} {d : DieId} (h : (s.die d).unstalled) : releaseAll s d = s := by
  have hr : (s.onDie d fun x => x.refill x.stalled.length) = s := State.onDie_eq_self (by rw [h.1]; rfl)
  have hm (l : List MacId) : l.foldl (fun u m => releaseHeld ((u.die d).mac.get m).held.length u d m) s = s := by
    induction l with
    | nil => rfl
    | cons m l ih => rw [List.foldl_cons, h.2 m]; exact ih
  simp only [releaseAll, hr]
  exact hm _

/-- The die after its oldest item has left the FIFO. -/
def State.dequeued (s : State) (d : DieId) (r : List IffItem) : State := s.onDie d fun x => { x with fifo := r }

theorem die_dequeued (s : State) (d : DieId) (r : List IffItem) : (s.dequeued d r).die d = { s.die d with fifo := r } :=
  State.die_onDie_self ..

theorem State.keeps_dequeued (s : State) (d : DieId) (r : List IffItem) : s.keeps [.io] (s.dequeued d r) := s.keeps_onDie d _

theorem exec_ingressFifoDrain_nil {s : State} {d : DieId} (f : Finding) (h : (s.die d).fifo = []) :
    exec (.ingressFifoDrain d f) s = finish s s := by
  show execIngressFifoDrain d f s = _
  simp only [execIngressFifoDrain, h]

theorem exec_ingressFifoDrain_cons {s : State} {d : DieId} {e : IffItem} {r : List IffItem} (f : Finding)
    (h : (s.die d).fifo = e :: r) :
    exec (.ingressFifoDrain d f) s = finish s (releaseAll (drainItem (s.dequeued d r) d e f) d) := by
  show execIngressFifoDrain d f s = _
  simp only [execIngressFifoDrain, h]
  rfl

/-- A drain while no writer is stalled: the item leaves the FIFO and the command ends in the item's effect. -/
theorem exec_ingressFifoDrain_unstalled {s u : State} {d : DieId} {e : IffItem} {r : List IffItem} {f : Finding}
    (h : (s.die d).fifo = e :: r) (hs : (s.die d).unstalled) (hu : drainItem (s.dequeued d r) d e f = u)
    (hw : (u.die d).waits = ((s.dequeued d r).die d).waits) :
    ∃ t, exec (.ingressFifoDrain d f) s = .next t ∧ (t.die d).fifo = r ∧ u.Quiet t := by
  rw [die_dequeued, IoDie.waits, IoDie.waits, Prod.mk.injEq, Prod.mk.injEq] at hw
  obtain ⟨hfifo, hstalled, hmac⟩ := hw
  have hi : (u.die d).unstalled := ⟨hstalled.trans hs.1, fun m => by rw [hmac]; exact hs.2 m⟩
  obtain ⟨t, ht, hq⟩ := finish_next s u
  exact ⟨t, by rw [exec_ingressFifoDrain_cons f h, hu, releaseAll_idle hi, ht], by rw [hq.die, hfifo], hq⟩

/-! ### An item that loses its stream's line (R283) -/

/-- A stream is marked INCOMPLETE on its die, or is so already: nothing that waits at the die changes, and an event of the
item's context tells of the mark. -/
theorem itemIncomplete_cases (s : State) (d : DieId) (e : IffItem) :
    itemIncomplete s d e = s ∨ ∃ g : IoDie → IoDie, (∀ x, (g x).waits = x.waits) ∧
      itemIncomplete s d e = event (s.onDie d g) (srcIff d) cStreamInc (some (e.ctx, e.gen)) 0 := by
  simp only [itemIncomplete]
  cases e.flow with
  | true =>
    simp only [if_true]
    split
    · exact .inl rfl
    · refine .inr ⟨_, ?_, rfl⟩
      exact fun _ => rfl
  | false =>
    simp only [Bool.false_eq_true, if_false]
    split
    · exact .inl rfl
    · refine .inr ⟨_, ?_, rfl⟩
      exact fun _ => rfl

theorem itemIncomplete_keeps (s : State) (d : DieId) (e : IffItem) : s.keeps [.io, .err, .ctxs] (itemIncomplete s d e) := by
  obtain h | ⟨g, -, h⟩ := itemIncomplete_cases s d e
  · rw [h]
    exact s.keeps_refl _
  · rw [h]
    exact State.keeps_trans (State.keeps_mono (s.keeps_onDie d g) (by simp)) (State.keeps_mono (event_keeps _ _ _ _ _) (by simp))

theorem itemIncomplete_waits (s : State) (d : DieId) (e : IffItem) :
    ((itemIncomplete s d e).die d).waits = (s.die d).waits := by
  obtain h | ⟨g, hg, h⟩ := itemIncomplete_cases s d e
  · rw [h]
  · have hd : (event (s.onDie d g) (srcIff d) cStreamInc (some (e.ctx, e.gen)) 0).die d = (s.onDie d g).die d :=
      congrArg (·.get d) (event_keeps _ _ _ _ _ .io (by simp))
    rw [h, hd, State.die_onDie_self, hg]

theorem itemIncomplete_noted (s : State) (d : DieId) (e : IffItem) : s.Noted e.ctx (itemIncomplete s d e) := by
  obtain h | ⟨g, -, h⟩ := itemIncomplete_cases s d e
  · rw [h]
    exact .refl s _
  · rw [h]
    exact State.Noted.trans (t := s.onDie d g) (.of_eq rfl rfl) (event_noted _ _ _ _ _ _)

/-! ### The writes of an item and its signal (R27, R29, R30, R259) -/

/-- A write that nothing blocks is one at its destination. -/
theorem fifoWrite_clear {s : State} {d : DieId} {w : Nat × Bytes} (e : IffItem) (h : s.fifoBlocked d w = false) :
    fifoWrite d e s w = writeHere s (e.ctx, e.gen) w.1 w.2 := by
  simp only [State.fifoBlocked, Bool.or_eq_false_iff, Option.isSome_eq_false_iff, Option.isNone_iff_eq_none] at h
  obtain ⟨⟨hl, hp⟩, -⟩ := h
  have hf : ((homePart w.1).filter fun p => s.inReset p) = none := by
    cases hq : homePart w.1 with
    | none => rfl
    | some q =>
      rw [hq] at hp
      exact Option.filter_eq_none_iff.2 fun p hp' => by cases hp'; simpa using hp
  simp only [fifoWrite, hl, hf]

/-- A write into a partition in reset is discarded at its boundary, and its stream is INCOMPLETE. -/
theorem fifoWrite_isolated {s : State} {d : DieId} {w : Nat × Bytes} {q : PartId} (e : IffItem) (hl : s.fifoLink d w.1 = none)
    (hq : homePart w.1 = some q) (hr : s.inReset q = true) :
    fifoWrite d e s w = isolatedDrop (itemIncomplete s d e) (endpointSrc s.part w.1) (e.ctx, e.gen) := by
  have hf : ((homePart w.1).filter fun p => s.inReset p) = some q := by simp [hq, Option.filter, hr]
  simp only [fifoWrite, hl, hf]

/-- Fewer bad words and the same partitions and links block no more writes. -/
theorem fifoBlocked_of_subset {s t : State} (hp : t.parts = s.parts) (hl : t.linkDown = s.linkDown)
    (hb : ∀ k ∈ t.bad, k ∈ s.bad) {d : DieId} {w : Nat × Bytes} (h : s.fifoBlocked d w = false) :
    t.fifoBlocked d w = false := by
  have hr : t.inReset = s.inReset := by funext p; simp only [State.inReset, State.prt, hp]
  have hk : t.fifoLink d w.1 = s.fifoLink d w.1 := by simp only [State.fifoLink, hl]
  simp only [State.fifoBlocked, Bool.or_eq_false_iff, Option.isSome_eq_false_iff, Option.isNone_iff_eq_none, hr, hk,
    badOfWrites_eq_none_iff, List.mem_singleton, forall_eq] at h ⊢
  exact ⟨h.1, badIn_none_of_subset hb h.2⟩

/-- Writes that nothing blocks take effect in order, and their copies with them. -/
theorem foldl_fifoWrite_clear {s : State} {d : DieId} (e : IffItem) {ws : List (Nat × Bytes)}
    (hb : ∀ w ∈ ws, s.fifoBlocked d w = false) (hm : ∀ w ∈ mirrorPair s ws, s.badIn w.1 w.2.length true = none) :
    ws.foldl (fifoWrite d e) s = s.commit (e.ctx, e.gen) (mirrorPair s ws) := by
  induction ws generalizing s with
  | nil => rfl
  | cons w ws ih =>
    rw [mirrorPair_cons] at hm ⊢
    have hw : fifoWrite d e s w = s.commit (e.ctx, e.gen) (mirrorPair s [w]) := by
      rw [fifoWrite_clear e (hb w List.mem_cons_self)]
      exact writeHere_clean _ (badOfWrites_eq_none_iff.2 fun x hx => hm x (List.mem_append_left _ hx))
    have hk := commit_keeps s (e.ctx, e.gen) (mirrorPair s [w])
    have hsub := commit_bad_subset s (e.ctx, e.gen) (mirrorPair s [w])
    have hp : (s.commit (e.ctx, e.gen) (mirrorPair s [w])).parts = s.parts := hk .parts (by simp)
    rw [List.foldl_cons, hw, commit_append, ← mirrorPair_congr hp ws]
    refine ih (fun x hx => ?_) fun x hx => ?_
    · exact fifoBlocked_of_subset hp (hk .linkDown (by simp)) hsub (hb x (List.mem_cons_of_mem _ hx))
    · rw [mirrorPair_congr hp] at hx
      exact badIn_none_of_subset hsub (hm x (List.mem_append_right _ hx))

theorem fifoSignal_none {s : State} {e : IffItem} (d : DieId) (h : e.signal = none) : fifoSignal s d e = s := by
  simp only [fifoSignal, h]

/-- A signal that meets no dead link and no isolated partition raises its bead. -/
theorem fifoSignal_some {s : State} {d : DieId} {e : IffItem} {p : PartId} {i n : Nat} (h : e.signal = some (p, i, n))
    (hr : s.inReset p = false) (hl : ioLink d (partDie p) ∉ s.linkDown) : fifoSignal s d e = s.addBead p i n := by
  simp [fifoSignal, h, hr, hl]

/-! ### How the oldest item ends (R27, R30, R32, R239, R357) -/

/-- The state after the FIFO's word was read: a corrected word is recorded for the item's context. -/
def State.wordRead (s : State) (d : DieId) (e : IffItem) (f : Finding) : State :=
  if f = .single then event s (srcIff d) cSramCe (some (e.ctx, e.gen)) 0 else s

theorem wordRead_clean (s : State) (d : DieId) (e : IffItem) : s.wordRead d e .clean = s := rfl

theorem wordRead_keeps (s : State) (d : DieId) (e : IffItem) (f : Finding) :
    s.keeps (if f = .clean then [] else [.err, .ctxs]) (s.wordRead d e f) := by
  cases f with
  | clean => exact s.keeps_refl _
  | single => exact event_keeps _ _ _ _ _
  | double => exact s.keeps_refl _

theorem wordRead_keeps_records (s : State) (d : DieId) (e : IffItem) (f : Finding) : s.keeps [.err, .ctxs] (s.wordRead d e f) :=
  State.keeps_mono (wordRead_keeps s d e f) (by split <;> simp)

theorem wordRead_noted (s : State) (d : DieId) (e : IffItem) (f : Finding) : s.Noted e.ctx (s.wordRead d e f) := by
  simp only [State.wordRead]
  split
  · exact event_noted s _ _ _ _ _
  · exact .refl s _

theorem drainItem_double (s : State) (d : DieId) (e : IffItem) :
    drainItem s d e .double = raiseCode (itemIncomplete s d e) (srcIff d) cIffUe (some (e.ctx, e.gen)) 0 := rfl

/-- An item that the FIFO holds intact is checked for its generation, written and signalled. -/
theorem drainItem_intact {s : State} {d : DieId} {e : IffItem} {f : Finding} (hf : f ≠ .double) :
    drainItem s d e f = if e.gen ≠ ((s.wordRead d e f).ctx e.ctx).gen then staleDrop (s.wordRead d e f) e.ctx
      else if e.writes.any ((s.wordRead d e f).fifoBlocked d) then e.writes.foldl (fifoWrite d e) (s.wordRead d e f)
      else fifoSignal (e.writes.foldl (fifoWrite d e) (s.wordRead d e f)) d e := by
  cases f with
  | clean => rfl
  | single => rfl
  | double => exact absurd rfl hf

theorem drainItem_stale {s : State} {d : DieId} {e : IffItem} (hg : e.gen ≠ (s.ctx e.ctx).gen) :
    drainItem s d e .clean = staleDrop s e.ctx := by
  rw [drainItem_intact (by decide), wordRead_clean, if_pos hg]

/-- Nothing blocks an item: it is of the present generation, its writes and its signal meet no dead link and no partition in
reset, and no word stays uncorrectable under a write. -/
structure IffItem.Clear (e : IffItem) (d : DieId) (s : State) : Prop where
  gen : e.gen = (s.ctx e.ctx).gen
  writes : ∀ w ∈ e.writes, s.fifoBlocked d w = false
  words : ∀ w ∈ mirrorPair s e.writes, s.badIn w.1 w.2.length true = none
  signal : ∀ x, e.signal = some x → s.inReset x.1 = false ∧ ioLink d (partDie x.1) ∉ s.linkDown

/-- Records and counted detections of the item's context block nothing. -/
theorem IffItem.Clear.mono {e : IffItem} {d : DieId} {s t : State} (h : e.Clear d s) (hn : s.Noted e.ctx t)
    (hp : t.parts = s.parts) (hl : t.linkDown = s.linkDown) (hb : ∀ k ∈ t.bad, k ∈ s.bad) : e.Clear d t := by
  obtain ⟨hg, hw, hm, hs⟩ := h
  refine ⟨hg.trans hn.gen.symm, fun w h => fifoBlocked_of_subset hp hl hb (hw w h), fun w h => ?_, fun x hx => ?_⟩
  · rw [mirrorPair_congr hp] at h
    exact badIn_none_of_subset hb (hm w h)
  · rw [hl, State.inReset, State.prt, hp]
    exact hs x hx

theorem IffItem.Clear.wordRead {e : IffItem} {d : DieId} {s : State} (h : e.Clear d s) (f : Finding) :
    e.Clear d (s.wordRead d e f) := by
  have hk := wordRead_keeps_records s d e f
  have hb : (s.wordRead d e f).bad = s.bad := hk .bad (by simp)
  exact h.mono (wordRead_noted s d e f) (hk .parts (by simp)) (hk .linkDown (by simp)) fun k hk => hb ▸ hk

/-- The state between an item's writes and its signal. -/
def State.itemWritten (s : State) (d : DieId) (e : IffItem) (f : Finding) : State :=
  (s.wordRead d e f).commit (e.ctx, e.gen) (mirrorPair s e.writes)

theorem itemWritten_keeps (s : State) (d : DieId) (e : IffItem) (f : Finding) :
    s.keeps (if f = .clean then [.mem, .bad, .lineOwner] else [.mem, .bad, .lineOwner, .err, .ctxs]) (s.itemWritten d e f) :=
  State.keeps_trans (State.keeps_mono (wordRead_keeps s d e f) (by split <;> simp))
    (State.keeps_mono (commit_keeps _ _ _) (by split <;> simp))

theorem itemWritten_mem (s : State) (d : DieId) (e : IffItem) (f : Finding) :
    (s.itemWritten d e f).mem = (s.commit (e.ctx, e.gen) (mirrorPair s e.writes)).mem := by
  have hk := wordRead_keeps_records s d e f
  exact commit_congr (hk .mem (by simp)) (hk .bad (by simp)) _ _

/-- An item that nothing blocks: its writes take effect, then its signal. -/
theorem drainItem_clear {s : State} {d : DieId} {e : IffItem} {f : Finding} (hf : f ≠ .double) (h : e.Clear d s) :
    drainItem s d e f = fifoSignal (s.itemWritten d e f) d e := by
  have hk := wordRead_keeps_records s d e f
  obtain ⟨hg, hw, hm, -⟩ := h.wordRead f
  have hany : ¬ e.writes.any ((s.wordRead d e f).fifoBlocked d) = true := by simpa using hw
  rw [drainItem_intact hf, if_neg (not_not.2 hg), if_neg hany, foldl_fifoWrite_clear e hw hm,
    mirrorPair_congr (hk .parts (by simp))]
  rfl

/-- The signal of an item that nothing blocks: its bead alone changes. -/
theorem fifoSignal_clear {s : State} {d : DieId} {e : IffItem} (h : e.Clear d s) (f : Finding) :
    (s.itemWritten d e f).keeps [.parts] (fifoSignal (s.itemWritten d e f) d e) ∧
      (∀ p i n, e.signal = some (p, i, n) → fifoSignal (s.itemWritten d e f) d e = (s.itemWritten d e f).addBead p i n) ∧
      (e.signal = none → fifoSignal (s.itemWritten d e f) d e = s.itemWritten d e f) := by
  have hk : s.keeps [.mem, .bad, .lineOwner, .err, .ctxs] (s.itemWritten d e f) :=
    State.keeps_mono (itemWritten_keeps s d e f) (by split <;> simp)
  have hp : (s.itemWritten d e f).parts = s.parts := hk .parts (by simp)
  have hl : (s.itemWritten d e f).linkDown = s.linkDown := hk .linkDown (by simp)
  have hsome (p : PartId) (i n : Nat) (hs : e.signal = some (p, i, n)) :
      fifoSignal (s.itemWritten d e f) d e = (s.itemWritten d e f).addBead p i n := by
    obtain ⟨hr, hd⟩ := h.signal _ hs
    exact fifoSignal_some hs (by rw [State.inReset, State.prt, hp]; exact hr) (by rw [hl]; exact hd)
  refine ⟨?_, hsome, fifoSignal_none d⟩
  cases hs : e.signal with
  | none =>
    rw [fifoSignal_none d hs]
    exact State.keeps_refl _ _
  | some x =>
    rw [hsome x.1 x.2.1 x.2.2 hs]
    exact addBead_keeps _ _ _ _

/-- A single write into a partition in reset is discarded at its boundary, and its signal with it. -/
theorem drainItem_isolated {s : State} {d : DieId} {e : IffItem} {a : Nat} {b : Bytes} {q : PartId} (hw : e.writes = [(a, b)])
    (hg : e.gen = (s.ctx e.ctx).gen) (hl : s.fifoLink d a = none) (hq : homePart a = some q) (hr : s.inReset q = true) :
    drainItem s d e .clean = isolatedDrop (itemIncomplete s d e) (endpointSrc s.part a) (e.ctx, e.gen) := by
  have hblocked : e.writes.any (s.fifoBlocked d) = true := by simp [hw, State.fifoBlocked, hq, hr]
  rw [drainItem_intact (by decide), wordRead_clean, if_neg (fun h => h hg), if_pos hblocked, hw]
  exact fifoWrite_isolated (w := (a, b)) e hl hq hr

/-- The effect of an item that nothing blocks: its bytes, then its bead; of the rest, what the FIFO's own word changed. -/
theorem drainItem_clear_effect {s : State} {d : DieId} {e : IffItem} {f : Finding} (hf : f ≠ .double) (h : e.Clear d s) :
    (drainItem s d e f).mem = (s.commit (e.ctx, e.gen) (mirrorPair s e.writes)).mem ∧
      (∀ p i n, e.signal = some (p, i, n) → (drainItem s d e f).bead p i = s.bead p i + BitVec.ofNat 32 n ∧
        ∀ p' i', (p', i') ≠ (p, i) → (drainItem s d e f).bead p' i' = s.bead p' i') ∧
      (e.signal = none → (drainItem s d e f).parts = s.parts) ∧
      s.keeps (if f = .clean then [.mem, .bad, .lineOwner, .parts] else [.mem, .bad, .lineOwner, .parts, .err, .ctxs])
        (drainItem s d e f) := by
  obtain ⟨hks, hsome, hnone⟩ := fifoSignal_clear h f
  have hkw := itemWritten_keeps s d e f
  have hparts : Kind.parts ∉ if f = .clean then [.mem, .bad, .lineOwner] else [.mem, .bad, .lineOwner, .err, .ctxs] := by
    split <;> simp
  rw [drainItem_clear hf h]
  refine ⟨(hks .mem (by simp)).trans (itemWritten_mem s d e f), fun p i n hs => ⟨?_, fun p' i' hne => ?_⟩, fun hs => ?_,
    State.keeps_trans (State.keeps_mono hkw (by split <;> simp)) (State.keeps_mono hks (by split <;> simp))⟩
  · rw [hsome p i n hs, bead_addBead_self, keeps_bead hkw hparts]
  · rw [hsome p i n hs, bead_addBead_ne _ _ hne, keeps_bead hkw hparts]
  · rw [hnone hs]
    exact hkw .parts hparts

/-- The effect of an uncorrectable word under an item of a context that runs: the context is faulted and nothing is written. -/
theorem drainItem_double_effect {s : State} {d : DieId} {e : IffItem} (hg : e.gen = (s.ctx e.ctx).gen)
    (hs : (s.ctx e.ctx).state = .run) (he : s.err.expect = false) :
    ((drainItem s d e .double).ctx e.ctx).state = .draining ∧ ((drainItem s d e .double).ctx e.ctx).stopLatch = true ∧
      (∀ x, x ≠ e.ctx → (drainItem s d e .double).ctx x = s.ctx x) ∧ (drainItem s d e .double).mem = s.mem ∧
      (∀ p i, (drainItem s d e .double).bead p i = s.bead p i) ∧
      ((drainItem s d e .double).die d).waits = (s.die d).waits := by
  have hf : Flt.OfCtx { src := srcIff d, code := cIffUe, detail := 0 } := Flt.ofCtx_of_code (by decide) (by decide)
  have hki := itemIncomplete_keeps s d e
  have hk := raiseFlt_keeps (itemIncomplete s d e) _ (some (e.ctx, e.gen)) hf.cores hf.reset hf.notDevice
  obtain ⟨hst, hstop, hne⟩ := raiseFlt_drains (itemIncomplete_noted s d e) hf hs he
  rw [← hg] at hst hstop hne
  rw [drainItem_double, raiseCode]
  refine ⟨hst, hstop, hne, (hk .mem (by simp)).trans (hki .mem (by simp)), fun p i => ?_, ?_⟩
  · rw [raiseFlt_bead _ _ _ hf.cores hf.reset hf.notDevice, keeps_bead hki (by simp)]
  · rw [← itemIncomplete_waits s d e]
    exact waits_congr (hk .io (by simp)) d

/-- The effect of a write into a partition in reset: its boundary counts the discard, and nothing is written or signalled. -/
theorem isolatedDrop_itemIncomplete {s : State} {d : DieId} {e : IffItem} {a : Nat} {q : PartId} {u : State}
    (hq : homePart a = some q) (hu : isolatedDrop (itemIncomplete s d e) (endpointSrc s.part a) (e.ctx, e.gen) = u) :
    (u.prt q).prt.isoDrops = sat32 (s.prt q).prt.isoDrops ∧ u.mem = s.mem ∧ (∀ p i, u.bead p i = s.bead p i) ∧
      (∀ x, (u.ctx x).state = (s.ctx x).state) ∧ (u.die d).waits = (s.die d).waits := by
  subst hu
  have hki := itemIncomplete_keeps s d e
  have hk := isolatedDrop_keeps (itemIncomplete s d e) (endpointSrc s.part a) (e.ctx, e.gen)
  have hprt : (itemIncomplete s d e).prt q = s.prt q := congrArg (·.get q) (hki .parts (by simp))
  have hiso := isolatedDrop_isoDrops (itemIncomplete s d e) (endpointSrc s.part a) (e.ctx, e.gen)
  rw [boundaryPart_endpointSrc s.part hq, hprt] at hiso
  refine ⟨hiso, (hk .mem (by simp)).trans (hki .mem (by simp)), fun p i => ?_,
    ((itemIncomplete_noted s d e).trans (isolatedDrop_noted _ _ e.ctx e.gen)).state, ?_⟩
  · rw [isolatedDrop_bead, keeps_bead hki (by simp)]
  · rw [← itemIncomplete_waits s d e]
    exact waits_congr (hk .io (by simp)) d

end Sys2Proof.Machine

open Sys2Proof Sys2Proof.Machine

/-- Settles O39. With no writer stalled a drain ends in the effect of the oldest item (`exec_ingressFifoDrain_unstalled`), and each
clause is the way that its conditions make the item end. -/
theorem ingressItemsWriteThenSignal : Obligations.IngressItemsWriteThenSignal := by
  unfold Obligations.IngressItemsWriteThenSignal
  refine ⟨fun s d h f => ?_, fun s d e r h hheld hstalled => ⟨fun f hf hg hb hm hsig => ?_, fun hg => ?_, fun hg hs he => ?_,
    fun a b q hw hg hl hq hr => ?_⟩⟩
  · rw [exec_ingressFifoDrain_nil f h]
    obtain ⟨t, ht, hq⟩ := finish_next s s
    exact ⟨t, ht, hq.1⟩
  · have hbad : ∀ w ∈ mirrorPair s e.writes, s.badIn w.1 w.2.length true = none :=
      fun w hw => badOfWrites_eq_none_iff.1 (hm w hw) w (List.mem_singleton_self w)
    have hc : e.Clear d (s.dequeued d r) := ⟨hg, hb, hbad, hsig⟩
    obtain ⟨hmem, hsome, hnone, hk⟩ := drainItem_clear_effect hf hc
    have hio : (drainItem (s.dequeued d r) d e f).io = (s.dequeued d r).io := hk .io (by split <;> simp)
    obtain ⟨t, ht, hfifo, hq⟩ := exec_ingressFifoDrain_unstalled h ⟨hstalled, hheld⟩ rfl (waits_congr hio d)
    have hm' : t.mem = (s.commit (e.ctx, e.gen) (mirrorPair s e.writes)).mem := by
      rw [hq.mem, hmem, mirrorPair_congr (s := s) (t := s.dequeued d r) rfl]
      exact commit_congr (s := s) (t := s.dequeued d r) rfl rfl _ _
    refine ⟨t, ht, hfifo, hm', fun a b hw hin k hi => ?_, fun k hout => ?_, fun p i n hs => ?_, fun hs => ?_, ?_⟩
    · rw [hm', hw]
      rw [hw] at hbad
      exact (commit_mirrorPair_in _ hbad hin hi).1
    · rw [hm']
      exact commit_elsewhere s _ _ hout
    · obtain ⟨hself, hother⟩ := hsome p i n hs
      exact ⟨(hq.bead p i).trans hself, fun p' i' hne => (hq.bead p' i').trans (hother p' i' hne)⟩
    · exact (hq.1 .parts (by simp)).trans (hnone hs)
    · exact State.keeps_trans (State.keeps_mono (s.keeps_dequeued d r) (by split <;> simp))
        (State.keeps_trans (State.keeps_mono hk (by split <;> simp)) (State.keeps_mono hq.1 (by simp)))
  · obtain ⟨t, ht, hfifo, hq⟩ := exec_ingressFifoDrain_unstalled h ⟨hstalled, hheld⟩
      (drainItem_stale (s := s.dequeued d r) hg) rfl
    have hk : s.keeps [.io, .ctxs] (staleDrop (s.dequeued d r) e.ctx) :=
      State.keeps_trans (State.keeps_mono (s.keeps_dequeued d r) (by simp)) (State.keeps_mono (staleDrop_keeps _ _) (by simp))
    exact ⟨t, ht, hfifo, (hq.ctx _).trans (staleDrop_self _ _), fun x hx => (hq.ctx x).trans (staleDrop_ne _ hx),
      State.keeps_trans hk (State.keeps_mono hq.1 (by simp))⟩
  · obtain ⟨hst, hstop, hne, hmem, hbead, hw⟩ := drainItem_double_effect (s := s.dequeued d r) (d := d) hg hs he
    obtain ⟨t, ht, hfifo, hq⟩ := exec_ingressFifoDrain_unstalled h ⟨hstalled, hheld⟩ rfl hw
    exact ⟨t, ht, hfifo, by rw [hq.ctx, hst], by rw [hq.ctx, hstop], fun x hx => (hq.ctx x).trans (hne x hx), hq.mem.trans hmem,
      fun p i => (hq.bead p i).trans (hbead p i)⟩
  · have hu := drainItem_isolated (s := s.dequeued d r) hw hg hl hq hr
    obtain ⟨hiso, hmem, hbead, hst, hwaits⟩ := isolatedDrop_itemIncomplete hq hu.symm
    obtain ⟨t, ht, hfifo, hqu⟩ := exec_ingressFifoDrain_unstalled h ⟨hstalled, hheld⟩ rfl hwaits
    exact ⟨t, ht, hfifo, by rw [hqu.prt, hiso]; rfl, hqu.mem.trans hmem, fun p i => (hqu.bead p i).trans (hbead p i),
      fun x => by rw [hqu.ctx, hst]; rfl⟩
end

section
/-!
PROOFS. The queues' family: the head of a queue and its wait (R56).
-/

open Sys2Proof Sys2Proof.Machine

namespace Sys2Proof.Machine

theorem exec_nop (q : QueueId) (s : State) : exec (.nop q) s = finish s (runJob s q (· = 0x00) {} none plainBody) := rfl

theorem exec_fence (q : QueueId) (s : State) :
    exec (.fence q) s = finish s (if s.fenceReady q then runJob s q (· = 0x01) {} none plainBody else s) := rfl

theorem exec_pair (i : CoreId) (s : State) : exec (.pair i) s = finish s (runPair s i true) := rfl

theorem exec_splitOp (i : CoreId) (s : State) : exec (.splitOp i) s = finish s (runPair s i false) := rfl

/-- The wait of R56 is over exactly where the signed difference is not negative. -/
theorem beadReached_eq (b t : U32) : beadReached b t = decide (0 ≤ (b - t).toInt) := by
  simp only [beadReached, BitVec.msb_eq_toInt]
  grind

theorem waitDone_of_en {s : State} {q : QueueId} {h : Hdr} (hw : h.waitEn = true) :
    s.waitDone q h = decide (0 ≤ (s.bead (qPart q) h.waitBead - h.thresh).toInt) := by
  simp [State.waitDone, hw, beadReached_eq]

/-- A queue without a job, whose head fails no check, runs nothing: no NOP, FENCE, PAIR or SPLIT. -/
theorem runJob_idle {s : State} {q : QueueId} {ok : Nat → Bool} (f : Facts) (resid : Option (Nat × U16))
    (body : State → Job → Out) (hj : s.job q ok = none) (hh : s.headFault q = none) : runJob s q ok f resid body = s := by
  rw [runJob_none _ _ _ hj, headCheck_ok hh]

theorem runPair_idle {s : State} {i : CoreId} {isPair : Bool}
    (hj : s.job (.core i .mq) (· = if isPair then 0x18 else 0x19) = none) (hh : s.headFault (.core i .mq) = none) :
    runPair s i isPair = s := by
  simp only [runPair, hj]
  exact headCheck_ok hh

end Sys2Proof.Machine

open Sys2Proof Sys2Proof.Machine

/-- Settles O59: while the wait runs the queue has no job, so every command that could start its head leaves it. -/
theorem headOfAQueueWaitsForItsBead : Obligations.HeadOfAQueueWaitsForItsBead := by
  unfold Obligations.HeadOfAQueueWaitsForItsBead
  intro s q e r he hw
  refine ⟨fun hneg => ?_, fun hpos => by simpa [waitDone_of_en hw] using hpos⟩
  have hwait : s.waitDone q (hdrOf e.bytes) = false := by simpa [waitDone_of_en hw] using hneg
  have hjob : ∀ ok, s.job q ok = none := fun ok => job_none_of_wait ok he hwait
  have idle : ∃ t, finish s s = .next t ∧ s.keeps [] t := by
    obtain ⟨t, ht, hq⟩ := finish_next s s
    exact ⟨t, ht, hq.1⟩
  refine ⟨hwait, fun c x hc hx hh => ?_, fun c hh hc => ?_⟩
  · subst hx
    obtain ⟨t, ht, hq⟩ := exec_engine_idle hc (hjob _) hh
    exact ⟨t, ht, hq.1⟩
  · rcases hc with rfl | rfl | ⟨i, rfl, rfl | rfl⟩
    · rw [exec_nop, runJob_idle _ _ _ (hjob _) hh]
      exact idle
    · rw [exec_fence, runJob_idle _ _ _ (hjob _) hh, ite_self]
      exact idle
    · rw [exec_pair, runPair_idle (hjob _) hh]
      exact idle
    · rw [exec_splitOp, runPair_idle (hjob _) hh]
      exact idle
end

section
/-!
PROOFS. The runs of the head of a queue: an engine row (R53, R56, R57), a head that fails its check (R44, R45), NOP and FENCE
(R53, R62).
-/

open Sys2Proof Sys2Proof.Machine

namespace Sys2Proof.Machine

/-! ### A context that a fault of its own tears down (R317, R361) -/

/-- What a fault of context `c` leaves: it drains with its egress stopped and no frame in flight, ERR_OUT_N is low, no queue
holds a descriptor of it, and what is not of the context is as before. -/
structure State.TornBy (s : State) (c : CtxId) (t : State) : Prop where
  state : (t.ctx c).state = .draining
  stop : (t.ctx c).stopLatch = true
  inFlight : (t.ctx c).frame.inFlight = false
  errOut : t.pins.errOutN = false
  queues : ∀ q e, e ∈ (t.queue q).entries → e.ctx ≠ c
  others : ∀ x, x ≠ c → t.ctx x = s.ctx x
  bead : ∀ p i, t.bead p i = s.bead p i
  keeps : s.keeps [.err, .cores, .parts, .ctxs, .rng, .tly, .pins] t

theorem State.TornBy.mem {s t : State} {c : CtxId} (h : s.TornBy c t) : t.mem = s.mem := h.keeps .mem (by simp)

/-- A command that ends in a fault of a context that runs tears it down. -/
theorem finish_raiseFlt (old s : State) (f : Flt) (c : CtxId) (hf : f.OfCtx) (he : s.err.expect = false)
    (hs : (s.ctx c).state = .run ∨ (s.ctx c).state = .starting) :
    ∃ t, finish old (raiseFlt s f (some (s.cg c))) = .next t ∧ s.TornBy c t := by
  obtain ⟨hst, hstop, -, hfl, hpin, hhold, hqu, hne⟩ :=
    raiseFlt_run s f c hf.cores hf.reset hf.notDevice hf.fault he hs _ rfl
  obtain ⟨t, ht, hk, hq⟩ := finish_keeps (old := old) (raiseFlt_keeps s f (some (s.cg c)) hf.cores hf.reset hf.notDevice)
  refine ⟨t, ht, ?_, ?_, ?_, (hq.errOut hhold).trans hpin, fun q e hm => ?_, fun x hx => (hq.ctx x).trans (hne x hx), fun p i =>
    (hq.bead p i).trans (raiseFlt_bead s f _ hf.cores hf.reset hf.notDevice p i), hk⟩
  · rw [hq.ctx]; exact hst
  · rw [hq.ctx]; exact hstop
  · rw [hq.ctx]; exact hfl
  · have hm' : e ∈ ((s.queue q).without c).entries := (congrArg QueueRt.entries ((hq.queue q).trans (hqu q))) ▸ hm
    simpa using (List.mem_filter.1 hm').2

/-! ### The check of the head (R44, R45) -/

/-- The head fails its check with one of two codes. -/
theorem headFault_code {s : State} {q : QueueId} {code : U16} (h : s.headFault q = some code) :
    code = cStageOrder ∨ code = cGoldenOrder := by
  simp only [State.headFault] at h
  split at h
  · cases h
  · split at h
    · cases h
    · grind

/-- A queue whose head fails its check has no job. -/
theorem job_none_of_headFault {s : State} {q : QueueId} {code : U16} (ok : Nat → Bool) (h : s.headFault q = some code) :
    s.job q ok = none := by
  simp only [State.job]
  split
  · rfl
  · simp [h]

/-- A head that fails its check faults its context. -/
theorem headCheck_fault {s : State} {q : QueueId} {code : U16} {e : QEntry} (h : s.headFault q = some code)
    (he : (s.queue q).entries.head? = some e) :
    headCheck s q = raiseFlt s { src := srcQueue q, code := code, detail := descDetail q (hdrOf e.bytes) e.origin }
      (some (s.cg e.ctx)) := by
  obtain ⟨r, hr⟩ : ∃ r, (s.queue q).entries = e :: r := by
    cases hl : (s.queue q).entries with
    | nil => simp [hl] at he
    | cons x r => exact ⟨r, by simpa [hl] using he⟩
  simp only [headCheck, hr, h]
  rfl

theorem finish_headCheck_fault {old s : State} {q : QueueId} {code : U16} {e : QEntry} (h : s.headFault q = some code)
    (he : (s.queue q).entries.head? = some e) (hx : s.err.expect = false) (hs : (s.ctx e.ctx).state = .run) :
    ∃ t, finish old (headCheck s q) = .next t ∧ s.TornBy e.ctx t := by
  rw [headCheck_fault h he]
  refine finish_raiseFlt old s _ e.ctx ?_ hx (.inl hs)
  rcases headFault_code h with rfl | rfl
  · exact Flt.ofCtx_of_code (by decide) (by decide)
  · exact Flt.ofCtx_of_code (by decide) (by decide)

/-! ### The end of a run -/

/-- An entry that its engine has executed with `n` and `m` as the sum and the count of its elements. -/
def executedAs (n m : U64) (e : QEntry) : QEntry := { e with executed := true, sum := n, cnt := m }

/-- An update of the head that keeps the descriptor keeps every descriptor of the queue. -/
theorem onHead_descriptors (s : State) (q : QueueId) (f : QEntry → QEntry)
    (hf : ∀ e, ((f e).bytes, (f e).ctx, (f e).origin) = (e.bytes, e.ctx, e.origin)) :
    (((s.onHead q f).queue q).entries.map fun e => (e.bytes, e.ctx, e.origin)) =
      ((s.queue q).entries.map fun e => (e.bytes, e.ctx, e.origin)) := by
  cases h : (s.queue q).entries with
  | nil => simp [State.onHead, h]
  | cons e r => rw [onHead_entries s q f h]; simp only [List.map_cons, hf]

theorem onHead_head {s : State} {q : QueueId} {f : QEntry → QEntry} {e : QEntry}
    (h : ((s.onHead q f).queue q).entries.head? = some e) : ∃ x, e = f x := by
  cases hq : (s.queue q).entries with
  | nil => simp [State.onHead, hq] at h
  | cons x r =>
    rw [onHead_entries s q f hq] at h
    exact ⟨x, (Option.some.inj h).symm⟩

theorem commitRun_queue (s : State) (w : Who) (ws : List (Nat × Bytes)) (q : QueueId) :
    (commitRun s w ws).queue q = s.queue q := keeps_queue (commitRun_keeps s w ws) (by simp) (by simp) q

theorem badOfWrites_nil (s : State) : s.badOfWrites [] = none := by simp [State.badOfWrites]

/-- A run without writes and without a fault executes the head with no element. -/
theorem endRun_plain {s after : State} {j : Job} :
    endRun s {} j none { after := after } = after.onHead j.q (executedAs 0 0) := by
  have hl : lksSum after j.who.ctx [] = (0, 0) := rfl
  have hc : commitUe s after {} j.who [] = (after, none) := commitUe_ok (badOfWrites_nil s) rfl
  simp only [endRun, pairFlt, hubFlt, factFlt, endClean, hc, hl, ite_self]
  rfl

/-! ### NOP and FENCE -/

/-- The chains of the output stage are no part of a queue. -/
theorem forgetAq_queue (s : State) (i : CoreId) (q : QueueId) : (forgetAq s i).queue q = s.queue q := by
  have one : ∀ (u : State) (k : CoreId) (g : CoreRt → CoreRt), (∀ x l, coreQueue (g x) l = coreQueue x l) →
      (u.onCore k g).queue q = u.queue q := by
    intro u k g hg
    cases q with
    | dq p => rfl
    | core c l =>
      by_cases h : c = k
      · subst h; simp [State.queue, hg]
      · simp only [State.queue]; rw [State.core_onCore_ne _ _ _ _ h]
  simp only [forgetAq, State.onEngine]
  split
  · rw [one, one] <;> intro x l <;> cases l <;> rfl
  · rw [one]; intro x l; cases l <;> rfl

theorem forgetAq_keeps (s : State) (i : CoreId) : s.keeps [.cores] (forgetAq s i) := by
  intro k hk
  simp only [forgetAq, State.onEngine]
  split <;> cases k <;> first | rfl | simp at hk

/-- What NOP and FENCE leave beside the head: on an AQ the chains of the output stage are gone. -/
def plainAfter (s : State) (q : QueueId) : State :=
  match q with
  | .core i .aq => forgetAq s i
  | _ => s

theorem plainAfter_keeps (s : State) (q : QueueId) : s.keeps [.cores] (plainAfter s q) := by
  unfold plainAfter
  split
  · exact forgetAq_keeps s _
  · exact s.keeps_refl _

theorem plainAfter_queue (s : State) (q q' : QueueId) : (plainAfter s q).queue q' = s.queue q' := by
  unfold plainAfter
  split
  · exact forgetAq_queue s _ q'
  · rfl

/-- The chains that go depend on the cores and the pairs alone. -/
theorem plainAfter_congr {s t : State} (hc : t.cores = s.cores) (hp : t.parts = s.parts) (q : QueueId) :
    (plainAfter t q).cores = (plainAfter s q).cores := by
  unfold plainAfter
  split
  · rename_i i
    have ht : t.trailOf i = s.trailOf i := by simp only [State.trailOf, State.prt, hp]
    simp only [forgetAq, State.onEngine, ht]
    split <;> simp only [State.onCore, State.core, hc]
  · exact hc

theorem onHead_congr {s t : State} (hc : t.cores = s.cores) (hp : t.parts = s.parts) (q : QueueId) (f : QEntry → QEntry) :
    (t.onHead q f).cores = (s.onHead q f).cores ∧ (t.onHead q f).parts = (s.onHead q f).parts := by
  cases q with
  | core i k => exact ⟨by simp only [State.onHead, State.onQueue, State.onCore, State.core, hc], hp⟩
  | dq p => exact ⟨hc, by simp only [State.onHead, State.onQueue, State.onPart, State.prt, hp]⟩

/-- The state that a run without an upset of the physical world starts from. -/
def plainStart (s : State) (j : Job) : State := { startStage s j.who.ctx j.h.stage with bad := s.bad.dedup }

theorem plainStart_keeps (s : State) (j : Job) : s.keeps [.ctxs, .bad] (plainStart s j) := by
  intro k hk
  cases k <;> first | rfl | simp at hk

theorem runJob_plain {s : State} {q : QueueId} {ok : Nat → Bool} {j : Job} (hj : s.job q ok = some j) :
    runJob s q ok {} none plainBody =
      (plainAfter (plainStart s j) q).onHead q (executedAs 0 0) := by
  have hq : j.q = q := (job_spec hj).2.1
  simp only [runJob, hj, plainBody]
  rw [endRun_plain, hq]
  rfl

/-- A stage that starts leaves the state of every context. -/
theorem startStage_state (s : State) (c x : CtxId) (st : Nat) : ((startStage s c st).ctx x).state = (s.ctx x).state := by
  by_cases h : x = c
  · subst h; simp [startStage, State.onFrame]
  · rw [startStage_ne s st h]

end Sys2Proof.Machine

open Sys2Proof Sys2Proof.Machine

/-- Settles O14: the end of a clean run is the commit of its writes and the mark at the head; without a job the row is the
check of the head. -/
theorem engineRowsRunTheHeadOnly : Obligations.EngineRowsRunTheHeadOnly := by
  unfold Obligations.EngineRowsRunTheHeadOnly
  refine ⟨fun c r s j hc hj hflt hpair hfact hbad hlink => ?_, fun c r s hc => ⟨fun hj hh => ?_, fun e code hh he hx hs => ?_⟩⟩
  · have hq : j.q = r.queue := (job_spec hj).2.1
    obtain ⟨n, m, hend⟩ := endRun_ok (resid := r.resid) hflt hpair hfact hbad hlink
    rw [exec_engine hc, EngineRow.run_some hj, hend, hq, show (fun e : QEntry => { e with executed := true, sum := n, cnt := m }) =
      executedAs n m from rfl]
    set after := (r.body (r.start s j) j).after
    set ws := (r.body (r.start s j) j).writes
    obtain ⟨t, ht, hk, hqt⟩ := finish_keeps (old := s) (State.keeps_trans (l := [.mem, .bad, .lineOwner, .cores, .parts])
      (State.keeps_mono (commitRun_keeps after j.who ws) (by simp)) (State.keeps_mono (onHead_keeps _ r.queue (executedAs n m)) (by simp)))
    have hmem : t.mem = (commitRun after j.who ws).mem := hqt.mem.trans (onHead_keeps _ r.queue (executedAs n m) .mem (by simp))
    refine ⟨t, ht, ?_, fun e he => ?_, hmem, fun a ha => ?_, fun q hne => ?_, hk .ctxs (by simp), hk .pending (by simp)⟩
    · rw [hqt.queue, onHead_descriptors _ _ (executedAs n m) fun _ => rfl, commitRun_queue]
    · rw [hqt.queue] at he
      obtain ⟨x, rfl⟩ := onHead_head he
      rfl
    · rw [hmem]
      exact commit_elsewhere _ _ _ ha
    · rw [hqt.queue, onHead_queue_ne _ _ hne, commitRun_queue]
  · obtain ⟨t, ht, hq⟩ := exec_engine_idle hc hj hh
    exact ⟨t, ht, hq.1⟩
  · rw [exec_engine hc, EngineRow.run, runJob_none _ _ _ (job_none_of_headFault _ hh)]
    obtain ⟨t, ht, h⟩ := finish_headCheck_fault (old := s) hh he hx hs
    exact ⟨t, ht, h.state, h.stop, h.others, h.queues, h.mem⟩

/-- Settles O12: the run of a NOP or a FENCE writes nothing, and one whose acknowledgements are missing is not started. -/
theorem nopAndFenceOnlyExecuteTheHead : Obligations.NopAndFenceOnlyExecuteTheHead := by
  unfold Obligations.NopAndFenceOnlyExecuteTheHead
  intro s q j c
  refine ⟨fun h => ?_, fun hf => ?_⟩
  · have hexec : (∃ ok, s.job q ok = some j) ∧ exec c s = finish s ((plainAfter (plainStart s j) q).onHead q (executedAs 0 0)) := by
      rcases h with ⟨rfl, hj⟩ | ⟨rfl, hj, hf⟩
      · exact ⟨⟨_, hj⟩, by rw [exec_nop, runJob_plain hj]⟩
      · exact ⟨⟨_, hj⟩, by rw [exec_fence, if_pos hf, runJob_plain hj]⟩
    obtain ⟨⟨ok, hj⟩, hexec⟩ := hexec
    have hstart := plainStart_keeps s j
    have hpl := plainAfter_keeps (plainStart s j) q
    obtain ⟨t, ht, hk, hq⟩ := finish_keeps (old := s) (State.keeps_trans (l := [.cores, .parts, .ctxs, .bad])
      (State.keeps_trans (State.keeps_mono hstart (by simp)) (State.keeps_mono hpl (by simp)))
      (State.keeps_mono (onHead_keeps _ q (executedAs 0 0)) (by simp)))
    have hctxs : t.ctxs = (startStage s j.who.ctx j.h.stage).ctxs :=
      ((hq.1 .ctxs (by simp)).trans (onHead_keeps _ q _ .ctxs (by simp))).trans (hpl .ctxs (by simp))
    have hctx : ∀ x, t.ctx x = (startStage s j.who.ctx j.h.stage).ctx x := fun x => congrArg (·.get x) hctxs
    have hqueue : ∀ q', (plainAfter (plainStart s j) q).queue q' = s.queue q' := fun q' => plainAfter_queue _ q q'
    have hparts : (plainAfter (plainStart s j) q).parts = (plainAfter s q).parts :=
      (hpl .parts (by simp)).trans (plainAfter_keeps s q .parts (by simp)).symm
    have hcong := onHead_congr (plainAfter_congr (s := s) (t := plainStart s j) rfl rfl q) hparts q
      (executedAs 0 0)
    refine ⟨t, hexec.trans ht, ⟨(hq.1 .cores (by simp)).trans hcong.1, (hq.1 .parts (by simp)).trans hcong.2⟩, hctxs, ?_, ?_,
      fun q' hne => ?_, fun x => by rw [hctx, startStage_state], fun x hx => by rw [hctx, startStage_ne _ _ hx], hk⟩
    · exact ((hq.1 .bad (by simp)).trans (onHead_keeps _ q _ .bad (by simp))).trans (hpl .bad (by simp))
    · rw [hq.queue, onHead_entries _ _ _ ((congrArg QueueRt.entries (hqueue q)).trans (job_spec hj).1)]
      rfl
    · rw [hq.queue, onHead_queue_ne _ _ hne, hqueue]
  · obtain ⟨t, ht, hq⟩ := finish_next s s
    exact ⟨t, by rw [exec_fence, hf]; exact ht, hq.1⟩
end

section
/-!
PROOFS. DIGEST: the bytes that a slot has been fed, the slot's close and the write of its digest (R73, R74).
-/

open Sys2Proof Sys2Proof.Machine

namespace Sys2Proof.Machine

/-! ### SHA-256 -/

theorem be_length (n x : Nat) : (be n x).length = n := by simp [be, le]

theorem sha256_length (b : Bytes) : (sha256 b).length = 32 := by
  simp [sha256, be_length]

/-! ### Writes without uncorrectable words -/

theorem badOfWrites_of_no_bad {s : State} (h : s.bad = []) (ws : List (Nat × Bytes)) : s.badOfWrites ws = none := by
  simp [State.badOfWrites, h]

theorem pokePart_of_no_bad {s : State} (h : s.bad = []) (w : CtxId × BitVec 12) (a : Nat) (b : Bytes) :
    s.pokePart w a b = s.poke w a b := by
  simp [State.pokePart, State.whole, h]

theorem poke_no_bad {s : State} (h : s.bad = []) (w : CtxId × BitVec 12) (a : Nat) (b : Bytes) : (s.poke w a b).bad = [] := by
  simp only [State.poke]
  split
  · exact h
  · simp [h]

/-- The copy in another Ledge lies whole windows away. -/
theorem trailAt_window {s : State} {a y n : Nat} (h : s.trailAt a = some y) (hn : n ≤ 0x1000000) :
    y = a ∨ a + n ≤ y ∨ y + n ≤ a := by
  simp only [State.trailAt] at h
  split at h
  · next i hi =>
    obtain ⟨t, -, rfl⟩ := Option.map_eq_some_iff.1 h
    have ha := target_ledge_window hi
    simp only [ledgeBase]
    omega
  · cases h

/-- A write of at most one Ledge is read back beside its copy. -/
theorem commit_mirrorPair_short {s : State} {a : Nat} {b : Bytes} (w : CtxId × BitVec 12) (hb : s.bad = [])
    (hn : b.length ≤ 0x1000000) {i : Nat} (hi : i < b.length) :
    memGet 0 (s.commit w (mirrorPair s [(a, b)])).mem (a + i) = b.getD i 0 := by
  cases hy : s.trailAt a with
  | none =>
    rw [mirrorPair_of_none hy, commit_one, pokePart_of_no_bad hb]
    exact poke_in s w a b hi
  | some y =>
    rw [mirrorPair_of_some hy, show s.commit w [(a, b), (y, b)] = (s.pokePart w a b).pokePart w y b from rfl,
      pokePart_of_no_bad hb, pokePart_of_no_bad (poke_no_bad hb w a b)]
    rcases trailAt_window hy hn with rfl | hap
    · exact poke_in _ w y b hi
    · rw [poke_elsewhere _ w (by omega)]
      exact poke_in s w a b hi

/-! ### Digest slots -/

@[simp] theorem slots_setSlot_self (s : State) (c : CtxId) (n : Fin 16) (v : DigestSlot) :
    ((setSlot s c n v).ctx c).slots.get n = v := by
  simp [setSlot, State.ctx_onCtx_self]

theorem setSlot_keeps (s : State) (c : CtxId) (n : Fin 16) (v : DigestSlot) : s.keeps [.ctxs] (setSlot s c n v) :=
  State.keeps_onCtx s c _

@[simp] theorem slots_onFrame (s : State) (c x : CtxId) (f : FrameRt → FrameRt) :
    ((s.onFrame c f).ctx x).slots = (s.ctx x).slots := by
  by_cases h : x = c
  · subst h; simp [State.onFrame]
  · simp [State.onFrame, State.ctx_onCtx_ne _ _ _ _ h]

theorem slotBytes_ok {s : State} {w : Who} {q : QueueId} {n : Fin 16} {start : Bool}
    (h : ((s.ctx w.ctx).slots.get n).owner = some q ∨ ((s.ctx w.ctx).slots.get n).owner = none ∧ start = true) :
    slotBytes s w q n start = .ok (if start then [] else ((s.ctx w.ctx).slots.get n).fed) := by
  simp only [slotBytes]
  rcases h with h | ⟨h, hs⟩
  · simp [h]
  · simp [h, hs]

theorem ownAddr_ok {s : State} {w : Who} {a : AddrField} {n : Nat} (hl : s.isLocal a = true)
    (ho : s.otherLedge w a.addr n = false) : ownAddr s w a n = .ok a.addr := by
  simp [ownAddr, hl, ho]

/-- An address field of zero names DRAM of this device. -/
theorem ownAddr_zero {b : Bytes} {o : Nat} (h : fld b o 8 = 0) (s : State) (w : Who) :
    ownAddr s w (addrField b o) 32 = .ok 0 := by
  have ha : addrField b o = ⟨0, 0, false, 0⟩ := by
    unfold addrField; rw [h]; rfl
  have ho : s.otherLedge w 0 32 = false := by
    simp only [State.otherLedge, State.resolve, show target 0 = .dram 0 from rfl]
    by_cases hp : absentAt s.part 0 = true
    · simp [hp]
    · simp only [hp, Bool.false_eq_true, if_false, spanTargets]
      rfl
  rw [ha]
  exact ownAddr_ok (by simp [State.isLocal]) ho

/-- The slot of a DIGEST. -/
abbrev digestSlot (j : Job) : Fin 16 := ⟨byteAt j.p 12 % 16, Nat.mod_lt _ (by decide)⟩

/-- The mode of a DIGEST: it starts a digest, goes on with it, ends it, or does all of it (R73). -/
abbrev digestMode (j : Job) : Nat := byteAt j.p 13 % 4

/-- A part of a DIGEST reads `b` and finds its slot free or its own. -/
structure DigestReads (s : State) (j : Job) (b : Bytes) : Prop where
  own : s.isLocal (addrField j.p 0) = true
  ledge : s.otherLedge j.who (addrField j.p 0).addr (fld j.p 8 4) = false
  load : s.load j.who (addrField j.p 0).addr (fld j.p 8 4) = .ok b
  slot : ((s.ctx j.who.ctx).slots.get (digestSlot j)).owner = some j.q ∨
    ((s.ctx j.who.ctx).slots.get (digestSlot j)).owner = none ∧ (digestMode j = 0 ∨ digestMode j = 3)

/-- The bytes of a slot after a part of `b`. -/
def digestFed (s : State) (j : Job) (b : Bytes) : Bytes :=
  (if digestMode j = 0 ∨ digestMode j = 3 then [] else ((s.ctx j.who.ctx).slots.get (digestSlot j)).fed) ++ b

theorem slotBytes_of_reads {s : State} {j : Job} {b : Bytes} (h : DigestReads s j b) :
    slotBytes s j.who j.q (digestSlot j) (decide (digestMode j = 0) || decide (digestMode j = 3)) =
      .ok (if digestMode j = 0 ∨ digestMode j = 3 then [] else ((s.ctx j.who.ctx).slots.get (digestSlot j)).fed) := by
  rw [slotBytes_ok (by simpa using h.slot)]
  simp

/-- What a part that does not end its digest leaves. -/
def digestPart (s : State) (j : Job) (b : Bytes) : State :=
  setSlot s j.who.ctx (digestSlot j)
    { owner := some j.q, fed := digestFed s j b, value := ((s.ctx j.who.ctx).slots.get (digestSlot j)).value }

/-- A part that does not end its digest feeds the slot and writes nothing. -/
theorem digestRun_part {s : State} {j : Job} {b : Bytes} (h : DigestReads s j b) (hm : digestMode j < 2) :
    digestRun s j = .ok { after := digestPart s j b } := by
  have hs := slotBytes_of_reads h
  simp only [digestRun, hs, ownAddr_ok h.own h.ledge, h.load, bind, Except.bind, hm, if_true]
  rfl

/-- What the last part of a digest leaves beside its write. -/
def digestClosed (s : State) (j : Job) (dg : Bytes) : State :=
  let st := setSlot s j.who.ctx (digestSlot j) { owner := none, fed := [], value := dg }
  if byteAt j.p 24 = 1 then st.onFrame j.who.ctx fun f => { f with outDigest := some dg } else st

theorem digestClosed_keeps (s : State) (j : Job) (dg : Bytes) : s.keeps [.ctxs] (digestClosed s j dg) := by
  simp only [digestClosed]
  split
  · exact State.keeps_trans (setSlot_keeps _ _ _ _) (State.keeps_onCtx _ _ _)
  · exact setSlot_keeps _ _ _ _

theorem digestClosed_slot (s : State) (j : Job) (dg : Bytes) :
    ((digestClosed s j dg).ctx j.who.ctx).slots.get (digestSlot j) = { owner := none, fed := [], value := dg } := by
  simp only [digestClosed]
  split <;> simp

/-- The last part closes its slot and writes the digest where it has a destination. -/
theorem digestRun_last {s : State} {j : Job} {b : Bytes} {dst : Nat} {ws : List (Nat × Bytes)} (h : DigestReads s j b)
    (hm : 2 ≤ digestMode j) (hd : ownAddr s j.who (addrField j.p 16) 32 = .ok dst)
    (hw : s.checkWrites j.who (if fld j.p 16 8 = 0 then [] else [(dst, sha256 (digestFed s j b))]) = .ok ws) :
    digestRun s j = .ok { writes := ws, after := digestClosed s j (sha256 (digestFed s j b)), cut := some s } := by
  have hs := slotBytes_of_reads h
  have hm' : ¬ digestMode j < 2 := by omega
  simp only [digestFed] at hw ⊢
  simp only [digestRun, hs, ownAddr_ok h.own h.ledge, h.load, bind, Except.bind, hm', if_false, hd, hw]
  rfl

/-! ### The command -/

theorem plainStart_eq {s : State} (j : Job) (h : s.bad = []) : plainStart s j = startStage s j.who.ctx j.h.stage := by
  have hb : (startStage s j.who.ctx j.h.stage).bad = s.bad.dedup := by rw [h]; exact h
  rw [plainStart, ← hb]

/-- A DIGEST whose run is `o` and meets no fault: its writes take effect after its own state. -/
theorem exec_digest_ok {s : State} {i : CoreId} {j : Job} {o : Out} (hj : s.job (.core i .mq) (· = 0x11) = some j)
    (hb : s.bad = []) (ho : digestRun (startStage s j.who.ctx j.h.stage) j = .ok o) (hf : o.flt = none) :
    ∃ t, exec (.digest i {}) s = .next t ∧ t.ctxs = o.after.ctxs ∧ t.mem = (commitRun o.after j.who o.writes).mem := by
  set r : EngineRow := ⟨.core i .mq, 0x11, {}, none, fun s j => engOut s (digestRun s j)⟩ with hr
  have hst : r.start s j = startStage s j.who.ctx j.h.stage := plainStart_eq j hb
  have hbody : r.body (startStage s j.who.ctx j.h.stage) j = o := by
    rw [hr]
    simp only [ho, engOut]
  obtain ⟨n, m, hend⟩ := endRun_ok (s := startStage s j.who.ctx j.h.stage) (f := {}) (j := j) (resid := none) hf rfl rfl
    (badOfWrites_of_no_bad hb _) rfl
  obtain ⟨t, ht, hq⟩ := finish_next s ((commitRun o.after j.who o.writes).onHead j.q (executedAs n m))
  have hk := onHead_keeps (commitRun o.after j.who o.writes) j.q (executedAs n m)
  refine ⟨t, ?_, (hq.1 .ctxs (by simp)).trans ((hk .ctxs (by simp)).trans (commitRun_keeps _ _ _ .ctxs (by simp))),
    hq.mem.trans (hk .mem (by simp))⟩
  rw [exec_engine (c := .digest i {}) (r := r) rfl, EngineRow.run_some hj, hst, hbody]
  exact (congrArg (finish s) hend).trans ht

end Sys2Proof.Machine

open Sys2Proof Sys2Proof.Machine

/-- Settles O17: the run of each part is written out, and its one write is read back beside its copy in the trailing core's
Ledge. -/
theorem digestOpensAndClosesItsSlot : Obligations.DigestOpensAndClosesItsSlot := by
  unfold Obligations.DigestOpensAndClosesItsSlot
  intro s i j b hj ⟨hloc, hled, hload⟩ hb n x mode fed hslot
  have hq : j.q = .core i .mq := (job_spec hj).2.1
  set s1 := startStage s j.who.ctx j.h.stage with hs1
  have hslots : (s1.ctx j.who.ctx).slots = (s.ctx j.who.ctx).slots := slots_onFrame s _ _ _
  have hreads : DigestReads s1 j b := ⟨hloc, hled, hload, by rw [hslots, hq]; exact hslot⟩
  have hfed : digestFed s1 j b = fed := by simp only [digestFed, hslots]; rfl
  have hparts (dg : Bytes) : (digestClosed s1 j dg).parts = s.parts := digestClosed_keeps s1 j dg .parts (by simp)
  refine ⟨fun hm => ?_, fun hm hz => ?_, fun y hm hz ⟨hyl, hyo, hys⟩ => ?_⟩
  · obtain ⟨t, ht, hc, hmem⟩ := exec_digest_ok hj hb (digestRun_part hreads hm) rfl
    have hctx : t.ctx j.who.ctx = _ := congrArg (·.get j.who.ctx) hc
    have hself := slots_setSlot_self s1 j.who.ctx (digestSlot j)
      { owner := some j.q, fed := digestFed s1 j b, value := ((s1.ctx j.who.ctx).slots.get (digestSlot j)).value }
    refine ⟨t, ht, ?_, ?_, hmem.trans (setSlot_keeps s1 _ _ _ .mem (by simp))⟩
    · rw [hctx]; exact (congrArg DigestSlot.owner hself).trans (congrArg some hq)
    · rw [hctx, ← hfed]; exact congrArg DigestSlot.fed hself
  · obtain ⟨t, ht, hc, hmem⟩ := exec_digest_ok hj hb
      (digestRun_last hreads hm (ownAddr_zero hz _ _) (ws := []) (by rw [if_pos hz]; rfl)) rfl
    have hctx : t.ctx j.who.ctx = _ := congrArg (·.get j.who.ctx) hc
    have hself := digestClosed_slot s1 j (sha256 (digestFed s1 j b))
    refine ⟨t, ht, ?_, ?_, hmem.trans (digestClosed_keeps s1 _ _ .mem (by simp))⟩
    · rw [hctx]; exact congrArg DigestSlot.owner hself
    · rw [hctx, ← hfed]; exact congrArg DigestSlot.value hself
  · have hlen : (sha256 (digestFed s1 j b)).length = 32 := sha256_length _
    obtain ⟨t, ht, hc, hmem⟩ := exec_digest_ok hj hb
      (digestRun_last hreads hm (ownAddr_ok hyl hyo) (ws := [(y, sha256 (digestFed s1 j b))])
        (by rw [if_neg hz]; simp only [State.checkWrites, hlen, ← hs1, hys])) rfl
    have hctx : t.ctx j.who.ctx = _ := congrArg (·.get j.who.ctx) hc
    have hself := digestClosed_slot s1 j (sha256 (digestFed s1 j b))
    have hbad : (digestClosed s1 j (sha256 (digestFed s1 j b))).bad = [] :=
      (digestClosed_keeps s1 _ _ .bad (by simp)).trans hb
    rw [hfed] at hlen hmem hself hctx hbad
    refine ⟨t, ht, ?_, ?_, fun k hk => ?_, fun a ha => ?_⟩
    · rw [hctx]; exact congrArg DigestSlot.owner hself
    · rw [hctx]; exact congrArg DigestSlot.value hself
    · rw [hmem]
      exact commit_mirrorPair_short _ hbad (by omega) (by omega)
    · rw [hmem]
      exact (commit_elsewhere _ _ _ (by rwa [mirrorPair_congr (hparts _)])).trans
        (congrArg (fun m => memGet 0 m a) (digestClosed_keeps s1 j _ .mem (by simp)))
end

section
/-!
PROOFS. The feeder: a descriptor that the checks of R52 pass joins its queue, and one with a wrong CRC faults its context
(R47, R48, R52, R450).
-/

open Sys2Proof Sys2Proof.Machine

namespace Sys2Proof.Machine

theorem exec_descriptorAccept (q : QueueId) (c : CtxId) (o : Fin 4) (raw : Option Bytes) (s : State) :
    exec (.descriptorAccept q c o raw) s = finish s (feed s q c o raw) := rfl

/-! ### Tables -/

theorem tabGet_tabPut_self {κ α : Type} [DecidableEq κ] (d : α) (l : List (κ × α)) (k : κ) (v : α) :
    tabGet d (tabPut l k v) k = v := by
  simp [tabGet, tabPut]

theorem keeps_onFrame (s : State) (c : CtxId) (f : FrameRt → FrameRt) : s.keeps [.ctxs] (s.onFrame c f) :=
  State.keeps_onCtx s c _

/-! ### What a list's place and a queue's entries leave -/

theorem advance_keeps (s : State) (c : CtxId) (l : ListCfg) : s.keeps [.ctxs] (advance s c l) := keeps_onFrame s c _

theorem advance_queue (s : State) (c : CtxId) (l : ListCfg) (q : QueueId) : (advance s c l).queue q = s.queue q :=
  keeps_queue (advance_keeps s c l) (by simp) (by simp) q

theorem advance_ctx (s : State) (c : CtxId) (l : ListCfg) :
    (advance s c l).ctx c = { s.ctx c with frame := { (s.ctx c).frame with
      fed := tabPut (s.ctx c).frame.fed (BitVec.ofNat 16 l.index) (s.fedOf c l + 1) } } :=
  State.ctx_onCtx_self _ _ _

theorem advance_ctx_ne (s : State) {c x : CtxId} (l : ListCfg) (h : x ≠ c) : (advance s c l).ctx x = s.ctx x :=
  State.ctx_onCtx_ne _ _ _ _ h

theorem fedOf_advance (s : State) (c : CtxId) (l : ListCfg) : (advance s c l).fedOf c l = s.fedOf c l + 1 := by
  simp only [State.fedOf, advance_ctx]
  exact tabGet_tabPut_self _ _ _ _

theorem bumpExpect_keeps (s : State) (q : QueueId) (c : CtxId) (o : Fin 4) : s.keeps [.cores, .parts] (bumpExpect s q c o) :=
  onQueue_keeps _ _ _

/-- The list of an entry depends on the image and on the split of the frame. -/
theorem listOf_congr {s t : State} {c : CtxId} (hi : t.img = s.img) (hf : (t.ctx c).frame.split = (s.ctx c).frame.split)
    (q : QueueId) (o : Fin 4) : t.listOf c q o = s.listOf c q o := by
  simp only [State.listOf, State.frameLists, State.lists, hi, hf]

/-- A descriptor joins the end of its queue. -/
def joins (s : State) (q : QueueId) (e : QEntry) : State := s.onQueue q fun y => { y with entries := y.entries ++ [e] }

/-- The queue after an entry whose QSEQ was expected has joined it. -/
theorem joins_queue (s : State) (q : QueueId) (c : CtxId) (o : Fin 4) (e : QEntry) :
    (joins (bumpExpect s q c o) q e).queue q = { s.queue q with
      entries := (s.queue q).entries ++ [e]
      expect := (s.queue q).expect.set c.1 (((s.queue q).expect.get c).set o.1 (((s.queue q).expect.get c).get o + 1)) } := by
  simp only [joins, bumpExpect, State.queue_onQueue_self]

theorem joins_queue_ne (s : State) {q q' : QueueId} (c : CtxId) (o : Fin 4) (e : QEntry) (h : q' ≠ q) :
    (joins (bumpExpect s q c o) q e).queue q' = s.queue q' := by
  simp only [joins, bumpExpect, State.queue_onQueue_ne _ _ _ _ h]

theorem joins_keeps (s : State) (q : QueueId) (c : CtxId) (o : Fin 4) (e : QEntry) :
    s.keeps [.cores, .parts] (joins (bumpExpect s q c o) q e) :=
  State.keeps_trans (bumpExpect_keeps s q c o) (onQueue_keeps _ _ _)

/-! ### The checks -/

/-- A head whose stage is not before the last one and whose golden order holds passes its check (R44, R45). -/
theorem headFault_none {s : State} {q : QueueId} {e : QEntry} {r : List QEntry} (he : (s.queue q).entries = e :: r)
    (hst : (((s.queue q).lastStage.get e.ctx).get e.origin).toNat ≤ (hdrOf e.bytes).stage)
    (hg : (hdrOf e.bytes).golden = true ∨ ∀ l, s.listOf e.ctx q e.origin = some l →
      l.ngold (hdrOf e.bytes).stage ≤ goldCount (s.queue q) e.ctx e.origin (hdrOf e.bytes).stage) : s.headFault q = none := by
  simp only [State.headFault, he]
  split
  · rfl
  · rw [if_neg (by omega), if_neg]
    rcases hg with hg | hg
    · simp [hg]
    · cases hl : s.listOf e.ctx q e.origin with
      | none => simp
      | some l => simpa [hl] using fun _ => hg l hl

/-- Bytes that the checks of R52 pass join the queue; the first of a queue is checked as its head. -/
theorem acceptBytes_ok {s : State} {q : QueueId} {c : CtxId} {o : Fin 4} {b : Bytes} (hcrc : descCrc b = (hdrOf b).crc)
    (hctx : (hdrOf b).ctx = c) (hgen : (hdrOf b).gen = (s.ctx c).gen)
    (hseq : (hdrOf b).qseq = ((s.queue q).expect.get c).get o)
    (h4 : check4 (bumpExpect s q c o) q c o (hdrOf b) (b.drop 16) = none)
    (hb : beadsOk (bumpExpect s q c o) q c (hdrOf b) = true)
    (hr : payloadRange (bumpExpect s q c o) { ctx := c, gen := (hdrOf b).gen, part := qPart q, core := qCore? q, src := srcQueue q
                                              detail := descDetail q (hdrOf b) o } (hdrOf b).opcode (b.drop 16) = .ok ())
    (hh : (s.queue q).entries = [] → (joins (bumpExpect s q c o) q ⟨b, c, o, false, false, 0, 0⟩).headFault q = none) :
    acceptBytes s q c o b = joins (bumpExpect s q c o) q ⟨b, c, o, false, false, 0, 0⟩ := by
  have hown : ¬((hdrOf b).ctx ≠ c ∨ (hdrOf b).gen ≠ (s.ctx c).gen) := by simp [hctx, hgen]
  simp only [acceptBytes, hcrc, if_neg hown, hseq, h4, hb, hr, ne_eq, not_true_eq_false, if_false, Bool.not_true,
    Bool.false_eq_true]
  split
  · next he => exact headCheck_ok (hh (List.isEmpty_iff.1 he))
  · rfl

/-- Bytes whose CRC is wrong fault the context of the list. -/
theorem acceptBytes_crc {s : State} {q : QueueId} {c : CtxId} {o : Fin 4} {b : Bytes} (h : descCrc b ≠ (hdrOf b).crc) :
    acceptBytes s q c o b = raiseFlt s { src := srcQueue q, code := cDescCrc, detail := descDetail q (hdrOf b) o }
      (some (s.cg c)) := by
  simp only [acceptBytes, if_pos h]
  rfl

/-- What may be fed at all. -/
theorem canFeed_run {s : State} {q : QueueId} {c : CtxId} (h : s.canFeed q c = true) : (s.ctx c).state = .run := by
  simp only [State.canFeed, Bool.and_eq_true, decide_eq_true_eq] at h
  exact h.1.1.1.1.1

theorem feed_next {s : State} {q : QueueId} {c : CtxId} {l : ListCfg} (h : s.canFeed q c = true) (hl : s.nextList q c = some l)
    (hd : (s.listDesc c l (s.fedOf c l)).2 = none) :
    feed s q c l.origin none =
      acceptBytes (advance s c l) q c l.origin (withGen (s.listDesc c l (s.fedOf c l)).1 (s.ctx c).gen) := by
  simp only [feed, h, hl, feedNext, hd]
  simp

theorem slice_whole {b : Bytes} {n : Nat} (h : b.length = n) : slice b 0 n = b := by
  simp [slice, ← h]

/-- Bytes that arrive in place of the next descriptor are accepted as they are; the list they stand for moves on. -/
theorem feed_raw {s : State} {q : QueueId} {c : CtxId} (o : Fin 4) {b : Bytes} (h : s.canFeed q c = true) (hb : b.length = 64) :
    ∃ u, feed s q c o (some b) = acceptBytes u q c o b ∧ (u = s ∨ ∃ l, u = advance s c l) := by
  simp only [feed, h, Bool.not_true, Bool.false_eq_true, if_false]
  cases s.nextList q c with
  | none => exact ⟨s, by simp [slice_whole hb], .inl rfl⟩
  | some l =>
    by_cases ho : l.origin = o
    · exact ⟨advance s c l, by simp [ho, slice_whole hb], .inr ⟨l, rfl⟩⟩
    · exact ⟨s, by simp [ho, slice_whole hb], .inl rfl⟩

end Sys2Proof.Machine

open Sys2Proof Sys2Proof.Machine

/-- Settles O10: the checks passed, the entry joins the queue behind the moved place of its list; a wrong CRC is a fault of the
context of the list. -/
theorem descriptorsJoinTheirQueueOrFault : Obligations.DescriptorsJoinTheirQueueOrFault := by
  unfold Obligations.DescriptorsJoinTheirQueueOrFault
  refine ⟨?_, ?_⟩
  · rintro s q c o l hcan hnext rfl hdesc ⟨hcrc, hctx, hgen, hseq, h4, hbeads, hrange, hhead⟩ hlist
    set b := withGen (s.listDesc c l (s.fedOf c l)).1 (s.ctx c).gen
    set e : QEntry := ⟨b, c, l.origin, false, false, 0, 0⟩
    set u := joins (bumpExpect (advance s c l) q c l.origin) q e
    have hq : u.queue q = _ := joins_queue (advance s c l) q c l.origin e
    rw [advance_queue] at hq
    have hkeep : (advance s c l).keeps [.cores, .parts] u := joins_keeps _ _ _ _ _
    have hctxu : u.ctx c = (advance s c l).ctx c := congrArg (·.get c) (hkeep .ctxs (by simp))
    have hlist' : u.listOf c q l.origin = s.listOf c q l.origin :=
      listOf_congr ((hkeep .img (by simp) : u.img = (advance s c l).img).trans (advance_keeps s c l .img (by simp))) (by rw [hctxu, advance_ctx]) q l.origin
    have hfeed : feed s q c l.origin none = u := by
      rw [feed_next hcan hnext hdesc]
      refine acceptBytes_ok hcrc hctx (by rw [hgen, advance_ctx]) (by rw [hseq, advance_queue]) h4 hbeads hrange fun hnil => ?_
      rw [advance_queue] at hnil
      obtain ⟨hstage, hgold⟩ := hhead.resolve_left (absurd hnil)
      refine headFault_none (e := e) (r := []) ?_ ?_ ?_
      · exact (congrArg QueueRt.entries hq).trans (by simp [hnil])
      · exact (congrArg (fun x : QueueRt => ((x.lastStage.get c).get l.origin).toNat) hq).trans_le hstage
      · refine hgold.imp id fun hg m hm => ?_
        have hml : l = m := Option.some.inj (hlist.symm.trans (hlist'.symm.trans hm))
        subst hml
        exact hg.trans_eq (congrArg (fun x : QueueRt => goldCount x c l.origin (hdrOf b).stage) hq).symm
    obtain ⟨t, ht, hk, hqt⟩ := finish_keeps (old := s) (State.keeps_trans (l := [.cores, .parts, .ctxs])
      (State.keeps_mono (advance_keeps s c l) (by simp)) (State.keeps_mono hkeep (by simp)))
    refine ⟨t, by rw [exec_descriptorAccept, hfeed, ht], ?_, ?_, ?_, fun q' hne => ?_, hk⟩
    · rw [hqt.queue, hq]
    · rw [hqt.queue, hq]
      simp
    · rw [← fedOf_advance]
      simp only [State.fedOf, hqt.ctx, hctxu]
    · rw [hqt.queue, joins_queue_ne _ _ _ _ hne, advance_queue]
  · intro s q c o b hcan hexp hlen hcrc
    obtain ⟨u, hfeed, hu⟩ := feed_raw o hcan hlen
    have hrun := canFeed_run hcan
    have hkeep : s.keeps [.ctxs] u ∧ (u.ctx c).state = .run ∧ ∀ x, x ≠ c → u.ctx x = s.ctx x := by
      rcases hu with rfl | ⟨l, rfl⟩
      · exact ⟨State.keeps_refl _ _, hrun, fun _ _ => rfl⟩
      · exact ⟨advance_keeps s c l, by rw [advance_ctx]; exact hrun, fun x hx => advance_ctx_ne s l hx⟩
    obtain ⟨hk, hst, hne⟩ := hkeep
    have hexp' : u.err.expect = false := (congrArg ErrRegs.expect (hk .err (by simp)) : _).trans hexp
    obtain ⟨t, ht, htorn⟩ := finish_raiseFlt s u
      { src := srcQueue q, code := cDescCrc, detail := descDetail q (hdrOf b) o } c
      (Flt.ofCtx_of_code (by decide) (by decide)) hexp' (.inl hst)
    refine ⟨t, by rw [exec_descriptorAccept, hfeed, acceptBytes_crc hcrc, ht], htorn.state, htorn.stop, htorn.inFlight,
      htorn.queues, fun x hx => (htorn.others x hx).trans (hne x hx), htorn.mem.trans (hk .mem (by simp))⟩
end

section
/-!
PROOFS. Completion: the entry leaves its queue, its signal reaches a bead, a ring peer or a dead link (R18, R29, R32, R57, R415).
-/

open Sys2Proof Sys2Proof.Machine

namespace Sys2Proof.Machine

theorem exec_descriptorComplete (k : Completion) (s : State) : exec (.descriptorComplete k) s = finish s (complete s k.q k.diff) :=
  rfl

theorem exec_beadSignal (c : CtxId) (g : BitVec 12) (p : PartId) (b : BitVec 12) (n : BitVec 4) (s : State) :
    exec (.beadSignal c g p b n) s = finish s (poolSignal s c g p b.toNat n.toNat) := rfl

theorem ringSend_keeps (s : State) (d : BitVec 2) (t : RingOut) : s.keeps [] (ringSend s d t) := portPass_keeps _ _ _ _ _

/-! ### The signal on this device (R57) -/

/-- The head's signal stays on this device and reaches a partition that runs. -/
def State.signalHere (s : State) (h : Hdr) : Prop :=
  (h.sigRing = false ∨ h.sigDev = s.rng.id.toNat) ∧ s.inReset h.sigPart = false

theorem signalsPeer_of_here {s : State} {h : Hdr} (hs : s.signalHere h) : s.signalsPeer h = false := by
  rcases hs.1 with hr | hd
  · simp [State.signalsPeer, hr]
  · simp [State.signalsPeer, hd]

/-- A signal that stays here adds its increment to its bead. -/
theorem signalBead_here {s : State} (e : QEntry) {h : Hdr} (hs : s.signalHere h) :
    signalBead s e h = s ∧ h.sigInc = 0 ∨ signalBead s e h = s.addBead h.sigPart h.sigIdx h.sigInc := by
  by_cases hz : h.sigInc = 0
  · exact .inl ⟨by simp [signalBead, hz], hz⟩
  · exact .inr (by simp [signalBead, hz, signalsPeer_of_here hs, hs.2])

theorem signalBead_bead {s : State} (e : QEntry) {h : Hdr} (hs : s.signalHere h) :
    (signalBead s e h).bead h.sigPart h.sigIdx = s.bead h.sigPart h.sigIdx + BitVec.ofNat 32 h.sigInc ∧
      ∀ p i, (p, i) ≠ (h.sigPart, h.sigIdx) → (signalBead s e h).bead p i = s.bead p i := by
  rcases signalBead_here e hs with ⟨h1, hz⟩ | h1 <;> rw [h1]
  · exact ⟨by simp [hz], fun _ _ _ => rfl⟩
  · exact ⟨bead_addBead_self .., fun p i hne => bead_addBead_ne _ _ hne⟩

theorem signalBead_keeps {s : State} (e : QEntry) {h : Hdr} (hs : s.signalHere h) : s.keeps [.parts] (signalBead s e h) := by
  rcases signalBead_here e hs with ⟨h1, -⟩ | h1 <;> rw [h1]
  · exact s.keeps_refl _
  · exact addBead_keeps _ _ _ _

theorem signalBead_queue {s : State} (e : QEntry) {h : Hdr} (hs : s.signalHere h) (q : QueueId) :
    (signalBead s e h).queue q = s.queue q := by
  rcases signalBead_here e hs with ⟨h1, -⟩ | h1 <;> rw [h1]
  exact queue_addBead _ _ _ _ _

/-! ### The accounts of a completion (R42, R45) -/

/-- Counting a golden descriptor, where it is one. -/
def goldenCounted (h : Hdr) (e : QEntry) (x : QueueRt) : QueueRt :=
  if h.golden then
    { x with golden := tabPut x.golden (e.ctx, e.origin, h.stage) (goldCount x e.ctx e.origin h.stage + 1) }
  else x

theorem goldenCounted_entries (h : Hdr) (e : QEntry) (x : QueueRt) : (goldenCounted h e x).entries = x.entries := by
  unfold goldenCounted; split <;> rfl

theorem endInQueue_keeps (s : State) (c : CtxId) (st : Nat) (q : QueueId) : s.keeps [.ctxs] (endInQueue s c st q) := by
  unfold endInQueue
  simp only
  split
  · exact s.keeps_refl _
  · exact keeps_onFrame _ _ _

/-- The golden counts of a completed descriptor: its queue's and its frame's. -/
def goldAccount (s : State) (q : QueueId) (e : QEntry) (h : Hdr) : State :=
  if h.golden then
    (s.onQueue q fun x => { x with
      golden := tabPut x.golden (e.ctx, e.origin, h.stage) (goldCount x e.ctx e.origin h.stage + 1) }).onFrame e.ctx
        fun f => { f with goldDone := f.goldDone + 1 }
  else s

theorem account_eq (s : State) (q : QueueId) (e : QEntry) (h : Hdr) : account s q e h =
    if h.stageEnd then endInQueue (goldAccount s q e h) e.ctx h.stage (slotQueue q e.origin) else goldAccount s q e h := rfl

theorem goldAccount_keeps (s : State) (q : QueueId) (e : QEntry) (h : Hdr) :
    s.keeps [.cores, .parts, .ctxs] (goldAccount s q e h) := by
  unfold goldAccount
  split
  · exact State.keeps_trans (State.keeps_mono (onQueue_keeps _ _ _) (by simp)) (State.keeps_mono (keeps_onFrame _ _ _) (by simp))
  · exact s.keeps_refl _

theorem account_keeps (s : State) (q : QueueId) (e : QEntry) (h : Hdr) : s.keeps [.cores, .parts, .ctxs] (account s q e h) := by
  rw [account_eq]
  split
  · exact State.keeps_trans (goldAccount_keeps s q e h) (State.keeps_mono (endInQueue_keeps _ _ _ _) (by simp))
  · exact goldAccount_keeps s q e h

theorem goldAccount_queue (s : State) (q : QueueId) (e : QEntry) (h : Hdr) :
    (goldAccount s q e h).queue q = goldenCounted h e (s.queue q) ∧ ∀ q', q' ≠ q → (goldAccount s q e h).queue q' = s.queue q' := by
  unfold goldAccount goldenCounted
  split
  · exact ⟨(State.queue_onCtx _ _ _ _).trans (State.queue_onQueue_self _ _ _), fun q' hne =>
      (State.queue_onCtx _ _ _ _).trans (State.queue_onQueue_ne _ _ _ _ hne)⟩
  · exact ⟨rfl, fun _ _ => rfl⟩

theorem account_queue (s : State) (q : QueueId) (e : QEntry) (h : Hdr) :
    (account s q e h).queue q = goldenCounted h e (s.queue q) ∧ ∀ q', q' ≠ q → (account s q e h).queue q' = s.queue q' := by
  have hk (q') : (endInQueue (goldAccount s q e h) e.ctx h.stage (slotQueue q e.origin)).queue q' = (goldAccount s q e h).queue q' :=
    keeps_queue (endInQueue_keeps _ _ _ _) (by simp) (by simp) q'
  rw [account_eq]
  split
  · exact ⟨(hk q).trans (goldAccount_queue s q e h).1, fun q' hne => (hk q').trans ((goldAccount_queue s q e h).2 q' hne)⟩
  · exact goldAccount_queue s q e h

theorem account_bead (s : State) (q : QueueId) (e : QEntry) (h : Hdr) (p : PartId) (i : Nat) :
    (account s q e h).bead p i = s.bead p i := by
  have hg : (goldAccount s q e h).bead p i = s.bead p i := by
    unfold goldAccount
    split
    · exact (keeps_bead (keeps_onFrame _ _ _) (by simp) p i).trans (bead_onQueue _ _ _ _ _)
    · rfl
  rw [account_eq]
  split
  · exact (keeps_bead (endInQueue_keeps _ _ _ _) (by simp) p i).trans hg
  · exact hg

/-- What no account of a completion touches: the split of each frame and each latched trigger. -/
theorem onFrame_split_latched (s : State) (c x : CtxId) (f : FrameRt → FrameRt) (hf : ∀ r, (f r).split = r.split) :
    ((s.onFrame c f).ctx x).frame.split = (s.ctx x).frame.split ∧ ((s.onFrame c f).ctx x).latched = (s.ctx x).latched := by
  by_cases h : x = c
  · subst h; simp [State.onFrame, hf]
  · simp [State.onFrame, State.ctx_onCtx_ne _ _ _ _ h]

theorem account_split_latched (s : State) (q : QueueId) (e : QEntry) (h : Hdr) (x : CtxId) :
    ((account s q e h).ctx x).frame.split = (s.ctx x).frame.split ∧ ((account s q e h).ctx x).latched = (s.ctx x).latched := by
  have hg : ((goldAccount s q e h).ctx x).frame.split = (s.ctx x).frame.split ∧
      ((goldAccount s q e h).ctx x).latched = (s.ctx x).latched := by
    unfold goldAccount
    split
    · have ho : (s.onQueue q fun y => { y with
          golden := tabPut y.golden (e.ctx, e.origin, h.stage) (goldCount y e.ctx e.origin h.stage + 1) }).ctx x = s.ctx x :=
        congrArg (·.get x) (onQueue_keeps s q _ .ctxs (by simp))
      rw [← ho]
      exact onFrame_split_latched _ _ _ _ fun _ => rfl
    · exact ⟨rfl, rfl⟩
  rw [account_eq]
  split
  · rw [← hg.1, ← hg.2]
    unfold endInQueue
    simp only
    split
    · exact ⟨rfl, rfl⟩
    · exact onFrame_split_latched _ _ _ _ fun _ => rfl
  · exact hg

/-! ### The end of the head -/

theorem popHead_queue_self (s : State) (q : QueueId) (e : QEntry) (h : Hdr) : (popHead s q e h).queue q = { s.queue q with
    entries := (s.queue q).entries.tail
    lastStage := (s.queue q).lastStage.set e.ctx.1 (((s.queue q).lastStage.get e.ctx).set e.origin.1 (BitVec.ofNat 5 h.stage)) } :=
  State.queue_onQueue_self _ _ _

theorem popHead_queue_ne (s : State) {q q' : QueueId} (e : QEntry) (h : Hdr) (hne : q' ≠ q) :
    (popHead s q e h).queue q' = s.queue q' := State.queue_onQueue_ne _ _ _ _ hne

theorem popHead_keeps (s : State) (q : QueueId) (e : QEntry) (h : Hdr) : s.keeps [.cores, .parts] (popHead s q e h) :=
  onQueue_keeps _ _ _

/-- The check of a head reads its queue, the image and the splits of the frames. -/
theorem headFault_congr {s t : State} {q : QueueId} (hq : t.queue q = s.queue q) (hi : t.img = s.img)
    (hf : ∀ c, (t.ctx c).frame.split = (s.ctx c).frame.split) : t.headFault q = s.headFault q := by
  simp only [State.headFault, hq, listOf_congr hi (hf _)]

theorem lksComplete_keeps (s : State) (c : CtxId) (m : LksMsg) : s.keeps [.lks] (lksComplete s c m) := by
  unfold lksComplete
  have hl : ∀ i g, s.keeps [.lks] (s.onLks i g) := fun i g k hk => by cases k <;> first | rfl | simp at hk
  split
  · exact s.keeps_refl _
  · simp only
    split
    · exact State.keeps_trans (hl _ _) (State.keeps_mono (ringSend_keeps _ _ _) (by simp))
    · exact hl _ _

/-- While a descriptor of the frame stands in a queue the frame is not done. -/
theorem frameDone_of_entry {s : State} {q : QueueId} {e : QEntry} (h : e ∈ (s.queue q).entries) : s.frameDone e.ctx = false := by
  simp only [State.frameDone, Bool.and_eq_false_iff, Bool.not_eq_false']
  exact .inr (List.any_eq_true.2 ⟨q, mem_allQueues q, List.any_eq_true.2 ⟨e, h, by simp⟩⟩)

/-- A frame that no latched trigger follows ends in its own record at most. -/
theorem frameEnd_keeps {s : State} {c : CtxId} (h : (s.ctx c).latched = none ∨ s.frameDone c = false) :
    s.keeps [.ctxs] (frameEnd s c) := by
  unfold frameEnd
  simp only
  split
  · next hd =>
    simp only [Bool.and_eq_true] at hd
    rcases h with h | h
    · rw [h]; exact keeps_onFrame _ _ _
    · simp [h] at hd
  · exact s.keeps_refl _

/-- The state in which a descriptor's completion has been told to its lock-step partner, before it leaves its queue. -/
def completed (s : State) (q : QueueId) (e : QEntry) : State :=
  let h := hdrOf e.bytes
  let u := account (signalBead s e h) q e h
  lksComplete u e.ctx ((u.ctx e.ctx).frame.tTrigger, lksKey q e.origin, h.qseq, lksSig e h)

theorem complete_here {s : State} {q : QueueId} {e : QEntry} {r : List QEntry} {diff : Option (Fin 4 × BitVec 12)}
    (he : (s.queue q).entries = e :: r) (hx : e.executed = true) (ha : s.awaitsPeer q e (hdrOf e.bytes) = false)
    (hs : e.sent = true ∨ signalStop s q e (hdrOf e.bytes) diff = none) (hh : s.signalHere (hdrOf e.bytes)) :
    complete s q diff = frameEnd (headCheck (popHead (completed s q e) q e (hdrOf e.bytes)) q) e.ctx := by
  have hstop : (if e.sent then none else signalStop s q e (hdrOf e.bytes) diff) = none := by
    rcases hs with hs | hs <;> simp [hs]
  simp only [complete, he, hx, ha, Bool.not_true, Bool.or_self, Bool.false_eq_true, if_false, hstop, signalsPeer_of_here hh,
    Bool.false_and]
  rfl

theorem completed_bead (s : State) (q : QueueId) (e : QEntry) (p : PartId) (i : Nat) :
    (completed s q e).bead p i = (signalBead s e (hdrOf e.bytes)).bead p i :=
  (keeps_bead (lksComplete_keeps _ _ _) (by simp) p i).trans (account_bead _ q e _ p i)

section
variable {s : State} {q : QueueId} {e : QEntry} (hh : s.signalHere (hdrOf e.bytes))
include hh

theorem completed_keeps : s.keeps [.cores, .parts, .ctxs, .lks] (completed s q e) :=
  State.keeps_trans (State.keeps_trans (State.keeps_mono (signalBead_keeps e hh) (by simp))
    (State.keeps_mono (account_keeps _ q e _) (by simp))) (State.keeps_mono (lksComplete_keeps _ _ _) (by simp))

theorem completed_queue : (completed s q e).queue q = goldenCounted (hdrOf e.bytes) e (s.queue q) ∧
    ∀ q', q' ≠ q → (completed s q e).queue q' = s.queue q' := by
  have hl (q') : (completed s q e).queue q' = (account (signalBead s e (hdrOf e.bytes)) q e (hdrOf e.bytes)).queue q' :=
    keeps_queue (lksComplete_keeps _ _ _) (by simp) (by simp) q'
  obtain ⟨h1, h2⟩ := account_queue (signalBead s e (hdrOf e.bytes)) q e (hdrOf e.bytes)
  exact ⟨by rw [hl, h1, signalBead_queue e hh], fun q' hne => by rw [hl, h2 q' hne, signalBead_queue e hh]⟩

theorem completed_split_latched (x : CtxId) : ((completed s q e).ctx x).frame.split = (s.ctx x).frame.split ∧
    ((completed s q e).ctx x).latched = (s.ctx x).latched := by
  have hl : (completed s q e).ctx x = (account (signalBead s e (hdrOf e.bytes)) q e (hdrOf e.bytes)).ctx x :=
    congrArg (·.get x) (lksComplete_keeps _ _ _ .ctxs (by simp))
  have hs : (signalBead s e (hdrOf e.bytes)).ctx x = s.ctx x := congrArg (·.get x) (signalBead_keeps e hh .ctxs (by simp))
  rw [hl, ← hs]
  exact account_split_latched _ _ _ _ _

/-- The next head passes its check after the completion as it does in the accounts alone. -/
theorem completed_headFault (h : (popHead (account s q e (hdrOf e.bytes)) q e (hdrOf e.bytes)).headFault q = none) :
    (popHead (completed s q e) q e (hdrOf e.bytes)).headFault q = none := by
  rw [← h]
  refine headFault_congr ?_ ?_ fun c => ?_
  · rw [popHead_queue_self, popHead_queue_self, (completed_queue hh).1, (account_queue s q e _).1]
  · exact ((popHead_keeps _ q e _ .img (by simp)).trans (completed_keeps hh .img (by simp))).trans
      ((popHead_keeps _ q e _ .img (by simp)).trans (account_keeps s q e _ .img (by simp))).symm
  · have h1 : (popHead (completed s q e) q e (hdrOf e.bytes)).ctx c = (completed s q e).ctx c :=
      congrArg (·.get c) (popHead_keeps _ q e _ .ctxs (by simp))
    have h2 : (popHead (account s q e (hdrOf e.bytes)) q e (hdrOf e.bytes)).ctx c = (account s q e (hdrOf e.bytes)).ctx c :=
      congrArg (·.get c) (popHead_keeps _ q e _ .ctxs (by simp))
    rw [h1, h2, (completed_split_latched hh c).1, (account_split_latched s q e _ c).1]

end

/-! ### A ring peer and a dead link -/

theorem signalPeer_keeps (s : State) (q : QueueId) (e : QEntry) (h : Hdr) : s.keeps [.cores, .parts, .rng] (signalPeer s q e h) :=
  State.keeps_trans (State.keeps_trans (State.keeps_mono (ringSend_keeps _ _ _) (by simp))
    (State.keeps_mono (State.keeps_onRng _ _) (by simp))) (State.keeps_mono (onHead_keeps _ _ _) (by simp))

theorem complete_peer {s : State} {q : QueueId} {e : QEntry} {r : List QEntry} {diff : Option (Fin 4 × BitVec 12)}
    (he : (s.queue q).entries = e :: r) (hx : e.executed = true) (ha : s.awaitsPeer q e (hdrOf e.bytes) = false)
    (hp : s.signalsPeer (hdrOf e.bytes) = true) (hn : e.sent = false)
    (hs : signalStop s q e (hdrOf e.bytes) diff = none) : complete s q diff = signalPeer s q e (hdrOf e.bytes) := by
  simp only [complete, he, hx, ha, hn, hs, hp, Bool.not_true, Bool.or_self, Bool.false_eq_true, if_false, Bool.not_false,
    Bool.and_self, if_true]

theorem complete_awaits {s : State} {q : QueueId} {e : QEntry} {r : List QEntry} (diff : Option (Fin 4 × BitVec 12))
    (he : (s.queue q).entries = e :: r) (ha : s.awaitsPeer q e (hdrOf e.bytes) = true) : complete s q diff = s := by
  simp only [complete, he, ha, Bool.or_true, if_true]

/-- A signal of the present generation whose only route is a dead link faults its context. -/
theorem complete_deadLink {s : State} {q : QueueId} {e : QEntry} {r : List QEntry} {l : DieLink}
    (he : (s.queue q).entries = e :: r) (hx : e.executed = true) (ha : s.awaitsPeer q e (hdrOf e.bytes) = false)
    (hn : e.sent = false) (hl : s.signalLink q (hdrOf e.bytes) = some l) (hg : (hdrOf e.bytes).gen = (s.ctx e.ctx).gen) :
    complete s q none = raiseFlt s (linkFlt l) (some (s.cg e.ctx)) := by
  have hstop : signalStop s q e (hdrOf e.bytes) none = some (raiseFlt s (linkFlt l) (some (s.cg e.ctx))) := by
    simp only [signalStop, hubFlt, ite_self, hl, hg]
    rfl
  simp only [complete, he, hx, ha, hn, Bool.not_true, Bool.or_self, Bool.false_eq_true, if_false, hstop]

end Sys2Proof.Machine

open Sys2Proof Sys2Proof.Machine

/-- Settles O11: each way a completion or a signal ends, with what it leaves of the beads and the queues. -/
theorem signalsAddToTheirBead : Obligations.SignalsAddToTheirBead := by
  unfold Obligations.SignalsAddToTheirBead
  refine ⟨?_, ?_, ?_⟩
  · intro s q e r diff he hx ha hs hlat hhead hh
    replace hh : s.signalHere (hdrOf e.bytes) := hh
    have hcheck := headCheck_ok (completed_headFault hh hhead)
    set u := popHead (completed s q e) q e (hdrOf e.bytes)
    have hku : s.keeps [.cores, .parts, .ctxs, .lks] u :=
      State.keeps_trans (completed_keeps hh) (State.keeps_mono (popHead_keeps _ q e _) (by simp))
    have hent : (u.queue q).entries = r := by
      rw [popHead_queue_self, (completed_queue hh).1, goldenCounted_entries, he]
      rfl
    have hfe : u.keeps [.ctxs] (frameEnd u e.ctx) := by
      refine frameEnd_keeps (hlat.imp (fun h => ?_) ?_)
      · have hctx : u.ctx e.ctx = (completed s q e).ctx e.ctx := congrArg (·.get e.ctx) (popHead_keeps _ q e _ .ctxs (by simp))
        rw [hctx, (completed_split_latched hh e.ctx).2, h]
      · rintro ⟨e2, hm, hc⟩
        rw [← hc]
        exact frameDone_of_entry (q := q) (hent ▸ hm)
    have hbead (p : PartId) (i : Nat) : (frameEnd u e.ctx).bead p i = (signalBead s e (hdrOf e.bytes)).bead p i :=
      (keeps_bead hfe (by simp) p i).trans ((bead_onQueue _ _ _ p i).trans (completed_bead s q e p i))
    obtain ⟨t, ht, hk, hq⟩ := finish_keeps (old := s) (State.keeps_trans hku (State.keeps_mono hfe (by simp)))
    refine ⟨t, ?_, ?_, ?_, fun p i hne => ?_, fun q' hne => ?_, hk⟩
    · rw [exec_descriptorComplete, complete_here he hx ha hs hh, hcheck, ht]
    · rw [hq.queue, keeps_queue hfe (by simp) (by simp), hent]
    · rw [hq.bead, hbead, (signalBead_bead e hh).1]
    · rw [hq.bead, hbead, (signalBead_bead e hh).2 p i hne]
    · rw [hq.queue, keeps_queue hfe (by simp) (by simp), popHead_queue_ne _ _ _ hne, (completed_queue hh).2 q' hne]
  · intro s q e r diff he hx
    refine ⟨fun ha => ?_, fun ha hp hn hs => ?_, ?_⟩
    · obtain ⟨t, ht, hq⟩ := finish_next s s
      exact ⟨t, by rw [exec_descriptorComplete, complete_awaits _ he ha, ht], hq.1⟩
    · obtain ⟨t, ht, hk, hq⟩ := finish_keeps (old := s) (signalPeer_keeps s q e (hdrOf e.bytes))
      have hsend := ringSend_keeps s (BitVec.ofNat 2 (hdrOf e.bytes).sigDev) (.signal (BitVec.ofNat 2 (hdrOf e.bytes).sigDev) e.ctx
        (hdrOf e.bytes).gen (BitVec.ofNat 14 ((hdrOf e.bytes).sigIdx + 4096 * (hdrOf e.bytes).sigPart.1))
        (BitVec.ofNat 4 (hdrOf e.bytes).sigInc))
      have hqu (q') := keeps_queue hsend (by simp) (by simp) q'
      refine ⟨t, by rw [exec_descriptorComplete, complete_peer he hx ha hp hn hs, ht], ?_, ?_, fun p i => ?_, fun q' hne => ?_, hk⟩
      · rw [hq.queue]
        exact onHead_entries _ _ _ ((congrArg QueueRt.entries ((State.queue_onRng _ _ _).trans (hqu q))).trans he)
      · rw [hq.1 .rng (by simp), signalPeer, onHead_keeps _ q _ .rng (by simp)]
        exact congrArg (fun g : RngRegs => g.unacked ++ _) (hsend .rng (by simp))
      · exact (hq.bead p i).trans ((bead_onQueue _ _ _ p i).trans (keeps_bead hsend (by simp) p i))
      · exact (hq.queue q').trans ((onHead_queue_ne _ _ hne).trans ((State.queue_onRng _ _ _).trans (hqu q')))
    · rintro l ha hn rfl hl hg hrun hexp
      obtain ⟨t, ht, htorn⟩ := finish_raiseFlt s s (linkFlt l) e.ctx (linkFlt_ofCtx l) hexp (.inl hrun)
      exact ⟨t, by rw [exec_descriptorComplete, complete_deadLink he hx ha hn hl hg, ht], htorn.state, htorn.stop, htorn.bead,
        htorn.others, htorn.mem⟩
  · intro s c g p b n
    refine ⟨fun hg hr ho => ?_, fun hg => ?_⟩
    · have hsig : poolSignal s c g p b.toNat n.toNat = s.addBead p b.toNat n.toNat := by
        simp [poolSignal, hg, hr, ho]
      obtain ⟨t, ht, hk, hq⟩ := finish_keeps (old := s) (addBead_keeps s p b.toNat n.toNat)
      exact ⟨t, by rw [exec_beadSignal, hsig, ht], by rw [hq.bead, bead_addBead_self],
        fun p' i hne => by rw [hq.bead, bead_addBead_ne _ _ hne], fun q => by rw [hq.queue, queue_addBead], hk⟩
    · have hsig : poolSignal s c g p b.toNat n.toNat = staleDrop s c := by simp [poolSignal, hg]
      obtain ⟨t, ht, hk, hq⟩ := finish_keeps (old := s) (staleDrop_keeps s c)
      exact ⟨t, by rw [exec_beadSignal, hsig, ht], by rw [hq.ctx, staleDrop_self], fun x hx => by rw [hq.ctx, staleDrop_ne s hx], hk⟩
end

section
/-!
PROOFS. What the flight recorder touches when it writes, triggers and loses blocks (R387, R388, R394), and what a partition reset
leaves alone (R361, R368 to R371).
-/

open Sys2Proof Sys2Proof.Machine

namespace Sys2Proof.Machine

/-! ### The recorder (R386 to R394) -/

/-- A die without what the recorder's tap keeps there. -/
def IoDie.unrecorded (x : IoDie) : IoDie := { x with tapBlock := none, recLevel := 0 }

/-- From `s` to `t` the recorder alone worked: its registers, its region, the taps and the interrupt ring. -/
structure State.Recorded (s t : State) : Prop where
  keeps : s.keeps [.recd, .mem, .bad, .hst, .io, .free] t
  die : ∀ d, (t.die d).unrecorded = (s.die d).unrecorded
  errOut : s.tly.holdOver = false → t.pins.errOutN = s.pins.errOutN

theorem State.Recorded.refl (s : State) : s.Recorded s := ⟨s.keeps_refl _, fun _ => rfl, fun _ => rfl⟩

theorem State.Recorded.trans {s t u : State} (h : s.Recorded t) (h' : t.Recorded u) : s.Recorded u :=
  ⟨State.keeps_trans h.keeps h'.keeps, fun d => (h'.die d).trans (h.die d), fun hh =>
    (h'.errOut ((congrArg TlyRegs.holdOver (h.keeps .tly (by simp))).trans hh)).trans (h.errOut hh)⟩

theorem State.Quiet.recorded {s t : State} (h : s.Quiet t) : s.Recorded t :=
  ⟨State.keeps_mono h.1 (by simp), fun d => congrArg IoDie.unrecorded (h.die d), h.errOut⟩

theorem onRec_recorded (s : State) (f : RecRegs → RecRegs) : s.Recorded (s.onRec f) :=
  ⟨fun k hk => by cases k <;> first | rfl | simp at hk, fun _ => rfl, fun _ => rfl⟩

theorem recPoke_recorded (s : State) (a : Nat) (b : Bytes) : s.Recorded (s.recPoke a b) :=
  ⟨fun k hk => by cases k <;> first | rfl | simp at hk, fun _ => rfl, fun _ => rfl⟩

theorem freeUp_recorded (s : State) (n : Nat) : s.Recorded { s with free := n } :=
  ⟨fun k hk => by cases k <;> first | rfl | simp at hk, fun _ => rfl, fun _ => rfl⟩

theorem onDie_recorded (s : State) (d : DieId) (f : IoDie → IoDie) (hf : ∀ x, (f x).unrecorded = x.unrecorded) :
    s.Recorded (s.onDie d f) := by
  refine ⟨fun k hk => by cases k <;> first | rfl | simp at hk, fun e => ?_, fun _ => rfl⟩
  by_cases h : e = d
  · subst h; rw [State.die_onDie_self, hf]
  · rw [State.die_onDie_ne _ _ _ _ h]

theorem writeRecHeader_recorded (s : State) : s.Recorded (writeRecHeader s) := by
  unfold writeRecHeader
  split
  · exact .refl s
  · exact recPoke_recorded _ _ _

theorem setRecState_recorded (s : State) (v : RecState) : s.Recorded (setRecState s v) := by
  have h1 : s.Recorded (if v = .frozen then
      (s.onRec fun r => { r with state := v }).onRec fun r => { r with tFreeze := (s.onRec fun r => { r with state := v }).now64 }
      else s.onRec fun r => { r with state := v }) := by
    split
    · exact (onRec_recorded _ _).trans (onRec_recorded _ _)
    · exact onRec_recorded _ _
  have h2 := h1.trans (writeRecHeader_recorded _)
  simp only [setRecState]
  split
  · next hv => rw [if_pos hv] at h2; exact h2.trans (svpIrq_quiet _ _ _).recorded
  · next hv => rw [if_neg hv] at h2; exact h2

theorem earlyFreeze_recorded (s : State) : s.Recorded (earlyFreeze s) := by
  unfold earlyFreeze
  split
  · exact (onRec_recorded _ _).trans (setRecState_recorded _ _)
  · exact .refl s

theorem recTrigger_recorded (s : State) (cause : BitVec 2) (id : U32) : s.Recorded (recTrigger s cause id) := by
  unfold recTrigger
  split
  · exact ((onRec_recorded _ _).trans (setRecState_recorded _ _)).trans (earlyFreeze_recorded _)
  · exact (onRec_recorded _ _).trans (writeRecHeader_recorded _)
  · exact (onRec_recorded _ _).trans (writeRecHeader_recorded _)
  · exact .refl s

theorem recTrigger_disabled {s : State} (h : s.recd.state = .disabled) (cause : BitVec 2) (id : U32) :
    recTrigger s cause id = s := by
  simp only [recTrigger, h]

theorem setCurBlock_recorded (s : State) (o : RecOrigin) (b : Option (Nat × Nat)) : s.Recorded (setCurBlock s o b) := by
  cases o with
  | tap d => exact onDie_recorded s d (fun x => { x with tapBlock := b }) fun _ => rfl
  | ckpt => exact onRec_recorded s fun r => { r with ckptBlock := b }

theorem allocBlock_recorded (s : State) : s.Recorded (allocBlock s).2 := by
  unfold allocBlock
  split
  · exact .refl s
  · next n _ => exact onRec_recorded s fun r => { r with wblk := (n + 1) % max 1 r.nblk }

/-- The block that a writer goes on in, or a new one. -/
def openBlock (s : State) (o : RecOrigin) : Option (Nat × Nat) × State :=
  match curBlock s o with
  | some (n, used) => if used + 32 ≤ mib then (some (n, used), s) else ((allocBlock s).1.map (·, 0), (allocBlock s).2)
  | none => ((allocBlock s).1.map (·, 0), (allocBlock s).2)

theorem openBlock_recorded (s : State) (o : RecOrigin) : s.Recorded (openBlock s o).2 := by
  unfold openBlock
  split
  · split
    · exact .refl s
    · exact allocBlock_recorded s
  · exact allocBlock_recorded s

theorem recPieces_recorded (k : Nat) (s : State) (o : RecOrigin) (src : U16) (kind rflags : Nat) (time : U64) (aux : Nat)
    (payload : Bytes) : s.Recorded (recPieces k s o src kind rflags time aux payload) := by
  induction k generalizing s rflags payload with
  | zero => exact .refl s
  | succ k ih =>
    have hblk : recPieces (k + 1) s o src kind rflags time aux payload = if !s.recActive then s else
        match (openBlock s o).1 with
        | none => (openBlock s o).2
        | some (n, used) =>
          let u := (openBlock s o).2
          let part := payload.take (mib - used - 32)
          let seq := tabGet 0 u.recd.seqs src
          let b := recBytes src kind rflags seq time aux part
          let s := if used = 0 then
              u.recPoke (u.indexAddr n) (le 2 (1 + 2 * originNum o) ++ zeros 2 ++ le 4 0 ++ le 8 time.toNat)
            else u
          let s := s.recPoke (s.blockAddr n + used) b
          let s := s.onRec fun r => { r with seqs := tabPut r.seqs src (seq + 1), bytes := r.bytes + b.length }
          let s := setCurBlock s o (some (n, used + b.length))
          let s := if used = 0 then earlyFreeze s else s
          if mib - used - 32 < payload.length then
            recPieces k s o src kind (rflags ||| 1) time aux (payload.drop (mib - used - 32)) else s := by
      simp only [recPieces, openBlock] <;> rfl
    rw [hblk]
    split
    · exact .refl s
    · split
      · exact openBlock_recorded s o
      · next n used _ =>
        have h1 : s.Recorded (if used = 0 then (openBlock s o).2.recPoke ((openBlock s o).2.indexAddr n)
            (le 2 (1 + 2 * originNum o) ++ zeros 2 ++ le 4 0 ++ le 8 time.toNat) else (openBlock s o).2) := by
          split
          · exact (openBlock_recorded s o).trans (recPoke_recorded _ _ _)
          · exact openBlock_recorded s o
        have h2 (b : Bytes) (a : Nat) (f : RecRegs → RecRegs) (x : Option (Nat × Nat)) :=
          ((h1.trans (recPoke_recorded _ a b)).trans (onRec_recorded _ f)).trans (setCurBlock_recorded _ o x)
        have h3 (u : State) (hu : s.Recorded u) : s.Recorded (if used = 0 then earlyFreeze u else u) := by
          split
          · exact hu.trans (earlyFreeze_recorded _)
          · exact hu
        simp only
        split
        · exact (h3 _ (h2 _ _ _ _)).trans (ih _ _ _)
        · exact h3 _ (h2 _ _ _ _)

theorem recPut_recorded (s : State) (o : RecOrigin) (src : U16) (kind rflags : Nat) (time : U64) (aux : Nat) (payload : Bytes) :
    s.Recorded (recPut s o src kind rflags time aux payload) := recPieces_recorded _ _ _ _ _ _ _ _ _

theorem tapRoom_recorded (s : State) (d : DieId) (n : Nat) : s.Recorded (tapRoom s d n).2 := by
  unfold tapRoom
  simp only
  split
  · exact .refl s
  · exact freeUp_recorded _ _

/-- A record changes the recorder alone (R388, R393). -/
theorem recWrite_recorded (s : State) (o : RecOrigin) (src : U16) (kind rflags : Nat) (time : U64) (aux : Nat)
    (payload : Bytes) : s.Recorded (recWrite s o src kind rflags time aux payload) := by
  unfold recWrite
  split
  · exact recPut_recorded _ _ _ _ _ _ _ _
  · split
    · exact .refl s
    · have hroom (d n v) := (tapRoom_recorded s d n).trans
        (onDie_recorded (tapRoom s d n).2 d (fun x => { x with recLevel := v }) fun _ => rfl)
      simp only
      split
      · exact (hroom _ _ _).trans (recPut_recorded _ _ _ _ _ _ _ _)
      · exact ((hroom _ _ _).trans (onRec_recorded _ _)).trans (recPut_recorded _ _ _ _ _ _ _ _)

theorem setBlockFlag_recorded (s : State) (n i : Nat) : s.Recorded (setBlockFlag s n i) := recPoke_recorded _ _ _

theorem leaveBlock_recorded (p : PartId) (s : State) (o : RecOrigin) : s.Recorded (leaveBlock p s o) := by
  unfold leaveBlock
  split
  · split
    · exact setCurBlock_recorded _ _ _
    · exact .refl s
  · exact .refl s

theorem foldl_recorded {α : Type} (f : State → α → State) (hf : ∀ (s : State) a, s.Recorded (f s a)) (l : List α) (s : State) :
    s.Recorded (l.foldl f s) := by
  induction l generalizing s with
  | nil => exact .refl s
  | cons a l ih => exact (hf s a).trans (ih _)

theorem loseBlocks_recorded (s : State) (p : PartId) : s.Recorded (loseBlocks s p) :=
  (foldl_recorded _ (fun s n => setBlockFlag_recorded s n 3) _ s).trans (foldl_recorded _ (leaveBlock_recorded p) _ _)

/-- Without blocks, those that are lost leave memory and the recorder's state. -/
theorem loseBlocks_without_blocks {s : State} (p : PartId) (h : s.recd.nblk = 0) :
    (loseBlocks s p).mem = s.mem ∧ (loseBlocks s p).recd.state = s.recd.state ∧ (loseBlocks s p).recd.nblk = 0 := by
  have hleave (u : State) (o : RecOrigin) : (leaveBlock p u o).mem = u.mem ∧ (leaveBlock p u o).recd.state = u.recd.state ∧
      (leaveBlock p u o).recd.nblk = u.recd.nblk := by
    unfold leaveBlock
    split
    · split
      · cases o <;> exact ⟨rfl, rfl, rfl⟩
      · exact ⟨rfl, rfl, rfl⟩
    · exact ⟨rfl, rfl, rfl⟩
  obtain ⟨a1, a2, a3⟩ := hleave s (.tap 0)
  obtain ⟨b1, b2, b3⟩ := hleave (leaveBlock p s (.tap 0)) (.tap 1)
  obtain ⟨c1, c2, c3⟩ := hleave (leaveBlock p (leaveBlock p s (.tap 0)) (.tap 1)) .ckpt
  simp only [loseBlocks, h, List.range_zero, List.filter_nil, List.foldl_nil, List.foldl_cons]
  exact ⟨c1.trans (b1.trans a1), c2.trans (b2.trans a2), c3.trans (b3.trans (a3.trans h))⟩

end Sys2Proof.Machine
end

section
/-!
PROOFS. What a partition reset leaves alone, and the state in which it leaves its partition (R361, R368 to R371).
-/

open Sys2Proof Sys2Proof.Machine

namespace Sys2Proof.Machine

/-! ### From one state to another across resets of partitions -/

/-- A partition is in the same state for the same cause and holds the same beads. -/
structure State.PartHeld (s t : State) (q : PartId) : Prop where
  state : (t.prt q).prt.state = (s.prt q).prt.state
  cause : (t.prt q).prt.causeCode = (s.prt q).prt.causeCode
  beads : (t.prt q).beads = (s.prt q).beads

theorem State.PartHeld.of_eq {s t : State} {q : PartId} (h : t.prt q = s.prt q) : s.PartHeld t q :=
  ⟨by rw [h], by rw [h], by rw [h]⟩

theorem State.PartHeld.trans {s t u : State} {q : PartId} (h : s.PartHeld t q) (h' : t.PartHeld u q) : s.PartHeld u q :=
  ⟨h'.state.trans h.state, h'.cause.trans h.cause, h'.beads.trans h.beads⟩

/-- The recorder is disabled and has no block. -/
def State.noRecorder (s : State) : Prop := s.recd.state = .disabled ∧ s.recd.nblk = 0

/-- Every byte of DRAM is as before or reads zero. -/
def State.dramClears (s t : State) : Prop :=
  ∀ a, a < 0x004000000000 → memGet 0 t.mem a = memGet 0 s.mem a ∨ memGet 0 t.mem a = 0

theorem State.dramClears.trans {s t u : State} (h : s.dramClears t) (h' : t.dramClears u) : s.dramClears u := fun a ha => by
  rcases h' a ha with h' | h'
  · rw [h']; exact h a ha
  · exact .inr h'

/-- What resets of partitions outside `P` leave: time, the expected-event mode, ERR_OUT_N low, every context that drains, the
partitions of `P`, and, where no recorder writes, DRAM that is not cleared. -/
structure State.Resets (P : PartId → Prop) (s t : State) : Prop where
  expect : t.err.expect = s.err.expect
  ticks : t.ticks = s.ticks
  low : s.tly.holdOver = false ∧ s.pins.errOutN = false → t.tly.holdOver = false ∧ t.pins.errOutN = false
  drains : ∀ c, (s.ctx c).state = .draining →
    (t.ctx c).state = .draining ∧ ((s.ctx c).stopLatch = true → (t.ctx c).stopLatch = true)
  parts : ∀ q, P q → s.PartHeld t q
  dram : s.noRecorder → t.noRecorder ∧ s.dramClears t

theorem State.Resets.refl (P : PartId → Prop) (s : State) : s.Resets P s :=
  ⟨rfl, rfl, id, fun _ h => ⟨h, id⟩, fun _ _ => .of_eq rfl, fun h => ⟨h, fun _ _ => .inl rfl⟩⟩

theorem State.Resets.trans {P : PartId → Prop} {s t u : State} (h : s.Resets P t) (h' : t.Resets P u) : s.Resets P u :=
  ⟨h'.expect.trans h.expect, h'.ticks.trans h.ticks, fun x => h'.low (h.low x), fun c hc =>
    ⟨(h'.drains c (h.drains c hc).1).1, fun hs => (h'.drains c (h.drains c hc).1).2 ((h.drains c hc).2 hs)⟩,
    fun q hq => (h.parts q hq).trans (h'.parts q hq),
    fun hr => ⟨(h'.dram (h.dram hr).1).1, (h.dram hr).2.trans (h'.dram (h.dram hr).1).2⟩⟩

theorem State.Resets.mono {P Q : PartId → Prop} {s t : State} (h : s.Resets P t) (hQ : ∀ q, Q q → P q) : s.Resets Q t :=
  { h with parts := fun q hq => h.parts q (hQ q hq) }

/-- What is no part of the contexts, of time, of the Tally, of memory and of the recorder. -/
def resetKinds : List Kind :=
  [.cores, .parts, .err, .boot, .hst, .mcs, .dev, .rng, .bad, .io, .lineOwner, .free, .pwr]

theorem State.Resets.of_keeps {P : PartId → Prop} {s t : State} (h : s.keeps resetKinds t)
    (he : t.err.expect = s.err.expect) (hp : t.pins.errOutN = s.pins.errOutN) (hq : ∀ q, P q → s.PartHeld t q) :
    s.Resets P t := by
  have htly : t.tly = s.tly := h .tly (by simp [resetKinds])
  have hctx (c) : t.ctx c = s.ctx c := congrArg (·.get c) (h .ctxs (by simp [resetKinds]))
  have hrec : t.recd = s.recd := h .recd (by simp [resetKinds])
  have hmem : t.mem = s.mem := h .mem (by simp [resetKinds])
  exact ⟨he, h .ticks (by simp [resetKinds]), fun hl => by rw [htly, hp]; exact hl,
    fun c hc => by rw [hctx]; exact ⟨hc, id⟩, hq,
    fun hn => ⟨by rw [State.noRecorder, hrec]; exact hn, fun a _ => .inl (by rw [hmem])⟩⟩

/-- What leaves the partitions too. -/
theorem State.Resets.of_keeps_parts {P : PartId → Prop} {s t : State} {l : List Kind} (h : s.keeps l t)
    (hl : ∀ k, k ∈ l → k ∈ resetKinds) (hparts : Kind.parts ∉ l)
    (he : t.err.expect = s.err.expect) (hp : t.pins.errOutN = s.pins.errOutN) : s.Resets P t :=
  .of_keeps (State.keeps_mono h hl) he hp fun q _ => .of_eq (congrArg (·.get q) (h .parts hparts))

theorem keeps_expect {s t : State} {l : List Kind} (h : s.keeps l t) (he : Kind.err ∉ l) : t.err.expect = s.err.expect :=
  (congrArg ErrRegs.expect (h .err he : t.err.still = s.err.still) : _)

/-- The recorder at work. -/
theorem State.Recorded.resets {P : PartId → Prop} {s t : State} (h : s.Recorded t)
    (hr : s.noRecorder → t.noRecorder ∧ t.mem = s.mem) : s.Resets P t := by
  have hctx (c) : t.ctx c = s.ctx c := congrArg (·.get c) (h.keeps .ctxs (by simp))
  have htly : t.tly = s.tly := h.keeps .tly (by simp)
  exact ⟨keeps_expect h.keeps (by simp), h.keeps .ticks (by simp),
    fun hl => ⟨by rw [htly]; exact hl.1, (h.errOut hl.1).trans hl.2⟩,
    fun c hc => by rw [hctx]; exact ⟨hc, id⟩, fun q _ => .of_eq (congrArg (·.get q) (h.keeps .parts (by simp))),
    fun hn => ⟨(hr hn).1, fun a _ => .inl (by rw [(hr hn).2])⟩⟩

theorem State.Resets.foldl {α : Type} {P : PartId → Prop} (f : State → α → State) (hf : ∀ (s : State) a, s.Resets P (f s a))
    (l : List α) (s : State) : s.Resets P (l.foldl f s) := by
  induction l generalizing s with
  | nil => exact .refl P s
  | cons a l ih => exact (hf s a).trans (ih _)

/-! ### Records and faults -/

theorem event_pins (s : State) (src code : U16) (ctx : Option (CtxId × BitVec 12)) (detail : Nat) :
    (event s src code ctx detail).pins = s.pins := by
  have hput (u : State) (ctx : Option (CtxId × BitVec 12)) (fl n : Nat) (tm : U64) (d : Nat) :
      (putRecord u src code ctx fl n tm d).pins = u.pins := by
    simp only [putRecord]; split <;> rfl
  have hco (u : State) : (coalesce u src code ctx detail).pins = u.pins := by
    simp only [coalesce]
    split
    · rfl
    · split
      · simp only [writeCoal, putRecord]; split <;> rfl
      · rfl
  have hb : (match ctx with
      | some c => bumpClass s c.1 code
      | none => s).pins = s.pins := by cases ctx <;> rfl
  simp only [event]
  split
  · exact hput _ _ _ _ _ _
  · split
    · exact (hco _).trans hb
    · exact (hput _ _ _ _ _ _).trans hb

theorem event_resets {P : PartId → Prop} (s : State) (src code : U16) (detail : Nat) :
    s.Resets P (event s src code none detail) :=
  .of_keeps_parts (event_keeps_none s src code detail) (by simp [resetKinds]) (by simp) (event_expect s src code none detail)
    (congrArg Pins.errOutN (event_pins s src code none detail))

theorem onQueue_held (s : State) (k : QueueId) (f : QueueRt → QueueRt) (q : PartId) : s.PartHeld (s.onQueue k f) q := by
  cases k with
  | core c k => exact .of_eq rfl
  | dq p =>
    by_cases h : q = p
    · subst h; constructor <;> simp [State.onQueue]
    · exact .of_eq (State.prt_onPart_ne _ _ _ _ h)

theorem purgeQueues_held (s : State) (c : CtxId) (q : PartId) : s.PartHeld (purgeQueues s c) q := by
  have key (l : List QueueId) (s : State) : s.PartHeld (l.foldl (fun s q => s.onQueue q fun x =>
      { x with entries := x.entries.filter fun e => decide (e.ctx ≠ c) }) s) q := by
    induction l generalizing s with
    | nil => exact .of_eq rfl
    | cons k l ih => exact (onQueue_held s k _ q).trans (ih _)
  exact key _ s

theorem purgeHubs_held (s : State) (c : CtxId) (q : PartId) : s.PartHeld (purgeHubs s c) q := by
  have h := purgeHubs_prt s c q
  split at h
  · exact ⟨by rw [h], by rw [h], by rw [h]⟩
  · exact .of_eq h

theorem keeps_held {s t : State} {l : List Kind} (h : s.keeps l t) (hp : Kind.parts ∉ l) (q : PartId) : s.PartHeld t q :=
  .of_eq (congrArg (·.get q) (h .parts hp))

theorem teardown_held (s : State) (c : CtxId) (stop : Option U16) (code : U16) (q : PartId) :
    s.PartHeld (teardown s c stop code) q :=
  ((((keeps_held (setCtxState_keeps s c .draining) (by simp) q).trans (purgeQueues_held _ c q)).trans (purgeHubs_held _ c q)).trans
    ((keeps_held (State.keeps_onRng _ _) (by simp) q).trans (keeps_held (State.keeps_onCtx _ c _) (by simp) q))).trans
    (keeps_held (teardown_torn s c stop code) (by simp) q)

theorem faultCtx_held (s : State) (c : CtxId) (code : U16) (dev : Bool) (q : PartId) : s.PartHeld (faultCtx s c code dev) q := by
  have hpush (u : State) (i : TallyItem) (hu : u.parts = s.parts) : s.PartHeld (tallyPush u i) q :=
    .of_eq (congrArg (·.get q) ((tallyPush_keeps u i .parts (by simp) : _ = _).trans hu))
  simp only [faultCtx]
  split
  · refine State.PartHeld.trans ?_ (teardown_held _ _ _ _ _)
    split
    · exact hpush _ _ rfl
    · exact .of_eq rfl
  · exact .of_eq rfl

/-- A context that neither runs nor starts keeps its state at a fault: it is only noted in the Tally's queue. -/
theorem faultCtx_still (s : State) (c : CtxId) (code : U16) (dev : Bool) (h : (s.ctx c).state = .draining) (x : CtxId) :
    (faultCtx s c code dev).ctx x = s.ctx x := by
  simp only [faultCtx]
  rw [if_neg (by simp [h])]
  rfl

theorem faultCtx_drains (s : State) (c : CtxId) (code : U16) (dev : Bool) (x : CtxId) (h : (s.ctx x).state = .draining) :
    (faultCtx s c code dev).ctx x = s.ctx x := by
  by_cases hx : x = c
  · subst hx; exact faultCtx_still s x code dev h x
  · exact faultCtx_ne _ _ _ hx

theorem react_fault_resets {P : PartId → Prop} (s : State) (c : CtxId) (code : U16) :
    s.Resets P (faultCtx (reactCtx s c) c code false) := by
  have hr := reactCtx_keeps s c
  have hf := faultCtx_keeps (reactCtx s c) c code false
  refine ⟨(keeps_expect hf (by simp)).trans (keeps_expect hr (by simp)),
    (hf .ticks (by simp)).trans (hr .ticks (by simp)), fun _ => ?_, fun x hx => ?_, fun q _ => ?_, fun hn => ?_⟩
  · exact ⟨(faultCtx_hold _ c code false (reactCtx_hold s c)).1,
      (faultCtx_hold _ c code false (reactCtx_hold s c)).2.trans (reactCtx_pin s c)⟩
  · by_cases h : x = c
    · subst h
      rw [faultCtx_drains _ _ _ _ _ (by rw [reactCtx_self]; exact hx), reactCtx_self]
      exact ⟨hx, fun _ => rfl⟩
    · rw [faultCtx_ne _ _ _ h, reactCtx_ne s h]
      exact ⟨hx, id⟩
  · exact (keeps_held hr (by simp) q).trans (faultCtx_held _ c code false q)
  · have hrec : (faultCtx (reactCtx s c) c code false).recd = s.recd := (hf .recd (by simp)).trans (hr .recd (by simp))
    have hmem : (faultCtx (reactCtx s c) c code false).mem = s.mem := (hf .mem (by simp)).trans (hr .mem (by simp))
    exact ⟨by rw [State.noRecorder, hrec]; exact hn, fun a _ => .inl (by rw [hmem])⟩

/-- The contexts of a list that run or start are faulted. -/
theorem faults_resets {P : PartId → Prop} (l : List CtxId) (code : U16) (s : State) :
    s.Resets P (l.foldl (fun s c => if (s.ctx c).state = .run ∨ (s.ctx c).state = .starting then
      faultCtx (reactCtx s c) c code false else s) s) := by
  refine State.Resets.foldl _ (fun s c => ?_) l s
  split
  · exact react_fault_resets s c code
  · exact .refl P s

/-! ### The steps of a reset (R369) -/

theorem recTrigger_resets {P : PartId → Prop} (s : State) (cause : BitVec 2) (id : U32) : s.Resets P (recTrigger s cause id) :=
  (recTrigger_recorded s cause id).resets fun hn => by rw [recTrigger_disabled hn.1]; exact ⟨hn, rfl⟩

theorem loseBlocks_resets {P : PartId → Prop} (s : State) (p : PartId) : s.Resets P (loseBlocks s p) :=
  (loseBlocks_recorded s p).resets fun hn =>
    have h := loseBlocks_without_blocks (s := s) p hn.2
    ⟨⟨h.2.1.trans hn.1, h.2.2⟩, h.1⟩

theorem onBoot_resets {P : PartId → Prop} (s : State) (f : BootRegs → BootRegs) : s.Resets P (s.onBoot f) :=
  .of_keeps_parts (l := [.boot]) (fun k hk => by cases k <;> first | rfl | simp at hk) (by simp [resetKinds]) (by simp) rfl rfl

theorem onTly_resets {P : PartId → Prop} (s : State) (f : TlyRegs → TlyRegs) (hf : ∀ t, (f t).holdOver = t.holdOver) :
    s.Resets P (s.onTly f) :=
  ⟨rfl, rfl, fun h => ⟨(hf s.tly).trans h.1, h.2⟩, fun _ h => ⟨h, id⟩, fun _ _ => .of_eq rfl,
    fun h => ⟨h, fun _ _ => .inl rfl⟩⟩

theorem onPart_held (s : State) (p : PartId) (f : PartRt → PartRt) (hs : (f (s.prt p)).prt.state = (s.prt p).prt.state)
    (hc : (f (s.prt p)).prt.causeCode = (s.prt p).prt.causeCode) (hb : (f (s.prt p)).beads = (s.prt p).beads) (q : PartId) :
    s.PartHeld (s.onPart p f) q := by
  by_cases h : q = p
  · subst h
    exact ⟨by rw [State.prt_onPart_self]; exact hs, by rw [State.prt_onPart_self]; exact hc,
      by rw [State.prt_onPart_self]; exact hb⟩
  · exact .of_eq (State.prt_onPart_ne _ _ _ _ h)

theorem onPart_keeps (s : State) (p : PartId) (f : PartRt → PartRt) : s.keeps [.parts] (s.onPart p f) := by
  intro k hk; cases k <;> first | rfl | simp at hk

/-- The dump region lies above DRAM. -/
theorem dumpBase_above (n : Nat) : 0x004000000000 ≤ dumpBase n := by
  simp only [dumpBase]; omega

theorem writeSample_resets {P : PartId → Prop} (s : State) (p : PartId) (cause : Bytes) (mask : Nat) :
    s.Resets P (writeSample s p cause mask) := by
  refine ⟨rfl, rfl, id, fun _ h => ⟨h, id⟩, fun q _ => ?_, fun h => ⟨h, fun a ha => .inl ?_⟩⟩
  · obtain ⟨hs, hc, hb⟩ := onPart_held s p (fun x => { x with prt := { x.prt with slot := BitVec.ofNat 3 s.boot.nextSample.1 } })
      rfl rfl rfl q
    exact ⟨hs, hc, hb⟩
  · exact memGet_memPut_out 0 s.mem (.inl (Nat.lt_of_lt_of_le ha (dumpBase_above _)))

/-- The contents of a partition's stacks are lost (R369). -/
def dropDram (s : State) (p : PartId) : State := { s with mem := memErase s.mem (0x1000000000 * p.1) 0x1000000000 }

theorem dropDram_resets {P : PartId → Prop} (s : State) (p : PartId) : s.Resets P (dropDram s p) := by
  refine ⟨rfl, rfl, id, fun _ h => ⟨h, id⟩, fun _ _ => .of_eq rfl, fun h => ⟨h, fun a _ => ?_⟩⟩
  by_cases hin : 0x1000000000 * p.1 ≤ a ∧ a < 0x1000000000 * p.1 + 0x1000000000
  · exact .inr (memGet_memErase_in 0 s.mem hin.1 hin.2)
  · exact .inl (memGet_memErase_out 0 s.mem (by omega))

theorem dropDram_zero (s : State) (p : PartId) {a : Nat} (h : 0x1000000000 * p.1 ≤ a) (h' : a < 0x1000000000 * (p.1 + 1)) :
    memGet 0 (dropDram s p).mem a = 0 := memGet_memErase_in 0 s.mem h (by omega)

theorem foldl_keeps {α : Type} {l : List Kind} (f : State → α → State) (hf : ∀ (s : State) a, s.keeps l (f s a)) (xs : List α)
    (s : State) : s.keeps l (xs.foldl f s) := by
  induction xs generalizing s with
  | nil => exact s.keeps_refl _
  | cons a xs ih => exact State.keeps_trans (hf s a) (ih _)

theorem foldl_pins {α : Type} (f : State → α → State) (hf : ∀ (s : State) a, (f s a).pins = s.pins) (xs : List α) (s : State) :
    (xs.foldl f s).pins = s.pins := by
  induction xs generalizing s with
  | nil => rfl
  | cons a xs ih => exact (ih _).trans (hf s a)

theorem onCore_keeps (s : State) (i : CoreId) (f : CoreRt → CoreRt) : s.keeps [.cores] (s.onCore i f) := by
  intro k hk; cases k <;> first | rfl | simp at hk

theorem onMc_keeps (s : State) (k : StackId) (f : McRegs → McRegs) : s.keeps [.mcs] (s.onMc k f) := by
  intro k hk; cases k <;> first | rfl | simp at hk

/-- A core after the reset of its partition's logic. -/
def CoreRt.cleared (x : CoreRt) : CoreRt := { ({} : CoreRt) with lst := { x.lst with running := false }, cfh := x.cfh }

/-- The partition after the reset of its logic. -/
def PartRt.cleared (x : PartRt) : PartRt :=
  { ({} : PartRt) with slotMap := x.slotMap, prt := x.prt, pwr := x.pwr, seqWait := x.seqWait }

/-- The logic of a partition resets: its cores, its own registers and the controllers of its stacks. -/
theorem resetPartLogic_steps (s : State) (p : PartId) : ∃ u, s.keeps [.cores] u ∧ u.pins = s.pins ∧
    (u.onPart p PartRt.cleared).keeps [.mcs] (resetPartLogic s p) ∧ (resetPartLogic s p).pins = s.pins := by
  have hcores : ((coresOf p).foldl (fun s i => s.onCore i CoreRt.cleared) s).pins = s.pins :=
    foldl_pins (fun s i => s.onCore i CoreRt.cleared) (fun _ _ => rfl) _ s
  refine ⟨(coresOf p).foldl (fun s i => s.onCore i CoreRt.cleared) s, ?_, hcores, ?_, ?_⟩
  · exact foldl_keeps _ (fun s i => onCore_keeps s i _) _ s
  · refine foldl_keeps _ (fun s k => ?_) _ _
    split
    · exact onMc_keeps s k _
    · exact s.keeps_refl _
  · refine (foldl_pins _ (fun s k => ?_) _ _).trans hcores
    split <;> rfl

theorem resetPartLogic_prt (s : State) (p q : PartId) :
    (resetPartLogic s p).prt q = if q = p then (s.prt p).cleared else s.prt q := by
  obtain ⟨u, hu, -, hr, -⟩ := resetPartLogic_steps s p
  have h1 : (resetPartLogic s p).prt q = (u.onPart p PartRt.cleared).prt q := congrArg (·.get q) (hr .parts (by simp))
  have h2 (k) : u.prt k = s.prt k := congrArg (·.get k) (hu .parts (by simp))
  rw [h1]
  split
  · next h => subst h; rw [State.prt_onPart_self, h2]
  · next h => rw [State.prt_onPart_ne _ _ _ _ h, h2]

theorem resetPartLogic_resets (s : State) (p : PartId) : s.Resets (· ≠ p) (resetPartLogic s p) := by
  obtain ⟨u, hu, -, hr, hpin⟩ := resetPartLogic_steps s p
  have hk : s.keeps resetKinds (resetPartLogic s p) :=
    State.keeps_trans (State.keeps_mono hu (by simp [resetKinds])) (State.keeps_trans
      (State.keeps_mono (onPart_keeps u p _) (by simp [resetKinds])) (State.keeps_mono hr (by simp [resetKinds])))
  refine .of_keeps hk ?_ (congrArg Pins.errOutN hpin) fun q hq => .of_eq ?_
  · have hpart : (u.onPart p PartRt.cleared).err.expect = u.err.expect := rfl
    exact (keeps_expect hr (by simp)).trans (hpart.trans (keeps_expect hu (by simp)))
  · rw [resetPartLogic_prt, if_neg hq]

/-! ### A partition goes offline (R366) -/

theorem refreshDev_resets {P : PartId → Prop} (s : State) : s.Resets P (refreshDev s) := by
  unfold refreshDev
  split
  · exact .of_keeps_parts (l := [.dev]) (fun k hk => by cases k <;> first | rfl | simp at hk) (by simp [resetKinds])
      (by simp) rfl rfl
  · exact .refl P s

/-- A partition is marked offline. -/
def markOffline (s : State) (p : PartId) : State := s.onPart p fun x => { x with prt := { x.prt with state := .offline } }

theorem partOffline_marked {P : PartId → Prop} (s : State) (p : PartId) : (markOffline s p).Resets P (partOffline s p) := by
  have hcores (u : State) : u.Resets P ((coresOf p).foldl (fun s i => s.onCore i fun x => { x with
      cfh := { x.cfh with adopter := 3 } }) u) :=
    .foldl _ (fun s i => .of_keeps_parts (onCore_keeps s i _) (by simp [resetKinds]) (by simp) rfl rfl) _ u
  have herr (u : State) : u.Resets P (u.onErr fun e => { e with offline := e.offline ||| (1 <<< p.1) }) :=
    .of_keeps_parts (l := [.err]) (fun k hk => by cases k <;> first | rfl | simp at hk) (by simp [resetKinds]) (by simp) rfl rfl
  exact ((((hcores _).trans (herr _)).trans (event_resets _ _ _ _)).trans (faults_resets _ _ _)).trans (refreshDev_resets _)

theorem markOffline_resets (s : State) (p : PartId) : s.Resets (· ≠ p) (markOffline s p) :=
  .of_keeps (State.keeps_mono (onPart_keeps s p _) (by simp [resetKinds])) rfl rfl
    fun _ hq => .of_eq (State.prt_onPart_ne _ _ _ _ hq)

/-! ### A partition resets (R368 to R371) -/

/-- The partition is in reset for a cause, with its history of resets. -/
def resetBegins (s : State) (p : PartId) (src code : U16) : State :=
  let times := ((s.prt p).prt.times.filter fun t => s.within t 600) ++ [s.ticks]
  s.onPart p fun x => { x with prt := { x.prt with
    state := .resetting, times := times, resets600 := BitVec.ofNat 4 (min 15 times.length)
    resetCnt := sat32 x.prt.resetCnt, causeSrc := src, causeCode := code } }

/-- The reset is recorded, and triggers the flight recorder. -/
def resetNoted (s : State) (p : PartId) (src code : U16) (ctx : Option (CtxId × BitVec 12)) : State :=
  recTrigger (event (resetBegins s p src code) srcAgg 0x0C02 none (p.1 + code.toNat * 4 + src.toNat % 0x4000 * 0x40000)) 2
    (BitVec.ofNat 32 (((ctx.map fun c => (ctxGen c.1 c.2).toNat).getD 0) * 65536 + code.toNat))

/-- The contexts that a reset hits. -/
def resetMask (s : State) (p : PartId) : List CtxId := (allFin 16).filter fun c => s.touches c p && (s.ctx c).state != .idle

/-- The contexts that a reset hits are faulted, and the Tally's items whose records lie in the partition are lost. -/
def resetFaults (s : State) (p : PartId) (code : U16) : State :=
  ((resetMask s p).foldl (fun s c =>
    if (s.ctx c).state = .run ∨ (s.ctx c).state = .starting then faultCtx (reactCtx s c) c code false else s) s).onTly fun t =>
      { t with queue := t.queue.mapIdx fun k i =>
        if (i.record.bind homePart) = some p then
          { i with lost := true, faulted := ((s.tly.queue[k]?).map (·.faulted)).getD i.faulted }
        else i }

/-- A reset up to its sample. -/
def resetSampled (s : State) (p : PartId) (src code : U16) (cause : Bytes) (ctx : Option (CtxId × BitVec 12)) : State :=
  writeSample (resetFaults (resetNoted s p src code ctx) p code) p cause
    (sumN ((resetMask (resetNoted s p src code ctx) p).map fun c => 2 ^ c.1))

/-- A reset up to its end, or up to the third one, with which its partition goes offline. -/
def resetCleared (u : State) (p : PartId) : State :=
  (loseBlocks (dropDram (resetPartLogic u p) p) p).onBoot fun b => { b with odo := { b.odo with resets := b.odo.resets + 1 } }

theorem partReset_eq {s : State} {p : PartId} (src code : U16) (cause : Bytes) (ctx : Option (CtxId × BitVec 12))
    (h : (s.prt p).prt.state = .service) :
    partReset s p src code cause ctx = resetCleared (resetSampled s p src code cause ctx) p ∨
      partReset s p src code cause ctx = partOffline (resetCleared (resetSampled s p src code cause ctx) p) p := by
  simp only [partReset, h, ne_eq, not_true_eq_false, if_false]
  split
  · exact .inr rfl
  · exact .inl rfl

theorem resetNoted_resets {P : PartId → Prop} (s : State) (p : PartId) (src code : U16) (ctx : Option (CtxId × BitVec 12)) :
    (resetBegins s p src code).Resets P (resetNoted s p src code ctx) :=
  (event_resets _ _ _ _).trans (recTrigger_resets _ _ _)

theorem resetFaults_resets {P : PartId → Prop} (s : State) (p : PartId) (code : U16) : s.Resets P (resetFaults s p code) := by
  refine (faults_resets (resetMask s p) code s).trans (onTly_resets _ _ ?_)
  exact fun _ => rfl

theorem resetSampled_resets {P : PartId → Prop} (s : State) (p : PartId) (src code : U16) (cause : Bytes)
    (ctx : Option (CtxId × BitVec 12)) : (resetBegins s p src code).Resets P (resetSampled s p src code cause ctx) :=
  ((resetNoted_resets s p src code ctx).trans (resetFaults_resets _ p code)).trans (writeSample_resets _ p cause _)

theorem resetCleared_resets {P : PartId → Prop} (u : State) (p : PartId) :
    (dropDram (resetPartLogic u p) p).Resets P (resetCleared u p) :=
  (loseBlocks_resets _ p).trans (onBoot_resets _ _)

/-- A reset in order: its beginning, up to the sample; the logic and DRAM; the lost blocks; offline at the third one. -/
theorem partReset_steps {s : State} {p : PartId} (src code : U16) (cause : Bytes) (ctx : Option (CtxId × BitVec 12))
    (h : (s.prt p).prt.state = .service) : ∃ u x, (resetBegins s p src code).Resets (fun _ => True) u ∧
      (dropDram (resetPartLogic u p) p).Resets (fun _ => True) x ∧
      (partReset s p src code cause ctx = x ∨ partReset s p src code cause ctx = partOffline x p) :=
  ⟨_, _, resetSampled_resets s p src code cause ctx, resetCleared_resets _ p, partReset_eq src code cause ctx h⟩

theorem resetBegins_resets (s : State) (p : PartId) (src code : U16) : s.Resets (· ≠ p) (resetBegins s p src code) := by
  have hk : s.keeps [.parts] (resetBegins s p src code) := by unfold resetBegins; exact onPart_keeps s p _
  exact .of_keeps (State.keeps_mono hk (by simp [resetKinds])) rfl rfl fun _ hq => .of_eq (State.prt_onPart_ne _ _ _ _ hq)

/-- A reset of one partition leaves the others, every draining context, time and ERR_OUT_N. -/
theorem partReset_resets (s : State) (p : PartId) (src code : U16) (cause : Bytes) (ctx : Option (CtxId × BitVec 12)) :
    s.Resets (· ≠ p) (partReset s p src code cause ctx) := by
  by_cases h : (s.prt p).prt.state = .service
  · obtain ⟨u, x, h1, h2, hx⟩ := partReset_steps src code cause ctx h
    have hto : s.Resets (· ≠ p) x :=
      ((resetBegins_resets s p src code).trans (h1.mono fun _ _ => trivial)).trans
        (((resetPartLogic_resets u p).trans (dropDram_resets _ p)).trans (h2.mono fun _ _ => trivial))
    rcases hx with hx | hx <;> rw [hx]
    · exact hto
    · exact hto.trans ((markOffline_resets x p).trans (partOffline_marked x p))
  · simp only [partReset, ne_eq, h, not_false_eq_true, if_true]
    exact .refl _ s

/-- What a reset leaves of its partition: it is in reset or offline, for its cause, without beads, and where no recorder writes
its DRAM reads zero. -/
structure State.ResetFor (t : State) (p : PartId) (code : U16) : Prop where
  state : (t.prt p).prt.state = .resetting ∨ (t.prt p).prt.state = .offline
  cause : (t.prt p).prt.causeCode = code
  beads : (t.prt p).beads = []

/-- The DRAM of a partition reads zero. -/
def State.dramZero (t : State) (p : PartId) : Prop :=
  ∀ a, 0x1000000000 * p.1 ≤ a → a < 0x1000000000 * (p.1 + 1) → memGet 0 t.mem a = 0

theorem State.dramZero.clears {s t : State} {p : PartId} (h : s.dramZero p) (hc : s.dramClears t) : t.dramZero p :=
  fun a ha ha' => (hc a (by have := p.isLt; omega)).elim (fun e => e.trans (h a ha ha')) id

theorem State.ResetFor.held {s t : State} {p : PartId} {code : U16} (h : s.ResetFor p code) (hh : s.PartHeld t p) :
    t.ResetFor p code := ⟨by rw [hh.state]; exact h.state, hh.cause.trans h.cause, hh.beads.trans h.beads⟩

theorem partReset_done {s : State} {p : PartId} (src code : U16) (cause : Bytes) (ctx : Option (CtxId × BitVec 12))
    (h : (s.prt p).prt.state = .service) : (partReset s p src code cause ctx).ResetFor p code ∧
      (s.noRecorder → (partReset s p src code cause ctx).dramZero p) := by
  obtain ⟨u, x, h1, h2, hx⟩ := partReset_steps src code cause ctx h
  have hb : ((resetBegins s p src code).prt p).prt.state = .resetting ∧
      ((resetBegins s p src code).prt p).prt.causeCode = code := by
    simp [resetBegins]
  have hu := h1.parts p trivial
  have hprt : (dropDram (resetPartLogic u p) p).prt p = (u.prt p).cleared := by
    rw [show (dropDram (resetPartLogic u p) p).prt p = (resetPartLogic u p).prt p from rfl, resetPartLogic_prt, if_pos rfl]
  have hlogic : (dropDram (resetPartLogic u p) p).ResetFor p code := by
    refine ⟨.inl ?_, ?_, ?_⟩ <;> rw [hprt]
    · exact hu.state.trans hb.1
    · exact hu.cause.trans hb.2
    · rfl
  have hxr : x.ResetFor p code := hlogic.held (h2.parts p trivial)
  have hzero : s.noRecorder → x.noRecorder ∧ x.dramZero p := fun hn => by
    have h3 := ((resetPartLogic_resets u p).trans (dropDram_resets _ p)).dram
      (h1.dram ((resetBegins_resets s p src code).dram hn).1).1
    have hd : (dropDram (resetPartLogic u p) p).dramZero p := fun a ha ha' => dropDram_zero _ p ha ha'
    exact ⟨(h2.dram h3.1).1, hd.clears (h2.dram h3.1).2⟩
  rcases hx with hx | hx <;> rw [hx]
  · exact ⟨hxr, fun hn => (hzero hn).2⟩
  · have hm := (partOffline_marked (P := fun _ => True) x p)
    have hoff : (markOffline x p).ResetFor p code := by
      refine ⟨.inr ?_, ?_, ?_⟩
      · simp [markOffline]
      · exact (by simp [markOffline] : ((markOffline x p).prt p).prt.causeCode = (x.prt p).prt.causeCode).trans hxr.cause
      · exact (by simp [markOffline] : ((markOffline x p).prt p).beads = (x.prt p).beads).trans hxr.beads
    refine ⟨hoff.held (hm.parts p trivial), fun hn => ?_⟩
    have h0 : (markOffline x p).dramZero p := (hzero hn).2
    exact h0.clears (hm.dram ((markOffline_resets x p).dram (hzero hn).1).1).2

/-! ### Several partitions reset because of one event -/

section
variable (src code : U16) (cause : Bytes) (ctx : Option (CtxId × BitVec 12))

/-- The resets of a list of partitions. -/
theorem partResets_resets (ps : List PartId) (s : State) :
    s.Resets (· ∉ ps) (ps.foldl (fun s p => partReset s p src code cause ctx) s) := by
  induction ps generalizing s with
  | nil => exact .refl _ s
  | cons p ps ih =>
    refine State.Resets.trans ((partReset_resets s p src code cause ctx).mono fun q hq => ?_) ((ih _).mono fun q hq => ?_)
    · exact fun h => hq (h ▸ List.mem_cons_self)
    · exact fun h => hq (List.mem_cons_of_mem _ h)

/-- A partition that is in reset stays so for its cause. -/
theorem partResets_again {ps : List PartId} {s : State} {p : PartId} (h : s.ResetFor p code) :
    (ps.foldl (fun s p => partReset s p src code cause ctx) s).ResetFor p code := by
  induction ps generalizing s with
  | nil => exact h
  | cons q ps ih =>
    refine ih ?_
    by_cases hq : p = q
    · subst hq
      have hs : (s.prt p).prt.state ≠ .service := by rcases h.state with e | e <;> rw [e] <;> simp
      simp only [partReset, ne_eq, hs, not_false_eq_true, if_true]
      exact h
    · exact h.held ((partReset_resets s q src code cause ctx).parts p hq)

/-- Every partition of the list that was in service has reset for the cause. -/
theorem partResets_done {ps : List PartId} {s : State} {p : PartId} (hm : p ∈ ps) (h : (s.prt p).prt.state = .service) :
    (ps.foldl (fun s p => partReset s p src code cause ctx) s).ResetFor p code ∧
      (s.noRecorder → (ps.foldl (fun s p => partReset s p src code cause ctx) s).dramZero p) := by
  induction ps generalizing s with
  | nil => cases hm
  | cons q ps ih =>
    by_cases hq : p = q
    · subst hq
      obtain ⟨hd, hz⟩ := partReset_done src code cause ctx h
      have hagain := partResets_again src code cause ctx (ps := ps) hd
      refine ⟨hagain, fun hn => ?_⟩
      exact (hz hn).clears ((partResets_resets src code cause ctx ps _).dram
        ((partReset_resets s p src code cause ctx).dram hn).1).2
    · have hr := partReset_resets s q src code cause ctx
      have := ih ((List.mem_cons.1 hm).resolve_left hq) ((hr.parts p hq).state.trans h)
      exact ⟨this.1, fun hn => this.2 (hr.dram hn).1⟩

end

end Sys2Proof.Machine
end

section
/-!
PROOFS. Expiries and the events of a stage: BEAD_TIMEOUT and WDG_LATE reset the partitions that hold the context up (R59, R316,
R368), and the ends of stages are checked against their windows (R42, R43).
-/

open Sys2Proof Sys2Proof.Machine

namespace Sys2Proof.Machine

theorem exec_stageEvent (c : CtxId) (st : Fin 32) (b : Bool) (us : Nat) (s : State) : exec (.stageEvent c st b us) s =
    finish s (match s.stageCfg c st.1 with
      | none => s
      | some x =>
        if b && decide ((s.ctx c).state = .run) && !x.test then
          match tellEnd s c st x with
          | none => s
          | some (min, s) =>
            if us < min then raiseCode s (srcWdg c) cWdgEarly (some (s.cg c)) (wdgDetail st us) else s
        else s) := rfl

/-! ### A fault whose partitions reset -/

theorem countIso_resets {P : PartId → Prop} (s : State) (f : Flt) : s.Resets P (countIso s f) := by
  unfold countIso
  split
  · exact .of_keeps (State.keeps_mono (onPart_keeps s _ _) (by simp [resetKinds])) rfl rfl
      fun q _ => onPart_held s _ _ rfl rfl rfl q
  · exact .refl P s

theorem event_ctx_resets {P : PartId → Prop} (s : State) (src code : U16) (ctx : Option (CtxId × BitVec 12)) (detail : Nat) :
    s.Resets P (event s src code ctx detail) := by
  have hk := event_keeps s src code ctx detail
  have hpin := congrArg Pins.errOutN (event_pins s src code ctx detail)
  have hrec : (event s src code ctx detail).recd = s.recd := hk .recd (by simp)
  have hmem : (event s src code ctx detail).mem = s.mem := hk .mem (by simp)
  have htly : (event s src code ctx detail).tly = s.tly := hk .tly (by simp)
  refine ⟨event_expect s src code ctx detail, hk .ticks (by simp), fun h => ⟨by rw [htly]; exact h.1, hpin.trans h.2⟩,
    fun x hx => ?_, fun q _ => keeps_held hk (by simp) q,
    fun hn => ⟨by rw [State.noRecorder, hrec]; exact hn, fun a _ => .inl (by rw [hmem])⟩⟩
  have hu := event_ctx s src code ctx detail x
  have hst : ((event s src code ctx detail).ctx x).state = (s.ctx x).state :=
    (congrArg CtxRt.state hu : (CtxRt.uncounted _).state = (CtxRt.uncounted _).state)
  have hstop : ((event s src code ctx detail).ctx x).stopLatch = (s.ctx x).stopLatch :=
    (congrArg CtxRt.stopLatch hu : (CtxRt.uncounted _).stopLatch = (CtxRt.uncounted _).stopLatch)
  rw [hst, hstop]
  exact ⟨hx, id⟩

/-- A fault of a context alone leaves every partition, and every context that drains already. -/
theorem raiseFlt_resets {P : PartId → Prop} (s : State) {f : Flt} (ctx : Option (CtxId × BitVec 12)) (hf : f.OfCtx) :
    s.Resets P (raiseFlt s f ctx) := by
  have he : s.Resets P (event (countIso s f) f.src f.code ctx f.detail) :=
    (countIso_resets s f).trans (event_ctx_resets _ _ _ _ _)
  simp only [raiseFlt, hf.notDevice, hf.cores, hf.reset, List.foldl_nil, Bool.false_eq_true, if_false]
  split
  · exact he
  split
  · split
    · split
      · exact he.trans (react_fault_resets _ _ _)
      · exact he
    · exact he
  · exact he

section
variable {s : State} {src code : U16} {detail : Nat} {ps : List PartId} {ctx : CtxId × BitVec 12}
  (hd : isDevice code = false) (hf : isFault code = true) (he : s.err.expect = false)
include hd hf he

/-- One event of a context and the resets that follow it. -/
theorem resetParts_eq : ∃ cause, resetParts s src code detail ctx ps =
    ps.foldl (fun s p => partReset s p src code cause (some ctx)) (raiseCode s src code (some ctx) detail) := by
  have hx : (raiseCode s src code (some ctx) detail).err.expect = false :=
    (raiseFlt_resets (P := fun _ => True) s (some ctx) (Flt.ofCtx_of_code (src := src) (detail := detail) hd hf)).expect.trans he
  simp only [resetParts, hx, Bool.false_eq_true, if_false]
  exact ⟨_, rfl⟩

theorem resetParts_resets : s.Resets (· ∉ ps) (resetParts s src code detail ctx ps) := by
  obtain ⟨cause, h⟩ := resetParts_eq (src := src) (detail := detail) (ps := ps) (ctx := ctx) hd hf he
  rw [h]
  exact (raiseFlt_resets s (some ctx) (Flt.ofCtx_of_code hd hf)).trans (partResets_resets src code cause (some ctx) ps _)

theorem resetParts_done {p : PartId} (hm : p ∈ ps) (hs : (s.prt p).prt.state = .service) :
    (resetParts s src code detail ctx ps).ResetFor p code ∧
      (s.noRecorder → (resetParts s src code detail ctx ps).dramZero p) := by
  obtain ⟨cause, h⟩ := resetParts_eq (src := src) (detail := detail) (ps := ps) (ctx := ctx) hd hf he
  have hr := raiseFlt_resets (P := fun _ => True) s (some ctx) (Flt.ofCtx_of_code (src := src) (detail := detail) hd hf)
  obtain ⟨h1, h2⟩ := partResets_done src code cause (some ctx) hm ((hr.parts p trivial).state.trans hs)
  rw [h]
  exact ⟨h1, fun hn => h2 (hr.dram hn).1⟩

/-- The context of the event, when it ran, drains with its egress stopped, and ERR_OUT_N is low. -/
theorem resetParts_run {c : CtxId} (hs : (s.ctx c).state = .run) (hg : ctx = s.cg c) :
    ((resetParts s src code detail ctx ps).ctx c).state = .draining ∧
      ((resetParts s src code detail ctx ps).ctx c).stopLatch = true ∧
      (resetParts s src code detail ctx ps).tly.holdOver = false ∧
      (resetParts s src code detail ctx ps).pins.errOutN = false := by
  obtain ⟨cause, h⟩ := resetParts_eq (src := src) (detail := detail) (ps := ps) (ctx := ctx) hd hf he
  obtain ⟨hst, hstop, -, -, hpin, hhold, -, -⟩ := raiseFlt_run s { src := src, code := code, detail := detail } c rfl rfl hd hf he
    (.inl hs) _ rfl
  subst hg
  have hr := partResets_resets src code cause (some (s.cg c)) ps (raiseCode s src code (some (s.cg c)) detail)
  rw [h]
  exact ⟨(hr.drains c hst).1, (hr.drains c hst).2 hstop, hr.low ⟨hhold, hpin⟩⟩

end

/-! ### The stages of a frame -/

theorem onStage_keeps (s : State) (c : CtxId) (i : Fin 32) (g : StageRt → StageRt) : s.keeps [.ctxs] (onStage s c i g) :=
  keeps_onFrame _ _ _

theorem onStage_ne (s : State) {c x : CtxId} (i : Fin 32) (g : StageRt → StageRt) (h : x ≠ c) :
    (onStage s c i g).ctx x = s.ctx x := State.ctx_onCtx_ne _ _ _ _ h

theorem onStage_ctx (s : State) (c : CtxId) (i : Fin 32) (g : StageRt → StageRt) : (onStage s c i g).ctx c =
    { s.ctx c with frame := { (s.ctx c).frame with stages := (s.ctx c).frame.stages.set i.1 (g ((s.ctx c).frame.stages.get i)) } } :=
  State.ctx_onCtx_self _ _ _

theorem stageRt_onStage_self (s : State) (c : CtxId) (i : Fin 32) (g : StageRt → StageRt) :
    (onStage s c i g).stageRt c i = g (s.stageRt c i) := by
  simp only [State.stageRt, onStage_ctx]
  exact vget_set_self _ _ _ _

theorem stageRt_onStage_ne (s : State) (c : CtxId) {i j : Fin 32} (g : StageRt → StageRt) (h : j ≠ i) :
    (onStage s c i g).stageRt c j = s.stageRt c j := by
  simp only [State.stageRt, onStage_ctx]
  exact vget_set_ne _ _ _ _ _ h

theorem cWdgEarly_ofCtx (src : U16) (detail : Nat) : Flt.OfCtx { src := src, code := cWdgEarly, detail := detail } :=
  Flt.ofCtx_of_code (by decide) (by decide)

/-- An end that is told to the watchdog. -/
theorem stageEvent_told {s u : State} {c : CtxId} {st : Fin 32} {x : StageCfg} {min us : Nat}
    (hx : s.stageCfg c st.1 = some x) (ht : x.test = false) (hs : (s.ctx c).state = .run) (htell : tellEnd s c st x = some (min, u)) :
    exec (.stageEvent c st true us) s =
      finish s (if us < min then raiseCode u (srcWdg c) cWdgEarly (some (u.cg c)) (wdgDetail st us) else u) := by
  rw [exec_stageEvent]
  simp [hx, ht, hs, htell]

/-- One inside its window changes nothing else. -/
theorem stageEvent_inside {s u : State} {c : CtxId} {st : Fin 32} {x : StageCfg} {min us : Nat}
    (hx : s.stageCfg c st.1 = some x) (ht : x.test = false) (hs : (s.ctx c).state = .run) (htell : tellEnd s c st x = some (min, u))
    (hk : s.keeps [.ctxs] u) (hne : ∀ y, y ≠ c → u.ctx y = s.ctx y) (hmin : min ≤ us) :
    ∃ t, exec (.stageEvent c st true us) s = .next t ∧ t.ctx c = u.ctx c ∧ (∀ y, y ≠ c → t.ctx y = s.ctx y) ∧ s.keeps [.ctxs] t := by
  obtain ⟨t, htn, hkt, hq⟩ := finish_keeps (old := s) hk
  exact ⟨t, by rw [stageEvent_told hx ht hs htell, if_neg (by omega), htn], hq.ctx c, fun y hy => (hq.ctx y).trans (hne y hy), hkt⟩

/-- One before its minimum faults the context. -/
theorem stageEvent_early {s u : State} {c : CtxId} {st : Fin 32} {x : StageCfg} {min us : Nat}
    (hx : s.stageCfg c st.1 = some x) (ht : x.test = false) (hs : (s.ctx c).state = .run) (htell : tellEnd s c st x = some (min, u))
    (hk : s.keeps [.ctxs] u) (hne : ∀ y, y ≠ c → u.ctx y = s.ctx y) (hrun : (u.ctx c).state = .run) (hmin : us < min)
    (he : s.err.expect = false) :
    ∃ t, exec (.stageEvent c st true us) s = .next t ∧ (t.ctx c).state = .draining ∧ (t.ctx c).stopLatch = true ∧
      (∀ y, y ≠ c → t.ctx y = s.ctx y) ∧ t.mem = s.mem := by
  obtain ⟨t, htn, htorn⟩ := finish_raiseFlt s u { src := srcWdg c, code := cWdgEarly, detail := wdgDetail st us } c
    (cWdgEarly_ofCtx _ _) ((keeps_expect hk (by simp)).trans he) (.inl hrun)
  exact ⟨t, by rw [stageEvent_told hx ht hs htell, if_pos hmin]; exact htn, htorn.state, htorn.stop,
    fun y hy => (htorn.others y hy).trans (hne y hy), htorn.mem.trans (hk .mem (by simp))⟩

/-- An end of this frame that has not been told is told. -/
theorem tellEnd_now {s : State} {c : CtxId} {st : Fin 32} {x : StageCfg}
    (hf : (s.ctx c).frame.ends.find? (fun e => decide (e.1 = st)) = none) (hp : (s.stageRt c st).phase = .ended)
    (ht : (s.stageRt c st).told = false) :
    tellEnd s c st x = some ((s.window c x).1, onStage s c st fun r => { r with told := true }) := by
  simp [tellEnd, hf, hp, ht]

/-- The ends of earlier frames but those of one stage. -/
def endsWithout (s : State) (c : CtxId) (st : Fin 32) : State :=
  s.onFrame c fun f => { f with ends := f.ends.filter fun d => decide (d.1 ≠ st) }

/-- An end that an earlier frame has left comes first. -/
theorem tellEnd_before {s : State} {c : CtxId} {st : Fin 32} {x : StageCfg} {e : Fin 32 × Nat}
    (hf : (s.ctx c).frame.ends.find? (fun e => decide (e.1 = st)) = some e) :
    tellEnd s c st x = some (e.2, endsWithout s c st) := by
  simp only [tellEnd, hf]
  rfl

theorem endsWithout_ctx (s : State) (c : CtxId) (st : Fin 32) : (endsWithout s c st).ctx c =
    { s.ctx c with frame := { (s.ctx c).frame with ends := (s.ctx c).frame.ends.filter fun d => decide (d.1 ≠ st) } } :=
  State.ctx_onCtx_self _ _ _

/-! ### The commands -/

theorem exec_beadTimeout {s : State} {q : QueueId} {e : QEntry} {r : List QEntry} (hq : (s.queue q).entries = e :: r)
    (hx : e.executed = false) (hw : s.waitDone q (hdrOf e.bytes) = false) : exec (.beadTimeout q) s =
      finish s (resetParts s (srcQueue q) cBeadTimeout (descDetail q (hdrOf e.bytes) e.origin) (s.cg e.ctx) [qPart q]) := by
  show execBeadTimeout q s = _
  simp [execBeadTimeout, hq, hx, hw]

/-- The stage that is late is marked. -/
def markLate (s : State) (c : CtxId) (st : Fin 32) : State := onStage s c st fun r => { r with late := true }

theorem exec_wdgLate {s : State} {c : CtxId} {st : Fin 32} {us : Nat} {x : StageCfg} (hx : s.stageCfg c st.1 = some x)
    (ht : x.test = false) (hs : (s.ctx c).state = .run) (hp : (s.stageRt c st).phase = .running)
    (hl : (s.stageRt c st).late = false) (hw : (s.window c x).2 < us) : exec (.wdgLate c st us) s =
      finish s (resetParts (markLate s c st) (srcWdg c) cWdgLate (wdgDetail st us) (s.cg c) (openParts s c st x)) := by
  show execWdgLate c st us s = _
  simp only [execWdgLate, hx, hs, hp, hl, ht, hw, decide_true, Bool.and_self, Bool.not_false, if_true]
  rfl

theorem exec_testStageEnd (c : CtxId) (st : Fin 32) (s : State) : exec (.testStageEnd c st) s =
    finish s (if !s.testOpen c st then s
      else if (s.ctx c).frame.tests.contains st then s.onFrame c fun f => { f with tests := f.tests.erase st }
      else onStage s c st fun r => { r with phase := .ended }) := rfl

end Sys2Proof.Machine

open Sys2Proof Sys2Proof.Machine

/-- Settles O13: an expiry is one fault and the resets that follow it; an end is told where its stage, of this frame or of an
earlier one, has one to tell. -/
theorem expiriesFaultAndWindowsAreChecked : Obligations.ExpiriesFaultAndWindowsAreChecked := by
  unfold Obligations.ExpiriesFaultAndWindowsAreChecked
  refine ⟨?_, ?_, ?_, ?_⟩
  · intro s q e r he hq hx hw hs hp
    have hd : isDevice cBeadTimeout = false := by decide
    have hf : isFault cBeadTimeout = true := by decide
    obtain ⟨hst, hstop, hhold, hpin⟩ := resetParts_run (src := srcQueue q) (detail := descDetail q (hdrOf e.bytes) e.origin)
      (ps := [qPart q]) hd hf he hs rfl
    obtain ⟨⟨hpst, hcause, -⟩, -⟩ := resetParts_done (src := srcQueue q) (detail := descDetail q (hdrOf e.bytes) e.origin)
      (ctx := s.cg e.ctx) hd hf he (List.mem_singleton.2 rfl) hp
    have hr := resetParts_resets (src := srcQueue q) (detail := descDetail q (hdrOf e.bytes) e.origin) (ps := [qPart q])
      (ctx := s.cg e.ctx) hd hf he
    obtain ⟨t, ht, hqt⟩ := finish_next s (resetParts s (srcQueue q) cBeadTimeout (descDetail q (hdrOf e.bytes) e.origin)
      (s.cg e.ctx) [qPart q])
    exact ⟨t, (exec_beadTimeout hq hx hw).trans ht, by rw [hqt.ctx]; exact hst, by rw [hqt.ctx]; exact hstop,
      by rw [hqt.prt]; exact hpst, by rw [hqt.prt]; exact hcause, (hqt.errOut hhold).trans hpin,
      (hqt.1 .ticks (by simp)).trans hr.ticks⟩
  · intro s c st us x he hx ht hs hp hl hw hserve
    have hd : isDevice cWdgLate = false := by decide
    have hf : isFault cWdgLate = true := by decide
    have hk : s.keeps [.ctxs] (markLate s c st) := onStage_keeps _ _ _ _
    have hs' : ((markLate s c st).ctx c).state = .run := by rw [markLate, onStage_ctx]; exact hs
    have hg : s.cg c = (markLate s c st).cg c := by
      simp only [State.cg, markLate, onStage_ctx]
    have he' := (keeps_expect hk (by simp)).trans he
    obtain ⟨hst, hstop, hhold, hpin⟩ := resetParts_run (src := srcWdg c) (detail := wdgDetail st us)
      (ps := openParts s c st x) hd hf he' hs' hg
    obtain ⟨t, ht', hqt⟩ := finish_next s (resetParts (markLate s c st) (srcWdg c) cWdgLate (wdgDetail st us) (s.cg c)
      (openParts s c st x))
    refine ⟨t, (exec_wdgLate hx ht hs hp hl hw).trans ht', by rw [hqt.ctx]; exact hst, by rw [hqt.ctx]; exact hstop, fun p hm => ?_,
      (hqt.errOut hhold).trans hpin⟩
    rw [hqt.prt]
    exact (resetParts_done hd hf he' hm ((keeps_held hk (by simp) p).state.trans (hserve p))).1.state
  · intro s c st x hx
    refine ⟨fun us b hnone => ?_, fun ht hs hf hp htold => ⟨fun us hmin => ?_, fun us hmin he => ?_⟩,
      fun e ht hs hf => ⟨fun us hmin => ?_, fun us hmin he => ?_⟩⟩
    · obtain ⟨t, htn, hq⟩ := finish_next s s
      refine ⟨t, ?_, hq.1⟩
      rw [exec_stageEvent, ← htn]
      rcases hnone with h | h | h | h <;> simp [hx, h]
    · obtain ⟨t, h1, h2, h3, h4⟩ := stageEvent_inside hx ht hs (tellEnd_now hf hp htold) (onStage_keeps _ _ _ _)
        (fun y hy => onStage_ne _ _ _ hy) hmin
      refine ⟨t, h1, ?_, fun i hi => ?_, ?_, h3, h4⟩
      · simp only [State.stageRt, h2]
        exact stageRt_onStage_self s c st _
      · simp only [State.stageRt, h2]
        exact stageRt_onStage_ne s c _ hi
      · rw [h2, onStage_ctx]; exact hs
    · exact stageEvent_early hx ht hs (tellEnd_now hf hp htold) (onStage_keeps _ _ _ _) (fun y hy => onStage_ne _ _ _ hy)
        (by rw [onStage_ctx]; exact hs) hmin he
    · obtain ⟨t, h1, h2, h3, h4⟩ := stageEvent_inside hx ht hs (tellEnd_before hf) (keeps_onFrame _ _ _)
        (fun y hy => State.ctx_onCtx_ne _ _ _ _ hy) hmin
      exact ⟨t, h1, by rw [h2, endsWithout_ctx], by rw [h2, endsWithout_ctx]; exact hs, h3, h4⟩
    · exact stageEvent_early hx ht hs (tellEnd_before hf) (keeps_onFrame _ _ _) (fun y hy => State.ctx_onCtx_ne _ _ _ _ hy)
        (by rw [endsWithout_ctx]; exact hs) hmin he
  · intro s c st
    refine ⟨fun ho hm => ?_, fun hs hm => ?_, fun ho => ?_⟩
    · obtain ⟨t, ht, hk, hq⟩ := finish_keeps (old := s) (onStage_keeps s c st fun r => { r with phase := .ended })
      refine ⟨t, ?_, ?_, fun i hi => ?_, fun y hy => (hq.ctx y).trans (onStage_ne _ _ _ hy), hk⟩
      · rw [exec_testStageEnd, ← ht]
        simp [ho, hm]
      · simp only [State.stageRt, hq.ctx]
        exact congrArg StageRt.phase (stageRt_onStage_self s c st _)
      · simp only [State.stageRt, hq.ctx]
        exact stageRt_onStage_ne s c _ hi
    · obtain ⟨t, ht, hk, hq⟩ := finish_keeps (old := s) (keeps_onFrame s c fun f => { f with tests := f.tests.erase st })
      have ho : s.testOpen c st = true := by simp [State.testOpen, hs, hm]
      refine ⟨t, ?_, ?_, fun y hy => (hq.ctx y).trans (State.ctx_onCtx_ne _ _ _ _ hy), hk⟩
      · rw [exec_testStageEnd, ← ht]
        simp [ho, hm]
      · rw [hq.ctx, State.onFrame, State.ctx_onCtx_self]
    · obtain ⟨t, ht, hq⟩ := finish_next s s
      exact ⟨t, by rw [exec_testStageEnd, ← ht]; simp [ho], hq.1⟩
end

section
/-!
PROOFS. The end of a drain, and its timeout (R34, R361, R362, R368).
-/

open Sys2Proof Sys2Proof.Machine

namespace Sys2Proof.Machine

theorem exec_drainComplete (c : CtxId) (ns : U32) (s : State) :
    exec (.drainComplete c ns) s = finish s (if (s.ctx c).state = .draining then drained s c ns else s) := rfl

/-- A register of the host port that stays where the host port does. -/
theorem keeps_hstOf {s t : State} {l : List Kind} (h : s.keeps l t) (hn : Kind.hst ∉ l) {β : Type} (g : HstRegs → β)
    (hg : ∀ x, g x.still = g x) : g t.hst = g s.hst := by
  rw [← hg t.hst, ← hg s.hst, (h .hst hn : t.hst.still = s.hst.still)]

/-! ### The operating points that follow a change of contexts (R470) -/

theorem askDiv_keeps (s : State) (p : PartId) (d : Divider) : s.keeps [.parts] (askDiv s p d) := by
  unfold askDiv
  split
  · exact s.keeps_refl _
  · exact onPart_keeps s p _

theorem chooseDivs_keeps (s : State) : s.keeps [.parts] (chooseDivs s) := by
  refine foldl_keeps _ (fun s p => ?_) _ s
  unfold chooseDiv
  split
  · exact s.keeps_refl _
  · exact askDiv_keeps _ _ _

theorem toIdle_keeps (s : State) (c : CtxId) : s.keeps [.ctxs, .parts] (toIdle s c) :=
  State.keeps_trans (State.keeps_mono (setCtxState_keeps s c .idle) (by simp)) (State.keeps_mono (chooseDivs_keeps _) (by simp))

theorem toIdle_ctx (s : State) (c x : CtxId) : (toIdle s c).ctx x = (setCtxState s c .idle).ctx x :=
  congrArg (·.get x) (chooseDivs_keeps _ .ctxs (by simp))

/-! ### The end of a drain -/

/-- The record of a drain's end. -/
def drainNoted (s : State) (c : CtxId) (ns : U32) : State := event s srcAgg 0x0C05 (some (s.cg c)) ns.toNat

theorem drainNoted_keeps (s : State) (c : CtxId) (ns : U32) : s.keeps [.err, .ctxs] (drainNoted s c ns) := event_keeps _ _ _ _ _

theorem drainNoted_noted (s : State) (c : CtxId) (ns : U32) : s.Noted c (drainNoted s c ns) := event_noted _ _ _ _ _ _

theorem drainNoted_stopTag (s : State) (c : CtxId) (ns : U32) : ((drainNoted s c ns).ctx c).stopTag = (s.ctx c).stopTag :=
  (congrArg CtxRt.stopTag (drainNoted_noted s c ns).self : (CtxRt.uncounted _).stopTag = (CtxRt.uncounted _).stopTag)

/-- What follows the record. -/
theorem drained_eq (s : State) (c : CtxId) (ns : U32) : drained s c ns =
    if (drainNoted s c ns).rep.stopping.contains c then replayStopped (drainNoted s c ns) c
    else match ((drainNoted s c ns).ctx c).stopTag with
    | some tag => stopEnds (toIdle ((drainNoted s c ns).onCtx c fun x => { x with stopTag := none }) c) tag mbOk
    | none =>
      if (setCtxState (drainNoted s c ns) c .faulted).peers c ≠ 0 then sendAck (setCtxState (drainNoted s c ns) c .faulted) c
      else restart (setCtxState (drainNoted s c ns) c .faulted) c := rfl

theorem drained_stopped {s : State} {c : CtxId} {ns : U32} {tag : U16} (hr : c ∉ s.rep.stopping)
    (ht : (s.ctx c).stopTag = some tag) : drained s c ns =
      stopEnds (toIdle ((drainNoted s c ns).onCtx c fun x => { x with stopTag := none }) c) tag mbOk := by
  have hrep : (drainNoted s c ns).rep = s.rep := drainNoted_keeps s c ns .rep (by simp)
  have htag := (drainNoted_stopTag s c ns).trans ht
  simp only [drained_eq, hrep, List.contains_eq_mem, hr, decide_false, Bool.false_eq_true, if_false, htag]

/-- A stopped context whose drain is over, with the tag of its command answered. -/
def drainStops (s : State) (c : CtxId) (ns : U32) : State :=
  toIdle ((drainNoted s c ns).onCtx c fun x => { x with stopTag := none }) c

theorem drainStops_keeps (s : State) (c : CtxId) (ns : U32) : s.keeps [.err, .ctxs, .parts] (drainStops s c ns) :=
  State.keeps_trans (State.keeps_mono (drainNoted_keeps s c ns) (by simp))
    (State.keeps_trans (State.keeps_mono (State.keeps_onCtx _ c _) (by simp)) (State.keeps_mono (toIdle_keeps _ c) (by simp)))

theorem drainStops_ctx (s : State) (c : CtxId) (ns : U32) :
    ((drainStops s c ns).ctx c).state = .idle ∧ ((drainStops s c ns).ctx c).stopTag = none ∧
      ∀ x, x ≠ c → (drainStops s c ns).ctx x = s.ctx x := by
  refine ⟨?_, ?_, fun x hx => ?_⟩
  · rw [drainStops, toIdle_ctx, setCtxState_self]
  · rw [drainStops, toIdle_ctx, setCtxState_self, State.ctx_onCtx_self]
  · rw [drainStops, toIdle_ctx, setCtxState_ne _ _ hx, State.ctx_onCtx_ne _ _ _ _ hx]
    exact (drainNoted_noted s c ns).others x hx

/-- A CTX_STOP that runs ends with OK when its drain is over (R501, R503). -/
theorem drained_answers {s : State} {c : CtxId} {ns : U32} {tag : U16} (hr : c ∉ s.rep.stopping)
    (ht : (s.ctx c).stopTag = some tag) (h1 : s.hst.state = 1) (h2 : s.hst.cmdTag = tag) (hp : s.pending? tag 0x11 = none) :
    drained s c ns = mboxDone (drainStops s c ns) tag 0x11 mbOk [] := by
  have hk := drainStops_keeps s c ns
  have hstate : (drainStops s c ns).hst.state = 1 := (keeps_hstOf hk (by simp) HstRegs.state fun _ => rfl).trans h1
  have htag : (drainStops s c ns).hst.cmdTag = tag := (keeps_hstOf hk (by simp) HstRegs.cmdTag fun _ => rfl).trans h2
  have hpend : (drainStops s c ns).pending? tag 0x11 = none := by
    rw [State.pending?, keeps_hstOf hk (by simp) HstRegs.pend fun _ => rfl]
    exact hp
  rw [drained_stopped hr ht, ← drainStops, stopEnds, hpend, if_neg (by simp), if_pos ⟨hstate, htag⟩]

theorem drained_faulted {s : State} {c : CtxId} {ns : U32} (hr : c ∉ s.rep.stopping) (ht : (s.ctx c).stopTag = none)
    (hp : s.peers c = 0) (ha : s.autoRestart c = false) : drained s c ns = setCtxState (drainNoted s c ns) c .faulted := by
  have hrep : (drainNoted s c ns).rep = s.rep := drainNoted_keeps s c ns .rep (by simp)
  have htag := (drainNoted_stopTag s c ns).trans ht
  have himg : (setCtxState (drainNoted s c ns) c .faulted).img = s.img :=
    (setCtxState_keeps _ c .faulted .img (by simp)).trans (drainNoted_keeps s c ns .img (by simp))
  have hcfg : (setCtxState (drainNoted s c ns) c .faulted).ctxCfg c = s.ctxCfg c := by
    simp only [State.ctxCfg, State.secD, State.sec, himg]
  have hpeers : (setCtxState (drainNoted s c ns) c .faulted).peers c = 0 := by rw [← hp]; simp only [State.peers, hcfg]
  have hauto : (setCtxState (drainNoted s c ns) c .faulted).autoRestart c = false := by
    rw [← ha]; simp only [State.autoRestart, State.cflag, hcfg]
  simp only [drained_eq, hrep, List.contains_eq_mem, hr, decide_false, Bool.false_eq_true, if_false, htag, hpeers,
    ne_eq, not_true_eq_false, restart, State.restartable, hauto, Bool.and_false, Bool.false_and, State.runsPeered, decide_false,
    Bool.not_false, Bool.true_or, if_true]

/-! ### The drain timeout -/

/-- The running CTX_STOP of a context whose drain timed out ends with PENDING (R501). -/
def stopPends (s : State) (c : CtxId) : State :=
  match (s.ctx c).stopTag with
  | some tag => if s.hst.state = 1 ∧ s.hst.cmdTag = tag then mboxPend s tag 0x11 [BitVec.ofNat 8 c.1] else s
  | none => s

theorem stopPends_keeps (s : State) (c : CtxId) : s.keeps [.hst] (stopPends s c) := by
  unfold stopPends
  split
  · split
    · refine State.keeps_trans (t := s.onHst _) (State.keeps_onHst _ _) (mboxDone_keeps _ _ _ _ _)
    · exact s.keeps_refl _
  · exact s.keeps_refl _

theorem exec_drainTimeout {s : State} {c : CtxId} (h : BitVec 4) (hd : (s.ctx c).state = .draining) : exec (.drainTimeout c h) s =
    finish s (resetParts (stopPends s c) srcAgg cDrainTimeout 0 (s.cg c) ((allFin 4).filter fun p => h.getLsbD p.1)) := by
  have hcg : (stopPends s c).cg c = s.cg c := by
    have hc : (stopPends s c).ctx c = s.ctx c := congrArg (·.get c) (stopPends_keeps s c .ctxs (by simp))
    simp only [State.cg, hc]
  rw [← hcg]
  show execDrainTimeout c h s = _
  simp only [execDrainTimeout, hd, if_true]
  rfl

end Sys2Proof.Machine

open Sys2Proof Sys2Proof.Machine

/-- Settles O41: the record of the end, and then the command's answer or FAULTED; a timeout is one event and the resets of the
partitions that hold a transaction. -/
theorem drainsEndOrTimeOut : Obligations.DrainsEndOrTimeOut := by
  unfold Obligations.DrainsEndOrTimeOut
  refine ⟨fun s c ns hd hr => ⟨fun tag ht h1 h2 hpend => ?_, fun ht hp ha => ?_⟩, fun s c h hd he => ?_⟩
  · obtain ⟨hst, htag, hne⟩ := drainStops_ctx s c ns
    obtain ⟨t, htn, hq⟩ := finish_next s (mboxDone (drainStops s c ns) tag 0x11 mbOk [])
    have hctx (x) : t.ctx x = (drainStops s c ns).ctx x :=
      (hq.ctx x).trans (congrArg (·.get x) (mboxDone_keeps _ tag 0x11 mbOk [] .ctxs (by simp)))
    exact ⟨t, by rw [exec_drainComplete, if_pos hd, drained_answers hr ht h1 h2 hpend, htn], by rw [hctx]; exact hst,
      by rw [hctx]; exact htag, hq.answered (mboxDone_answered _ _ _ _ _), fun x hx => (hctx x).trans (hne x hx)⟩
  · obtain ⟨t, htn, hk, hq⟩ := finish_keeps (old := s) (State.keeps_trans (l := [.ctxs, .err, .hst])
      (State.keeps_mono (drainNoted_keeps s c ns) (by simp)) (State.keeps_mono (setCtxState_keeps _ c .faulted) (by simp)))
    refine ⟨t, by rw [exec_drainComplete, if_pos hd, drained_faulted hr ht hp ha, htn], ?_, ?_, fun x hx => ?_, hk⟩
    · rw [hq.ctx, setCtxState_self]
    · rw [hq.ctx, setCtxState_self]
      exact (drainNoted_noted s c ns).gen
    · rw [hq.ctx, setCtxState_ne _ _ hx]
      exact (drainNoted_noted s c ns).others x hx
  · have hdev : isDevice cDrainTimeout = false := by decide
    have hflt : isFault cDrainTimeout = true := by decide
    have hk := stopPends_keeps s c
    have hctx : (stopPends s c).ctx c = s.ctx c := congrArg (·.get c) (hk .ctxs (by simp))
    have he' : (stopPends s c).err.expect = false := (keeps_expect hk (by simp)).trans he
    have hrec : (stopPends s c).recd = s.recd := hk .recd (by simp)
    have hr := resetParts_resets (src := srcAgg) (detail := 0) (ctx := s.cg c) (ps := (allFin 4).filter fun p => h.getLsbD p.1)
      hdev hflt he'
    obtain ⟨t, ht, hq⟩ := finish_next s (resetParts (stopPends s c) srcAgg cDrainTimeout 0 (s.cg c)
      ((allFin 4).filter fun p => h.getLsbD p.1))
    refine ⟨t, (exec_drainTimeout h hd).trans ht, by rw [hq.ctx]; exact (hr.drains c (by rw [hctx]; exact hd)).1,
      fun p hp hs => ?_⟩
    obtain ⟨⟨hst, hcause, hbeads⟩, hzero⟩ := resetParts_done (src := srcAgg) (detail := 0) (ctx := s.cg c)
      (ps := (allFin 4).filter fun p => h.getLsbD p.1) hdev hflt he' (List.mem_filter.2 ⟨List.mem_finRange p, hp⟩)
      ((keeps_held hk (by simp) p).state.trans hs)
    refine ⟨by rw [hq.prt]; exact hst, by rw [hq.prt]; exact hcause, by rw [hq.prt]; exact hbeads, fun h1 h2 a ha ha' => ?_⟩
    rw [hq.mem]
    exact hzero ⟨by rw [hrec]; exact h1, by rw [hrec]; exact h2⟩ a ha ha'
end

section
/-!
PROOFS. A context enters RUN once the domains in use are ON (R34, R437, R452, R476).
-/

open Sys2Proof Sys2Proof.Machine

namespace Sys2Proof.Machine

theorem exec_listsLoaded (c : CtxId) (s : State) : exec (.listsLoaded c) s =
    finish s (if (s.ctx c).state = .starting && s.canLoad c then
      if (List.range 64).any (bringOn s).domWaits then bringOn s else enterRun (bringOn s) c
    else s) := rfl

/-! ### Domains that wait (R475, R476) -/

/-- No domain has an ID above 63. -/
theorem domOf_absent {n : Nat} (h : 64 ≤ n) : domOf n = .absent := by
  unfold domOf
  rw [dif_neg (by omega), dif_neg (by omega), if_neg (by omega), if_neg (by omega), dif_neg (by omega)]
  split <;> first | omega | rfl

theorem domWaits_below {s : State} {n : Nat} (h : s.domWaits n = true) : n < 64 := by
  by_contra hn
  simp [State.domWaits, domPresent, domOf_absent (Nat.le_of_not_lt hn)] at h

/-- Which domains are in use follows from the image, the slot maps, the ring, the host and the contexts that are not IDLE. -/
theorem domInUse_congr {s t : State} (hi : t.img = s.img) (hp : t.parts = s.parts) (hr : t.rng = s.rng)
    (hh : t.hst.hostAbsent = s.hst.hostAbsent) (hx : ∀ c, ((t.ctx c).state != .idle) = ((s.ctx c).state != .idle)) (n : Nat) :
    t.domInUse n = s.domInUse n := by
  have ha : t.active = s.active := by simp only [State.active, hx]
  simp only [State.domInUse, State.coreInUse, ha, hx, State.lists, State.regions, State.camSlots, State.camProf, State.memInUse,
    State.enabled, State.cflag, State.ctxCfg, State.devCfg, State.flowEntry, State.secD, State.sec, State.ringEn, State.dflag,
    hi, hr, hh, State.prt, hp] <;> rfl

theorem domFenced_congr {s t : State} (hc : t.cores = s.cores) (n : Nat) : t.domFenced n = s.domFenced n := by
  simp only [State.domFenced, State.isFenced, State.core, hc]

theorem dom_congr {s t : State} (hp : t.pwr = s.pwr) (n : Nat) : t.dom n = s.dom n := by
  unfold State.dom; rw [hp]

theorem domLive_congr {s t : State} (hp : t.pwr = s.pwr) (n : Nat) : t.domLive n = s.domLive n := by
  rw [State.domLive, State.domLive, dom_congr hp, hp]

/-- What changes only power, the controllers of the stacks and what no domain is in use for. -/
theorem domWaits_congr {s t : State} {l : List Kind} (h : s.keeps l t)
    (hl : ∀ k, k ∈ l → k ∈ [.ctxs, .dev, .mcs, .lks, .boot, .hst]) (hh : t.hst.hostAbsent = s.hst.hostAbsent)
    (hx : ∀ c, ((t.ctx c).state != .idle) = ((s.ctx c).state != .idle)) (n : Nat) : t.domWaits n = s.domWaits n := by
  have hn (k : Kind) (hk : k ∉ [Kind.ctxs, .dev, .mcs, .lks, .boot, .hst]) : k ∉ l := fun hm => hk (hl k hm)
  have hpart : t.part = s.part := h .part (hn _ (by simp))
  rw [State.domWaits, State.domWaits, domInUse_congr (h .img (hn _ (by simp))) (h .parts (hn _ (by simp)))
    (h .rng (hn _ (by simp))) hh hx, domFenced_congr (h .cores (hn _ (by simp))), domLive_congr (h .pwr (hn _ (by simp))), hpart]

/-! ### The PWP brings them ON -/

theorem onDom_keeps (s : State) (n : Nat) (f : DomRt → DomRt) : s.keeps [.pwr] (s.onDom n f) := by
  intro k hk
  unfold State.onDom
  split <;> cases k <;> first | rfl | simp at hk

theorem dom_onDom_self (s : State) {n : Nat} (f : DomRt → DomRt) (h : n < 64) : (s.onDom n f).dom n = f (s.dom n) := by
  simp only [State.onDom, State.dom, h, dif_pos]
  exact vget_set_self s.pwr.doms ⟨n, h⟩ _ _

theorem dom_onDom_ne (s : State) {n m : Nat} (f : DomRt → DomRt) (h : m ≠ n) : (s.onDom n f).dom m = s.dom m := by
  by_cases hn : n < 64
  · by_cases hm : m < 64
    · simp only [State.onDom, State.dom, hn, hm, dif_pos]
      exact vget_set_ne _ ⟨n, hn⟩ ⟨m, hm⟩ _ _ fun e => h (congrArg Fin.val e)
    · simp only [State.dom, hm, dif_neg, not_false_eq_true]
  · simp only [State.onDom, hn, dif_neg, not_false_eq_true]

theorem onDom_pll (s : State) (n : Nat) (f : DomRt → DomRt) : (s.onDom n f).pwr.pll = s.pwr.pll := by
  unfold State.onDom; split <;> rfl

/-- The controller of a stack that comes ON trains. -/
def domTrained (s : State) (n : Nat) : State :=
  match domOf n with
  | .mem k => s.onMc k fun m => { m with present := true, trained := true }
  | _ => s

theorem domUp_eq (s : State) (n src : Nat) (pll : Bool) : domUp s n src pll = (domTrained s n).onDom n fun d => d.up src pll := rfl

theorem domTrained_keeps (s : State) (n : Nat) : s.keeps [.mcs] (domTrained s n) := by
  unfold domTrained
  split
  · exact onMc_keeps _ _ _
  · exact s.keeps_refl _

theorem domUp_keeps (s : State) (n src : Nat) (pll : Bool) : s.keeps [.pwr, .mcs] (domUp s n src pll) := by
  rw [domUp_eq]
  exact State.keeps_trans (State.keeps_mono (domTrained_keeps s n) (by simp)) (State.keeps_mono (onDom_keeps _ n _) (by simp))

/-- A domain that the PWP brings ON is live; the others are as before. -/
theorem domUp_live (s : State) {n : Nat} (src : Nat) (h : n < 64) (m : Nat) :
    (domUp s n src s.pwr.pll).domLive m = if m = n then true else s.domLive m := by
  have hpwr : (domTrained s n).pwr = s.pwr := domTrained_keeps s n .pwr (by simp)
  rw [domUp_eq, State.domLive, onDom_pll, hpwr]
  split
  · next hm =>
    subst hm
    rw [dom_onDom_self _ _ h]
    cases hp : s.pwr.pll <;> simp [DomRt.up]
  · next hm =>
    rw [dom_onDom_ne _ _ hm, State.domLive, dom_congr hpwr]

/-- One step of `bringOn`. -/
def bringStep (s : State) (n : Nat) : State := if s.domWaits n then domUp s n 7 s.pwr.pll else s

theorem bringStep_keeps (s : State) (n : Nat) : s.keeps [.pwr, .mcs] (bringStep s n) := by
  unfold bringStep
  split
  · exact domUp_keeps _ _ _ _
  · exact s.keeps_refl _

theorem domWaits_of_live {s t : State} (h : s.keeps [.pwr, .mcs] t) (n : Nat) :
    t.domWaits n = (domPresent s.part n && !domFixed n && !s.domFenced n && s.domInUse n && !t.domLive n) := by
  have hpart : t.part = s.part := h .part (by simp)
  have hctx (c) : t.ctx c = s.ctx c := congrArg (·.get c) (h .ctxs (by simp))
  rw [State.domWaits, domInUse_congr (h .img (by simp)) (h .parts (by simp)) (h .rng (by simp))
    (keeps_hstOf h (by simp) HstRegs.hostAbsent fun _ => rfl) (fun c => by rw [hctx]), domFenced_congr (h .cores (by simp)), hpart]

theorem bringStep_waits (s : State) (n m : Nat) : (bringStep s n).domWaits m = if m = n then false else s.domWaits m := by
  rw [domWaits_of_live (bringStep_keeps s n)]
  unfold bringStep
  split
  · next hw =>
    rw [domUp_live s 7 (domWaits_below hw)]
    split
    · simp
    · rfl
  · next hw =>
    split
    · next hm => subst hm; simpa [State.domWaits] using hw
    · rfl

theorem bringSteps_keeps (l : List Nat) (s : State) : s.keeps [.pwr, .mcs] (l.foldl bringStep s) :=
  foldl_keeps _ bringStep_keeps l s

theorem bringSteps_waits (l : List Nat) (s : State) (m : Nat) :
    (l.foldl bringStep s).domWaits m = if m ∈ l then false else s.domWaits m := by
  induction l generalizing s with
  | nil => simp
  | cons n l ih =>
    rw [List.foldl_cons, ih, bringStep_waits]
    by_cases hm : m ∈ l
    · simp [hm]
    · by_cases hn : m = n <;> simp [hm, hn]

theorem bringOn_eq {s : State} (h : s.pwpRuns = true) : bringOn s = (List.range 64).foldl bringStep s := by
  simp only [bringOn, h, Bool.not_true, Bool.false_eq_true, if_false]
  rfl

theorem bringOn_still {s : State} (h : s.pwpRuns = false) : bringOn s = s := by
  simp [bringOn, h]

theorem bringOn_keeps (s : State) : s.keeps [.pwr, .mcs] (bringOn s) := by
  cases h : s.pwpRuns
  · rw [bringOn_still h]; exact s.keeps_refl _
  · rw [bringOn_eq h]; exact bringSteps_keeps _ s

theorem bringOn_waits {s : State} (h : s.pwpRuns = true ∨ ∀ n, s.domWaits n = false) (n : Nat) :
    (bringOn s).domWaits n = false := by
  cases hp : s.pwpRuns
  · rw [bringOn_still hp]; exact (h.resolve_left (by simp [hp])) n
  · rw [bringOn_eq hp, bringSteps_waits]
    split
    · rfl
    · next hn =>
      by_contra hw
      exact hn (List.mem_range.2 (domWaits_below (by simpa using hw)))

/-! ### RUN (R34, R400, R437) -/

theorem lksStart_keeps (s : State) (c : CtxId) : s.keeps [.lks] (lksStart s c) := by
  unfold lksStart
  split
  · exact s.keeps_refl _
  · intro k hk; cases k <;> first | rfl | simp at hk

theorem refreshDev_keeps (s : State) : s.keeps [.dev] (refreshDev s) := by
  unfold refreshDev
  split
  · intro k hk; cases k <;> first | rfl | simp at hk
  · exact s.keeps_refl _

theorem bootOk_keeps (s : State) : s.keeps [.boot] (bootOk s) := by
  unfold bootOk
  split
  · exact s.keeps_refl _
  · have hlog := (logAppend_quiet s 9 (le 1 s.boot.bank.1 ++ zeros 3 ++ le 4 s.boot.seq.toNat)).1
    refine State.keeps_trans (State.keeps_mono hlog (by simp)) ?_
    intro k hk; cases k <;> first | rfl | simp at hk

/-- The context in RUN since now. -/
def runsSince (s : State) (c : CtxId) : State :=
  (setCtxState s c .run).onCtx c fun x => { x with runNs := (setCtxState s c .run).nowNs }

/-- A configured device is in RUN with its first context. -/
def devRuns (s : State) : State := if s.dev = .configured then { s with dev := .run } else s

theorem devRuns_keeps (s : State) : s.keeps [.dev] (devRuns s) := by
  unfold devRuns
  split
  · intro k hk; cases k <;> first | rfl | simp at hk
  · exact s.keeps_refl _

theorem enterRun_eq (s : State) (c : CtxId) : enterRun s c = bootOk (refreshDev (devRuns (lksStart (runsSince s c) c))) := rfl

theorem runsSince_keeps (s : State) (c : CtxId) : s.keeps [.ctxs] (runsSince s c) :=
  State.keeps_trans (setCtxState_keeps s c .run) (State.keeps_onCtx _ c _)

theorem runsSince_self (s : State) (c : CtxId) :
    (runsSince s c).ctx c = { s.ctx c with state := .run, runNs := s.nowNs } := by
  have htb : (setCtxState s c .run).tb = s.tb := setCtxState_keeps s c .run .tb (by simp)
  rw [runsSince, State.ctx_onCtx_self, setCtxState_self]
  simp only [State.nowNs, htb]

theorem runsSince_ne (s : State) {c x : CtxId} (h : x ≠ c) : (runsSince s c).ctx x = s.ctx x := by
  rw [runsSince, State.ctx_onCtx_ne _ _ _ _ h, setCtxState_ne _ _ h]

/-- What follows the state of the context. -/
theorem enterRun_after (s : State) (c : CtxId) : (runsSince s c).keeps [.lks, .dev, .boot] (enterRun s c) := by
  rw [enterRun_eq]
  exact State.keeps_trans (State.keeps_trans (State.keeps_trans (State.keeps_mono (lksStart_keeps _ c) (by simp))
    (State.keeps_mono (devRuns_keeps _) (by simp))) (State.keeps_mono (refreshDev_keeps _) (by simp)))
    (State.keeps_mono (bootOk_keeps _) (by simp))

theorem enterRun_keeps (s : State) (c : CtxId) : s.keeps [.ctxs, .lks, .dev, .boot] (enterRun s c) :=
  State.keeps_trans (State.keeps_mono (runsSince_keeps s c) (by simp)) (State.keeps_mono (enterRun_after s c) (by simp))

theorem enterRun_ctx (s : State) (c x : CtxId) : (enterRun s c).ctx x = (runsSince s c).ctx x :=
  congrArg (·.get x) (enterRun_after s c .ctxs (by simp))

/-- A device that is configured, in RUN or DEGRADED is in one of the latter two when a context runs. -/
theorem enterRun_dev {s : State} {c : CtxId} (h : s.dev = .configured ∨ s.dev = .run ∨ s.dev = .degraded) :
    (enterRun s c).dev = .run ∨ (enterRun s c).dev = .degraded := by
  have hb : (enterRun s c).dev = (refreshDev (devRuns (lksStart (runsSince s c) c))).dev := bootOk_keeps _ .dev (by simp)
  have hl : (lksStart (runsSince s c) c).dev = s.dev :=
    (lksStart_keeps _ c .dev (by simp) : _ = _).trans (runsSince_keeps s c .dev (by simp))
  have hd : (devRuns (lksStart (runsSince s c) c)).dev = .run ∨ (devRuns (lksStart (runsSince s c) c)).dev = .degraded := by
    unfold devRuns
    split
    · exact .inl rfl
    · next hn => rw [hl] at hn ⊢; exact h.resolve_left hn
  rw [hb, refreshDev, if_pos hd]
  by_cases hx : (devRuns (lksStart (runsSince s c) c)).fencedMask ≠ 0 ∨ (devRuns (lksStart (runsSince s c) c)).err.offline ≠ 0 ∨
      (devRuns (lksStart (runsSince s c) c)).pwr.emerg = true
  · rw [if_pos hx]; exact .inr rfl
  · rw [if_neg hx]; exact .inl rfl

theorem listsLoaded_runs {s : State} {c : CtxId} (hs : (s.ctx c).state = .starting) (hl : s.canLoad c = true)
    (hw : ∀ n, (bringOn s).domWaits n = false) : exec (.listsLoaded c) s = finish s (enterRun (bringOn s) c) := by
  have hany : (List.range 64).any (bringOn s).domWaits = false := by simp [hw]
  rw [exec_listsLoaded, hs, hl, hany]
  rfl

end Sys2Proof.Machine

open Sys2Proof Sys2Proof.Machine

/-- Settles O7: the PWP brings ON what waits, and the context enters RUN where nothing waits any more. -/
theorem listsLoadedEntersRun : Obligations.ListsLoadedEntersRun := by
  unfold Obligations.ListsLoadedEntersRun
  refine fun s c hs hl => ⟨fun h => ?_, fun hp hn => ?_⟩
  · have hw := bringOn_waits h
    have hkb := bringOn_keeps s
    have hctx (x) : (bringOn s).ctx x = s.ctx x := congrArg (·.get x) (hkb .ctxs (by simp))
    have hke := enterRun_keeps (bringOn s) c
    obtain ⟨t, ht, hk, hq⟩ := finish_keeps (old := s) (State.keeps_trans (l := [.ctxs, .dev, .mcs, .pwr, .lks, .boot, .hst])
      (State.keeps_mono hkb (by simp)) (State.keeps_mono hke (by simp)))
    have hself : t.ctx c = { s.ctx c with state := .run, runNs := s.nowNs } := by
      have htb : (bringOn s).tb = s.tb := hkb .tb (by simp)
      rw [hq.ctx, enterRun_ctx, runsSince_self, hctx]
      simp only [State.nowNs, htb]
    have hne (x) (hx : x ≠ c) : t.ctx x = s.ctx x := by rw [hq.ctx, enterRun_ctx, runsSince_ne _ hx, hctx]
    refine ⟨t, (listsLoaded_runs hs hl hw).trans ht, by rw [hself], by rw [hself], by rw [hself], hne, fun n => ?_, fun hd => ?_, hk⟩
    · have hkt : (bringOn s).keeps [.ctxs, .lks, .dev, .boot] t := State.keeps_trans hke (State.keeps_mono hq.1 (by simp))
      rw [domWaits_congr hkt (by simp) (keeps_hstOf hkt (by simp) HstRegs.hostAbsent fun _ => rfl) fun x => ?_]
      · exact hw n
      · by_cases hx : x = c
        · subst hx; rw [hself, hctx, hs]; rfl
        · rw [hne x hx, hctx]
    · have hdev : (bringOn s).dev = s.dev := hkb .dev (by simp)
      rw [hq.dev]
      exact enterRun_dev (by rw [hdev]; exact hd)
  · obtain ⟨n, hn⟩ := hn
    have hany : (List.range 64).any (bringOn s).domWaits = true := by
      rw [bringOn_still hp]
      exact List.any_eq_true.2 ⟨n, List.mem_range.2 (domWaits_below hn), hn⟩
    obtain ⟨t, ht, hq⟩ := finish_next s s
    refine ⟨t, ?_, hq.1⟩
    rw [exec_listsLoaded, hs, hl, hany, bringOn_still hp]
    exact ht
end

section
/-!
PROOFS. Triggers and the frames that they start: numbers, beads and what each trigger leaves (R34, R37 to R40, R54, R80).
-/

open Sys2Proof Sys2Proof.Machine

namespace Sys2Proof.Machine

theorem exec_scheduleTrigger (c : CtxId) (s : State) : exec (.scheduleTrigger c) s =
    finish s (if (s.ctx c).state = .run && !s.arrivalTrig c && s.dev != .replay then
      trigger ((passUntil s (s.nextInstant c)).onCtx c fun x => { x with lastTrig := some (1000 * s.nextInstant c) }) c 0 0
    else s) := rfl

theorem exec_arrivalTimeout (c : CtxId) (s : State) : exec (.arrivalTimeout c) s =
    finish s (if (s.ctx c).state = .run && s.arrivalTrig c && (s.ctx c).arrived != 0 && s.dev != .replay then
      trigger (s.onCtx c fun y => { y with arrived := 0 }) c (flagBit fArrivalTimeout true)
        (BitVec.ofNat 64 (s.arrStreams c) &&& ~~~(s.ctx c).arrived)
    else s) := rfl

/-! ### Beads that a context clears (R34, R54) -/

theorem keyGet_filter {α : Type} (d : α) (l : List (Nat × α)) (P : Nat → Bool) (k : Nat) :
    keyGet d (l.filter fun e => P e.1) k = if P k then keyGet d l k else d := by
  induction l with
  | nil => simp [keyGet]
  | cons e l ih =>
    simp only [keyGet] at ih
    by_cases he : P e.1
    · rw [List.filter_cons_of_pos (by simpa using he)]
      by_cases hk : e.1 = k
      · simp [keyGet, hk, hk ▸ he]
      · simpa [keyGet, hk] using ih
    · rw [List.filter_cons_of_neg (by simpa using he)]
      by_cases hk : e.1 = k
      · subst hk; simpa [keyGet, he] using ih
      · simpa [keyGet, hk] using ih

/-- A bead of the context that is to be cleared reads zero; every other one stays. -/
theorem bead_clearBeads (s : State) (c : CtxId) (whole : Bool) (p : PartId) (i : Nat) : (clearBeads s c whole).bead p i =
    if s.ownsBead c p i && (whole || !s.streamBead c p i) then 0 else s.bead p i := by
  have h : (clearBeads s c whole).bead p i =
      keyGet 0 ((s.prt p).beads.filter fun e => !(s.ownsBead c p e.1 && (whole || !s.streamBead c p e.1))) i := by
    simp [State.bead, clearBeads, State.prt]
  rw [h, keyGet_filter 0 _ (fun i => !(s.ownsBead c p i && (whole || !s.streamBead c p i)))]
  cases s.ownsBead c p i && (whole || !s.streamBead c p i) <;> rfl

theorem ownsBead_congr {s t : State} (hi : t.img = s.img) (c : CtxId) (p : PartId) (i : Nat) :
    t.ownsBead c p i = s.ownsBead c p i := by
  simp only [State.ownsBead, State.beadRange, State.ctxCfg, State.secD, State.sec, hi] <;> rfl

theorem streamBead_congr {s t : State} (hi : t.img = s.img) (c : CtxId) (p : PartId) (i : Nat) :
    t.streamBead c p i = s.streamBead c p i := by
  simp only [State.streamBead, State.beadRange, State.ctxCfg, State.secD, State.sec, hi] <;> rfl

theorem clearBeads_keeps (s : State) (c : CtxId) (whole : Bool) : s.keeps [.parts] (clearBeads s c whole) := by
  intro k hk; cases k <;> first | rfl | simp at hk

theorem clearSlots_keeps (s : State) (c : CtxId) : s.keeps [.parts] (clearSlots s c) := by
  intro k hk; cases k <;> first | rfl | simp at hk

theorem clearSlots_bead (s : State) (c : CtxId) (p : PartId) (i : Nat) : (clearSlots s c).bead p i = s.bead p i := by
  simp [State.bead, clearSlots, State.prt]

theorem forgetQueues_keeps (s : State) (c : CtxId) : s.keeps [.cores, .parts] (forgetQueues s c) :=
  foldl_keeps _ (fun s q => onQueue_keeps s q _) _ s

theorem forgetQueues_bead (s : State) (c : CtxId) (p : PartId) (i : Nat) : (forgetQueues s c).bead p i = s.bead p i := by
  have key (l : List QueueId) (s : State) : (l.foldl (fun s q => s.onQueue q fun x => x.forget c) s).bead p i = s.bead p i := by
    induction l generalizing s with
    | nil => rfl
    | cons q l ih => exact (ih _).trans (bead_onQueue s q _ p i)
  exact key _ s

/-! ### A frame starts (R40) -/

/-- A context whose next frame starts. -/
def CtxRt.numbered (x : CtxRt) (f : FrameRt) : CtxRt :=
  { x with frameNum := x.nextFrame, nextFrame := x.nextFrame + 1, framesTotal := x.framesTotal + 1, latched := none, frame := f }

/-- The frame state that a trigger starts. -/
def startedFrame (s : State) (c : CtxId) (l : Latched) (late : Bool) : FrameRt :=
  { freshFrame (pickSplit (clearOverruns s c) c).2 c (s.ctx c).nextFrame (withOverruns s l) late
      (pickSplit (clearOverruns s c) c).1 with goldSkip := s.overruns l }

/-- The frame is numbered. -/
def frameNumbered (s : State) (c : CtxId) (l : Latched) (late : Bool) : State :=
  (pickSplit (clearOverruns s c) c).2.onCtx c fun x => { x with
    frameNum := (s.ctx c).nextFrame, nextFrame := (s.ctx c).nextFrame + 1, framesTotal := x.framesTotal + 1, latched := none
    frame := startedFrame s c l late }

/-- Frame beads, statistics slots and the order of the queues start again. -/
def frameCleared (s : State) (c : CtxId) : State := forgetQueues (clearSlots (clearBeads s c false) c) c

/-- The boot report's time of the first frame. -/
def firstFrameNoted (s : State) : State :=
  if s.boot.firstFrame then s else s.onBoot fun b => { b with firstFrame := true, timeUs := BitVec.ofNat 32 (s.ticks / 400) }

/-- A frame without descriptors ends at once (R39). -/
def emptyFrameEnds (s : State) (c : CtxId) : State :=
  if s.frameDone c then s.onFrame c fun f => { f with inFlight := false } else s

theorem frameStart_eq (s : State) (c : CtxId) (l : Latched) (late : Bool) : frameStart s c l late =
    emptyFrameEnds (frameMark (firstFrameNoted (frameCleared (frameNumbered s c l late) c)) c (withOverruns s l) late) c := rfl

theorem frameMark_recorded (s : State) (c : CtxId) (l : Latched) (late : Bool) : s.Recorded (frameMark s c l late) := by
  unfold frameMark
  exact recWrite_recorded s _ _ _ _ _ _ _

theorem firstFrameNoted_keeps (s : State) : s.keeps [.boot] (firstFrameNoted s) := by
  unfold firstFrameNoted
  split
  · exact s.keeps_refl _
  · intro k hk; cases k <;> first | rfl | simp at hk

theorem frameCleared_keeps (s : State) (c : CtxId) : s.keeps [.cores, .parts] (frameCleared s c) :=
  State.keeps_trans (State.keeps_trans (State.keeps_mono (clearBeads_keeps s c false) (by simp))
    (State.keeps_mono (clearSlots_keeps _ c) (by simp))) (forgetQueues_keeps _ c)

theorem pickSplit_keeps (s : State) (c : CtxId) : s.keeps [.free] (pickSplit s c).2 := by
  unfold pickSplit
  simp only
  split
  · exact s.keeps_refl _
  · intro k hk; cases k <;> first | rfl | simp at hk

theorem clearOverruns_keeps (s : State) (c : CtxId) : s.keeps [.io] (clearOverruns s c) := by
  intro k hk; cases k <;> first | rfl | simp at hk

theorem picked_keeps (s : State) (c : CtxId) : s.keeps [.io, .free] (pickSplit (clearOverruns s c) c).2 :=
  State.keeps_trans (State.keeps_mono (clearOverruns_keeps s c) (by simp)) (State.keeps_mono (pickSplit_keeps _ c) (by simp))

theorem frameNumbered_keeps (s : State) (c : CtxId) (l : Latched) (late : Bool) :
    s.keeps [.io, .free, .ctxs] (frameNumbered s c l late) :=
  State.keeps_trans (State.keeps_mono (picked_keeps s c) (by simp)) (State.keeps_mono (State.keeps_onCtx _ c _) (by simp))

theorem frameNumbered_self (s : State) (c : CtxId) (l : Latched) (late : Bool) :
    (frameNumbered s c l late).ctx c = (s.ctx c).numbered (startedFrame s c l late) := by
  have hp : (pickSplit (clearOverruns s c) c).2.ctx c = s.ctx c := congrArg (·.get c) (picked_keeps s c .ctxs (by simp))
  rw [frameNumbered, State.ctx_onCtx_self, hp]
  rfl

theorem frameNumbered_ne (s : State) {c x : CtxId} (l : Latched) (late : Bool) (h : x ≠ c) :
    (frameNumbered s c l late).ctx x = s.ctx x := by
  rw [frameNumbered, State.ctx_onCtx_ne _ _ _ _ h]
  exact congrArg (·.get x) (picked_keeps s c .ctxs (by simp))

/-- The state in which an empty frame would end: all but the frame's own record is done. -/
theorem frameStart_before (s : State) (c : CtxId) (l : Latched) (late : Bool) : ∃ u,
    (frameNumbered s c l late).keeps [.cores, .parts, .boot, .recd, .mem, .bad, .hst, .io, .free] u ∧
      (∀ p i, u.bead p i = (clearBeads (frameNumbered s c l late) c false).bead p i) ∧
      frameStart s c l late = emptyFrameEnds u c := by
  refine ⟨_, ?_, fun p i => ?_, frameStart_eq s c l late⟩
  · exact State.keeps_trans (State.keeps_trans (State.keeps_mono (frameCleared_keeps _ c) (by simp))
      (State.keeps_mono (firstFrameNoted_keeps _) (by simp))) (State.keeps_mono (frameMark_recorded _ c _ late).keeps (by simp))
  · rw [keeps_bead (frameMark_recorded _ c _ late).keeps (by simp) p i, keeps_bead (firstFrameNoted_keeps _) (by simp) p i,
      frameCleared, forgetQueues_bead, clearSlots_bead]

/-- The context of a frame that starts: the next number, and a frame in flight unless it is over at once. -/
theorem frameStart_self (s : State) (c : CtxId) (l : Latched) (late : Bool) : ∃ b,
    (frameStart s c l late).ctx c = (s.ctx c).numbered { startedFrame s c l late with inFlight := b } := by
  obtain ⟨u, hk, -, he⟩ := frameStart_before s c l late
  have hu : u.ctx c = (s.ctx c).numbered (startedFrame s c l late) :=
    (congrArg (·.get c) (hk .ctxs (by simp)) : u.ctx c = (frameNumbered s c l late).ctx c).trans (frameNumbered_self s c l late)
  rw [he, emptyFrameEnds]
  split
  · refine ⟨false, ?_⟩
    rw [State.onFrame, State.ctx_onCtx_self, hu]
    rfl
  · exact ⟨(startedFrame s c l late).inFlight, hu⟩

theorem frameStart_ne (s : State) {c x : CtxId} (l : Latched) (late : Bool) (h : x ≠ c) :
    (frameStart s c l late).ctx x = s.ctx x := by
  obtain ⟨u, hk, -, he⟩ := frameStart_before s c l late
  have hu : u.ctx x = s.ctx x :=
    (congrArg (·.get x) (hk .ctxs (by simp)) : u.ctx x = (frameNumbered s c l late).ctx x).trans (frameNumbered_ne s l late h)
  rw [he, emptyFrameEnds]
  split
  · rw [State.onFrame, State.ctx_onCtx_ne _ _ _ _ h, hu]
  · exact hu

/-- The frame beads of the context read zero, and every other bead stays (R54). -/
theorem frameStart_bead (s : State) (c : CtxId) (l : Latched) (late : Bool) (p : PartId) (i : Nat) :
    (frameStart s c l late).bead p i = if s.ownsBead c p i && !s.streamBead c p i then 0 else s.bead p i := by
  obtain ⟨u, -, hb, he⟩ := frameStart_before s c l late
  have hkn := frameNumbered_keeps s c l late
  have hu : (emptyFrameEnds u c).bead p i = u.bead p i := by
    unfold emptyFrameEnds
    split
    · exact keeps_bead (keeps_onFrame _ _ _) (by simp) p i
    · rfl
  rw [he, hu, hb, bead_clearBeads, ownsBead_congr (hkn .img (by simp)), streamBead_congr (hkn .img (by simp)),
    keeps_bead hkn (by simp) p i, Bool.false_or]

theorem startedFrame_hasSealed (s : State) (c : CtxId) (l : Latched) (late : Bool) :
    (startedFrame s c l late).hasSealed = false := rfl

/-- A flag of the trigger is a flag of the frame. -/
theorem startedFrame_flags {s : State} {l : Latched} {i : Nat} (c : CtxId) (late : Bool) (h : l.flags.getLsbD i = true) :
    (startedFrame s c l late).flags.getLsbD i = true := by
  simp [startedFrame, freshFrame, withOverruns, h]

/-- A stream that the trigger names INCOMPLETE is so in the frame. -/
theorem startedFrame_incomplete {s : State} {l : Latched} {i : Nat} (c : CtxId) (late : Bool)
    (h : l.incomplete.getLsbD i = true) : (startedFrame s c l late).incomplete.getLsbD i = true := by
  simp [startedFrame, freshFrame, withOverruns, h]

/-! ### A trigger (R38, R39) -/

theorem latchTrigger_flags (s : State) (c : CtxId) (flags : U32) (missing : U64) : (latchTrigger s c flags missing).flags = flags :=
  rfl

theorem foldl_or_getLsbD {α : Type} (f : U64 → α → U64) (hf : ∀ (m : U64) (a : α) (i : Nat), m.getLsbD i = true → (f m a).getLsbD i = true)
    (l : List α) (m : U64) (i : Nat) (h : m.getLsbD i = true) : (l.foldl f m).getLsbD i = true := by
  induction l generalizing m with
  | nil => exact h
  | cons a l ih => exact ih _ (hf m a i h)

/-- The streams that are missing at an arrival timeout are INCOMPLETE. -/
theorem latchTrigger_incomplete {missing : U64} {i : Nat} (s : State) (c : CtxId) (flags : U32) (h : missing.getLsbD i = true) :
    (latchTrigger s c flags missing).incomplete.getLsbD i = true := by
  refine foldl_or_getLsbD _ (fun m e i h => ?_) _ _ i h
  split <;> simp [h]

section
variable {s : State} {c : CtxId} (hrun : (s.ctx c).state = .run)
include hrun

/-- With no frame in flight the frame starts. -/
theorem trigger_starts (hf : (s.ctx c).frame.inFlight = false) (hh : s.seqHeld c = false) (flags : U32) (missing : U64) :
    trigger s c flags missing = frameStart s c (latchTrigger s c flags missing) false := by
  simp [trigger, hrun, hf, hh]

/-- In a frame in flight, or while a sequencer holds the start, the trigger is latched. -/
theorem trigger_latches (hf : (s.ctx c).frame.inFlight = true ∨ s.seqHeld c = true) (hl : (s.ctx c).latched = none)
    (flags : U32) (missing : U64) : trigger s c flags missing =
      s.onCtx c fun x => { x with latched := some (latchTrigger s c flags missing) } := by
  rcases hf with hf | hf <;> simp [trigger, hrun, hf, hl]

end

/-- A trigger that is latched stays; a further one is counted. -/
def trigMissedIn (s : State) (c : CtxId) : State :=
  s.onCtx c fun x => { x with trigMissed := sat32 x.trigMissed, missedSince := sat32 x.missedSince }

theorem trigger_missed {s : State} {c : CtxId} (hrun : (s.ctx c).state = .run)
    (hf : (s.ctx c).frame.inFlight = true ∨ s.seqHeld c = true) (hl : (s.ctx c).latched.isSome = true) (flags : U32)
    (missing : U64) : trigger s c flags missing = trigMissedIn s c := by
  obtain ⟨l, hl⟩ := Option.isSome_iff_exists.1 hl
  rcases hf with hf | hf <;> simp [trigger, hrun, hf, hl, trigMissedIn]

theorem trigger_idle {s : State} {c : CtxId} (hrun : (s.ctx c).state ≠ .run) (flags : U32) (missing : U64) :
    trigger s c flags missing = s := by
  simp [trigger, hrun]

/-! ### Time passes until the trigger (R37) -/

theorem setFine_keeps (s : State) (n : Int) : s.keeps [.tb] (s.setFine n) := by
  intro k hk; cases k <;> first | rfl | simp at hk

theorem passTicks_keeps (s : State) (n : Nat) : s.keeps [.ticks, .io, .boot] (passTicks s n) := by
  intro k hk; cases k <;> first | rfl | simp at hk

theorem passUntil_keeps (s : State) (us : Nat) : s.keeps [.tb, .ticks, .io, .boot] (passUntil s us) := by
  unfold passUntil
  split
  · exact s.keeps_refl _
  · exact State.keeps_trans (State.keeps_mono (setFine_keeps s _) (by simp)) (State.keeps_mono (passTicks_keeps _ _) (by simp))

/-- The state at the instant of a scheduled trigger. -/
def atInstant (s : State) (c : CtxId) : State :=
  (passUntil s (s.nextInstant c)).onCtx c fun x => { x with lastTrig := some (1000 * s.nextInstant c) }

theorem atInstant_keeps (s : State) (c : CtxId) : s.keeps [.tb, .ticks, .io, .boot, .ctxs] (atInstant s c) :=
  State.keeps_trans (State.keeps_mono (passUntil_keeps s _) (by simp)) (State.keeps_mono (State.keeps_onCtx _ c _) (by simp))

theorem atInstant_self (s : State) (c : CtxId) :
    (atInstant s c).ctx c = { s.ctx c with lastTrig := some (1000 * s.nextInstant c) } := by
  have h : (passUntil s (s.nextInstant c)).ctx c = s.ctx c := congrArg (·.get c) (passUntil_keeps s _ .ctxs (by simp))
  rw [atInstant, State.ctx_onCtx_self, h]

theorem atInstant_ne (s : State) {c x : CtxId} (h : x ≠ c) : (atInstant s c).ctx x = s.ctx x := by
  rw [atInstant, State.ctx_onCtx_ne _ _ _ _ h]
  exact congrArg (·.get x) (passUntil_keeps s _ .ctxs (by simp))

theorem seqHeld_congr {s t : State} (hi : t.img = s.img) (hf : t.fwp = s.fwp) (c : CtxId) : t.seqHeld c = s.seqHeld c := by
  simp only [State.seqHeld, State.hasWork, State.lists, State.seqProc, hi, hf] <;> rfl

theorem scheduleTrigger_fires {s : State} {c : CtxId} (hs : (s.ctx c).state = .run) (ha : s.arrivalTrig c = false)
    (hd : s.dev ≠ .replay) : exec (.scheduleTrigger c) s = finish s (trigger (atInstant s c) c 0 0) := by
  rw [exec_scheduleTrigger, if_pos (by simp [hs, ha, hd])]
  rfl

/-- The streams that have delivered are forgotten at the timeout. -/
def arrivalsOver (s : State) (c : CtxId) : State := s.onCtx c fun y => { y with arrived := 0 }

theorem arrivalTimeout_fires {s : State} {c : CtxId} (hs : (s.ctx c).state = .run) (ha : s.arrivalTrig c = true)
    (hr : (s.ctx c).arrived ≠ 0) (hd : s.dev ≠ .replay) : exec (.arrivalTimeout c) s =
      finish s (trigger (arrivalsOver s c) c (flagBit fArrivalTimeout true)
        (BitVec.ofNat 64 (s.arrStreams c) &&& ~~~(s.ctx c).arrived)) := by
  have hc : (decide ((s.ctx c).state = .run) && s.arrivalTrig c && (s.ctx c).arrived != 0 && s.dev != .replay) = true := by
    rw [hs, ha, bne_iff_ne.2 hr, bne_iff_ne.2 hd]
    rfl
  rw [exec_arrivalTimeout, if_pos hc]
  rfl

/-- A scheduled trigger with no frame in flight. -/
theorem scheduleTrigger_starts {s : State} {c : CtxId} (hs : (s.ctx c).state = .run) (ha : s.arrivalTrig c = false)
    (hd : s.dev ≠ .replay) (hf : (s.ctx c).frame.inFlight = false) (hh : s.seqHeld c = false) : exec (.scheduleTrigger c) s =
      finish s (frameStart (atInstant s c) c (latchTrigger (atInstant s c) c 0 0) false) := by
  have hk := atInstant_keeps s c
  have hs' : ((atInstant s c).ctx c).state = .run := by rw [atInstant_self]; exact hs
  have hf' : ((atInstant s c).ctx c).frame.inFlight = false := by rw [atInstant_self]; exact hf
  rw [scheduleTrigger_fires hs ha hd, trigger_starts hs' hf'
    ((seqHeld_congr (hk .img (by simp)) (hk .fwp (by simp)) c).trans hh)]

theorem arrivalTimeout_starts {s : State} {c : CtxId} (hs : (s.ctx c).state = .run) (ha : s.arrivalTrig c = true)
    (hr : (s.ctx c).arrived ≠ 0) (hd : s.dev ≠ .replay) (hf : (s.ctx c).frame.inFlight = false) (hh : s.seqHeld c = false) :
    exec (.arrivalTimeout c) s = finish s (frameStart (arrivalsOver s c) c (latchTrigger (arrivalsOver s c) c
      (flagBit fArrivalTimeout true) (BitVec.ofNat 64 (s.arrStreams c) &&& ~~~(s.ctx c).arrived)) false) := by
  have hself : (arrivalsOver s c).ctx c = { s.ctx c with arrived := 0 } := State.ctx_onCtx_self _ _ _
  have hs' : ((arrivalsOver s c).ctx c).state = .run := by rw [hself]; exact hs
  have hf' : ((arrivalsOver s c).ctx c).frame.inFlight = false := by rw [hself]; exact hf
  have hh' : (arrivalsOver s c).seqHeld c = false := (seqHeld_congr rfl rfl c).trans hh
  rw [arrivalTimeout_fires hs ha hr hd, trigger_starts hs' hf' hh']

/-- A scheduled trigger in a frame in flight while another one is latched. -/
theorem scheduleTrigger_missed {s : State} {c : CtxId} {l : Latched} (hs : (s.ctx c).state = .run) (ha : s.arrivalTrig c = false)
    (hd : s.dev ≠ .replay) (hf : (s.ctx c).frame.inFlight = true) (hl : (s.ctx c).latched = some l) :
    exec (.scheduleTrigger c) s = finish s (trigMissedIn (atInstant s c) c) := by
  rw [scheduleTrigger_fires hs ha hd, trigger_missed (by rw [atInstant_self]; exact hs)
    (.inl (by rw [atInstant_self]; exact hf)) (by rw [atInstant_self, hl]; rfl)]

theorem trigMissedIn_self (s : State) (c : CtxId) : (trigMissedIn s c).ctx c =
    { s.ctx c with trigMissed := sat32 (s.ctx c).trigMissed, missedSince := sat32 (s.ctx c).missedSince } :=
  State.ctx_onCtx_self _ _ _

theorem trigMissedIn_ne (s : State) {c x : CtxId} (h : x ≠ c) : (trigMissedIn s c).ctx x = s.ctx x :=
  State.ctx_onCtx_ne _ _ _ _ h

/-! ### STARTING (R34) -/

theorem noteUe_keeps (s : State) (a : Nat) : s.keeps [.mcs, .cores, .stks] (noteUe s a) := by
  unfold noteUe
  split <;> intro k hk <;> cases k <;> first | rfl | simp at hk

/-- What an access without a context finds is counted and recorded. -/
theorem recordUe_keeps (s : State) (a : Nat) : s.keeps [.err, .mcs, .cores, .stks] (recordUe s a) :=
  State.keeps_trans (State.keeps_mono (noteUe_keeps s a) (by simp)) (State.keeps_mono (event_keeps_none _ _ _ _) (by simp))

theorem svpWrite_keeps (s : State) (a : Nat) (d : Bytes) :
    s.keeps [.mem, .bad, .lineOwner, .err, .mcs, .cores, .stks] (svpWrite s a d) := by
  unfold svpWrite
  split
  · exact State.keeps_trans (State.keeps_mono (pokePart_keeps s _ _ _) (by simp)) (State.keeps_mono (recordUe_keeps _ _) (by simp))
  · exact State.keeps_mono (poke_keeps s _ _ _) (by simp)

theorem loadScaleTable_keeps (s : State) (c : CtxId) :
    s.keeps [.mem, .bad, .lineOwner, .err, .mcs, .cores, .stks] (loadScaleTable s c) := by
  unfold loadScaleTable
  split
  · exact svpWrite_keeps _ _ _
  · exact s.keeps_refl _

theorem loadLists_keeps (s : State) (c : CtxId) : s.keeps [.mem, .bad, .lineOwner, .err, .mcs, .cores, .stks] (loadLists s c) := by
  refine foldl_keeps _ (fun s l => ?_) _ s
  split
  · exact svpWrite_keeps _ _ _
  · exact s.keeps_refl _

theorem loadProfiles_keeps (s : State) (c : CtxId) : s.keeps [.io] (loadProfiles s c) := by
  intro k hk; cases k <;> first | rfl | simp at hk

theorem assignSlots_keeps (s : State) (c : CtxId) : s.keeps [.parts] (assignSlots s c) :=
  foldl_keeps _ (fun s _ => onPart_keeps s _ _) _ s

theorem bead_onPart (s : State) (q : PartId) {f : PartRt → PartRt} (hf : ∀ x, (f x).beads = x.beads) (p : PartId) (i : Nat) :
    (s.onPart q f).bead p i = s.bead p i := by
  unfold State.bead
  by_cases h : p = q
  · subst h; rw [State.prt_onPart_self, hf]
  · rw [State.prt_onPart_ne _ _ _ _ h]

theorem foldl_bead {α : Type} (f : State → α → State) (hf : ∀ s a p i, (f s a).bead p i = s.bead p i) (l : List α) (s : State)
    (p : PartId) (i : Nat) : (l.foldl f s).bead p i = s.bead p i := by
  induction l generalizing s with
  | nil => rfl
  | cons a l ih => exact (ih _).trans (hf s a p i)

/-- The slot of an entry of the image is assigned to the context (R134). -/
def assignSlot (c : CtxId) (e : Bytes) (x : PartRt) : PartRt :=
  { x with stats := if h : byteAt e 1 < 256 then x.stats.set (byteAt e 1) { x.stats[byteAt e 1] with
      thresh := BitVec.ofNat 32 (fld e 4 4), owner := c, assigned := true } else x.stats }

theorem assignSlots_eq (s : State) (c : CtxId) : assignSlots s c =
    (List.range ((s.secD 0x2A c.1 0).length / 16)).foldl (fun s' k =>
      s'.onPart (partOf (byteAt (slice (s.secD 0x2A c.1 0) (16 * k) 16) 0)) (assignSlot c (slice (s.secD 0x2A c.1 0) (16 * k) 16)))
      s := rfl

theorem assignSlots_bead (s : State) (c : CtxId) (p : PartId) (i : Nat) : (assignSlots s c).bead p i = s.bead p i := by
  rw [assignSlots_eq]
  exact foldl_bead _ (fun s k p i => bead_onPart s _ (f := assignSlot c _) (fun _ => rfl) p i) _ s p i

theorem chooseDiv_bead (s : State) (q p : PartId) (i : Nat) : (chooseDiv s q).bead p i = s.bead p i := by
  unfold chooseDiv askDiv
  split
  · rfl
  · split
    · rfl
    · exact bead_onPart s q (f := fun x => { x with pwr := x.pwr.ask (s.pickDiv q) }) (fun _ => rfl) p i

theorem chooseDivs_bead (s : State) (p : PartId) (i : Nat) : (chooseDivs s).bead p i = s.bead p i :=
  foldl_bead _ chooseDiv_bead _ s p i

/-- The context of a start, before its image is loaded. -/
def startEntered (s : State) (c : CtxId) : State := setCtxState (s.onCtx c CtxRt.started) c .starting

/-- What a start loads of the image. -/
def startLoaded (s : State) (c : CtxId) : State :=
  loadProfiles (loadLists (loadScaleTable (assignSlots (forgetQueues (clearBeads s c true) c) c) c) c) c

theorem enterStarting_eq (s : State) (c : CtxId) : enterStarting s c = chooseDivs (startLoaded (startEntered s c) c) := rfl

/-- The kinds of state that a start touches besides the context. -/
def startKinds : List Kind := [.mem, .bad, .lineOwner, .err, .mcs, .cores, .stks, .parts, .io]

theorem startLoaded_keeps (s : State) (c : CtxId) : s.keeps startKinds (startLoaded s c) := by
  have h1 : s.keeps startKinds (clearBeads s c true) := State.keeps_mono (clearBeads_keeps s c true) (by simp [startKinds])
  have h2 := State.keeps_trans h1 (State.keeps_mono (forgetQueues_keeps _ c) (by simp [startKinds]))
  have h3 := State.keeps_trans h2 (State.keeps_mono (assignSlots_keeps _ c) (by simp [startKinds]))
  have h4 := State.keeps_trans h3 (State.keeps_mono (loadScaleTable_keeps _ c) (by simp [startKinds]))
  have h5 := State.keeps_trans h4 (State.keeps_mono (loadLists_keeps _ c) (by simp [startKinds]))
  exact State.keeps_trans h5 (State.keeps_mono (loadProfiles_keeps _ c) (by simp [startKinds]))

theorem startLoaded_bead (s : State) (c : CtxId) (p : PartId) (i : Nat) :
    (startLoaded s c).bead p i = if s.ownsBead c p i then 0 else s.bead p i := by
  rw [startLoaded, keeps_bead (loadProfiles_keeps _ c) (by simp), keeps_bead (loadLists_keeps _ c) (by simp),
    keeps_bead (loadScaleTable_keeps _ c) (by simp), assignSlots_bead, forgetQueues_bead, bead_clearBeads, Bool.true_or,
    Bool.and_true]

theorem startEntered_keeps (s : State) (c : CtxId) : s.keeps [.ctxs] (startEntered s c) :=
  State.keeps_trans (State.keeps_onCtx s c _) (setCtxState_keeps _ c _)

theorem enterStarting_keeps (s : State) (c : CtxId) : s.keeps (.ctxs :: startKinds) (enterStarting s c) :=
  State.keeps_trans (State.keeps_mono (startEntered_keeps s c) (by simp))
    (State.keeps_trans (State.keeps_mono (startLoaded_keeps _ c) fun _ h => List.mem_cons_of_mem _ h)
      (State.keeps_mono (chooseDivs_keeps _) (by simp [startKinds])))

theorem enterStarting_ctx (s : State) (c x : CtxId) : (enterStarting s c).ctx x = (startEntered s c).ctx x := by
  have hd : (enterStarting s c).ctx x = (startLoaded (startEntered s c) c).ctx x :=
    congrArg (·.get x) (chooseDivs_keeps _ .ctxs (by simp))
  exact hd.trans (congrArg (·.get x) (startLoaded_keeps _ c .ctxs (by simp [startKinds])))

/-- The context that starts is in STARTING with its next generation, all else begun anew (R33, R36). -/
theorem enterStarting_self (s : State) (c : CtxId) : (enterStarting s c).ctx c = { (s.ctx c).started with state := .starting } := by
  rw [enterStarting_ctx, startEntered, setCtxState_self, State.ctx_onCtx_self]

theorem enterStarting_ne (s : State) {c x : CtxId} (h : x ≠ c) : (enterStarting s c).ctx x = s.ctx x := by
  rw [enterStarting_ctx, startEntered, setCtxState_ne _ _ h, State.ctx_onCtx_ne _ _ _ _ h]

/-- The beads of the context read zero (R34). -/
theorem enterStarting_bead (s : State) (c : CtxId) (p : PartId) (i : Nat) :
    (enterStarting s c).bead p i = if s.ownsBead c p i then 0 else s.bead p i := by
  have hk := startEntered_keeps s c
  rw [enterStarting_eq, chooseDivs_bead, startLoaded_bead, ownsBead_congr (hk .img (by simp)), keeps_bead hk (by simp)]

/-- The lists are loaded, and the number of the next frame stays. -/
theorem listsLoaded_nextFrame {s : State} {c : CtxId} (hs : (s.ctx c).state = .starting) (hl : s.canLoad c = true) :
    ∃ t, exec (.listsLoaded c) s = .next t ∧ (t.ctx c).nextFrame = (s.ctx c).nextFrame := by
  have hctx : (bringOn s).ctx c = s.ctx c := congrArg (·.get c) (bringOn_keeps s .ctxs (by simp))
  by_cases hw : (List.range 64).any (bringOn s).domWaits = true
  · obtain ⟨t, ht, hq⟩ := finish_next s (bringOn s)
    exact ⟨t, by rw [exec_listsLoaded, hs, hl, hw]; exact ht, by rw [hq.ctx, hctx]⟩
  · obtain ⟨t, ht, hq⟩ := finish_next s (enterRun (bringOn s) c)
    refine ⟨t, by rw [exec_listsLoaded, hs, hl, Bool.eq_false_iff.2 hw]; exact ht, ?_⟩
    rw [hq.ctx, enterRun_ctx, runsSince_self, hctx]

/-- The next frame's number is one more, modulo 2^32. -/
theorem numbered_toNat (x : CtxRt) (f : FrameRt) : (x.numbered f).nextFrame.toNat = (x.nextFrame.toNat + 1) % 2 ^ 32 :=
  BitVec.toNat_add _ _

end Sys2Proof.Machine

open Sys2Proof Sys2Proof.Machine

/-- Settles O8: a trigger without a frame in flight is the start of the next frame, with the flags and the streams that the
trigger names. -/
theorem triggersStartTheNextFrame : Obligations.TriggersStartTheNextFrame := by
  unfold Obligations.TriggersStartTheNextFrame
  refine ⟨fun s c hs ha hd hf hh => ?_, fun s c hs ha hr hd hf hh => ?_⟩
  · have hk := atInstant_keeps s c
    obtain ⟨b, hself⟩ := frameStart_self (atInstant s c) c (latchTrigger (atInstant s c) c 0 0) false
    obtain ⟨t, ht, hq⟩ := finish_next s (frameStart (atInstant s c) c (latchTrigger (atInstant s c) c 0 0) false)
    rw [atInstant_self] at hself
    have hbead (p : PartId) (i : Nat) : t.bead p i = if s.ownsBead c p i && !s.streamBead c p i then 0 else s.bead p i := by
      rw [hq.bead, frameStart_bead, ownsBead_congr (hk .img (by simp)), streamBead_congr (hk .img (by simp)),
        keeps_bead hk (by simp) p i]
    refine ⟨t, (scheduleTrigger_starts hs ha hd hf hh).trans ht, ?_, ?_, ?_, ?_, ?_, ?_, fun p i ho hb => ?_, fun p i ho => ?_,
      fun x hx => ?_⟩
    · rw [hq.ctx, hself]; rfl
    · rw [hq.ctx, hself]; rfl
    · rw [hq.ctx, hself]; rfl
    · rw [hq.ctx, hself]; rfl
    · rw [hq.ctx, hself]; rfl
    · rw [hq.ctx, hself]; rfl
    · rw [hbead, ho, hb]; rfl
    · rw [hbead, ho]; rfl
    · rw [hq.ctx, frameStart_ne _ _ _ hx, atInstant_ne s hx]
  · set missing := BitVec.ofNat 64 (s.arrStreams c) &&& ~~~(s.ctx c).arrived with hm
    set l := latchTrigger (arrivalsOver s c) c (flagBit fArrivalTimeout true) missing with hl
    have hself0 : (arrivalsOver s c).ctx c = { s.ctx c with arrived := 0 } := State.ctx_onCtx_self _ _ _
    obtain ⟨b, hself⟩ := frameStart_self (arrivalsOver s c) c l false
    obtain ⟨t, ht, hq⟩ := finish_next s (frameStart (arrivalsOver s c) c l false)
    rw [hself0] at hself
    refine ⟨t, (arrivalTimeout_starts hs ha hr hd hf hh).trans ht, ?_, ?_, ?_, ?_, fun i hi hn => ?_, fun x hx => ?_⟩
    · rw [hq.ctx, hself]; rfl
    · rw [hq.ctx, hself]; rfl
    · rw [hq.ctx, hself]; rfl
    · rw [hq.ctx, hself]
      exact startedFrame_flags c false (by rw [hl, latchTrigger_flags]; decide)
    · rw [hq.ctx, hself]
      have hmiss : missing.getLsbD i = true := by
        rw [hm, BitVec.getLsbD_and, BitVec.getLsbD_not, hi, hn]
        simp
      exact startedFrame_incomplete c false (latchTrigger_incomplete _ c _ hmiss)
    · rw [hq.ctx, frameStart_ne _ _ _ hx]
      exact State.ctx_onCtx_ne _ _ _ _ hx

/-- Settles O9: in a frame in flight the trigger fills the latch, or is counted where the latch is full. -/
theorem triggerInFlightIsLatchedThenCounted : Obligations.TriggerInFlightIsLatchedThenCounted := by
  unfold Obligations.TriggerInFlightIsLatchedThenCounted
  intro s c hs ha hd hf
  cases hl : (s.ctx c).latched with
  | none =>
    have hfire : exec (.scheduleTrigger c) s = finish s ((atInstant s c).onCtx c fun x =>
        { x with latched := some (latchTrigger (atInstant s c) c 0 0) }) := by
      rw [scheduleTrigger_fires hs ha hd, trigger_latches (by rw [atInstant_self]; exact hs)
        (.inl (by rw [atInstant_self]; exact hf)) (by rw [atInstant_self]; exact hl)]
    obtain ⟨t, ht, hq⟩ := finish_next s ((atInstant s c).onCtx c fun x =>
      { x with latched := some (latchTrigger (atInstant s c) c 0 0) })
    have hself : t.ctx c = { s.ctx c with
        lastTrig := some (1000 * s.nextInstant c), latched := some (latchTrigger (atInstant s c) c 0 0) } := by
      rw [hq.ctx, State.ctx_onCtx_self, atInstant_self]
    refine ⟨t, hfire.trans ht, by rw [hself], by rw [hself], fun x hx => ?_, fun _ => ⟨by rw [hself]; rfl, by rw [hself]⟩, by simp⟩
    rw [hq.ctx, State.ctx_onCtx_ne _ _ _ _ hx, atInstant_ne s hx]
  | some l =>
    obtain ⟨t, ht, hq⟩ := finish_next s (trigMissedIn (atInstant s c) c)
    have hself := (hq.ctx c).trans (trigMissedIn_self (atInstant s c) c)
    rw [atInstant_self] at hself
    refine ⟨t, (scheduleTrigger_missed hs ha hd hf hl).trans ht, by rw [hself], by rw [hself], fun x hx => ?_, by simp, fun l' h => ?_⟩
    · rw [hq.ctx, trigMissedIn_ne _ hx, atInstant_ne s hx]
    · cases h
      rw [hself]
      exact ⟨hl, rfl, rfl⟩

/-- Settles O60: the number is written by the start of a context and by the start of a frame; a trigger that is latched or
counted leaves it. -/
theorem frameNumbersCountUpAndWrap : Obligations.FrameNumbersCountUpAndWrap := by
  unfold Obligations.FrameNumbersCountUpAndWrap
  refine ⟨fun s c => by rw [enterStarting_self]; rfl, fun s c l late => ?_, fun s c hs hl => listsLoaded_nextFrame hs hl,
    fun s c k hs hd hh hf hk => ?_, fun s c l hs ha hd hf hl => ?_, fun s c flags missing hl hf => ?_⟩
  · obtain ⟨b, h⟩ := frameStart_self s c l late
    rw [h]
    exact ⟨rfl, numbered_toNat _ _⟩
  · rcases hk with ⟨rfl, ha⟩ | ⟨rfl, ha, hr⟩
    · obtain ⟨b, h⟩ := frameStart_self (atInstant s c) c (latchTrigger (atInstant s c) c 0 0) false
      obtain ⟨t, ht, hq⟩ := finish_next s (frameStart (atInstant s c) c (latchTrigger (atInstant s c) c 0 0) false)
      refine ⟨t, (scheduleTrigger_starts hs ha hd hf hh).trans ht, ?_⟩
      rw [hq.ctx, h, atInstant_self]
      exact ⟨rfl, numbered_toNat _ _⟩
    · have hfire := arrivalTimeout_starts hs ha hr hd hf hh
      obtain ⟨l, hl⟩ : ∃ l, exec (.arrivalTimeout c) s = finish s (frameStart (arrivalsOver s c) c l false) := ⟨_, hfire⟩
      obtain ⟨b, h⟩ := frameStart_self (arrivalsOver s c) c l false
      obtain ⟨t, ht, hq⟩ := finish_next s (frameStart (arrivalsOver s c) c l false)
      refine ⟨t, hl.trans ht, ?_⟩
      rw [hq.ctx, h, arrivalsOver, State.ctx_onCtx_self]
      exact ⟨rfl, numbered_toNat _ _⟩
  · obtain ⟨t, ht, hq⟩ := finish_next s (trigMissedIn (atInstant s c) c)
    refine ⟨t, (scheduleTrigger_missed hs ha hd hf hl).trans ht, ?_⟩
    rw [hq.ctx, trigMissedIn_self, atInstant_self]
    exact ⟨rfl, rfl⟩
  · by_cases hs : (s.ctx c).state = .run
    · rw [trigger_missed hs hf hl, trigMissedIn_self]
      exact ⟨rfl, rfl⟩
    · rw [trigger_idle hs]
      exact ⟨rfl, rfl⟩
end

section
/-!
PROOFS. CTX_START and CTX_STOP: the checks of a start, and how the mailbox serves a command that ends at once (R33, R34, R361,
R503, R530).
-/

open Sys2Proof Sys2Proof.Machine

namespace Sys2Proof.Machine

section
variable {s t : State} (hi : t.img = s.img) (hp : t.part = s.part)
include hi

theorem secD_congr (ty ctx i : Nat) : t.secD ty ctx i = s.secD ty ctx i := by simp only [State.secD, State.sec, hi]

theorem sec_congr (ty ctx i : Nat) : t.sec ty ctx i = s.sec ty ctx i := by simp only [State.sec, hi]

theorem regions_congr (c : CtxId) : t.regions c = s.regions c := by
  simp only [State.regions, State.ctxCfg, secD_congr hi]

theorem beadOutside_congr (c : CtxId) (v : Nat) : t.beadOutside c v = s.beadOutside c v := by
  simp only [State.beadOutside, ownsBead_congr hi]

theorem inRegions_congr (c : CtxId) (a n : Nat) (w : Bool) : t.inRegions c a n w = s.inRegions c a n w := by
  simp only [State.inRegions, regions_congr hi]

theorem streamBad4_congr (c : CtxId) (x : StreamProf) : streamBad4 t c x = streamBad4 s c x := by
  simp only [streamBad4, inRegions_congr hi, beadOutside_congr hi]

theorem crusherLoad_congr (hio : t.io = s.io) (c : CtxId) (d : DieId) (cru : Nat) (mine : List StreamProf) :
    crusherLoad t c d cru mine = crusherLoad s c d cru mine := by
  simp only [crusherLoad, State.die, State.camProf, secD_congr hi, hio]

include hp in
theorem streamCheck_congr (hio : t.io = s.io) (c : CtxId) (x : StreamProf) (l : List StreamProf) :
    streamCheck t c x l = streamCheck s c x l := by
  simp only [streamCheck, crusherLoad_congr hi hio, streamBad4_congr hi, hp]

theorem flowBad2_congr (hm : t.mem = s.mem) (c : CtxId) (x : FlowProf) : flowBad2 t c x = flowBad2 s c x := by
  have hpk : t.peek = s.peek := by funext a n; simp only [State.peek, hm]
  simp only [flowBad2, inRegions_congr hi, beadOutside_congr hi, hpk]

include hp in
theorem flowCheck_congr (hm : t.mem = s.mem) (c : CtxId) (d : DieId) (x : FlowProf) :
    flowCheck t c d x = flowCheck s c d x := by
  simp only [flowCheck, flowBad2_congr hi hm, State.template, secD_congr hi, hp]

theorem camSlots_congr (c : CtxId) : t.camSlots c = s.camSlots c := by
  simp only [State.camSlots, sec_congr hi]

theorem flowSlots_congr (c : CtxId) : t.flowSlots c = s.flowSlots c := by
  simp only [State.flowSlots, sec_congr hi]

include hp in
/-- The checks of a start read the image, the part, the profiles that are loaded and the golden frames in memory (R530). -/
theorem configCheck_congr (hm : t.mem = s.mem) (hio : t.io = s.io) (c : CtxId) : configCheck t c = configCheck s c := by
  have hflow : flowCheck t = flowCheck s := by
    funext c d x
    exact flowCheck_congr hi hp hm c d x
  have hprof : t.flowProf = s.flowProf := by
    funext c d i
    simp only [State.flowProf, secD_congr hi]
  unfold configCheck
  rw [hflow, hprof]
  simp only [regions_congr hi, camSlots_congr hi, flowSlots_congr hi, State.camProf, secD_congr hi,
    streamCheck_congr hi hp hio, hp]

end

/-- CTX_START of a context that may start and has no peers (R34, R503). -/
theorem mbCtxStart_ok {s : State} {n : Byte} (hn : n.toNat < 16) (hc : s.hasCtx (ctxOf n.toNat) = true)
    (hs : (s.ctx (ctxOf n.toNat)).state = .idle ∨ (s.ctx (ctxOf n.toNat)).state = .faulted)
    (hm : s.mayRun (ctxOf n.toNat) = true) (hp : s.peers (ctxOf n.toNat) = 0)
    (hk : configCheck s (ctxOf n.toNat) = none) : ∃ u, s.keeps [.ctxs] u ∧
      u.ctx (ctxOf n.toNat) = { s.ctx (ctxOf n.toNat) with state := .idle } ∧
      (∀ x, x ≠ ctxOf n.toNat → u.ctx x = s.ctx x) ∧
      mbCtxStart s [n] = (enterStarting u (ctxOf n.toNat), mbOk, []) := by
  have hb : byteAt [n] 0 = n.toNat := rfl
  rcases hs with hs | hs
  · refine ⟨s, s.keeps_refl _, by rw [← hs], fun _ _ => rfl, ?_⟩
    have hn' : ¬ 15 < n.toNat := by omega
    simp [mbCtxStart, hb, hn', hc, hs, hm, hp, tryStart, hk, ans]
  · have hkeep := setCtxState_keeps s (ctxOf n.toNat) .idle
    refine ⟨_, hkeep, setCtxState_self _ _ _, fun x hx => setCtxState_ne _ _ hx, ?_⟩
    have hk' : configCheck (setCtxState s (ctxOf n.toNat) .idle) (ctxOf n.toNat) = none :=
      (configCheck_congr (hkeep .img (by simp)) (hkeep .part (by simp)) (hkeep .mem (by simp)) (hkeep .io (by simp)) _).trans hk
    have hn' : ¬ 15 < n.toNat := by omega
    simp [mbCtxStart, hb, hn', hc, hs, hm, hp, tryStart, hk', ans]

/-- A command that no shared refusal meets and that is neither CTX_STOP nor RESET nor pending ends with its answer. -/
theorem serve_done {s u : State} {tag : U16} {op k : Nat} {a r : Bytes} (hr : s.mbRefusal op a = none) (h1 : op ≠ 0x11)
    (h2 : op ≠ 0x36) (ha : mbAnswer op s a = (u, k, r)) (hk : k ≠ mbPending) : serve s tag op a = mboxDone u tag op k r := by
  simp [serve, hr, h1, h2, ha, hk, mbEnd]

/-- CTX_STOP of a context in RUN without peers (R361, R503). -/
theorem serve_ctxStop {s : State} {tag : U16} {n : Byte} (hr : s.mbRefusal 0x11 [n] = none) (hn : n.toNat < 16)
    (hs : (s.ctx (ctxOf n.toNat)).state = .run) (hp : s.peers (ctxOf n.toNat) = 0) : serve s tag 0x11 [n] =
      teardown (s.onHst fun h => { h with state := 1 }) (ctxOf n.toNat) (some tag) 0 := by
  have hb : byteAt [n] 0 = n.toNat := rfl
  have hn' : ¬ 15 < n.toNat := by omega
  simp [serve, hr, mbCtxStop, hb, hn', hs, hp]

/-- A command that the mailbox serves at once. -/
theorem submit_of_serves {s : State} {op : Nat} {a : Bytes} (h : s.serves op a) (ho : op < 256) (tag : U16) :
    submit s tag op a = serve (s.written tag op a) tag op a := by
  obtain ⟨hl, hs, hr, hp, hn, -⟩ := h
  exact submit_serve s tag op a hl hs hr hp hn ho

theorem mayRun_written (s : State) (tag : U16) (op : Nat) (a : Bytes) (c : CtxId) :
    (s.written tag op a).mayRun c = s.mayRun c := rfl

theorem mbRefusal_written (s : State) (tag : U16) (op : Nat) (a : Bytes) :
    (s.written tag op a).mbRefusal op a = s.mbRefusal op a := rfl

end Sys2Proof.Machine

open Sys2Proof Sys2Proof.Machine

/-- Settles O24: the start is `enterStarting` of a context that the checks let through, the stop is a teardown whose end the
mailbox awaits. -/
theorem contextCommandsStartAndDrain : Obligations.ContextCommandsStartAndDrain := by
  unfold Obligations.ContextCommandsStartAndDrain
  refine ⟨fun s tag n hv hn hc hs hm hp hk => ?_, fun s tag n hv hn hs hp => ?_⟩
  · set c := ctxOf n.toNat with hcdef
    have hkw := written_keeps s tag 0x10 [n]
    obtain ⟨u, hku, hself, hne, hans⟩ := mbCtxStart_ok (s := s.written tag 0x10 [n]) hn hc hs
      ((mayRun_written _ _ _ _ _).trans hm) hp (by
        rw [configCheck_congr (hkw .img (by simp)) (hkw .part (by simp)) (hkw .mem (by simp)) (hkw .io (by simp))]; exact hk)
    have hserve := (submit_of_serves hv (by decide) tag).trans
      (serve_done ((mbRefusal_written s tag 0x10 [n]).trans hv.2.2.2.2.2) (by decide) (by decide) hans (by decide))
    obtain ⟨t, ht, hq⟩ := finish_next s (mboxDone (enterStarting u c) tag 0x10 mbOk [])
    have hkd := mboxDone_keeps (enterStarting u c) tag 0x10 mbOk []
    have hctx (x) : t.ctx x = (enterStarting u c).ctx x := (hq.ctx x).trans (congrArg (·.get x) (hkd .ctxs (by simp)))
    have hc' : t.ctx c = { (u.ctx c).started with state := .starting } := (hctx c).trans (enterStarting_self u c)
    rw [hself] at hc'
    refine ⟨t, ?_, hq.answered (mboxDone_answered _ _ _ _ _), ?_, ?_, ?_, ?_, fun x hx => ?_, fun p i ho => ?_⟩
    · rw [exec_mbox (op := 0x10) (tag := tag) (a := [n]) rfl, hserve]
      exact ht
    · rw [hc']
    · rw [hc']; rfl
    · rw [hc']; rfl
    · rw [hc']; rfl
    · rw [hctx, enterStarting_ne u hx]
      exact hne x hx
    · rw [hq.bead, keeps_bead hkd (by simp), enterStarting_bead, ownsBead_congr (hku .img (by simp)),
        ownsBead_congr (hkw .img (by simp)), ho]
      rfl
  · set c := ctxOf n.toNat with hcdef
    set w := (s.written tag 0x11 [n]).onHst fun h => { h with state := 1 } with hw
    have hserve := (submit_of_serves hv (by decide) tag).trans (serve_ctxStop (s := s.written tag 0x11 [n]) (tag := tag)
      ((mbRefusal_written s tag 0x11 [n]).trans hv.2.2.2.2.2) hn hs hp)
    obtain ⟨t, ht, hq⟩ := finish_next s (teardown w c (some tag) 0)
    have hk := teardown_keeps w c (some tag) 0
    have hself : t.ctx c = (s.ctx c).torn (some tag) := (hq.ctx c).trans (teardown_self w c (some tag) 0)
    refine ⟨t, ?_, by rw [hself]; rfl, by rw [hself]; rfl, by rw [hself]; rfl, ?_, fun q e he => ?_, fun x hx => ?_, ?_⟩
    · rw [exec_mbox (op := 0x11) (tag := tag) (a := [n]) rfl, hserve]
      exact ht
    · exact (keeps_hstOf hq.1 (by simp) HstRegs.state fun _ => rfl).trans
        (keeps_hstOf hk (by simp) HstRegs.state fun _ => rfl)
    · rw [hq.queue, teardown_queue] at he
      exact of_decide_eq_true (List.mem_filter.1 he).2
    · exact (hq.ctx x).trans (teardown_ne w (some tag) 0 hx)
    · exact hq.mem.trans (hk .mem (by simp))
end

section
/-!
PROOFS. PAIR, SPLIT and the hand-over that they await (R69, R70, R339, R340, R351).
-/

open Sys2Proof Sys2Proof.Machine

namespace Sys2Proof.Machine

theorem exec_pairHandover (p : PartId) (fails : Bool) (s : State) :
    exec (.pairHandover p fails) s = finish s (handover s p fails) := rfl

/-! ### A completed head, and a frame that is UNPAIRED -/

theorem headDone_coreKeeps (s : State) (i : CoreId) (k : QKind) : s.keeps [.cores] (headDone s (.core i k)) := by
  intro k hk; cases k <;> first | rfl | simp at hk

theorem headDone_executed {s : State} {q : QueueId} {e : QEntry} (h : ((headDone s q).queue q).entries.head? = some e) :
    e.executed = true := by
  obtain ⟨x, rfl⟩ := onHead_head h
  rfl

theorem setFlag_keeps (s : State) (c : CtxId) (i : Nat) : s.keeps [.ctxs] (setFlag s c i) := keeps_onFrame s c _

theorem setFlag_unpaired (s : State) (c : CtxId) : ((setFlag s c fUnpaired).ctx c).frame.flags.getLsbD fUnpaired = true := by
  have h : (flagBit fUnpaired true).getLsbD fUnpaired = true := by decide
  rw [setFlag, State.onFrame, State.ctx_onCtx_self, BitVec.getLsbD_or, h, Bool.or_true]

theorem setFlag_ne (s : State) {c x : CtxId} (i : Nat) (h : x ≠ c) : (setFlag s c i).ctx x = s.ctx x :=
  State.ctx_onCtx_ne _ _ _ _ h

/-- PAIR without pairing: a record, a flag and the head (R340). -/
theorem unpaired_keeps (s : State) (p : PartId) (i : CoreId) (c : CtxId) :
    s.keeps [.cores, .ctxs, .err] (unpaired s p (.core i .mq) c) := by
  have h1 := event_keeps s (srcPart 0x08 p) cPairFenced (some (s.cg c)) 0
  exact State.keeps_trans (State.keeps_trans (State.keeps_mono h1 (by simp)) (State.keeps_mono (setFlag_keeps _ c _) (by simp)))
    (State.keeps_mono (headDone_coreKeeps _ i .mq) (by simp))

theorem unpaired_flag (s : State) (p : PartId) (i : CoreId) (c : CtxId) :
    ((unpaired s p (.core i .mq) c).ctx c).frame.flags.getLsbD fUnpaired = true := by
  have h1 : (unpaired s p (.core i .mq) c).ctx c =
      (setFlag (event s (srcPart 0x08 p) cPairFenced (some (s.cg c)) 0) c fUnpaired).ctx c :=
    congrArg (·.get c) (headDone_coreKeeps _ i .mq .ctxs (by simp))
  rw [h1]
  exact setFlag_unpaired _ c

theorem unpaired_ne (s : State) (p : PartId) (i : CoreId) {c x : CtxId} (h : x ≠ c) :
    (unpaired s p (.core i .mq) c).ctx x = s.ctx x := by
  have h1 : (unpaired s p (.core i .mq) c).ctx x =
      (setFlag (event s (srcPart 0x08 p) cPairFenced (some (s.cg c)) 0) c fUnpaired).ctx x :=
    congrArg (·.get x) (headDone_coreKeeps _ i .mq .ctxs (by simp))
  rw [h1, setFlag_ne _ _ h]
  exact event_ctx_ne s _ _ (s.cg c) 0 h

theorem unpaired_executed {s : State} {p : PartId} {i : CoreId} {c : CtxId} {e : QEntry}
    (h : ((unpaired s p (.core i .mq) c).queue (.core i .mq)).entries.head? = some e) : e.executed = true := by
  unfold unpaired at h
  exact headDone_executed h

/-- PAIR without pairing, or a command that is complete: what ends at a fenced core (R340). -/
def pairEnds (isPair : Bool) (s : State) (p : PartId) (q : QueueId) (c : CtxId) : State :=
  if isPair then unpaired s p q c else headDone s q

theorem pairEnds_keeps (isPair : Bool) (s : State) (p : PartId) (i : CoreId) (c : CtxId) :
    s.keeps [.cores, .ctxs, .err] (pairEnds isPair s p (.core i .mq) c) := by
  cases isPair
  · exact State.keeps_mono (headDone_coreKeeps s i .mq) (by simp)
  · exact unpaired_keeps s p i c

theorem pairEnds_executed {isPair : Bool} {s : State} {p : PartId} {i : CoreId} {c : CtxId} {e : QEntry}
    (h : ((pairEnds isPair s p (.core i .mq) c).queue (.core i .mq)).entries.head? = some e) : e.executed = true := by
  cases isPair
  · exact headDone_executed (s := s) (q := .core i .mq) h
  · exact unpaired_executed (s := s) (p := p) (c := c) h

theorem pairEnds_ne (isPair : Bool) (s : State) (p : PartId) (i : CoreId) {c x : CtxId} (h : x ≠ c) :
    (pairEnds isPair s p (.core i .mq) c).ctx x = s.ctx x := by
  cases isPair
  · exact congrArg (·.get x) (headDone_coreKeeps s i .mq .ctxs (by simp))
  · exact unpaired_ne s p i h

/-! ### PAIR and SPLIT (R69, R70) -/

/-- PAIR or SPLIT waits for its hand-over. -/
def awaitHandover (s : State) (p : PartId) (k : Fin 3 × Fin 3) (isPair : Bool) (c : CtxId) : State :=
  s.onPart p fun x => { x with hub := { x.hub with want := some (k.1, k.2, isPair, c) } }

theorem awaitHandover_keeps (s : State) (p : PartId) (k : Fin 3 × Fin 3) (isPair : Bool) (c : CtxId) :
    s.keeps [.parts] (awaitHandover s p k isPair c) := onPart_keeps s p _

theorem awaitHandover_hub (s : State) (p : PartId) (k : Fin 3 × Fin 3) (isPair : Bool) (c : CtxId) :
    ((awaitHandover s p k isPair c).prt p).hub = { (s.prt p).hub with want := some (k.1, k.2, isPair, c) } := by
  rw [awaitHandover, State.prt_onPart_self]

theorem awaitHandover_queue (s : State) (p : PartId) (k : Fin 3 × Fin 3) (isPair : Bool) (c : CtxId) (q : QueueId) :
    (awaitHandover s p k isPair c).queue q = s.queue q := by
  cases q with
  | core i n => rfl
  | dq r =>
    by_cases h : r = p
    · subst h; simp only [State.queue, awaitHandover, State.prt_onPart_self]
    · simp only [State.queue, awaitHandover, State.prt_onPart_ne _ _ _ _ h]

section
variable {s : State} {j : Job} (hq : j.h.qseq = 0)
include hq

theorem pairRun_waits (h1 : s.isFenced (coreOf j.who.part (pairCores j).1) = false)
    (h2 : s.isFenced (coreOf j.who.part (pairCores j).2) = false) (hp : (s.prt j.who.part).hub.pair = none) :
    pairRun true s j = awaitHandover s j.who.part (pairCores j) true j.who.ctx := by
  simp only [pairRun, hq, h1, h2, hp]
  rfl

theorem splitRun_waits (h1 : s.isFenced (coreOf j.who.part (pairCores j).1) = false)
    (h2 : s.isFenced (coreOf j.who.part (pairCores j).2) = false)
    (hp : (s.prt j.who.part).hub.pair = some (pairCores j) ∨
      (s.prt j.who.part).hub.pair = some ((pairCores j).2, (pairCores j).1)) :
    pairRun false s j = awaitHandover s j.who.part (pairCores j) false j.who.ctx := by
  simp only [pairRun, hq, h1, h2, hp]
  rfl

theorem pairRun_fenced (hf : s.isFenced (coreOf j.who.part (pairCores j).1) = true ∨
    s.isFenced (coreOf j.who.part (pairCores j).2) = true) (isPair : Bool) :
    pairRun isPair s j = pairEnds isPair s j.who.part j.q j.who.ctx := by
  have h : (s.isFenced (coreOf j.who.part (pairCores j).1) || s.isFenced (coreOf j.who.part (pairCores j).2)) = true := by
    simpa using hf
  simp only [pairRun, hq, h]
  rfl

/-- A PAIR of the pair that stands completes at once. -/
theorem pairRun_stands (h1 : s.isFenced (coreOf j.who.part (pairCores j).1) = false)
    (h2 : s.isFenced (coreOf j.who.part (pairCores j).2) = false) (hp : (s.prt j.who.part).hub.pair = some (pairCores j)) :
    pairRun true s j = headDone s j.q := by
  simp [pairRun, hq, h1, h2, hp]

end

/-- A job of PAIR or SPLIT runs after its stage has started. -/
theorem runPair_job {s : State} {i : CoreId} {isPair : Bool} {j : Job}
    (h : s.job (.core i .mq) (· = if isPair then 0x18 else 0x19) = some j) :
    runPair s i isPair = pairRun isPair (startStage s j.who.ctx j.h.stage) j := by
  simp only [runPair, h]

/-- PAIR or SPLIT in the instruction's own words. -/
theorem exec_pairing {s : State} {i : CoreId} {j : Job} {c : Instr} {isPair : Bool}
    (h : c = .pair i ∧ isPair = true ∧ s.job (.core i .mq) (· = 0x18) = some j ∨
      c = .splitOp i ∧ isPair = false ∧ s.job (.core i .mq) (· = 0x19) = some j) :
    exec c s = finish s (pairRun isPair (startStage s j.who.ctx j.h.stage) j) ∧ j.q = .core i .mq := by
  rcases h with ⟨rfl, rfl, hj⟩ | ⟨rfl, rfl, hj⟩
  · exact ⟨by rw [exec_pair, runPair_job (isPair := true) hj], (job_spec hj).2.1⟩
  · exact ⟨by rw [exec_splitOp, runPair_job (isPair := false) hj], (job_spec hj).2.1⟩

/-- The command leaves a hand-over to come, and the queues as they are. -/
theorem exec_pairing_waits {s : State} {i : CoreId} {j : Job} {c : Instr} {isPair : Bool}
    (h : c = .pair i ∧ isPair = true ∧ s.job (.core i .mq) (· = 0x18) = some j ∨
      c = .splitOp i ∧ isPair = false ∧ s.job (.core i .mq) (· = 0x19) = some j)
    (hr : pairRun isPair (startStage s j.who.ctx j.h.stage) j =
      awaitHandover (startStage s j.who.ctx j.h.stage) j.who.part (pairCores j) isPair j.who.ctx) :
    ∃ t, exec c s = .next t ∧ (t.prt j.who.part).hub =
        { (s.prt j.who.part).hub with want := some ((pairCores j).1, (pairCores j).2, isPair, j.who.ctx) } ∧
      (∀ q, t.queue q = s.queue q) ∧ s.keeps [.parts, .ctxs] t := by
  have hs := startStage_keeps s j.who.ctx j.h.stage
  have ha := awaitHandover_keeps (startStage s j.who.ctx j.h.stage) j.who.part (pairCores j) isPair j.who.ctx
  obtain ⟨t, ht, hk, hq⟩ := finish_keeps (old := s) (State.keeps_trans (l := [.parts, .ctxs])
    (State.keeps_mono hs (by simp)) (State.keeps_mono ha (by simp)))
  refine ⟨t, by rw [(exec_pairing h).1, hr, ht], ?_, fun q => (hq.queue q).trans (awaitHandover_queue _ _ _ _ _ q), hk⟩
  exact (congrArg (fun v => PartRt.hub (v.get j.who.part)) (hq.1 .parts (by simp))).trans (awaitHandover_hub _ _ _ _ _)

/-- What ends a PAIR or SPLIT that awaits no hand-over. -/
theorem pairRun_ends {s : State} {i : CoreId} {j : Job} {isPair : Bool} (hq : j.h.qseq = 0) (hjq : j.q = .core i .mq)
    (h : s.isFenced (coreOf j.who.part (pairCores j).1) = true ∨ s.isFenced (coreOf j.who.part (pairCores j).2) = true ∨
      isPair = true ∧ (s.prt j.who.part).hub.pair = some (pairCores j)) :
    ∃ b, pairRun isPair s j = pairEnds b s j.who.part (.core i .mq) j.who.ctx ∧
      (isPair = true → (s.isFenced (coreOf j.who.part (pairCores j).1) = true ∨
        s.isFenced (coreOf j.who.part (pairCores j).2) = true) → b = true) := by
  by_cases hf : s.isFenced (coreOf j.who.part (pairCores j).1) = true ∨ s.isFenced (coreOf j.who.part (pairCores j).2) = true
  · exact ⟨isPair, by rw [pairRun_fenced hq hf, hjq], fun hp _ => hp⟩
  · rcases h with h | h | ⟨rfl, hp⟩
    · exact absurd (.inl h) hf
    · exact absurd (.inr h) hf
    · obtain ⟨h1, h2⟩ := not_or.1 hf
      refine ⟨false, ?_, fun _ h => absurd h hf⟩
      rw [pairRun_stands hq (Bool.eq_false_iff.2 h1) (Bool.eq_false_iff.2 h2) hp, hjq]
      rfl

/-! ### The hand-over (R339, R351) -/

/-- A hub whose hand-over finds a fenced core. -/
def Hub.parted (h : Hub) : Hub := { h with want := none, pair := none }

/-- A hub after its hand-over. -/
def Hub.handed (h : Hub) (l t : Fin 3) (isPair : Bool) : Hub :=
  { h with want := none, pair := if isPair then some (l, t) else none, selfchkFail := if isPair then false else h.selfchkFail
           pairCnt := if isPair then h.pairCnt + 1 else h.pairCnt }

/-- A hub whose self-check fails. -/
def Hub.checkFailed (h : Hub) : Hub := { h with want := none, selfchkFail := true }

/-- The hub of a partition. -/
def onHub (s : State) (p : PartId) (f : Hub → Hub) : State := s.onPart p fun x => { x with hub := f x.hub }

theorem onHub_keeps (s : State) (p : PartId) (f : Hub → Hub) : s.keeps [.parts] (onHub s p f) := onPart_keeps s p _

theorem onHub_hub (s : State) (p : PartId) (f : Hub → Hub) : ((onHub s p f).prt p).hub = f (s.prt p).hub := by
  rw [onHub, State.prt_onPart_self]

theorem clearPair_keeps (s : State) (l t : CoreId) (isPair : Bool) : s.keeps [.cores] (clearPair s l t isPair) := by
  have h : s.keeps [.cores] (clearPipes (clearPipes s l) t) := State.keeps_trans (onCore_keeps s l _) (onCore_keeps _ t _)
  unfold clearPair
  dsimp only
  split
  · exact State.keeps_trans h (onCore_keeps _ t _)
  · exact h

section
variable {s : State} {p : PartId} {l t : Fin 3} {isPair : Bool} {c : CtxId} (hw : (s.prt p).hub.want = some (l, t, isPair, c))
include hw

theorem handover_fenced (hf : s.isFenced (coreOf p l) = true ∨ s.isFenced (coreOf p t) = true) (fails : Bool) :
    handover s p fails = pairEnds isPair (onHub s p Hub.parted) p (.core (coreOf p l) .mq) c := by
  have h : (s.isFenced (coreOf p l) || s.isFenced (coreOf p t)) = true := by simpa using hf
  simp only [handover, hw, h]
  rfl

theorem handover_done (h1 : s.isFenced (coreOf p l) = false) (h2 : s.isFenced (coreOf p t) = false) : handover s p false =
    headDone (onHub (clearPair s (coreOf p l) (coreOf p t) isPair) p fun h => h.handed l t isPair)
      (.core (coreOf p l) .mq) := by
  simp only [handover, hw, h1, h2, Bool.and_false]
  rfl

end

/-- The hand-over of a PAIR whose self-check fails, up to the flag of the frame. -/
def selfcheckDone (s : State) (p : PartId) (l t : Fin 3) : State :=
  headDone (onHub (clearPair s (coreOf p l) (coreOf p t) true) p Hub.checkFailed) (.core (coreOf p l) .mq)

/-- The same before its fault is raised. -/
def selfcheckFailed (s : State) (p : PartId) (l t : Fin 3) (c : CtxId) : State := setFlag (selfcheckDone s p l t) c fUnpaired

theorem selfcheckFailed_cg (s : State) (p : PartId) (l t : Fin 3) (c : CtxId) :
    (selfcheckFailed s p l t c).cg c = (selfcheckDone s p l t).cg c := by
  rw [State.cg, State.cg, selfcheckFailed, setFlag, State.onFrame, State.ctx_onCtx_self]

/-- The fault of the pair hub. -/
def pairHubFlt (p : PartId) : Flt := { src := srcPart 0x08 p, code := cPairHubFault, detail := 0 }

theorem pairHubFlt_ofCtx (p : PartId) : (pairHubFlt p).OfCtx := Flt.ofCtx_of_code (by decide) (by decide)

theorem handover_fails {s : State} {p : PartId} {l t : Fin 3} {c : CtxId} (hw : (s.prt p).hub.want = some (l, t, true, c))
    (h1 : s.isFenced (coreOf p l) = false) (h2 : s.isFenced (coreOf p t) = false) : handover s p true =
      raiseFlt (selfcheckFailed s p l t c) (pairHubFlt p) (some ((selfcheckFailed s p l t c).cg c)) := by
  rw [selfcheckFailed_cg]
  simp only [handover, hw, h1, h2]
  rfl

/-! ### What a fault leaves of a failed self-check -/

/-- The hub of a partition holds a failed self-check and awaits no hand-over, and the frame of the context is UNPAIRED. -/
structure State.PairFailed (s : State) (p : PartId) (c : CtxId) : Prop where
  want : (s.prt p).hub.want = none
  selfchk : (s.prt p).hub.selfchkFail = true
  flag : (s.ctx c).frame.flags.getLsbD fUnpaired = true

theorem State.PairFailed.congr {s t : State} {p : PartId} {c : CtxId} (h : s.PairFailed p c)
    (hp : (t.prt p).hub = (s.prt p).hub) (hc : (t.ctx c).frame.flags = (s.ctx c).frame.flags) : t.PairFailed p c :=
  ⟨by rw [hp, h.want], by rw [hp, h.selfchk], by rw [hc, h.flag]⟩

theorem State.PairFailed.keeps {s t : State} {p : PartId} {c : CtxId} {l : List Kind} (h : s.PairFailed p c) (hk : s.keeps l t)
    (hp : Kind.parts ∉ l) (hc : Kind.ctxs ∉ l) : t.PairFailed p c :=
  h.congr (congrArg (fun v => PartRt.hub (v.get p)) (hk .parts hp))
    (congrArg (fun v => FrameRt.flags (CtxRt.frame (v.get c))) (hk .ctxs hc))

theorem purgeQueues_hub (s : State) (c : CtxId) (p : PartId) : ((purgeQueues s c).prt p).hub = (s.prt p).hub := by
  have key (l : List QueueId) (s : State) : (((l.foldl (fun s q => s.onQueue q fun x =>
      { x with entries := x.entries.filter fun e => decide (e.ctx ≠ c) }) s)).prt p).hub = (s.prt p).hub := by
    induction l generalizing s with
    | nil => rfl
    | cons q l ih =>
      refine (ih _).trans ?_
      cases q with
      | core i k => rfl
      | dq r =>
        by_cases h : p = r
        · subst h; simp [State.onQueue]
        · exact congrArg PartRt.hub (State.prt_onPart_ne _ _ _ _ h)
  exact key _ s

theorem purgeHubs_failed {s : State} {p : PartId} {c : CtxId} (h : s.PairFailed p c) (x : CtxId) :
    (purgeHubs s x).PairFailed p c := by
  refine h.congr ?_ rfl
  have hp := purgeHubs_prt s x p
  rw [h.want] at hp
  rw [hp]
  rfl

theorem teardown_failed {s : State} {p : PartId} {c : CtxId} (h : s.PairFailed p c) (stop : Option U16) (code : U16) :
    (teardown s c stop code).PairFailed p c := by
  have h1 : (setCtxState s c .draining).PairFailed p c :=
    h.congr (congrArg (fun v => PartRt.hub (v.get p)) (setCtxState_keeps s c .draining .parts (by simp)))
      (by rw [setCtxState_self])
  have h2 : (purgeQueues (setCtxState s c .draining) c).PairFailed p c :=
    h1.congr (purgeQueues_hub _ c p) (congrArg (fun v => FrameRt.flags (CtxRt.frame (v.get c)))
      (purgeQueues_keeps _ c .ctxs (by simp)))
  have h3 := purgeHubs_failed h2 c
  have h4 : (purge (setCtxState s c .draining) c).PairFailed p c := by
    unfold purge
    exact h3.keeps (State.keeps_onRng _ _) (by simp) (by simp)
  have h5 : (tornState s c stop).PairFailed p c := by
    refine h4.congr ?_ ?_
    · rw [tornState, State.prt_onCtx]
    · rw [tornState, State.ctx_onCtx_self]
  exact h5.keeps (teardown_torn s c stop code) (by simp) (by simp)

theorem faultCtx_failed {s : State} {p : PartId} {c : CtxId} (h : s.PairFailed p c) (code : U16) (dev : Bool) :
    (faultCtx s c code dev).PairFailed p c := by
  simp only [faultCtx]
  split
  · refine teardown_failed ?_ none code
    have hframe (f : TlyRegs → TlyRegs) (g : FrameRt → FrameRt) (hg : ∀ x, (g x).flags = x.flags) :
        ((s.onTly f).onFrame c g).PairFailed p c := by
      refine h.congr rfl ?_
      rw [State.onFrame, State.ctx_onCtx_self]
      exact hg _
    have hpush (u : State) (i : TallyItem) (hu : u.PairFailed p c) : (tallyPush u i).PairFailed p c :=
      hu.keeps (tallyPush_keeps u i) (by simp) (by simp)
    split
    · refine hpush _ _ (hframe _ _ ?_)
      exact fun _ => rfl
    · refine hframe _ _ ?_
      exact fun _ => rfl
  · exact h.congr rfl rfl

theorem event_failed {s : State} {p : PartId} {c : CtxId} (h : s.PairFailed p c) (src code : U16)
    (ctx : Option (CtxId × BitVec 12)) (detail : Nat) : (event s src code ctx detail).PairFailed p c :=
  h.congr (congrArg (fun v => PartRt.hub (v.get p)) (event_keeps s src code ctx detail .parts (by simp)))
    (congrArg (fun x : CtxRt => x.frame.flags) (event_ctx s src code ctx detail c) :)

/-- A fault of the context itself leaves the failed self-check. -/
theorem raiseFlt_failed {s : State} {p : PartId} {c : CtxId} (h : s.PairFailed p c) {f : Flt} (hf : f.OfCtx) (g : BitVec 12) :
    (raiseFlt s f (some (c, g))).PairFailed p c := by
  have he := event_failed h f.src f.code (some (c, g)) f.detail
  simp only [raiseFlt, countIso_fault s hf.fault, hf.notDevice, hf.fault, hf.cores, hf.reset, List.foldl_nil,
    Bool.false_eq_true, if_false, if_true]
  split
  · exact he
  · split
    · refine faultCtx_failed (he.congr ?_ ?_) f.code false
      · exact congrArg (fun v => PartRt.hub (v.get p)) (reactCtx_keeps _ c .parts (by simp))
      · rw [reactCtx_self]
    · exact he

theorem selfcheckFailed_failed (s : State) (p : PartId) (l t : Fin 3) (c : CtxId) :
    (selfcheckFailed s p l t c).PairFailed p c := by
  have hub : ((selfcheckFailed s p l t c).prt p).hub =
      ((clearPair s (coreOf p l) (coreOf p t) true).prt p).hub.checkFailed := onHub_hub _ p _
  exact ⟨by rw [hub]; rfl, by rw [hub]; rfl, setFlag_unpaired _ c⟩

theorem selfcheckDone_keeps (s : State) (p : PartId) (l t : Fin 3) : s.keeps [.cores, .parts] (selfcheckDone s p l t) :=
  State.keeps_trans (State.keeps_trans (State.keeps_mono (clearPair_keeps s _ _ true) (by simp))
    (State.keeps_mono (onHub_keeps _ p _) (by simp))) (State.keeps_mono (headDone_coreKeeps _ _ .mq) (by simp))

theorem selfcheckFailed_keeps (s : State) (p : PartId) (l t : Fin 3) (c : CtxId) :
    s.keeps [.cores, .parts, .ctxs] (selfcheckFailed s p l t c) :=
  State.keeps_trans (State.keeps_mono (selfcheckDone_keeps s p l t) (by simp)) (State.keeps_mono (setFlag_keeps _ c _) (by simp))

theorem selfcheckFailed_state (s : State) (p : PartId) (l t : Fin 3) (c : CtxId) :
    ((selfcheckFailed s p l t c).ctx c).state = (s.ctx c).state := by
  have h : (selfcheckDone s p l t).ctx c = s.ctx c := congrArg (·.get c) (selfcheckDone_keeps s p l t .ctxs (by simp))
  rw [selfcheckFailed, setFlag, State.onFrame, State.ctx_onCtx_self]
  exact (congrArg CtxRt.state h :)

end Sys2Proof.Machine

open Sys2Proof Sys2Proof.Machine

/-- Settles O18: each command is one branch of `pairRun` or of `handover`. -/
theorem pairingTakesAHandOver : Obligations.PairingTakesAHandOver := by
  unfold Obligations.PairingTakesAHandOver
  refine ⟨fun s i j hj hq h1 h2 hp => ?_, fun s i j hj hq h1 h2 hp => ?_, fun s i j c isPair hc hq hor => ?_,
    fun s p l tr isPair c hw h1 h2 => ?_, fun s p l tr isPair fails c hw hf => ?_, fun s p l tr c hw h1 h2 he hs => ?_⟩
  · obtain ⟨t, ht, hhub, hqu, hk⟩ := exec_pairing_waits (c := .pair i) (isPair := true) (.inl ⟨rfl, rfl, hj⟩)
      (pairRun_waits hq h1 h2 hp)
    exact ⟨t, ht, by rw [hhub], by rw [hhub]; exact hp, hqu, hk⟩
  · obtain ⟨t, ht, hhub, hqu, hk⟩ := exec_pairing_waits (c := .splitOp i) (isPair := false) (.inr ⟨rfl, rfl, hj⟩)
      (splitRun_waits hq h1 h2 hp)
    exact ⟨t, ht, by rw [hhub], hqu, hk⟩
  · obtain ⟨hx, hjq⟩ := exec_pairing hc
    set u := startStage s j.who.ctx j.h.stage with hu
    obtain ⟨b, hr, hb⟩ := pairRun_ends (s := u) hq hjq hor
    obtain ⟨t, ht, hk, hqt⟩ := finish_keeps (old := s) (State.keeps_trans
      (State.keeps_mono (startStage_keeps s j.who.ctx j.h.stage) (by simp)) (pairEnds_keeps b u j.who.part i j.who.ctx))
    refine ⟨t, by rw [hx, hr, ht], fun e h => ?_, fun p => ?_, fun hp hf => ?_, fun x hx => ?_, hk⟩
    · rw [hqt.queue] at h
      exact pairEnds_executed h
    · exact congrArg (fun v => PartRt.hub (v.get p)) (hk .parts (by simp))
    · obtain rfl := hb hp hf
      rw [hqt.ctx]
      exact unpaired_flag u _ i _
    · rw [hqt.ctx, pairEnds_ne b u _ i hx, startStage_ne s _ hx]
  · set u := onHub (clearPair s (coreOf p l) (coreOf p tr) isPair) p fun h => h.handed l tr isPair with hu
    have hkc := clearPair_keeps s (coreOf p l) (coreOf p tr) isPair
    have hd := headDone_coreKeeps u (coreOf p l) .mq
    obtain ⟨t, ht, hk, hqt⟩ := finish_keeps (old := s) (State.keeps_trans (l := [.cores, .parts]) (State.keeps_trans
      (State.keeps_mono hkc (by simp)) (State.keeps_mono (onHub_keeps _ p _) (by simp)))
      (State.keeps_mono hd (by simp)))
    have hhub : (t.prt p).hub = (s.prt p).hub.handed l tr isPair :=
      (congrArg (fun v => PartRt.hub (v.get p)) ((hqt.1 .parts (by simp)).trans (hd .parts (by simp)))).trans
        ((onHub_hub _ p _).trans (congrArg (fun v => (PartRt.hub (v.get p)).handed l tr isPair) (hkc .parts (by simp))))
    refine ⟨t, by rw [exec_pairHandover, handover_done hw h1 h2, ht], by rw [hhub]; rfl, by rw [hhub]; rfl, by rw [hhub]; rfl,
      fun e h => ?_, hk⟩
    rw [hqt.queue] at h
    exact headDone_executed h
  · set u := onHub s p Hub.parted with hu
    have hku := onHub_keeps s p Hub.parted
    have hkr := pairEnds_keeps isPair u p (coreOf p l) c
    obtain ⟨t, ht, hk, hqt⟩ := finish_keeps (old := s) (State.keeps_trans (l := [.cores, .parts, .ctxs, .err])
      (State.keeps_mono hku (by simp)) (State.keeps_mono hkr (by simp)))
    have hhub : (t.prt p).hub = (s.prt p).hub.parted :=
      (congrArg (fun v => PartRt.hub (v.get p)) ((hqt.1 .parts (by simp)).trans (hkr .parts (by simp)))).trans (onHub_hub s p _)
    refine ⟨t, by rw [exec_pairHandover, handover_fenced hw hf, ht], by rw [hhub]; rfl, by rw [hhub]; rfl, fun e h => ?_,
      fun hp => ?_, hk⟩
    · rw [hqt.queue] at h
      exact pairEnds_executed h
    · subst hp
      rw [hqt.ctx]
      exact unpaired_flag u p _ c
  · set u := selfcheckFailed s p l tr c with hu
    have hku := selfcheckFailed_keeps s p l tr c
    have hfail := raiseFlt_failed (selfcheckFailed_failed s p l tr c) (pairHubFlt_ofCtx p) (u.ctx c).gen
    have hrun : (u.ctx c).state = .run := (selfcheckFailed_state s p l tr c).trans hs
    obtain ⟨hst, -⟩ := raiseFlt_run u (pairHubFlt p) c rfl rfl (pairHubFlt_ofCtx p).notDevice (pairHubFlt_ofCtx p).fault
      ((keeps_expect hku (by simp)).trans he) (.inl hrun) _ rfl
    obtain ⟨t, ht, hqt⟩ := finish_next s (raiseFlt u (pairHubFlt p) (some (u.cg c)))
    have hhub := congrArg (fun v => PartRt.hub (v.get p)) (hqt.1 .parts (by simp))
    refine ⟨t, by rw [exec_pairHandover, handover_fails hw h1 h2, ht], ?_, ?_, ?_, ?_⟩
    · exact (congrArg Hub.want hhub).trans hfail.want
    · exact (congrArg Hub.selfchkFail hhub).trans hfail.selfchk
    · rw [hqt.ctx]; exact hfail.flag
    · rw [hqt.ctx]; exact hst
end

section
/-!
PROOFS. A camera's frame start: the packet header, the slot that opens a buffer, and what of it ingress leaves alone until the
next frame start (R54, R266, R268, R446, R479).
-/

open Sys2Proof Sys2Proof.Machine

namespace Sys2Proof.Machine

/-! ### What of a camera slot stays (R54, R173, R266) -/

/-- Two states of a slot that differ in its lines alone: the profile, the open frame, its buffer and the buffers' times are the
same. -/
structure CamRt.Like (r r' : CamRt) : Prop where
  ctx : r'.ctx = r.ctx
  gen : r'.gen = r.gen
  frameOpen : r'.frameOpen = r.frameOpen
  buf : r'.buf = r.buf
  last : r'.last = r.last
  received : r'.received = r.received
  opened : ∀ b, (r'.bufs.get b).opened = (r.bufs.get b).opened
  ts : ∀ b, (r'.bufs.get b).ts = (r.bufs.get b).ts

theorem CamRt.Like.refl (r : CamRt) : r.Like r := ⟨rfl, rfl, rfl, rfl, rfl, rfl, fun _ => rfl, fun _ => rfl⟩

theorem CamRt.Like.trans {r r' r'' : CamRt} (h : r.Like r') (h' : r'.Like r'') : r.Like r'' :=
  ⟨h'.ctx.trans h.ctx, h'.gen.trans h.gen, h'.frameOpen.trans h.frameOpen, h'.buf.trans h.buf, h'.last.trans h.last,
    h'.received.trans h.received, fun b => (h'.opened b).trans (h.opened b), fun b => (h'.ts b).trans (h.ts b)⟩

/-- An update of one buffer that leaves its opening alone. -/
theorem CamRt.like_setBuf (r : CamRt) (b : Fin 2) {f : BufInfo → BufInfo} (ho : ∀ y, (f y).opened = y.opened)
    (ht : ∀ y, (f y).ts = y.ts) : r.Like { r with bufs := setBuf r.bufs b f } := by
  refine ⟨rfl, rfl, rfl, rfl, rfl, rfl, fun b' => ?_, fun b' => ?_⟩ <;> by_cases h : b' = b
  · subst h; simp only [setBuf, vget_set_self, ho]
  · simp only [setBuf, vget_set_ne _ _ _ _ b.2 h]
  · subst h; simp only [setBuf, vget_set_self, ht]
  · simp only [setBuf, vget_set_ne _ _ _ _ b.2 h]

/-- From `s` to `t` no port and no slot of a die changes but in its lines. -/
structure State.CamsHeld (s t : State) (d : DieId) : Prop where
  csi : (t.die d).csi = (s.die d).csi
  cam : ∀ i, ((s.die d).cams.get i).Like ((t.die d).cams.get i)

theorem State.CamsHeld.refl (s : State) (d : DieId) : s.CamsHeld s d := ⟨rfl, fun _ => .refl _⟩

theorem State.CamsHeld.trans {s t u : State} {d : DieId} (h : s.CamsHeld t d) (h' : t.CamsHeld u d) : s.CamsHeld u d :=
  ⟨h'.csi.trans h.csi, fun i => (h.cam i).trans (h'.cam i)⟩

theorem State.CamsHeld.of_eq {s t : State} {d : DieId} (hc : (t.die d).cams = (s.die d).cams)
    (hp : (t.die d).csi = (s.die d).csi) : s.CamsHeld t d := ⟨hp, fun i => by rw [hc]; exact .refl _⟩

theorem State.CamsHeld.of_keeps {s t : State} {l : List Kind} (h : s.keeps l t) (hl : Kind.io ∉ l) (d : DieId) :
    s.CamsHeld t d :=
  .of_eq (congrArg (fun v => IoDie.cams (v.get d)) (h .io hl)) (congrArg (fun v => IoDie.csi (v.get d)) (h .io hl))

theorem State.Recorded.camsHeld {s t : State} (h : s.Recorded t) (d : DieId) : s.CamsHeld t d :=
  .of_eq (congrArg IoDie.cams (h.die d) :) (congrArg IoDie.csi (h.die d) :)

theorem onDie_camsHeld (s : State) (e : DieId) {f : IoDie → IoDie} (hc : ∀ x, (f x).cams = x.cams) (hp : ∀ x, (f x).csi = x.csi)
    (d : DieId) : s.CamsHeld (s.onDie e f) d := by
  by_cases h : d = e
  · subst h; exact .of_eq (by rw [State.die_onDie_self, hc]) (by rw [State.die_onDie_self, hp])
  · exact .of_eq (by rw [State.die_onDie_ne _ _ _ _ h]) (by rw [State.die_onDie_ne _ _ _ _ h])

theorem cams_onCam_self (s : State) (d : DieId) (i : Fin 32) (f : CamRt → CamRt) :
    ((s.onCam d i f).die d).cams.get i = f ((s.die d).cams.get i) := by
  rw [State.onCam, State.die_onDie_self, vget_set_self]

theorem cams_onCam_ne (s : State) (d : DieId) {i j : Fin 32} (f : CamRt → CamRt) (h : j ≠ i) :
    ((s.onCam d i f).die d).cams.get j = (s.die d).cams.get j := by
  rw [State.onCam, State.die_onDie_self]
  exact vget_set_ne _ _ _ _ i.2 h

theorem csi_onCam (s : State) (d : DieId) (i : Fin 32) (f : CamRt → CamRt) (e : DieId) :
    ((s.onCam d i f).die e).csi = (s.die e).csi := by
  by_cases h : e = d
  · subst h; rw [State.onCam, State.die_onDie_self]
  · rw [State.onCam, State.die_onDie_ne _ _ _ _ h]

theorem onCam_camsHeld (s : State) (d : DieId) (i : Fin 32) {f : CamRt → CamRt} (hf : ∀ r : CamRt, r.Like (f r)) :
    s.CamsHeld (s.onCam d i f) d := by
  refine ⟨csi_onCam s d i f d, fun j => ?_⟩
  by_cases h : j = i
  · subst h; rw [cams_onCam_self]; exact hf _
  · rw [cams_onCam_ne _ _ _ h]; exact .refl _

theorem foldl_camsHeld {α : Type} {d : DieId} {f : State → α → State} (hf : ∀ (s : State) a, s.CamsHeld (f s a) d) (l : List α) (s : State) :
    s.CamsHeld (l.foldl f s) d := by
  induction l generalizing s with
  | nil => exact .refl s d
  | cons a l ih => exact (hf s a).trans (ih _)

theorem fifoPush_camsHeld (s : State) (d : DieId) (e : IffItem) : s.CamsHeld (fifoPush s d e) d := by
  refine onDie_camsHeld s d (fun x => ?_) (fun x => ?_) d <;> split <;> rfl

/-! ### The Crusher takes the lines that still wait (R181) -/

/-- From `s` to `t` a stream's lines alone moved on: its slot keeps its frame, and the contexts all but their class counters. -/
structure State.Crushed (s t : State) (d : DieId) : Prop where
  keeps : s.keeps [.io, .err, .ctxs] t
  cams : s.CamsHeld t d
  ctx : ∀ x, (t.ctx x).uncounted = (s.ctx x).uncounted

theorem State.Crushed.refl (s : State) (d : DieId) : s.Crushed s d := ⟨s.keeps_refl _, .refl s d, fun _ => rfl⟩

theorem State.Crushed.trans {s t u : State} {d : DieId} (h : s.Crushed t d) (h' : t.Crushed u d) : s.Crushed u d :=
  ⟨State.keeps_trans h.keeps h'.keeps, h.cams.trans h'.cams, fun x => (h'.ctx x).trans (h.ctx x)⟩

theorem onDie_keeps (s : State) (d : DieId) (f : IoDie → IoDie) : s.keeps [.io] (s.onDie d f) := by
  intro k hk; cases k <;> first | rfl | simp at hk

theorem State.Crushed.of_held {s t : State} {d : DieId} (hk : s.keeps [.io] t) (h : s.CamsHeld t d) : s.Crushed t d :=
  ⟨State.keeps_mono hk (by simp), h, fun x => congrArg (fun v => CtxRt.uncounted (v.get x)) (hk .ctxs (by simp))⟩

theorem onCam_crushed (s : State) (d : DieId) (i : Fin 32) {f : CamRt → CamRt} (hf : ∀ r : CamRt, r.Like (f r)) :
    s.Crushed (s.onCam d i f) d := .of_held (onDie_keeps s d _) (onCam_camsHeld s d i hf)

theorem event_crushed (s : State) (src code : U16) (ctx : Option (CtxId × BitVec 12)) (detail : Nat) (d : DieId) :
    s.Crushed (event s src code ctx detail) d :=
  ⟨State.keeps_mono (event_keeps s src code ctx detail) (by simp), .of_keeps (event_keeps s src code ctx detail) (by simp) d,
    event_ctx s src code ctx detail⟩

theorem onCru_crushed (s : State) (d : DieId) (cru : Fin 2) (f : CruRegs → CruRegs) : s.Crushed (s.onCru d cru f) d := by
  refine .of_held (onDie_keeps s d _) (onDie_camsHeld s d ?_ ?_ d)
  · exact fun _ => rfl
  · exact fun _ => rfl

theorem foldl_crushed {α : Type} {d : DieId} {f : State → α → State} (hf : ∀ (s : State) a, s.Crushed (f s a) d) (l : List α) (s : State) :
    s.Crushed (l.foldl f s) d := by
  induction l generalizing s with
  | nil => exact .refl s d
  | cons a l ih => exact (hf s a).trans (ih _)

theorem camIncomplete_crushed (s : State) (d : DieId) (i : Fin 32) : s.Crushed (camIncomplete s d i) d := by
  simp only [camIncomplete]
  split
  · split
    · exact .refl s d
    · refine State.Crushed.trans (onCam_crushed s d i fun r => ?_) (event_crushed _ _ _ _ _ d)
      exact r.like_setBuf _ (fun _ => rfl) fun _ => rfl
  · exact .refl s d

theorem camFinish_crushed (s : State) (d : DieId) (i : Fin 32) : s.Crushed (camFinish s d i) d := by
  simp only [camFinish]
  split
  · split
    · refine onCam_crushed s d i fun r => ?_
      exact r.like_setBuf _ (fun _ => rfl) fun _ => rfl
    · exact .refl s d
  · exact .refl s d

theorem fifoPush_crushed (s : State) (d : DieId) (e : IffItem) : s.Crushed (fifoPush s d e) d :=
  .of_held (onDie_keeps s d _) (fifoPush_camsHeld s d e)

theorem takeLine_crushed (s : State) (d : DieId) (i : Fin 32) (l : Option Bytes) : s.Crushed (takeLine s d i l) d := by
  simp only [takeLine]
  split
  · refine State.Crushed.trans ?_ (camFinish_crushed _ d i)
    refine State.Crushed.trans ?_ (foldl_crushed (fun s e => fifoPush_crushed s d e) _ _)
    refine State.Crushed.trans (t := if l.isSome then s else camIncomplete s d i) ?_ ?_
    · split
      · exact .refl s d
      · exact camIncomplete_crushed s d i
    · refine onCam_crushed _ d i fun r => ?_
      exact ⟨rfl, rfl, rfl, rfl, rfl, rfl, fun _ => rfl, fun _ => rfl⟩
  · exact .refl s d

theorem crushOne_crushed (s : State) (d : DieId) (cru : Fin 2) (i : Fin 32) : s.Crushed (crushOne s d cru i) d := by
  simp only [crushOne]
  split
  · exact .refl s d
  · refine State.Crushed.trans ?_ (takeLine_crushed _ d i _)
    refine (onCru_crushed s d cru _).trans (onCam_crushed _ d i fun r => ?_)
    exact ⟨rfl, rfl, rfl, rfl, rfl, rfl, fun _ => rfl, fun _ => rfl⟩

theorem drainCru_crushed (n : Nat) (s : State) (d : DieId) (cru : Fin 2) (i : Fin 32) : s.Crushed (drainCru n s d cru i) d := by
  induction n generalizing s with
  | zero => exact .refl s d
  | succ n ih => exact (crushOne_crushed s d cru i).trans (ih _)

/-! ### The frame that an arrival starts (R38) -/

theorem clearOverruns_camsHeld (s : State) (c : CtxId) (d : DieId) : s.CamsHeld (clearOverruns s c) d := by
  refine ⟨by simp [clearOverruns, State.die], fun i => ?_⟩
  have h : ((clearOverruns s c).die d).cams.get i = if ((s.die d).cams.get i).ctx = some c then
      { (s.die d).cams.get i with overrun := false, woke := false } else (s.die d).cams.get i := by
    simp [clearOverruns, State.die] <;> rfl
  rw [h]
  split
  · exact ⟨rfl, rfl, rfl, rfl, rfl, rfl, fun _ => rfl, fun _ => rfl⟩
  · exact .refl _

theorem emptyFrameEnds_keeps (s : State) (c : CtxId) : s.keeps [.ctxs] (emptyFrameEnds s c) := by
  unfold emptyFrameEnds
  split
  · exact keeps_onFrame _ _ _
  · exact s.keeps_refl _

/-- A frame start leaves the open frames of the streams. -/
theorem frameStart_camsHeld (s : State) (c : CtxId) (l : Latched) (late : Bool) (d : DieId) :
    s.CamsHeld (frameStart s c l late) d := by
  have h1 : s.CamsHeld (frameNumbered s c l late) d := ((clearOverruns_camsHeld s c d).trans
    (.of_keeps (pickSplit_keeps _ c) (by simp) d)).trans (.of_keeps (State.keeps_onCtx _ c _) (by simp) d)
  have h2 := (h1.trans (.of_keeps (frameCleared_keeps _ c) (by simp) d)).trans (.of_keeps (firstFrameNoted_keeps _) (by simp) d)
  rw [frameStart_eq]
  exact (h2.trans ((frameMark_recorded _ c _ late).camsHeld d)).trans (.of_keeps (emptyFrameEnds_keeps _ c) (by simp) d)

theorem trigger_camsHeld (s : State) (c : CtxId) (flags : U32) (missing : U64) (d : DieId) :
    s.CamsHeld (trigger s c flags missing) d := by
  simp only [trigger]
  split
  · exact .refl s d
  · split
    · exact frameStart_camsHeld s c _ false d
    · split
      · exact .of_keeps (State.keeps_onCtx s c _) (by simp) d
      · exact .of_keeps (State.keeps_onCtx s c _) (by simp) d

theorem arrival_camsHeld (s : State) (c : CtxId) (n : Fin 64) (d : DieId) : s.CamsHeld (arrival s c n) d := by
  simp only [arrival]
  split
  · exact .refl s d
  · split
    · exact (State.CamsHeld.of_keeps (State.keeps_onCtx s c _) (by simp) d).trans (trigger_camsHeld _ c _ _ d)
    · exact .of_keeps (State.keeps_onCtx s c _) (by simp) d

/-! ### The packet header (R266, R267) -/

theorem packetHeader_good {s : State} {k : CsiHdr} (he : k.ecc = .ok) (hx : k.vcx = false) (hd : s.dev ≠ .replay)
    (hp : diePresent s.part k.die = true) (n : Nat) : packetHeader s k n = (s, true) := by
  simp [packetHeader, he, hx, hd, hp]

theorem camSlot_congr {s t : State} (hi : t.img = s.img) {d : DieId}
    (hc : ∀ i, ((t.die d).cams.get i).ctx = ((s.die d).cams.get i).ctx) (port vc : Nat) :
    t.camSlot d port vc = s.camSlot d port vc := by
  have hprof (c i) : t.camProf c d i = s.camProf c d i := by simp only [State.camProf, secD_congr hi]
  simp only [State.camSlot, hc, hprof]

/-- A packet whose header cannot be corrected is counted. -/
def eccDropped (s : State) (k : CsiHdr) : State := s.onCsi k.die k.port fun r => { r with eccDrop := sat32 r.eccDrop }

theorem onCsi_keeps (s : State) (d : DieId) (p : PortId) (f : CsiRegs → CsiRegs) : s.keeps [.io] (s.onCsi d p f) :=
  onDie_keeps s d _

theorem die_onCsi (s : State) (d : DieId) (p : PortId) (f : CsiRegs → CsiRegs) :
    ((s.onCsi d p f).die d).cams = (s.die d).cams ∧ ((s.onCsi d p f).die d).csi.get p = f ((s.die d).csi.get p) := by
  rw [State.onCsi, State.die_onDie_self]
  exact ⟨rfl, vget_set_self _ _ _ p.2⟩

theorem packetHeader_dropped {s : State} {k : CsiHdr} (he : k.ecc = .bad) (hd : s.dev ≠ .replay)
    (hp : diePresent s.part k.die = true) (hc : s.camSlot k.die k.port.1 k.vc.1 = none) (n : Nat) :
    packetHeader s k n = (eccDropped s k, false) := by
  have hslot : (eccDropped s k).camSlot k.die k.port.1 k.vc.1 = none :=
    (camSlot_congr (s := s) (t := eccDropped s k) rfl (fun i => by rw [eccDropped, (die_onCsi s _ _ _).1]) _ _).trans hc
  have hs : ¬ (s.dev = .replay ∨ !diePresent s.part k.die) := by simp [hd, hp]
  unfold packetHeader
  rw [if_neg hs, if_pos he]
  rw [eccDropped] at hslot
  simp only [hslot]
  rfl

/-! ### A buffer is opened (R54, R266, R268) -/

/-- The port at a frame start. -/
def fsCounted (s : State) (k : CsiHdr) : State :=
  vcMark (s.onCsi k.die k.port fun y => { y with fsCnt := y.fsCnt + 1 }) k true

theorem fsCounted_keeps (s : State) (k : CsiHdr) : s.keeps [.io] (fsCounted s k) := by
  unfold fsCounted vcMark
  exact State.keeps_trans (onCsi_keeps s k.die k.port _) (onCsi_keeps _ k.die k.port _)

theorem fsCounted_die (s : State) (k : CsiHdr) : ((fsCounted s k).die k.die).cams = (s.die k.die).cams ∧
    (((fsCounted s k).die k.die).csi.get k.port).fsCnt = ((s.die k.die).csi.get k.port).fsCnt + 1 ∧
    (((fsCounted s k).die k.die).csi.get k.port).fsAdj = ((s.die k.die).csi.get k.port).fsAdj ∧
    (((fsCounted s k).die k.die).csi.get k.port).vcOpen = ((s.die k.die).csi.get k.port).vcOpen ||| (1 <<< k.vc.1) := by
  obtain ⟨hc, hp⟩ := die_onCsi s k.die k.port fun y => { y with fsCnt := y.fsCnt + 1 }
  obtain ⟨hc', hp'⟩ := die_onCsi (s.onCsi k.die k.port fun y => { y with fsCnt := y.fsCnt + 1 }) k.die k.port fun r =>
    { r with vcOpen := r.vcOpen ||| (1 <<< k.vc.1), hs := decide (r.vcOpen ||| (1 <<< k.vc.1) ≠ 0) }
  rw [hp] at hp'
  refine ⟨hc'.trans hc, ?_, ?_, ?_⟩ <;> rw [fsCounted, vcMark]
  · exact (congrArg CsiRegs.fsCnt hp' :)
  · exact (congrArg CsiRegs.fsAdj hp' :)
  · exact (congrArg CsiRegs.vcOpen hp' :)

theorem fsCounted_vcOpen (s : State) (k : CsiHdr) :
    (((fsCounted s k).die k.die).csi.get k.port).vcOpen.getLsbD k.vc.1 = true := by
  have h (i : Fin 4) : (((1 <<< i.1 : Nat)) : BitVec 4).getLsbD i.1 = true := by revert i; decide
  rw [(fsCounted_die s k).2.2.2, BitVec.getLsbD_or, h, Bool.or_true]

theorem fsCounted_fsStamp (s : State) (k : CsiHdr) : (fsCounted s k).fsStamp k.die k.port = s.fsStamp k.die k.port := by
  simp only [State.fsStamp, (fsCounted_die s k).2.2.1]
  rfl

/-- A slot whose buffer opens. -/
def CamRt.opens (r : CamRt) (b : Fin 2) (info : BufInfo) : CamRt :=
  { r with frameOpen := true, buf := some b, last := b, recent := some b, waiting := [], taken := [], good := [], received := 0
           outLines := 0, ended := false, hashed := [], bufs := r.bufs.set b.1 info }

theorem runGold_camsHeld (s : State) (d : DieId) (i : Fin 32) (c : CtxId) (gen : BitVec 12) (b : Fin 2) :
    s.CamsHeld (runGold s d i c gen b) d := by
  simp only [runGold]
  split
  · exact .refl s d
  · refine State.CamsHeld.trans (onCam_camsHeld s d i fun r => ?_) (fifoPush_camsHeld _ d _)
    exact r.like_setBuf _ (fun _ => rfl) fun _ => rfl

theorem camOpen_opens (s : State) (d : DieId) (i : Fin 32) (c : CtxId) (x : StreamProf) (b : Fin 2) (time : U64) (seq : U32) :
    ((camOpen s d i c x b time seq).die d).csi = (s.die d).csi ∧
      (((s.die d).cams.get i).opens b { opened := true, ts := time, recSeq := seq, recSrc := srcCsi d x.port }).Like
        (((camOpen s d i c x b time seq).die d).cams.get i) := by
  have hio : (s.setBead (beadField (x.bead b.1)).1 (beadField (x.bead b.1)).2 0).die d = s.die d := rfl
  have hg := runGold_camsHeld ((s.setBead (beadField (x.bead b.1)).1 (beadField (x.bead b.1)).2 0).onCam d i fun r =>
    r.opens b { opened := true, ts := time, recSeq := seq, recSrc := srcCsi d x.port }) d i c
  have hself := cams_onCam_self (s.setBead (beadField (x.bead b.1)).1 (beadField (x.bead b.1)).2 0) d i fun r =>
    r.opens b { opened := true, ts := time, recSeq := seq, recSrc := srcCsi d x.port }
  have hcsi := csi_onCam (s.setBead (beadField (x.bead b.1)).1 (beadField (x.bead b.1)).2 0) d i (fun r =>
    r.opens b { opened := true, ts := time, recSeq := seq, recSrc := srcCsi d x.port }) d
  rw [hio] at hself hcsi
  refine ⟨(hg _ b).csi.trans hcsi, ?_⟩
  rw [← hself]
  exact (hg _ b).cam i

theorem nextBuf_congr {s t : State} {c : CtxId} (h : (t.ctx c).uncounted = (s.ctx c).uncounted) (flow : Bool) (d : DieId)
    (i : Nat) (last : Fin 2) : t.nextBuf c flow d i last = s.nextBuf c flow d i last := by
  have hf : (t.ctx c).frame = (s.ctx c).frame := (congrArg CtxRt.frame h :)
  have hl : (t.ctx c).latched = (s.ctx c).latched := (congrArg CtxRt.latched h :)
  simp only [State.nextBuf, State.bufHeld, hf, hl] <;> rfl

theorem camLive_congr {s t : State} {c : CtxId} {d : DieId} {i : Fin 32} (h : (t.ctx c).uncounted = (s.ctx c).uncounted)
    (hg : ((t.die d).cams.get i).gen = ((s.die d).cams.get i).gen) : t.camLive d i c = s.camLive d i c := by
  have h1 : (t.ctx c).gen = (s.ctx c).gen := (congrArg CtxRt.gen h :)
  have h2 : (t.ctx c).state = (s.ctx c).state := (congrArg CtxRt.state h :)
  simp only [State.camLive, h1, h2, hg]

theorem camEnd_closed {s : State} {d : DieId} {i : Fin 32} (h : ((s.die d).cams.get i).frameOpen = false) (x : StreamProf) :
    camEnd s d i x = s := by
  simp [camEnd, h]

/-- The lines that still wait are taken. -/
def cruDrained (s : State) (d : DieId) (i : Fin 32) (x : StreamProf) : State :=
  drainCru ((s.die d).cams.get i).waiting.length s d ⟨x.cru % 2, Nat.mod_lt _ (by decide)⟩ i

/-- The arrival event of a stream that the context names. -/
def streamArrives (s : State) (c : CtxId) (d : DieId) (i : Fin 32) : State :=
  match s.streamOf c 1 d.1 i.1 with
  | some n => arrival s c n
  | none => s

theorem streamArrives_camsHeld (s : State) (c : CtxId) (d : DieId) (i : Fin 32) : s.CamsHeld (streamArrives s c d i) d := by
  unfold streamArrives
  split
  · exact arrival_camsHeld _ c _ d
  · exact .refl _ d

/-- The frame start of a live stream with a buffer to open, from the state in which its lines are taken. -/
theorem camStart_buf {s : State} {d : DieId} {i : Fin 32} {c : CtxId} {b : Fin 2}
    (hf : ((s.die d).cams.get i).frameOpen = false) (hm : (s.camProf c d i).mode ≠ 0)
    (hl : (cruDrained s d i (s.camProf c d i)).camLive d i c = true)
    (hb : (cruDrained s d i (s.camProf c d i)).nextBuf c false d i.1
      (((cruDrained s d i (s.camProf c d i)).die d).cams.get i).last = some b) (time : U64) (seq : U32) :
    camStart s d i c time seq false =
      streamArrives (camOpen (cruDrained s d i (s.camProf c d i)) d i c (s.camProf c d i) b time seq) c d i := by
  generalize hu : cruDrained s d i (s.camProf c d i) = u at hl hb ⊢
  have hcond : ¬ ((s.camProf c d i).mode = 0 ∨ (!u.camLive d i c) = true) := by
    rw [hl]
    rintro (h | h)
    · exact hm h
    · cases h
  unfold cruDrained at hu
  unfold camStart
  dsimp only
  rw [camEnd_closed hf, hu, if_neg hcond, hb]
  rfl

/-- A frame start of a live stream that finds a free buffer: the slot opens it, and the port stays. -/
theorem camStart_opens {s : State} {d : DieId} {i : Fin 32} {c : CtxId} {b : Fin 2} (hf : ((s.die d).cams.get i).frameOpen = false)
    (hm : (s.camProf c d i).mode ≠ 0) (hl : s.camLive d i c = true)
    (hb : s.nextBuf c false d i.1 ((s.die d).cams.get i).last = some b) (time : U64) (seq : U32) : ∃ (r : CamRt) (info : BufInfo),
      info.opened = true ∧ info.ts = time ∧ ((camStart s d i c time seq false).die d).csi = (s.die d).csi ∧
        (r.opens b info).Like (((camStart s d i c time seq false).die d).cams.get i) := by
  set x := s.camProf c d i with hx
  set u := cruDrained s d i x with hu
  have hcr : s.Crushed u d := drainCru_crushed _ s d _ i
  have hlive : u.camLive d i c = true := (camLive_congr (hcr.ctx c) (hcr.cams.cam i).gen).trans hl
  have hbuf : u.nextBuf c false d i.1 ((u.die d).cams.get i).last = some b := by
    rw [nextBuf_congr (hcr.ctx c), (hcr.cams.cam i).last, hb]
  have hs : camStart s d i c time seq false = streamArrives (camOpen u d i c x b time seq) c d i :=
    camStart_buf hf hm hlive hbuf time seq
  obtain ⟨hcsi, hcam⟩ := camOpen_opens u d i c x b time seq
  have harr := streamArrives_camsHeld (camOpen u d i c x b time seq) c d i
  rw [hs]
  exact ⟨_, _, rfl, rfl, (harr.csi.trans hcsi).trans hcr.cams.csi, hcam.trans (harr.cam i)⟩

theorem execCsiFrameStart_eq (k : CsiHdr) (n : U16) (s : State) : exec (.csiFrameStart k n) s =
    finish s (if !s.portLive k.die k.port then wakingFrame s k else if !(packetHeader s k 0).2 then (packetHeader s k 0).1
    else match (fsCounted (packetHeader s k 0).1 k).camSlot k.die k.port.1 k.vc.1 with
      | none => fsCounted (packetHeader s k 0).1 k
      | some (i, c) =>
        let u := fsCounted (packetHeader s k 0).1 k
        let x := u.camProf c k.die i
        let v := camEnd u k.die i x
        readOut v k.die [(c, ((v.die k.die).cams.get i).gen)] k.buffered
          (camStart (tapShort v k.die x 0 (u.fsStamp k.die k.port) n) k.die i c (u.fsStamp k.die k.port)
            (v.nextRecSeq (srcCsi k.die x.port)) false)) := rfl

/-- The read-out of the recorder buffer finds nothing (R259, R328). -/
theorem readOut_clean {s : State} {f : Finding} (h : f = .clean ∨ s.recActive = false) (d : DieId)
    (cs : List (CtxId × BitVec 12)) (s' : State) : readOut s d cs f s' = s' := by
  unfold readOut
  rcases h with rfl | h
  · split <;> rfl
  · rw [h]; rfl

/-- A frame start of a loaded stream whose packet is good, of a slot without an open frame. -/
theorem csiFrameStart_loaded {s : State} {k : CsiHdr} {i : Fin 32} {c : CtxId} (he : k.ecc = .ok) (hx : k.vcx = false)
    (hd : s.dev ≠ .replay) (hp : diePresent s.part k.die = true) (hl : s.portLive k.die k.port = true)
    (hr : k.buffered = .clean ∨ s.recActive = false) (hc : s.camSlot k.die k.port.1 k.vc.1 = some (i, c))
    (hf : ((s.die k.die).cams.get i).frameOpen = false) (n : U16) : ∃ seq, exec (.csiFrameStart k n) s = finish s
      (camStart (tapShort (fsCounted s k) k.die ((fsCounted s k).camProf c k.die i) 0 (s.fsStamp k.die k.port) n) k.die i c
        (s.fsStamp k.die k.port) seq false) := by
  have hcams := (fsCounted_die s k).1
  have hslot : (fsCounted s k).camSlot k.die k.port.1 k.vc.1 = some (i, c) := by
    rw [camSlot_congr (fsCounted_keeps s k .img (by simp)) (fun i => by rw [hcams]), hc]
  have hopen : (((fsCounted s k).die k.die).cams.get i).frameOpen = false := by rw [hcams, hf]
  refine ⟨(fsCounted s k).nextRecSeq (srcCsi k.die ((fsCounted s k).camProf c k.die i).port), ?_⟩
  rw [execCsiFrameStart_eq, packetHeader_good he hx hd hp, hl]
  simp only [hslot, camEnd_closed hopen, fsCounted_fsStamp]
  rw [readOut_clean (s := fsCounted s k) hr]
  rfl

theorem tapShort_recorded (s : State) (d : DieId) (x : StreamProf) (fe : Nat) (time : U64) (n : U16) :
    s.Recorded (tapShort s d x fe time n) := by
  unfold tapShort
  exact recWrite_recorded s _ _ _ _ _ _ _

/-! ### A port that delivers nothing (R446, R479) -/

theorem wakingFrame_keeps (s : State) (k : CsiHdr) : s.keeps [.io] (wakingFrame s k) := by
  unfold wakingFrame
  split
  · exact s.keeps_refl _
  · split
    · exact onDie_keeps s k.die _
    · exact s.keeps_refl _

/-- A wake leaves the port and the buffers of the streams. -/
theorem wakingFrame_die (s : State) (k : CsiHdr) : ((wakingFrame s k).die k.die).csi = (s.die k.die).csi ∧
    ∀ i, (((wakingFrame s k).die k.die).cams.get i).bufs = ((s.die k.die).cams.get i).bufs := by
  unfold wakingFrame
  split
  · exact ⟨rfl, fun _ => rfl⟩
  · split
    · next i c _ =>
      refine ⟨csi_onCam s _ _ _ _, fun j => ?_⟩
      by_cases h : j = i
      · subst h; rw [cams_onCam_self]
      · rw [cams_onCam_ne _ _ _ h]
    · exact ⟨rfl, fun _ => rfl⟩

theorem csiFrameStart_held {s : State} {k : CsiHdr} (h : s.portLive k.die k.port = false) (n : U16) :
    exec (.csiFrameStart k n) s = finish s (wakingFrame s k) := by
  rw [execCsiFrameStart_eq, h]
  rfl

theorem csiLongPacket_held {s : State} {k : CsiHdr} (h : s.portLive k.die k.port = false) (dt : BitVec 6) (p : Bytes) (ok : Bool) :
    exec (.csiLongPacket k dt p ok) s = finish s s := by
  show execCsiLongPacket k dt p ok s = _
  rw [execCsiLongPacket, h]
  rfl

theorem csiFrameEnd_held {s : State} {k : CsiHdr} (h : s.portLive k.die k.port = false) (n : U16) :
    exec (.csiFrameEnd k n) s = finish s s := by
  show execCsiFrameEnd k n s = _
  rw [execCsiFrameEnd, h]
  rfl

end Sys2Proof.Machine

open Sys2Proof Sys2Proof.Machine

/-- Settles O44: the slot opens its buffer before the arrival may start a frame, and a frame start leaves open buffers alone. -/
theorem frameStartOpensABuffer : Obligations.FrameStartOpensABuffer := by
  unfold Obligations.FrameStartOpensABuffer
  refine ⟨fun s k n i c b he hx hd hp hl hr hc hf hm hlive hb => ?_, fun s k n he hd hp hl hc => ?_, fun s k hl => ⟨fun n => ?_,
    fun dt p ok => ?_, fun n => ?_⟩⟩
  · obtain ⟨seq, hex⟩ := csiFrameStart_loaded he hx hd hp hl hr hc hf n
    set u := tapShort (fsCounted s k) k.die ((fsCounted s k).camProf c k.die i) 0 (s.fsStamp k.die k.port) n with hu
    have hrec : (fsCounted s k).Recorded u := tapShort_recorded _ _ _ _ _ _
    have hkeep := State.keeps_trans (State.keeps_mono (fsCounted_keeps s k)
      (by simp : ∀ j ∈ [Kind.io], j ∈ [Kind.recd, .mem, .bad, .hst, .io, .free])) hrec.keeps
    obtain ⟨hcams, hcnt, -, -⟩ := fsCounted_die s k
    have hcam : (u.die k.die).cams = (s.die k.die).cams := (congrArg IoDie.cams (hrec.die k.die) :).trans hcams
    have hcsi : (u.die k.die).csi = ((fsCounted s k).die k.die).csi := (congrArg IoDie.csi (hrec.die k.die) :)
    have hctx : u.ctx c = s.ctx c := congrArg (·.get c) (hkeep .ctxs (by simp))
    obtain ⟨r, info, hopen, hts, hport, hlike⟩ := camStart_opens (s := u) (d := k.die) (i := i) (c := c) (b := b)
      (by rw [hcam, hf]) (by simpa only [State.camProf, secD_congr (hkeep .img (by simp))] using hm)
      ((camLive_congr (by rw [hctx]) (by rw [hcam])).trans hlive)
      (by rw [nextBuf_congr (s := s) (by rw [hctx]), hcam, hb]) (s.fsStamp k.die k.port) seq
    obtain ⟨t, ht, hq⟩ := finish_next s (camStart u k.die i c (s.fsStamp k.die k.port) seq false)
    have hbuf : ((r.opens b info).bufs.get b) = info := vget_set_self _ _ _ b.2
    rw [← hq.die] at hport hlike
    refine ⟨t, hex.trans ht, hlike.frameOpen, hlike.buf, hlike.last, hlike.received, ?_, ?_, ?_, ?_⟩
    · rw [hlike.opened, hbuf, hopen]
    · rw [hlike.ts, hbuf, hts]
    · rw [hport, hcsi, hcnt]
    · rw [hport, hcsi]; exact fsCounted_vcOpen s k
  · obtain ⟨hcams, hcsi⟩ := die_onCsi s k.die k.port fun r => { r with eccDrop := sat32 r.eccDrop }
    have hke : s.keeps [.io] (eccDropped s k) := onCsi_keeps s k.die k.port _
    obtain ⟨t, ht, hk, hq⟩ := finish_keeps (old := s) hke
    refine ⟨t, ?_, ?_, ?_, ?_, hk⟩
    · rw [execCsiFrameStart_eq, hl, packetHeader_dropped he hd hp hc]
      exact ht
    · rw [hq.die, eccDropped, hcsi]
    · rw [hq.die, eccDropped, hcsi]
    · rw [hq.die, eccDropped, hcams]
  · obtain ⟨hcsi, hbufs⟩ := wakingFrame_die s k
    obtain ⟨t, ht, hk, hq⟩ := finish_keeps (old := s) (wakingFrame_keeps s k)
    exact ⟨t, (csiFrameStart_held hl n).trans ht, by rw [hq.die, hcsi], fun i => by rw [hq.die, hbufs], hk⟩
  · obtain ⟨t, ht, hq⟩ := finish_next s s
    exact ⟨t, (csiLongPacket_held hl dt p ok).trans ht, hq.1⟩
  · obtain ⟨t, ht, hq⟩ := finish_next s s
    exact ⟨t, (csiFrameEnd_held hl n).trans ht, hq.1⟩
end

section
/-!
PROOFS. The ports of the Seam ring: what one port's update leaves, and that no fault, message or membership touches a port
(R410, R411, R413, R423).
-/

open Sys2Proof Sys2Proof.Machine

namespace Sys2Proof.Machine

/-! ### One port -/

theorem portNum_ne {p q : RingPort} (h : q ≠ p) : portNum q ≠ portNum p := by
  cases p <;> cases q <;> first | exact absurd rfl h | decide

theorem otherPort_ne (p : RingPort) : otherPort p ≠ p := by
  cases p <;> decide

@[simp] theorem port_onPort_self (s : State) (p : RingPort) (f : RingPortRt → RingPortRt) : (s.onPort p f).port p = f (s.port p) :=
  vget_set_self _ _ _ (portNum p).2

theorem port_onPort_ne (s : State) {p q : RingPort} (f : RingPortRt → RingPortRt) (h : q ≠ p) :
    (s.onPort p f).port q = s.port q := vget_set_ne _ _ _ _ (portNum p).2 (portNum_ne h)

theorem onPort_keeps (s : State) (p : RingPort) (f : RingPortRt → RingPortRt) : s.keeps [.rng] (s.onPort p f) :=
  State.keeps_onRng s _

/-- An update of a port that leaves a fact of it leaves that fact of every port. -/
theorem port_onPort_fact {α : Type} (g : RingPortRt → α) (s : State) (p : RingPort) {f : RingPortRt → RingPortRt}
    (hf : ∀ x, g (f x) = g x) (q : RingPort) : g ((s.onPort p f).port q) = g (s.port q) := by
  by_cases h : q = p
  · subst h; rw [port_onPort_self, hf]
  · rw [port_onPort_ne _ _ h]

theorem isPortUp_onPort (s : State) (p : RingPort) {f : RingPortRt → RingPortRt} (hf : ∀ x, (f x).state = x.state) (q : RingPort) :
    (s.onPort p f).isPortUp q = s.isPortUp q := by
  rw [State.isPortUp, State.isPortUp, port_onPort_fact RingPortRt.state s p hf]

theorem hopCrosses_onPort (s : State) (p : RingPort) {f : RingPortRt → RingPortRt} (hf : ∀ x, (f x).peerId = x.peerId)
    (q : RingPort) : hopCrosses (s.onPort p f).rng q = hopCrosses s.rng q := by
  have h := port_onPort_fact RingPortRt.peerId s p hf q
  unfold State.port at h
  rw [hopCrosses, h]
  rfl

theorem routePort_onPort (s : State) (p : RingPort) (f : RingPortRt → RingPortRt) (d : BitVec 2) :
    routePort (s.onPort p f).rng d = routePort s.rng d := rfl

/-! ### What leaves through a port (R413) -/

theorem portPass_out {s : State} {p : RingPort} (h : s.isPortUp p = true) (ch : Option RingChannel) (inB : Bool) (t : RingOut) :
    OutEvent.ring p ⟨ch, inB || hopCrosses s.rng p⟩ t ∈ (portPass s p ch inB t).out := by
  have hu : (s.rng.ports.get (portNum p)).state = .up := of_decide_eq_true h
  rw [portPass, if_pos hu]
  exact List.mem_cons_self

theorem ringSend_out {s : State} {d : BitVec 2} (h : s.isPortUp (routePort s.rng d) = true) (t : RingOut) :
    OutEvent.ring (routePort s.rng d) ⟨t.channel, hopCrosses s.rng (routePort s.rng d)⟩ t ∈ (ringSend s d t).out := by
  have := portPass_out h t.channel false t
  rwa [Bool.false_or] at this

/-! ### The ports stay -/

/-- No port changes. -/
def State.PortsHeld (s t : State) : Prop := t.rng.ports = s.rng.ports

theorem State.PortsHeld.refl (s : State) : s.PortsHeld s := rfl

theorem State.PortsHeld.trans {s t u : State} (h : s.PortsHeld t) (h' : t.PortsHeld u) : s.PortsHeld u := Eq.trans h' h

theorem State.PortsHeld.port {s t : State} (h : s.PortsHeld t) (p : RingPort) : t.port p = s.port p :=
  congrArg (fun v => v.get (portNum p)) h

theorem State.PortsHeld.of_keeps {s t : State} {l : List Kind} (h : s.keeps l t) (hl : Kind.rng ∉ l) : s.PortsHeld t :=
  congrArg RngRegs.ports (h .rng hl : t.rng = s.rng)

theorem State.PortsHeld.onRng (s : State) {f : RngRegs → RngRegs} (hf : ∀ r, (f r).ports = r.ports) : s.PortsHeld (s.onRng f) :=
  hf _

theorem State.PortsHeld.ite {s t u : State} {c : Prop} [Decidable c] (h : s.PortsHeld t) (h' : s.PortsHeld u) :
    s.PortsHeld (if c then t else u) := by
  split
  · exact h
  · exact h'

theorem foldl_portsHeld {α : Type} {f : State → α → State} (hf : ∀ (s : State) a, s.PortsHeld (f s a)) (l : List α) (s : State) :
    s.PortsHeld (l.foldl f s) := by
  induction l generalizing s with
  | nil => exact .refl s
  | cons a l ih => exact (hf s a).trans (ih _)

theorem portSend_portsHeld (s : State) (p : RingPort) (t : RingOut) : s.PortsHeld (portSend s p t) :=
  .of_keeps (portPass_keeps s p _ _ t) (by simp)

theorem mgmtNow_portsHeld (s : State) (ty : Nat) (dst : Option (BitVec 2)) (body : Bytes) :
    s.PortsHeld (mgmtNow s ty dst body) := by
  have h : s.PortsHeld { s with rng := { s.rng with seq := s.rng.seq + 1 } } := rfl
  cases dst with
  | none => exact (h.trans (portSend_portsHeld _ .e _)).trans (portSend_portsHeld _ .w _)
  | some d => exact h.trans (portSend_portsHeld _ _ _)

theorem mgmtSend_portsHeld (s : State) (ty : Nat) (dst : Option (BitVec 2)) (body : Bytes) :
    s.PortsHeld (mgmtSend s ty dst body) := by
  unfold mgmtSend
  exact .ite rfl (mgmtNow_portsHeld s ty dst body)

/-! ### Faults leave the ports (R361) -/

theorem purge_portsHeld (s : State) (c : CtxId) : s.PortsHeld (purge s c) := by
  unfold purge
  refine ((State.PortsHeld.of_keeps (purgeQueues_keeps s c) (by simp)).trans (.of_keeps (purgeHubs_keeps _ c) (by simp))).trans
    (.onRng _ ?_)
  exact fun _ => rfl

theorem teardown_portsHeld (s : State) (c : CtxId) (stop : Option U16) (code : U16) : s.PortsHeld (teardown s c stop code) := by
  have h : s.PortsHeld (tornState s c stop) := ((State.PortsHeld.of_keeps (setCtxState_keeps s c .draining) (by simp)).trans
    (purge_portsHeld _ c)).trans (.of_keeps (State.keeps_onCtx _ c _) (by simp))
  simp only [teardown]
  split
  · exact h.trans (mgmtSend_portsHeld _ _ _ _)
  · exact h

theorem faultCtx_portsHeld (s : State) (c : CtxId) (code : U16) (dev : Bool) : s.PortsHeld (faultCtx s c code dev) := by
  simp only [faultCtx]
  split
  · have hpush (u : State) (i : TallyItem) (hu : s.PortsHeld u) : s.PortsHeld (tallyPush u i) :=
      hu.trans (.of_keeps (tallyPush_keeps u i) (by simp))
    refine State.PortsHeld.trans (.ite (hpush _ _ ?_) ?_) (teardown_portsHeld _ c none code) <;> rfl
  · rfl

/-- A fault without cores and reset leaves the ports. -/
theorem raiseFlt_portsHeld (s : State) (f : Flt) (ctx : Option (CtxId × BitVec 12)) (hc : f.cores = []) (hr : f.reset = none)
    (hd : isDevice f.code = false) : s.PortsHeld (raiseFlt s f ctx) := by
  have he : s.PortsHeld (event (countIso s f) f.src f.code ctx f.detail) :=
    (State.PortsHeld.of_keeps (countIso_keeps s f) (by simp)).trans (.of_keeps (event_keeps _ _ _ _ _) (by simp))
  simp only [raiseFlt, hd, hc, hr, List.foldl_nil, Bool.false_eq_true, if_false]
  split
  · exact he
  split
  · split
    · split
      · exact (he.trans (.of_keeps (reactCtx_keeps _ _) (by simp))).trans (faultCtx_portsHeld _ _ _ _)
      · exact he
    · exact he
  · exact he

theorem faultPeered_portsHeld (s : State) (p : RingPort) : s.PortsHeld (faultPeered s p) :=
  foldl_portsHeld (fun s _ => raiseFlt_portsHeld s _ _ rfl rfl (by decide : isDevice cLinkFault = false)) _ s

theorem linkFault_portsHeld (s : State) (p : RingPort) : s.PortsHeld (linkFault s p) := by
  unfold linkFault
  exact .ite (.of_keeps (event_keeps_none s _ _ _) (by simp)) (faultPeered_portsHeld s p)

/-! ### Memberships leave the ports (R423, R427, R428) -/

theorem tryStart_portsHeld (s : State) (c : CtxId) : s.PortsHeld (tryStart s c).2 := by
  unfold tryStart
  split
  · have he (f : U16 × Nat) := event_keeps s srcSvp f.1 (some (s.cg c)) f.2
    exact .ite (.of_keeps (he _) (by simp))
      ((State.PortsHeld.of_keeps (he _) (by simp)).trans (.of_keeps (toIdle_keeps _ c) (by simp)))
  · dsimp only
    exact .of_keeps (enterStarting_keeps s c) (by simp [startKinds])

theorem peerStart_portsHeld (s : State) (c : CtxId) (gen : BitVec 12) : s.PortsHeld (peerStart s c gen) := by
  have h : s.PortsHeld (s.onRng fun r => { r with gens := r.gens.set c.1 gen }) := rfl
  simp only [peerStart]
  split
  · exact (h.trans (.of_keeps (State.keeps_onCtx _ c _) (by simp))).trans (tryStart_portsHeld _ c)
  · exact h

theorem jointStart_portsHeld (s : State) (c : CtxId) : s.PortsHeld (jointStart s c) := by
  simp only [jointStart]
  refine .ite (.refl s) (.ite rfl ?_)
  exact (mgmtSend_portsHeld s _ _ _).trans (.ite (peerStart_portsHeld _ c _) rfl)

theorem drainedIf_portsHeld (s : State) (c : CtxId) : s.PortsHeld (drainedIf s c) := by
  simp only [drainedIf]
  split
  · exact .refl s
  · refine .ite ?_ (.refl s)
    refine State.PortsHeld.trans ?_ (jointStart_portsHeld _ c)
    refine State.PortsHeld.trans ?_ (.of_keeps (State.keeps_onCtx _ c _) (by simp))
    refine State.PortsHeld.trans ?_ (mgmtSend_portsHeld _ _ _ _)
    rfl

theorem lksLost_keeps (s : State) (m : BitVec 4) : s.keeps [.lks] (lksLost s m) := by
  refine foldl_keeps _ (fun s i => ?_) _ s
  dsimp only
  split
  · exact s.keeps_refl _
  · split
    · intro k hk; cases k <;> first | rfl | simp at hk
    · exact s.keeps_refl _

theorem releaseHolds_keeps (s : State) (m : BitVec 4) : s.keeps [.ctxs] (releaseHolds s m) := by
  refine foldl_keeps _ (fun s c => ?_) _ s
  split
  · exact s.keeps_refl _
  · exact State.keeps_onCtx s c _

theorem servoFreeze_keeps (s : State) : s.keeps [.tb] (servoFreeze s) := by
  intro k hk; cases k <;> first | rfl | simp at hk

theorem onTb_portsHeld (s : State) (f : TbRegs → TbRegs) : s.PortsHeld (s.onTb f) := rfl

theorem takeGens_portsHeld (s : State) : s.PortsHeld (takeGens s) := rfl

theorem sendHeld_portsHeld (s : State) : s.PortsHeld (sendHeld s) := by
  unfold sendHeld
  refine State.PortsHeld.trans ?_ (foldl_portsHeld (fun s (m : Nat × Option (BitVec 2) × Bytes) => mgmtNow_portsHeld s m.1 m.2.1 m.2.2) _ _)
  rfl

theorem sendDigests_portsHeld (s : State) : s.PortsHeld (sendDigests s) :=
  foldl_portsHeld (fun s _ => mgmtSend_portsHeld s _ _ _) _ s

theorem applyMembership_portsHeld (s : State) (m : BitVec 4) (mgr : Option (BitVec 2)) (chain : Bool) (down : BitVec 2)
    (epoch : U32) : s.PortsHeld (applyMembership s m mgr chain down epoch) := by
  have hlast (u : State) : u.PortsHeld (u.peered.foldl (fun s c => jointStart (drainedIf s c) c) u) :=
    foldl_portsHeld (fun s c => (drainedIf_portsHeld s c).trans (jointStart_portsHeld _ c)) _ u
  unfold applyMembership
  extract_lets own changed alone s1 s2 s3 s4 s5 s6 s7 s8
  have h1 : s.PortsHeld s1 := faultPeered_portsHeld s .e
  have h2 : s.PortsHeld s2 := h1.trans rfl
  have h3 : s.PortsHeld s3 := (h2.trans (.of_keeps (lksLost_keeps s2 m) (by simp))).trans (.of_keeps (releaseHolds_keeps _ m) (by simp))
  have h4 : s.PortsHeld s4 := .ite (h3.trans (.of_keeps (servoFreeze_keeps s3) (by simp))) h3
  have h5 : s.PortsHeld s5 := h4.trans (onTb_portsHeld s4 _)
  have h6 : s.PortsHeld s6 := .ite (h5.trans (takeGens_portsHeld s5)) h5
  have h7 : s.PortsHeld s7 := h6.trans (sendHeld_portsHeld s6)
  have h8 : s.PortsHeld s8 := .ite (h7.trans (sendDigests_portsHeld s7)) h7
  exact .ite (h8.trans (hlast s8)) h8

theorem publish_portsHeld (s : State) (m : BitVec 4) : s.PortsHeld (publish s m) := by
  unfold publish
  extract_lets e down u
  have h : s.PortsHeld u := State.PortsHeld.trans (t := s.onRng fun r => { r with epoch := e }) rfl (mgmtNow_portsHeld _ _ _ _)
  exact h.trans (applyMembership_portsHeld u _ _ _ _ _)

theorem reviewMembers_portsHeld (s : State) : s.PortsHeld (reviewMembers s) := by
  simp only [reviewMembers]
  split
  · exact applyMembership_portsHeld _ _ _ _ _ _
  · exact .ite (publish_portsHeld s _) (.ite (.of_keeps (servoFreeze_keeps s) (by simp)) (.refl s))

end Sys2Proof.Machine
end

section
/-!
PROOFS. The links of the Seam ring: flits, training, wake and ring time (R32, R410 to R415, R424, R425, R428, R430).
-/

open Sys2Proof Sys2Proof.Machine

namespace Sys2Proof.Machine

theorem exec_ringFlitReceive (p : RingPort) (ok : Bool) (x : RingTxn) (s : State) :
    exec (.ringFlitReceive p ok x) s = finish s (flit s p ok x) := rfl

theorem exec_ringLinkFault (p : RingPort) (s : State) : exec (.ringLinkFault p) s = finish s (linkDown s p) := rfl

theorem exec_ringLinkTrained (p : RingPort) (peer : BitVec 2) (own : Bool) (s : State) :
    exec (.ringLinkTrained p peer own) s = finish s (linkTrained s p peer own) := rfl

theorem exec_ringSignalDetect (p : RingPort) (s : State) : exec (.ringSignalDetect p) s = finish s (signalSeen s p) := rfl

theorem exec_ringWake (p : RingPort) (s : State) : exec (.ringWake p) s = finish s (ringWakes s p) := rfl

theorem exec_tSyncInterval (s : State) : exec .tSyncInterval s = finish s (sendSyncOn (sendSyncOn s .e) .w) := rfl

theorem State.Quiet.port {s t : State} (h : s.Quiet t) (p : RingPort) : t.port p = s.port p :=
  congrArg (fun r : RngRegs => r.ports.get (portNum p)) (h.1 .rng (by simp))

/-- An output is told to the outside. -/
theorem State.Quiet.out {s t : State} (h : s.Quiet t) {e : OutEvent} (he : e ∈ s.out) : e ∈ t.out := h.2.2.1 e he

theorem port_of_rng {s t : State} (h : t.rng = s.rng) (p : RingPort) : t.port p = s.port p := by
  rw [State.port, State.port, h]

theorem isPortUp_of_port {s t : State} {p : RingPort} (h : (t.port p).state = (s.port p).state) : t.isPortUp p = s.isPortUp p := by
  rw [State.isPortUp, State.isPortUp, h]

/-! ### Flits (R410, R415) -/

/-- A port that has received a good flit. -/
def flitTaken (s : State) (p : RingPort) : State := s.onPort p fun x => { x with fails := 0 }

theorem flitTaken_keeps (s : State) (p : RingPort) : s.keeps [.rng] (flitTaken s p) := onPort_keeps s p _

theorem flitTaken_up (s : State) (p q : RingPort) : (flitTaken s p).isPortUp q = s.isPortUp q :=
  isPortUp_onPort s p (f := fun x => { x with fails := 0 }) (fun _ => rfl) q

theorem flitTaken_crosses (s : State) (p q : RingPort) : hopCrosses (flitTaken s p).rng q = hopCrosses s.rng q :=
  hopCrosses_onPort s p (f := fun x => { x with fails := 0 }) (fun _ => rfl) q

/-- A port that has received a flit with a bad link CRC. -/
def flitBad (x : RingPortRt) : RingPortRt := { x with retry := sat32 x.retry, fails := x.fails + 1 }

section
variable {s : State} {p : RingPort} (hon : s.ringOn = true) (hup : s.isPortUp p = true)
include hon hup

theorem flit_good (x : RingTxn) : flit s p true x = ringRequest (flitTaken s p) p x := by
  simp only [flit, hon, hup]
  rfl

theorem flit_replayed (x : RingTxn) (h : (s.port p).fails < 4) : flit s p false x = s.onPort p flitBad := by
  simp only [flit, hon, hup, h]
  rfl

theorem flit_down (x : RingTxn) (h : 4 ≤ (s.port p).fails) : flit s p false x = linkDown s p := by
  simp [flit, hon, hup, Nat.not_lt.2 h]

end

/-- Who writes or reads here for a peer. -/
def ringWho (p : RingPort) (c : CtxId) (g : BitVec 12) : Who :=
  { ctx := c, gen := g, part := 0, core := none, src := srcRing p, detail := 0, arrived := true }

/-- No link that a byte's home hangs on is down. -/
theorem dead_eq_false {s : State} {a : Nat} (h : ∀ j, (target a).die = some j → ioLink 0 j ∉ s.linkDown) :
    (((target a).die.map fun j => s.linkDown.contains (ioLink 0 j)).getD false) = false := by
  cases hd : (target a).die with
  | none => rfl
  | some j => simpa using h j hd

theorem ringRequest_write {s : State} {p : RingPort} {src : BitVec 2} {c : CtxId} {g : BitVec 12} {addr : BitVec 48} {data : Bytes}
    {a : Nat} (hd : s.discards c g = false) (hl : ∀ j, (target addr.toNat).die = some j → ioLink 0 j ∉ s.linkDown)
    (ha : s.storeAt (ringWho p c g) addr.toNat data.length = .ok a) :
    ringRequest s p (.write src true c g addr data) = ringSend (writeHere s (c, g) a data) src (.ack src) := by
  unfold ringWho at ha
  simp only [ringRequest, hd, dead_eq_false hl, ha]
  rfl

theorem ringRequest_read {s : State} {p : RingPort} {src : BitVec 2} {c : CtxId} {g : BitVec 12} {addr : BitVec 48} {len : Nat}
    {b : Bytes} (hd : s.discards c g = false) (hl : ∀ j, (target addr.toNat).die = some j → ioLink 0 j ∉ s.linkDown)
    (ha : s.load (ringWho p c g) addr.toNat len = .ok b) :
    ringRequest s p (.read src true c g addr len) = ringSend s src (.readData src b) := by
  unfold ringWho at ha
  simp only [ringRequest, hd, dead_eq_false hl, ha]
  rfl

theorem ringRequest_stale {s : State} {c : CtxId} {g : BitVec 12} (hd : s.discards c g = true) (p : RingPort) (src : BitVec 2)
    (addr : BitVec 48) (data : Bytes) : ringRequest s p (.write src true c g addr data) = staleDrop s c := by
  simp only [ringRequest, hd]
  rfl

theorem ringRequest_ack (s : State) (p : RingPort) (src : BitVec 2) : ringRequest s p (.ack src) =
    s.onRng fun r => { r with unacked := r.unacked.eraseP fun u => decide (u.peer = src) } := rfl

theorem ringRequest_transit (s : State) (p : RingPort) (dst : BitVec 2) (ch : RingChannel) (inB : Bool) (data : Bytes) :
    ringRequest s p (.transit dst ch inB data) = portPass s (otherPort p) (some ch) inB (.transit dst data) := rfl

/-- What answers a flit leaves by the route to its peer. -/
theorem answer_out {s v : State} {p : RingPort} (hv : v.rng = (flitTaken s p).rng) {d : BitVec 2}
    (h : s.isPortUp (routePort s.rng d) = true) (t : RingOut) :
    OutEvent.ring (routePort s.rng d) ⟨t.channel, hopCrosses s.rng (routePort s.rng d)⟩ t ∈ (ringSend v d t).out := by
  have hr : routePort v.rng d = routePort s.rng d := by rw [hv]; rfl
  have hup : v.isPortUp (routePort v.rng d) = true := by
    rw [hr, isPortUp_of_port (congrArg RingPortRt.state (port_of_rng hv _)), flitTaken_up, h]
  have := ringSend_out hup t
  rwa [hr, hv, flitTaken_crosses] at this

/-! ### A link goes down, trains and is found again (R410, R411) -/

/-- A port whose link has gone down. -/
def RingPortRt.fallen (x : RingPortRt) : RingPortRt :=
  { x with state := .training, down := sat32 x.down, fails := 0, synced := false, peerValid := false }

theorem forget_portsHeld (s : State) (p : RingPort) : s.PortsHeld (forget s p) := rfl

/-- The port of a link that goes down: it trains, and nobody is known at its far end. -/
theorem linkDown_port {s : State} {p : RingPort} (hon : s.ringOn = true) (hup : s.isPortUp p = true) :
    (linkDown s p).port p = (s.port p).fallen := by
  set u := s.onPort p fun x => { x with state := .training, down := sat32 x.down, fails := 0, synced := false } with hu
  set v := (forget u p).onPort p fun x => { x with peerValid := false } with hv
  have hd : linkDown s p = reviewMembers (linkFault v p) := by
    simp only [linkDown, hon, hup]
    rfl
  have hport : v.port p = (s.port p).fallen := by
    rw [hv, port_onPort_self, (forget_portsHeld u p).port, hu, port_onPort_self]
    rfl
  rw [hd, (reviewMembers_portsHeld _).port, (linkFault_portsHeld v p).port, hport]

theorem exec_ringCreditTimeout {s : State} {p : RingPort} (hon : s.ringOn = true) (hup : s.isPortUp p = true) :
    exec (.ringCreditTimeout p) s = finish s (linkDown (s.onPort p fun x => { x with starve := sat32 x.starve }) p) := by
  show finish s (if s.ringOn && s.isPortUp p then _ else s) = _
  rw [hon, hup]
  rfl

theorem holdDown_port (s : State) (p : RingPort) (peer : BitVec 2) (v : LinkState) :
    (holdDown s p peer v).port p = { s.port p with state := v, peerValid := true, peerId := peer } := port_onPort_self _ _ _

theorem holdDown_keeps (s : State) (p : RingPort) (peer : BitVec 2) (v : LinkState) : s.keeps [.rng] (holdDown s p peer v) :=
  onPort_keeps s p _

/-- The far end has an ID of its own, and no active ID lies between: the link is up. -/
theorem linkTrained_port {s : State} {p : RingPort} {peer : BitVec 2} (hon : s.ringOn = true) (ht : (s.port p).state = .training)
    (hne : peer ≠ s.rng.id) (hs : s.skipsMember p peer = false) : (linkTrained s p peer false).port p =
      { s.port p with state := .up, peerValid := true, peerId := peer, fails := 0 } := by
  have hg : ¬ ((!s.ringOn) = true ∨ (s.port p).state ≠ .training) := by simp [hon, ht]
  simp only [linkTrained, if_neg hne, hs, Bool.false_eq_true, if_false]
  rw [if_neg (by simpa using hg)]
  rw [(reviewMembers_portsHeld _).port, (faultPeered_portsHeld _ p).port]
  have hseen (u : State) (peer : BitVec 2) : u.PortsHeld (if u.rng.seen.any fun e => decide (e.1 = peer) then u
      else u.onRng fun r => { r with seen := r.seen ++ [(peer, false, false)] }) := .ite (.refl u) rfl
  refine ((State.PortsHeld.onRng _ ?_).port p).trans (((hseen _ peer).port p).trans (port_onPort_self s p _))
  exact fun _ => rfl

theorem linkTrained_own {s : State} {p : RingPort} (hon : s.ringOn = true) (ht : (s.port p).state = .training) (peer : BitVec 2) :
    linkTrained s p peer true = holdDown s p s.rng.id .ownId := by
  simp [linkTrained, hon, ht]

theorem linkTrained_clash {s : State} {p : RingPort} (hon : s.ringOn = true) (ht : (s.port p).state = .training) :
    linkTrained s p s.rng.id false = holdDown (s.onRng fun r => { r with clash := true }) p s.rng.id .clash := by
  simp [linkTrained, hon, ht]

theorem linkTrained_wrong {s : State} {p : RingPort} {peer : BitVec 2} (hon : s.ringOn = true) (ht : (s.port p).state = .training)
    (hne : peer ≠ s.rng.id) (hs : s.skipsMember p peer = true) : linkTrained s p peer false = holdDown s p peer .wrongNeighbour := by
  simp [linkTrained, hon, ht, hne, hs]

theorem signalSeen_trains {s : State} {p : RingPort} (hon : s.ringOn = true) (h : (s.port p).state = .off ∨
    (s.port p).state = .ownId ∨ (s.port p).state = .clash ∨ (s.port p).state = .wrongNeighbour) :
    signalSeen s p = s.onPort p fun x => { x with state := .training } := by
  rcases h with h | h | h | h <;> simp [signalSeen, hon, h]

/-! ### Ring wake (R425) -/

/-- The domains of the two ring ports. -/
theorem wakeBy_ring (s : State) : wakeBy s .ring = wakeDom 4 (wakeDom 4 s 0x35) 0x36 := rfl

theorem domUp_ring {n : Nat} (h : n = 0x35 ∨ n = 0x36) (s : State) (src : Nat) (pll : Bool) :
    domUp s n src pll = s.onDom n fun d => d.up src pll := by
  rcases h with rfl | rfl <;> rfl

theorem onDom_out (s : State) (n : Nat) (f : DomRt → DomRt) : (s.onDom n f).out = s.out := by
  unfold State.onDom
  split <;> rfl

theorem wakeDom_ring {n : Nat} (h : n = 0x35 ∨ n = 0x36) (s : State) :
    s.keeps [.pwr] (wakeDom 4 s n) ∧ (wakeDom 4 s n).out = s.out := by
  unfold wakeDom
  split
  · rw [domUp_ring h]
    exact ⟨onDom_keeps s n _, onDom_out s n _⟩
  · exact ⟨s.keeps_refl _, rfl⟩

theorem wakeBy_ring_keeps (s : State) : s.keeps [.pwr] (wakeBy s .ring) ∧ (wakeBy s .ring).out = s.out := by
  obtain ⟨hk, ho⟩ := wakeDom_ring (.inl rfl) s
  obtain ⟨hk', ho'⟩ := wakeDom_ring (.inr rfl) (wakeDom 4 s 0x35)
  rw [wakeBy_ring]
  exact ⟨State.keeps_trans hk hk', ho'.trans ho⟩

/-- A port that was idle trains. -/
def RingPortRt.woken (x : RingPortRt) : RingPortRt := if x.state = .idle then { x with state := .training } else x

theorem wakePorts_eq (s : State) : wakePorts s =
    (wakeBy s .ring).onRng fun r => { r with idle := false, ports := r.ports.map RingPortRt.woken } := rfl

theorem wakePorts_port (s : State) (p : RingPort) : (wakePorts s).port p = (s.port p).woken := by
  have h : (wakeBy s .ring).rng = s.rng := (wakeBy_ring_keeps s).1 .rng (by simp)
  rw [wakePorts_eq, State.port, State.rng_onRng, h, State.port]
  simp

theorem wakePorts_keeps (s : State) : s.keeps [.rng, .pwr] (wakePorts s) := by
  rw [wakePorts_eq]
  exact State.keeps_trans (State.keeps_mono (wakeBy_ring_keeps s).1 (by simp)) (State.keeps_mono (State.keeps_onRng _ _) (by simp))

theorem wakePorts_out (s : State) : (wakePorts s).out = s.out := (wakeBy_ring_keeps s).2

/-! ### Ring time (R424) -/

theorem neighbourSend_keeps (s : State) (p : RingPort) (ty : Nat) (body : Bytes) : s.keeps [.rng] (neighbourSend s p ty body) :=
  State.keeps_trans (State.keeps_onRng s _) (State.keeps_mono (portPass_keeps _ p _ _ _) (by simp))

theorem neighbourSend_portsHeld (s : State) (p : RingPort) (ty : Nat) (body : Bytes) :
    s.PortsHeld (neighbourSend s p ty body) := by
  unfold neighbourSend
  refine State.PortsHeld.trans (.onRng s ?_) (portSend_portsHeld _ p _)
  exact fun _ => rfl

/-- The time of a T_SYNC that left. -/
def synced (s : State) (p : RingPort) : State :=
  (neighbourSend s p 9 []).onPort p fun x => { x with t1 := s.ringTx }

theorem synced_keeps (s : State) (p : RingPort) : s.keeps [.rng] (synced s p) :=
  State.keeps_trans (neighbourSend_keeps s p 9 []) (onPort_keeps _ p _)

theorem synced_port (s : State) (p : RingPort) : (synced s p).port p = { s.port p with t1 := s.ringTx } := by
  rw [synced, port_onPort_self, (neighbourSend_portsHeld s p 9 []).port]

theorem synced_port_ne (s : State) {p q : RingPort} (h : q ≠ p) : (synced s p).port q = s.port q := by
  rw [synced, port_onPort_ne _ _ h, (neighbourSend_portsHeld s p 9 []).port]

theorem sendSyncOn_eq {s : State} (hon : s.ringOn = true) (p : RingPort) : sendSyncOn s p =
    if s.isPortUp p then neighbourSend (synced s p) p 10 (followBody s.ringTx ((synced s p).port p).t4) else s := by
  cases hup : s.isPortUp p <;> simp only [sendSyncOn, hon, hup] <;> rfl

theorem sendSyncOn_keeps {s : State} (hon : s.ringOn = true) (p : RingPort) : s.keeps [.rng] (sendSyncOn s p) := by
  rw [sendSyncOn_eq hon]
  split
  · exact State.keeps_trans (synced_keeps s p) (neighbourSend_keeps _ p _ _)
  · exact s.keeps_refl _

/-- The port whose link is up keeps the transmit time of its T_SYNC. -/
theorem sendSyncOn_port {s : State} (hon : s.ringOn = true) (p : RingPort) :
    (sendSyncOn s p).port p = if s.isPortUp p then { s.port p with t1 := s.ringTx } else s.port p := by
  rw [sendSyncOn_eq hon]
  split
  · rw [(neighbourSend_portsHeld _ p _ _).port, synced_port]
  · rfl

theorem sendSyncOn_port_ne {s : State} (hon : s.ringOn = true) {p q : RingPort} (h : q ≠ p) :
    (sendSyncOn s p).port q = s.port q := by
  rw [sendSyncOn_eq hon]
  split
  · rw [(neighbourSend_portsHeld _ p _ _).port, synced_port_ne s h]
  · rfl

theorem ringOn_congr {s t : State} (hi : t.img = s.img) (hb : t.rng.bypass = s.rng.bypass) : t.ringOn = s.ringOn := by
  simp only [State.ringOn, State.ringEn, State.dflag, State.devCfg, secD_congr hi, hb]

theorem neighbourSend_bypass (s : State) (p : RingPort) (ty : Nat) (body : Bytes) :
    (neighbourSend s p ty body).rng.bypass = s.rng.bypass := by
  have h (u : State) (x : RingOut) : (portSend u p x).rng = u.rng := portPass_keeps u p _ _ x .rng (by simp)
  unfold neighbourSend
  dsimp only
  rw [h]
  rfl

theorem sendSyncOn_ringOn {s : State} (hon : s.ringOn = true) (p : RingPort) : (sendSyncOn s p).ringOn = true := by
  refine (ringOn_congr (sendSyncOn_keeps hon p .img (by simp)) ?_).trans hon
  rw [sendSyncOn_eq hon]
  split
  · exact (neighbourSend_bypass _ p _ _).trans (neighbourSend_bypass s p 9 [])
  · rfl

theorem ringTx_congr {s t : State} (h : t.tb = s.tb) : t.ringTx = s.ringTx := by
  simp only [State.ringTx, State.stamp, State.fine, h]

/-- T_SYNC goes out on both ports; each keeps its own time. -/
theorem syncBoth_t1 {s : State} (hon : s.ringOn = true) (p : RingPort) :
    ((sendSyncOn (sendSyncOn s .e) .w).port p).t1 = if s.isPortUp p then s.ringTx else (s.port p).t1 := by
  have hon' := sendSyncOn_ringOn hon .e
  have htb : (sendSyncOn s .e).tb = s.tb := sendSyncOn_keeps hon .e .tb (by simp)
  cases p with
  | e =>
    rw [sendSyncOn_port_ne hon' (by decide), sendSyncOn_port hon]
    split <;> rfl
  | w =>
    have hw := sendSyncOn_port_ne hon (p := .e) (q := .w) (by decide)
    rw [sendSyncOn_port hon', isPortUp_of_port (congrArg RingPortRt.state hw), hw, ringTx_congr htb]
    split <;> rfl

/-! ### What the commands leave -/

/-- A good write flit of the present generation is a commit of its bytes and an acknowledgement by the route to its peer. -/
theorem ringWrite_commits {s : State} {p : RingPort} {src : BitVec 2} {c : CtxId} {g : BitVec 12} {addr : BitVec 48} {data : Bytes}
    {a : Nat} (hon : s.ringOn = true) (hup : s.isPortUp p = true) (hd : s.discards c g = false)
    (hl : ∀ j, (target addr.toNat).die = some j → ioLink 0 j ∉ s.linkDown)
    (ha : s.storeAt (ringWho p c g) addr.toNat data.length = .ok a) (hb : s.badOfWrites (mirrorPair s [(a, data)]) = none) :
    ∃ t, exec (.ringFlitReceive p true (.write src true c g addr data)) s = .next t ∧
      t.mem = (s.commit (c, g) (mirrorPair s [(a, data)])).mem ∧
      (s.isPortUp (routePort s.rng src) = true →
        OutEvent.ring (routePort s.rng src) ⟨some .rsp, hopCrosses s.rng (routePort s.rng src)⟩ (.ack src) ∈ t.out) ∧
      s.keeps [.mem, .bad, .lineOwner, .rng] t := by
  have hcommit := commit_keeps (flitTaken s p) (c, g) (mirrorPair s [(a, data)])
  have hreq : flit s p true (.write src true c g addr data) =
      ringSend ((flitTaken s p).commit (c, g) (mirrorPair s [(a, data)])) src (.ack src) := by
    rw [flit_good hon hup, ringRequest_write (s := flitTaken s p) hd hl ha, writeHere_clean (s := flitTaken s p) _ hb]
    rfl
  have hsend := ringSend_keeps ((flitTaken s p).commit (c, g) (mirrorPair s [(a, data)])) src (.ack src)
  obtain ⟨t, ht, hk, hq⟩ := finish_keeps (old := s) (State.keeps_trans (State.keeps_trans (l := [.mem, .bad, .lineOwner, .rng])
    (State.keeps_mono (flitTaken_keeps s p) (by simp)) (State.keeps_mono hcommit (by simp))) (State.keeps_mono hsend (by simp)))
  refine ⟨t, by rw [exec_ringFlitReceive, hreq, ht], ?_, fun h => hq.out (answer_out (hcommit .rng (by simp)) h (.ack src)), hk⟩
  exact hq.mem.trans ((hsend .mem (by simp)).trans (commit_congr (s := s) (t := flitTaken s p) rfl rfl _ _))

/-- A command whose effect is a link that goes down. -/
theorem exec_linkDown {s u : State} {p : RingPort} {c : Instr} (hu : exec c s = finish s (linkDown u p)) (hon : u.ringOn = true)
    (hup : u.isPortUp p = true) : ∃ t, exec c s = .next t ∧ t.port p = (u.port p).fallen := by
  obtain ⟨t, ht, hq⟩ := finish_next s (linkDown u p)
  exact ⟨t, hu.trans ht, (hq.port p).trans (linkDown_port hon hup)⟩

/-- The wake ordered set wakes an idle ring and goes on. -/
theorem ringWake_wakes {s : State} (hon : s.ringOn = true) (hi : s.rng.idle = true) (p : RingPort) :
    ∃ t, exec (.ringWake p) s = .next t ∧ t.rng.idle = false ∧ (∀ q, t.port q = (s.port q).woken) ∧
      OutEvent.ring (otherPort p) ⟨none, false⟩ .wake ∈ t.out ∧ s.keeps [.rng, .pwr] t := by
  set u := s.emit (.ring (otherPort p) ⟨none, false⟩ .wake) with hu
  have hw : ringWakes s p = wakePorts u := by
    simp only [ringWakes, hon, hi]
    rfl
  have hk0 : s.keeps [] u := by intro k _; cases k <;> rfl
  obtain ⟨t, ht, hk, hq⟩ := finish_keeps (old := s) (State.keeps_trans (State.keeps_mono hk0 (by simp)) (wakePorts_keeps u))
  refine ⟨t, by rw [exec_ringWake, hw, ht], ?_, fun q => (hq.port q).trans (wakePorts_port u q), hq.out ?_, hk⟩
  · exact (congrArg RngRegs.idle (hq.1 .rng (by simp)) :)
  · rw [wakePorts_out]
    exact List.mem_cons_self

end Sys2Proof.Machine

open Sys2Proof Sys2Proof.Machine

/-- Settles O53: a good flit is its request at the destination, and a link that changes is one update of its port, which neither a
fault nor a membership touches. -/
theorem ringLinksCarryFlitsAndRetrain : Obligations.RingLinksCarryFlitsAndRetrain := by
  unfold Obligations.RingLinksCarryFlitsAndRetrain
  intro s p hon
  have hkf := flitTaken_keeps s p
  refine ⟨fun src c addr hup hd hl => ⟨fun data a ha hb => ?_, fun len b hb => ?_⟩, fun src c g addr data hup hd => ?_,
    fun src hup => ?_, fun dst ch inB data hup => ?_, fun x hup hf => ?_, fun x c hup hc => ?_, fun peer ht => ⟨?_, ?_, ?_, ?_⟩,
    fun h => ?_, fun hi => ?_, ?_⟩
  · obtain ⟨t, ht, hmem, hout, hk⟩ := ringWrite_commits (src := src) hon hup hd hl ha hb
    refine ⟨t, ht, hmem, fun hin i hi => ?_, fun k hk => ?_, hout, hk⟩
    · rw [hmem]; exact (commit_mirrorPair_in _ (badOfWrites_eq_none_iff.1 hb) hin hi).1
    · rw [hmem]; exact commit_elsewhere s _ _ hk
  · have hreq : flit s p true (.read src true c (s.ctx c).gen addr len) = ringSend (flitTaken s p) src (.readData src b) := by
      rw [flit_good hon hup, ringRequest_read (s := flitTaken s p) hd hl hb]
    obtain ⟨t, ht, hk, hq⟩ := finish_keeps (old := s)
      (State.keeps_trans hkf (State.keeps_mono (ringSend_keeps _ src (.readData src b)) (by simp)))
    exact ⟨t, by rw [exec_ringFlitReceive, hreq, ht], fun hq' => hq.out (answer_out rfl hq' (.readData src b)), hk⟩
  · have hreq : flit s p true (.write src true c g addr data) = staleDrop (flitTaken s p) c := by
      rw [flit_good hon hup, ringRequest_stale (s := flitTaken s p) hd]
    obtain ⟨t, ht, hk, hq⟩ := finish_keeps (old := s) (State.keeps_trans (l := [.ctxs, .rng]) (State.keeps_mono hkf (by simp))
      (State.keeps_mono (staleDrop_keeps (flitTaken s p) c) (by simp)))
    exact ⟨t, by rw [exec_ringFlitReceive, hreq, ht], (hq.ctx c).trans (staleDrop_self _ c),
      fun x hx => (hq.ctx x).trans (staleDrop_ne _ hx), hk⟩
  · obtain ⟨t, ht, hk, hq⟩ := finish_keeps (old := s) (State.keeps_trans hkf (State.keeps_onRng (flitTaken s p) fun r =>
      { r with unacked := r.unacked.eraseP fun u => decide (u.peer = src) }))
    refine ⟨t, by rw [exec_ringFlitReceive, flit_good hon hup, ringRequest_ack, ht], ?_, hk⟩
    exact (congrArg RngRegs.unacked (hq.1 .rng (by simp)) :)
  · have hout (h : s.isPortUp (otherPort p) = true) := portPass_out (s := flitTaken s p) ((flitTaken_up s p _).trans h) (some ch)
      inB (.transit dst data)
    simp only [flitTaken_crosses] at hout
    obtain ⟨t, ht, hk, hq⟩ := finish_keeps (old := s) (State.keeps_trans hkf
      (State.keeps_mono (portPass_keeps (flitTaken s p) (otherPort p) (some ch) inB (.transit dst data)) (by simp)))
    exact ⟨t, by rw [exec_ringFlitReceive, flit_good hon hup, ringRequest_transit, ht], fun h => hq.out (hout h), hk⟩
  · obtain ⟨t, ht, hk, hq⟩ := finish_keeps (old := s) (onPort_keeps s p flitBad)
    exact ⟨t, by rw [exec_ringFlitReceive, flit_replayed hon hup x hf, ht], (hq.port p).trans (port_onPort_self s p _),
      (hq.port _).trans (port_onPort_ne s _ (otherPort_ne p)), hk⟩
  · rcases hc with ⟨rfl, hf⟩ | rfl | rfl
    · obtain ⟨t, ht, hp⟩ := exec_linkDown (by rw [exec_ringFlitReceive, flit_down hon hup x hf]) hon hup
      exact ⟨t, ht, by rw [hp]; rfl, by rw [hp]; rfl, by rw [hp]; rfl, by rw [hp]; rfl⟩
    · obtain ⟨t, ht, hp⟩ := exec_linkDown (exec_ringLinkFault p s) hon hup
      exact ⟨t, ht, by rw [hp]; rfl, by rw [hp]; rfl, by rw [hp]; rfl, by rw [hp]; rfl⟩
    · obtain ⟨t, ht, hp⟩ := exec_linkDown (exec_ringCreditTimeout hon hup) hon
        ((isPortUp_onPort s p (f := fun x => { x with starve := sat32 x.starve }) (fun _ => rfl) p).trans hup)
      rw [port_onPort_self] at hp
      exact ⟨t, ht, by rw [hp]; rfl, by rw [hp]; rfl, by rw [hp]; rfl, by rw [hp, if_pos rfl]; rfl⟩
  · obtain ⟨t, ht', hk, hq⟩ := finish_keeps (old := s) (holdDown_keeps s p s.rng.id .ownId)
    exact ⟨t, by rw [exec_ringLinkTrained, linkTrained_own hon ht, ht'], by rw [hq.port, holdDown_port], hk⟩
  · rintro rfl
    have hkc : s.keeps [.rng] (s.onRng fun r => { r with clash := true }) := State.keeps_onRng s _
    obtain ⟨t, ht', hk, hq⟩ := finish_keeps (old := s) (State.keeps_trans hkc (holdDown_keeps _ p s.rng.id .clash))
    refine ⟨t, by rw [exec_ringLinkTrained, linkTrained_clash hon ht, ht'], by rw [hq.port, holdDown_port], ?_, hk⟩
    exact (congrArg RngRegs.clash (hq.1 .rng (by simp)) :)
  · intro hne hs
    obtain ⟨t, ht', hk, hq⟩ := finish_keeps (old := s) (holdDown_keeps s p peer .wrongNeighbour)
    exact ⟨t, by rw [exec_ringLinkTrained, linkTrained_wrong hon ht hne hs, ht'], by rw [hq.port, holdDown_port], hk⟩
  · intro hne hs
    obtain ⟨t, ht', hq⟩ := finish_next s (linkTrained s p peer false)
    have hp := (hq.port p).trans (linkTrained_port hon ht hne hs)
    exact ⟨t, by rw [exec_ringLinkTrained, ht'], by rw [hp], by rw [hp], by rw [hp]⟩
  · obtain ⟨t, ht, hk, hq⟩ := finish_keeps (old := s) (onPort_keeps s p fun x => { x with state := .training })
    refine ⟨t, by rw [exec_ringSignalDetect, signalSeen_trains hon h, ht], ?_, ?_, hk⟩
    · rw [hq.port, port_onPort_self]
    · rw [hq.port, port_onPort_ne _ _ (otherPort_ne p)]
  · exact ringWake_wakes hon hi p
  · obtain ⟨t, ht, hk, hq⟩ := finish_keeps (old := s)
      (State.keeps_trans (sendSyncOn_keeps hon .e) (sendSyncOn_keeps (sendSyncOn_ringOn hon .e) .w))
    exact ⟨t, by rw [exec_tSyncInterval, ht], by rw [hq.port, syncBoth_t1 hon], hk⟩
end

section
/-!
PROOFS. Rounding to nearest with ties to even, and the limits of codes, rescaled values and statistic bins (R128, R129, R132,
R136, R161).
-/

open Sys2Proof Sys2Proof.Machine

namespace Sys2Proof.Machine

/-! ### Rounding to nearest, ties to even (R128, R161) -/

/-- R161 by its two branches: the quotient moves up past the half, and at the half where it is odd. -/
theorem rneDiv_nearest (v : Int) {d : Nat} (hd : 0 < d) :
    2 * (rneDiv v d * d - v) ≤ d ∧ 2 * (v - rneDiv v d * d) ≤ d ∧
      ((2 * (rneDiv v d * d - v) = d ∨ 2 * (v - rneDiv v d * d) = d) → rneDiv v d % 2 = 0) := by
  have hlo : v / d * d ≤ v := Int.ediv_mul_le v (by omega)
  have hhi : v < (v / d + 1) * d := Int.lt_ediv_add_one_mul_self v (by omega)
  simp only [rneDiv]
  rw [add_one_mul] at hhi
  split
  · rw [add_one_mul]; omega
  · omega

/-- Each result is within half a unit of its value, so a drop by a whole unit leaves the two values equal. -/
theorem rneDiv_mono {v w : Int} (h : v ≤ w) {d : Nat} (hd : 0 < d) : rneDiv v d ≤ rneDiv w d := by
  by_contra hlt
  obtain ⟨hup, -, -⟩ := rneDiv_nearest v hd
  obtain ⟨-, hdown, -⟩ := rneDiv_nearest w hd
  have hunit : (rneDiv w d + 1) * d ≤ rneDiv v d * d := Int.mul_le_mul_of_nonneg_right (by omega) (by omega)
  rw [add_one_mul] at hunit
  obtain rfl : v = w := by omega
  exact hlt le_rfl

/-- The rounding shift of R128 is the rounding division of R161 by the power of two. -/
theorem rneShr_eq_rneDiv (v : Int) (s : Nat) : rneShr v s = rneDiv v (2 ^ s) := by
  cases s with
  | zero => simp [rneShr, rneDiv]
  | succ n =>
    have hp : 2 ^ (n + 1) = 2 * 2 ^ n := Nat.pow_succ'
    simp only [rneShr, rneDiv, Nat.add_sub_cancel, hp]
    refine if_congr ?_ rfl rfl
    omega

/-! ### Clamps (R129, R132) -/

theorem clampI_mem {lo hi : Int} (x : Int) (h : lo ≤ hi) : lo ≤ clampI x lo hi ∧ clampI x lo hi ≤ hi := by
  unfold clampI
  split
  · exact ⟨le_rfl, h⟩
  · split <;> omega

theorem clampI_mono {x y lo hi : Int} (hxy : x ≤ y) (h : lo ≤ hi) : clampI x lo hi ≤ clampI y lo hi := by
  by_cases hy : y < lo
  · have hx : x < lo := by omega
    simp only [clampI, if_pos hx, if_pos hy, le_refl]
  · by_cases hy' : hi < y
    · rw [show clampI y lo hi = hi by rw [clampI, if_neg hy, if_pos hy']]
      exact (clampI_mem x h).2
    · simp only [clampI]
      split <;> omega

theorem sat48_mem (x : Int) : -(2 ^ 47) ≤ sat48 x ∧ sat48 x < 2 ^ 47 := by
  obtain ⟨hlo, hhi⟩ := clampI_mem (lo := -(2 ^ 47)) (hi := 2 ^ 47 - 1) x (by decide)
  exact ⟨hlo, Int.lt_of_le_sub_one hhi⟩

theorem sat48_mono {x y : Int} (h : x ≤ y) : sat48 x ≤ sat48 y := clampI_mono h (by decide)

/-- A code is a clamped value (R132). -/
theorem Quant.code_mem (k : Quant) (v : Int) (h : k.qmin ≤ k.qmax) : k.qmin ≤ k.code v ∧ k.code v ≤ k.qmax := by
  obtain ⟨hlo, hhi⟩ := clampI_mem (k.raw v) (Int.ofNat_le.2 h)
  unfold Quant.code
  omega

/-! ### The rescale and the bins (R128, R136) -/

theorem rescaleRaw_mono {p q : Int} (h : p ≤ q) (sc : Nat) : rescaleRaw p sc ≤ rescaleRaw q sc := by
  have ht : p * (scMs sc : Int) ≤ q * (scMs sc : Int) := Int.mul_le_mul_of_nonneg_right h (by omega)
  simp only [rescaleRaw]
  split
  · exact le_rfl
  · split
    · exact Int.mul_le_mul_of_nonneg_right ht (Int.natCast_nonneg _)
    · simpa only [rneShr_eq_rneDiv] using rneDiv_mono ht (Nat.two_pow_pos _)

/-- A bin is the number of the 63 edges that the element reaches. -/
theorem statBin_lt (n s l : Nat) : statBin n s l < 64 := by
  unfold statBin
  split
  · decide
  · exact Nat.lt_succ_of_le ((List.length_filter_le _ _).trans_eq List.length_range)

end Sys2Proof.Machine

open Sys2Proof Sys2Proof.Machine

/-- Settles O21: both roundings are one rounding division, and every limit is that of a clamp, which is monotone. -/
theorem roundingAndLimits : Obligations.RoundingAndLimits := by
  unfold Obligations.RoundingAndLimits
  refine ⟨fun v n _ => ?_, fun v d hd => rneDiv_nearest v hd, Quant.code_mem, fun p sc _ => sat48_mem _,
    fun p q sc _ h => sat48_mono (rescaleRaw_mono h sc), statBin_lt⟩
  simpa only [rneShr_eq_rneDiv, Nat.cast_pow, Nat.cast_ofNat] using rneDiv_nearest v (Nat.two_pow_pos n)
end

section
/-!
PROOFS. The spoil form read back: the mask of a unit and its bytes, the unit, the segment (R166, R167, R169).
-/

open Sys2Proof Sys2Proof.Machine

namespace Sys2Proof.Machine

/-! ### Little-endian numbers -/

@[simp] theorem le_length (n x : Nat) : (le n x).length = n := by simp [le]

theorem le_succ (n x : Nat) : le (n + 1) x = BitVec.ofNat 8 x :: le n (x / 256) := by
  have hshift (i : Nat) : x >>> (8 * (i + 1)) = (x / 256) >>> (8 * i) := by
    rw [Nat.mul_succ, Nat.add_comm, Nat.shiftRight_add, Nat.shiftRight_eq_div_pow x 8]
  simp only [le, List.range_succ_eq_map, List.map_cons, List.map_map, Function.comp_def, Nat.succ_eq_add_one, hshift]
  rfl

theorem unle_le {n x : Nat} (h : x < 256 ^ n) : unle (le n x) = x := by
  induction n generalizing x with
  | zero => simp_all [le, unle]
  | succ n ih =>
    have hq : x / 256 < 256 ^ n := Nat.div_lt_of_lt_mul (by rwa [← Nat.pow_succ'])
    rw [le_succ, unle, ih hq, BitVec.toNat_ofNat]
    exact Nat.mod_add_div x 256

/-! ### The mask of a unit -/

/-- The bits of `m` from `i` up say which bytes of `u` are not 0x00 (R166). -/
def MasksFrom (m i : Nat) : Bytes → Prop
  | [] => True
  | b :: r => bit m i = decide (b ≠ 0) ∧ MasksFrom m (i + 1) r

theorem masksFrom_half {m i : Nat} {u : Bytes} (h : MasksFrom (m / 2) i u) : MasksFrom m (i + 1) u := by
  induction u generalizing i with
  | nil => trivial
  | cons b r ih =>
    obtain ⟨hbit, hrest⟩ := h
    exact ⟨(Nat.testBit_succ m i).trans hbit, ih hrest⟩

theorem spoilMask_succ (i : Nat) (u : Bytes) : spoilMask (i + 1) u = 2 * spoilMask i u := by
  induction u generalizing i with
  | nil => rfl
  | cons b r ih =>
    rw [spoilMask, spoilMask, ih, Nat.mul_add, Nat.pow_succ']
    split <;> rfl

theorem spoilMask_cons (b : Byte) (r : Bytes) : spoilMask 0 (b :: r) = (if b = 0 then 0 else 1) + 2 * spoilMask 0 r := by
  rw [spoilMask, spoilMask_succ, Nat.pow_zero]

theorem spoilMask_masks (u : Bytes) : MasksFrom (spoilMask 0 u) 0 u := by
  induction u with
  | nil => trivial
  | cons b r ih =>
    rw [spoilMask_cons]
    refine ⟨?_, masksFrom_half ?_⟩
    · by_cases hb : b = 0
      · subst hb; simp [bit]
      · rw [if_neg hb, decide_eq_true hb]; simp [bit]
    · rwa [show ((if b = 0 then 0 else 1) + 2 * spoilMask 0 r) / 2 = spoilMask 0 r by split <;> omega]

theorem spoilMask_lt (u : Bytes) : spoilMask 0 u < 2 ^ u.length := by
  induction u with
  | nil => decide
  | cons b r ih =>
    rw [spoilMask_cons, List.length_cons, Nat.pow_succ']
    split <;> omega

/-- A mask has as many bits set as the unit has bytes that are not 0x00. -/
theorem MasksFrom.count {m i : Nat} {u : Bytes} (h : MasksFrom m i u) :
    ((List.range' i u.length).filter (bit m)).length = (u.filter (· ≠ 0)).length := by
  induction u generalizing i with
  | nil => rfl
  | cons b r ih =>
    obtain ⟨hbit, hrest⟩ := h
    simp only [List.length_cons, List.range'_succ, List.filter_cons, hbit]
    split <;> simp [ih hrest]

/-- The stored bytes spread over their mask are the unit. -/
theorem MasksFrom.spread {m i : Nat} {u : Bytes} (h : MasksFrom m i u) :
    spoilSpread m u.length i (u.filter (· ≠ 0)) = u := by
  induction u generalizing i with
  | nil => rfl
  | cons b r ih =>
    obtain ⟨hbit, hrest⟩ := h
    rw [List.length_cons, spoilSpread, hbit]
    by_cases hb : b = 0
    · rw [if_neg (by simp [hb]), List.filter_cons_of_neg (by simp [hb]), ih hrest, hb]
    · rw [if_pos (decide_eq_true hb), List.filter_cons_of_pos (by simpa using hb), List.drop_one, List.tail_cons, ih hrest,
        List.headD_cons]

/-! ### A unit -/

/-- The size of a unit by its count of bytes that are not 0x00 (R166). -/
theorem spoilUnit_length (u : Bytes) : (spoilUnit u).length = (4 + (u.filter (· ≠ 0)).length + 7) / 8 * 8 := by
  simp only [spoilUnit, padMul, List.length_append, le_length, List.length_replicate]
  omega

/-- A unit takes from 8 to 40 bytes, in granules of 8 (R166). -/
theorem spoilUnit_size {u : Bytes} (h : u.length = 32) :
    8 ≤ (spoilUnit u).length ∧ (spoilUnit u).length ≤ 40 ∧ (spoilUnit u).length % 8 = 0 := by
  have hz : (u.filter (· ≠ 0)).length ≤ 32 := (List.length_filter_le _ _).trans_eq h
  rw [spoilUnit_length]
  omega

/-- A unit is read back with what follows it: the mask is that of the unit, so the count, the stored bytes and the padding are
found where the encoder put them. -/
theorem spoilReadUnit_spoilUnit {u : Bytes} (h : u.length = 32) (r : Bytes) :
    spoilReadUnit (spoilUnit u ++ r) = some (u, r) := by
  set m := spoilMask 0 u
  set codes := u.filter (· ≠ 0) with hcodes
  have hmasks : MasksFrom m 0 u := spoilMask_masks u
  obtain ⟨k, hk⟩ : ∃ k, spoilUnit u = le 4 m ++ (codes ++ List.replicate k 0) := ⟨_, List.append_assoc _ _ _⟩
  have hmask : fld (spoilUnit u ++ r) 0 4 = m := by
    have hlt : m < 256 ^ 4 := (spoilMask_lt u).trans_eq (by rw [h]; rfl)
    rw [fld, List.drop_zero, hk, List.append_assoc, List.take_left' (le_length 4 m), unle_le hlt]
  have hcount : ((List.range 32).filter (bit m)).length = codes.length := by
    rw [List.range_eq_range', ← h, hmasks.count]
  have hlen : (4 + codes.length + 7) / 8 * 8 = (spoilUnit u).length := (spoilUnit_length u).symm
  have hbody : ((spoilUnit u ++ r).drop 4).take codes.length = codes := by
    rw [hk, List.append_assoc, List.drop_left' (le_length 4 m), List.append_assoc, List.take_left]
  have hpad : (spoilUnit u).drop (4 + codes.length) = List.replicate k 0 := by
    rw [hk, ← List.drop_drop, List.drop_left' (le_length 4 m), List.drop_left]
  have hnz : codes.contains 0 = false := by simp [hcodes]
  simp only [spoilReadUnit, hmask, hcount, hlen, hbody, List.take_left, List.drop_left, hpad]
  rw [if_neg (by rw [hnz]; simp), ← h, hmasks.spread]

/-! ### The units of a segment -/

theorem spoilReadUnits_flatMap {us : List Bytes} (h : ∀ u ∈ us, u.length = 32) :
    spoilReadUnits us.length (us.flatMap spoilUnit) = some us.flatten := by
  induction us with
  | nil => rfl
  | cons u us ih =>
    obtain ⟨hu, hus⟩ := List.forall_mem_cons.1 h
    simp only [List.length_cons, List.flatMap_cons, spoilReadUnits, spoilReadUnit_spoilUnit hu, ih hus, Option.map_some,
      List.flatten_cons]

theorem flatMap_spoilUnit_size {us : List Bytes} (h : ∀ u ∈ us, u.length = 32) :
    8 * us.length ≤ (us.flatMap spoilUnit).length ∧ (us.flatMap spoilUnit).length ≤ 40 * us.length ∧
      (us.flatMap spoilUnit).length % 8 = 0 := by
  induction us with
  | nil => decide
  | cons u us ih =>
    obtain ⟨hu, hus⟩ := List.forall_mem_cons.1 h
    obtain ⟨hlo, hhi, hgran⟩ := spoilUnit_size hu
    obtain ⟨hlos, hhis, hgrans⟩ := ih hus
    rw [List.flatMap_cons, List.length_append, List.length_cons]
    omega

@[simp] theorem slice_length (b : Bytes) (o n : Nat) : (slice b o n).length = n := by
  simp only [slice, List.length_append, List.length_replicate, List.length_take]
  omega

theorem slice_inside {b : Bytes} {o n : Nat} (h : o + n ≤ b.length) : slice b o n = (b.drop o).take n := by
  have hlen : ((b.drop o).take n).length = n := by rw [List.length_take, List.length_drop]; omega
  simp only [slice, hlen, Nat.sub_self, List.replicate_zero, List.append_nil]

theorem flatten_slices {b : Bytes} {k n : Nat} (h : k * n ≤ b.length) :
    ((List.range n).map fun i => slice b (k * i) k).flatten = b.take (k * n) := by
  induction n with
  | zero => simp
  | succ n ih =>
    rw [Nat.mul_succ] at h ⊢
    rw [List.range_succ, List.map_append, List.flatten_append, ih (by omega), List.take_add]
    simp only [List.map_singleton, List.flatten_singleton, slice_inside h]

@[simp] theorem spoilUnits_length (p : Bytes) : (spoilUnits p).length = 8 := by simp [spoilUnits]

theorem spoilUnits_mem_length {p u : Bytes} (h : u ∈ spoilUnits p) : u.length = 32 := by
  obtain ⟨i, -, rfl⟩ := List.mem_map.1 h
  exact slice_length p _ 32

theorem spoilUnits_flatten {p : Bytes} (h : p.length = 256) : (spoilUnits p).flatten = p := by
  rw [spoilUnits, flatten_slices (by omega), List.take_of_length_le (by omega)]

/-! ### The segment -/

theorem spoilEncode_allZero {p : Bytes} (h : allZero p = true) : spoilEncode p = (0, []) := if_pos h

theorem spoilEncode_stored {p : Bytes} (h : ¬allZero p = true) :
    spoilEncode p = (((spoilUnits p).flatMap spoilUnit).length, (spoilUnits p).flatMap spoilUnit) := if_neg h

theorem eq_zeros_of_allZero {p : Bytes} (h : allZero p = true) : p = zeros p.length :=
  List.eq_replicate_iff.2 ⟨rfl, fun b hb => of_decide_eq_true (List.all_eq_true.1 h b hb)⟩

theorem spoilIndexOk_iff (n : Nat) : spoilIndexOk n = true ↔ n = 0 ∨ 64 ≤ n ∧ n ≤ 320 ∧ n % 8 = 0 := by
  simp [spoilIndexOk, and_assoc]

theorem spoilEncode_length (p : Bytes) : (spoilEncode p).2.length = (spoilEncode p).1 := by
  by_cases hz : allZero p = true
  · rw [spoilEncode_allZero hz]; rfl
  · rw [spoilEncode_stored hz]

/-- What a slot keeps of its segment: the entry says how many of its bytes are read (R166). -/
theorem spoilSlot_take (b : Bytes) : (spoilSlot b).take b.length = b := List.take_left

theorem spoilEncode_indexOk (p : Bytes) : spoilIndexOk (spoilEncode p).1 = true := by
  by_cases hz : allZero p = true
  · rw [spoilEncode_allZero hz]; rfl
  · have hsize := flatMap_spoilUnit_size fun u (hu : u ∈ spoilUnits p) => spoilUnits_mem_length hu
    rw [spoilUnits_length] at hsize
    rw [spoilEncode_stored hz]
    exact (spoilIndexOk_iff _).2 (.inr hsize)

theorem spoilDecode_stored {n : Nat} {b : Bytes} (hn : n ≠ 0) (hok : spoilIndexOk n = true) (hb : b.length = n) :
    spoilDecode n b = spoilReadUnits 8 b := by
  rw [spoilDecode, if_neg hn, hok, List.take_of_length_le hb.le]
  rfl

theorem spoilDecode_spoilEncode {p : Bytes} (h : p.length = 256) :
    spoilDecode (spoilEncode p).1 (spoilEncode p).2 = some p := by
  by_cases hz : allZero p = true
  · rw [spoilEncode_allZero hz, eq_zeros_of_allZero hz, h]; rfl
  · have hunits : ∀ u ∈ spoilUnits p, u.length = 32 := fun _ => spoilUnits_mem_length
    have hne : (spoilEncode p).1 ≠ 0 := by
      obtain ⟨hlo, -, -⟩ := flatMap_spoilUnit_size hunits
      rw [spoilUnits_length] at hlo
      rw [spoilEncode_stored hz]
      exact Nat.ne_of_gt (Nat.lt_of_lt_of_le (by decide) hlo)
    rw [spoilDecode_stored hne (spoilEncode_indexOk p) (spoilEncode_length p), spoilEncode_stored hz]
    have hread := spoilReadUnits_flatMap hunits
    rwa [spoilUnits_length, spoilUnits_flatten h] at hread

end Sys2Proof.Machine

open Sys2Proof Sys2Proof.Machine

/-- Settles O19: each unit is read back with what follows it, so the eight units are, and they are the segment. -/
theorem spoilFormRoundTrips : Obligations.SpoilFormRoundTrips := by
  unfold Obligations.SpoilFormRoundTrips
  intro p hp
  have hlen := spoilEncode_length p
  have hslot : (spoilSlot (spoilEncode p).2).take (spoilEncode p).1 = (spoilEncode p).2 := by
    rw [← hlen, spoilSlot_take]
  exact ⟨spoilEncode_indexOk p, hlen, by rw [hslot, spoilDecode_spoilEncode hp]⟩
end

section
/-!
PROOFS. Camera lines: what the recorder tap leaves of a stream, a good line that waits for its Crusher, the end of a frame, the
Crusher's next line, and the ticks of a full ingress FIFO (R173, R177, R180, R181, R185, R259, R263, R266).
-/

open Sys2Proof Sys2Proof.Machine

namespace Sys2Proof.Machine

/-! ### The recorder tap (R389) -/

/-- A slot without its open record. -/
def CamRt.untapped (r : CamRt) : CamRt := { r with record := none }

/-- A die without what the recorder tap keeps there. -/
def IoDie.untapped (x : IoDie) : IoDie := { x.unrecorded with cams := x.cams.map CamRt.untapped }

/-- From `s` to `t` the recorder alone worked, with the open records of the slots. -/
structure State.Tapped (s t : State) : Prop where
  keeps : s.keeps [.recd, .mem, .bad, .hst, .io, .free] t
  die : ∀ d, (t.die d).untapped = (s.die d).untapped

theorem State.Tapped.refl (s : State) : s.Tapped s := ⟨s.keeps_refl _, fun _ => rfl⟩

theorem State.Tapped.trans {s t u : State} (h : s.Tapped t) (h' : t.Tapped u) : s.Tapped u :=
  ⟨State.keeps_trans h.keeps h'.keeps, fun d => (h'.die d).trans (h.die d)⟩

theorem State.Recorded.tapped {s t : State} (h : s.Recorded t) : s.Tapped t :=
  ⟨h.keeps, fun d => congrArg (fun x : IoDie => { x with cams := x.cams.map CamRt.untapped }) (h.die d)⟩

theorem State.Tapped.csi {s t : State} (h : s.Tapped t) (d : DieId) : (t.die d).csi = (s.die d).csi :=
  (congrArg IoDie.csi (h.die d) :)

theorem State.Tapped.stalled {s t : State} (h : s.Tapped t) (d : DieId) : (t.die d).stalled = (s.die d).stalled :=
  (congrArg IoDie.stalled (h.die d) :)

theorem State.Tapped.arrivals {s t : State} (h : s.Tapped t) (d : DieId) : (t.die d).arrivals = (s.die d).arrivals :=
  (congrArg IoDie.arrivals (h.die d) :)

theorem State.Tapped.cam {s t : State} (h : s.Tapped t) (d : DieId) (i : Fin 32) :
    ((t.die d).cams.get i).untapped = ((s.die d).cams.get i).untapped := by
  simpa only [IoDie.untapped, vget_map] using congrArg (fun x => x.cams.get i) (h.die d)

/-- A field of a slot that the tap leaves. -/
theorem State.Tapped.camOf {s t : State} (h : s.Tapped t) (d : DieId) (i : Fin 32) {α : Type} (g : CamRt → α)
    (hg : ∀ r, g r.untapped = g r) : g ((t.die d).cams.get i) = g ((s.die d).cams.get i) := by
  rw [← hg, h.cam, hg]

theorem onCam_tapped (s : State) (d : DieId) (i : Fin 32) {f : CamRt → CamRt} (hf : ∀ r, (f r).untapped = r.untapped) :
    s.Tapped (s.onCam d i f) := by
  refine ⟨State.keeps_mono (onDie_keeps s d _) (by simp), fun e => ?_⟩
  by_cases h : e = d
  · subst h
    have hcams : (((s.die e).cams.set i.1 (f ((s.die e).cams.get i))).map CamRt.untapped) =
        (s.die e).cams.map CamRt.untapped := vext fun j => by
      by_cases hj : j = i
      · subst hj; rw [vget_map, vget_map, vget_set_self, hf]
      · rw [vget_map, vget_map, vget_set_ne _ _ _ _ i.2 hj]
    rw [State.onCam, State.die_onDie_self]
    simp only [IoDie.untapped, hcams]
    rfl
  · rw [State.onCam, State.die_onDie_ne _ _ _ _ h]

theorem camRecord_tapped (s : State) (d : DieId) (x : StreamProf) (kind rflags : Nat) (time : U64) (low first count : Nat)
    (payload : Bytes) : s.Tapped (camRecord s d x kind rflags time low first count payload) := by
  unfold camRecord vcRecord
  exact (recWrite_recorded s _ _ _ _ _ _ _).tapped

theorem closeLines_tapped (s : State) (d : DieId) (i : Fin 32) (x : StreamProf) : s.Tapped (closeLines s d i x) := by
  unfold closeLines
  split
  · exact .refl s
  · refine State.Tapped.trans (onCam_tapped s d i fun r => ?_) (camRecord_tapped _ _ _ _ _ _ _ _ _ _)
    rfl

theorem tapLine_tapped (s : State) (d : DieId) (i : Fin 32) (x : StreamProf) (n : Nat) (dt : BitVec 6) (b : Bytes) :
    s.Tapped (tapLine s d i x n dt b) := by
  have hclose (fits : Bool) : s.Tapped (if fits then s else closeLines s d i x) := by
    split
    · exact .refl s
    · exact closeLines_tapped s d i x
  unfold tapLine
  refine (hclose _).trans (onCam_tapped _ d i fun r => ?_)
  rfl

/-- The tap leaves what waits in the buffer of a port (R180). -/
theorem State.Tapped.portBytes {s t : State} (h : s.Tapped t) (d : DieId) (port : Nat) :
    portBytes t d port = portBytes s d port := by
  have hprof (c : CtxId) (i : Fin 32) : t.camProf c d i = s.camProf c d i := by
    simp only [State.camProf, secD_congr (h.keeps .img (by simp))]
  have hctx (i : Fin 32) := h.camOf d i CamRt.ctx fun _ => rfl
  have hwait (i : Fin 32) := h.camOf d i CamRt.waiting fun _ => rfl
  simp only [Machine.portBytes, hprof, hctx, hwait, h.stalled]

/-! ### A good line waits for its Crusher (R180, R181) -/

/-- A stream that does not bypass the Crushers takes no line by itself (R174). -/
theorem passRaw_waits (s : State) (d : DieId) (i : Fin 32) {x : StreamProf} (hm : x.mode = 1) : passRaw s d i x = s := by
  simp [passRaw, hm]

/-- A slot takes lines that have been numbered. -/
theorem cams_onCam_arrivals (s : State) (d : DieId) (i : Fin 32) (n : Nat) (f : CamRt → CamRt) :
    (((s.onDie d fun x => { x with arrivals := n }).onCam d i f).die d).cams.get i = f ((s.die d).cams.get i) := by
  rw [cams_onCam_self, State.die_onDie_self]

/-- A slot whose next line, with arrival number `k`, has come with its bytes. -/
def CamRt.lineIn (r : CamRt) (k : Nat) (b : Bytes) : CamRt :=
  { r with hashed := r.hashed ++ b, received := r.received + 1, lostNext := false
           waiting := r.waiting ++ [⟨k, if r.lostNext then none else some b⟩] }

theorem camLine_waits {s : State} {d : DieId} {i : Fin 32} {x : StreamProf} (hf : ((s.die d).cams.get i).frameOpen = true)
    (hb : ((s.die d).cams.get i).buf.isSome = true) (hm : x.mode = 1) (hr : ((s.die d).cams.get i).received < x.inH) (b : Bytes) :
    s.keeps [.io] (camLine s d i x x.dt b true false) ∧
      ((camLine s d i x x.dt b true false).die d).cams.get i = ((s.die d).cams.get i).lineIn (s.die d).arrivals b := by
  have hopen : ¬ ((!((s.die d).cams.get i).frameOpen) = true ∨ ((s.die d).cams.get i).buf.isNone = true) := by
    simp [hf, Option.isSome_iff_ne_none.1 hb]
  simp only [camLine, if_neg hopen, if_neg (Nat.not_le.2 hr), if_pos, passRaw_waits _ d i hm]
  refine ⟨State.keeps_trans (State.keeps_trans (onDie_keeps s d _) (onDie_keeps _ d _)) (onDie_keeps _ d _), ?_⟩
  rw [cams_onCam_arrivals, cams_onCam_self, State.onCam, State.die_onDie_self]
  unfold CamRt.lineIn
  cases ((s.die d).cams.get i).lostNext <;> rfl

/-- A good line of the stream's own type passes the tap and the port buffer, which has room for it. -/
theorem camPacket_waits {s : State} {d : DieId} {i : Fin 32} {c : CtxId} {dt : BitVec 6} {p : Bytes}
    (hf : ((s.die d).cams.get i).frameOpen = true) (hb : ((s.die d).cams.get i).buf.isSome = true)
    (hm : (s.camProf c d i).mode = 1) (hdt : dt.toNat = (s.camProf c d i).dt) (hty : profTypes.contains dt.toNat = true)
    (hlen : p.length = lineLen (s.camProf c d i).dt (s.camProf c d i).inW)
    (hroom : portBytes s d (s.camProf c d i).port + p.length ≤ 65536)
    (hr : ((s.die d).cams.get i).received < (s.camProf c d i).inH) :
    s.keeps [.recd, .mem, .bad, .hst, .io, .free] (camPacket s d i c dt p true) ∧
      (((camPacket s d i c dt p true).die d).cams.get i).untapped =
        (((s.die d).cams.get i).lineIn (s.die d).arrivals p).untapped := by
  set x := s.camProf c d i with hx
  set u := tapLine s d i x ((s.die d).cams.get i).received dt p with hu
  have htap : s.Tapped u := tapLine_tapped s d i x _ dt p
  have hgood : decide (p.length = lineLen x.dt x.inW) = true := decide_eq_true hlen
  have hroom : decide (65536 < portBytes u d x.port + p.length) = false := by
    rw [htap.portBytes]; exact decide_eq_false (Nat.not_lt.2 hroom)
  rw [hdt] at hty
  have heq : camPacket s d i c dt p true = camLine u d i x x.dt p true false := by
    simp only [camPacket, countCrc, hdt, hty, ← hx, hgood, ← hu, hroom, Bool.and_true, Bool.and_false, Bool.not_true,
      Bool.not_false, Bool.false_eq_true, if_true, if_false]
  obtain ⟨hk, hcam⟩ := camLine_waits (s := u) (d := d) (i := i) ((htap.camOf d i CamRt.frameOpen fun _ => rfl).trans hf)
    (by rw [htap.camOf d i CamRt.buf fun _ => rfl, hb]) hm ((htap.camOf d i CamRt.received fun _ => rfl).trans_lt hr) p
  rw [heq]
  refine ⟨State.keeps_trans htap.keeps (State.keeps_mono hk (by simp)), ?_⟩
  rw [hcam, htap.arrivals]
  exact (congrArg (fun r : CamRt => r.lineIn (s.die d).arrivals p) (htap.cam d i) :)

/-! ### The end of a frame (R266) -/

/-- The digest of a complete frame changes nothing of its slot but the buffers. -/
theorem camFinish_cases (s : State) (d : DieId) (i : Fin 32) : camFinish s d i = s ∨
    ∃ (b : Fin 2) (g : CamRt → BufInfo → BufInfo),
      camFinish s d i = s.onCam d i fun r => { r with bufs := setBuf r.bufs b (g r) } := by
  simp only [camFinish]
  split
  · next b c _ _ =>
    split
    · exact .inr ⟨b, fun r y => { y with digest := some (sha256 r.hashed) }, rfl⟩
    · exact .inl rfl
  · exact .inl rfl

theorem camFinish_keeps (s : State) (d : DieId) (i : Fin 32) : s.keeps [.io] (camFinish s d i) := by
  obtain h | ⟨b, g, h⟩ := camFinish_cases s d i <;> rw [h]
  · exact s.keeps_refl _
  · exact onDie_keeps s d _

theorem camFinish_ended (s : State) (d : DieId) (i : Fin 32) :
    (((camFinish s d i).die d).cams.get i).ended = ((s.die d).cams.get i).ended := by
  obtain h | ⟨b, g, h⟩ := camFinish_cases s d i <;> rw [h]
  rw [cams_onCam_self]

theorem absentLines_keeps (s : State) (d : DieId) (i : Fin 32) (n : Nat) : s.keeps [.io] (absentLines s d i n) := by
  unfold absentLines
  exact State.keeps_trans (onDie_keeps s d _) (onDie_keeps _ d _)

theorem absentLines_csi (s : State) (d : DieId) (i : Fin 32) (n : Nat) : ((absentLines s d i n).die d).csi = (s.die d).csi := by
  unfold absentLines
  rw [csi_onCam, State.die_onDie_self]

theorem absentLines_received (s : State) (d : DieId) (i : Fin 32) (n : Nat) :
    (((absentLines s d i n).die d).cams.get i).received = ((s.die d).cams.get i).received + n := by
  simp only [absentLines, cams_onCam_arrivals]

/-- The slot has closed its frame: all of `n` lines have come, good or absent. -/
structure CamRt.Closed (r r' : CamRt) (n : Nat) : Prop where
  frameOpen : r'.frameOpen = false
  ended : r'.ended = true
  received : r'.received = max r.received n

/-- The lines that did not arrive are absent ones, and a stream with a Crusher leaves them to it. -/
theorem camEnd_closes {s : State} {d : DieId} {i : Fin 32} {x : StreamProf} (hf : ((s.die d).cams.get i).frameOpen = true)
    (hb : ((s.die d).cams.get i).buf.isSome = true) (hm : x.mode = 1) :
    s.keeps [.recd, .mem, .bad, .hst, .io, .free] (camEnd s d i x) ∧ ((camEnd s d i x).die d).csi = (s.die d).csi ∧
      ((s.die d).cams.get i).Closed (((camEnd s d i x).die d).cams.get i) x.inH := by
  set r := (s.die d).cams.get i with hr
  set u := closeLines s d i x
  have htap : s.Tapped u := closeLines_tapped s d i x
  have hrec : ((u.die d).cams.get i).received = r.received := htap.camOf d i CamRt.received fun _ => rfl
  set v := absentLines u d i (x.inH - r.received)
  set w := v.onCam d i fun y => { y with frameOpen := false, ended := true }
  have hw : (w.die d).cams.get i = { (v.die d).cams.get i with frameOpen := false, ended := true } := cams_onCam_self _ _ _ _
  have heq : camEnd s d i x = camFinish w d i := by
    simp only [camEnd, ← hr, hf, hb, Bool.not_true, Bool.false_eq_true, if_true, if_false, passRaw_waits _ d i hm]
    rfl
  have hheld := (camFinish_crushed w d i).cams
  rw [heq]
  refine ⟨?_, ?_, ⟨?_, ?_, ?_⟩⟩
  · have hclose := State.keeps_trans (absentLines_keeps u d i _) (State.keeps_trans (onDie_keeps v d _) (camFinish_keeps w d i))
    exact State.keeps_trans htap.keeps (State.keeps_mono hclose (by simp))
  · rw [hheld.csi, csi_onCam, absentLines_csi, htap.csi]
  · rw [(hheld.cam i).frameOpen, hw]
  · rw [camFinish_ended, hw]
  · rw [(hheld.cam i).received, hw]
    show ((v.die d).cams.get i).received = _
    rw [absentLines_received, hrec]
    omega

/-! ### The packets of a loaded stream (R266, R267) -/

theorem vcMark_keeps (s : State) (k : CsiHdr) (v : Bool) : s.keeps [.io] (vcMark s k v) := onCsi_keeps s k.die k.port _

theorem vcMark_cams (s : State) (k : CsiHdr) (v : Bool) : ((vcMark s k v).die k.die).cams = (s.die k.die).cams :=
  (die_onCsi s k.die k.port _).1

theorem vcMark_closed (s : State) (k : CsiHdr) :
    (((vcMark s k false).die k.die).csi.get k.port).vcOpen.getLsbD k.vc.1 = false := by
  have h (i : Fin 4) : (~~~((1 : BitVec 4) <<< i.1)).getLsbD i.1 = false := by revert i; decide
  rw [vcMark, (die_onCsi s k.die k.port _).2]
  simp only [Bool.false_eq_true, if_false, BitVec.getLsbD_and, h, Bool.and_false]

theorem vcMark_camProf (s : State) (k : CsiHdr) (v : Bool) (c : CtxId) (i : Fin 32) :
    (vcMark s k v).camProf c k.die i = s.camProf c k.die i := by
  simp only [State.camProf, secD_congr (vcMark_keeps s k v .img (by simp))]

section
variable {s : State} {k : CsiHdr} {i : Fin 32} {c : CtxId} (he : k.ecc = .ok) (hx : k.vcx = false) (hd : s.dev ≠ .replay)
  (hp : diePresent s.part k.die = true) (hl : s.portLive k.die k.port = true) (hr : k.buffered = .clean ∨ s.recActive = false)
  (hc : s.camSlot k.die k.port.1 k.vc.1 = some (i, c))
include he hx hd hp hl hr hc

/-- A long packet with a good header reaches its stream. -/
theorem csiLongPacket_loaded (dt : BitVec 6) (p : Bytes) (ok : Bool) :
    exec (.csiLongPacket k dt p ok) s = finish s (camPacket s k.die i c dt p ok) := by
  show execCsiLongPacket k dt p ok s = _
  simp only [execCsiLongPacket, packetHeader_good he hx hd hp, hl, hc, Bool.not_true, Bool.false_eq_true, if_false,
    readOut_clean hr]

/-- A frame end with a good header clears its bit of the port, is recorded and closes the frame of its stream. -/
theorem csiFrameEnd_loaded (n : U16) : ∃ u, (vcMark s k false).Tapped u ∧
    exec (.csiFrameEnd k n) s = finish s (camEnd u k.die i (s.camProf c k.die i)) := by
  have hslot : (vcMark s k false).camSlot k.die k.port.1 k.vc.1 = some (i, c) := by
    rw [camSlot_congr (vcMark_keeps s k false .img (by simp)) (fun i => by rw [vcMark_cams]), hc]
  have hclean : k.buffered = .clean ∨ (vcMark s k false).recActive = false := hr
  refine ⟨_, (closeLines_tapped _ k.die i (s.camProf c k.die i)).trans (tapShort_recorded _ k.die (s.camProf c k.die i) 1
    ((vcMark s k false).fsStamp k.die k.port) n).tapped, ?_⟩
  show execCsiFrameEnd k n s = _
  simp only [execCsiFrameEnd, packetHeader_good he hx hd hp, hl, hslot, vcMark_camProf, Bool.not_true, Bool.false_eq_true,
    if_false, readOut_clean hclean]

end

/-! ### CRUSHER_LINE (R173, R177, R185) -/

/-- From `s` to `t` the stream `i` works on lines that have left the port buffer: its waiting lines, the other slots and the
Crushers stay. -/
structure State.TakesLine (s t : State) (d : DieId) (i : Fin 32) : Prop where
  waiting : ((t.die d).cams.get i).waiting = ((s.die d).cams.get i).waiting
  others : ∀ j, j ≠ i → (t.die d).cams.get j = (s.die d).cams.get j
  cru : (t.die d).cru = (s.die d).cru

theorem State.TakesLine.trans {s t u : State} {d : DieId} {i : Fin 32} (h : s.TakesLine t d i) (h' : t.TakesLine u d i) :
    s.TakesLine u d i :=
  ⟨h'.waiting.trans h.waiting, fun j hj => (h'.others j hj).trans (h.others j hj), h'.cru.trans h.cru⟩

theorem State.TakesLine.of_eq {s t : State} {d : DieId} (hc : (t.die d).cams = (s.die d).cams)
    (hr : (t.die d).cru = (s.die d).cru) (i : Fin 32) : s.TakesLine t d i := ⟨by rw [hc], fun j _ => by rw [hc], hr⟩

theorem State.TakesLine.refl (s : State) (d : DieId) (i : Fin 32) : s.TakesLine s d i := .of_eq rfl rfl i

theorem cru_onCam (s : State) (d : DieId) (i : Fin 32) (f : CamRt → CamRt) : ((s.onCam d i f).die d).cru = (s.die d).cru := by
  rw [State.onCam, State.die_onDie_self]

theorem onCam_takesLine (s : State) (d : DieId) (i : Fin 32) {f : CamRt → CamRt} (hf : ∀ r, (f r).waiting = r.waiting) :
    s.TakesLine (s.onCam d i f) d i :=
  ⟨by rw [cams_onCam_self, hf], fun _ hj => cams_onCam_ne s d f hj, cru_onCam s d i f⟩

theorem event_takesLine (s : State) (src code : U16) (ctx : Option (CtxId × BitVec 12)) (detail : Nat) (d : DieId) (i : Fin 32) :
    s.TakesLine (event s src code ctx detail) d i := by
  have hio := event_keeps s src code ctx detail .io (by simp)
  exact .of_eq (congrArg (fun v => IoDie.cams (v.get d)) hio) (congrArg (fun v => IoDie.cru (v.get d)) hio) i

theorem fifoPush_takesLine (s : State) (d : DieId) (i : Fin 32) (e : IffItem) : s.TakesLine (fifoPush s d e) d i := by
  refine .of_eq ?_ ?_ i <;> rw [fifoPush, State.die_onDie_self] <;> split <;> rfl

theorem foldl_takesLine {α : Type} {d : DieId} {i : Fin 32} {f : State → α → State} (hf : ∀ (s : State) a, s.TakesLine (f s a) d i)
    (l : List α) (s : State) : s.TakesLine (l.foldl f s) d i := by
  induction l generalizing s with
  | nil => exact .refl s d i
  | cons a l ih => exact (hf s a).trans (ih _)

theorem camIncomplete_takesLine (s : State) (d : DieId) (i : Fin 32) : s.TakesLine (camIncomplete s d i) d i := by
  simp only [camIncomplete]
  split
  · split
    · exact .refl s d i
    · refine (onCam_takesLine s d i ?_).trans (event_takesLine _ _ _ _ _ d i)
      exact fun _ => rfl
  · exact .refl s d i

theorem camFinish_takesLine (s : State) (d : DieId) (i : Fin 32) : s.TakesLine (camFinish s d i) d i := by
  obtain h | ⟨b, g, h⟩ := camFinish_cases s d i <;> rw [h]
  · exact .refl s d i
  · refine onCam_takesLine s d i ?_
    exact fun _ => rfl

theorem takeLine_takesLine (s : State) (d : DieId) (i : Fin 32) (l : Option Bytes) : s.TakesLine (takeLine s d i l) d i := by
  simp only [takeLine]
  split
  · refine State.TakesLine.trans ?_ (camFinish_takesLine _ d i)
    refine State.TakesLine.trans ?_ (foldl_takesLine (fun s e => fifoPush_takesLine s d i e) _ _)
    refine State.TakesLine.trans (t := if l.isSome then s else camIncomplete s d i) ?_ ?_
    · split
      · exact .refl s d i
      · exact camIncomplete_takesLine s d i
    · refine onCam_takesLine _ d i ?_
      exact fun _ => rfl
  · exact .refl s d i

/-- The Crusher's registers after a line of `w` pixels of the profile numbered `n`. -/
def CruRegs.lineTaken (x : CruRegs) (n w : Nat) (l : InLine) : CruRegs :=
  { x with profile := BitVec.ofNat 3 n, busy := false, pixCnt := x.pixCnt + BitVec.ofNat 32 w
           lineSubst := if l.data.isSome then x.lineSubst else sat32 x.lineSubst }

theorem die_onCru (s : State) (d : DieId) (u : Fin 2) (f : CruRegs → CruRegs) :
    ((s.onCru d u f).die d).cams = (s.die d).cams ∧ ((s.onCru d u f).die d).fifo = (s.die d).fifo ∧
      ((s.onCru d u f).die d).cru.get u = f ((s.die d).cru.get u) := by
  rw [State.onCru, State.die_onDie_self]
  exact ⟨rfl, rfl, vget_set_self _ _ _ u.2⟩

theorem onCru_keeps (s : State) (d : DieId) (u : Fin 2) (f : CruRegs → CruRegs) : s.keeps [.io] (s.onCru d u f) :=
  onDie_keeps s d _

/-- What CRUSHER_LINE does with the first line of a stream. -/
structure State.Crushes (s t : State) (d : DieId) (u : Fin 2) (i : Fin 32) (w : Nat) (l : InLine) (rest : List InLine) : Prop where
  waiting : ((t.die d).cams.get i).waiting = rest
  cru : (t.die d).cru.get u = ((s.die d).cru.get u).lineTaken (profileNo s d u i) w l
  others : ∀ j, j ≠ i → (t.die d).cams.get j = (s.die d).cams.get j

theorem crushOne_crushes {s : State} {d : DieId} {i : Fin 32} {c : CtxId} {l : InLine} {rest : List InLine}
    (hc : ((s.die d).cams.get i).ctx = some c) (hw : ((s.die d).cams.get i).waiting = l :: rest) (u : Fin 2) :
    s.Crushes (crushOne s d u i) d u i (s.camProf c d i).inW l rest := by
  set v := s.onCru d u fun x => x.lineTaken (profileNo s d u i) (s.camProf c d i).inW l
  obtain ⟨hcams, -, hcru⟩ := die_onCru s d u fun x => x.lineTaken (profileNo s d u i) (s.camProf c d i).inW l
  have heq : crushOne s d u i = takeLine (v.onCam d i fun x => { x with waiting := rest }) d i l.data := by
    simp only [crushOne, hw, hc]
    rfl
  have ht := takeLine_takesLine (v.onCam d i fun x => { x with waiting := rest }) d i l.data
  rw [heq]
  refine ⟨?_, ?_, fun j hj => ?_⟩
  · rw [ht.waiting, cams_onCam_self]
  · rw [ht.cru, cru_onCam, hcru]
  · rw [ht.others j hj, cams_onCam_ne _ _ _ hj, hcams]

section
variable {s : State} {d : DieId} {u : Fin 2} {i : Fin 32} (hl : s.domLive (cruDom d) = true)
  (hq : firstLine (crusherQueue s d u) = some i)
include hl hq

theorem crusherLine_free (hf : s.fifoFull d = false) : exec (.crusherLine d u .clean) s = finish s (crushOne s d u i) := by
  show execCrusherLine d u .clean s = _
  simp only [execCrusherLine, hl, hq, hf, Bool.not_true, Bool.false_eq_true, if_false]

theorem crusherLine_stalls (hf : s.fifoFull d = true) (f : Finding) : exec (.crusherLine d u f) s =
    finish s (s.onCru d u fun x => { x with busy := true, profile := BitVec.ofNat 3 (profileNo s d u i) }) := by
  show execCrusherLine d u f s = _
  simp only [execCrusherLine, hl, hq, hf, Bool.not_true, Bool.false_eq_true, if_false, if_true]

end

/-! ### The ticks of a full FIFO (R20, R263) -/

theorem copyDumps_keeps (s : State) : s.keeps [.boot] (copyDumps s) := by
  have hboot (u : State) (f : BootRegs → BootRegs) : u.keeps [.boot] (u.onBoot f) := fun k hk => by
    cases k <;> first | rfl | simp at hk
  unfold copyDumps
  split
  · exact s.keeps_refl _
  · exact State.keeps_trans (State.keeps_mono (foldl_quiet _ (fun s n => logAppend_quiet s _ _) _ s).1 (by simp)) (hboot _ _)

theorem tick_die_full {s : State} {d : DieId} (h : s.fifoFull d = true) :
    (tick s).die d = { s.die d with iffStall := sat32 (s.die d).iffStall 2 } := by
  have hio : (s.setFine (s.fine + s.tb.addend.toNat)).io = s.io := setFine_keeps s _ .io (by simp)
  have hfull : (s.io.get d).full = true := h
  simp only [tick, passTicks, State.die, hio, vget_map, hfull, if_true]

end Sys2Proof.Machine

open Sys2Proof Sys2Proof.Machine

/-- Settles O45: the tap leaves the slots but for their records, a line joins or leaves the end of one slot's waiting lines, and
a full FIFO changes the registers of the Crusher alone. -/
theorem linesWaitAreCrushedAndClosed : Obligations.LinesWaitAreCrushedAndClosed := by
  unfold Obligations.LinesWaitAreCrushedAndClosed
  refine ⟨fun s k i c b he hx hd hp hl hr hc hf hb _ hm => ⟨fun dt p hdt hty hlen hroom hrecv => ?_, fun n => ?_⟩,
    fun s d u i c l rest hl hq hc hw => ⟨fun hf => ?_, fun hf f => ?_⟩, fun s d hpend hf => ?_⟩
  · obtain ⟨hk, hcam⟩ := camPacket_waits hf (by rw [hb]; rfl) hm hdt hty hlen hroom hrecv
    obtain ⟨t, ht, hkt, hqt⟩ := finish_keeps (old := s) hk
    rw [← hqt.die] at hcam
    have hwait : ((t.die k.die).cams.get i).waiting = (((s.die k.die).cams.get i).lineIn (s.die k.die).arrivals p).waiting :=
      (congrArg CamRt.waiting hcam :)
    refine ⟨t, (csiLongPacket_loaded he hx hd hp hl hr hc dt p true).trans ht, (congrArg CamRt.received hcam :), ?_, ?_,
      (congrArg CamRt.hashed hcam :), hkt .ctxs (by simp), hkt .parts (by simp)⟩
    · simp [hwait, CamRt.lineIn]
    · simp [hwait, CamRt.lineIn]
  · obtain ⟨u, htap, hex⟩ := csiFrameEnd_loaded he hx hd hp hl hr hc n
    have hcam {α : Type} (g : CamRt → α) (hg : ∀ r, g r.untapped = g r) :
        g ((u.die k.die).cams.get i) = g ((s.die k.die).cams.get i) := by rw [htap.camOf k.die i g hg, vcMark_cams]
    obtain ⟨hk, hcsi, hclosed⟩ := camEnd_closes (s := u) (d := k.die) (i := i) (x := s.camProf c k.die i)
      ((hcam CamRt.frameOpen fun _ => rfl).trans hf) (by rw [hcam CamRt.buf fun _ => rfl, hb]; rfl) hm
    obtain ⟨t, ht, hkt, hqt⟩ := finish_keeps (old := s)
      (State.keeps_trans (State.keeps_mono (vcMark_keeps s k false) (by simp)) (State.keeps_trans htap.keeps hk))
    rw [← hqt.die] at hcsi hclosed
    refine ⟨t, hex.trans ht, hclosed.frameOpen, hclosed.ended, ?_, ?_, hkt .ctxs (by simp), hkt .parts (by simp)⟩
    · rw [hclosed.received, hcam CamRt.received fun _ => rfl]
    · rw [hcsi, htap.csi, vcMark_closed]
  · have hcr := crushOne_crushes hc hw u
    obtain ⟨t, ht, hkt, hqt⟩ := finish_keeps (old := s) (crushOne_crushed s d u i).keeps
    obtain ⟨hwait, hcru, hothers⟩ := hcr
    rw [← hqt.die] at hwait hcru hothers
    exact ⟨t, (crusherLine_free hl hq hf).trans ht, hwait, by rw [hcru]; rfl, by rw [hcru]; rfl, hothers,
      hkt .mem (by simp), hkt .parts (by simp)⟩
  · obtain ⟨hcams, hfifo, hcru⟩ := die_onCru s d u fun x =>
      { x with busy := true, profile := BitVec.ofNat 3 (profileNo s d u i) }
    obtain ⟨t, ht, hkt, hqt⟩ := finish_keeps (old := s) (onCru_keeps s d u fun x =>
      { x with busy := true, profile := BitVec.ofNat 3 (profileNo s d u i) })
    exact ⟨t, (crusherLine_stalls hl hq hf f).trans ht, by rw [hqt.die, hcru], by rw [hqt.die, hcams], by rw [hqt.die, hfifo], hkt⟩
  · have hdie : (copyDumps (tick s)).die d = { s.die d with iffStall := sat32 (s.die d).iffStall 2 } :=
      (congrArg (·.get d) (copyDumps_keeps (tick s) .io (by simp))).trans (tick_die_full hf)
    refine ⟨copyDumps (tick s), ?_, by rw [hdie], by rw [hdie]⟩
    simp only [step, hpend]
end

section
/-!
PROOFS. What a step of a scrubber finds and cures (R242, R248, R250) and what a slice of a calibration leaves (R247).
-/

namespace Sys2Proof.Machine

/-! ### A word of a Ledge that was corrected (R242) -/

/-- The scrubber of a Ledge goes on behind a word that it has read. -/
def scrubMoved (s : State) (i : CoreId) (a : Nat) : State := s.onCore i fun x => { x with scrubAt := BitVec.ofNat 24 (a + 8) }

theorem found_double (s : State) (a : Nat) : s.found a .double = .double := by simp [State.found]

theorem found_good {s : State} (h : s.bad = []) (a : Nat) (f : Finding) : s.found a f = f := by simp [State.found, h]

/-- A scrub read of a Ledge whose core works reports a corrected word. -/
theorem sramScrub_single {s : State} {i : CoreId} {a : Nat} (ha : target a = .ledge i) (hr : s.inReset (partOfCore i) = false)
    (hf : s.isFenced i = false) (hd : s.domIsDown (0x10 + i.1) = false) (hb : s.bad = []) :
    sramScrub s a .single = noteCe (scrubMoved s i a) a ((scrubMoved s i a).sramOwner a) := by
  have hfound : (scrubMoved s i a).found a .single = .single := found_good hb a _
  simp only [sramScrub, ha, hr, hf, hd, Bool.not_false, Bool.and_true, if_true]
  simp only [Bool.not_true, Bool.false_eq_true, if_false]
  rw [← scrubMoved, hfound]

theorem noteCe_ledge {a : Nat} {i : CoreId} (h : target a = .ledge i) (s : State) (ctx : Option (CtxId × BitVec 12)) :
    noteCe s a ctx =
      event (s.onCore i fun x => { x with ldgCe := sat32 x.ldgCe }) (srcCore 0x06 i) cLedgeCe ctx (a % 0x1000000) := by
  simp only [noteCe, h]

/-- A detection leaves the cores. -/
theorem event_core (s : State) (src code : U16) (ctx : Option (CtxId × BitVec 12)) (detail : Nat) (k : CoreId) :
    (event s src code ctx detail).core k = s.core k :=
  congrArg (fun v : Vector CoreRt 12 => v.get k) (event_keeps s src code ctx detail .cores (by simp))

/-- The core's counter and its scrubber's place, and nothing of another core. -/
theorem scrubbed_core {a : Nat} {i : CoreId} (h : target a = .ledge i) (s : State) (ctx : Option (CtxId × BitVec 12)) :
    (noteCe (scrubMoved s i a) a ctx).core i =
        { s.core i with scrubAt := BitVec.ofNat 24 (a + 8), ldgCe := sat32 (s.core i).ldgCe } ∧
      ∀ k, k ≠ i → (noteCe (scrubMoved s i a) a ctx).core k = s.core k := by
  refine ⟨?_, fun k hk => ?_⟩
  · rw [noteCe_ledge h, event_core, State.core_onCore_self, scrubMoved, State.core_onCore_self]
  · rw [noteCe_ledge h, event_core, State.core_onCore_ne _ _ _ _ hk, scrubMoved, State.core_onCore_ne _ _ _ _ hk]

theorem scrubbed_keeps {a : Nat} {i : CoreId} (h : target a = .ledge i) (s : State) (ctx : Option (CtxId × BitVec 12)) :
    s.keeps [.cores, .err, .ctxs] (noteCe (scrubMoved s i a) a ctx) := by
  rw [noteCe_ledge h]
  exact State.keeps_trans (State.keeps_mono (onCore_keeps s i _) (by simp))
    (State.keeps_trans (State.keeps_mono (onCore_keeps _ i _) (by simp)) (State.keeps_mono (event_keeps _ _ _ _ _) (by simp)))

/-! ### A word that no context owns (R242, R250) -/

/-- A scrub read of a Stockpile that works zeroes an uncorrectable word without an owner. -/
theorem sramScrub_unowned {s : State} {j : Fin 2} {a : Nat} (ha : target a = .stock j) (hd : s.domIsDown (0x20 + j.1) = false)
    (ho : s.sramOwner a = none) : sramScrub s a .double = zeroWord s a := by
  simp only [sramScrub, ha, hd, Bool.not_false, Bool.not_true, Bool.false_eq_true, if_false, found_double, ho]

/-- The word with its event counted and recorded, before it is written. -/
def ueNoted (s : State) (k : Nat) : State :=
  event (noteUe s k) (ueFlt s.part k).src (ueFlt s.part k).code none (ueFlt s.part k).detail

theorem ueNoted_keeps (s : State) (k : Nat) : s.keeps [.err, .mcs, .cores, .stks] (ueNoted s k) :=
  State.keeps_trans (State.keeps_mono (noteUe_keeps s k) (by simp)) (State.keeps_mono (event_keeps_none _ _ _ _) (by simp))

theorem zeroWord_mem (s : State) (a : Nat) : (zeroWord s a).mem = memPut 0 s.mem (a / 8 * 8) (zeros 8) :=
  congrArg (fun m => memPut 0 m (a / 8 * 8) (zeros 8)) (ueNoted_keeps s (a / 8 * 8) .mem (by simp))

theorem zeroWord_good (s : State) (a : Nat) : a / 8 * 8 ∉ (zeroWord s a).bad := by simp [zeroWord]

theorem zeroWord_ctxs (s : State) (a : Nat) : (zeroWord s a).ctxs = s.ctxs := ueNoted_keeps s (a / 8 * 8) .ctxs (by simp)

/-- A word of a Stockpile is counted there (R263). -/
theorem zeroWord_stock {a : Nat} {j : Fin 2} (h : target (a / 8 * 8) = .stock j) (s : State) :
    ((zeroWord s a).stks.get j).ueCnt = sat32 (s.stks.get j).ueCnt := by
  have hev : (zeroWord s a).stks = (noteUe s (a / 8 * 8)).stks := event_keeps_none _ _ _ _ .stks (by simp)
  rw [hev, noteUe, h]
  simp only [State.stks_onStk_self]

/-- The word reads zero. -/
theorem zeroWord_in (s : State) {a k : Nat} (h : a / 8 * 8 ≤ k) (h' : k < a / 8 * 8 + 8) :
    memGet 0 (zeroWord s a).mem k = 0 := by
  obtain ⟨i, rfl⟩ := Nat.exists_eq_add_of_le h
  have hlen : i < (zeros 8).length := by simp only [zeros, List.length_replicate]; omega
  rw [zeroWord_mem, memGet_memPut_in 0 s.mem (a / 8 * 8) (zeros 8) hlen, List.getD_eq_getElem _ _ hlen]
  exact List.getElem_replicate _

/-- Every other byte is as before. -/
theorem zeroWord_elsewhere (s : State) {a k : Nat} (h : k < a / 8 * 8 ∨ a / 8 * 8 + 8 ≤ k) :
    memGet 0 (zeroWord s a).mem k = memGet 0 s.mem k := by
  rw [zeroWord_mem]
  exact memGet_memPut_out 0 s.mem h

/-! ### The end of a DRAM pass (R248) -/

/-- A pass over a stack may have come to its end. -/
def McRegs.passed (m : McRegs) (passEnd : Bool) : McRegs :=
  { m with scrubPass := if passEnd then m.scrubPass + 1 else m.scrubPass }

/-- A clean word of a stack that works: the end of a pass is all that its controller counts. -/
theorem exec_dramScrub_clean {s : State} {k : StackId} {a : Nat} {p : PartId} (ha : target a = .dram p) (hk : s.mcReady k = true)
    (hs : stackOf s.part p a = k) (hp : absentAt s.part a = false) (hr : s.inReset p = false) (hb : s.bad = [])
    (raced passEnd : Bool) : ∃ u, exec (.dramScrub k a .clean raced passEnd) s = finish s u ∧
      u.mcs.get k = (s.mcs.get k).passed passEnd ∧ (∀ n, n ≠ k → u.mcs.get n = s.mcs.get n) ∧ s.keeps [.mcs] u := by
  have hex : exec (.dramScrub k a .clean raced passEnd) s =
      finish s (if passEnd then s.onMc k fun m => { m with scrubPass := m.scrubPass + 1 } else s) := by
    show execDramScrub k a .clean raced passEnd s = _
    simp [execDramScrub, ha, hk, hs, hp, hr, found_good hb]
  cases passEnd with
  | false => exact ⟨s, hex, rfl, fun _ _ => rfl, s.keeps_refl _⟩
  | true =>
    rw [if_pos rfl] at hex
    exact ⟨_, hex, State.mcs_onMc_self .., fun n hn => State.mcs_onMc_ne _ _ _ _ hn, onMc_keeps _ _ _⟩

/-! ### Calibration (R247) -/

theorem exec_calRequest_ready {s : State} {k : StackId} (h : s.mcReady k = true) :
    exec (.calRequest k) s = finish s (s.onMc k fun m => { m with calReq := true }) := by
  show execCalRequest k s = _
  simp only [execCalRequest, h, if_true]

theorem exec_calSlice_open {s : State} {k : StackId} (h : s.mcReady k = true) (hq : (s.mcs.get k).calReq = true)
    (hw : s.calWindow (partOfStack k) = true) (n : Fin 4) : exec (.calSlice k n) s = finish s (slice1 s k n) := by
  show execCalSlice k n s = _
  simp only [execCalSlice, h, hq, hw, Bool.and_self, if_true]

theorem exec_calForcedSlice_requested {s : State} {k : StackId} (h : s.mcReady k = true) (hq : (s.mcs.get k).calReq = true)
    (n : Fin 4) : exec (.calForcedSlice k n) s =
      finish s ((slice1 s k n).onMc k fun m => { m with calForced := sat32 m.calForced }) := by
  show execCalForcedSlice k n s = _
  simp only [execCalForcedSlice, h, hq, Bool.and_self, if_true]

/-- What a slice leaves of its round. -/
def McRegs.sliced (m : McRegs) (n : Fin 4) : McRegs :=
  let left := if m.calPend = 0 then BitVec.ofNat 4 n.1 else m.calPend - 1
  { m with calPend := left, calReq := decide (left ≠ 0) }

theorem slice1_mc (s : State) (k : StackId) (n : Fin 4) : (slice1 s k n).mcs.get k = (s.mcs.get k).sliced n :=
  State.mcs_onMc_self ..

theorem slice1_keeps (s : State) (k : StackId) (n : Fin 4) : s.keeps [.mcs] (slice1 s k n) := onMc_keeps s k _

/-- The end of a command leaves the controllers. -/
theorem State.Quiet.mc {s t : State} (h : s.Quiet t) (k : StackId) : t.mcs.get k = s.mcs.get k :=
  congrArg (fun v : Vector McRegs 8 => v.get k) (h.1 .mcs (by simp))

end Sys2Proof.Machine

open Sys2Proof Sys2Proof.Machine

/-- Settles O38: a scrub read is one case of what its word holds, and a slice is one update of its controller. -/
theorem scrubbersAndCalibration : Obligations.ScrubbersAndCalibration := by
  unfold Obligations.ScrubbersAndCalibration
  refine ⟨fun s i a ha hr hf hd hb => ?_, fun s j a ha hd ho => ?_, fun s k a p raced passEnd ha hk hs hp hr hb => ?_,
    fun s k hk => ⟨?_, fun n hq hw => ?_, fun n hq => ?_⟩⟩
  · obtain ⟨hself, hothers⟩ := scrubbed_core ha s ((scrubMoved s i a).sramOwner a)
    obtain ⟨t, ht, hkt, hqt⟩ := finish_keeps (old := s) (scrubbed_keeps ha s ((scrubMoved s i a).sramOwner a))
    rw [← sramScrub_single ha hr hf hd hb] at ht hself hothers hqt
    exact ⟨t, ht, (hqt.core i).trans hself, fun k hk => (hqt.core k).trans (hothers k hk), hkt⟩
  · obtain ⟨t, ht, hqt⟩ := finish_next s (zeroWord s a)
    have hbad : t.bad = (zeroWord s a).bad := hqt.1 .bad (by simp)
    have hstks : t.stks = (zeroWord s a).stks := hqt.1 .stks (by simp)
    rw [← sramScrub_unowned ha hd ho] at ht
    refine ⟨t, ht, fun k h h' => ?_, fun k h => ?_, ?_, (hqt.1 .ctxs (by simp)).trans (zeroWord_ctxs s a), fun h => ?_⟩
    · rw [hqt.mem, zeroWord_in s h h']
    · rw [hqt.mem, zeroWord_elsewhere s h]
    · rw [hbad]; exact zeroWord_good s a
    · rw [hstks, zeroWord_stock h]
  · obtain ⟨u, hex, hself, hothers, hku⟩ := exec_dramScrub_clean ha hk hs hp hr hb raced passEnd
    obtain ⟨t, ht, hkt, hqt⟩ := finish_keeps (old := s) hku
    exact ⟨t, hex.trans ht, (hqt.mc k).trans hself, fun n hn => (hqt.mc n).trans (hothers n hn), hkt⟩
  · obtain ⟨t, ht, hkt, hqt⟩ := finish_keeps (old := s) (onMc_keeps s k fun m => { m with calReq := true })
    exact ⟨t, (exec_calRequest_ready hk).trans ht, (hqt.mc k).trans (State.mcs_onMc_self ..),
      fun n hn => (hqt.mc n).trans (State.mcs_onMc_ne _ _ _ _ hn), hkt⟩
  · obtain ⟨t, ht, hkt, hqt⟩ := finish_keeps (old := s) (slice1_keeps s k n)
    have hmc : t.mcs.get k = (s.mcs.get k).sliced n := (hqt.mc k).trans (slice1_mc s k n)
    exact ⟨t, (exec_calSlice_open hk hq hw n).trans ht, by rw [hmc]; rfl, by rw [hmc]; rfl, by rw [hmc]; rfl, hkt⟩
  · obtain ⟨t, ht, hkt, hqt⟩ := finish_keeps (old := s) (State.keeps_trans (slice1_keeps s k n)
      (onMc_keeps _ k fun m => { m with calForced := sat32 m.calForced }))
    have hmc : t.mcs.get k = { (s.mcs.get k).sliced n with calForced := sat32 (s.mcs.get k).calForced } := by
      rw [hqt.mc k, State.mcs_onMc_self, slice1_mc]
      rfl
    exact ⟨t, (exec_calForcedSlice_requested hk hq n).trans ht, by rw [hmc], by rw [hmc]; rfl, hkt⟩
end

section
/-!
PROOFS. The record of the end of a partition reset can be lost: the aggregator's FIFO of a source has 8 entries (R354), and the
restore of the weights (R261) raises an event for each write that an uncorrectable word cuts (R529), before the end is recorded.
Where such a word lies behind the last address of DRAM, the events have the aggregator itself as their source, as the record of
the end has.
-/

namespace Sys2Proof.Machine

/-- The first address behind the DRAM of partition 3 (R234). -/
def dramEnd : Nat := 0x4000000000

/-- The base of region `j`: 8 bytes more before the end of DRAM than that of the region before it. -/
def edgeBase (j : Nat) : Nat := dramEnd - 8 * (j + 1)

/-- Its REGIONS entry: SHARED_RO, with a section and with its mirror in partition 0 (R448). -/
def edgeRegion (j : Nat) : Bytes := le 8 (edgeBase j) ++ zeros 9 ++ [1] ++ zeros 14

/-- Partition 3 in reset, with eight weight regions of context 0. Each mirror reaches one byte past the end of DRAM, into a word
that is uncorrectable. -/
def edgeReset : State :=
  { State.reset with
    img := [⟨0x20, 0, 0, 0, [], [0, 0, 8]⟩, ⟨0x21, 0, 0, 0, [], (List.range 8).flatMap edgeRegion⟩]
    fwp := State.reset.fwp.set 0 { ({} : FwpRegs) with state := .running }
    parts := State.reset.parts.set 3 { ({} : PartRt) with prt := { ({} : PartRt).prt with state := .resetting } }
    bad := [dramEnd]
    mirrors := (List.range 8).map fun j => (edgeBase j, zeros (8 * (j + 1) + 1)) }

/-- Every mirror is good, and no record waits. -/
theorem edgeReset_restores :
    edgeReset.inReset 3 = true ∧ (edgeReset.prt 3).prt.reload = false ∧ edgeReset.svpRuns = true ∧
      (edgeReset.weights 3).all (fun r => edgeReset.mirrorGood 3 r) = true ∧ edgeReset.err.fifo = [] := by decide +kernel

/-- Source and code of every stored record of the state in which a command ends, and how many records it has lost. -/
def recordsOf : Res → List (U16 × U16) × U32
  | .next t => (t.err.store.map fun x => (x.src, x.code), t.err.lost)
  | _ => ([], 0)

/-- The end of the reset leaves the eight cut writes in the record store, and one record is lost. -/
theorem edgeReset_records : recordsOf (exec (.partitionResetEnd 3 0) edgeReset) = (List.replicate 8 (srcAgg, cDramUe), 1) := by
  decide +kernel

end Sys2Proof.Machine

open Sys2Proof Sys2Proof.Machine

/-- Refutes O42: in `edgeReset` the eight cut writes of the restore fill the aggregator's FIFO, and PART_RESET_END is lost. -/
theorem not_partitionsReturnToService : ¬ Obligations.PartitionsReturnToService := by
  unfold Obligations.PartitionsReturnToService
  intro h
  obtain ⟨hreset, hreload, hsvp, hgood, hfifo⟩ := edgeReset_restores
  obtain ⟨hend, -⟩ := h.1 edgeReset 3 0
  obtain ⟨t, ht, -, -, hrec, -⟩ := hend hreset hreload hsvp hgood
  obtain ⟨x, hx, -, hcode⟩ := hrec hfifo
  have hstore : (t.err.store.map fun x => (x.src, x.code)) = List.replicate 8 (srcAgg, cDramUe) :=
    congrArg Prod.fst (ht ▸ edgeReset_records :)
  have hmem : (x.src, x.code) ∈ List.replicate 8 (srcAgg, cDramUe) := hstore ▸ List.mem_map_of_mem hx
  have hcode' : x.code = cDramUe := congrArg Prod.snd (List.eq_of_mem_replicate hmem)
  exact absurd (hcode.symm.trans hcode') (by decide)
end

section
/-!
PROOFS. What a read of sparse memory answers, and why its canonical form is unique (R234, log 6).
-/

namespace Sys2Proof.Machine

/-! ### Reading a range -/

/-- A scan of rising cells reads each address as the memory does. -/
theorem getD_memScan {d : Byte} {n a i : Nat} {m : List Host.Cell} (hm : m.Pairwise fun x y => x.1 < y.1)
    (ha : ∀ c ∈ m, a ≤ c.1) (hi : i < n) : (memScan d n a m).getD i 0 = memGet d m (a + i) := by
  induction n generalizing a i m with
  | zero => omega
  | succ n ih =>
    have hstep (j : Nat) : a + (j + 1) = a + 1 + j := by omega
    cases m with
    | nil =>
      cases i with
      | zero => rfl
      | succ i =>
        rw [hstep]
        simpa [memScan] using ih (m := []) .nil (by simp) (by omega : i < n)
    | cons c m =>
      obtain ⟨k, v⟩ := c
      obtain ⟨hk, hm'⟩ := List.pairwise_cons.1 hm
      have hka : a ≤ k := ha (k, v) List.mem_cons_self
      by_cases he : k = a
      · subst he
        cases i with
        | zero => simp [memScan, memGet]
        | succ i =>
          have hne : k ≠ k + 1 + i := by omega
          rw [hstep]
          simpa [memScan, memGet, hne] using ih hm' (fun c hc => hk c hc) (by omega : i < n)
      · cases i with
        | zero =>
          have habs : memGet d ((k, v) :: m) a = d := memGet_absent fun c hc => by
            rcases List.mem_cons.1 hc with rfl | hc
            · exact he
            · have := hk c hc
              simp only at this
              omega
          simp [memScan, he, habs]
        | succ i =>
          have hge : ∀ c ∈ (k, v) :: m, a + 1 ≤ c.1 := fun c hc => by
            rcases List.mem_cons.1 hc with rfl | hc
            · simp only; omega
            · have := hk c hc
              simp only at this
              omega
          rw [hstep]
          simpa [memScan, he] using ih hm hge (by omega : i < n)

/-- A read answers what its addresses read as. -/
theorem getD_memRead {d : Byte} {m : List Host.Cell} (h : memWf d m) (a : Nat) {n i : Nat} (hi : i < n) :
    (memRead d m a n).getD i 0 = memGet d m (a + i) := by
  have hscan := getD_memScan (d := d) (h.1.filter fun c => decide (a ≤ c.1) && decide (c.1 < a + n))
    (fun c hc => (by simpa using (List.mem_filter.1 hc).2 : a ≤ c.1 ∧ c.1 < a + n).1) hi
  exact hscan.trans (memGet_filter fun v => by simp [hi])

/-! ### The canonical form is unique -/

/-- Below its first cell a memory in canonical form reads as the default. -/
theorem memGet_below {d : Byte} {c : Host.Cell} {m : List Host.Cell} (h : memWf d (c :: m)) {a : Nat} (ha : a < c.1) :
    memGet d (c :: m) a = d := by
  refine memGet_absent fun x hx => ?_
  rcases List.mem_cons.1 hx with rfl | hx
  · omega
  · have := (List.pairwise_cons.1 h.1).1 x hx
    omega

/-- At its first cell a memory in canonical form does not read as the default. -/
theorem memGet_first {d : Byte} {c : Host.Cell} {m : List Host.Cell} (h : memWf d (c :: m)) : memGet d (c :: m) c.1 ≠ d := by
  simpa [memGet] using h.2 c List.mem_cons_self

theorem memWf_tail {d : Byte} {c : Host.Cell} {m : List Host.Cell} (h : memWf d (c :: m)) : memWf d m :=
  ⟨(List.pairwise_cons.1 h.1).2, fun x hx => h.2 x (List.mem_cons_of_mem _ hx)⟩

/-- Behind its first cell a memory reads as its other cells do, and they do not hold that cell's address. -/
theorem memGet_tail {d : Byte} {c : Host.Cell} {m : List Host.Cell} (h : memWf d (c :: m)) (a : Nat) :
    memGet d m a = if c.1 = a then d else memGet d (c :: m) a := by
  split
  next e =>
    refine memGet_absent fun x hx => ?_
    have := (List.pairwise_cons.1 h.1).1 x hx
    omega
  next e => obtain ⟨k, v⟩ := c; exact (if_neg e).symm

/-- Memories in canonical form that read alike are equal. -/
theorem memWf_ext {d : Byte} {m m' : List Host.Cell} (h : memWf d m) (h' : memWf d m')
    (he : ∀ k, memGet d m' k = memGet d m k) : m' = m := by
  induction m generalizing m' with
  | nil =>
    cases m' with
    | nil => rfl
    | cons c' r' => exact absurd (he c'.1) (memGet_first h')
  | cons c r ih =>
    cases m' with
    | nil => exact absurd (he c.1).symm (memGet_first h)
    | cons c' r' =>
      have hkey : c'.1 = c.1 := by
        rcases Nat.lt_trichotomy c'.1 c.1 with hlt | heq | hgt
        · exact absurd ((he c'.1).trans (memGet_below h hlt)) (memGet_first h')
        · exact heq
        · exact absurd ((he c.1).symm.trans (memGet_below h' hgt)) (memGet_first h)
      have hval : c'.2 = c.2 := by simpa [memGet, hkey] using he c.1
      have htail : r' = r := ih (memWf_tail h) (memWf_tail h') fun k => by
        rw [memGet_tail h, memGet_tail h', hkey, he]
      rw [htail, Prod.ext hkey hval]

end Sys2Proof.Machine

open Sys2Proof Sys2Proof.Machine

/-- Settles O58, from what is read after a write and after an erasure, by a scan of rising cells, and by induction over the
cells of the two memories. -/
theorem memoryKeepsItsCanonicalForm : Obligations.MemoryKeepsItsCanonicalForm := by
  unfold Obligations.MemoryKeepsItsCanonicalForm
  intro d m h
  refine ⟨fun a b => ⟨memPut_wf h a b, fun i hi => ?_, fun k hk => memGet_memPut_out d m hk⟩,
    fun a n => ⟨memErase_wf h a n, fun k h1 h2 => memGet_memErase_in d m h1 h2, fun k hk => memGet_memErase_out d m hk⟩,
    fun a n i hi => getD_memRead h a hi, fun m' h' he => memWf_ext h h' he⟩
  rw [memGet_memPut_in d m a b hi, List.getD_eq_getElem _ _ hi, List.getD_eq_getElem _ _ hi]
end

section
/-!
PROOFS. The mailbox commands that end at once: how one reaches its answer, what FENCE_CLEAR leaves in the log (R367, R458), and
which cores and stacks SELFTEST_REQ and CAL_REQ name (R247, R350).
-/

namespace Sys2Proof.Machine

/-! ### A command that ends at once (R501) -/

/-- A mailbox command that is served and not pending shows its answer, and its frame is that of what it does beside the host
port. -/
theorem exec_served {c : Instr} {op k : Nat} {tag : U16} {a r : Bytes} {s u : State} {l : List Kind}
    (hc : mboxOf c = some (op, tag, a)) (hs : s.serves op a) (ho : op < 256) (h1 : op ≠ 0x11) (h2 : op ≠ 0x36)
    (ha : mbAnswer op (s.written tag op a) a = (u, k, r)) (hk : k ≠ mbPending) (hkeep : (s.written tag op a).keeps l u)
    (hl : Kind.hst ∈ l) :
    ∃ t, exec c s = .next t ∧ t.answered tag k r ∧ s.keeps l t ∧ u.keeps [.hst] t ∧
      finish s (mboxDone u tag op k r) = .next t := by
  have ⟨_, _, _, _, _, href⟩ := hs
  have hr : (s.written tag op a).mbRefusal op a = none := (mbRefusal_written s tag op a).trans href
  have hdone := mboxDone_keeps u tag op k r
  obtain ⟨t, ht, hkt, hqt⟩ := finish_keeps (old := s) hdone
  refine ⟨t, ?_, hqt.answered (mboxDone_answered u tag op k r), ?_, hkt, ht⟩
  · rw [exec_mbox hc, submit_of_serves hs ho, serve_done hr h1 h2 ha hk, ht]
  · exact State.keeps_trans (State.keeps_mono (written_keeps s tag op a) (by simpa using hl))
      (State.keeps_trans hkeep (State.keeps_mono hkt (by simpa using hl)))

/-- Repeating one update over a list of units updates those of the list once, where the update is idempotent. -/
theorem foldl_update_get {ι α : Type} [DecidableEq ι] {upd : State → ι → State} {get : State → ι → α} {f : α → α}
    (hself : ∀ s i, get (upd s i) i = f (get s i)) (hne : ∀ s i j, j ≠ i → get (upd s i) j = get s j)
    (hf : ∀ x, f (f x) = f x) (l : List ι) (s : State) (k : ι) :
    get (l.foldl upd s) k = if k ∈ l then f (get s k) else get s k := by
  induction l generalizing s with
  | nil => simp
  | cons i l ih =>
    rw [List.foldl_cons, ih]
    by_cases h : k = i
    · subst h
      simp [hself, hf]
    · simp [hne _ _ _ h, h]

/-! ### The log (R458) -/

/-- The log banks, and the records that wait for the record store. -/
def State.logAndFifo (s : State) : Vector LogBank 2 × List ErrRec := (s.boot.logs, s.err.fifo)

theorem msixSignal_logAndFifo (s : State) (v : Fin 64) : (msixSignal s v).logAndFifo = s.logAndFifo := by
  unfold msixSignal; simp only; split <;> rfl

theorem ringWrite_logAndFifo (s : State) (r : Fin 17) (b : Bytes) : (ringWrite s r b).logAndFifo = s.logAndFifo := by
  have hdrop : (ringDrop s r).logAndFifo = s.logAndFifo := by
    unfold ringDrop; split <;> rfl
  have hdata : (ringData s r b).logAndFifo = s.logAndFifo := by
    unfold ringData; simp only; split <;> rfl
  have hsignal (u : State) : (ringSignal u r).logAndFifo = u.logAndFifo := by
    unfold ringSignal
    simp only
    split
    · exact msixSignal_logAndFifo _ _
    · rfl
  unfold ringWrite
  simp only
  split
  · exact hdrop
  · exact (hsignal _).trans hdata

/-- The answer of a command leaves the log and the records that wait. -/
theorem mboxDone_logAndFifo (s : State) (tag : U16) (op k : Nat) (r : Bytes) :
    (mboxDone s tag op k r).logAndFifo = s.logAndFifo :=
  (ringWrite_logAndFifo _ 16 _).trans (msixSignal_logAndFifo _ 17)

/-- Where no record waits, the end of a command leaves the log. -/
theorem finish_logs {old s t : State} (h : finish old s = .next t) (hf : s.err.fifo = []) : t.boot.logs = s.boot.logs := by
  have hdrain : (drainRecords s).boot.logs = s.boot.logs := by simp only [drainRecords, hf, List.foldl_nil, State.boot_onErr]
  have htrack (u : State) : (trackRun u).boot.logs = u.boot.logs := by unfold trackRun; split <;> rfl
  have hdrive (u : State) : (drivePins old u).boot.logs = u.boot.logs := by
    unfold drivePins
    simp only
    split
    · exact congrArg Prod.fst (msixSignal_logAndFifo _ 18)
    · rfl
  cases h
  exact (hdrive _).trans ((htrack _).trans hdrain)

/-- Type and payload of the newest entry of the active log bank. -/
def State.lastLogged (s : State) : Option (U16 × Bytes) :=
  ((s.boot.logs.get (activeLog s)).entries.getLast?).map fun e => (e.ty, e.payload)

theorem activeLog_congr {s t : State} (h : ∀ i, (t.boot.logs.get i).gen = (s.boot.logs.get i).gen) :
    activeLog t = activeLog s := by
  simp only [activeLog, h]

theorem lastLogged_congr {s t : State} (h : t.boot.logs = s.boot.logs) : t.lastLogged = s.lastLogged := by
  simp only [State.lastLogged, activeLog_congr (s := s) (t := t) fun i => by rw [h], h]

/-- An entry at the end of the active bank. -/
def logPut (s : State) (e : LogEntry) : State :=
  let b := s.boot.logs.get (activeLog s)
  s.onBoot fun x => { x with logs := x.logs.set (activeLog s).1 { b with entries := b.entries ++ [e] } }

theorem logPut_last (s : State) (e : LogEntry) : (logPut s e).lastLogged = some (e.ty, e.payload) := by
  have hget : (logPut s e).boot.logs.get (activeLog s) =
      { s.boot.logs.get (activeLog s) with entries := (s.boot.logs.get (activeLog s)).entries ++ [e] } :=
    vget_set_self _ _ _ (activeLog s).2
  have hactive : activeLog (logPut s e) = activeLog s := activeLog_congr fun i => by
    by_cases hi : i = activeLog s
    · rw [hi, hget]
    · exact congrArg LogBank.gen (vget_set_ne _ _ _ _ (activeLog s).2 hi)
  simp [State.lastLogged, hactive, hget]

/-- What is appended to the log is its newest entry, compaction or not. -/
theorem logAppend_last (s : State) (ty : Nat) (p : Bytes) : (logAppend s ty p).lastLogged = some (BitVec.ofNat 16 ty, p) :=
  logPut_last (if logCap < logUsed (s.boot.logs.get (activeLog s)) + logEntryLen ⟨BitVec.ofNat 16 ty, nextLogSeq s, p⟩
    then compactLog s else s) ⟨BitVec.ofNat 16 ty, nextLogSeq s, p⟩

theorem logAppend_fifo (s : State) (ty : Nat) (p : Bytes) : (logAppend s ty p).err.fifo = s.err.fifo := by
  unfold logAppend; simp only; split <;> rfl

/-! ### What the commands answer -/

/-- FENCE_CLEAR of fenced cores (R367). -/
theorem mbFenceClear_ok {s : State} {a : Bytes}
    (h : ∀ i, i < 16 → (fld a 0 2).testBit i = true → s.fencedMask.testBit i = true) :
    mbFenceClear s a = (logAppend s 7 (le 2 (fld a 0 2)), mbOk, []) := by
  have hany : ((List.range 16).any fun i => (fld a 0 2).testBit i && !s.fencedMask.testBit i) = false := by
    rw [List.any_eq_false]
    intro i hi
    have := h i (List.mem_range.1 hi)
    simpa using this
  simp only [mbFenceClear, hany, ans]
  rfl

/-- A core is asked for a self-test. -/
def CoreRt.asked (x : CoreRt) : CoreRt := { x with lst := { x.lst with req := true } }

/-- The cores that a mask names are asked for a self-test. -/
def askCores (s : State) (m : Nat) : State :=
  ((allFin 12).filter fun i => m.testBit i.1).foldl (fun s i => s.onCore i CoreRt.asked) s

theorem askCores_keeps (s : State) (m : Nat) : s.keeps [.cores] (askCores s m) :=
  foldl_keeps _ (fun s i => onCore_keeps s i _) _ s

theorem askCores_core (s : State) (m : Nat) (i : CoreId) : (askCores s m).core i =
    { s.core i with lst := { (s.core i).lst with req := (s.core i).lst.req || m.testBit i.1 } } := by
  have h := foldl_update_get (upd := fun s i => s.onCore i CoreRt.asked) (get := State.core) (f := CoreRt.asked)
    (fun s i => State.core_onCore_self s i _) (fun s i j hj => State.core_onCore_ne s i j _ hj) (fun _ => rfl)
    ((allFin 12).filter fun i => m.testBit i.1) s i
  refine h.trans ?_
  cases hm : m.testBit i.1 with
  | true => simp [hm, allFin, CoreRt.asked]
  | false => simp [hm]

/-- SELFTEST_REQ of cores that are not fenced (R350). -/
theorem mbSelftest_ok {s : State} {a : Bytes}
    (h : ∀ i, i < 16 → (fld a 0 2).testBit i = true → i < 12 ∧ s.fencedMask.testBit i = false) :
    mbSelftest s a = (askCores s (fld a 0 2), mbOk, []) := by
  have hany : ((List.range 16).any fun i => (fld a 0 2).testBit i && (decide (12 ≤ i) || s.fencedMask.testBit i)) = false := by
    rw [List.any_eq_false]
    intro i hi
    have := h i (List.mem_range.1 hi)
    simpa using this
  simp only [mbSelftest, hany, ans]
  rfl

/-- A calibration of a stack is queued. -/
def McRegs.asked (m : McRegs) : McRegs := { m with calReq := true }

/-- A calibration of the named stacks that are ON is queued. -/
def askStacks (s : State) (m : Nat) : State :=
  (((allFin 8).filter fun k => m.testBit k.1).filter fun k => !s.domIsDown (0x28 + k.1)).foldl
    (fun s k => s.onMc k McRegs.asked) s

theorem askStacks_keeps (s : State) (m : Nat) : s.keeps [.mcs] (askStacks s m) :=
  foldl_keeps _ (fun s k => onMc_keeps s k _) _ s

theorem askStacks_mc (s : State) (m : Nat) (k : StackId) : (askStacks s m).mcs.get k =
    { s.mcs.get k with calReq := (s.mcs.get k).calReq || (m.testBit k.1 && !s.domIsDown (0x28 + k.1)) } := by
  have h := foldl_update_get (upd := fun s k => s.onMc k McRegs.asked) (get := fun s k => s.mcs.get k) (f := McRegs.asked)
    (fun s k => State.mcs_onMc_self s k _) (fun s k j hj => State.mcs_onMc_ne s k j _ hj) (fun _ => rfl)
    (((allFin 8).filter fun k => m.testBit k.1).filter fun k => !s.domIsDown (0x28 + k.1)) s k
  refine h.trans ?_
  cases hm : m.testBit k.1 && !s.domIsDown (0x28 + k.1) with
  | true =>
    rw [Bool.and_eq_true] at hm
    simp [hm, allFin, McRegs.asked]
  | false =>
    have hno : ¬ k ∈ ((allFin 8).filter fun k => m.testBit k.1).filter fun k => !s.domIsDown (0x28 + k.1) := by
      rw [List.mem_filter, List.mem_filter]
      rintro ⟨⟨-, h1⟩, h2⟩
      rw [h1, h2] at hm
      cases hm
    rw [if_neg hno, Bool.or_false]

/-- CAL_REQ of stacks that are present (R247). -/
theorem mbCal_ok {s : State} {a : Bytes} (h : ∀ k : StackId, (byteAt a 0).testBit k.1 = true → stackPresent s.part k = true) :
    mbCal s a = (askStacks s (byteAt a 0), mbOk, []) := by
  have hany : (((allFin 8).filter fun k : Fin 8 => (byteAt a 0).testBit k.1).any fun k => !stackPresent s.part k) = false := by
    rw [List.any_eq_false]
    intro k hk
    simp [h k (List.mem_filter.1 hk).2]
  simp only [mbCal, hany, ans]
  rfl

end Sys2Proof.Machine

open Sys2Proof Sys2Proof.Machine

/-- Settles O25: each command is served at once; its entry is the newest of the log, or it is one update of each unit that it
names. -/
theorem maintenanceCommandsTakeEffect : Obligations.MaintenanceCommandsTakeEffect := by
  unfold Obligations.MaintenanceCommandsTakeEffect
  refine fun s tag a => ⟨fun hs hm hfifo => ?_, fun hs hm => ?_, fun hs hm => ?_⟩
  · have hlog := logAppend_quiet (s.written tag 0x18 a) 7 (le 2 (fld a 0 2))
    obtain ⟨t, ht, hans, hkt, -, hfin⟩ := exec_served (c := .fenceClear tag a) rfl hs (by decide) (by decide) (by decide)
      (mbFenceClear_ok (s := s.written tag 0x18 a) hm) (by decide) (State.keeps_mono (m := [.hst]) hlog.1 (by simp)) (by simp)
    have hdone := mboxDone_logAndFifo (logAppend (s.written tag 0x18 a) 7 (le 2 (fld a 0 2))) tag 0x18 mbOk []
    have hno : (mboxDone (logAppend (s.written tag 0x18 a) 7 (le 2 (fld a 0 2))) tag 0x18 mbOk []).err.fifo = [] :=
      (congrArg Prod.snd hdone).trans ((logAppend_fifo _ _ _).trans hfifo)
    have hlogs : t.boot.logs = (logAppend (s.written tag 0x18 a) 7 (le 2 (fld a 0 2))).boot.logs :=
      (finish_logs hfin hno).trans (congrArg Prod.fst hdone)
    exact ⟨t, ht, hans, (lastLogged_congr hlogs).trans (logAppend_last _ 7 _), hkt⟩
  · obtain ⟨t, ht, hans, hkt, hut, -⟩ := exec_served (c := .selftestReq tag a) rfl hs (by decide) (by decide) (by decide)
      (mbSelftest_ok (s := s.written tag 0x19 a) hm) (by decide)
      (State.keeps_mono (m := [.hst, .cores]) (askCores_keeps _ _) (by simp)) (by simp)
    have hcores : t.cores = (askCores (s.written tag 0x19 a) (fld a 0 2)).cores := hut .cores (by simp)
    exact ⟨t, ht, hans, fun i => (congrArg (fun v : Vector CoreRt 12 => v.get i) hcores).trans (askCores_core _ _ i), hkt⟩
  · obtain ⟨t, ht, hans, hkt, hut, -⟩ := exec_served (c := .calReq tag a) rfl hs (by decide) (by decide) (by decide)
      (mbCal_ok (s := s.written tag 0x1A a) hm) (by decide)
      (State.keeps_mono (m := [.hst, .mcs]) (askStacks_keeps _ _) (by simp)) (by simp)
    have hmcs : t.mcs = (askStacks (s.written tag 0x1A a) (byteAt a 0)).mcs := hut .mcs (by simp)
    exact ⟨t, ht, hans, fun k => (congrArg (fun v : Vector McRegs 8 => v.get k) hmcs).trans (askStacks_mc _ _ k), hkt⟩
end

section
/-!
PROOFS. The mailbox commands of the power block and of the I/O dies: what a domain keeps where the host sends it to RET or OFF or
brings it ON (R475 to R477), and the registers that WAKE_MODE, POWER_CAP and CLR_STAT write (R263, R478, R481).
-/

namespace Sys2Proof.Machine

/-! ### What a domain loses (R475) -/

theorem State.keeps_ite {s u v : State} {l : List Kind} {p : Prop} [Decidable p] (hu : s.keeps l u) (hv : s.keeps l v) :
    s.keeps l (if p then u else v) := by
  split
  · exact hu
  · exact hv

theorem onStk_keeps (s : State) (j : Fin 2) (f : StkRegs → StkRegs) : s.keeps [.stks] (s.onStk j f) := fun k hk => by
  cases k
  case stks => simp at hk
  all_goals rfl

theorem dropWindow_keeps (s : State) (a n : Nat) : s.keeps [.mem, .bad, .lineOwner] (dropWindow s a n) := fun k hk => by
  cases k
  case mem | bad | lineOwner => simp at hk
  all_goals rfl

theorem dropStack_keeps (s : State) (k : StackId) : s.keeps [.mem, .bad] (dropStack s k) := fun k hk => by
  cases k
  case mem | bad => simp at hk
  all_goals rfl

theorem dropSlots_keeps (s : State) (d : DieId) (p : StreamProf → Bool) : s.keeps [.io] (dropSlots s d p) := onDie_keeps s d _

theorem camDown_keeps (s : State) (d : DieId) (g : Fin 2) : s.keeps [.io] (camDown s d g) :=
  State.keeps_trans (onDie_keeps s d _) (dropSlots_keeps _ d _)

/-- The units whose contents some domain holds. -/
def domKinds : List Kind := [.cores, .mem, .bad, .lineOwner, .stks, .mcs, .io, .hst, .rng]

/-- A domain that enters RET or OFF loses what units hold, and no more. -/
theorem domLose_keeps (s : State) (n : Nat) (ret : Bool) : s.keeps domKinds (domLose s n ret) := by
  unfold domLose
  split
  case h_1 i _ => exact State.keeps_mono (onCore_keeps s i _) (by decide)
  case h_2 i _ =>
    have h := State.keeps_mono (m := domKinds) (onCore_keeps s i fun x => { x with ldgCe := 0, ldgUe := 0 }) (by decide)
    exact State.keeps_ite h (State.keeps_trans h (State.keeps_mono (dropWindow_keeps _ _ _) (by decide)))
  case h_3 j _ =>
    have h := State.keeps_mono (m := domKinds) (onStk_keeps s j fun _ => {}) (by decide)
    exact State.keeps_ite h (State.keeps_trans h (State.keeps_mono (dropWindow_keeps _ _ _) (by decide)))
  case h_4 k _ =>
    have h (f : McRegs → McRegs) : s.keeps domKinds (s.onMc k f) := State.keeps_mono (onMc_keeps s k f) (by decide)
    exact State.keeps_ite (h _) (State.keeps_trans (h _) (State.keeps_mono (dropStack_keeps _ _) (by decide)))
  case h_5 d g _ => exact State.keeps_ite (s.keeps_refl _) (State.keeps_mono (camDown_keeps s d g) (by decide))
  case h_6 d _ =>
    exact State.keeps_ite (s.keeps_refl _)
      (State.keeps_mono (State.keeps_trans (onDie_keeps s d _) (dropSlots_keeps _ d _)) (by decide))
  case h_7 d _ => exact State.keeps_ite (s.keeps_refl _) (State.keeps_mono (onDie_keeps s d _) (by decide))
  case h_8 =>
    exact State.keeps_ite (s.keeps_refl _)
      (State.keeps_mono (State.keeps_trans (s.keeps_onHst _) (State.keeps_onHst _ _)) (by decide))
  case h_9 p _ => exact State.keeps_ite (s.keeps_refl _) (State.keeps_mono (onPort_keeps s p _) (by decide))
  all_goals exact s.keeps_refl _

/-- In RET no byte is lost. -/
theorem domLose_ret_mem (s : State) (n : Nat) : (domLose s n true).mem = s.mem := by
  unfold domLose; split <;> rfl

/-! ### PWR_DOMAIN (R476, R477) -/

/-- A domain that no refusal meets has an ID, and leaves ON only while WAKE_N is high. -/
theorem domRefusal_none {s : State} {n st : Nat} (h : s.domRefusal n st = none) :
    n < 64 ∧ st ≤ 2 ∧ (st ≠ 2 → s.pins.wakeN = true) := by
  unfold State.domRefusal at h
  split at h
  · cases h
  · next hbad =>
    split at h
    · cases h
    · split at h
      · cases h
      · next hwake =>
        refine ⟨by omega, by omega, fun hst => ?_⟩
        simpa [hst] using hwake

/-- From `s` to `t` one domain took the state that the host asks for. -/
structure State.DomAsked (s t : State) (n st : Nat) : Prop where
  keeps : s.keeps (.pwr :: domKinds) t
  hostReq : (t.dom n).hostReq = true
  off : st = 0 → (t.dom n).state = .off
  ret : st = 1 → (t.dom n).state = .ret
  on : st = 2 → t.domIsDown n = false
  others : ∀ m, m ≠ n → t.dom m = s.dom m
  mem : st ≠ 0 → t.mem = s.mem

/-- While WAKE_N is high a domain stays in the state that it enters (R477, R478). -/
theorem enterDom_stays {s : State} {n : Nat} (hw : s.pins.wakeN = true) (ret host : Bool) :
    enterDom s n ret host = domDown s n ret host := by
  have hpins : (domDown s n ret host).pins.still = s.pins.still :=
    (onDom_keeps _ n _ .pins (by simp)).trans (domLose_keeps s n ret .pins (by decide))
  have hwake : (domDown s n ret host).pins.wakeN = true := (congrArg Pins.wakeN hpins :).trans hw
  simp only [enterDom, hwake, if_true]

/-- RET and OFF. -/
theorem domDown_asked {s : State} {n st : Nat} (hn : n < 64) (hst : st < 2) :
    s.DomAsked (domDown s n (decide (st = 1)) true) n st := by
  have hlose := domLose_keeps s n (decide (st = 1))
  have hdom : (domDown s n (decide (st = 1)) true).dom n =
      { (domLose s n (decide (st = 1))).dom n with state := if decide (st = 1) then .ret else .off, hostReq := true } :=
    dom_onDom_self _ _ hn
  refine ⟨?_, by rw [hdom], fun h => by rw [hdom]; simp [h], fun h => by rw [hdom]; simp [h],
    fun h => by omega, fun m hm => ?_, fun h => ?_⟩
  · exact State.keeps_trans (State.keeps_mono hlose fun k hk => List.mem_cons_of_mem _ hk)
      (State.keeps_mono (onDom_keeps _ n _) (by simp))
  · exact (dom_onDom_ne _ _ hm).trans (dom_congr (hlose .pwr (by decide)) m)
  · have h1 : st = 1 := by omega
    subst h1
    exact (onDom_keeps _ n _ .mem (by simp)).trans (domLose_ret_mem s n)

/-- A domain is live, or it is powered now. -/
def domOn (s : State) (n : Nat) : State := if s.domLive n then s else domUp s n 7 s.pwr.pll

theorem domOn_keeps (s : State) (n : Nat) : s.keeps [.pwr, .mcs] (domOn s n) :=
  State.keeps_ite (s.keeps_refl _) (domUp_keeps _ _ _ _)

/-- A live domain is neither in RET nor in OFF. -/
theorem domIsDown_of_live {s : State} {n : Nat} (h : s.domLive n = true) : s.domIsDown n = false := by
  simp only [State.domLive, Bool.or_eq_true, Bool.and_eq_true, decide_eq_true_eq] at h
  rcases h with h | h <;> simp [State.domIsDown, h]

theorem domOn_up (s : State) {n : Nat} (hn : n < 64) : (domOn s n).domIsDown n = false := by
  refine domIsDown_of_live ?_
  unfold domOn
  split
  · assumption
  · rw [domUp_live s 7 hn n, if_pos rfl]

theorem domOn_ne (s : State) {n m : Nat} (h : m ≠ n) : (domOn s n).dom m = s.dom m := by
  unfold domOn
  split
  · rfl
  · rw [domUp_eq, dom_onDom_ne _ _ h, dom_congr (domTrained_keeps s n .pwr (by simp))]

/-- ON. -/
theorem domOn_asked (s : State) {n : Nat} (hn : n < 64) :
    s.DomAsked ((domOn s n).onDom n fun d => { d with hostReq := true }) n 2 := by
  have hdom := dom_onDom_self (domOn s n) (fun d => { d with hostReq := true }) hn
  refine ⟨?_, by rw [hdom], fun h => by omega, fun h => by omega, fun _ => ?_, fun m hm => ?_, fun _ => ?_⟩
  · exact State.keeps_trans (State.keeps_mono (domOn_keeps s n) (by decide)) (State.keeps_mono (onDom_keeps _ n _) (by simp))
  · have hup := domOn_up s hn
    simp only [State.domIsDown, hdom] at hup ⊢
    exact hup
  · exact (dom_onDom_ne _ _ hm).trans (domOn_ne s hm)
  · exact (onDom_keeps _ n _ .mem (by simp)).trans (domOn_keeps s n .mem (by simp))

/-- A request that is not refused takes effect. -/
theorem domRequest_asked {s : State} {n st : Nat} (h : s.domRefusal n st = none) : s.DomAsked (domRequest s n st) n st := by
  obtain ⟨hn, hst, hw⟩ := domRefusal_none h
  by_cases h2 : st = 2
  · subst h2
    exact domOn_asked s hn
  · rw [domRequest, if_neg h2, enterDom_stays (hw h2)]
    exact domDown_asked hn (by omega)

theorem mbPwrDomain_ok {s : State} {a : Bytes} (h : s.domRefusal (byteAt a 0) (byteAt a 1) = none) (hp : s.pwpRuns = true) :
    mbPwrDomain s a = (domRequest s (byteAt a 0) (byteAt a 1), mbOk, []) := by
  simp only [mbPwrDomain, h, hp, if_true, ans]

theorem domRefusal_written (s : State) (tag : U16) (op : Nat) (a : Bytes) (n st : Nat) :
    (s.written tag op a).domRefusal n st = s.domRefusal n st := rfl

/-! ### WAKE_MODE, POWER_CAP and CLR_STAT (R263, R478, R481) -/

/-- The wake registers that WAKE_MODE writes. -/
def IoDie.wakeSet (x : IoDie) (a : Bytes) : IoDie :=
  { x with wakePattern := decide (byteAt a 1 = 1), mask := BitVec.ofNat 64 (fld a 8 8), pattern := slice a 16 64 }

theorem mbWakeMode_ok {s : State} {a : Bytes} {d : DieId} (ha : byteAt a 0 = d.1) (hb : byteAt a 1 ≤ 1)
    (hp : diePresent s.part d = true) : mbWakeMode s a = (s.onDie d fun x => x.wakeSet a, mbOk, []) := by
  have hd : (⟨byteAt a 0 % 2, Nat.mod_lt _ (by decide)⟩ : DieId) = d := Fin.ext (by simp only [ha]; omega)
  have ha' : ¬ 1 < byteAt a 0 := by omega
  have hb' : ¬ 1 < byteAt a 1 := by omega
  simp only [mbWakeMode, hd, ha', hb', hp, ans]
  rfl

theorem mbPowerCap_ok {s : State} {a : Bytes} (h : 600 ≤ fld a 0 2) (h' : fld a 0 2 ≤ maxPower s.part) :
    mbPowerCap s a = (s.onPwr fun p => { p with cap := some (BitVec.ofNat 16 (fld a 0 2)) }, mbOk, []) := by
  have h0 : ¬ fld a 0 2 = 0 := by omega
  have h1 : ¬ (fld a 0 2 < 600 ∨ maxPower s.part < fld a 0 2) := by omega
  simp only [mbPowerCap, h0, h1, if_false, ans]

theorem onPwr_keeps (s : State) (f : PwrRegs → PwrRegs) : s.keeps [.pwr] (s.onPwr f) := fun k hk => by
  cases k
  case pwr => simp at hk
  all_goals rfl

/-- The high-water mark of an ingress FIFO starts anew. -/
def IoDie.lowered (x : IoDie) : IoDie := { x with hiwater := 0 }

/-- The high-water marks of the named dies start anew. -/
def clearMarks (s : State) (m : Nat) : State :=
  ((allFin 2).filter fun d => m.testBit d.1).foldl (fun s d => s.onDie d IoDie.lowered) s

theorem clearMarks_keeps (s : State) (m : Nat) : s.keeps [.io] (clearMarks s m) :=
  foldl_keeps _ (fun s d => onDie_keeps s d _) _ s

theorem clearMarks_die (s : State) (m : Nat) (d : DieId) :
    (clearMarks s m).die d = if m.testBit d.1 then { s.die d with hiwater := 0 } else s.die d := by
  have h := foldl_update_get (upd := fun s d => s.onDie d IoDie.lowered) (get := State.die) (f := IoDie.lowered)
    (fun s d => State.die_onDie_self s d _) (fun s d j hj => State.die_onDie_ne s d j _ hj) (fun _ => rfl)
    ((allFin 2).filter fun d => m.testBit d.1) s d
  refine h.trans ?_
  simp [allFin, IoDie.lowered]

theorem mbClrStat_ok {s : State} {a : Bytes} (h : byteAt a 0 ≤ 3)
    (h' : (byteAt a 0).testBit 1 = true → diePresent s.part 1 = true) :
    mbClrStat s a = (clearMarks s (byteAt a 0), mbOk, []) := by
  have hno : ¬ (3 < byteAt a 0 ∨ ((byteAt a 0).testBit 1 = true ∧ (!diePresent s.part 1) = true)) := by
    rintro (hlt | ⟨hbit, habs⟩)
    · omega
    · rw [h' hbit] at habs
      cases habs
  simp only [mbClrStat, hno, if_false, ans]
  rfl

end Sys2Proof.Machine

open Sys2Proof Sys2Proof.Machine

/-- Settles O26: each command is served at once, and what it asks for is one update of a domain, a die or the power block. -/
theorem powerAndIoCommandsTakeEffect : Obligations.PowerAndIoCommandsTakeEffect := by
  unfold Obligations.PowerAndIoCommandsTakeEffect
  refine fun s tag a => ⟨fun hs hr hp => ?_, fun d hs ha hb hd => ?_, fun hs hlo hhi => ?_, fun hs hm hd => ?_⟩
  · have hask := domRequest_asked (s := s.written tag 0x20 a) ((domRefusal_written s tag 0x20 a _ _).trans hr)
    obtain ⟨t, ht, hans, hkt, hut, -⟩ := exec_served (c := .pwrDomain tag a) rfl hs (by decide) (by decide) (by decide)
      (mbPwrDomain_ok (s := s.written tag 0x20 a) hr hp) (by decide) hask.keeps (by decide)
    have hdom (n : Nat) : t.dom n = (domRequest (s.written tag 0x20 a) (byteAt a 0) (byteAt a 1)).dom n :=
      dom_congr (hut .pwr (by simp)) n
    refine ⟨t, ht, hans, fun h => ?_, fun h => ?_, fun h => ?_, ?_, fun n hn => ?_, fun h => ?_, hkt .ctxs (by decide)⟩
    · rw [hdom, hask.off h]
    · rw [hdom, hask.ret h]
    · rw [State.domIsDown, hdom]; exact hask.on h
    · rw [hdom, hask.hostReq]
    · rw [hdom, hask.others n hn]; rfl
    · exact (hut .mem (by simp)).trans (hask.mem h)
  · obtain ⟨t, ht, hans, hkt, hut, -⟩ := exec_served (c := .wakeMode tag a) rfl hs (by decide) (by decide) (by decide)
      (mbWakeMode_ok (s := s.written tag 0x21 a) ha hb hd) (by decide)
      (State.keeps_mono (m := [.hst, .io]) (onDie_keeps _ d _) (by simp)) (by simp)
    have hdie (e : DieId) : t.die e = ((s.written tag 0x21 a).onDie d fun x => x.wakeSet a).die e :=
      congrArg (fun v : Vector IoDie 2 => v.get e) (hut .io (by simp))
    exact ⟨t, ht, hans, (hdie d).trans (State.die_onDie_self ..),
      fun e he => (hdie e).trans (State.die_onDie_ne _ _ _ _ he), hkt⟩
  · obtain ⟨t, ht, hans, hkt, hut, -⟩ := exec_served (c := .powerCap tag a) rfl hs (by decide) (by decide) (by decide)
      (mbPowerCap_ok (s := s.written tag 0x22 a) hlo hhi) (by decide)
      (State.keeps_mono (m := [.hst, .pwr]) (onPwr_keeps _ _) (by simp)) (by simp)
    have hpwr : t.pwr = { s.pwr with cap := some (BitVec.ofNat 16 (fld a 0 2)) } := hut .pwr (by simp)
    exact ⟨t, ht, hans, by rw [hpwr], by rw [hpwr], hkt⟩
  · obtain ⟨t, ht, hans, hkt, hut, -⟩ := exec_served (c := .clrStat tag a) rfl hs (by decide) (by decide) (by decide)
      (mbClrStat_ok (s := s.written tag 0x40 a) hm hd) (by decide)
      (State.keeps_mono (m := [.hst, .io]) (clearMarks_keeps _ _) (by simp)) (by simp)
    have hio : t.io = (clearMarks (s.written tag 0x40 a) (byteAt a 0)).io := hut .io (by simp)
    exact ⟨t, ht, hans, fun d => (congrArg (fun v : Vector IoDie 2 => v.get d) hio).trans (clearMarks_die _ _ d), hkt⟩
end

section
/-!
PROOFS. An Ethernet frame by the steps of R270, and the closing of a sweep and of a FLOW record (R278, R279, R390).
-/

namespace Sys2Proof.Machine

/-! ### A MAC and a flow slot of a die -/

theorem mac_onMac_self (s : State) (d : DieId) (m : MacId) (f : MacRegs → MacRegs) :
    ((s.onMac d m f).die d).mac.get m = f ((s.die d).mac.get m) := by
  rw [State.onMac, State.die_onDie_self]
  exact vget_set_self _ _ _ m.2

theorem mac_onMac_ne (s : State) (d : DieId) {m k : MacId} (f : MacRegs → MacRegs) (h : k ≠ m) :
    ((s.onMac d m f).die d).mac.get k = (s.die d).mac.get k := by
  rw [State.onMac, State.die_onDie_self]
  exact vget_set_ne _ _ _ _ m.2 h

theorem onMac_keeps (s : State) (d : DieId) (m : MacId) (f : MacRegs → MacRegs) : s.keeps [.io] (s.onMac d m f) :=
  onDie_keeps s d _

theorem flow_onMac (s : State) (d : DieId) (m : MacId) (f : MacRegs → MacRegs) (i : Fin 16) :
    (s.onMac d m f).flow d i = s.flow d i := by
  rw [State.flow, State.onMac, State.die_onDie_self, State.flow]

theorem flow_onFlow_self (s : State) (d : DieId) (i : Fin 16) (f : FlowRt → FlowRt) :
    (s.onFlow d i f).flow d i = f (s.flow d i) := by
  rw [State.flow, State.onFlow, State.die_onDie_self]
  exact vget_set_self _ _ _ i.2

theorem onFlow_keeps (s : State) (d : DieId) (i : Fin 16) (f : FlowRt → FlowRt) : s.keeps [.io] (s.onFlow d i f) :=
  onDie_keeps s d _

theorem waits_onFlow (s : State) (d : DieId) (i : Fin 16) (f : FlowRt → FlowRt) :
    ((s.onFlow d i f).die d).waits = (s.die d).waits := by
  rw [State.onFlow, State.die_onDie_self]
  rfl

/-! ### A frame that arrives (R270) -/

section
variable {s : State} {d : DieId} {m : MacId} {f : Bytes} {fd : Finding}
variable (hd : s.dev ≠ .replay) (hp : diePresent s.part d = true) (hr : fd = .clean ∨ s.recActive = false)
variable (hl : s.domLive (ethDom d) = true) (hc : byteAt (s.macCfg d m) 0 % 128 ≠ 0)

include hd hp hr hl hc in
/-- A live, configured MAC looks at the FCS first. -/
theorem exec_ethFrameReceive_live : exec (.ethFrameReceive d m f ⟨false, fd⟩) s =
    finish s (if fcsOk f = true then macFrame s d m f (s.rxStamp d m) false else fcsError s d m (s.rxStamp d m)) := by
  have hno : ¬ (s.dev = .replay ∨ (!diePresent s.part d) = true ∨ (!s.domLive (ethDom d)) = true ∨
      byteAt (s.macCfg d m) 0 % 128 = 0) := by simp [hd, hp, hl, hc]
  show execEthFrameReceive d m f ⟨false, fd⟩ s = _
  simp only [execEthFrameReceive, hno, if_false, readOut_clean hr]
  cases fcsOk f <;> rfl

end

/-- An FCS error on a MAC without a flow and without RECORD is counted. -/
theorem fcsError_counted {s : State} {d : DieId} {m : MacId} (hrec : s.macRecords d m = false) (hflow : s.flowsOfMac d m = [])
    (time : U64) : fcsError s d m time = s.onMac d m fun x => { x with fcsErr := sat32 x.fcsErr } := by
  have hrec' : (s.onMac d m fun x => { x with fcsErr := sat32 x.fcsErr }).macRecords d m = false := by
    rw [State.macRecords, mac_onMac_self]
    exact hrec
  have hflow' : (s.onMac d m fun x => { x with fcsErr := sat32 x.fcsErr }).flowsOfMac d m = [] := by
    simp only [State.flowsOfMac, flow_onMac]
    exact hflow
  simp only [fcsError, hrec', Bool.false_eq_true, if_false, hflow', List.foldl_nil]

section
variable {s : State} {d : DieId} {m : MacId} {f : Bytes}
variable (hfull : s.rxFull d m f.length = false) (hdest : s.destOk d m (f.take 6) = true)

include hfull hdest in
/-- A frame of an EtherType that the MAC does not know is counted as no match. -/
theorem macFrame_foreign (h1 : (etherOf f).1 ≠ 0x88F7) (h2 : (etherOf f).1 ≠ 0x0806) (h3 : (etherOf f).1 ≠ 0x0800)
    (time : U64) :
    macFrame s d m f time false = s.onMac d m fun x => { x with noMatchCnt := sat32 x.noMatchCnt } := by
  simp [macFrame, hfull, hdest, h1, h2, h3]

include hfull hdest in
/-- The payload of a frame that a PARSE entry without RECORD matches goes to the flow parser. -/
theorem macFrame_parsed {k a p : Nat} {pl : Bytes} (hip : (etherOf f).1 = 0x0800) (hok : ipOk (etherOf f).2 = true)
    (he : s.frameEntry d m f = some ((k, a, p), pl)) (hparse : bit a 1 = true) (hrec : bit a 2 = false) (time : U64) :
    macFrame s d m f time false =
      flowFrame s d m ⟨⟨p % 16, Nat.mod_lt _ (by decide)⟩, pl, time, s.nextRecSeq (srcMac d m), false⟩ := by
  simp [macFrame, hfull, hdest, hip, hok, he, hparse, hrec]

end

/-! ### A sweep that is INCOMPLETE (R283) -/

/-- A flow slot without its marks of an INCOMPLETE sweep. -/
def FlowRt.unmarked (y : FlowRt) : FlowRt := { y with incomplete := false, bufs := Vector.replicate 2 {} }

/-- The mark of an INCOMPLETE sweep, and of its buffer. -/
def FlowRt.marked (y : FlowRt) : FlowRt :=
  { y with
    incomplete := true
    bufs := match y.buf with
      | some b => setBuf y.bufs b fun z => { z with incomplete := true }
      | none => y.bufs }

/-- The mark is one update of the slot, and an event tells of it. -/
theorem flowIncomplete_cases (s : State) (d : DieId) (i : Fin 16) :
    flowIncomplete s d i = s ∨ (s.onFlow d i FlowRt.marked).keeps [.err, .ctxs] (flowIncomplete s d i) := by
  unfold flowIncomplete
  simp only
  split
  · exact .inl rfl
  · refine .inr ?_
    split
    · exact event_keeps (s.onFlow d i FlowRt.marked) _ _ _ _
    · exact State.keeps_refl _ _

/-- From `s` to `t` a sweep may have been marked, and the class counters moved on. -/
structure State.FlowMarked (s t : State) (d : DieId) (i : Fin 16) : Prop where
  keeps : s.keeps [.io, .err, .ctxs] t
  flow : (t.flow d i).unmarked = (s.flow d i).unmarked
  waits : (t.die d).waits = (s.die d).waits

theorem flowIncomplete_marked (s : State) (d : DieId) (i : Fin 16) : s.FlowMarked (flowIncomplete s d i) d i := by
  obtain h | hk := flowIncomplete_cases s d i
  · rw [h]
    exact ⟨s.keeps_refl _, rfl, rfl⟩
  · have hio : (flowIncomplete s d i).io = (s.onFlow d i FlowRt.marked).io := hk .io (by simp)
    have hdie : (flowIncomplete s d i).die d = (s.onFlow d i FlowRt.marked).die d :=
      congrArg (fun v : Vector IoDie 2 => v.get d) hio
    refine ⟨State.keeps_trans (State.keeps_mono (onFlow_keeps s d i _) (by simp)) (State.keeps_mono hk (by simp)), ?_, ?_⟩
    · rw [State.flow, hdie, ← State.flow, flow_onFlow_self]
      rfl
    · rw [hdie, waits_onFlow]

/-! ### The end of a sweep (R278, R279) -/

/-- The items of the FIFO and those of the writers that it stalls. -/
def IoDie.items (x : IoDie) : Nat := x.fifo.length + x.stalled.length

theorem items_of_waits {x y : IoDie} (h : x.waits = y.waits) : x.items = y.items :=
  congrArg (fun w : List IffItem × List IffItem × Vector MacRegs 4 => w.1.length + w.2.1.length) h

/-- An item enters the FIFO or waits behind it. -/
theorem items_fifoPush (s : State) (d : DieId) (e : IffItem) : ((fifoPush s d e).die d).items = (s.die d).items + 1 := by
  rw [fifoPush, State.die_onDie_self]
  split
  · simp only [IoDie.items, IoDie.enter, List.length_append, List.length_cons, List.length_nil]
    omega
  · simp only [IoDie.items, List.length_append, List.length_cons, List.length_nil]
    omega

theorem flow_fifoPush (s : State) (d : DieId) (e : IffItem) (i : Fin 16) : (fifoPush s d e).flow d i = s.flow d i := by
  rw [State.flow, fifoPush, State.die_onDie_self, State.flow]
  split <;> rfl

/-- A slot whose sweep has closed in buffer `b`. -/
def FlowRt.closed (y : FlowRt) (b : Fin 2) (trunc : U32) : FlowRt :=
  { y with
    sweepOpen := false, buf := none, sweepSeq := y.sweepSeq + 1
    bufs := setBuf y.bufs b fun z => { z with digest := some (sha256 y.hashed), truncated := trunc } }

/-- An open sweep with a buffer closes with one item, its header with the rest of its bead. -/
theorem closeSweep_open {s : State} {d : DieId} {i : Fin 16} {b : Fin 2} {c : CtxId} (ho : (s.flow d i).sweepOpen = true)
    (hb : (s.flow d i).buf = some b) (hc : (s.flow d i).ctx = some c) :
    ∃ u e trunc, s.FlowMarked u d i ∧ closeSweep s d i true = (fifoPush u d e).onFlow d i fun y => y.closed b trunc := by
  have hu := flowIncomplete_marked s d i
  have ho' : ((flowIncomplete s d i).flow d i).sweepOpen = true := (congrArg FlowRt.sweepOpen hu.flow :).trans ho
  have hb' : ((flowIncomplete s d i).flow d i).buf = some b := (congrArg FlowRt.buf hu.flow :).trans hb
  have hc' : ((flowIncomplete s d i).flow d i).ctx = some c := (congrArg FlowRt.ctx hu.flow :).trans hc
  refine ⟨flowIncomplete s d i, ?_⟩
  simp only [closeSweep, if_true, ho', hb', hc']
  exact ⟨_, _, hu, rfl⟩

/-- The digest of a closed sweep is that of the bytes hashed into it. -/
theorem closed_digest (y : FlowRt) (b : Fin 2) (trunc : U32) :
    ((y.closed b trunc).bufs.get b).digest = some (sha256 y.hashed) := by
  have h : (y.closed b trunc).bufs.get b =
      { y.bufs.get b with digest := some (sha256 y.hashed), truncated := trunc } := vget_set_self _ _ _ b.2
  rw [h]

/-! ### The end of a FLOW record (R390) -/

/-- The open record of a MAC goes to the recorder, and nothing but the tap changes beside it. -/
theorem closeFlow_recorded {s : State} {d : DieId} {m : MacId} {r : U64 × Nat × Bytes}
    (h : ((s.die d).mac.get m).record = some r) :
    (s.onMac d m fun x => { x with record := none }).Recorded (closeFlow s d m) := by
  obtain ⟨time, n, pl⟩ := r
  simp only [closeFlow, h]
  exact recWrite_recorded _ _ _ _ _ _ _ _

theorem State.Recorded.mac {s t : State} (h : s.Recorded t) (d : DieId) : (t.die d).mac = (s.die d).mac :=
  (congrArg IoDie.mac (h.die d) :)

end Sys2Proof.Machine

open Sys2Proof Sys2Proof.Machine

/-- Settles O46: a frame is one case of the MAC's steps, a sweep closes with one item of the FIFO, and a record closes in the
recorder. -/
theorem ethernetFramesAndTimeouts : Obligations.EthernetFramesAndTimeouts := by
  unfold Obligations.EthernetFramesAndTimeouts
  refine ⟨fun s d m f fd hd hp hr hl hc => ⟨fun hfcs hrec hflow => ?_, fun hfcs hfull hdest h1 h2 h3 => ?_,
    fun k a p pl hfcs hfull hdest hip hok he hparse hrec => ?_⟩, fun s d i b c ho hb hcx => ?_, fun s d m fd r hr hrec => ?_⟩
  · obtain ⟨t, ht, hkt, hqt⟩ := finish_keeps (old := s) (onMac_keeps s d m fun x => { x with fcsErr := sat32 x.fcsErr })
    refine ⟨t, ?_, by rw [hqt.die, mac_onMac_self], hkt⟩
    rw [exec_ethFrameReceive_live hd hp hr hl hc, hfcs, if_neg (by simp), fcsError_counted hrec hflow, ht]
  · obtain ⟨t, ht, hkt, hqt⟩ := finish_keeps (old := s) (onMac_keeps s d m fun x => { x with noMatchCnt := sat32 x.noMatchCnt })
    refine ⟨t, ?_, by rw [hqt.die, mac_onMac_self], hkt⟩
    rw [exec_ethFrameReceive_live hd hp hr hl hc, hfcs, if_pos rfl, macFrame_foreign hfull hdest h1 h2 h3, ht]
  · have hmac := macFrame_parsed hfull hdest hip hok he hparse hrec (s.rxStamp d m)
    obtain ⟨t, ht, hqt⟩ := finish_next s (macFrame s d m f (s.rxStamp d m) false)
    refine ⟨t, ?_, ?_, ?_⟩
    · rw [exec_ethFrameReceive_live hd hp hr hl hc, hfcs, if_pos rfl, ht]
    · rw [← hmac]; exact hqt.1 .io (by simp)
    · rw [← hmac]; exact hqt.1 .parts (by simp)
  · obtain ⟨u, e, trunc, hu, hclose⟩ := closeSweep_open ho hb hcx
    have hk : s.keeps [.io, .err, .ctxs] (closeSweep s d i true) := by
      rw [hclose]
      exact State.keeps_trans hu.keeps (State.keeps_mono (State.keeps_trans (onDie_keeps u d _) (onFlow_keeps _ d i _)) (by simp))
    obtain ⟨t, ht, hkt, hqt⟩ := finish_keeps (old := s) hk
    have hflow : t.flow d i = (u.flow d i).closed b trunc := by
      rw [State.flow, hqt.die, hclose, ← State.flow, flow_onFlow_self, flow_fifoPush]
    have hitems : (t.die d).items = (s.die d).items + 1 := by
      rw [hqt.die, hclose, items_of_waits (waits_onFlow _ d i _), items_fifoPush, items_of_waits hu.waits]
    refine ⟨t, ht, by rw [hflow]; rfl, by rw [hflow]; rfl, ?_, ?_, hitems, hkt .mem (by simp), hkt .parts (by simp)⟩
    · rw [hflow]
      exact congrArg (· + 1) (congrArg FlowRt.sweepSeq hu.flow :)
    · rw [hflow, closed_digest]
      exact (congrArg (fun y : FlowRt => some (sha256 y.hashed)) hu.flow :)
  · have hrecd := closeFlow_recorded hrec
    obtain ⟨t, ht, hqt⟩ := finish_next s (closeFlow s d m)
    have hmac : (t.die d).mac = ((s.onMac d m fun x => { x with record := none }).die d).mac := by rw [hqt.die, hrecd.mac]
    refine ⟨t, ?_, by rw [hmac, mac_onMac_self], fun k hk => by rw [hmac, mac_onMac_ne _ _ _ hk], ?_, ?_⟩
    · show execFlowRecordTimeout d ⟨m, fd⟩ s = _
      rw [execFlowRecordTimeout, readOut_clean hr, ht]
    · exact (hqt.1 .ctxs (by simp)).trans (hrecd.keeps .ctxs (by simp))
    · exact (hqt.1 .parts (by simp)).trans (hrecd.keeps .parts (by simp))
end

section
/-!
PROOFS. A step of the block (log 1): every command ends in a state, and the tick on an empty queue is counted.
-/

namespace Sys2Proof.Machine

/-! ### No command stops the block -/

/-- A pulse of DEVICE_RESET_N resets the device, is too short, or may do either (R511). -/
theorem execDeviceReset_next (lowNs : Nat) (s : State) : ∃ t, execDeviceReset lowNs s = .next t := by
  unfold execDeviceReset
  split
  · exact ⟨_, rfl⟩
  · split
    · exact ⟨_, rfl⟩
    · simp only
      split <;> exact ⟨_, rfl⟩

/-- VDD_AON is lost below 650 mV, or nothing happens (R510). -/
theorem execVddAonLoss_next (mv : Nat) (s : State) : ∃ t, execVddAonLoss mv s = .next t := by
  unfold execVddAonLoss
  split <;> exact ⟨_, rfl⟩

/-- Every command but the two that may reset the whole device ends in `finish`, and `finish` is a next state. -/
theorem exec_next (c : Instr) (s : State) : ∃ t, exec c s = .next t := by
  have hfin (old u : State) : ∃ t, finish old u = .next t := ⟨_, rfl⟩
  cases c with
  | deviceReset lowNs => exact execDeviceReset_next lowNs s
  | vddAonLoss mv => exact execVddAonLoss_next mv s
  | _ => exact hfin _ _

/-! ### The tick on an empty queue -/

theorem tick_ticks (s : State) : (tick s).ticks = s.ticks + 1 :=
  congrArg (· + 1) (setFine_keeps s _ .ticks (by simp))

theorem copyDumps_ticks (s : State) : (copyDumps s).ticks = s.ticks := copyDumps_keeps s .ticks (by simp)

theorem step_cons (c : Instr) (r : List Instr) (s : State) :
    step { s with pending := c :: r } = exec c { s with pending := r } := rfl

theorem step_nil {s : State} (h : s.pending = []) : step s = .next (copyDumps (tick s)) := by
  rw [step, h]

end Sys2Proof.Machine

open Sys2Proof Sys2Proof.Machine

/-- Settles O55: the front command runs on the rest of the queue, an empty queue ticks, and every command has a next state. -/
theorem stepRunsTheFrontCommand : Obligations.StepRunsTheFrontCommand :=
  ⟨step_cons, fun s h => ⟨step_nil h, (copyDumps_ticks _).trans (tick_ticks s)⟩, exec_next⟩
end

section
/-!
PROOFS. The servo and the steps of the time base (R285, R287, R288), the 802.1AS engine at its interval (R286) and the link
registers of a MAC (R293).
-/

namespace Sys2Proof.Machine

/-! ### The time base across an update -/

theorem onTb_keeps (s : State) (f : TbRegs → TbRegs) : s.keeps [.tb] (s.onTb f) := fun k hk => by
  cases k
  case tb => simp at hk
  all_goals rfl

theorem State.Quiet.tb {s t : State} (h : s.Quiet t) : t.tb = s.tb := h.1 .tb (by simp)

/-- A command that ends in `s` with its time base updated keeps everything else. -/
theorem finish_onTb (s : State) (f : TbRegs → TbRegs) : ∃ t, finish s (s.onTb f) = .next t ∧ t.tb = f s.tb ∧ s.keeps [.tb] t := by
  obtain ⟨t, ht, hkt, hqt⟩ := finish_keeps (old := s) (onTb_keeps s f)
  exact ⟨t, ht, hqt.tb, hkt⟩

/-- A command without an effect. -/
theorem finish_same (s : State) : ∃ t, finish s s = .next t ∧ s.keeps [] t := by
  obtain ⟨t, ht, hq⟩ := finish_next s s
  exact ⟨t, ht, hq.1⟩

theorem fine_congr {s t : State} (h : t.tb = s.tb) : t.fine = s.fine := by
  rw [State.fine, State.fine, h]

/-- Seconds, nanoseconds and fraction hold every instant below 2^48 s. -/
theorem fine_setFine (s : State) {n : Int} (h0 : 0 ≤ n) (h1 : n < 2 ^ 48 * 1000000000 * 2 ^ 32) :
    ((s.setFine n).fine : Int) = n := by
  show ((((BitVec.ofNat 48 (twos 48 (n / (2 ^ 32 : Nat) / 1000000000))).toNat * 1000000000 +
    (BitVec.ofNat 30 (n / (2 ^ 32 : Nat) % 1000000000).toNat).toNat) * 2 ^ 32 +
    (BitVec.ofNat 32 (twos 32 n)).toNat : Nat) : Int) = n
  simp only [BitVec.toNat_ofNat, twos]
  omega

/-! ### An offset at the servo (R285, R287, R288) -/

/-- The registers when an offset reaches a servo that follows it: θ is stored, and lock is acquired. -/
def TbRegs.taken (b : TbRegs) (θ : BitVec 48) : TbRegs := { b with theta := θ, locked := true, first := false }

/-- Bounds of 500 ppm on TB_ADDEND and on I (R285). -/
structure TbRegs.Steered (b : TbRegs) : Prop where
  addend_ge : (0x280000000 - 5368709 : Int) ≤ b.addend.toNat
  addend_le : (b.addend.toNat : Int) ≤ 0x280000000 + 5368709
  integ_ge : -5368709 ≤ b.integ.toInt
  integ_le : b.integ.toInt ≤ 5368709

/-- One update of the servo changes I and TB_ADDEND alone, and both stay within their bounds. -/
theorem servoUpdate_steered {b : TbRegs} (he : b.en = true) (hh : b.hold = false) (θ : Int) :
    (servoUpdate b θ).Steered ∧ ∃ i a, servoUpdate b θ = { b with integ := i, addend := a } := by
  have hinteg (x : Int) : -5368709 ≤ clampI x (-servoBound) servoBound ∧ clampI x (-servoBound) servoBound ≤ 5368709 :=
    clampI_mem x (by decide)
  have haddend (x : Int) : (0x280000000 - 5368709 : Int) ≤ clampI x (0x280000000 - servoBound) (0x280000000 + servoBound) ∧
      clampI x (0x280000000 - servoBound) (0x280000000 + servoBound) ≤ 0x280000000 + 5368709 := clampI_mem x (by decide)
  simp only [servoUpdate, he, hh, Bool.not_true, Bool.or_self, Bool.false_eq_true, if_false]
  refine ⟨?_, _, _, rfl⟩
  generalize hi : clampI (b.integ.toInt + θ * 65536 / (2 ^ b.kiSh.toNat : Nat)) (-servoBound) servoBound = i
  obtain ⟨hi0, hi1⟩ := hi ▸ hinteg _
  generalize ha : clampI (0x280000000 - θ * 65536 / (2 ^ b.kpSh.toNat : Nat) - i) (0x280000000 - servoBound)
    (0x280000000 + servoBound) = a
  obtain ⟨ha0, ha1⟩ := ha ▸ haddend _
  have hin : (BitVec.ofInt 32 i).toInt = i := BitVec.toInt_ofInt_eq_self (by decide) (by omega) (by omega)
  have had : ((BitVec.ofInt 40 a).toNat : Int) = a := by rw [BitVec.toNat_ofInt]; omega
  constructor <;> simp only [hin, had] <;> omega

theorem exec_srvOffsetWrite (θ : BitVec 48) (s : State) : exec (.srvOffsetWrite θ) s = finish s (servoOffset s θ) := rfl

/-- A servo that is off, or on hold outside holdover, stores the offset. -/
theorem servoOffset_off {s : State} (h : s.tb.en = false ∨ s.tb.hold = true ∧ s.tb.holdover = false) (θ : BitVec 48) :
    servoOffset s θ = s.onTb fun b => { b with theta := θ } := by
  rcases h with he | ⟨hh, ho⟩
  · simp [servoOffset, he]
  · simp [servoOffset, hh, ho]

/-- In holdover the second offset in a row regains lock, and the first is counted. -/
theorem servoOffset_holdover {s : State} (he : s.tb.en = true) (ho : s.tb.holdover = true) (θ : BitVec 48) :
    servoOffset s θ = s.onTb fun b => if 1 ≤ b.good then
        { b with theta := θ, holdover := false, hold := false, locked := true, first := true, good := 0 }
      else { b with theta := θ, good := b.good + 1 } := by
  by_cases hg : 1 ≤ s.tb.good
  · simp [servoOffset, State.onTb, he, ho, hg]
  · simp [servoOffset, State.onTb, he, ho, hg]

section
variable {s : State} {θ : BitVec 48}
variable (he : s.tb.en = true) (hh : s.tb.hold = false) (ho : s.tb.holdover = false)

include he hh ho in
/-- A servo that follows steps the time base once, at the first offset after lock, or updates I and TB_ADDEND. -/
theorem servoOffset_follows : servoOffset s θ =
    if s.tb.first && decide (s.stepNs * 65536 < θ.toInt.natAbs) && s.mayStep then
      timeStep (s.onTb fun b => b.taken θ) θ.toInt
    else s.onTb fun b => { servoUpdate (b.taken θ) θ.toInt with
      slewing := decide (s.stepNs * 65536 < θ.toInt.natAbs) && (s.tb.first || b.slewing) } := by
  simp only [servoOffset, State.tb_onTb, he, hh, ho, Bool.not_true, Bool.false_and, Bool.or_self, Bool.false_eq_true, if_false]
  rfl

include he hh ho in
/-- Where no step is allowed the servo updates I and TB_ADDEND. -/
theorem servoOffset_update (hm : s.mayStep = false) : servoOffset s θ = s.onTb fun b =>
    { servoUpdate (b.taken θ) θ.toInt with
      slewing := decide (s.stepNs * 65536 < θ.toInt.natAbs) && (s.tb.first || b.slewing) } := by
  rw [servoOffset_follows he hh ho, hm, Bool.and_false, if_neg Bool.false_ne_true]

include he hh ho in
/-- The first offset after lock that is larger than STEP_NS steps the time base where that is allowed. -/
theorem servoOffset_step (hf : s.tb.first = true) (hb : s.stepNs * 65536 < θ.toInt.natAbs) (hm : s.mayStep = true) :
    servoOffset s θ = timeStep (s.onTb fun b => b.taken θ) θ.toInt := by
  rw [servoOffset_follows he hh ho, hf, hm, decide_eq_true hb, Bool.and_self, Bool.and_self, if_pos rfl]

end

/-! ### A step of the time base (R288) -/

theorem timeStep_keeps (s : State) (θ : Int) : s.keeps [.tb, .ctxs] (timeStep s θ) := fun k hk => by
  cases k
  case tb | ctxs => simp at hk
  all_goals rfl

theorem timeStep_fine (s : State) (θ : Int) : (timeStep s θ).fine = (s.setFine (s.fine - θ * 65536)).fine := rfl

/-- Of a context a step moves only the instants that its triggers are counted from. -/
theorem timeStep_ctx (s : State) (θ : Int) (c : CtxId) :
    ∃ n l, (timeStep s θ).ctx c = { s.ctx c with runNs := n, lastTrig := l } :=
  ⟨_, _, vget_map _ _ _⟩

/-! ### The 802.1AS engine (R286, R287) -/

theorem exec_tbSecLoRead (s : State) : exec .tbSecLoRead s = finish s ((s.onTb fun b =>
    { b with latHi := BitVec.ofNat 16 (b.sec.toNat >>> 32), latNs := b.ns, latFrac := b.frac }).emit
      (.readData (le 4 s.tb.sec.toNat))) := rfl

theorem exec_syncReceiptTimeout (s : State) : exec .syncReceiptTimeout s = finish s
    (if s.isGm || s.ringPeer then s else (servoFreeze s).onTb fun b => { b with gm := none, syncRx := none }) := rfl

/-- Frames are sent and registers of the time base change. -/
theorem keeps_sent {s u : State} (h : s.Quiet u) (f : TbRegs → TbRegs) : s.keeps [.tb] (u.onTb f) :=
  State.keeps_trans (State.keeps_mono h.1 (by simp)) (onTb_keeps u f)

theorem sendSync_keeps (s : State) (d : DieId) (m : MacId) : s.keeps [.tb] (sendSync s d m) := by
  unfold sendSync
  exact keeps_sent (((emit_quiet s _).trans (emit_quiet _ _)).trans (emit_quiet _ _)) _

/-- Of the time base a Sync changes its number and the registers of a grandmaster. -/
theorem sendSync_tb (s : State) (d : DieId) (m : MacId) : (sendSync s d m).tb =
    { s.tb with syncSeq := s.tb.syncSeq + 1, serving := true, en := false, source := 0, locked := false } := rfl

/-- A two-step Sync and its Follow_Up leave the port. -/
theorem sendSync_out (s : State) (d : DieId) (m : MacId) :
    OutEvent.eth d m (ptpFrame (s.station d m) 0 0x0200 s.tb.syncSeq (zeros 10)) ∈ (sendSync s d m).out ∧
    OutEvent.eth d m (ptpFrame (s.station d m) 8 0 s.tb.syncSeq (ptpTime (s.txStamp d m) ++ followTlv)) ∈
      (sendSync s d m).out :=
  ⟨List.mem_cons_of_mem _ (List.mem_cons_self ..), List.mem_cons_self ..⟩

theorem sendPdelay_keeps (s : State) (d : DieId) (m : MacId) : s.keeps [.tb] (sendPdelay s d m) := by
  unfold sendPdelay
  exact keeps_sent (emit_quiet s _) _

theorem sendPdelay_tb (s : State) (d : DieId) (m : MacId) : (sendPdelay s d m).tb =
    { s.tb with pdSeq := s.tb.pdSeq + 1, pdReq := some (s.tb.pdSeq, s.txStamp d m), pdResp := none } := rfl

theorem sendPdelay_out (s : State) (d : DieId) (m : MacId) : (sendPdelay s d m).out =
    OutEvent.eth d m (ptpFrame (s.station d m) 2 0 s.tb.pdSeq (zeros 20)) :: s.out := rfl

/-- The engine at its interval before it asks for the link delay: a grandmaster has sent its Announce and Sync. -/
def served (s : State) (d : DieId) (m : MacId) : State := if s.isGm then sendSync s d m else s

theorem served_gm {s : State} (h : s.isGm = true) (d : DieId) (m : MacId) : served s d m = sendSync s d m := if_pos h

theorem served_slave {s : State} (h : s.isGm = false) (d : DieId) (m : MacId) : served s d m = s := by simp [served, h]

theorem served_keeps (s : State) (d : DieId) (m : MacId) : s.keeps [.tb] (served s d m) := by
  unfold served
  split
  · exact sendSync_keeps s d m
  · exact s.keeps_refl _

/-- What a Sync sends and counts is not what a delay request names. -/
theorem served_pdSeq (s : State) (d : DieId) (m : MacId) : (served s d m).tb.pdSeq = s.tb.pdSeq := by
  unfold served
  split <;> rfl

theorem served_station (s : State) (d : DieId) (m : MacId) : (served s d m).station d m = s.station d m := by
  unfold served
  split <;> rfl

/-- The engine's interval on a port of its own. -/
theorem exec_gptpSyncInterval_port {s : State} {d : DieId} {m : MacId} (hp : s.ptpPort = some (d, m))
    (hr : s.ringPeer = false) (hd : diePresent s.part d = true) :
    exec .gptpSyncInterval s = finish s (sendPdelay (served s d m) d m) := by
  show execGptpSyncInterval s = _
  simp [execGptpSyncInterval, hp, hr, hd, served]

/-- Without a port, or as the peer of a ring, the interval changes nothing. -/
theorem exec_gptpSyncInterval_none {s : State} (h : s.ptpPort = none ∨ s.ringPeer = true) :
    exec .gptpSyncInterval s = finish s s := by
  show execGptpSyncInterval s = _
  rcases h with hp | hr
  · simp [execGptpSyncInterval, hp]
  · simp only [execGptpSyncInterval, hr, Bool.true_or, if_true]
    cases s.ptpPort <;> rfl

/-! ### A link (R293) -/

theorem exec_ethLinkChange (d : DieId) (m : MacId) (sp : BitVec 2) (an : Bool) (s : State) :
    exec (.ethLinkChange d m sp an) s = finish s (if diePresent s.part d && sp != 3 then
      s.onMac d m fun x => { x with speed := sp, anDone := an } else s) := rfl

end Sys2Proof.Machine

open Sys2Proof Sys2Proof.Machine

/-- Settles O36: an offset is one case of the servo, and each of the other commands is one update of the time base or of a
MAC. -/
theorem timeBaseCommandsSteerTheClock : Obligations.TimeBaseCommandsSteerTheClock := by
  unfold Obligations.TimeBaseCommandsSteerTheClock
  refine ⟨fun s => ⟨fun θ he hh ho hrun hdf => ?_, fun θ h => ?_, fun θ he ho => ?_, ?_, fun hg hr => ?_, fun h => ?_,
    fun d m sp an hd hsp => ?_, fun d m sp an h => ?_, fun d m hp hr hd => ?_, fun h => ?_⟩,
    fun s θ he hh ho hf hb hm => ?_⟩
  · have hm : s.mayStep = false := by simp [State.mayStep, hrun, hdf]
    have hs := servoOffset_update (θ := θ) he hh ho hm
    obtain ⟨⟨ha0, ha1, hi0, hi1⟩, i, a, hu⟩ := servoUpdate_steered (b := s.tb.taken θ) he hh θ.toInt
    obtain ⟨t, ht, htb, hk⟩ := finish_onTb s fun b => { servoUpdate (b.taken θ) θ.toInt with
      slewing := decide (s.stepNs * 65536 < θ.toInt.natAbs) && (s.tb.first || b.slewing) }
    rw [hu] at ha0 ha1 hi0 hi1
    rw [hu] at htb
    refine ⟨t, by rw [exec_srvOffsetWrite, hs, ht], ?_⟩
    rw [htb]
    exact ⟨rfl, rfl, rfl, rfl, ha0, ha1, hi0, hi1, hk⟩
  · rw [exec_srvOffsetWrite, servoOffset_off h]
    exact finish_onTb s _
  · rw [exec_srvOffsetWrite, servoOffset_holdover he ho]
    exact finish_onTb s _
  · rw [exec_tbSecLoRead]
    have he := emit_quiet (s.onTb fun b =>
      { b with latHi := BitVec.ofNat 16 (b.sec.toNat >>> 32), latNs := b.ns, latFrac := b.frac }) (.readData (le 4 s.tb.sec.toNat))
    obtain ⟨t, ht, hkt, hqt⟩ := finish_keeps (old := s)
      (State.keeps_trans (onTb_keeps s _) (State.keeps_mono he.1 (by simp)))
    exact ⟨t, ht, hqt.out (List.mem_cons_self ..), hqt.tb, hkt⟩
  · rw [exec_syncReceiptTimeout, hg, hr]
    obtain ⟨t, ht, hkt, hqt⟩ := finish_keeps (old := s) (State.keeps_trans (onTb_keeps s _) (onTb_keeps (servoFreeze s) fun b =>
      { b with gm := none, syncRx := none }))
    refine ⟨t, ht, ?_⟩
    rw [hqt.tb]
    exact ⟨rfl, rfl, rfl, rfl, rfl, hkt⟩
  · rw [exec_syncReceiptTimeout, if_pos (by simpa using h)]
    exact finish_same s
  · rw [exec_ethLinkChange, if_pos (by rw [hd, Bool.true_and, bne_iff_ne]; exact hsp)]
    obtain ⟨t, ht, hkt, hqt⟩ := finish_keeps (old := s) (onMac_keeps s d m fun x => { x with speed := sp, anDone := an })
    exact ⟨t, ht, by rw [hqt.die, mac_onMac_self], fun k hk => by rw [hqt.die, mac_onMac_ne _ _ _ hk], hkt⟩
  · rw [exec_ethLinkChange, if_neg (by rcases h with h | h <;> simp [h])]
    exact finish_same s
  · rw [exec_gptpSyncInterval_port hp hr hd]
    obtain ⟨t, ht, hkt, hqt⟩ := finish_keeps (old := s) (State.keeps_trans (served_keeps s d m) (sendPdelay_keeps _ d m))
    have hreq := sendPdelay_out (served s d m) d m
    have htb := hqt.tb.trans (sendPdelay_tb (served s d m) d m)
    refine ⟨t, ht, by rw [htb, served_pdSeq], by rw [htb], hqt.out ?_, fun hg => ?_, fun hg => ?_, hkt⟩
    · rw [hreq, served_pdSeq, served_station]
      exact List.mem_cons_self ..
    · obtain ⟨hsync, hfollow⟩ := sendSync_out s d m
      rw [served_gm hg] at hreq htb hqt
      exact ⟨by rw [htb, sendSync_tb], by rw [htb, sendSync_tb], hqt.out (hreq ▸ List.mem_cons_of_mem _ hsync),
        hqt.out (hreq ▸ List.mem_cons_of_mem _ hfollow)⟩
    · rw [served_slave hg] at htb
      exact ⟨by rw [htb], by rw [htb]⟩
  · rw [exec_gptpSyncInterval_none h]
    exact finish_same s
  · rw [exec_srvOffsetWrite, servoOffset_step he hh ho hf hb hm]
    obtain ⟨t, ht, hkt, hqt⟩ := finish_keeps (old := s) (State.keeps_trans (State.keeps_mono (onTb_keeps s fun b => b.taken θ)
      (by simp)) (timeStep_keeps _ θ.toInt))
    refine ⟨t, ht, by rw [hqt.tb]; rfl, by rw [hqt.tb]; rfl, by rw [hqt.tb]; rfl, by rw [hqt.tb]; rfl, fun h0 h1 => ?_,
      fun x => ?_, hkt⟩
    · rw [fine_congr hqt.tb, timeStep_fine]
      exact fine_setFine _ h0 h1
    · obtain ⟨n, l, hx⟩ := timeStep_ctx (s.onTb fun b => b.taken θ) θ.toInt x
      rw [hqt.ctx, hx]
      exact ⟨rfl, rfl, rfl⟩
end

section
/-!
PROOFS. SAFE_ST after every step (R320): the end of a command drives it, a device in reset shows 0b00, and the tick on an empty
queue leaves both the pin and what R320 reads.
-/

namespace Sys2Proof.Machine

/-! ### What R320 reads -/

theorem pin_congr {s t : State} (hi : t.img = s.img) (c : CtxId) : t.pin c = s.pin c := by
  simp only [State.pin, State.tallyTab, secD_congr hi]

theorem pinCtxs_congr {s t : State} (hi : t.img = s.img) : t.pinCtxs = s.pinCtxs := by
  simp only [State.pinCtxs, pin_congr hi]

/-- R320 reads the state of the device, the contexts, the Tally and the image. -/
theorem safeStOf_congr {s t : State} (hd : t.dev = s.dev) (hc : t.ctxs = s.ctxs) (ht : t.tly = s.tly) (hi : t.img = s.img) :
    safeStOf t = safeStOf s := by
  simp only [safeStOf, State.ctx, pinCtxs_congr hi, hd, hc, ht]
  rfl

theorem keeps_safeStOf {s t : State} {l : List Kind} (h : s.keeps l t) (hd : Kind.dev ∉ l) (hc : Kind.ctxs ∉ l)
    (ht : Kind.tly ∉ l) (hi : Kind.img ∉ l) : safeStOf t = safeStOf s :=
  safeStOf_congr (h .dev hd) (h .ctxs hc) (h .tly ht) (h .img hi)

/-- R320 has no row for the code 0b11. -/
theorem safeStOf_ne_three (s : State) : safeStOf s ≠ 3 := by
  simp only [safeStOf]
  split_ifs <;> decide

/-- In BOOT, as after reset, R320 lays down 0b00. -/
theorem safeStOf_boot {s : State} (h : s.dev = .boot) : safeStOf s = 0 := if_pos (.inl h)

/-! ### The end of a command -/

theorem msixSignal_pins (s : State) (v : Fin 64) : (msixSignal s v).pins = s.pins := by
  simp only [msixSignal]
  split <;> rfl

theorem drivePins_safeSt (old s : State) : (drivePins old s).pins.safeSt = safeStOf s := by
  simp only [drivePins]
  split
  · rw [msixSignal_pins]; rfl
  · rfl

/-- A command that ends in `finish` ends with SAFE_ST driven by R320, whatever state its meaning has left. -/
theorem finish_pinsOk {old s t : State} (h : finish old s = .next t) : t.pinsOk := by
  obtain rfl : drivePins old (trackRun (drainRecords s)) = t := by simpa [finish] using h
  have hq : safeStOf (drivePins old (trackRun (drainRecords s))) = safeStOf (trackRun (drainRecords s)) :=
    keeps_safeStOf (drivePins_quiet old _).1 (by simp) (by simp) (by simp) (by simp)
  exact (drivePins_safeSt old _).trans hq.symm

/-! ### The whole device in reset -/

/-- After a reset of the whole device SAFE_ST is 0b00, as R320 wants it in BOOT (R510, R511). -/
theorem resetDevice_pinsOk (s : State) : (resetDevice s).pinsOk := (safeStOf_boot rfl).symm

theorem execDeviceReset_pinsOk {lowNs : Nat} {s t : State} (h : execDeviceReset lowNs s = .next t) : t.pinsOk := by
  have hreset {u : State} (hu : (.next (resetDevice u) : Res) = .next t) : t.pinsOk := by
    cases hu
    exact resetDevice_pinsOk u
  unfold execDeviceReset at h
  split at h
  · exact hreset h
  · split at h
    · exact finish_pinsOk h
    · simp only at h
      split at h
      · exact hreset h
      · exact finish_pinsOk h

theorem execVddAonLoss_pinsOk {mv : Nat} {s t : State} (h : execVddAonLoss mv s = .next t) : t.pinsOk := by
  unfold execVddAonLoss at h
  split at h
  · cases h
    exact (safeStOf_boot rfl).symm
  · exact finish_pinsOk h

/-- Every command drives SAFE_ST at its end or resets the whole device. -/
theorem exec_pinsOk {c : Instr} {s t : State} (h : exec c s = .next t) : t.pinsOk := by
  cases c with
  | deviceReset lowNs => exact execDeviceReset_pinsOk h
  | vddAonLoss mv => exact execVddAonLoss_pinsOk h
  | _ => exact finish_pinsOk h

/-! ### The tick on an empty queue -/

theorem logAppend_pins (s : State) (ty : Nat) (b : Bytes) : (logAppend s ty b).pins = s.pins := by
  simp only [logAppend]
  split <;> rfl

theorem copyDumps_pins (s : State) : (copyDumps s).pins = s.pins := by
  have hcopies (l : List Nat) (u : State) :
      (l.foldl (fun s n => logAppend s (if n < 6 then 3 else 2) (s.peek (dumpBase n) 0x40000)) u).pins = u.pins := by
    induction l generalizing u with
    | nil => rfl
    | cons n l ih => exact (ih _).trans (logAppend_pins u _ _)
  unfold copyDumps
  split
  · rfl
  · exact (State.pins_onBoot ..).trans (hcopies _ _)

theorem setFine_pins (s : State) (n : Int) : (s.setFine n).pins = s.pins := rfl

theorem passTicks_pins (s : State) (n : Nat) : (passTicks s n).pins = s.pins := rfl

theorem tick_pins (s : State) : (tick s).pins = s.pins := (passTicks_pins _ 1).trans (setFine_pins s _)

theorem tick_keeps (s : State) : s.keeps [.tb, .ticks, .io, .boot] (tick s) :=
  State.keeps_trans (State.keeps_mono (setFine_keeps s _) (by simp)) (State.keeps_mono (passTicks_keeps _ 1) (by simp))

/-- Time alone changes neither SAFE_ST nor anything that R320 reads. -/
theorem idle_pinsOk {s : State} (h : s.pinsOk) : (copyDumps (tick s)).pinsOk := by
  have hk : s.keeps [.tb, .ticks, .io, .boot] (copyDumps (tick s)) :=
    State.keeps_trans (tick_keeps s) (State.keeps_mono (copyDumps_keeps _) (by simp))
  have hp : (copyDumps (tick s)).pins = s.pins := (copyDumps_pins _).trans (tick_pins s)
  rw [State.pinsOk, hp, keeps_safeStOf hk (by simp) (by simp) (by simp) (by simp)]
  exact h

theorem step_pinsOk {s t : State} (h : s.pinsOk) (ht : step s = .next t) : t.pinsOk := by
  unfold step at ht
  split at ht
  · cases ht
    exact idle_pinsOk h
  · exact exec_pinsOk ht

end Sys2Proof.Machine

open Sys2Proof Sys2Proof.Machine

/-- Settles O57: a step is a command or a tick, each leaves SAFE_ST as R320 lays it down (`step_pinsOk`), and R320 never gives 0b11. -/
theorem safeStFollowsItsRuleAtEveryStep : Obligations.SafeStFollowsItsRuleAtEveryStep := fun _ t h ht =>
  have hok : t.pinsOk := step_pinsOk h ht
  ⟨hok, fun h3 => safeStOf_ne_three t (hok.symm.trans h3)⟩
end

section
/-!
PROOFS. A context that is torn down stays so through whatever else its command raises: further records, fencing and partition
resets (R361 to R374); hence the end of a run with a fault of its own (R317, R361).
-/

open Sys2Proof Sys2Proof.Machine

namespace Sys2Proof.Machine

/-! ### What is torn down stays so (R361, R374) -/

/-- A context that is torn down: it drains with its egress stopped, ERR_OUT_N is low within its hold time, and no queue holds a
descriptor of it. -/
structure State.Down (s : State) (c : CtxId) : Prop where
  state : (s.ctx c).state = .draining
  stop : (s.ctx c).stopLatch = true
  low : s.tly.holdOver = false ∧ s.pins.errOutN = false
  queues : ∀ q, ∀ e ∈ (s.queue q).entries, e.ctx ≠ c

/-- Every context that is torn down before is so after. -/
def State.StaysDown (s t : State) : Prop := ∀ c, s.Down c → t.Down c

/-- No queue gains a descriptor. -/
def State.NoNewEntries (s t : State) : Prop := ∀ q, (t.queue q).entries ⊆ (s.queue q).entries

theorem State.StaysDown.refl (s : State) : s.StaysDown s := fun _ h => h

theorem State.StaysDown.trans {s t u : State} (h : s.StaysDown t) (h' : t.StaysDown u) : s.StaysDown u :=
  fun c hc => h' c (h c hc)

theorem State.StaysDown.foldl {α : Type} {f : State → α → State} (hf : ∀ (s : State) (a : α), s.StaysDown (f s a))
    (l : List α) (s : State) : s.StaysDown (l.foldl f s) := by
  induction l generalizing s with
  | nil => exact .refl s
  | cons a l ih => exact (hf s a).trans (ih _)

theorem noNewEntries_of_eq {s t : State} (h : ∀ q, t.queue q = s.queue q) : s.NoNewEntries t := fun q => by
  rw [h]
  exact List.Subset.refl _

theorem keeps_noNewEntries {s t : State} {l : List Kind} (h : s.keeps l t) (hc : Kind.cores ∉ l) (hp : Kind.parts ∉ l) :
    s.NoNewEntries t := noNewEntries_of_eq (keeps_queue h hc hp)

/-- What leaves the contexts and the Tally. -/
theorem keeps_staysDown {s t : State} {l : List Kind} (h : s.keeps l t) (hc : Kind.ctxs ∉ l) (ht : Kind.tly ∉ l)
    (hp : t.pins.errOutN = s.pins.errOutN) (hq : s.NoNewEntries t) : s.StaysDown t := fun c hd => by
  have hctx : t.ctx c = s.ctx c := congrArg (·.get c) (h .ctxs hc)
  have htly : t.tly = s.tly := h .tly ht
  exact ⟨hctx ▸ hd.state, hctx ▸ hd.stop, ⟨htly ▸ hd.low.1, hp.trans hd.low.2⟩, fun q e he => hd.queues q e (hq q he)⟩

/-- What leaves the units that hold queues too. -/
theorem aside_staysDown {s t : State} {l : List Kind} (h : s.keeps l t) (hl : ∀ k ∈ l, k ∉ [Kind.ctxs, .tly, .cores, .parts])
    (hp : t.pins.errOutN = s.pins.errOutN) : s.StaysDown t :=
  keeps_staysDown h (fun hk => hl _ hk (by simp)) (fun hk => hl _ hk (by simp)) hp
    (keeps_noNewEntries h (fun hk => hl _ hk (by simp)) fun hk => hl _ hk (by simp))

theorem State.Resets.staysDown {P : PartId → Prop} {s t : State} (h : s.Resets P t) (hq : s.NoNewEntries t) :
    s.StaysDown t := fun c hd =>
  have hdr := h.drains c hd.state
  ⟨hdr.1, hdr.2 hd.stop, h.low hd.low, fun q e he => hd.queues q e (hq q he)⟩

theorem State.Quiet.staysDown {s t : State} (h : s.Quiet t) : s.StaysDown t := fun c hd =>
  ⟨h.ctx c ▸ hd.state, h.ctx c ▸ hd.stop, ⟨h.tly ▸ hd.low.1, (h.errOut hd.low.1).trans hd.low.2⟩,
    fun q e he => hd.queues q e (h.queue q ▸ he)⟩

/-! ### Updates of one unit -/

theorem onCore_staysDown (s : State) (i : CoreId) (f : CoreRt → CoreRt)
    (hf : ∀ k, (coreQueue (f (s.core i)) k).entries ⊆ (coreQueue (s.core i) k).entries) : s.StaysDown (s.onCore i f) := by
  refine keeps_staysDown (onCore_keeps s i f) (by simp) (by simp) rfl fun q => ?_
  cases q with
  | dq p => exact List.Subset.refl _
  | core j k =>
    by_cases h : j = i
    · subst h
      simpa only [State.queue, State.core_onCore_self] using hf k
    · simp only [State.queue, State.core_onCore_ne _ _ _ _ h]
      exact List.Subset.refl _

theorem onPart_staysDown (s : State) (p : PartId) (f : PartRt → PartRt)
    (hf : (f (s.prt p)).dq.entries ⊆ (s.prt p).dq.entries) : s.StaysDown (s.onPart p f) := by
  refine keeps_staysDown (onPart_keeps s p f) (by simp) (by simp) rfl fun q => ?_
  cases q with
  | core j k => exact List.Subset.refl _
  | dq r =>
    by_cases h : r = p
    · subst h
      simpa only [State.queue, State.prt_onPart_self] using hf
    · simp only [State.queue, State.prt_onPart_ne _ _ _ _ h]
      exact List.Subset.refl _

theorem onQueue_staysDown (s : State) (q : QueueId) (f : QueueRt → QueueRt) (hf : (f (s.queue q)).entries = (s.queue q).entries) :
    s.StaysDown (s.onQueue q f) := by
  refine keeps_staysDown (onQueue_keeps s q f) (by simp) (by simp) (congrArg Pins.errOutN (State.pins_onQueue s q f)) fun r => ?_
  by_cases h : r = q
  · subst h
    rw [State.queue_onQueue_self, hf]
    exact List.Subset.refl _
  · rw [State.queue_onQueue_ne _ _ _ _ h]
    exact List.Subset.refl _

theorem onFrame_staysDown (s : State) (c : CtxId) (f : FrameRt → FrameRt) : s.StaysDown (s.onFrame c f) := fun x hd => by
  have hctx : ((s.onFrame c f).ctx x).state = (s.ctx x).state ∧ ((s.onFrame c f).ctx x).stopLatch = (s.ctx x).stopLatch := by
    by_cases h : x = c
    · subst h
      simp [State.onFrame]
    · rw [State.onFrame, State.ctx_onCtx_ne _ _ _ _ h]
      exact ⟨rfl, rfl⟩
  exact ⟨hctx.1.trans hd.state, hctx.2.trans hd.stop, hd.low,
    fun q e he => hd.queues q e (keeps_noNewEntries (keeps_onFrame s c f) (by simp) (by simp) q he)⟩

theorem onBoot_staysDown (s : State) (f : BootRegs → BootRegs) : s.StaysDown (s.onBoot f) :=
  (onBoot_resets (P := fun _ => True) s f).staysDown (noNewEntries_of_eq fun q => by cases q <;> rfl)

theorem onTly_staysDown (s : State) (f : TlyRegs → TlyRegs) (hf : (f s.tly).holdOver = s.tly.holdOver) :
    s.StaysDown (s.onTly f) := fun c hd =>
  ⟨hd.state, hd.stop, ⟨hf.trans hd.low.1, hd.low.2⟩, fun q e he => hd.queues q e (by cases q <;> exact he)⟩

theorem onDom_staysDown (s : State) (n : Nat) (f : DomRt → DomRt) : s.StaysDown (s.onDom n f) := by
  refine aside_staysDown (onDom_keeps s n f) (by simp) ?_
  unfold State.onDom
  split <;> rfl

theorem refreshDev_staysDown (s : State) : s.StaysDown (refreshDev s) :=
  (refreshDev_resets (P := fun _ => True) s).staysDown (keeps_noNewEntries (refreshDev_keeps s) (by simp) (by simp))

/-! ### Detections and faults -/

theorem event_staysDown (s : State) (src code : U16) (ctx : Option (CtxId × BitVec 12)) (detail : Nat) :
    s.StaysDown (event s src code ctx detail) :=
  (event_ctx_resets (P := fun _ => True) s src code ctx detail).staysDown
    (keeps_noNewEntries (event_keeps s src code ctx detail) (by simp) (by simp))

theorem countIso_staysDown (s : State) (f : Flt) : s.StaysDown (countIso s f) := by
  unfold countIso
  split
  · exact onPart_staysDown s _ _ (List.Subset.refl _)
  · exact .refl s

/-- A fault of any context takes descriptors from the queues and adds none. -/
theorem faultCtx_noNewEntries (s : State) (c : CtxId) (code : U16) (dev : Bool) : s.NoNewEntries (faultCtx s c code dev) := by
  intro q
  by_cases h : (s.ctx c).state = .run ∨ (s.ctx c).state = .starting
  · obtain ⟨-, -, -, -, -, hq⟩ := faultCtx_run s c code dev h
    rw [hq]
    exact List.filter_sublist.subset
  · simp only [faultCtx, h, if_false]
    exact noNewEntries_of_eq (fun q => by cases q <;> rfl) q

theorem faultCtx_staysDown (s : State) (c : CtxId) (code : U16) (dev : Bool) : s.StaysDown (faultCtx s c code dev) := fun x hd => by
  have hctx := faultCtx_drains s c code dev x hd.state
  obtain ⟨hhold, hpin⟩ := faultCtx_hold s c code dev hd.low.1
  exact ⟨hctx ▸ hd.state, hctx ▸ hd.stop, ⟨hhold, hpin.trans hd.low.2⟩,
    fun q e he => hd.queues q e (faultCtx_noNewEntries s c code dev q he)⟩

theorem reactCtx_staysDown (s : State) (c : CtxId) : s.StaysDown (reactCtx s c) := fun x hd => by
  refine ⟨?_, ?_, ⟨reactCtx_hold s c, reactCtx_pin s c⟩, fun q e he => hd.queues q e ?_⟩
  · by_cases h : x = c
    · subst h
      rw [reactCtx_self]
      exact hd.state
    · rw [reactCtx_ne s h]
      exact hd.state
  · by_cases h : x = c
    · subst h
      rw [reactCtx_self]
    · rw [reactCtx_ne s h]
      exact hd.stop
  · exact keeps_noNewEntries (reactCtx_keeps s c) (by simp) (by simp) q he

theorem react_fault_staysDown (s : State) (c : CtxId) (code : U16) : s.StaysDown (faultCtx (reactCtx s c) c code false) :=
  (reactCtx_staysDown s c).trans (faultCtx_staysDown _ c code false)

/-- The contexts of a list that run or start are faulted. -/
theorem faults_staysDown (l : List CtxId) (code : U16) (s : State) :
    s.StaysDown (l.foldl (fun s c => if (s.ctx c).state = .run ∨ (s.ctx c).state = .starting then
      faultCtx (reactCtx s c) c code false else s) s) := by
  refine .foldl (fun s c => ?_) l s
  split
  · exact react_fault_staysDown s c code
  · exact .refl s

/-! ### A device-scoped event (R317, R329) -/

theorem reactDevice_ctx (s : State) (x : CtxId) : (reactDevice s).ctx x = { s.ctx x with stopLatch := true } := by
  simp only [reactDevice, State.ctx, vget_map]
  rfl

theorem onTly_keeps (s : State) (f : TlyRegs → TlyRegs) : s.keeps [.tly] (s.onTly f) := by
  intro k hk; cases k <;> first | rfl | simp at hk

theorem withCtxs_keeps (s : State) (v : Vector CtxRt 16) : s.keeps [.ctxs] { s with ctxs := v } := by
  intro k hk; cases k <;> first | rfl | simp at hk

theorem reactDevice_keeps (s : State) : s.keeps [.pins, .tly, .ctxs] (reactDevice s) :=
  State.keeps_trans (State.keeps_mono (errLow_keeps s) (by simp)) (State.keeps_trans
    (State.keeps_mono (onTly_keeps _ _) (by simp)) (State.keeps_mono (withCtxs_keeps _ _) (by simp)))

theorem reactDevice_low (s : State) : (reactDevice s).tly.holdOver = false ∧ (reactDevice s).pins.errOutN = false :=
  ⟨rfl, rfl⟩

theorem reactDevice_staysDown (s : State) : s.StaysDown (reactDevice s) := fun x hd => by
  have hctx := reactDevice_ctx s x
  exact ⟨by rw [hctx]; exact hd.state, by rw [hctx], reactDevice_low s,
    fun q e he => hd.queues q e (keeps_noNewEntries (reactDevice_keeps s) (by simp) (by simp) q he)⟩

theorem enterSafe_staysDown (s : State) : s.StaysDown (enterSafe s) := fun _ hd =>
  ⟨hd.state, hd.stop, hd.low, fun q e he => hd.queues q e (by cases q <;> exact he)⟩

theorem onErr_staysDown (s : State) (f : ErrRegs → ErrRegs) : s.StaysDown (s.onErr f) := fun _ hd =>
  ⟨hd.state, hd.stop, hd.low, fun q e he => hd.queues q e (by cases q <;> exact he)⟩

/-- A device-scoped event that follows another one within 1 h (R372). -/
def State.eventAgain (s : State) : Bool :=
  match s.err.deviceAt with
  | some t => s.within t 3600
  | none => false

/-- The contexts that a device-scoped event tears down. -/
def deviceHit (s : State) : List CtxId := (allFin 16).filter fun c => ((reactDevice s).ctx c).state ≠ .idle

/-- The faults of a list of contexts that an event of the whole device brings. -/
def faultAll (l : List CtxId) (code : U16) (s : State) : State := l.foldl (fun s c => faultCtx s c code true) s

/-- The teardowns of a device-scoped event. -/
def deviceFaults (s : State) (code : U16) : State := faultAll (deviceHit s) code (reactDevice s)

/-- The Tally's items and the aggregator's account of a device-scoped event that has torn down the contexts of a list. -/
def deviceNoted (u : State) (hit : List CtxId) : State :=
  (u.onTly fun t => { t with queue := t.queue.map fun i => { i with devFault := true } }).onErr fun e =>
    { e with deviceEvent := true, deviceAt := some u.ticks, restart := (e.restart ++ hit).dedup }

/-- A device-scoped event but for the SAFE state that follows a second one. -/
def deviceTorn (s : State) (code : U16) : State := deviceNoted (deviceFaults s code) (deviceHit s)

theorem deviceFault_eq (s : State) (code : U16) :
    deviceFault s code = if s.eventAgain then enterSafe (deviceTorn s code) else deviceTorn s code := rfl

theorem deviceTorn_staysDown (s : State) (code : U16) : s.StaysDown (deviceTorn s code) := by
  have hfaults : s.StaysDown (deviceFaults s code) :=
    (reactDevice_staysDown s).trans (.foldl (fun s c => faultCtx_staysDown s c code true) _ _)
  have hnoted (u : State) (hit : List CtxId) : u.StaysDown (deviceNoted u hit) :=
    (onTly_staysDown u _ rfl).trans (onErr_staysDown _ _)
  exact hfaults.trans (hnoted _ _)

theorem deviceFault_staysDown (s : State) (code : U16) : s.StaysDown (deviceFault s code) := by
  rw [deviceFault_eq]
  split
  · exact (deviceTorn_staysDown s code).trans (enterSafe_staysDown _)
  · exact deviceTorn_staysDown s code

/-! ### A partition goes offline or resets (R366, R369) -/

theorem partOffline_staysDown (s : State) (p : PartId) : s.StaysDown (partOffline s p) := by
  have hmark : s.StaysDown (markOffline s p) := onPart_staysDown s p _ (List.Subset.refl _)
  have hcores (u : State) : u.StaysDown ((coresOf p).foldl (fun s i => s.onCore i fun x => { x with
      cfh := { x.cfh with adopter := 3 } }) u) :=
    .foldl (fun s i => onCore_staysDown s i _ fun k => by cases k <;> exact List.Subset.refl _) _ u
  exact (((((hmark.trans (hcores _)).trans (onErr_staysDown _ _)).trans (event_staysDown _ _ _ _ _)).trans
    (faults_staysDown _ _ _)).trans (refreshDev_staysDown _))

theorem State.Recorded.staysDown {s t : State} (h : s.Recorded t) : s.StaysDown t := fun c hd =>
  have hctx : t.ctx c = s.ctx c := congrArg (·.get c) (h.keeps .ctxs (by simp))
  have htly : t.tly = s.tly := h.keeps .tly (by simp)
  ⟨hctx ▸ hd.state, hctx ▸ hd.stop, ⟨htly ▸ hd.low.1, (h.errOut hd.low.1).trans hd.low.2⟩,
    fun q e he => hd.queues q e (keeps_noNewEntries h.keeps (by simp) (by simp) q he)⟩

theorem writeSample_staysDown (s : State) (p : PartId) (cause : Bytes) (mask : Nat) :
    s.StaysDown (writeSample s p cause mask) := by
  have hpart : s.StaysDown (s.onPart p fun x => { x with prt := { x.prt with slot := BitVec.ofNat 3 s.boot.nextSample.1 } }) :=
    onPart_staysDown s p _ (List.Subset.refl _)
  exact fun c hd => ⟨hd.state, hd.stop, hd.low, fun q e he => (hpart c hd).queues q e (by cases q <;> exact he)⟩

theorem resetPartLogic_staysDown (s : State) (p : PartId) : s.StaysDown (resetPartLogic s p) := by
  have hcores (u : State) : u.StaysDown ((coresOf p).foldl (fun s i => s.onCore i CoreRt.cleared) u) :=
    .foldl (fun s i => onCore_staysDown s i _ fun k => by cases k <;> exact List.nil_subset _) _ u
  have hpart (u : State) : u.StaysDown (u.onPart p PartRt.cleared) := onPart_staysDown u p _ (List.nil_subset _)
  have hmcs (u : State) : u.StaysDown ((allFin 8).foldl (fun s k => if partOfStack k = p then s.onMc k fun _ => {} else s) u) := by
    refine .foldl (fun s k => ?_) _ u
    split
    · exact aside_staysDown (onMc_keeps s k _) (by simp) rfl
    · exact .refl s
  exact ((hcores s).trans (hpart _)).trans (hmcs _)

theorem dropDram_staysDown (s : State) (p : PartId) : s.StaysDown (dropDram s p) :=
  (dropDram_resets (P := fun _ => True) s p).staysDown (noNewEntries_of_eq fun q => by cases q <;> rfl)

theorem resetSampled_staysDown (s : State) (p : PartId) (src code : U16) (cause : Bytes) (ctx : Option (CtxId × BitVec 12)) :
    s.StaysDown (resetSampled s p src code cause ctx) := by
  have hbegin : s.StaysDown (resetBegins s p src code) := by
    unfold resetBegins
    exact onPart_staysDown s p _ (List.Subset.refl _)
  have hnoted : s.StaysDown (resetNoted s p src code ctx) :=
    (hbegin.trans (event_staysDown _ _ _ _ _)).trans (recTrigger_recorded _ _ _).staysDown
  have hfaults (u : State) : u.StaysDown (resetFaults u p code) :=
    (faults_staysDown _ _ _).trans (onTly_staysDown _ _ rfl)
  exact (hnoted.trans (hfaults _)).trans (writeSample_staysDown _ p cause _)

theorem resetCleared_staysDown (s : State) (p : PartId) : s.StaysDown (resetCleared s p) :=
  (((resetPartLogic_staysDown s p).trans (dropDram_staysDown _ p)).trans (loseBlocks_recorded _ p).staysDown).trans
    (onBoot_staysDown _ _)

theorem partReset_staysDown (s : State) (p : PartId) (src code : U16) (cause : Bytes) (ctx : Option (CtxId × BitVec 12)) :
    s.StaysDown (partReset s p src code cause ctx) := by
  by_cases h : (s.prt p).prt.state = .service
  · have hcleared := (resetSampled_staysDown s p src code cause ctx).trans (resetCleared_staysDown _ p)
    rcases partReset_eq src code cause ctx h with he | he <;> rw [he]
    · exact hcleared
    · exact hcleared.trans (partOffline_staysDown _ p)
  · simp only [partReset, ne_eq, h, not_false_eq_true, if_true]
    exact .refl s

/-! ### A core is fenced (R363 to R365) -/

theorem rewindChains_staysDown (s : State) (i : CoreId) : s.StaysDown (rewindChains s i) := by
  refine .foldl (fun s c => ?_) _ s
  split
  · exact .refl s
  · refine .foldl (fun s l => ?_) _ s
    split
    · exact .refl s
    · split
      · exact .refl s
      · exact (onFrame_staysDown s c _).trans (onQueue_staysDown _ _ _ rfl)

theorem QueueRt.adopt_entries (x y : QueueRt) (os : List (Fin 4)) : (x.adopt y os).entries = x.entries := by
  simp only [QueueRt.adopt]

theorem moveLists_staysDown (s : State) (i a : CoreId) : s.StaysDown (moveLists s i a) := by
  unfold moveLists
  exact .foldl (fun s k => onQueue_staysDown s _ _ (QueueRt.adopt_entries _ _ _)) _ s

theorem powerOff_staysDown (s : State) (i : CoreId) : s.StaysDown (powerOff s i) := by
  have hdown (u : State) : u.StaysDown (u.onCore i fun x => { coreDown x false with ldgCe := 0, ldgUe := 0 }) :=
    onCore_staysDown u i _ fun k => by cases k <;> exact List.nil_subset _
  have hdrop (u : State) : u.StaysDown (dropWindow u (ledgeBase i) 0x1000000) :=
    aside_staysDown (dropWindow_keeps u _ _) (by simp) rfl
  exact (((onDom_staysDown s _ _).trans (onDom_staysDown _ _ _)).trans (hdown _)).trans (hdrop _)

theorem adopterOn_staysDown (s : State) (i : CoreId) : s.StaysDown (adopterOn s i) := by
  unfold adopterOn
  split
  · exact .refl s
  · refine .foldl (fun u n => ?_) _ s
    split
    · exact .refl u
    · exact onDom_staysDown u n _

theorem endPair_staysDown (s : State) (p : PartId) : s.StaysDown (endPair s p) := onPart_staysDown s p _ (List.Subset.refl _)

/-- A pair of which the core in slot `r` is one ends. -/
theorem pairEnds_staysDown (s : State) (p : PartId) (r : Fin 3) : s.StaysDown (match (s.prt p).hub.pair with
    | some (l, t) => if l = r ∨ t = r then endPair s p else s
    | none => s) := by
  split
  · split
    · exact endPair_staysDown s p
    · exact .refl s
  · exact .refl s

theorem onCfh_staysDown (s : State) (i : CoreId) (f : CoreRt → CfhRegs) : s.StaysDown (s.onCore i fun x => { x with cfh := f x }) :=
  onCore_staysDown s i _ fun k => by cases k <;> exact List.Subset.refl _

theorem fence_staysDown (s : State) (i : CoreId) (code : U16) : s.StaysDown (fence s i code) := by
  have hfaults (u : State) : u.StaysDown ((ctxsOnCore u i).foldl (fun s c => faultCtx (reactCtx s c) c code false) u) :=
    .foldl (fun s c => react_fault_staysDown s c code) _ u
  have hadopt (u : State) (a : Fin 3) : u.StaysDown (((coresOf (partOfCore i)).filter fun k => u.isFenced k).foldl (fun s k =>
      s.onCore k fun x => { x with cfh := { x.cfh with adopter := BitVec.ofNat 2 a.1 } }) u) :=
    .foldl (fun s k => onCfh_staysDown s k _) _ u
  simp only [fence]
  split
  · exact .refl s
  · split
    · exact ((hfaults s).trans (event_staysDown _ _ _ _ _)).trans (partOffline_staysDown _ _)
    · next a _ =>
      refine State.StaysDown.trans ?_ (refreshDev_staysDown _)
      refine State.StaysDown.trans ?_ (onBoot_staysDown _ _)
      refine State.StaysDown.trans ?_ (logAppend_quiet _ _ _).staysDown
      refine State.StaysDown.trans ?_ (event_staysDown _ _ _ _ _)
      refine State.StaysDown.trans ?_ (pairEnds_staysDown _ _ _)
      refine State.StaysDown.trans ?_ (adopterOn_staysDown _ _)
      refine State.StaysDown.trans ?_ (onPart_staysDown _ _ _ (List.Subset.refl _))
      refine State.StaysDown.trans ?_ (powerOff_staysDown _ i)
      refine State.StaysDown.trans ?_ (moveLists_staysDown _ i _)
      refine State.StaysDown.trans ?_ (rewindChains_staysDown _ i)
      refine State.StaysDown.trans ?_ (hadopt _ a)
      exact (hfaults s).trans (onCfh_staysDown _ i _)

theorem countFault_staysDown (s : State) (c : Option CtxId) (code : U16) (i : CoreId) : s.StaysDown (countFault s c code i) := by
  simp only [countFault]
  split
  · exact (onCfh_staysDown s i _).trans (fence_staysDown _ i code)
  · exact onCfh_staysDown s i _

/-! ### Any event that a command raises -/

/-- The reaction to an event that has been recorded: of the whole device, or of its context. -/
def reactsTo (s : State) (f : Flt) (ctx : Option (CtxId × BitVec 12)) : State :=
  if isDevice f.code then deviceFault s f.code
  else if isFault f.code then
    match ctx with
    | some (c, g) => if g = (s.ctx c).gen then faultCtx (reactCtx s c) c f.code false else s
    | none => s
  else s

theorem reactsTo_staysDown (s : State) (f : Flt) (ctx : Option (CtxId × BitVec 12)) : s.StaysDown (reactsTo s f ctx) := by
  unfold reactsTo
  split
  · exact deviceFault_staysDown s f.code
  · split
    · split
      · split
        · exact react_fault_staysDown s _ _
        · exact .refl s
      · exact .refl s
    · exact .refl s

/-- What is torn down stays so whatever else is raised, with all that follows it. -/
theorem raiseFlt_staysDown (s : State) (f : Flt) (ctx : Option (CtxId × BitVec 12)) : s.StaysDown (raiseFlt s f ctx) := by
  have hevent := (countIso_staysDown s f).trans (event_staysDown _ f.src f.code ctx f.detail)
  have hcounted : s.StaysDown (f.cores.foldl (fun s i => countFault s (ctx.map (·.1)) f.code i)
      (reactsTo (event (countIso s f) f.src f.code ctx f.detail) f ctx)) :=
    (hevent.trans (reactsTo_staysDown _ f ctx)).trans (.foldl (fun s i => countFault_staysDown s _ _ i) _ _)
  simp only [raiseFlt]
  split
  · exact hevent
  · split
    · split
      · exact hcounted.trans (partReset_staysDown _ _ _ _ _ _)
      · exact hcounted
    · exact hcounted

theorem noteUe_staysDown (s : State) (a : Nat) : s.StaysDown (noteUe s a) := by
  unfold noteUe
  split
  · exact onCore_staysDown s _ _ fun k => by cases k <;> exact List.Subset.refl _
  · exact aside_staysDown (l := [.stks]) (fun k hk => by cases k <;> first | rfl | simp at hk) (by simp) rfl
  · exact aside_staysDown (onMc_keeps s _ _) (by simp) rfl
  · exact .refl s

theorem raiseRun_staysDown (s : State) (f : Flt) (ctx : Option (CtxId × BitVec 12)) : s.StaysDown (raiseRun s f ctx) := by
  simp only [raiseRun]
  split
  · exact (noteUe_staysDown s _).trans (raiseFlt_staysDown _ f ctx)
  · exact raiseFlt_staysDown s f ctx

theorem runFault_staysDown (s : State) (f : Flt) (c : CtxId) (g : BitVec 12) : s.StaysDown (runFault s f c g) := by
  simp only [runFault]
  split
  · exact (raiseRun_staysDown s f _).trans (react_fault_staysDown _ c _)
  · exact raiseRun_staysDown s f _

theorem raiseUe_staysDown (s : State) (k : Option Nat) (cg : CtxId × BitVec 12) : s.StaysDown (raiseUe s k cg) := by
  cases k with
  | none => exact .refl s
  | some k => exact runFault_staysDown s _ _ _

/-! ### The end of a run with a fault of its own -/

/-- The writes of a run touch memory, its uncorrectable words and the owners of Ledge lines, also where they leave a word
uncorrectable. -/
theorem commitUe_keeps (s after : State) (f : Facts) (w : Who) (ws : List (Nat × Bytes)) :
    after.keeps [.mem, .bad, .lineOwner] (commitUe s after f w ws).1 := by
  simp only [commitUe]
  split
  · exact commitRun_keeps after w ws
  · exact State.keeps_trans (commitRun_keeps after w ws) fun k hk => by cases k <;> first | rfl | simp at hk
  · exact commitRun_keeps after w ws

/-- A fault of a context of the present generation that runs tears it down. -/
theorem raiseFlt_down {s : State} {f : Flt} {c : CtxId} {g : BitVec 12} (hf : f.OfCtx) (he : s.err.expect = false)
    (hg : (s.ctx c).gen = g) (hs : (s.ctx c).state = .run) : (raiseFlt s f (some (c, g))).Down c := by
  subst hg
  obtain ⟨hst, hstop, -, -, hpin, hhold, hqu, -⟩ :=
    raiseFlt_run s f c hf.cores hf.reset hf.notDevice hf.fault he (.inl hs) _ rfl
  refine ⟨hst, hstop, ⟨hhold, hpin⟩, fun q e he => ?_⟩
  rw [hqu] at he
  simpa using (List.mem_filter.1 he).2

theorem runFault_down {s : State} {f : Flt} {c : CtxId} {g : BitVec 12} (hf : f.OfCtx) (he : s.err.expect = false)
    (hg : (s.ctx c).gen = g) (hs : (s.ctx c).state = .run) : (runFault s f c g).Down c := by
  have hraise (u : State) (hu : u.ctxs = s.ctxs) (hue : u.err.expect = s.err.expect) : (raiseFlt u f (some (c, g))).Down c :=
    have hctx : u.ctx c = s.ctx c := congrArg (·.get c) hu
    raiseFlt_down hf (hue.trans he) (hctx ▸ hg) (hctx ▸ hs)
  have hrun : (raiseRun s f (some (c, g))).Down c := by
    simp only [raiseRun]
    split
    · exact hraise _ (noteUe_keeps s _ .ctxs (by simp)) (keeps_expect (noteUe_keeps s _) (by simp))
    · exact hraise s rfl rfl
  simp only [runFault]
  split
  · exact react_fault_staysDown _ c _ c hrun
  · exact hrun

/-- A run that ends with a fault of its context: the fault tears the context down, and what follows it leaves that so. -/
theorem endRun_down {s : State} {facts : Facts} {j : Job} {resid : Option (Nat × U16)} {o : Out} {f : Flt} (hflt : o.flt = some f)
    (hf : f.OfCtx) (he : o.after.err.expect = false) (hg : (o.after.ctx j.who.ctx).gen = j.who.gen)
    (hs : (o.after.ctx j.who.ctx).state = .run) : (endRun s facts j resid o).Down j.who.ctx := by
  have hk := commitUe_keeps s o.after facts j.who o.writes
  have hctx : (commitUe s o.after facts j.who o.writes).1.ctx j.who.ctx = o.after.ctx j.who.ctx :=
    congrArg (·.get j.who.ctx) (hk .ctxs (by simp))
  have hfault := runFault_down (s := (commitUe s o.after facts j.who o.writes).1) hf ((keeps_expect hk (by simp)).trans he)
    (hctx ▸ hg) (hctx ▸ hs)
  have hmore (u : State) : u.StaysDown (o.more.foldl (fun s g =>
      if g.reset.isSome || g.code = cIsolated then raiseRun s g (some (j.who.ctx, j.who.gen))
      else event s g.src g.code (some (j.who.ctx, j.who.gen)) g.detail) u) := by
    refine .foldl (fun s g => ?_) _ u
    split
    · exact raiseRun_staysDown s g _
    · exact event_staysDown s _ _ _ _
  simp only [endRun, hflt]
  exact raiseUe_staysDown _ _ _ _ (hmore _ _ hfault)

end Sys2Proof.Machine

open Sys2Proof Sys2Proof.Machine

/-- Settles O15: the run's own fault tears its context down (`endRun_down`), and neither its further events nor the end of the
command brings anything of it back. -/
theorem engineFaultTearsTheContextDown : Obligations.EngineFaultTearsTheContextDown := by
  unfold Obligations.EngineFaultTearsTheContextDown
  intro c r s j f hc hj hflt hcores hreset hdev hfault he hg hs
  have hdown : (r.run s).Down j.who.ctx := by
    rw [EngineRow.run_some hj]
    exact endRun_down hflt ⟨hcores, hreset, hdev, hfault⟩ he hg hs
  obtain ⟨t, ht, hq⟩ := finish_next s (r.run s)
  have hend := hq.staysDown _ hdown
  exact ⟨t, by rw [exec_engine hc, ht], hend.state, hend.stop, hend.low.2, hend.queues⟩
end

section
/-!
PROOFS. Device-scoped events (R317, R329): the trip of a clock or voltage monitor (R333, R334), the Tally's lock-step (R297) and
the end of ERR_HOLD (R321).
-/

open Sys2Proof Sys2Proof.Machine

namespace Sys2Proof.Machine

/-! ### The teardowns of an event of the whole device (R317) -/

/-- A fault of a context touches of the Tally only the frames that wait for a verdict. -/
theorem faultCtx_tly (s : State) (c : CtxId) (code : U16) (dev : Bool) :
    ∃ q n, (faultCtx s c code dev).tly = { s.tly with queue := q, qfull := n } := by
  have hpush (u : State) (i : TallyItem) : ∃ q n, (tallyPush u i).tly = { u.tly with queue := q, qfull := n } := by
    simp only [tallyPush]
    split <;> exact ⟨_, _, rfl⟩
  have htorn (u : State) : (teardown u c none code).tly = u.tly := teardown_keeps u c none code .tly (by simp)
  simp only [faultCtx]
  split
  · rw [htorn]
    split
    · obtain ⟨q, n, h⟩ := hpush ((s.onTly fun t => { t with queue := t.queue.map fun i =>
        if i.ctx = c ∧ i.gen = (s.ctx c).gen then
          { i with faulted := i.faulted || !dev, devFault := i.devFault || dev, nFault := sat32 i.nFault }
        else i }).onFrame c fun f => { f with
          faulted := f.faulted || !dev, devFault := f.devFault || dev, nFault := sat32 f.nFault }) _
      exact ⟨q, n, h⟩
    · exact ⟨_, _, rfl⟩
  · exact ⟨_, _, rfl⟩

/-- A fault sets egress stop latches and clears none. -/
theorem faultCtx_stop {s : State} (c : CtxId) (code : U16) (dev : Bool) {x : CtxId} (h : (s.ctx x).stopLatch = true) :
    ((faultCtx s c code dev).ctx x).stopLatch = true := by
  by_cases hx : x = c
  · subst hx
    by_cases hr : (s.ctx x).state = .run ∨ (s.ctx x).state = .starting
    · obtain ⟨-, hstop, -⟩ := faultCtx_run s x code dev hr
      exact hstop
    · simp only [faultCtx, hr, if_false]
      exact h
  · rw [faultCtx_ne s code dev hx]
    exact h

theorem faultAll_keeps (l : List CtxId) (code : U16) (s : State) :
    s.keeps [.cores, .parts, .ctxs, .rng, .tly] (faultAll l code s) :=
  foldl_keeps _ (fun s c => faultCtx_keeps s c code true) l s

theorem faultAll_tly (l : List CtxId) (code : U16) (s : State) :
    ∃ q n, (faultAll l code s).tly = { s.tly with queue := q, qfull := n } := by
  induction l generalizing s with
  | nil => exact ⟨_, _, rfl⟩
  | cons c l ih =>
    obtain ⟨q, n, h⟩ := ih (faultCtx s c code true)
    obtain ⟨q', n', h'⟩ := faultCtx_tly s c code true
    exact ⟨q, n, h.trans (by rw [h'])⟩

theorem faultAll_hold (l : List CtxId) (code : U16) (s : State) (h : s.tly.holdOver = false) :
    (faultAll l code s).tly.holdOver = false ∧ (faultAll l code s).pins.errOutN = s.pins.errOutN := by
  induction l generalizing s with
  | nil => exact ⟨h, rfl⟩
  | cons c l ih =>
    obtain ⟨hc, hp⟩ := faultCtx_hold s c code true h
    obtain ⟨hc', hp'⟩ := ih _ hc
    exact ⟨hc', hp'.trans hp⟩

theorem faultAll_stop (l : List CtxId) (code : U16) (s : State) {x : CtxId} (h : (s.ctx x).stopLatch = true) :
    ((faultAll l code s).ctx x).stopLatch = true := by
  induction l generalizing s with
  | nil => exact h
  | cons c l ih => exact ih _ (faultCtx_stop c code true h)

theorem faultAll_draining (l : List CtxId) (code : U16) (s : State) {x : CtxId} (h : (s.ctx x).state = .draining) :
    ((faultAll l code s).ctx x).state = .draining := by
  induction l generalizing s with
  | nil => exact h
  | cons c l ih => exact ih _ (by rw [faultCtx_drains s c code true x h]; exact h)

/-- Each context of the list that runs or starts drains. -/
theorem faultAll_drains {l : List CtxId} (code : U16) {s : State} {x : CtxId} (hx : x ∈ l)
    (h : (s.ctx x).state = .run ∨ (s.ctx x).state = .starting) : ((faultAll l code s).ctx x).state = .draining := by
  induction l generalizing s with
  | nil => cases hx
  | cons c l ih =>
    by_cases hc : x = c
    · subst hc
      obtain ⟨hst, -⟩ := faultCtx_run s x code true h
      exact faultAll_draining l code _ hst
    · refine ih ((List.mem_cons.1 hx).resolve_left hc) ?_
      rw [faultCtx_ne s code true hc]
      exact h

/-! ### An event of the whole device (R317, R329) -/

/-- What a device-scoped event leaves: it stands in the aggregator with its time, ERR_OUT_N is low within its hold time, every
egress is stopped, and every context that ran or started drains. -/
structure State.DeviceEvent (s t : State) : Prop where
  event : t.err.deviceEvent = true
  time : t.err.deviceAt = some s.ticks
  override : t.tly.devOverride = true
  low : t.tly.holdOver = false ∧ t.pins.errOutN = false
  stop : ∀ x, (t.ctx x).stopLatch = true
  drains : ∀ x, (s.ctx x).state = .run ∨ (s.ctx x).state = .starting → (t.ctx x).state = .draining
  keeps : s.keeps [.err, .cores, .parts, .ctxs, .rng, .tly, .pins, .dev] t

theorem reactDevice_override (s : State) : (reactDevice s).tly.devOverride = true := rfl

theorem deviceNoted_keeps (u : State) (hit : List CtxId) : u.keeps [.tly, .err] (deviceNoted u hit) := by
  intro k hk
  cases k
  case tly | err => simp at hk
  all_goals rfl

/-- The event in the aggregator and at the Tally's items adds to the teardowns and takes nothing from them. -/
theorem deviceNoted_event {s u : State} {l : List Kind} (hit : List CtxId) (hk : s.keeps l u)
    (hl : ∀ k ∈ l, k ∈ [Kind.cores, .parts, .ctxs, .rng, .tly, .pins])
    (hover : u.tly.devOverride = true) (hlow : u.tly.holdOver = false ∧ u.pins.errOutN = false)
    (hstop : ∀ x, (u.ctx x).stopLatch = true)
    (hdrains : ∀ x, (s.ctx x).state = .run ∨ (s.ctx x).state = .starting → (u.ctx x).state = .draining) :
    s.DeviceEvent (deviceNoted u hit) := by
  have hk' := State.keeps_mono hk hl
  exact ⟨rfl, congrArg some (hk' .ticks (by simp)), hover, hlow, hstop, hdrains,
    State.keeps_trans (State.keeps_mono hk' (by simp)) (State.keeps_mono (deviceNoted_keeps u hit) (by simp))⟩

theorem deviceTorn_event (s : State) (code : U16) : s.DeviceEvent (deviceTorn s code) := by
  have hreact := reactDevice_low s
  have hfaults := faultAll_hold (deviceHit s) code (reactDevice s) hreact.1
  refine deviceNoted_event (l := [.cores, .parts, .ctxs, .rng, .tly, .pins]) (deviceHit s) ?_ (by simp) ?_
    ⟨hfaults.1, hfaults.2.trans hreact.2⟩ (fun x => faultAll_stop _ code _ (by rw [reactDevice_ctx])) fun x hx => ?_
  · exact State.keeps_trans (State.keeps_mono (reactDevice_keeps s) (by simp))
      (State.keeps_mono (faultAll_keeps (deviceHit s) code _) (by simp))
  · obtain ⟨q, n, htly⟩ := faultAll_tly (deviceHit s) code (reactDevice s)
    rw [deviceFaults, htly]
    exact reactDevice_override s
  · have hr : ((reactDevice s).ctx x).state = (s.ctx x).state := by rw [reactDevice_ctx]
    refine faultAll_drains code (List.mem_filter.2 ⟨List.mem_finRange x, ?_⟩) (hr.symm ▸ hx)
    rw [hr]
    rcases hx with hx | hx <;> simp [hx]

theorem enterSafe_keeps (s : State) : s.keeps [.dev] (enterSafe s) := by
  intro k hk; cases k <;> first | rfl | simp at hk

theorem State.DeviceEvent.safe {s t : State} (h : s.DeviceEvent t) : s.DeviceEvent (enterSafe t) :=
  ⟨h.event, h.time, h.override, h.low, h.stop, h.drains,
    State.keeps_trans h.keeps (State.keeps_mono (enterSafe_keeps t) (by simp))⟩

theorem deviceFault_event (s : State) (code : U16) : s.DeviceEvent (deviceFault s code) := by
  rw [deviceFault_eq]
  split
  · exact (deviceTorn_event s code).safe
  · exact deviceTorn_event s code

/-- The end of the command leaves it so. -/
theorem State.DeviceEvent.quiet {s t u : State} (h : s.DeviceEvent t) (hq : t.Quiet u) : s.DeviceEvent u := by
  refine ⟨(hq.errOf (·.deviceEvent) fun _ => rfl).trans h.event, (hq.errOf (·.deviceAt) fun _ => rfl).trans h.time, ?_,
    ⟨?_, (hq.errOut h.low.1).trans h.low.2⟩, fun x => ?_, fun x hx => ?_, State.keeps_trans h.keeps (State.keeps_mono hq.1 (by simp))⟩
  · rw [hq.tly]; exact h.override
  · rw [hq.tly]; exact h.low.1
  · rw [hq.ctx]; exact h.stop x
  · rw [hq.ctx]; exact h.drains x hx

/-- A code of the whole device, raised outside expected-event mode. -/
theorem raiseCode_device (s : State) (src : U16) {code : U16} (detail : Nat) (hd : isDevice code = true) (hi : code ≠ cIsolated)
    (he : s.err.expect = false) : raiseCode s src code none detail = deviceFault (event s src code none detail) code := by
  simp only [raiseCode, raiseFlt, countIso, hi, he, hd, if_false, if_true, Bool.false_eq_true, List.foldl_nil]

theorem raiseCode_event (s : State) (src : U16) {code : U16} (detail : Nat) (hd : isDevice code = true) (hi : code ≠ cIsolated)
    (he : s.err.expect = false) : s.DeviceEvent (raiseCode s src code none detail) := by
  rw [raiseCode_device s src detail hd hi he]
  have hk := event_keeps_none s src code detail
  have h := deviceFault_event (event s src code none detail) code
  have hctx (x) : (event s src code none detail).ctx x = s.ctx x := congrArg (·.get x) (hk .ctxs (by simp))
  exact ⟨h.event, h.time.trans (congrArg some (hk .ticks (by simp))), h.override, h.low, h.stop,
    fun x hx => h.drains x (by rw [hctx]; exact hx), State.keeps_trans (State.keeps_mono hk (by simp)) h.keeps⟩

/-! ### Monitor trips (R333, R334) -/

theorem exec_clkMon {s : State} {die : Fin 4} (mon : BitVec 6) (v : U32) (h : dieThere s.part die = true) :
    exec (.clkMon die mon v) s =
      finish s (raiseCode s (srcId die.1 0x23 mon.toNat) cClkMon none (monDetail mon.toNat v.toNat)) := by
  show execClkMon die mon v s = _
  simp only [execClkMon, h, if_true]

/-- The power emergency that a voltage monitor opens while its condition holds (R462). -/
def voltTrips (s : State) : State := (beginPower s).onPwr fun p => { p with voltCond := true }

theorem exec_voltMon {s : State} {die : Fin 4} (mon : BitVec 6) (v : U32) (h : dieThere s.part die = true) :
    exec (.voltMon die mon v) s =
      finish s (raiseCode (voltTrips s) (srcId die.1 0x24 mon.toNat) cVoltMon none (monDetail mon.toNat v.toNat)) := by
  show execVoltMon die mon v s = _
  simp only [execVoltMon, h, if_true]
  rfl

theorem voltTrips_keeps (s : State) : s.keeps [.pwr] (voltTrips s) := by
  have hbegin : s.keeps [.pwr] (beginPower s) := by
    unfold beginPower
    split <;> exact onPwr_keeps s _
  exact State.keeps_trans hbegin (onPwr_keeps _ _)

/-! ### The Tally's lock-step (R297) -/

/-- A TALLY_LOCKSTEP that follows another one within 1 h (R297). -/
def State.lockstepAgain (s : State) : Bool :=
  match s.tly.lockstepAt with
  | some t => s.within t 3600
  | none => false

/-- The lock-step error is kept with its time, and a second one within 1 h is SAFE state. -/
def lockstepNoted (s u : State) : State :=
  let u := u.onTly fun t => { t with lockstepErr := true, lockstepAt := some s.ticks }
  if s.lockstepAgain then enterSafe u else u

theorem exec_tallyLockstep (b : Bool) (s : State) : exec (.tallyLockstep b) s =
    finish s (let u := lockstepNoted s (raiseCode s srcTally (if b then 0x0A02 else 0x0A01) none)
      if (u.proc .tally).state = .running then restartProc u .tally true else u) := rfl

theorem lockstepNoted_keeps (s u : State) : u.keeps [.tly, .dev] (lockstepNoted s u) := by
  unfold lockstepNoted
  split <;> intro k hk <;> cases k <;> first | rfl | simp at hk

theorem lockstepNoted_tly (s u : State) :
    (lockstepNoted s u).tly = { u.tly with lockstepErr := true, lockstepAt := some s.ticks } := by
  unfold lockstepNoted
  split <;> rfl

theorem lockstepNoted_pins (s u : State) : (lockstepNoted s u).pins = u.pins := by
  unfold lockstepNoted
  split <;> rfl

theorem lockstepNoted_safe {s : State} (u : State) (h : s.lockstepAgain = true) : (lockstepNoted s u).dev = .safe := by
  unfold lockstepNoted
  rw [if_pos h]
  rfl

/-- The Tally restarts. -/
def tallyRestarts (s : State) : State :=
  (s.onProc .tally fun x => { x with state := .restarting, restarts := sat32 x.restarts }).onTly fun t =>
    { t with restarting := true, ready := false }

theorem restartProc_tally (s : State) (fault : Bool) : restartProc s .tally fault = tallyRestarts s := by
  simp only [restartProc, reduceCtorEq, false_and, if_false, tallyRestarts]

theorem tallyRestarts_keeps (s : State) : s.keeps [.fwp, .tly] (tallyRestarts s) := by
  intro k hk; cases k <;> first | rfl | simp at hk

theorem tallyRestarts_tly (s : State) : (tallyRestarts s).tly = { s.tly with restarting := true, ready := false } := rfl

theorem tallyRestarts_proc (s : State) : ((tallyRestarts s).proc .tally).state = .restarting :=
  congrArg FwpRegs.state (State.fwp_onFwp_self s (procNum .tally) fun x => { x with
    state := .restarting, restarts := sat32 x.restarts })

/-- While the Tally restarts SAFE_ST is 0b00 (R320). -/
theorem safeStOf_restarting {s : State} (h : s.tly.restarting = true) : safeStOf s = 0 := by
  simp only [safeStOf, h, true_or, if_true, ite_self]

/-! ### The end of ERR_HOLD (R321) -/

theorem ringSignal_pins (s : State) (r : Fin 17) : (ringSignal s r).pins = s.pins := by
  simp only [ringSignal]
  split
  · exact msixSignal_pins _ _
  · rfl

theorem ringDrop_pins (s : State) (r : Fin 17) : (ringDrop s r).pins = s.pins := by
  simp only [ringDrop]
  split <;> rfl

theorem ringData_pins (s : State) (r : Fin 17) (b : Bytes) : (ringData s r b).pins = s.pins := by
  simp only [ringData]
  split <;> rfl

theorem ringWrite_pins (s : State) (r : Fin 17) (b : Bytes) : (ringWrite s r b).pins = s.pins := by
  simp only [ringWrite]
  split
  · exact ringDrop_pins s r
  · rw [ringSignal_pins, State.pins_emit]
    exact ringData_pins s r b

theorem storeRecord_pins (s : State) (r : ErrRec) : (storeRecord s r).pins = s.pins := by
  have hirq : (aggIrq (keepRecord s r) (errBytes r)).pins = s.pins := ringWrite_pins _ 16 _
  simp only [storeRecord]
  split
  · exact (logAppend_pins _ _ _).trans hirq
  · exact hirq

theorem drainRecords_pins (s : State) : (drainRecords s).pins = s.pins :=
  foldl_pins storeRecord storeRecord_pins s.err.fifo _

theorem trackRun_pins (s : State) : (trackRun s).pins = s.pins := by
  unfold trackRun
  split <;> rfl

theorem drivePins_errOut (old s : State) : (drivePins old s).pins.errOutN =
    (s.pins.errOutN || (s.tly.holdOver && s.tly.selftestOk && decide (safeStOf s ≠ 0))) := by
  simp only [drivePins]
  split
  · rw [msixSignal_pins]; rfl
  · rfl

/-- ERR_OUT_N at the end of a command: as its meaning has left it, or released by R321. -/
theorem finish_errOut (old s : State) : ∃ t, finish old s = .next t ∧ s.Quiet t ∧ t.pins.errOutN =
    (s.pins.errOutN || (s.tly.holdOver && s.tly.selftestOk && decide (safeStOf s ≠ 0))) := by
  have hq := (drainRecords_quiet s).trans (trackRun_quiet _)
  refine ⟨_, rfl, hq.trans (drivePins_quiet old _), ?_⟩
  have hpins : (trackRun (drainRecords s)).pins = s.pins := (trackRun_pins _).trans (drainRecords_pins s)
  rw [drivePins_errOut, hpins, hq.tly, keeps_safeStOf hq.1 (by simp) (by simp) (by simp) (by simp)]

theorem exec_errHoldExpiry (s : State) : exec .errHoldExpiry s = finish s (s.onTly fun t => { t with holdOver := true }) := rfl

end Sys2Proof.Machine

open Sys2Proof Sys2Proof.Machine

/-- Settles O5: both monitors end in a device-scoped event (`raiseCode_event`), the voltage monitor after its power emergency. -/
theorem monitorTripIsADeviceEvent : Obligations.MonitorTripIsADeviceEvent := by
  unfold Obligations.MonitorTripIsADeviceEvent
  intro s die mon v c hd he hc
  rcases hc with rfl | rfl
  · obtain ⟨t, ht, hq⟩ := finish_next s (raiseCode s (srcId die.1 0x23 mon.toNat) cClkMon none (monDetail mon.toNat v.toNat))
    have h := (raiseCode_event s (srcId die.1 0x23 mon.toNat) (monDetail mon.toNat v.toNat) (by decide) (by decide) he).quiet hq
    exact ⟨t, by rw [exec_clkMon mon v hd, ht], h.event, h.time, h.override, h.low.2, h.stop, h.drains, nofun,
      h.keeps .mem (by simp), h.keeps .tb (by simp), h.keeps .pending (by simp)⟩
  · have hk := voltTrips_keeps s
    have hctx (x) : (voltTrips s).ctx x = s.ctx x := congrArg (·.get x) (hk .ctxs (by simp))
    obtain ⟨t, ht, hq⟩ := finish_next s
      (raiseCode (voltTrips s) (srcId die.1 0x24 mon.toNat) cVoltMon none (monDetail mon.toNat v.toNat))
    have h := (raiseCode_event (voltTrips s) (srcId die.1 0x24 mon.toNat) (monDetail mon.toNat v.toNat) (by decide) (by decide)
      ((keeps_expect hk (by simp)).trans he)).quiet hq
    have hpwr : t.pwr = (voltTrips s).pwr := h.keeps .pwr (by simp)
    have hkt := State.keeps_trans (l := [.err, .cores, .parts, .ctxs, .rng, .tly, .pins, .dev, .pwr])
      (State.keeps_mono hk (by simp)) (State.keeps_mono h.keeps (by simp))
    exact ⟨t, by rw [exec_voltMon mon v hd, ht], h.event, h.time.trans (congrArg some (hk .ticks (by simp))), h.override,
      h.low.2, h.stop, fun x hx => h.drains x (by rw [hctx]; exact hx), fun _ => by rw [hpwr]; rfl,
      hkt .mem (by simp), hkt .tb (by simp), hkt .pending (by simp)⟩

/-- Settles O49: a lock-step error is a device-scoped event after which the Tally restarts; the end of ERR_HOLD releases
ERR_OUT_N where R321 has it so (`finish_errOut`). -/
theorem tallyLockstepAndErrorPin : Obligations.TallyLockstepAndErrorPin := by
  unfold Obligations.TallyLockstepAndErrorPin
  refine ⟨fun s b he hrun => ?_, fun s => ?_⟩
  · have h := raiseCode_event s srcTally (code := if b then 0x0A02 else 0x0A01) 0 (by cases b <;> decide) (by cases b <;> decide) he
    rw [exec_tallyLockstep]
    set r := raiseCode s srcTally (if b then 0x0A02 else 0x0A01) none
    have hk := State.keeps_trans (l := [.fwp, .tly, .dev]) (State.keeps_mono (lockstepNoted_keeps s r) (by simp))
      (State.keeps_mono (tallyRestarts_keeps _) (by simp))
    have hproc : ((lockstepNoted s r).proc .tally).state = .running := by
      rw [State.proc, lockstepNoted_keeps s r .fwp (by simp), h.keeps .fwp (by simp)]
      exact hrun
    have htly : (tallyRestarts (lockstepNoted s r)).tly = { r.tly with
        lockstepErr := true, lockstepAt := some s.ticks, restarting := true, ready := false } := by
      rw [tallyRestarts_tly, lockstepNoted_tly]
    have herr : (tallyRestarts (lockstepNoted s r)).err.still = r.err.still := hk .err (by simp)
    obtain ⟨t, ht, hq⟩ := finish_next s (tallyRestarts (lockstepNoted s r))
    have hrestarting : t.tly.restarting = true := by rw [hq.tly, htly]
    refine ⟨t, ?_, by rw [hq.tly, htly], by rw [hq.tly, htly], hrestarting, by rw [hq.tly, htly], ?_, ?_, ?_, ?_, fun x => ?_,
      fun k hat hwithin => ?_⟩
    · rw [← ht]
      simp only [hproc, if_true, restartProc_tally]
    · rw [State.proc, hq.1 .fwp (by simp)]
      exact tallyRestarts_proc _
    · exact (congrArg ErrRegs.deviceEvent (hq.err.trans herr) :).trans h.event
    · refine (hq.errOut (by rw [htly]; exact h.low.1)).trans ?_
      exact (congrArg Pins.errOutN (lockstepNoted_pins s r)).trans h.low.2
    · exact (finish_pinsOk ht).trans (safeStOf_restarting hrestarting)
    · rw [hq.ctx, State.ctx, hk .ctxs (by simp)]
      exact h.stop x
    · rw [hq.dev]
      refine lockstepNoted_safe r ?_
      rw [State.lockstepAgain, hat]
      exact hwithin
  · obtain ⟨t, ht, hq, hpin⟩ := finish_errOut s (s.onTly fun t => { t with holdOver := true })
    refine ⟨t, by rw [exec_errHoldExpiry, ht], hpin, hq.tly, ?_⟩
    refine State.keeps_trans (t := s.onTly fun t => { t with holdOver := true }) (fun k hk => ?_) (State.keeps_mono hq.1 (by simp))
    cases k <;> first | rfl | simp at hk
end

section
/-!
PROOFS. The rules of the Tally (R304 to R307): what one rule adds to an evaluation, and that no other rule changes it.
-/

open Sys2Proof Sys2Proof.Machine

namespace Sys2Proof.Machine

section
variable (j : Judged) (cl : Vector U32 16) (frame : U32) (free : Nat)

/-! ### One rule (R306) -/

/-- Rule `i` is violated, the previous values being as given. -/
def ruleViolated (prev : List PrevVal) (i : Nat) : Bool :=
  violated j cl (ruleCfg j.tab i) (prevOf prev i frame (ruleCfg j.tab i).arg1) fun k => Config.emptyAggregate (free + 2 * i + k)

/-- The outcome of a rule: ACT[3:2] where it is skipped, ACT[1:0] where it is violated. -/
def ruleAct (i : Nat) (viol : Bool) : Nat :=
  if skipped j (ruleCfg j.tab i) then (ruleCfg j.tab i).depAct else if viol then (ruleCfg j.tab i).act else 0

/-- A rule sets its bit of the violation map. -/
def ruleHits (i : Nat) (viol : Bool) : Bool :=
  if skipped j (ruleCfg j.tab i) then decide ((ruleCfg j.tab i).depAct ≠ 0) else viol

/-- The value of a DELTA rule is kept (R305). -/
def valueKept (o : Outcome) (i : Nat) : Outcome :=
  if (ruleCfg j.tab i).ty = 3 then
    { o with prev := (i, frame, aggregate (ruleCfg j.tab i).aggA (Config.emptyAggregate (free + 2 * i + 0)) j (ruleCfg j.tab i).fa) ::
        o.prev.filter fun p => decide (p.1 ≠ i) }
  else o

theorem valueKept_acts (o : Outcome) (i : Nat) : (valueKept j frame free o i).acts = o.acts := by
  unfold valueKept
  split <;> rfl

theorem valueKept_viol (o : Outcome) (i : Nat) : (valueKept j frame free o i).viol = o.viol := by
  unfold valueKept
  split <;> rfl

theorem evalRule_skipped (o : Outcome) {i : Nat} (h : skipped j (ruleCfg j.tab i) = true) :
    evalRule j cl frame free o i = if (ruleCfg j.tab i).depAct = 0 then o
      else { o with acts := o.acts ++ [(i, (ruleCfg j.tab i).depAct)], viol := o.viol + 2 ^ i } := by
  simp only [evalRule, h, if_true]

theorem evalRule_kept (o : Outcome) {i : Nat} (h : skipped j (ruleCfg j.tab i) = false)
    (hv : ruleViolated j cl frame free o.prev i = false) : evalRule j cl frame free o i = valueKept j frame free o i := by
  simp only [ruleViolated] at hv
  simp only [evalRule, h, hv, Bool.false_eq_true, if_false, Bool.not_false, if_true]
  rfl

theorem evalRule_violated (o : Outcome) {i : Nat} (h : skipped j (ruleCfg j.tab i) = false)
    (hv : ruleViolated j cl frame free o.prev i = true) : evalRule j cl frame free o i = { valueKept j frame free o i with
      acts := if (ruleCfg j.tab i).act = 0 then o.acts else o.acts ++ [(i, (ruleCfg j.tab i).act)], viol := o.viol + 2 ^ i } := by
  have hacts := valueKept_acts j frame free o i
  have hviol := valueKept_viol j frame free o i
  simp only [ruleViolated] at hv
  simp only [valueKept] at hacts hviol ⊢
  simp only [evalRule, h, hv, Bool.false_eq_true, if_false, Bool.not_true, hacts, hviol]

theorem evalRule_acts (o : Outcome) (i : Nat) : (evalRule j cl frame free o i).acts =
    o.acts ++ if ruleAct j i (ruleViolated j cl frame free o.prev i) = 0 then []
      else [(i, ruleAct j i (ruleViolated j cl frame free o.prev i))] := by
  unfold ruleAct
  by_cases hs : skipped j (ruleCfg j.tab i) = true
  · rw [evalRule_skipped j cl frame free o hs]
    by_cases hd : (ruleCfg j.tab i).depAct = 0 <;> simp [hs, hd]
  · rw [Bool.not_eq_true] at hs
    by_cases hv : ruleViolated j cl frame free o.prev i = true
    · rw [evalRule_violated j cl frame free o hs hv]
      by_cases ha : (ruleCfg j.tab i).act = 0 <;> simp [hs, hv, ha]
    · rw [Bool.not_eq_true] at hv
      rw [evalRule_kept j cl frame free o hs hv, valueKept_acts]
      simp [hs, hv]

theorem evalRule_viol (o : Outcome) (i : Nat) : (evalRule j cl frame free o i).viol =
    o.viol + if ruleHits j i (ruleViolated j cl frame free o.prev i) then 2 ^ i else 0 := by
  unfold ruleHits
  by_cases hs : skipped j (ruleCfg j.tab i) = true
  · rw [evalRule_skipped j cl frame free o hs]
    by_cases hd : (ruleCfg j.tab i).depAct = 0 <;> simp [hs, hd]
  · rw [Bool.not_eq_true] at hs
    by_cases hv : ruleViolated j cl frame free o.prev i = true
    · rw [evalRule_violated j cl frame free o hs hv]
      simp [hs, hv]
    · rw [Bool.not_eq_true] at hv
      rw [evalRule_kept j cl frame free o hs hv, valueKept_viol]
      simp [hs, hv]

/-- The value of a rule does not displace those of the others. -/
theorem valueKept_prev_ne (o : Outcome) {i k : Nat} (h : k ≠ i) :
    (valueKept j frame free o i).prev.find? (fun p => decide (p.1 = k)) = o.prev.find? (fun p => decide (p.1 = k)) := by
  unfold valueKept
  split
  · rw [List.find?_cons_of_neg (by simp [Ne.symm h]), List.find?_filter]
    congr 1
    funext p
    by_cases hp : p.1 = k <;> simp [hp, h]
  · rfl

theorem evalRule_prev_ne (o : Outcome) {i k : Nat} (h : k ≠ i) :
    (evalRule j cl frame free o i).prev.find? (fun p => decide (p.1 = k)) = o.prev.find? (fun p => decide (p.1 = k)) := by
  by_cases hs : skipped j (ruleCfg j.tab i) = true
  · rw [evalRule_skipped j cl frame free o hs]
    split <;> rfl
  · rw [Bool.not_eq_true] at hs
    by_cases hv : ruleViolated j cl frame free o.prev i = true
    · rw [evalRule_violated j cl frame free o hs hv]
      exact valueKept_prev_ne j frame free o h
    · rw [evalRule_kept j cl frame free o hs (by simpa using hv)]
      exact valueKept_prev_ne j frame free o h

/-- A skipped rule keeps its own previous value too. -/
theorem evalRule_prev_skipped (o : Outcome) {i : Nat} (h : skipped j (ruleCfg j.tab i) = true) :
    (evalRule j cl frame free o i).prev = o.prev := by
  rw [evalRule_skipped j cl frame free o h]
  split <;> rfl

/-! ### Many rules (R307) -/

theorem evalRules_succ (n : Nat) (prev : List PrevVal) : evalRules j cl frame free (n + 1) prev =
    evalRule j cl frame free (evalRules j cl frame free n prev) n := by
  simp only [evalRules, List.range_succ, List.foldl_append, List.foldl_cons, List.foldl_nil]

/-- Before its turn a rule has no outcome. -/
theorem evalRules_acts_lt {n : Nat} {prev : List PrevVal} {i a : Nat} (h : (i, a) ∈ (evalRules j cl frame free n prev).acts) :
    i < n := by
  induction n with
  | zero => cases h
  | succ n ih =>
    rw [evalRules_succ, evalRule_acts, List.mem_append] at h
    rcases h with h | h
    · exact Nat.lt_succ_of_lt (ih h)
    · split at h
      · cases h
      · rw [List.mem_singleton, Prod.mk.injEq] at h
        omega

/-- Before its turn the bit of a rule is clear, and so is every later one. -/
theorem evalRules_viol_lt (n : Nat) (prev : List PrevVal) : (evalRules j cl frame free n prev).viol < 2 ^ n := by
  induction n with
  | zero => exact Nat.one_pos
  | succ n ih =>
    rw [evalRules_succ, evalRule_viol, Nat.pow_succ]
    split <;> omega

/-- Before its turn a rule has its previous value from the frame before. -/
theorem evalRules_prev_ge {n i : Nat} (prev : List PrevVal) (h : n ≤ i) :
    (evalRules j cl frame free n prev).prev.find? (fun p => decide (p.1 = i)) = prev.find? (fun p => decide (p.1 = i)) := by
  induction n with
  | zero => rfl
  | succ n ih => rw [evalRules_succ, evalRule_prev_ne _ _ _ _ _ (by omega), ih (by omega)]

/-- Each rule judges by the previous values of the frame before. -/
theorem evalRules_violated (prev : List PrevVal) (i : Nat) :
    ruleViolated j cl frame free (evalRules j cl frame free i prev).prev i = ruleViolated j cl frame free prev i := by
  simp only [ruleViolated, prevOf, evalRules_prev_ge j cl frame free prev (Nat.le_refl i)]

/-- After its turn the outcome of a rule stays. -/
theorem evalRules_acts {n i : Nat} (prev : List PrevVal) (h : i < n) (a : Nat) :
    (i, a) ∈ (evalRules j cl frame free n prev).acts ↔ a = ruleAct j i (ruleViolated j cl frame free prev i) ∧ a ≠ 0 := by
  induction n with
  | zero => exact absurd h (Nat.not_lt_zero i)
  | succ n ih =>
    rw [evalRules_succ, evalRule_acts, evalRules_violated, List.mem_append]
    by_cases hi : i = n
    · subst hi
      have hbefore : (i, a) ∉ (evalRules j cl frame free i prev).acts := fun hm =>
        Nat.lt_irrefl i (evalRules_acts_lt j cl frame free hm)
      by_cases h0 : ruleAct j i (ruleViolated j cl frame free prev i) = 0
      · simp only [h0, if_true, List.not_mem_nil, or_false, hbefore, false_iff, not_and, not_not, imp_self]
      · simp only [h0, if_false, List.mem_singleton, Prod.mk.injEq, true_and, hbefore, false_or]
        exact ⟨fun e => ⟨e, e ▸ h0⟩, And.left⟩
    · rw [← ih (by omega), or_iff_left]
      split
      · exact List.not_mem_nil
      · simp [hi]

/-- After its turn the bit of a rule stays. -/
theorem evalRules_viol {n i : Nat} (prev : List PrevVal) (h : i < n) :
    (evalRules j cl frame free n prev).viol.testBit i = ruleHits j i (ruleViolated j cl frame free prev i) := by
  induction n with
  | zero => exact absurd h (Nat.not_lt_zero i)
  | succ n ih =>
    rw [evalRules_succ, evalRule_viol, evalRules_violated, Nat.add_comm]
    by_cases hi : i = n
    · subst hi
      have hclear := Nat.testBit_lt_two_pow (evalRules_viol_lt j cl frame free i prev)
      cases ruleHits j i (ruleViolated j cl frame free prev i) with
      | true => simp [Nat.testBit_two_pow_add_eq, hclear]
      | false => simp [hclear]
    · have hlt : i < n := by omega
      rw [← ih hlt]
      split
      · exact Nat.testBit_two_pow_add_gt hlt _
      · rw [Nat.zero_add]

/-- The previous value of a skipped rule stays through the evaluation. -/
theorem evalRules_prev_skipped {n i : Nat} (prev : List PrevVal) (hs : skipped j (ruleCfg j.tab i) = true) :
    (evalRules j cl frame free n prev).prev.find? (fun p => decide (p.1 = i)) = prev.find? (fun p => decide (p.1 = i)) := by
  induction n with
  | zero => rfl
  | succ n ih =>
    rw [evalRules_succ]
    by_cases hi : i = n
    · subst hi
      rw [evalRule_prev_skipped _ _ _ _ _ hs, ih]
    · rw [evalRule_prev_ne _ _ _ _ _ hi, ih]

end

/-! ### DEP and ACT as the table holds them (R299) -/

theorem ruleCfg_depAct (t : Bytes) (i : Nat) :
    (ruleCfg t i).depAct = byteAt (slice t (64 + 16 * nField t + 32 * i) 32) 1 / 4 % 4 := by
  simp [ruleCfg, bits, Nat.shiftRight_eq_div_pow]

theorem ruleCfg_act (t : Bytes) (i : Nat) :
    (ruleCfg t i).act = byteAt (slice t (64 + 16 * nField t + 32 * i) 32) 1 % 4 := by
  simp [ruleCfg, bits]

theorem skipped_iff (j : Judged) (i : Nat) : skipped j (ruleCfg j.tab i) = true ↔
    byteAt (slice j.tab (64 + 16 * nField j.tab + 32 * i) 32) 5 ≠ 0xFF ∧
      j.incomplete.testBit (byteAt (slice j.tab (64 + 16 * nField j.tab + 32 * i) 32) 5 % 64) = true := by
  rw [skipped, Bool.and_eq_true, decide_eq_true_iff]
  rfl

end Sys2Proof.Machine

open Sys2Proof Sys2Proof.Machine

/-- Settles O48: in its turn a rule adds its outcome and its bit, by the previous values of the frame before, and no other turn
changes them (`evalRules_acts`, `evalRules_viol`). -/
theorem ruleOutcomesFollowDepAndAct : Obligations.RuleOutcomesFollowDepAndAct := by
  unfold Obligations.RuleOutcomesFollowDepAndAct
  intro j cl frame free n prev i hi
  have hacts := evalRules_acts j cl frame free prev hi
  have hviol := evalRules_viol j cl frame free prev hi
  refine ⟨fun hdep hinc => ?_, fun hrun => ?_⟩
  · have hs := (skipped_iff j i).2 ⟨hdep, hinc⟩
    simp only [ruleAct, ruleHits, hs, if_true, ruleCfg_depAct] at hacts hviol
    exact ⟨hacts, by rw [hviol, decide_eq_true_iff], evalRules_prev_skipped j cl frame free prev hs⟩
  · have hs : skipped j (ruleCfg j.tab i) = false := by
      rw [Bool.eq_false_iff, Ne, skipped_iff, not_and]
      exact fun hdep hinc => hrun.elim hdep fun h => by simp [h] at hinc
    simp only [ruleAct, ruleHits, hs, Bool.false_eq_true, if_false, ruleCfg_act] at hacts hviol
    refine ⟨fun a => ?_, by rw [hviol]; rfl⟩
    rw [hacts a]
    show _ ↔ ruleViolated j cl frame free prev i = true ∧ _
    cases ruleViolated j cl frame free prev i <;> simp
end

section
/-!
PROOFS. Verdicts of the Tally: what a verdict leaves in its context, in the Tally's counts and at the pins (R312 to R324), the
sources of a FAIL (R312) and the verdict deadline (R315).
-/

open Sys2Proof Sys2Proof.Machine

namespace Sys2Proof.Machine

/-! ### The release of a record (R314) -/

/-- A context without its count of dropped records. -/
def CtxRt.undropped (x : CtxRt) : CtxRt := { x with droppedSince := 0 }

/-- From `s` to `t` records were released and recorded: the contexts, the Tally and the pins are as before. -/
structure State.Released (s t : State) : Prop where
  keeps : s.keeps [.ctxs, .hst, .mem, .bad, .lineOwner, .recd, .io, .free, .rep] t
  ctx : ∀ x, (t.ctx x).undropped = (s.ctx x).undropped
  errOut : s.tly.holdOver = false → t.pins.errOutN = s.pins.errOutN

theorem State.Released.refl (s : State) : s.Released s := ⟨s.keeps_refl _, fun _ => rfl, fun _ => rfl⟩

theorem State.Released.trans {s t u : State} (h : s.Released t) (h' : t.Released u) : s.Released u :=
  ⟨State.keeps_trans h.keeps h'.keeps, fun x => (h'.ctx x).trans (h.ctx x), fun hh =>
    (h'.errOut ((congrArg TlyRegs.holdOver (h.keeps .tly (by simp))).trans hh)).trans (h.errOut hh)⟩

/-- What leaves the contexts and the pins too. -/
theorem State.Released.of_keeps {s t : State} {l : List Kind} (h : s.keeps l t)
    (hl : ∀ k ∈ l, k ∈ [Kind.hst, .mem, .bad, .lineOwner, .recd, .io, .free, .rep])
    (hp : s.tly.holdOver = false → t.pins.errOutN = s.pins.errOutN) : s.Released t := by
  have hctxs : Kind.ctxs ∉ l := fun hc => absurd (hl _ hc) (by decide)
  exact ⟨State.keeps_mono h fun k hk => List.mem_cons_of_mem _ (hl k hk),
    fun x => congrArg (fun v : Vector CtxRt 16 => (v.get x).undropped) (h .ctxs hctxs), hp⟩

theorem State.Quiet.released {s t : State} (h : s.Quiet t) : s.Released t := .of_keeps h.1 (by simp) h.errOut

theorem State.Recorded.released {s t : State} (h : s.Recorded t) : s.Released t := .of_keeps h.keeps (by simp) h.errOut

theorem onRing_released (s : State) (r : Fin 17) (f : RingRegs → RingRegs) : s.Released (s.onRing r f) :=
  .of_keeps (l := []) (fun k _ => by cases k <;> rfl) (by simp) fun _ => rfl

theorem onHst_released (s : State) (f : HstRegs → HstRegs) : s.Released (s.onHst f) :=
  .of_keeps (l := [.hst]) (fun k hk => by cases k <;> first | rfl | simp at hk) (by simp) fun _ => rfl

theorem onDropped_released (s : State) (c : CtxId) (f : CtxRt → U32) :
    s.Released (s.onCtx c fun x => { x with droppedSince := f x }) := by
  refine ⟨State.keeps_mono (State.keeps_onCtx s c _) (by simp), fun x => ?_, fun _ => rfl⟩
  by_cases h : x = c
  · subst h
    rw [State.ctx_onCtx_self]
    rfl
  · rw [State.ctx_onCtx_ne _ _ _ _ h]

theorem ringDrop_released (s : State) (r : Fin 17) : s.Released (ringDrop s r) := by
  have hcount : s.Released ((s.onRing r fun x => { x with drop := sat32 x.drop }).onHst fun h =>
      { h with dropCnt := sat32 h.dropCnt }) := .trans (onRing_released s r fun x => { x with drop := sat32 x.drop })
    (onHst_released _ _)
  simp only [ringDrop]
  split
  · exact hcount.trans (onDropped_released _ _ fun x => sat32 x.droppedSince)
  · exact hcount

theorem ringWrite_released (s : State) (r : Fin 17) (b : Bytes) : s.Released (ringWrite s r b) := by
  have hdata (u : State) : u.Released (ringData u r b) := by
    simp only [ringData]
    split
    · exact (emit_quiet u _).released
    · exact ((emit_quiet u _).trans (emit_quiet _ _)).released
  have hsignal (u : State) : u.Released (ringSignal u r) := by
    simp only [ringSignal]
    split
    · exact (onRing_released u r _).trans (msixSignal_quiet _ _).released
    · exact onRing_released u r _
  simp only [ringWrite]
  split
  · exact ringDrop_released s r
  · exact (((hdata s).trans (onRing_released _ r _)).trans (emit_quiet _ _).released).trans (hsignal _)

theorem ringSend_released (s : State) (d : BitVec 2) (t : RingOut) : s.Released (ringSend s d t) := by
  refine .of_keeps (ringSend_keeps s d t) (by simp) fun _ => ?_
  unfold ringSend portSend portPass
  split <;> rfl

theorem release_released (s : State) (c : CtxId) (b : Bytes) : s.Released (release s c b) := by
  have hpeers (l : List (BitVec 2)) (u : State) : u.Released (l.foldl (fun s d => ringSend s d (.record d b)) u) := by
    induction l generalizing u with
    | nil => exact .refl u
    | cons d l ih => exact (ringSend_released u d _).trans (ih _)
  simp only [release]
  split
  · exact ringWrite_released s _ b
  · exact ((ringWrite_released s _ b).trans (emit_quiet _ _).released).trans (hpeers _ _)

theorem releaseResult_released (s : State) (c : CtxId) (b : Bytes) : s.Released (releaseResult s c b) := by
  simp only [releaseResult]
  split
  · exact .refl s
  · split
    · exact (release_released s c b).trans (onDropped_released _ c _)
    · exact release_released s c b

theorem deliver_released (s : State) (i : TallyItem) (j : Judgment) (vrec : Bytes) : s.Released (deliver s i j vrec) := by
  have hpoke (a : Nat) (b : Bytes) : s.Released (s.poke (i.ctx, i.gen) a b) := by
    refine .of_keeps (poke_keeps s _ a b) (by simp) fun _ => ?_
    unfold State.poke
    split <;> rfl
  simp only [deliver]
  split
  · split
    · exact release_released s i.ctx vrec
    · split
      · exact (hpoke _ _).trans (release_released _ i.ctx vrec)
      · exact (hpoke _ _).trans (releaseResult_released _ i.ctx _)
  · exact release_released s i.ctx vrec

theorem verdictFreeze_released (s : State) (i : TallyItem) (j : Judgment) : s.Released (verdictFreeze s i j) := by
  simp only [verdictFreeze]
  split
  · exact (recTrigger_recorded s _ _).released
  · exact .refl s

theorem resultMarkRec_recorded (s : State) (i : TallyItem) (hdr vrec : Bytes) : s.Recorded (resultMarkRec s i hdr vrec) := by
  unfold resultMarkRec
  split
  · exact recWrite_recorded _ _ _ _ _ _ _ _
  · exact .refl s

/-! ### What a verdict does to its context (R319, R320) -/

/-- A verdict is shown in its context. -/
def verdictShown (s : State) (i : TallyItem) (j : Judgment) : State := s.onCtx i.ctx fun x => { x with
  verdict := j.v, reason := BitVec.ofNat 16 j.reason, hasVerdict := true, vseq := x.vseq + 1 }

/-- A verdict other than FAIL ends the overrides of its context, and reopens the egress of the frame's own run. -/
def egressReopens (s : State) (i : TallyItem) : State :=
  let own := (s.ctx i.ctx).state = .run && decide (i.gen = (s.ctx i.ctx).gen)
  let left := s.tly.devAwait.filter fun k => decide (k ≠ i.ctx)
  (s.onCtx i.ctx fun x => { x with override := false, stopLatch := x.stopLatch && !own }).onTly fun t =>
    { t with devAwait := left, devOverride := t.devOverride && !(left.isEmpty && t.devAwait.contains i.ctx) }

theorem settleCtx_eq (s : State) (i : TallyItem) (j : Judgment) : settleCtx s i j =
    if j.v = .fail then reactCtx (verdictShown s i j) i.ctx else egressReopens (verdictShown s i j) i := rfl

theorem verdictShown_ctx (s : State) (i : TallyItem) (j : Judgment) : (verdictShown s i j).ctx i.ctx = { s.ctx i.ctx with
    verdict := j.v, reason := BitVec.ofNat 16 j.reason, hasVerdict := true, vseq := (s.ctx i.ctx).vseq + 1 } :=
  State.ctx_onCtx_self _ _ _

theorem egressReopens_ctx (s : State) (i : TallyItem) :
    ∃ l, (egressReopens s i).ctx i.ctx = { s.ctx i.ctx with override := false, stopLatch := l } := by
  unfold egressReopens
  exact ⟨_, by rw [State.ctx_onTly, State.ctx_onCtx_self]⟩

theorem settleCtx_keeps (s : State) (i : TallyItem) (j : Judgment) : s.keeps [.ctxs, .tly, .pins] (settleCtx s i j) := by
  have hshown : s.keeps [.ctxs] (verdictShown s i j) := State.keeps_onCtx s i.ctx _
  refine State.keeps_trans (State.keeps_mono hshown (by simp)) ?_
  rw [settleCtx_eq]
  split <;> intro k hk <;> cases k <;> first | rfl | simp at hk

/-- The verdict stands in its context, which keeps its state and its generation. -/
theorem settleCtx_ctx (s : State) (i : TallyItem) (j : Judgment) : ∃ o l, (settleCtx s i j).ctx i.ctx =
    { s.ctx i.ctx with
      verdict := j.v, reason := BitVec.ofNat 16 j.reason, hasVerdict := true, vseq := (s.ctx i.ctx).vseq + 1
      override := o, stopLatch := l } := by
  rw [settleCtx_eq]
  split
  · exact ⟨_, _, by rw [reactCtx_self, verdictShown_ctx]⟩
  · obtain ⟨l, h⟩ := egressReopens_ctx (verdictShown s i j) i
    exact ⟨_, l, by rw [h, verdictShown_ctx]⟩

/-- Of the Tally a verdict settles the overrides of the device and, with a FAIL, the hold time of ERR_OUT_N. -/
theorem settleCtx_tly (s : State) (i : TallyItem) (j : Judgment) : ∃ e h a o, (settleCtx s i j).tly =
    { s.tly with lastEvent := e, holdOver := h, devAwait := a, devOverride := o } := by
  rw [settleCtx_eq]
  split <;> exact ⟨_, _, _, _, rfl⟩

theorem settleCtx_alive (s : State) (i : TallyItem) (j : Judgment) : (settleCtx s i j).pins.alive = s.pins.alive := by
  rw [settleCtx_eq]
  split <;> rfl

/-- A FAIL stops the egress of its context and pulls ERR_OUT_N low (R319, R321). -/
theorem settleCtx_fail (s : State) (i : TallyItem) {j : Judgment} (h : j.v = .fail) :
    ((settleCtx s i j).ctx i.ctx).stopLatch = true ∧ (settleCtx s i j).tly.holdOver = false ∧
      (settleCtx s i j).pins.errOutN = false := by
  rw [settleCtx_eq, if_pos h]
  exact ⟨by rw [reactCtx_self], reactCtx_hold _ _, reactCtx_pin _ _⟩

/-! ### A verdict and all that follows it -/

/-- What a verdict leaves: it stands in its context and in the Tally's counts; a FAIL stops the egress and pulls ERR_OUT_N low;
ALIVE toggles with a verdict that the Tally gives for its context outside a replay. -/
structure State.VerdictGiven (s : State) (i : TallyItem) (j : Judgment) (t : State) : Prop where
  ctx : ∃ o l d, t.ctx i.ctx = { s.ctx i.ctx with
    verdict := j.v, reason := BitVec.ofNat 16 j.reason, hasVerdict := true, vseq := (s.ctx i.ctx).vseq + 1
    override := o, stopLatch := l, droppedSince := d }
  tly : ∃ e h a o, t.tly = { countVerdict s.tly j with lastEvent := e, holdOver := h, devAwait := a, devOverride := o }
  fail : j.v = .fail → (t.ctx i.ctx).stopLatch = true ∧ t.tly.holdOver = false ∧ t.pins.errOutN = false
  alive : t.pins.alive = if (s.aliveCtx i.ctx && !j.deadline && !i.replay && s.dev != .replay) = true then !s.pins.alive
    else s.pins.alive
  expect : t.err.expect = s.err.expect

theorem undropped_eq {x y : CtxRt} (h : x.undropped = y.undropped) : x = { y with droppedSince := x.droppedSince } := by
  have := congrArg (fun z : CtxRt => { z with droppedSince := x.droppedSince }) h
  exact this

theorem State.VerdictGiven.released {s t u : State} {i : TallyItem} {j : Judgment} (h : s.VerdictGiven i j t)
    (hr : t.Released u) : s.VerdictGiven i j u := by
  have htly : u.tly = t.tly := hr.keeps .tly (by simp)
  have hpins : u.pins.still = t.pins.still := hr.keeps .pins (by simp)
  refine ⟨?_, by rw [htly]; exact h.tly, fun hf => ?_, ?_, (keeps_expect hr.keeps (by simp)).trans h.expect⟩
  · obtain ⟨o, l, d, hctx⟩ := h.ctx
    exact ⟨o, l, _, (undropped_eq (hr.ctx i.ctx)).trans (by rw [hctx])⟩
  · obtain ⟨hstop, hhold, hpin⟩ := h.fail hf
    exact ⟨(congrArg CtxRt.stopLatch (hr.ctx i.ctx) :).trans hstop, by rw [htly]; exact hhold, (hr.errOut hhold).trans hpin⟩
  · exact (congrArg Pins.alive hpins :).trans h.alive

theorem aliveCtx_congr {s t : State} (hi : t.img = s.img) (c : CtxId) : t.aliveCtx c = s.aliveCtx c := by
  simp only [State.aliveCtx, State.tallyTab, secD_congr hi]

/-- The state in which a verdict is released: recorded, counted and settled. -/
def verdictSettled (s : State) (i : TallyItem) (j : Judgment) (hdr vrec : Bytes) : State :=
  settleCtx ((resultMarkRec s i hdr vrec).onTly fun t => countVerdict t j) i j

/-- A verdict but for ALIVE. -/
def verdictReleased (s : State) (i : TallyItem) (j : Judgment) (hdr vrec : Bytes) : State :=
  let u := deliver (verdictSettled s i j hdr vrec) i j vrec
  verdictFreeze (if i.replay then { u with rep := replayClass u i.ctx i.frame hdr (verdictNum j.v) j.reason } else u) i j

theorem verdictReleased_released (s : State) (i : TallyItem) (j : Judgment) (hdr vrec : Bytes) :
    (verdictSettled s i j hdr vrec).Released (verdictReleased s i j hdr vrec) := by
  have hrep (u : State) (r : RepRegs) : u.Released { u with rep := r } :=
    .of_keeps (l := [.rep]) (fun k hk => by cases k <;> first | rfl | simp at hk) (by simp) fun _ => rfl
  simp only [verdictReleased]
  refine (deliver_released _ i j vrec).trans (State.Released.trans ?_ (verdictFreeze_released _ i j))
  split
  · exact hrep _ _
  · exact .refl _

/-- The header that a verdict is recorded with. -/
def verdictHdr (s : State) (i : TallyItem) : Bytes :=
  match i.record with
  | some a => if i.lost then zeros 128 else s.peek a 128
  | none => zeros 128

theorem giveVerdict_eq (s : State) (i : TallyItem) (j : Judgment) : giveVerdict s i j =
    let u := verdictReleased s i j (verdictHdr s i) (verdictRecord s i j)
    if u.aliveCtx i.ctx && !j.deadline && !i.replay && u.dev != .replay then u.onPins fun p => { p with alive := !p.alive }
    else u := rfl

theorem verdictSettled_ctx (s : State) (i : TallyItem) (j : Judgment) (hdr vrec : Bytes) :
    ∃ o l, (verdictSettled s i j hdr vrec).ctx i.ctx = { s.ctx i.ctx with
      verdict := j.v, reason := BitVec.ofNat 16 j.reason, hasVerdict := true, vseq := (s.ctx i.ctx).vseq + 1
      override := o, stopLatch := l } := by
  have hctx : (resultMarkRec s i hdr vrec).ctx i.ctx = s.ctx i.ctx :=
    congrArg (·.get i.ctx) ((resultMarkRec_recorded s i hdr vrec).keeps .ctxs (by simp))
  obtain ⟨o, l, h⟩ := settleCtx_ctx ((resultMarkRec s i hdr vrec).onTly fun t => countVerdict t j) i j
  rw [State.ctx_onTly, hctx] at h
  exact ⟨o, l, h⟩

theorem verdictSettled_tly (s : State) (i : TallyItem) (j : Judgment) (hdr vrec : Bytes) :
    ∃ e h a o, (verdictSettled s i j hdr vrec).tly =
      { countVerdict s.tly j with lastEvent := e, holdOver := h, devAwait := a, devOverride := o } := by
  have htly : (resultMarkRec s i hdr vrec).tly = s.tly := (resultMarkRec_recorded s i hdr vrec).keeps .tly (by simp)
  obtain ⟨e, h, a, o, ht⟩ := settleCtx_tly ((resultMarkRec s i hdr vrec).onTly fun t => countVerdict t j) i j
  exact ⟨e, h, a, o, ht.trans (by rw [← htly]; rfl)⟩

theorem verdictSettled_keeps (s : State) (i : TallyItem) (j : Judgment) (hdr vrec : Bytes) :
    s.keeps [.ctxs, .tly, .pins, .recd, .mem, .bad, .hst, .io, .free] (verdictSettled s i j hdr vrec) := by
  refine State.keeps_trans (State.keeps_mono (resultMarkRec_recorded s i hdr vrec).keeps (by simp)) ?_
  refine State.keeps_trans (t := (resultMarkRec s i hdr vrec).onTly fun t => countVerdict t j) (fun k hk => ?_)
    (State.keeps_mono (settleCtx_keeps _ i j) (by simp))
  cases k <;> first | rfl | simp at hk

theorem verdictSettled_alive (s : State) (i : TallyItem) (j : Judgment) (hdr vrec : Bytes) :
    (verdictSettled s i j hdr vrec).pins.alive = s.pins.alive :=
  (settleCtx_alive _ i j).trans
    (congrArg Pins.alive ((resultMarkRec_recorded s i hdr vrec).keeps .pins (by simp) : _ = s.pins.still) :)

/-- A verdict that is given stands, whatever its release and the recorder do (R312 to R324). -/
theorem giveVerdict_given (s : State) (i : TallyItem) (j : Judgment) : s.VerdictGiven i j (giveVerdict s i j) := by
  set w := verdictSettled s i j (verdictHdr s i) (verdictRecord s i j) with hw
  set u := verdictReleased s i j (verdictHdr s i) (verdictRecord s i j) with hu
  have hr : w.Released u := verdictReleased_released s i j _ _
  have hk := verdictSettled_keeps s i j (verdictHdr s i) (verdictRecord s i j)
  have hctx : ∃ o l d, u.ctx i.ctx = { s.ctx i.ctx with
      verdict := j.v, reason := BitVec.ofNat 16 j.reason, hasVerdict := true, vseq := (s.ctx i.ctx).vseq + 1
      override := o, stopLatch := l, droppedSince := d } := by
    obtain ⟨o, l, h⟩ := verdictSettled_ctx s i j (verdictHdr s i) (verdictRecord s i j)
    exact ⟨o, l, _, (undropped_eq (hr.ctx i.ctx)).trans (by rw [hw, h])⟩
  have hutly : u.tly = w.tly := hr.keeps .tly (by simp)
  have hfail (hf : j.v = .fail) : (u.ctx i.ctx).stopLatch = true ∧ u.tly.holdOver = false ∧ u.pins.errOutN = false := by
    obtain ⟨hstop, hhold, hpin⟩ := settleCtx_fail ((resultMarkRec s i (verdictHdr s i) (verdictRecord s i j)).onTly fun t =>
      countVerdict t j) i hf
    exact ⟨(congrArg CtxRt.stopLatch (hr.ctx i.ctx) :).trans hstop, hutly ▸ hhold, (hr.errOut hhold).trans hpin⟩
  have halive : u.pins.alive = s.pins.alive :=
    (congrArg Pins.alive (hr.keeps .pins (by simp) : u.pins.still = w.pins.still) :).trans (verdictSettled_alive s i j _ _)
  have hexpect : u.err.expect = s.err.expect := (keeps_expect hr.keeps (by simp)).trans (keeps_expect hk (by simp))
  have htly : ∃ e h a o, u.tly = { countVerdict s.tly j with lastEvent := e, holdOver := h, devAwait := a, devOverride := o } :=
    hutly ▸ verdictSettled_tly s i j (verdictHdr s i) (verdictRecord s i j)
  have hcond : (u.aliveCtx i.ctx && !j.deadline && !i.replay && u.dev != .replay) =
      (s.aliveCtx i.ctx && !j.deadline && !i.replay && s.dev != .replay) := by
    rw [aliveCtx_congr ((hr.keeps .img (by simp) : u.img = w.img).trans (hk .img (by simp))),
      (hr.keeps .dev (by simp) : u.dev = w.dev).trans (hk .dev (by simp))]
  rw [giveVerdict_eq]
  simp only [← hu, hcond]
  split
  · next h => exact ⟨hctx, htly, hfail, by rw [if_pos h, ← halive]; rfl, hexpect⟩
  · next h => exact ⟨hctx, htly, hfail, by rw [if_neg h, halive], hexpect⟩

/-! ### The sources of a verdict (R312) -/

theorem foldl_max_top {l : List (Nat × Nat)} {b : Nat} (h : ∀ e ∈ l, e.1 ≤ b) : l.foldl (fun m e => max m e.1) b = b := by
  induction l with
  | nil => rfl
  | cons e l ih =>
    rw [List.foldl_cons, Nat.max_eq_left (h e List.mem_cons_self)]
    exact ih fun x hx => h x (List.mem_cons_of_mem _ hx)

theorem foldl_min_bottom {l : List Nat} {b : Nat} (h : ∀ c ∈ l, b ≤ c) : l.foldl min b = b := by
  induction l with
  | nil => rfl
  | cons c l ih =>
    rw [List.foldl_cons, Nat.min_eq_left (h c List.mem_cons_self)]
    exact ih fun x hx => h x (List.mem_cons_of_mem _ hx)

/-- A fault of the context is the worst source and has the lowest code. -/
theorem worst_fault {l : List (Nat × Nat)} (h : ∀ e ∈ l, e.1 ≤ 2 ∧ 1 ≤ e.2) : worst ((2, 1) :: l) = (.fail, 1) := by
  have hmax : ((2, 1) :: l).foldl (fun m e => max m e.1) 0 = 2 := foldl_max_top fun e he => (h e he).1
  have hmin : ((((2, 1) :: l).filter fun e => e.1 = 2).map (·.2)).foldl min 0xFFFF = 1 := by
    refine foldl_min_bottom (b := 1) fun c hc => ?_
    obtain ⟨e, he, rfl⟩ := List.mem_map.1 hc
    exact (h e (List.mem_filter.1 he).1).2
  simp only [worst, hmax]
  exact congrArg (Prod.mk Verdict.fail) hmin

theorem plainSources_bounds {s : State} {i : TallyItem} {e : Nat × Nat} (h : e ∈ plainSources s i) : e.1 ≤ 2 ∧ 1 ≤ e.2 := by
  have hif {p : Prop} [Decidable p] {x : Nat × Nat} (hm : e ∈ if p then [x] else []) : e = x := by
    split at hm
    · exact List.mem_singleton.1 hm
    · cases hm
  have hunless {p : Prop} [Decidable p] {x : Nat × Nat} (hm : e ∈ if p then [] else [x]) : e = x := by
    split at hm
    · cases hm
    · exact List.mem_singleton.1 hm
  simp only [plainSources, List.mem_append] at h
  rcases h with ((((((h | h) | h) | h) | h) | h) | h) | h
  case inl.inl.inl.inl.inl.inr => rw [hunless h]; decide
  all_goals rw [hif h]; decide

theorem plainSources_faulted (s : State) {i : TallyItem} (h : i.faulted = true) :
    ∃ l, plainSources s i = (2, 1) :: l ∧ ∀ e ∈ l, e.1 ≤ 2 ∧ 1 ≤ e.2 := by
  obtain ⟨l, hl⟩ : ∃ l, plainSources s i = (2, 1) :: l := by
    simp only [plainSources, h, if_true, List.cons_append, List.nil_append]
    exact ⟨_, rfl⟩
  exact ⟨l, hl, fun e he => plainSources_bounds (s := s) (i := i) (hl ▸ List.mem_cons_of_mem _ he)⟩

/-- A frame whose context was faulted is judged by that alone. -/
theorem judge_faulted (s : State) {i : TallyItem} (n : Nat) (h : i.faulted = true) :
    judge s i n = (⟨.fail, 1, 0, n, false⟩, (s.ctx i.ctx).prev, 0) := by
  obtain ⟨l, hl, hb⟩ := plainSources_faulted s h
  have hany : ((2, 1) :: l).any (fun e => decide (e.2 ≤ 3) || decide (e.2 = 9)) = true := rfl
  simp only [judge, hl, worst_fault hb, hany, if_true]
  split <;> rfl

/-- The Tally's own verdict is none of the deadline unit. -/
theorem judge_deadline (s : State) (i : TallyItem) (n : Nat) : (judge s i n).1.deadline = false := by
  simp only [judge]
  split
  · rfl
  · split
    · rfl
    · split
      · rfl
      · split <;> rfl

/-! ### TALLY_VERDICT (R312) -/

theorem exec_tallyVerdict (n : U32) (f : Facts) (s : State) :
    exec (.tallyVerdict n f) s = finish s (takeVerdict s n.toNat f) := rfl

/-- The frame leaves the queue and the values of its DELTA rules are kept (R305). -/
def verdictTaken (s : State) (i : TallyItem) (r : Judgment × List PrevVal × Nat) : State :=
  let u := s.onTly fun t => { t with queue := t.queue.erase i }
  ({ u with free := u.free + r.2.2 } : State).onCtx i.ctx fun x => if i.gen = x.gen then { x with prev := r.2.1 } else x

/-- A record is read without a fault where nothing is uncorrectable and nothing happens on the way. -/
theorem readRecord_clean {s : State} (h : s.bad = []) (i : TallyItem) : readRecord s i {} = s := by
  have hfacts (cg : Option (CtxId × BitVec 12)) : applyFacts s {} cg = s := by
    have hnone : ({ s with bad := [] } : State) = s := by rw [← h]
    exact (congrArg (fun l => ({ s with bad := l.dedup } : State)) h).trans hnone
  have hbad (a n : Nat) : s.badIn a n false = none := by simp only [State.badIn, h, List.find?_nil]
  unfold readRecord
  split
  · rfl
  · simp only [hfacts, hbad]

/-- No corrected word is counted. -/
theorem noCe_eq (s : State) :
    (s.onTly fun t => { t with ceCnt := BitVec.ofNat 8 (min 255 (t.ceCnt.toNat + ({} : Facts).tallyCe)) }) = s := by
  have hlt : s.tly.ceCnt.toNat < 2 ^ 8 := s.tly.ceCnt.isLt
  have hce : BitVec.ofNat 8 (min 255 (s.tly.ceCnt.toNat + ({} : Facts).tallyCe)) = s.tly.ceCnt := by
    rw [show s.tly.ceCnt.toNat + ({} : Facts).tallyCe = s.tly.ceCnt.toNat from rfl, Nat.min_eq_right (by omega),
      BitVec.ofNat_toNat, BitVec.setWidth_eq]
  simp only [State.onTly, hce]

theorem takeVerdict_judges {s : State} {i : TallyItem} (n : Nat) (hh : s.tallyHead = some i) (hr : s.tly.ready = true)
    (hb : s.tly.restarting = false) (hl : i.late = false) (hbad : s.bad = []) :
    takeVerdict s n {} = giveVerdict (verdictTaken s i (judge s i n)) i (judge s i n).1 := by
  have hread : readRecord (s.onTly fun t => { t with
      ceCnt := BitVec.ofNat 8 (min 255 (t.ceCnt.toNat + ({} : Facts).tallyCe)) }) i {} = s := by
    rw [noCe_eq, readRecord_clean hbad]
  simp only [takeVerdict, hh, hr, hb, hl, Bool.not_true, Bool.or_self, Bool.false_eq_true, if_false, hread]
  rfl

/-- A frame that the deadline unit has judged is dropped and counted (R315). -/
theorem takeVerdict_late {s : State} {i : TallyItem} (n : Nat) (f : Facts) (hh : s.tallyHead = some i) (hr : s.tly.ready = true)
    (hb : s.tly.restarting = false) (hl : i.late = true) : takeVerdict s n f =
      s.onTly fun t => { t with queue := t.queue.erase i, deadline := sat32 t.deadline } := by
  simp only [takeVerdict, hh, hr, hb, hl, Bool.not_true, Bool.or_self, Bool.false_eq_true, if_false, if_true]

theorem takeVerdict_idle {s : State} (n : Nat) (f : Facts)
    (h : s.tallyHead = none ∨ s.tly.ready = false ∨ s.tly.restarting = true) : takeVerdict s n f = s := by
  unfold takeVerdict
  split
  · rfl
  · next hh =>
    rw [if_pos]
    rcases h with h | h | h
    · rw [hh] at h
      cases h
    · simp [h]
    · simp [h]

/-! ### VERDICT_DEADLINE (R315) -/

/-- A fault of a context leaves every verdict. -/
theorem faultCtx_verdict (s : State) (c : CtxId) (code : U16) (dev : Bool) (x : CtxId) :
    ((faultCtx s c code dev).ctx x).verdict = (s.ctx x).verdict ∧ ((faultCtx s c code dev).ctx x).reason = (s.ctx x).reason := by
  by_cases hx : x = c
  · subst hx
    have hpush (u : State) (i : TallyItem) : (tallyPush u i).ctx x = u.ctx x :=
      congrArg (·.get x) (tallyPush_keeps u i .ctxs (by simp))
    have hframe (u : State) (f : FrameRt → FrameRt) : (u.onFrame x f).ctx x = { u.ctx x with frame := f (u.ctx x).frame } :=
      State.ctx_onCtx_self _ _ _
    simp only [faultCtx]
    split
    · rw [teardown_self]
      split
      · rw [hpush, hframe]
        exact ⟨rfl, rfl⟩
      · rw [hframe]
        exact ⟨rfl, rfl⟩
    · exact ⟨rfl, rfl⟩
  · rw [faultCtx_ne s code dev hx]
    exact ⟨rfl, rfl⟩

theorem faultCtx_deadline (s : State) (c : CtxId) (code : U16) (dev : Bool) :
    (faultCtx s c code dev).tly.deadline = s.tly.deadline := by
  have hpush (u : State) (i : TallyItem) : (tallyPush u i).tly.deadline = u.tly.deadline := by
    simp only [tallyPush]
    split <;> rfl
  have htorn (u : State) : (teardown u c none code).tly = u.tly := teardown_keeps u c none code .tly (by simp)
  simp only [faultCtx]
  split
  · rw [htorn]
    split
    · rw [hpush]
      rfl
    · rfl
  · rfl

/-- A fault of a context leaves every verdict and the deadline unit's count. -/
theorem raiseFlt_verdict (s : State) {f : Flt} (ctx : Option (CtxId × BitVec 12)) (hf : f.OfCtx) (x : CtxId) :
    ((raiseFlt s f ctx).ctx x).verdict = (s.ctx x).verdict ∧ ((raiseFlt s f ctx).ctx x).reason = (s.ctx x).reason ∧
      (raiseFlt s f ctx).tly.deadline = s.tly.deadline := by
  have hx := event_ctx s f.src f.code ctx f.detail x
  have hv := congrArg CtxRt.verdict hx
  have hr := congrArg CtxRt.reason hx
  have hd : (event s f.src f.code ctx f.detail).tly.deadline = s.tly.deadline :=
    congrArg TlyRegs.deadline (event_keeps s f.src f.code ctx f.detail .tly (by simp))
  have hreact (u : State) (c : CtxId) : ((reactCtx u c).ctx x).verdict = (u.ctx x).verdict ∧
      ((reactCtx u c).ctx x).reason = (u.ctx x).reason := by
    by_cases hxc : x = c
    · subst hxc
      rw [reactCtx_self]
      exact ⟨rfl, rfl⟩
    · rw [reactCtx_ne u hxc]
      exact ⟨rfl, rfl⟩
  have hfault (u : State) (c : CtxId) := faultCtx_verdict (reactCtx u c) c f.code false x
  have hcount (u : State) (c : CtxId) : (faultCtx (reactCtx u c) c f.code false).tly.deadline = u.tly.deadline :=
    faultCtx_deadline _ c f.code false
  simp only [raiseFlt, countIso_fault s hf.fault, hf.notDevice, hf.cores, hf.reset, List.foldl_nil, Bool.false_eq_true, if_false]
  split
  · exact ⟨hv, hr, hd⟩
  · split
    · split
      · split
        · exact ⟨((hfault _ _).1.trans (hreact _ _).1).trans hv, ((hfault _ _).2.trans (hreact _ _).2).trans hr,
            (hcount _ _).trans hd⟩
        · exact ⟨hv, hr, hd⟩
      · exact ⟨hv, hr, hd⟩
    · exact ⟨hv, hr, hd⟩

theorem exec_verdictDeadline (c : CtxId) (s : State) : exec (.verdictDeadline c) s = finish s (deadline s c) := rfl

/-- The frame whose deadline has passed is marked in the queue, or leaves it where the Tally will not take it. -/
def queueMarked (l : List TallyItem) (i : TallyItem) : List TallyItem :=
  if i.unqueued then l.erase i else l.map fun k => if k = i then { k with late := true } else k

/-- The queue of the Tally with a frame whose deadline has passed. -/
def deadlineMarked (s : State) (i : TallyItem) : State := s.onTly fun t => { t with queue := queueMarked s.tly.queue i }

/-- The verdict of the deadline unit (R315). -/
def lateJudgment : Judgment := ⟨.fail, 0x0004, 0, 0, true⟩

/-- The deadline unit's verdict, with the egress stopped. -/
def deadlineGiven (s : State) (c : CtxId) (i : TallyItem) : State :=
  (giveVerdict (deadlineMarked s i) i lateJudgment).onCtx c fun x => { x with stopLatch := true }

theorem deadline_eq {s : State} {c : CtxId} {i : TallyItem}
    (h : s.tly.queue.find? (fun k => decide (k.ctx = c) && !k.late) = some i) : deadline s c =
      raiseFlt (deadlineGiven s c i) { src := srcId 2 0x22 c.1, code := cTallyLate } (some (i.ctx, i.gen)) := by
  simp only [deadline, h]
  rfl

end Sys2Proof.Machine

open Sys2Proof Sys2Proof.Machine

/-- Settles O47: a frame that is judged gets its verdict by `giveVerdict_given`, one that the deadline unit has judged is dropped,
a faulted one has its fault as its worst source, and a missed deadline is a FAIL with the fault of its context. -/
theorem verdictsAreGivenOrMissed : Obligations.VerdictsAreGivenOrMissed := by
  unfold Obligations.VerdictsAreGivenOrMissed
  refine ⟨fun s i n hh hr hb hl hbad hg => ?_, fun s n f => ⟨fun i hh hr hb hl => ?_, fun h => ?_⟩, fun s i n h => ?_,
    fun s c i hfind hg hs he => ?_⟩
  · set r := judge s i n.toNat
    obtain ⟨t, ht, hq⟩ := finish_next s (giveVerdict (verdictTaken s i r) i r.1)
    have h := (giveVerdict_given (verdictTaken s i r) i r.1).released hq.released
    obtain ⟨o, l, d, hctx⟩ := h.ctx
    obtain ⟨e, hh', a, o', htly⟩ := h.tly
    have htaken : (verdictTaken s i r).ctx i.ctx = { s.ctx i.ctx with prev := r.2.1 } := by
      refine (State.ctx_onCtx_self _ _ _).trans ?_
      exact if_pos hg
    rw [htaken] at hctx
    refine ⟨t, by rw [exec_tallyVerdict, takeVerdict_judges n.toNat hh hr hb hl hbad, ht], by rw [hctx], by rw [hctx],
      by rw [hctx], by rw [hctx], by rw [htly]; rfl, by rw [htly]; rfl, fun hf => ?_, ?_⟩
    · obtain ⟨hstop, -, hpin⟩ := h.fail hf
      exact ⟨hstop, hpin, by rw [htly]; exact if_pos hf⟩
    · refine h.alive.trans (if_congr ?_ rfl rfl)
      rw [judge_deadline s i n.toNat]
      show (s.aliveCtx i.ctx && !false && !i.replay && s.dev != .replay) = true ↔ _
      simp [and_assoc]
  · obtain ⟨t, ht, hq⟩ := finish_next s (s.onTly fun t => { t with queue := t.queue.erase i, deadline := sat32 t.deadline })
    refine ⟨t, by rw [exec_tallyVerdict, takeVerdict_late n.toNat f hh hr hb hl, ht], hq.tly, ?_⟩
    refine State.keeps_trans (t := s.onTly fun t => { t with queue := t.queue.erase i, deadline := sat32 t.deadline })
      (fun k hk => ?_) (State.keeps_mono hq.1 (by simp))
    cases k <;> first | rfl | simp at hk
  · rw [exec_tallyVerdict, takeVerdict_idle n.toNat f h]
    exact finish_same s
  · rw [judge_faulted s n h]
    exact ⟨rfl, rfl, rfl⟩
  · have hc : i.ctx = c := by
      have hi := List.find?_some hfind
      rw [Bool.and_eq_true, decide_eq_true_iff] at hi
      exact hi.1
    subst hc
    set m := deadlineMarked s i
    have h := giveVerdict_given m i lateJudgment
    obtain ⟨o, l, d, hctx⟩ := h.ctx
    obtain ⟨e, hh, a, o', htly⟩ := h.tly
    have hm : m.ctx i.ctx = s.ctx i.ctx := State.ctx_onTly s _ _
    have hgiven : (deadlineGiven s i.ctx i).ctx i.ctx = { (giveVerdict m i lateJudgment).ctx i.ctx with stopLatch := true } :=
      State.ctx_onCtx_self _ _ _
    rw [hctx, hm] at hgiven
    have hflt : Flt.OfCtx { src := srcId 2 0x22 i.ctx.1, code := cTallyLate } := Flt.ofCtx_of_code (by decide) (by decide)
    have hgen : ((deadlineGiven s i.ctx i).ctx i.ctx).gen = i.gen := by rw [hgiven]; exact hg.symm
    obtain ⟨hst, hstop, -, -, hpin, hhold, -, -⟩ := raiseFlt_run (deadlineGiven s i.ctx i) _ i.ctx hflt.cores hflt.reset
      hflt.notDevice hflt.fault (h.expect.trans he) (.inl (by rw [hgiven]; exact hs)) _ rfl
    obtain ⟨hv, hre, hd⟩ := raiseFlt_verdict (deadlineGiven s i.ctx i) (some (i.ctx, i.gen)) hflt i.ctx
    rw [hgen] at hst hstop hpin hhold
    obtain ⟨t, ht, hq⟩ := finish_next s (raiseFlt (deadlineGiven s i.ctx i) { src := srcId 2 0x22 i.ctx.1, code := cTallyLate }
      (some (i.ctx, i.gen)))
    refine ⟨t, by rw [exec_verdictDeadline, deadline_eq hfind, ht], ?_, ?_, ?_, ?_, ?_, (hq.errOut hhold).trans hpin⟩
    · rw [hq.ctx, hv, hgiven]; rfl
    · rw [hq.ctx, hre, hgiven]; rfl
    · rw [hq.ctx]; exact hstop
    · rw [hq.ctx]; exact hst
    · rw [hq.tly, hd]
      exact (congrArg TlyRegs.deadline htly).trans rfl
end

section
/-!
PROOFS. A MOVE reads its source request by request (R257), and what a read of sparse memory answers depends on its extent where
the list of cells is out of order: the scan of a longer range passes cells over that the scan of each request finds. The
statement on the plain MOVE is about every state, so also about one whose memory is out of canonical form (R234), which no write
and no erasure of the model brings about (`memPut_wf`, `memErase_wf`).
-/

namespace Sys2Proof.Machine

/-- A MOVE of two bytes from 0x10FF to 0x2000: a 256-byte boundary lies between the bytes of its source (R67, R257). -/
def boundaryMove : Bytes :=
  [0x10] ++ zeros 15 ++ le 8 0x10FF ++ le 8 0x2000 ++ le 8 0 ++ le 4 2 ++ le 2 1 ++ le 2 1 ++ zeros 16

/-- Its entry in the MQ of core 0. -/
def boundaryEntry : QEntry := { bytes := boundaryMove, ctx := 0, origin := 0 }

/-- The MOVE at the head of the MQ of core 0, in a context whose one region holds both ends. The cells of the two source bytes
are listed in falling order. -/
def unsortedMove : State :=
  { State.reset with
    img := [⟨0x20, 0, 0, 0, [], [0, 0, 1]⟩, ⟨0x21, 0, 0, 0, [], le 8 0x1000 ++ le 8 0x10000 ++ zeros 16⟩]
    pwr := { State.reset.pwr with pll := true, doms := Vector.replicate 64 { ({} : DomRt) with state := .onPll } }
    cores := State.reset.cores.set 0 { ({} : CoreRt) with mq := { entries := [boundaryEntry] } }
    mem := [(0x1100, 5), (0x10FF, 7)] }

/-- The job that its engine finds. -/
def boundaryJob : Job :=
  { q := .core 0 .mq, e := boundaryEntry, h := hdrOf boundaryMove, p := boundaryMove.drop 16
    who := { ctx := 0, gen := 0, part := 0, core := some 0, src := qSrc (.core 0 .mq) (qEngine (.core 0 .mq))
             detail := descDetail (.core 0 .mq) (hdrOf boundaryMove) 0 } }

theorem unsortedMove_job : unsortedMove.job (.core 0 .mq) (· = 0x10) = some boundaryJob := by decide +kernel

/-- It is a plain MOVE of one row with both ends on this device, which may be accessed; a read of both source bytes answers
0 and 5. -/
theorem unsortedMove_accesses :
    moveFmt boundaryJob.p = 0 ∧ fld boundaryJob.p 28 2 = 1 ∧ fld boundaryJob.p 30 2 = 1 ∧
      unsortedMove.isLocal (addrField boundaryJob.p 0) = true ∧ unsortedMove.isLocal (addrField boundaryJob.p 8) = true ∧
      (let s1 := startStage unsortedMove boundaryJob.who.ctx boundaryJob.h.stage
       s1.access boundaryJob.who (addrField boundaryJob.p 0).addr (fld boundaryJob.p 24 4) false = .ok 0x10FF ∧
       s1.load boundaryJob.who (addrField boundaryJob.p 0).addr (fld boundaryJob.p 24 4) = .ok [0, 5] ∧
       s1.storeAt boundaryJob.who (addrField boundaryJob.p 8).addr (fld boundaryJob.p 24 4) = .ok 0x2000) := by
  decide +kernel

/-- The memory of the state in which a command ends. -/
def memoryOf : Res → List Host.Cell
  | .next t => t.mem
  | _ => []

/-- The two requests read 7 and 5. -/
theorem unsortedMove_copies : memGet 0 (memoryOf (exec (.move 0 {}) unsortedMove)) 0x2000 = 7 := by decide +kernel

end Sys2Proof.Machine

open Sys2Proof Sys2Proof.Machine

/-- Refutes O16: in `unsortedMove`, whose memory is out of canonical form, one read of both source bytes answers 0 first, and the
requests of the MOVE copy 7. -/
theorem not_plainMoveCopiesItsBytes : ¬ Obligations.PlainMoveCopiesItsBytes := by
  unfold Obligations.PlainMoveCopiesItsBytes
  intro h
  obtain ⟨hfmt, hrow, hplane, hsrc, hdst, hreach⟩ := unsortedMove_accesses
  obtain ⟨t, ht, hcopied, -⟩ := h unsortedMove 0 boundaryJob 0x10FF 0x2000 [0, 5] unsortedMove_job hfmt hrow hplane hsrc hdst
    hreach (by decide) (fun k => by decide +revert) rfl rfl
  have hbyte : memGet 0 t.mem 0x2000 = 0 := hcopied 0 (by decide)
  have hseven : memGet 0 t.mem 0x2000 = 7 := (ht ▸ unsortedMove_copies :)
  exact absurd (hseven.symm.trans hbyte) (by decide)
end

section
/-!
PROOFS. What a fence of a core changes in the cores and partitions (R363 to R366): everything that comes with it, the faults of
contexts, the moved lists, power and records, leaves what the two views below show, so that only the marks count.
-/

namespace Sys2Proof.Machine

/-! ### Single units across a frame -/

theorem keeps_core {s t : State} {l : List Kind} (h : s.keeps l t) (hl : Kind.cores ∉ l) (k : CoreId) : t.core k = s.core k :=
  congrArg (fun v : Vector CoreRt 12 => v.get k) (h .cores hl)

theorem keeps_prt {s t : State} {l : List Kind} (h : s.keeps l t) (hl : Kind.parts ∉ l) (p : PartId) : t.prt p = s.prt p :=
  congrArg (fun v : Vector PartRt 4 => v.get p) (h .parts hl)

theorem keeps_offline {s t : State} {l : List Kind} (h : s.keeps l t) (hl : Kind.err ∉ l) : t.err.offline = s.err.offline :=
  (congrArg ErrRegs.offline (h .err hl : t.err.still = s.err.still) : _)

theorem keeps_odo {s t : State} {l : List Kind} (h : s.keeps l t) (hl : Kind.boot ∉ l) : t.boot.odo = s.boot.odo :=
  (congrArg BootRegs.odo (h .boot hl : t.boot.still = s.boot.still) : _)

/-- What an update of a core leaves of it, every core keeps. -/
theorem core_onCore_of {α : Type} (g : CoreRt → α) (s : State) (i k : CoreId) {f : CoreRt → CoreRt} (hf : ∀ x, g (f x) = g x) :
    g ((s.onCore i f).core k) = g (s.core k) := by
  by_cases h : k = i
  · subst h; rw [State.core_onCore_self, hf]
  · rw [State.core_onCore_ne _ _ _ _ h]

/-! ### Views of the cores and partitions -/

/-- What `g` shows of every core and `h` of every partition is as before, and so are the device state, the offline
partitions and the odometer. -/
structure State.Shows {α β : Type} (g : CoreRt → α) (h : PartRt → β) (s t : State) : Prop where
  core : ∀ k, g (t.core k) = g (s.core k)
  prt : ∀ p, h (t.prt p) = h (s.prt p)
  dev : t.dev = s.dev
  offline : t.err.offline = s.err.offline
  odo : t.boot.odo = s.boot.odo

/-- Two views that show neither a queue nor an awaited hand-over, which a fault of a context changes (R361). -/
structure QueueBlind {α β : Type} (g : CoreRt → α) (h : PartRt → β) : Prop where
  queue : ∀ x k v, g (setCoreQueue x k v) = g x
  dq : ∀ x v, h { x with dq := v } = h x
  want : ∀ x, h { x with hub := { x.hub with want := none } } = h x

section
variable {α β : Type} {g : CoreRt → α} {h : PartRt → β}

theorem State.Shows.refl (s : State) : s.Shows g h s := ⟨fun _ => rfl, fun _ => rfl, rfl, rfl, rfl⟩

theorem State.Shows.trans {s t u : State} (a : s.Shows g h t) (b : t.Shows g h u) : s.Shows g h u :=
  ⟨fun k => (b.core k).trans (a.core k), fun p => (b.prt p).trans (a.prt p), b.dev.trans a.dev, b.offline.trans a.offline,
    b.odo.trans a.odo⟩

theorem State.Shows.foldl {α' : Type} (f : State → α' → State) (hf : ∀ (s : State) x, s.Shows g h (f s x)) (l : List α')
    (s : State) : s.Shows g h (l.foldl f s) := by
  induction l generalizing s with
  | nil => exact .refl s
  | cons x l ih => exact (hf s x).trans (ih _)

/-- The kinds of state that the views are of. -/
def viewKinds : List Kind := [.cores, .parts, .dev, .err, .boot]

theorem State.Shows.of_keeps {s t : State} {l : List Kind} (hk : s.keeps l t) (hl : ∀ k ∈ viewKinds, k ∉ l) : s.Shows g h t :=
  ⟨fun k => congrArg g (keeps_core hk (hl _ (by simp [viewKinds])) k),
    fun p => congrArg h (keeps_prt hk (hl _ (by simp [viewKinds])) p), hk .dev (hl _ (by simp [viewKinds])),
    keeps_offline hk (hl _ (by simp [viewKinds])), keeps_odo hk (hl _ (by simp [viewKinds]))⟩

theorem State.Quiet.shows {s t : State} (hq : s.Quiet t) : s.Shows g h t := .of_keeps hq.1 (by simp)

theorem onCore_shows (s : State) (i : CoreId) (f : CoreRt → CoreRt) (hf : ∀ x, g (f x) = g x) : s.Shows g h (s.onCore i f) :=
  ⟨fun k => core_onCore_of g s i k hf, fun _ => rfl, rfl, rfl, rfl⟩

theorem onPart_shows (s : State) (p : PartId) (f : PartRt → PartRt) (hf : ∀ x, h (f x) = h x) : s.Shows g h (s.onPart p f) :=
  ⟨fun _ => rfl, fun q => by
    by_cases e : q = p
    · subst e; rw [State.prt_onPart_self, hf]
    · rw [State.prt_onPart_ne _ _ _ _ e], rfl, rfl, rfl⟩

theorem event_shows (s : State) (src code : U16) (ctx : Option (CtxId × BitVec 12)) (detail : Nat) :
    s.Shows g h (event s src code ctx detail) := by
  have hk := event_keeps s src code ctx detail
  have hm := event_modes s src code ctx detail
  simp only [ErrRegs.modes, Prod.mk.injEq] at hm
  obtain ⟨-, -, -, -, hoff, -⟩ := hm
  exact ⟨fun k => congrArg g (keeps_core hk (by simp) k), fun p => congrArg h (keeps_prt hk (by simp) p), hk .dev (by simp), hoff,
    keeps_odo hk (by simp)⟩

theorem reactCtx_shows (s : State) (c : CtxId) : s.Shows g h (reactCtx s c) :=
  .of_keeps (reactCtx_keeps s c) (by simp [viewKinds])

variable (b : QueueBlind g h)
include b

theorem onQueue_shows (s : State) (q : QueueId) (f : QueueRt → QueueRt) : s.Shows g h (s.onQueue q f) := by
  cases q with
  | core i k => exact onCore_shows s i _ fun x => b.queue x k _
  | dq p => exact onPart_shows s p _ fun x => b.dq x _

theorem purgeHubs_shows (s : State) (c : CtxId) : s.Shows g h (purgeHubs s c) := by
  refine ⟨fun _ => rfl, fun p => ?_, rfl, rfl, rfl⟩
  rw [purgeHubs_prt]
  split
  · exact b.want _
  · rfl

theorem teardown_shows (s : State) (c : CtxId) (stop : Option U16) (code : U16) : s.Shows g h (teardown s c stop code) := by
  have hqueues (u : State) : u.Shows g h (purgeQueues u c) := .foldl _ (fun s q => onQueue_shows b s q _) _ u
  exact (((((State.Shows.of_keeps (setCtxState_keeps s c .draining) (by simp [viewKinds])).trans (hqueues _)).trans
    (purgeHubs_shows b _ c)).trans (.of_keeps (State.keeps_onRng _ _) (by simp [viewKinds]))).trans
    (.of_keeps (State.keeps_onCtx _ c _) (by simp [viewKinds]))).trans
    (.of_keeps (teardown_torn s c stop code) (by simp [viewKinds]))

theorem faultCtx_shows (s : State) (c : CtxId) (code : U16) (dev : Bool) : s.Shows g h (faultCtx s c code dev) := by
  have hframe (f : TlyRegs → TlyRegs) (k : FrameRt → FrameRt) : s.Shows g h ((s.onTly f).onFrame c k) :=
    (State.Shows.of_keeps (onTly_keeps s f) (by simp [viewKinds])).trans
      (.of_keeps (keeps_onFrame _ c k) (by simp [viewKinds]))
  simp only [faultCtx]
  split
  · refine State.Shows.trans ?_ (teardown_shows b _ c none code)
    split
    · exact (hframe _ _).trans (.of_keeps (tallyPush_keeps _ _) (by simp [viewKinds]))
    · exact hframe _ _
  · exact .of_keeps (onTly_keeps s _) (by simp [viewKinds])

theorem react_fault_shows (s : State) (c : CtxId) (code : U16) : s.Shows g h (faultCtx (reactCtx s c) c code false) :=
  (reactCtx_shows s c).trans (faultCtx_shows b _ c code false)

/-- A fault of a context, of whatever generation it is raised for. -/
theorem raiseFlt_shows (s : State) {f : Flt} (hf : f.OfCtx) (ctx : Option (CtxId × BitVec 12)) :
    s.Shows g h (raiseFlt s f ctx) := by
  have he := event_shows (g := g) (h := h) s f.src f.code ctx f.detail
  simp only [raiseFlt, countIso_fault s hf.fault, hf.notDevice, hf.fault, hf.cores, hf.reset, List.foldl_nil,
    Bool.false_eq_true, if_false, if_true]
  split
  · exact he
  · cases ctx with
    | none => exact he
    | some c =>
      dsimp only
      split
      · exact he.trans (react_fault_shows b _ c.1 f.code)
      · exact he

end

/-! ### Cores updated one after another -/

/-- A step that updates one core, taken for each core of a list. -/
theorem foldl_core {F : State → CoreId → State} {f : CoreRt → CoreRt} (hself : ∀ s k, (F s k).core k = f (s.core k))
    (hne : ∀ s k j, j ≠ k → (F s k).core j = s.core j) {l : List CoreId} (hl : l.Nodup) (s : State) (j : CoreId) :
    (l.foldl F s).core j = if j ∈ l then f (s.core j) else s.core j := by
  induction l generalizing s with
  | nil => simp
  | cons k l ih =>
    obtain ⟨hk, hl⟩ := List.nodup_cons.1 hl
    rw [List.foldl_cons, ih hl]
    by_cases e : j = k
    · subst e
      rw [if_neg hk, hself, if_pos (by simp)]
    · rw [hne s k j e]
      simp [e]

theorem coresOf_nodup : ∀ p : PartId, (coresOf p).Nodup := by decide

/-! ### The cores of a partition -/

theorem coreOf_slot (i : CoreId) : coreOf (partOfCore i) (slotOfCore i) = i := by
  apply Fin.ext
  simp only [coreOf, partOfCore, slotOfCore]
  omega

theorem partOfCore_coreOf (p : PartId) (r : Fin 3) : partOfCore (coreOf p r) = p := by
  apply Fin.ext
  simp only [coreOf, partOfCore]
  omega

theorem coreOf_eq_iff {i : CoreId} {r : Fin 3} : coreOf (partOfCore i) r = i ↔ slotOfCore i = r := by
  simp only [Fin.ext_iff, coreOf, partOfCore, slotOfCore]
  omega

theorem mem_coresOf (i : CoreId) : i ∈ coresOf (partOfCore i) := by
  revert i; decide

/-- The fenced cores of a partition, counted from any of its cores on. -/
theorem fenced_count (s : State) (p : PartId) (r : Fin 3) : ((coresOf p).filter s.isFenced).length =
    (s.isFenced (coreOf p r)).toNat + (s.isFenced (coreOf p (r + 1))).toNat + (s.isFenced (coreOf p (r + 2))).toNat := by
  have hcount : ((coresOf p).filter s.isFenced).length =
      (s.isFenced (coreOf p 0)).toNat + (s.isFenced (coreOf p 1)).toNat + (s.isFenced (coreOf p 2)).toNat := by
    rw [← List.countP_eq_length_filter]
    simp only [coresOf, List.countP_cons, List.countP_nil, Bool.toNat, Bool.cond_eq_ite]
    omega
  have h3 : r = 0 ∨ r = 1 ∨ r = 2 := by omega
  rw [hcount]
  rcases h3 with rfl | rfl | rfl
  · rfl
  · show _ = (s.isFenced (coreOf p 1)).toNat + (s.isFenced (coreOf p 2)).toNat + (s.isFenced (coreOf p 0)).toNat
    omega
  · show _ = (s.isFenced (coreOf p 2)).toNat + (s.isFenced (coreOf p 0)).toNat + (s.isFenced (coreOf p 1)).toNat
    omega

/-- A core that another one of its partition can stand in for is not cut off before it is fenced. -/
theorem cutOff_of_adopter {s : State} {i : CoreId} {a : Fin 3} (hf : s.isFenced i = false) (ha : adopterOf s i = some a) :
    s.cutOff i = false := by
  have hcount := fenced_count s (partOfCore i) (slotOfCore i)
  have hone : s.isFenced (coreOf (partOfCore i) (slotOfCore i + 1)) = false ∨
      s.isFenced (coreOf (partOfCore i) (slotOfCore i + 2)) = false := by
    simp only [adopterOf] at ha
    grind
  have hle : ((coresOf (partOfCore i)).filter s.isFenced).length ≤ 1 := by
    have h1 := Bool.toNat_le (s.isFenced (coreOf (partOfCore i) (slotOfCore i + 1)))
    have h2 := Bool.toNat_le (s.isFenced (coreOf (partOfCore i) (slotOfCore i + 2)))
    rw [hcount, coreOf_slot, hf]
    rcases hone with h | h <;> rw [h] <;> simp only [Bool.toNat_false] <;> omega
  have hne : ¬ ((coresOf (partOfCore i)).filter s.isFenced).length = 2 := by omega
  simp only [State.cutOff, hf, Bool.false_or, hne, decide_false, Bool.and_false]

/-! ### The device state that follows (R364) -/

theorem fencedMask_ne_zero {s : State} {i : CoreId} (h : s.isFenced i = true) : s.fencedMask ≠ 0 := fun h0 => by
  simp only [State.fencedMask, sumN, ← List.sum_eq_foldl, List.sum_eq_zero_iff] at h0
  have hi := h0 _ (List.mem_map_of_mem (List.mem_finRange i))
  rw [if_pos h] at hi
  exact absurd hi (Nat.two_pow_pos _).ne'

theorem refreshDev_degraded {s : State} (hd : s.dev = .run) (h : s.fencedMask ≠ 0 ∨ s.err.offline ≠ 0) :
    (refreshDev s).dev = .degraded := by
  simp only [refreshDev, hd, true_or, if_true]
  rw [if_pos (h.imp_right .inl)]

/-! ### A core is fenced (R364) -/

/-- A core in the view of its fence: its fault history and whether its self-test has failed. -/
def CoreRt.marks (x : CoreRt) : CfhRegs × Bool := (x.cfh, x.lst.failed)

/-- A partition in the view of a fence: its slot map and its state. -/
def PartRt.placing (x : PartRt) : Vector (Fin 3) 3 × PrtRegs := (x.slotMap, x.prt)

/-- From one state to another across what comes with a fence. -/
abbrev State.FenceShows (s t : State) : Prop := s.Shows CoreRt.marks PartRt.placing t

theorem fence_blind : QueueBlind CoreRt.marks PartRt.placing :=
  ⟨fun _ k _ => by cases k <;> rfl, fun _ _ => rfl, fun _ => rfl⟩

theorem State.FenceShows.cfh {s t : State} (h : s.FenceShows t) (k : CoreId) : (t.core k).cfh = (s.core k).cfh :=
  congrArg Prod.fst (h.core k)

theorem State.FenceShows.failed {s t : State} (h : s.FenceShows t) (k : CoreId) : (t.core k).lst.failed = (s.core k).lst.failed :=
  congrArg Prod.snd (h.core k)

theorem State.FenceShows.slotMap {s t : State} (h : s.FenceShows t) (p : PartId) : (t.prt p).slotMap = (s.prt p).slotMap :=
  congrArg Prod.fst (h.prt p)

theorem State.FenceShows.status {s t : State} (h : s.FenceShows t) (p : PartId) : (t.prt p).prt = (s.prt p).prt :=
  congrArg Prod.snd (h.prt p)

theorem State.FenceShows.isFenced {s t : State} (h : s.FenceShows t) (k : CoreId) : t.isFenced k = s.isFenced k :=
  congrArg CfhRegs.fenced (h.cfh k)

theorem isFenced_congr {s t : State} (h : ∀ k, (t.core k).cfh = (s.core k).cfh) : t.isFenced = s.isFenced :=
  funext fun k => congrArg CfhRegs.fenced (h k)

theorem adopterOf_congr {s t : State} (h : ∀ k, (t.core k).cfh = (s.core k).cfh) (i : CoreId) :
    adopterOf t i = adopterOf s i := by
  simp only [adopterOf, isFenced_congr h]

theorem cutOff_congr {s t : State} (h : ∀ k, (t.core k).cfh = (s.core k).cfh) (i : CoreId) : t.cutOff i = s.cutOff i := by
  simp only [State.cutOff, h, isFenced_congr h]

/-- The contexts of a list are faulted. -/
def faultEach (l : List CtxId) (code : U16) (s : State) : State := l.foldl (fun s c => faultCtx (reactCtx s c) c code false) s

theorem faultEach_shows (l : List CtxId) (code : U16) (s : State) : s.FenceShows (faultEach l code s) :=
  .foldl _ (fun s c => react_fault_shows fence_blind s c code) l s

/-- A core that shows an adopter. -/
def CoreRt.adoptedBy (x : CoreRt) (a : BitVec 2) : CoreRt := { x with cfh := { x.cfh with adopter := a } }

/-- The cores of a list show an adopter. -/
def adoptEach (l : List CoreId) (a : BitVec 2) (s : State) : State := l.foldl (fun s k => s.onCore k fun x => x.adoptedBy a) s

theorem adoptEach_keeps (l : List CoreId) (a : BitVec 2) (s : State) : s.keeps [.cores] (adoptEach l a s) :=
  foldl_keeps _ (fun s k => onCore_keeps s k _) l s

theorem adoptEach_core {l : List CoreId} (hl : l.Nodup) (a : BitVec 2) (s : State) (k : CoreId) :
    (adoptEach l a s).core k = if k ∈ l then (s.core k).adoptedBy a else s.core k :=
  foldl_core (f := fun x => x.adoptedBy a) (fun s k => State.core_onCore_self s k _)
    (fun s k j hj => State.core_onCore_ne s k j _ hj) hl s k

/-- The core is fenced. -/
def fenceSet (s : State) (i : CoreId) : State := s.onCore i fun x => { x with cfh := { x.cfh with fenced := true } }

/-- The marks of a fence: the core is fenced, and the fenced cores of its partition name the adopter. -/
def fenceMarked (s : State) (i : CoreId) (a : Fin 3) : State :=
  adoptEach ((coresOf (partOfCore i)).filter fun k => (fenceSet s i).isFenced k) (BitVec.ofNat 2 a.1) (fenceSet s i)

/-- The adopter takes the lists over, and the fenced core is powered off. -/
def fenceMoved (s : State) (i : CoreId) (a : Fin 3) : State :=
  powerOff (moveLists (rewindChains s i) i (coreOf (partOfCore i) a)) i

/-- The slots of the fenced core go to the adopter. -/
def fenceMapped (s : State) (i : CoreId) (a : Fin 3) : State :=
  s.onPart (partOfCore i) fun x => { x with slotMap := x.slotMap.map fun k => if k = slotOfCore i then a else k }

/-- The adopter is on, and the pair of the fenced core has ended. -/
def fenceSettled (s : State) (i : CoreId) (a : Fin 3) : State :=
  let s := adopterOn s (coreOf (partOfCore i) a)
  match (s.prt (partOfCore i)).hub.pair with
  | some (l, t) => if l = slotOfCore i ∨ t = slotOfCore i then endPair s (partOfCore i) else s
  | none => s

/-- The fence is recorded and logged. -/
def fenceNoted (s : State) (i : CoreId) (a : Fin 3) (code : U16) : State :=
  let s := event s srcAgg 0x0C01 none (i.1 + a.1 * 16 + code.toNat * 65536)
  logAppend s 6 (fenceEntry s i code)

/-- The odometer counts a fence. -/
def fenceCounted (s : State) : State := s.onBoot fun b => { b with odo := { b.odo with fencings := b.odo.fencings + 1 } }

/-- The cores and partitions of a fence but for its records. -/
def fenceDone (s : State) (i : CoreId) (a : Fin 3) : State :=
  fenceSettled (fenceMapped (fenceMoved (fenceMarked s i a) i a) i a) i a

theorem fence_adopted {s : State} {i : CoreId} {a : Fin 3} (code : U16) (hc : s.cutOff i = false) (ha : adopterOf s i = some a) :
    fence s i code = refreshDev (fenceCounted (fenceNoted (fenceDone (faultEach (ctxsOnCore s i) code s) i a) i a code)) := by
  have ha' : adopterOf ((ctxsOnCore s i).foldl (fun s c => faultCtx (reactCtx s c) c code false) s) i = some a :=
    (adopterOf_congr (faultEach_shows (ctxsOnCore s i) code s).cfh i).trans ha
  simp only [fence, hc, ha', Bool.false_eq_true, if_false]
  rfl

theorem fence_last {s : State} {i : CoreId} (code : U16) (hc : s.cutOff i = false) (ha : adopterOf s i = none) :
    fence s i code = partOffline (event (faultEach (ctxsOnCore s i) code s) srcAgg 0x0C01 none
      (i.1 + 3 * 16 + code.toNat * 65536)) (partOfCore i) := by
  have ha' : adopterOf ((ctxsOnCore s i).foldl (fun s c => faultCtx (reactCtx s c) c code false) s) i = none :=
    (adopterOf_congr (faultEach_shows (ctxsOnCore s i) code s).cfh i).trans ha
  simp only [fence, hc, ha', Bool.false_eq_true, if_false]
  rfl

/-! What comes with the marks -/

theorem rewindChains_shows (s : State) (i : CoreId) : s.FenceShows (rewindChains s i) := by
  refine .foldl _ (fun s c => ?_) _ s
  split
  · exact .refl s
  · refine .foldl _ (fun s l => ?_) _ s
    split
    · exact .refl s
    · split
      · exact .refl s
      · exact (State.Shows.of_keeps (keeps_onFrame s c _) (by simp [viewKinds])).trans (onQueue_shows fence_blind _ _ _)

theorem moveLists_shows (s : State) (i a : CoreId) : s.FenceShows (moveLists s i a) := by
  unfold moveLists
  exact .foldl _ (fun s k => onQueue_shows fence_blind s _ _) _ s

theorem powerOff_shows (s : State) (i : CoreId) : s.FenceShows (powerOff s i) := by
  have hdom (u : State) (n : Nat) (f : DomRt → DomRt) : u.FenceShows (u.onDom n f) :=
    .of_keeps (onDom_keeps u n f) (by simp [viewKinds])
  have hdown (u : State) : u.FenceShows (u.onCore i fun x => { coreDown x false with ldgCe := 0, ldgUe := 0 }) :=
    onCore_shows u i _ fun _ => rfl
  have hdrop (u : State) : u.FenceShows (dropWindow u (ledgeBase i) 0x1000000) :=
    .of_keeps (dropWindow_keeps u _ _) (by simp [viewKinds])
  exact (((hdom s _ _).trans (hdom _ _ _)).trans (hdown _)).trans (hdrop _)

theorem fenceMoved_shows (s : State) (i : CoreId) (a : Fin 3) : s.FenceShows (fenceMoved s i a) :=
  ((rewindChains_shows s i).trans (moveLists_shows _ i _)).trans (powerOff_shows _ i)

theorem adopterOn_shows (s : State) (i : CoreId) : s.FenceShows (adopterOn s i) := by
  unfold adopterOn
  split
  · exact .refl s
  · refine .foldl _ (fun u n => ?_) _ s
    split
    · exact .refl u
    · exact .of_keeps (onDom_keeps u n _) (by simp [viewKinds])

theorem fenceSettled_shows (s : State) (i : CoreId) (a : Fin 3) : s.FenceShows (fenceSettled s i a) := by
  refine (adopterOn_shows s (coreOf (partOfCore i) a)).trans ?_
  unfold fenceSettled
  dsimp only
  split
  · split
    · exact onPart_shows _ _ _ fun _ => rfl
    · exact .refl _
  · exact .refl _

theorem fenceNoted_shows (s : State) (i : CoreId) (a : Fin 3) (code : U16) : s.FenceShows (fenceNoted s i a code) :=
  (event_shows s _ _ _ _).trans (logAppend_quiet _ _ _).shows

/-! The marks -/

theorem fenceMarked_core (s : State) (i k : CoreId) (a : Fin 3) : ((fenceMarked s i a).core k).lst = (s.core k).lst ∧
    (k = i → (fenceMarked s i a).isFenced k = true ∧ ((fenceMarked s i a).core k).cfh.adopter = BitVec.ofNat 2 a.1) := by
  have hcore := adoptEach_core ((coresOf_nodup (partOfCore i)).filter fun k => (fenceSet s i).isFenced k)
    (BitVec.ofNat 2 a.1) (fenceSet s i) k
  have hlst : ((fenceSet s i).core k).lst = (s.core k).lst := by
    rw [fenceSet, core_onCore_of CoreRt.lst]
    exact fun _ => rfl
  refine ⟨?_, fun e => ?_⟩
  · rw [← hlst, fenceMarked, hcore]
    split <;> rfl
  · subst e
    have hfen : (fenceSet s k).isFenced k = true := by simp [State.isFenced, fenceSet]
    have hk : k ∈ (coresOf (partOfCore k)).filter fun j => (fenceSet s k).isFenced j := List.mem_filter.2 ⟨mem_coresOf k, hfen⟩
    rw [if_pos hk] at hcore
    rw [State.isFenced, fenceMarked, hcore]
    exact ⟨hfen, rfl⟩

theorem fenceMarked_keeps (s : State) (i : CoreId) (a : Fin 3) : s.keeps [.cores] (fenceMarked s i a) :=
  State.keeps_trans (onCore_keeps s i _) (adoptEach_keeps _ _ _)

/-- The marks of a fence with the adopter's slots; the device state and the odometer are as before. -/
structure State.Adopted (s : State) (i : CoreId) (a : Fin 3) (t : State) : Prop where
  fenced : t.isFenced i = true
  adopter : (t.core i).cfh.adopter = BitVec.ofNat 2 a.1
  failed : ∀ k, (t.core k).lst.failed = (s.core k).lst.failed
  slots : (t.prt (partOfCore i)).slotMap = (s.prt (partOfCore i)).slotMap.map fun k => if k = slotOfCore i then a else k
  dev : t.dev = s.dev
  odo : t.boot.odo = s.boot.odo

theorem State.Adopted.after {s u t : State} {i : CoreId} {a : Fin 3} (h : u.Adopted i a t) (hs : s.FenceShows u) : s.Adopted i a t :=
  ⟨h.fenced, h.adopter, fun k => (h.failed k).trans (hs.failed k), by rw [h.slots, hs.slotMap], h.dev.trans hs.dev,
    h.odo.trans hs.odo⟩

theorem State.Adopted.then {s t u : State} {i : CoreId} {a : Fin 3} (h : s.Adopted i a t) (ht : t.FenceShows u) : s.Adopted i a u :=
  ⟨(ht.isFenced i).trans h.fenced, by rw [ht.cfh, h.adopter], fun k => (ht.failed k).trans (h.failed k), by rw [ht.slotMap, h.slots],
    ht.dev.trans h.dev, ht.odo.trans h.odo⟩

theorem fenceMapped_adopted (s : State) (i : CoreId) (a : Fin 3) :
    s.Adopted i a (fenceMapped (fenceMoved (fenceMarked s i a) i a) i a) := by
  have hmk := fenceMarked_keeps s i a
  have hlst (k) := (fenceMarked_core s i k a).1
  obtain ⟨hfen, hadopter⟩ := (fenceMarked_core s i i a).2 rfl
  generalize fenceMarked s i a = m at *
  have hmv := fenceMoved_shows m i a
  generalize fenceMoved m i a = v at *
  have hcore (k) : (fenceMapped v i a).core k = v.core k := rfl
  refine ⟨?_, ?_, fun k => ?_, ?_, ?_, ?_⟩
  · exact (hmv.isFenced i).trans hfen
  · rw [hcore, hmv.cfh, hadopter]
  · rw [hcore, hmv.failed, hlst]
  · rw [fenceMapped, State.prt_onPart_self]
    dsimp only
    rw [hmv.slotMap, keeps_prt hmk (by simp)]
  · exact hmv.dev.trans (hmk .dev (by simp))
  · exact hmv.odo.trans (keeps_odo hmk (by simp))

theorem fenceDone_adopted (s : State) (i : CoreId) (a : Fin 3) (code : U16) :
    s.Adopted i a (fenceNoted (fenceDone s i a) i a code) :=
  (fenceMapped_adopted s i a).then ((fenceSettled_shows _ i a).trans (fenceNoted_shows _ i a code))

/-- What a fence leaves where another core adopts the slots of the core. -/
structure State.FencedBy (s : State) (i : CoreId) (a : Fin 3) (t : State) : Prop where
  fenced : t.isFenced i = true
  adopter : (t.core i).cfh.adopter = BitVec.ofNat 2 a.1
  failed : ∀ k, (t.core k).lst.failed = (s.core k).lst.failed
  slots : (t.prt (partOfCore i)).slotMap = (s.prt (partOfCore i)).slotMap.map fun k => if k = slotOfCore i then a else k
  count : t.boot.odo.fencings = s.boot.odo.fencings + 1
  dev : s.dev = .run → t.dev = .degraded

theorem fence_fencedBy {s : State} {i : CoreId} {a : Fin 3} (code : U16) (hc : s.cutOff i = false)
    (ha : adopterOf s i = some a) : s.FencedBy i a (fence s i code) := by
  rw [fence_adopted code hc ha]
  have h := (fenceDone_adopted (faultEach (ctxsOnCore s i) code s) i a code).after (faultEach_shows _ code s)
  generalize fenceNoted (fenceDone (faultEach (ctxsOnCore s i) code s) i a) i a code = x at *
  have hkeep := refreshDev_keeps (fenceCounted x)
  have hcore (k) : (refreshDev (fenceCounted x)).core k = x.core k := keeps_core hkeep (by simp) k
  have hprt (p) : (refreshDev (fenceCounted x)).prt p = x.prt p := keeps_prt hkeep (by simp) p
  refine ⟨?_, ?_, fun k => ?_, ?_, ?_, fun hd => ?_⟩
  · rw [State.isFenced, hcore]
    exact h.fenced
  · rw [hcore, h.adopter]
  · rw [hcore, h.failed]
  · rw [hprt, h.slots]
  · rw [keeps_odo hkeep (by simp), ← h.odo]
    rfl
  · exact refreshDev_degraded (s := fenceCounted x) (h.dev.trans hd) (.inl (fencedMask_ne_zero (s := fenceCounted x) h.fenced))

/-! ### A partition goes offline (R366) -/

/-- The marks of a partition that goes offline. -/
def offlineMarked (s : State) (p : PartId) : State :=
  (adoptEach (coresOf p) 3 (markOffline s p)).onErr fun e => { e with offline := e.offline ||| (1 <<< p.1) }

/-- Its record and the faults of its contexts. -/
def offlineNoted (s : State) (p : PartId) : State :=
  let s := event s srcAgg 0x0C04 none 0
  ((allFin 16).filter fun c => s.hasWork c p).foldl (fun s c =>
    if (s.ctx c).state = .run ∨ (s.ctx c).state = .starting then faultCtx (reactCtx s c) c 0x0C04 false else s) s

theorem partOffline_eq (s : State) (p : PartId) : partOffline s p = refreshDev (offlineNoted (offlineMarked s p) p) := rfl

theorem offlineNoted_shows (s : State) (p : PartId) : s.FenceShows (offlineNoted s p) := by
  refine (event_shows s srcAgg 0x0C04 none 0).trans (.foldl _ (fun s c => ?_) _ _)
  split
  · exact react_fault_shows fence_blind s c 0x0C04
  · exact .refl s

theorem offlineMarked_lst (s : State) (p : PartId) (k : CoreId) : ((offlineMarked s p).core k).lst = (s.core k).lst := by
  have h : (offlineMarked s p).core k = _ := adoptEach_core (coresOf_nodup p) 3 (markOffline s p) k
  rw [h]
  split <;> rfl

theorem offlineMarked_dev (s : State) (p : PartId) : (offlineMarked s p).dev = s.dev :=
  adoptEach_keeps (coresOf p) 3 (markOffline s p) .dev (by simp)

theorem offlineMarked_state (s : State) (p : PartId) : ((offlineMarked s p).prt p).prt.state = .offline := by
  have h : (offlineMarked s p).prt p = (markOffline s p).prt p :=
    congrArg (fun v : Vector PartRt 4 => v.get p) (adoptEach_keeps (coresOf p) 3 (markOffline s p) .parts (by simp))
  rw [h, markOffline, State.prt_onPart_self]

theorem offlineMarked_bit (s : State) (p : PartId) : (offlineMarked s p).err.offline.getLsbD p.1 = true := by
  have hbit : (1 <<< p.1 : BitVec 4).getLsbD p.1 = true := by revert p; decide
  show ((adoptEach (coresOf p) 3 (markOffline s p)).err.offline ||| (1 <<< p.1)).getLsbD p.1 = true
  rw [BitVec.getLsbD_or, hbit, Bool.or_true]

/-- What a partition that goes offline leaves. -/
structure State.OfflineAt (s : State) (p : PartId) (t : State) : Prop where
  state : (t.prt p).prt.state = .offline
  bit : t.err.offline.getLsbD p.1 = true
  dev : s.dev = .run → t.dev = .degraded
  failed : ∀ k, (t.core k).lst.failed = (s.core k).lst.failed

theorem State.OfflineAt.of_shows {s u t : State} {p : PartId} (h : u.OfflineAt p t) (hs : s.FenceShows u) : s.OfflineAt p t :=
  ⟨h.state, h.bit, fun hd => h.dev (hs.dev.trans hd), fun k => (h.failed k).trans (hs.failed k)⟩

theorem partOffline_offlineAt (s : State) (p : PartId) : s.OfflineAt p (partOffline s p) := by
  have hlst := offlineMarked_lst s p
  have hstate := offlineMarked_state s p
  have hbit := offlineMarked_bit s p
  have hdev := offlineMarked_dev s p
  rw [partOffline_eq]
  generalize offlineMarked s p = m at *
  have hn := offlineNoted_shows m p
  generalize offlineNoted m p = n at *
  have hk := refreshDev_keeps n
  refine ⟨?_, ?_, fun hd => ?_, fun k => ?_⟩
  · rw [keeps_prt hk (by simp), hn.status, hstate]
  · rw [keeps_offline hk (by simp), hn.offline, hbit]
  · refine refreshDev_degraded (hn.dev.trans (hdev.trans hd)) (.inr fun h0 => ?_)
    rw [← hn.offline, h0] at hbit
    simp at hbit
  · rw [keeps_core hk (by simp), hn.failed, hlst]

/-- The fence of the last core of a partition takes the partition offline. -/
theorem fence_offline {s : State} {i : CoreId} (code : U16) (hc : s.cutOff i = false) (ha : adopterOf s i = none) :
    s.OfflineAt (partOfCore i) (fence s i code) := by
  rw [fence_last code hc ha]
  exact (partOffline_offlineAt _ _).of_shows ((faultEach_shows _ code s).trans (event_shows _ _ _ _ _))

end Sys2Proof.Machine
end

section
/-!
PROOFS. The logic self-test of a core, alone or with its pair partner (R345 to R349, R352), and the two registers that inject
errors (R117, R351).
-/

namespace Sys2Proof.Machine

theorem exec_lstSegmentStart (i : CoreId) (us : Nat) (s : State) :
    exec (.lstSegmentStart i us) s = finish s (segStart s i us) := rfl

theorem exec_lstSegmentEnd (i : CoreId) (ok fails : Bool) (us : U32) (s : State) :
    exec (.lstSegmentEnd i ⟨ok, fails⟩ us) s = finish s (segEnd s i ok us fails) := rfl

theorem exec_latentOverdue (i : CoreId) (s : State) : exec (.latentOverdue i) s =
    finish s (if s.isFenced i then s else s.onLst i fun l => { l with overdue := true }) := rfl

theorem exec_arrInjectWrite (i : CoreId) (v : U32) (s : State) : exec (.arrInjectWrite i v) s =
    finish s (if s.dev = .selftest then s.onCore i fun x => { x with arr := { x.arr with inject := v &&& 0x107 } } else s) := rfl

theorem exec_phbInjectWrite (p : PartId) (v : U32) (s : State) : exec (.phbInjectWrite p v) s =
    finish s (if s.dev = .selftest then phbInject s p v else s) := rfl

/-! ### The self-test block of a core -/

theorem onLst_self (s : State) (i : CoreId) (f : LstRegs → LstRegs) :
    (s.onLst i f).core i = { s.core i with lst := f (s.core i).lst } := State.core_onCore_self ..

theorem onLst_ne (s : State) {i j : CoreId} (f : LstRegs → LstRegs) (h : j ≠ i) : (s.onLst i f).core j = s.core j :=
  State.core_onCore_ne _ _ _ _ h

theorem onLst_keeps (s : State) (i : CoreId) (f : LstRegs → LstRegs) : s.keeps [.cores] (s.onLst i f) := onCore_keeps s i _

theorem onLst_cfh (s : State) (i : CoreId) (f : LstRegs → LstRegs) (k : CoreId) :
    ((s.onLst i f).core k).cfh = (s.core k).cfh := by
  rw [State.onLst, core_onCore_of CoreRt.cfh]
  exact fun _ => rfl

/-! ### The pair partner (R336, R347) -/

theorem partner_congr {s t : State} (h : t.parts = s.parts) (i : CoreId) : t.partner i = s.partner i := by
  simp only [State.partner, State.prt, h]

/-- A core without a partner neither leads nor trails. -/
theorem leadOf_trailOf_alone {s : State} {i : CoreId} (h : s.partner i = none) : s.leadOf i = none ∧ s.trailOf i = none := by
  simp only [State.partner] at h
  simp only [State.leadOf, State.trailOf]
  split at h
  · next hp => rw [hp]; exact ⟨rfl, rfl⟩
  · next l t hp =>
    rw [hp]
    simp only [coreOf_eq_iff]
    split at h
    · cases h
    · next hl =>
      split at h
      · cases h
      · next ht => rw [if_neg hl, if_neg ht]; exact ⟨rfl, rfl⟩

/-- A core trails its partner, or it leads it. -/
theorem leadOf_trailOf_paired {s : State} {i k : CoreId} (h : s.partner i = some k) :
    s.leadOf i = some k ∨ s.leadOf i = none ∧ s.trailOf i = some k := by
  simp only [State.partner] at h
  simp only [State.leadOf, State.trailOf]
  split at h
  · cases h
  · next l t hp =>
    rw [hp]
    simp only [coreOf_eq_iff]
    split at h
    · next hl =>
      by_cases ht : slotOfCore i = t
      · refine .inl ?_
        rw [if_pos ht, ← hl, ht]
        exact h
      · refine .inr ⟨if_neg ht, ?_⟩
        rw [if_pos hl]
        exact h
    · split at h
      · next ht => refine .inl ?_; rw [if_pos ht]; exact h
      · cases h

/-- A partner lies in the partition of the core. -/
theorem partner_part {s : State} {i k : CoreId} (h : s.partner i = some k) : partOfCore k = partOfCore i := by
  simp only [State.partner] at h
  split at h
  · cases h
  · split at h
    · cases h; exact partOfCore_coreOf _ _
    · split at h
      · cases h; exact partOfCore_coreOf _ _
      · cases h

theorem testGroup_alone {s : State} {i : CoreId} (h : s.partner i = none) : s.testGroup i = [i] := by
  simp [State.testGroup, h]

theorem testGroup_paired {s : State} {i k : CoreId} (h : s.partner i = some k) : s.testGroup i = [i, k] := by
  simp [State.testGroup, h]

theorem testGroup_nodup {s : State} {i : CoreId} (h : s.partner i ≠ some i) : (s.testGroup i).Nodup := by
  cases hp : s.partner i with
  | none => simp [testGroup_alone hp]
  | some k =>
    have hik : i ≠ k := fun e => h (by rw [hp, e])
    simp [testGroup_paired hp, hik]

theorem testGroup_length_one {s : State} {i : CoreId} : (s.testGroup i).length = 1 ↔ s.partner i = none := by
  cases hp : s.partner i <;> simp [State.testGroup, hp]

/-! ### A segment starts (R346, R347, R349) -/

/-- A core whose segment runs: its pipes are clear. -/
def CoreRt.segRunning (x : CoreRt) : CoreRt :=
  { x with lst := { x.lst with running := true, req := false }
           ost := { x.ost with rowBufs := [], pwl := none }, arr := { x.arr with active := none, shadow := none } }

/-- A core whose segment is deferred. -/
def CoreRt.segDeferred (x : CoreRt) : CoreRt := { x with lst := { x.lst with deferCnt := sat32 x.lst.deferCnt } }

/-- Segments of the cores of a list start. -/
def segsRun (l : List CoreId) (s : State) : State :=
  l.foldl (fun s k => clearPipes (s.onLst k fun l => { l with running := true, req := false }) k) s

/-- Segments of the cores of a list are deferred. -/
def segsDefer (l : List CoreId) (s : State) : State :=
  l.foldl (fun s k => s.onLst k fun l => { l with deferCnt := sat32 l.deferCnt }) s

theorem segsRun_core {l : List CoreId} (hl : l.Nodup) (s : State) (k : CoreId) :
    (segsRun l s).core k = if k ∈ l then (s.core k).segRunning else s.core k := by
  refine foldl_core (f := CoreRt.segRunning) (fun s k => ?_) (fun s k j hj => ?_) hl s k
  · rw [clearPipes, State.core_onCore_self, onLst_self]
    rfl
  · rw [clearPipes, State.core_onCore_ne _ _ _ _ hj, onLst_ne _ _ hj]

theorem segsDefer_core {l : List CoreId} (hl : l.Nodup) (s : State) (k : CoreId) :
    (segsDefer l s).core k = if k ∈ l then (s.core k).segDeferred else s.core k :=
  foldl_core (f := CoreRt.segDeferred) (fun s k => onLst_self s k _) (fun s _ _ hj => onLst_ne s _ hj) hl s k

theorem segsRun_keeps (l : List CoreId) (s : State) : s.keeps [.cores] (segsRun l s) :=
  foldl_keeps _ (fun s k => State.keeps_trans (onLst_keeps s k _) (onCore_keeps _ k _)) l s

theorem segsDefer_keeps (l : List CoreId) (s : State) : s.keeps [.cores] (segsDefer l s) :=
  foldl_keeps _ (fun s k => onLst_keeps s k _) l s

/-- The time that a segment needs: 250 µs, 262 µs on a pair. -/
def State.segNeeds (s : State) (i : CoreId) : Nat := if s.partner i = none then 250 else 262

theorem segStart_allowed {s : State} {i : CoreId} (h : ∀ k ∈ s.testGroup i, s.mayTest k = true) (us : Nat) :
    segStart s i us = if us < s.segNeeds i then segsDefer (s.testGroup i) s else segsRun (s.testGroup i) s := by
  have hall : (s.testGroup i).all s.mayTest = true := List.all_eq_true.2 h
  simp only [segStart, hall, Bool.not_true, Bool.false_eq_true, if_false, State.segNeeds, testGroup_length_one]
  rfl

theorem segStart_refused {s : State} {i : CoreId} (h : ∃ k ∈ s.testGroup i, s.mayTest k = false) (us : Nat) :
    segStart s i us = s := by
  have hall : (s.testGroup i).all s.mayTest = false := by simpa using h
  simp only [segStart, hall, Bool.not_false, if_true]

/-! ### A segment ends (R345, R347, R348) -/

/-- The segment of a core has ended. -/
def segStopped (s : State) (i : CoreId) (us : U32) : State := s.onLst i fun l => { l with running := false, lastUs := us }

theorem segEnd_idle {s : State} {i : CoreId} (h : (s.core i).lst.running = false) (ok : Bool) (us : U32) (fails : Bool) :
    segEnd s i ok us fails = s := by
  simp only [segEnd, h, Bool.not_false, if_true]

theorem segEnd_good {s : State} {i : CoreId} (h : (s.core i).lst.running = true) (us : U32) (fails : Bool) :
    segEnd s i true us fails = rejoin (segPass (segStopped s i us) i) i fails := by
  simp only [segEnd, h, Bool.not_true, Bool.false_eq_true, if_false, if_true]
  rfl

theorem segEnd_bad {s : State} {i : CoreId} (h : (s.core i).lst.running = true) (us : U32) (fails : Bool) :
    segEnd s i false us fails = segFail (segStopped s i us) i := by
  simp only [segEnd, h, Bool.not_true, Bool.false_eq_true, if_false]
  rfl

/-- A pass that has moved on by one segment at a tick of the run time. -/
def LstRegs.passed (l : LstRegs) (tick : Nat) : LstRegs :=
  if h : l.nextSeg.1 < 17 then { l with nextSeg := ⟨l.nextSeg.1 + 1, by omega⟩ }
  else { l with nextSeg := 0, passCnt := l.passCnt + 1, overdue := false, ageFrom := tick }

theorem LstRegs.passed_running (l : LstRegs) (tick : Nat) : (l.passed tick).running = l.running := by
  unfold LstRegs.passed; split <;> rfl

theorem LstRegs.passed_lastUs (l : LstRegs) (tick : Nat) : (l.passed tick).lastUs = l.lastUs := by
  unfold LstRegs.passed; split <;> rfl

theorem LstRegs.passed_nextSeg (l : LstRegs) (tick : Nat) : (l.passed tick).nextSeg.1 = (l.nextSeg.1 + 1) % 18 := by
  have hl := l.nextSeg.isLt
  unfold LstRegs.passed
  split
  · next h => exact (Nat.mod_eq_of_lt (by omega)).symm
  · next h => rw [show l.nextSeg.1 = 17 by omega]; rfl

theorem LstRegs.passed_last {l : LstRegs} (h : l.nextSeg.1 = 17) (tick : Nat) :
    (l.passed tick).passCnt = l.passCnt + 1 ∧ (l.passed tick).overdue = false := by
  unfold LstRegs.passed
  rw [dif_neg (by omega)]
  exact ⟨rfl, rfl⟩

/-- A right signature, up to what the hub does then. -/
def segGood (s : State) (i : CoreId) (us : U32) : State := segPass (segStopped s i us) i

theorem segPass_keeps (s : State) (i : CoreId) : s.keeps [.cores] (segPass s i) := onLst_keeps s i _

theorem segGood_keeps (s : State) (i : CoreId) (us : U32) : s.keeps [.cores] (segGood s i us) :=
  State.keeps_trans (onLst_keeps s i _) (segPass_keeps (segStopped s i us) i)

theorem segGood_self (s : State) (i : CoreId) (us : U32) : ((segGood s i us).core i).lst =
    ({ (s.core i).lst with running := false, lastUs := us } : LstRegs).passed s.boot.odo.runTicks := by
  rw [segGood, segPass, onLst_self, segStopped, onLst_self]
  rfl

theorem segGood_ne (s : State) {i k : CoreId} (us : U32) (h : k ≠ i) : (segGood s i us).core k = s.core k := by
  rw [segGood, segPass, onLst_ne _ _ h, segStopped, onLst_ne _ _ h]

/-! The hub after the segments of a pair (R339, R347) -/

theorem rejoin_alone {s : State} {i : CoreId} (h : s.partner i = none) (fails : Bool) : rejoin s i fails = s := by
  obtain ⟨hl, ht⟩ := leadOf_trailOf_alone h
  simp only [rejoin, hl, ht]

/-- The hub waits for the partner's segment; then it clears the cores and checks itself, whichever of the two leads. -/
theorem rejoin_paired {s : State} {i k : CoreId} (h : s.partner i = some k) (fails : Bool) :
    ∃ l t, (l = i ∧ t = k ∨ l = k ∧ t = i) ∧
      rejoin s i fails = if (s.core k).lst.running then s else repair s l t fails := by
  rcases leadOf_trailOf_paired h with hl | ⟨hl, ht⟩
  · exact ⟨k, i, .inr ⟨rfl, rfl⟩, by simp only [rejoin, hl]⟩
  · exact ⟨i, k, .inl ⟨rfl, rfl⟩, by simp only [rejoin, hl, ht]⟩

theorem clearPair_ne (s : State) {l t k : CoreId} (hl : k ≠ l) (ht : k ≠ t) : (clearPair s l t true).core k = s.core k := by
  simp only [clearPair, clearPipes, if_true]
  rw [State.core_onCore_ne _ _ _ _ ht, State.core_onCore_ne _ _ _ _ ht, State.core_onCore_ne _ _ _ _ hl]

theorem clearPair_lst (s : State) (l t k : CoreId) : ((clearPair s l t true).core k).lst = (s.core k).lst := by
  simp only [clearPair, clearPipes, if_true]
  rw [core_onCore_of CoreRt.lst, core_onCore_of CoreRt.lst, core_onCore_of CoreRt.lst] <;> exact fun _ => rfl

/-- A self-check that passes. -/
theorem repair_passes (s : State) (l t : CoreId) : repair s l t false =
    onHub (clearPair s l t true) (partOfCore l) fun h => { h with selfchkFail := false } := by
  simp only [repair, Bool.false_eq_true, if_false]
  rfl

/-- The pairing ends at a failed self-check (R339). -/
def repairFailed (s : State) (l t : CoreId) : State :=
  onHub (clearPair s l t true) (partOfCore l) fun h => { h with pair := none, selfchkFail := true }

/-- A partition in the view of its pair. -/
def PartRt.pairing (x : PartRt) : Option (Fin 3 × Fin 3) × Bool := (x.hub.pair, x.hub.selfchkFail)

theorem pairing_blind : QueueBlind CoreRt.lst PartRt.pairing :=
  ⟨fun _ k _ => by cases k <;> rfl, fun _ _ => rfl, fun _ => rfl⟩

/-- A self-check that fails is raised for the test-owner context, or recorded where there is none: the self-tests and pairs stay
as the failure has left them. -/
theorem repair_fails (s : State) (l t : CoreId) : (repairFailed s l t).Shows CoreRt.lst PartRt.pairing (repair s l t true) := by
  simp only [repair, if_true]
  split
  · next c _ =>
    exact (State.Shows.of_keeps (setFlag_keeps _ c _) (by simp [viewKinds])).trans
      (raiseFlt_shows pairing_blind _ (pairHubFlt_ofCtx (partOfCore l)) _)
  · exact event_shows _ _ _ _ _

theorem repairFailed_lst (s : State) (l t k : CoreId) : ((repairFailed s l t).core k).lst = (s.core k).lst := clearPair_lst s l t k

theorem repairFailed_pairing (s : State) (l t : CoreId) :
    ((repairFailed s l t).prt (partOfCore l)).pairing = (none, true) :=
  congrArg (fun h : Hub => (h.pair, h.selfchkFail)) (onHub_hub _ (partOfCore l) _)

/-- What the hub leaves after the segments of a pair when its check passes. -/
theorem rejoin_passes {s : State} {i k : CoreId} (h : s.partner i = some k) :
    s.keeps [.cores, .parts] (rejoin s i false) ∧ (∀ j, ((rejoin s i false).core j).lst = (s.core j).lst) ∧
      (∀ j, j ≠ i → j ≠ k → (rejoin s i false).core j = s.core j) ∧
      ∀ p, ((rejoin s i false).prt p).hub.pair = (s.prt p).hub.pair := by
  obtain ⟨l, t, hlt, hr⟩ := rejoin_paired h false
  rw [hr, repair_passes]
  split
  · exact ⟨s.keeps_refl _, fun _ => rfl, fun _ _ _ => rfl, fun _ => rfl⟩
  · refine ⟨State.keeps_trans (State.keeps_mono (clearPair_keeps s l t true) (by simp))
      (State.keeps_mono (onHub_keeps _ _ _) (by simp)), clearPair_lst s l t, fun j hi hk => ?_, fun p => ?_⟩
    · rcases hlt with ⟨rfl, rfl⟩ | ⟨rfl, rfl⟩
      · exact clearPair_ne s hi hk
      · exact clearPair_ne s hk hi
    · have hprt : (clearPair s l t true).prt p = s.prt p :=
        congrArg (fun v : Vector PartRt 4 => v.get p) (clearPair_keeps s l t true .parts (by simp))
      by_cases e : p = partOfCore l
      · subst e
        rw [onHub_hub, hprt]
      · rw [onHub, State.prt_onPart_ne _ _ _ _ e, hprt]

/-! A wrong signature (R348) -/

/-- A wrong signature, up to the fence of the core. -/
def segFailed (s : State) (i : CoreId) : State :=
  faultEach ((allFin 16).filter fun c => s.ranOn c i) cLstFail
    (event (s.onLst i fun l => { l with failed := true }) (srcCore 0x0B i) cLstFail
      (((allFin 16).filter fun c => s.ranOn c i).head?.map (s.onLst i fun l => { l with failed := true }).cg) 0)

theorem segFail_eq (s : State) (i : CoreId) : segFail s i = fence (segFailed s i) i cLstFail := rfl

theorem segFailed_shows (s : State) (i : CoreId) :
    (s.onLst i fun l => { l with failed := true }).FenceShows (segFailed s i) :=
  (event_shows _ _ _ _ _).trans (faultEach_shows _ _ _)

/-- The state that is fenced after a wrong signature, seen from before the end of the segment. -/
theorem segFailed_seen (s : State) (i : CoreId) (us : U32) : let u := segFailed (segStopped s i us) i
    (∀ k, (u.core k).cfh = (s.core k).cfh) ∧ (u.core i).lst.failed = true ∧ u.dev = s.dev ∧
      (∀ p, (u.prt p).slotMap = (s.prt p).slotMap) ∧ u.boot.odo = s.boot.odo := by
  have h := segFailed_shows (segStopped s i us) i
  refine ⟨fun k => ?_, ?_, h.dev, h.slotMap, h.odo⟩
  · rw [h.cfh, onLst_cfh, segStopped, onLst_cfh]
  · rw [h.failed, onLst_self]

/-! ### The injection registers (R117, R351) -/

theorem onHub_ne (s : State) {p q : PartId} (f : Hub → Hub) (h : q ≠ p) : (onHub s p f).prt q = s.prt q :=
  State.prt_onPart_ne _ _ _ _ h

theorem phbInject_armed {v : U32} (h : v.getLsbD 0 = true) (s : State) (p : PartId) : phbInject s p v =
    injected (onHub s p fun h => { h with inject := v &&& 0xE }) (srcPart 0x08 p, cPairMismatch) := by
  have hw : (v &&& 0xF).getLsbD 0 = true := by rw [BitVec.getLsbD_and, h]; rfl
  have hm : (v &&& 0xF) &&& 0xE = v &&& 0xE := by rw [BitVec.and_assoc]; rfl
  simp only [phbInject, hw, hm, if_true]
  rfl

theorem phbInject_unarmed {v : U32} (h : v.getLsbD 0 = false) (s : State) (p : PartId) :
    phbInject s p v = onHub s p fun h => { h with inject := v &&& 0xF } := by
  have hw : (v &&& 0xF).getLsbD 0 = false := by rw [BitVec.getLsbD_and, h]; rfl
  simp only [phbInject, hw, Bool.false_eq_true, if_false]
  rfl

/-- An injected difference is a record. -/
theorem injected_keeps (s : State) (e : U16 × U16) : s.keeps [.err] (injected s e) :=
  State.keeps_trans (event_keeps_none s e.1 e.2 0) (State.keeps_mono (drainRecords_quiet _).1 (by simp))

/-- A write of `PHB_INJECT` in SELFTEST state: the register of its hub, and a record where it injects. -/
theorem phbInject_effect (s : State) (p : PartId) (v : U32) :
    ((phbInject s p v).prt p).hub.inject = (if v.getLsbD 0 then v &&& 0xE else v &&& 0xF) ∧
      (∀ q, q ≠ p → (phbInject s p v).prt q = s.prt q) ∧
      s.keeps (if v.getLsbD 0 = true then [.parts, .err] else [.parts]) (phbInject s p v) := by
  cases hv : v.getLsbD 0 with
  | true =>
    rw [phbInject_armed hv]
    set u := onHub s p fun h => { h with inject := v &&& 0xE } with hu
    have hkeep := injected_keeps u (srcPart 0x08 p, cPairMismatch)
    have hprt (q) : (injected u (srcPart 0x08 p, cPairMismatch)).prt q = u.prt q :=
      congrArg (fun v : Vector PartRt 4 => v.get q) (hkeep .parts (by simp))
    refine ⟨?_, fun q hq => ?_, State.keeps_trans (State.keeps_mono (onHub_keeps s p _) (by simp))
      (State.keeps_mono hkeep (by simp))⟩
    · rw [hprt, hu, onHub_hub]
      rfl
    · rw [hprt, hu, onHub_ne s _ hq]
  | false =>
    rw [phbInject_unarmed hv]
    exact ⟨by rw [onHub_hub]; rfl, fun q hq => onHub_ne s _ hq, onHub_keeps s p _⟩

/-! ### The end of a segment, case by case -/

/-- A wrong signature where another core of the partition adopts the slots (R348, R364). -/
theorem segEnd_fences {s : State} {i : CoreId} {a : Fin 3} (hr : (s.core i).lst.running = true) (hf : s.isFenced i = false)
    (ha : adopterOf s i = some a) (hd : s.dev = .run) (us : U32) (fails : Bool) : let t := segEnd s i false us fails
    t.isFenced i = true ∧ (t.core i).lst.failed = true ∧ (t.core i).cfh.adopter = BitVec.ofNat 2 a.1 ∧ t.dev = .degraded ∧
      (∀ r, (t.prt (partOfCore i)).slotMap.get r =
        if (s.prt (partOfCore i)).slotMap.get r = slotOfCore i then a else (s.prt (partOfCore i)).slotMap.get r) ∧
      t.boot.odo.fencings = s.boot.odo.fencings + 1 := by
  obtain ⟨hcfh, hfailed, hdev, hslots, hodo⟩ := segFailed_seen s i us
  have h := fence_fencedBy cLstFail ((cutOff_congr hcfh i).trans (cutOff_of_adopter hf ha)) ((adopterOf_congr hcfh i).trans ha)
  rw [segEnd_bad hr, segFail_eq]
  refine ⟨h.fenced, (h.failed i).trans hfailed, h.adopter, h.dev (hdev.trans hd), fun r => ?_, h.count.trans ?_⟩
  · rw [h.slots, hslots, vget_map]
  · rw [hodo]

/-- A wrong signature of the last core of a partition (R348, R366). -/
theorem segEnd_offline {s : State} {i : CoreId} (hr : (s.core i).lst.running = true) (hc : s.cutOff i = false)
    (ha : adopterOf s i = none) (hd : s.dev = .run) (us : U32) (fails : Bool) : let t := segEnd s i false us fails
    (t.core i).lst.failed = true ∧ (t.prt (partOfCore i)).prt.state = .offline ∧
      t.err.offline.getLsbD (partOfCore i).1 = true ∧ t.dev = .degraded := by
  obtain ⟨hcfh, hfailed, hdev, -, -⟩ := segFailed_seen s i us
  have h := fence_offline cLstFail ((cutOff_congr hcfh i).trans hc) ((adopterOf_congr hcfh i).trans ha)
  rw [segEnd_bad hr, segFail_eq]
  exact ⟨(h.failed i).trans hfailed, h.state, h.bit, h.dev (hdev.trans hd)⟩

/-- A right signature moves the pass of the core on; the hub's check of a pair touches only its two cores (R345, R347). -/
theorem segEnd_passes {s : State} {i : CoreId} (hr : (s.core i).lst.running = true) (us : U32) :
    let t := segEnd s i true us false
    (t.core i).lst = ({ (s.core i).lst with running := false, lastUs := us } : LstRegs).passed s.boot.odo.runTicks ∧
      (∀ k, k ≠ i → (t.core k).lst = (s.core k).lst ∧ (s.partner i ≠ some k → t.core k = s.core k)) ∧
      (∀ p, (t.prt p).hub.pair = (s.prt p).hub.pair) ∧
      s.keeps (if s.partner i = none then [.cores] else [.cores, .parts]) t := by
  set u := segGood s i us with hu
  have hpart : u.partner i = s.partner i := partner_congr (segGood_keeps s i us .parts (by simp)) i
  have hprt (p) : u.prt p = s.prt p := congrArg (fun v : Vector PartRt 4 => v.get p) (segGood_keeps s i us .parts (by simp))
  rw [segEnd_good hr, ← segGood, ← hu]
  cases hp : s.partner i with
  | none =>
    rw [rejoin_alone (hpart.trans hp)]
    exact ⟨segGood_self s i us, fun k hk => ⟨by rw [hu, segGood_ne s us hk], fun _ => segGood_ne s us hk⟩,
      fun p => by rw [hprt], segGood_keeps s i us⟩
  | some m =>
    obtain ⟨hkeep, hlst, hne, hpair⟩ := rejoin_passes (hpart.trans hp)
    refine ⟨(hlst i).trans (segGood_self s i us), fun k hk => ⟨(hlst k).trans ?_, fun hm => (hne k hk ?_).trans ?_⟩,
      fun p => (hpair p).trans (by rw [hprt]), State.keeps_trans (State.keeps_mono (segGood_keeps s i us) (by simp)) hkeep⟩
    · rw [hu, segGood_ne s us hk]
    · exact fun e => hm (by rw [e])
    · exact segGood_ne s us hk

/-- The hub's check fails after the segments of a pair: the pairing ends (R339, R347). -/
theorem segEnd_unpairs {s : State} {i k : CoreId} (hr : (s.core i).lst.running = true) (hp : s.partner i = some k)
    (hk : (s.core k).lst.running = false) (us : U32) : let t := segEnd s i true us true
    (t.core i).lst.running = false ∧ (t.prt (partOfCore i)).pairing = (none, true) := by
  have hki : k ≠ i := fun e => by rw [e, hr] at hk; cases hk
  set u := segGood s i us with hu
  have hpart : u.partner i = some k := (partner_congr (segGood_keeps s i us .parts (by simp)) i).trans hp
  have hidle : (u.core k).lst.running = false := by rw [hu, segGood_ne s us hki]; exact hk
  obtain ⟨l, t, hlt, hrejoin⟩ := rejoin_paired hpart true
  have hl : partOfCore l = partOfCore i := by
    rcases hlt with ⟨rfl, -⟩ | ⟨rfl, -⟩
    · rfl
    · exact partner_part hp
  have h := repair_fails u l t
  rw [segEnd_good hr, ← segGood, ← hu, hrejoin, if_neg (by simp [hidle])]
  refine ⟨?_, ?_⟩
  · rw [h.core, repairFailed_lst, hu, segGood_self, LstRegs.passed_running]
  · rw [← hl]
    exact (h.prt _).trans (repairFailed_pairing u l t)

end Sys2Proof.Machine

open Sys2Proof Sys2Proof.Machine

/-- Settles O32: a segment is one update of the self-test block of each core of its group; a right signature ends it with the
hub's check of the pair, and a wrong one is a fence (`fence_fencedBy`) or takes the partition offline (`fence_offline`). -/
theorem selfTestRunsFailsAndInjects : Obligations.SelfTestRunsFailsAndInjects := by
  unfold Obligations.SelfTestRunsFailsAndInjects
  refine ⟨fun s i => ⟨fun hp hmay => ⟨fun us hus => ?_, fun us hus => ?_⟩, fun hno us => ?_, fun hr ok us fails => ?_,
      fun hr us => ?_, fun k us hr hp hk => ?_, fun hf => ?_⟩,
    fun s i us fails hr hf hd he => ⟨fun a ha => ?_, fun ha hc => ?_⟩, fun s v => ⟨fun i => ?_, fun p => ?_⟩⟩
  · obtain ⟨t, ht, hk, hq⟩ := finish_keeps (old := s) (segsRun_keeps (s.testGroup i) s)
    have hcore := segsRun_core (testGroup_nodup hp) s
    refine ⟨t, ?_, fun k hm => ?_, fun k hm => ?_, hk⟩
    · rw [exec_lstSegmentStart, segStart_allowed hmay, State.segNeeds, if_neg (Nat.not_lt.2 hus), ht]
    · rw [hq.core, hcore, if_pos hm]
      rfl
    · rw [hq.core, hcore, if_neg hm]
  · obtain ⟨t, ht, hk, hq⟩ := finish_keeps (old := s) (segsDefer_keeps (s.testGroup i) s)
    have hcore := segsDefer_core (testGroup_nodup hp) s
    refine ⟨t, ?_, fun k hm => ?_, fun k hm => ?_, hk⟩
    · rw [exec_lstSegmentStart, segStart_allowed hmay, State.segNeeds, if_pos hus, ht]
    · rw [hq.core, hcore, if_pos hm]
      rfl
    · rw [hq.core, hcore, if_neg hm]
  · rw [exec_lstSegmentStart, segStart_refused hno]
    exact finish_same s
  · rw [exec_lstSegmentEnd, segEnd_idle hr]
    exact finish_same s
  · obtain ⟨hself, hne, hpair, hkeep⟩ := segEnd_passes hr us
    obtain ⟨t, ht, hk, hq⟩ := finish_keeps (old := s) hkeep
    refine ⟨t, ht, ?_, ?_, ?_, fun h17 => ?_, fun k hki => ?_, fun p => ?_, hk⟩
    · rw [hq.core, hself, LstRegs.passed_running]
    · rw [hq.core, hself, LstRegs.passed_lastUs]
    · rw [hq.core, hself, LstRegs.passed_nextSeg]
    · rw [hq.core, hself]
      exact LstRegs.passed_last (l := { (s.core i).lst with running := false, lastUs := us }) h17 _
    · rw [hq.core]
      exact hne k hki
    · rw [hq.prt]
      exact hpair p
  · obtain ⟨hrun, hpair⟩ := segEnd_unpairs hr hp hk us
    obtain ⟨t, ht, hq⟩ := finish_next s (segEnd s i true us true)
    refine ⟨t, ht, ?_, ?_, ?_⟩
    · rw [hq.core]; exact hrun
    · rw [hq.prt]; exact congrArg Prod.fst hpair
    · rw [hq.prt]; exact congrArg Prod.snd hpair
  · obtain ⟨t, ht, hk, hq⟩ := finish_keeps (old := s) (onLst_keeps s i fun l => { l with overdue := true })
    refine ⟨t, ?_, ?_, fun k hki => ?_, hk⟩
    · rw [exec_latentOverdue, hf]
      exact ht
    · rw [hq.core, onLst_self]
    · rw [hq.core, onLst_ne _ _ hki]
  · obtain ⟨hfen, hfailed, hadopter, hdev, hslots, hcount⟩ := segEnd_fences hr hf ha hd us fails
    obtain ⟨t, ht, hq⟩ := finish_next s (segEnd s i false us fails)
    refine ⟨t, ht, ?_, ?_, ?_, hq.dev.trans hdev, fun r => ?_, ?_⟩
    · rw [State.isFenced, hq.core]; exact hfen
    · rw [hq.core]; exact hfailed
    · rw [hq.core]; exact hadopter
    · rw [hq.prt]; exact hslots r
    · exact (hq.bootOf (fun b => b.odo.fencings) fun _ => rfl).trans hcount
  · obtain ⟨hfailed, hstate, hbit, hdev⟩ := segEnd_offline hr hc ha hd us fails
    obtain ⟨t, ht, hq⟩ := finish_next s (segEnd s i false us fails)
    refine ⟨t, ht, ?_, ?_, ?_, hq.dev.trans hdev⟩
    · rw [hq.core]; exact hfailed
    · rw [hq.prt]; exact hstate
    · rw [hq.errOf (fun e => e.offline) fun _ => rfl]; exact hbit
  · rw [exec_arrInjectWrite]
    split
    · obtain ⟨t, ht, hk, hq⟩ := finish_keeps (old := s)
        (onCore_keeps s i fun x => { x with arr := { x.arr with inject := v &&& 0x107 } })
      refine ⟨t, ht, ?_, fun k hki => ?_, hk⟩
      · rw [hq.core, State.core_onCore_self]
      · rw [hq.core, State.core_onCore_ne _ _ _ _ hki]
    · obtain ⟨t, ht, hk, hq⟩ := finish_keeps (old := s) (s.keeps_refl [.cores])
      exact ⟨t, ht, by rw [hq.core], fun k _ => hq.core k, hk⟩
  · rw [exec_phbInjectWrite]
    split
    · next hd =>
      obtain ⟨hinj, hne, hkeep⟩ := phbInject_effect s p v
      obtain ⟨t, ht, hk, hq⟩ := finish_keeps (old := s) hkeep
      refine ⟨t, ht, ?_, fun q hqp => ?_, by simpa [hd] using hk⟩
      · rw [hq.prt, hinj, if_neg (not_not.2 hd)]
      · rw [hq.prt, hne q hqp]
    · next hd =>
      obtain ⟨t, ht, hk, hq⟩ := finish_keeps (old := s) (s.keeps_refl [.parts])
      exact ⟨t, ht, by rw [hq.prt], fun q _ => hq.prt q, by simpa [hd] using hk⟩
end

section
/-!
PROOFS. DEVICE_EVENT_RESTART: what the restart of one context leaves, and the restarts of a list of contexts, one after another
(R361, R369, R372).
-/

open Sys2Proof Sys2Proof.Machine

namespace Sys2Proof.Machine

/-! ### What decides whether a context may start (R369, R372) -/

/-- The kinds of state that the restart of a context touches. -/
def restartKinds : List Kind := .rng :: .ctxs :: startKinds

/-- The contexts that the device event holds and the state of every partition are as before. -/
structure State.HoldsSame (s t : State) : Prop where
  held : t.err.restart = s.err.restart
  state : ∀ p, (t.prt p).prt.state = (s.prt p).prt.state

/-- What the restart of a context leaves. -/
structure State.Restarts (s t : State) : Prop where
  keeps : s.keeps restartKinds t
  holds : s.HoldsSame t

section
variable {s t u : State} {l : List Kind}

theorem State.HoldsSame.refl (s : State) : s.HoldsSame s := ⟨rfl, fun _ => rfl⟩

theorem State.HoldsSame.trans (h : s.HoldsSame t) (h' : t.HoldsSame u) : s.HoldsSame u :=
  ⟨h'.held.trans h.held, fun p => (h'.state p).trans (h.state p)⟩

theorem State.HoldsSame.foldl {α : Type} {f : State → α → State} (hf : ∀ (s : State) a, s.HoldsSame (f s a)) (xs : List α)
    (s : State) : s.HoldsSame (xs.foldl f s) := by
  induction xs generalizing s with
  | nil => exact .refl s
  | cons a xs ih => exact (hf s a).trans (ih _)

theorem State.HoldsSame.of_keeps (h : s.keeps l t) (he : Kind.err ∉ l) (hp : Kind.parts ∉ l) : s.HoldsSame t :=
  ⟨(congrArg ErrRegs.restart (h .err he : t.err.still = s.err.still) : _), fun p => by rw [keeps_prt h hp]⟩

theorem State.Restarts.refl (s : State) : s.Restarts s := ⟨s.keeps_refl _, .refl s⟩

theorem State.Restarts.trans (h : s.Restarts t) (h' : t.Restarts u) : s.Restarts u :=
  ⟨State.keeps_trans h.keeps h'.keeps, h.holds.trans h'.holds⟩

theorem State.Restarts.ite {c : Prop} [Decidable c] (h : s.Restarts t) (h' : s.Restarts u) :
    s.Restarts (if c then t else u) := by
  split
  · exact h
  · exact h'

/-- The ring and the contexts are no part of what decides on a start. -/
theorem State.Restarts.of_keeps (h : s.keeps l t) (hl : ∀ k ∈ l, k = .rng ∨ k = .ctxs) : s.Restarts t :=
  ⟨State.keeps_mono h fun k hk => by rcases hl k hk with rfl | rfl <;> simp [restartKinds],
    .of_keeps h (fun hk => by simpa using hl _ hk) fun hk => by simpa using hl _ hk⟩

theorem touches_congr (hi : t.img = s.img) (c : CtxId) (p : PartId) : t.touches c p = s.touches c p := by
  have hlists : t.lists c = s.lists c := by simp only [State.lists, hi]
  have hrange : t.beadRange c p = s.beadRange c p := by simp only [State.beadRange, State.ctxCfg, secD_congr hi]
  have hctx : t.hasCtx c = s.hasCtx c := by simp only [State.hasCtx, sec_congr hi]
  simp only [State.touches, State.hasWork, hlists, hrange, hctx, regions_congr hi]

theorem canLoad_congr (hi : t.img = s.img) (hs : ∀ p, (t.prt p).prt.state = (s.prt p).prt.state) (c : CtxId) :
    t.canLoad c = s.canLoad c := by
  unfold State.canLoad
  congr 1
  funext p
  rw [touches_congr hi, hs]

/-- The restart of one context does not decide whether another one may restart. -/
theorem State.Restarts.mayRun (h : s.Restarts t) (c : CtxId) : t.mayRun c = s.mayRun c := by
  have hi : t.img = s.img := h.keeps .img (by decide)
  have hd : t.dev = s.dev := h.keeps .dev (by decide)
  have hb : t.boot.badWgt = s.boot.badWgt :=
    (congrArg BootRegs.badWgt (h.keeps .boot (by decide) : t.boot.still = s.boot.still) : _)
  have hh : t.hst.still = s.hst.still := h.keeps .hst (by decide)
  have ht : t.hst.tablesBad = s.hst.tablesBad := (congrArg HstRegs.tablesBad hh : _)
  have hl : t.hst.lksRefused = s.hst.lksRefused := (congrArg HstRegs.lksRefused hh : _)
  simp only [State.mayRun, State.imageRuns, canLoad_congr hi h.holds.state, h.holds.held, hd, hb, ht, hl]

end

/-! ### A start (R34) -/

theorem event_holds (s : State) (src code : U16) (ctx : Option (CtxId × BitVec 12)) (detail : Nat) :
    s.HoldsSame (event s src code ctx detail) := by
  have hm := event_modes s src code ctx detail
  simp only [ErrRegs.modes, Prod.mk.injEq] at hm
  obtain ⟨-, -, -, hrestart, -, -⟩ := hm
  exact ⟨hrestart, fun p => by rw [keeps_prt (event_keeps s src code ctx detail) (by simp)]⟩

theorem onPart_holds (s : State) (p : PartId) {f : PartRt → PartRt} (hf : ∀ x, (f x).prt = x.prt) :
    s.HoldsSame (s.onPart p f) := by
  refine ⟨rfl, fun q => ?_⟩
  by_cases h : q = p
  · subst h; rw [State.prt_onPart_self, hf]
  · rw [State.prt_onPart_ne _ _ _ _ h]

theorem onQueue_holds (s : State) (q : QueueId) (f : QueueRt → QueueRt) : s.HoldsSame (s.onQueue q f) := by
  cases q with
  | core i k => exact ⟨rfl, fun _ => rfl⟩
  | dq p => exact onPart_holds s p (f := fun x => { x with dq := f x.dq }) fun _ => rfl

theorem chooseDivs_holds (s : State) : s.HoldsSame (chooseDivs s) := by
  refine .foldl (fun s p => ?_) _ s
  unfold chooseDiv askDiv
  split
  · exact .refl s
  · split
    · exact .refl s
    · exact onPart_holds s p (f := fun x => { x with pwr := x.pwr.ask (s.pickDiv p) }) fun _ => rfl

theorem clearBeads_holds (s : State) (c : CtxId) (whole : Bool) : s.HoldsSame (clearBeads s c whole) := by
  refine ⟨rfl, fun p => ?_⟩
  simp [clearBeads, State.prt]

theorem assignSlots_holds (s : State) (c : CtxId) : s.HoldsSame (assignSlots s c) := by
  rw [assignSlots_eq]
  exact .foldl (fun s _ => onPart_holds s _ (f := assignSlot c _) fun _ => rfl) _ s

theorem svpWrite_holds (s : State) (a : Nat) (d : Bytes) : s.HoldsSame (svpWrite s a d) := by
  unfold svpWrite
  split
  · exact ((State.HoldsSame.of_keeps (pokePart_keeps s _ a d) (by simp) (by simp)).trans
      (.of_keeps (noteUe_keeps _ _) (by simp) (by simp))).trans (event_holds _ _ _ _ _)
  · exact .of_keeps (poke_keeps s _ a d) (by simp) (by simp)

theorem loadScaleTable_holds (s : State) (c : CtxId) : s.HoldsSame (loadScaleTable s c) := by
  unfold loadScaleTable
  split
  · exact svpWrite_holds _ _ _
  · exact .refl s

theorem loadLists_holds (s : State) (c : CtxId) : s.HoldsSame (loadLists s c) := by
  refine .foldl (fun s l => ?_) _ s
  split
  · exact svpWrite_holds _ _ _
  · exact .refl s

theorem startLoaded_holds (s : State) (c : CtxId) : s.HoldsSame (startLoaded s c) :=
  (((((clearBeads_holds s c true).trans (.foldl (fun s q => onQueue_holds s q _) _ _)).trans (assignSlots_holds _ c)).trans
    (loadScaleTable_holds _ c)).trans (loadLists_holds _ c)).trans (.of_keeps (loadProfiles_keeps _ c) (by simp) (by simp))

theorem enterStarting_restarts (s : State) (c : CtxId) : s.Restarts (enterStarting s c) := by
  refine ⟨State.keeps_mono (enterStarting_keeps s c) fun _ h => List.mem_cons_of_mem _ h, ?_⟩
  exact ((State.HoldsSame.of_keeps (startEntered_keeps s c) (by simp) (by simp)).trans (startLoaded_holds _ c)).trans
    (chooseDivs_holds _)

theorem event_restarts (s : State) (src code : U16) (ctx : Option (CtxId × BitVec 12)) (detail : Nat) :
    s.Restarts (event s src code ctx detail) :=
  ⟨State.keeps_mono (event_keeps s src code ctx detail) (by decide), event_holds _ _ _ _ _⟩

theorem toIdle_restarts (s : State) (c : CtxId) : s.Restarts (toIdle s c) :=
  ⟨State.keeps_mono (toIdle_keeps s c) (by decide),
    (State.HoldsSame.of_keeps (setCtxState_keeps s c .idle) (by simp) (by simp)).trans (chooseDivs_holds _)⟩

theorem tryStart_restarts (s : State) (c : CtxId) : s.Restarts (tryStart s c).2 := by
  unfold tryStart
  split
  · have he := event_restarts s srcSvp
    exact .ite (he _ _ _) ((he _ _ _).trans (toIdle_restarts _ c))
  · dsimp only
    exact enterStarting_restarts s c

theorem tryStart_ne (s : State) {c x : CtxId} (h : x ≠ c) : (tryStart s c).2.ctx x = s.ctx x := by
  unfold tryStart
  split
  · have he (f : U16 × Nat) := event_ctx_ne s srcSvp f.1 (s.cg c) f.2 h
    dsimp only
    split
    · exact he _
    · rw [toIdle_ctx, setCtxState_ne _ _ h]
      exact he _
  · dsimp only
    exact enterStarting_ne s h

/-- A start whose configuration passes every check (R530). -/
theorem tryStart_passes {s : State} {c : CtxId} (h : configCheck s c = none) : (tryStart s c).2 = enterStarting s c := by
  simp only [tryStart, h]

/-! ### A start by the manager (R427) -/

theorem peerStart_restarts (s : State) (c : CtxId) (g : BitVec 12) : s.Restarts (peerStart s c g) := by
  have hgen : s.Restarts (s.onRng fun r => { r with gens := r.gens.set c.1 g }) := .of_keeps (State.keeps_onRng s _) (by simp)
  unfold peerStart
  exact .ite ((hgen.trans (.of_keeps (State.keeps_onCtx _ c _) (by simp))).trans (tryStart_restarts _ c)) hgen

theorem peerStart_ne (s : State) {c x : CtxId} (g : BitVec 12) (h : x ≠ c) : (peerStart s c g).ctx x = s.ctx x := by
  simp only [peerStart]
  split
  · rw [tryStart_ne _ h, State.ctx_onCtx_ne _ _ _ _ h]
    rfl
  · rfl

theorem jointStart_restarts (s : State) (c : CtxId) : s.Restarts (jointStart s c) := by
  have hrng (u : State) (f : RngRegs → RngRegs) : u.Restarts (u.onRng f) := .of_keeps (State.keeps_onRng u f) (by simp)
  unfold jointStart
  exact .ite (.refl s) (.ite (hrng s _) ((State.Restarts.of_keeps (mgmtSend_keeps s _ _ _) (by simp)).trans
    (.ite (peerStart_restarts _ c _) (hrng _ _))))

theorem jointStart_ne (s : State) {c x : CtxId} (h : x ≠ c) : (jointStart s c).ctx x = s.ctx x := by
  have hsend (g : BitVec 12) : (mgmtSend s 3 none (startBody c g s.rng.members)).ctx x = s.ctx x :=
    congrArg (·.get x) (mgmtSend_keeps s _ _ _ .ctxs (by simp))
  simp only [jointStart]
  split
  · rfl
  · split
    · rfl
    · split
      · rw [peerStart_ne _ _ h]
        exact hsend _
      · exact hsend _

/-! ### The restart of a context (R361) -/

theorem restart_restarts (s : State) (c : CtxId) : s.Restarts (restart s c) := by
  unfold restart
  exact .ite (tryStart_restarts s c) (.ite (.refl s) (.ite (peerStart_restarts s c _) (jointStart_restarts s c)))

theorem restart_ne (s : State) {c x : CtxId} (h : x ≠ c) : (restart s c).ctx x = s.ctx x := by
  unfold restart
  split
  · exact tryStart_ne s h
  · split
    · rfl
    · split
      · exact peerStart_ne s _ h
      · exact jointStart_ne s h

/-- A context without peers that is not FAULTED stays. -/
theorem restart_idle {s : State} {c : CtxId} (hs : (s.ctx c).state ≠ .faulted) (hp : s.peers c = 0) : restart s c = s := by
  simp [restart, State.restartable, State.runsPeered, hs, hp]

/-- A FAULTED context that may restart, and whose configuration passes, enters STARTING. -/
theorem restart_starts {s : State} {c : CtxId} (hr : s.restartable c = true) (hc : configCheck s c = none) :
    restart s c = enterStarting s c := by
  rw [restart, if_pos hr, tryStart_passes hc]

theorem State.Restarts.peers {s t : State} (h : s.Restarts t) (c : CtxId) : t.peers c = s.peers c := by
  have hi : t.img = s.img := h.keeps .img (by decide)
  simp only [State.peers, State.ctxCfg, secD_congr hi]

theorem State.Restarts.autoRestart {s t : State} (h : s.Restarts t) (c : CtxId) : t.autoRestart c = s.autoRestart c := by
  have hi : t.img = s.img := h.keeps .img (by decide)
  simp only [State.autoRestart, State.cflag, State.ctxCfg, secD_congr hi]

/-- Whether a context may restart depends on its own state alone. -/
theorem State.Restarts.restartable {s t : State} (h : s.Restarts t) {c : CtxId} (hc : t.ctx c = s.ctx c) :
    t.restartable c = s.restartable c := by
  simp only [State.restartable, hc, h.autoRestart, h.peers, h.mayRun]

/-! ### Several contexts restart, one after another (R372) -/

/-- The configuration of a context passes when its turn comes: it is the first of the list, or its checks pass with this image
on this part whatever stands in memory and in the I/O dies (R530). -/
def State.PassesIn (s : State) (l : List CtxId) (c : CtxId) : Prop :=
  (l.head? = some c ∧ configCheck s c = none) ∨ ∀ u : State, u.img = s.img → u.part = s.part → configCheck u c = none

theorem State.PassesIn.check {s : State} {l : List CtxId} {c : CtxId} (h : s.PassesIn l c) : configCheck s c = none := by
  rcases h with ⟨-, h⟩ | h
  · exact h
  · exact h s rfl rfl

/-- Behind another context, only a configuration that passes whatever is loaded counts. -/
theorem State.PassesIn.tail {s t : State} {x c : CtxId} {l : List CtxId} (h : s.PassesIn (x :: l) c) (hx : x ≠ c)
    (hr : s.Restarts t) : t.PassesIn l c := by
  rcases h with ⟨hh, -⟩ | h
  · exact absurd (Option.some.inj hh) hx
  · exact .inr fun u hi hp => h u (hi.trans (hr.keeps .img (by decide))) (hp.trans (hr.keeps .part (by decide)))

theorem foldl_restart_restarts (l : List CtxId) (s : State) : s.Restarts (l.foldl restart s) := by
  induction l generalizing s with
  | nil => exact .refl s
  | cons x l ih => exact (restart_restarts s x).trans (ih _)

theorem foldl_restart_notMem {l : List CtxId} {c : CtxId} (h : c ∉ l) (s : State) : (l.foldl restart s).ctx c = s.ctx c := by
  induction l generalizing s with
  | nil => rfl
  | cons x l ih =>
    obtain ⟨hx, hl⟩ := List.ne_and_not_mem_of_not_mem_cons h
    rw [List.foldl_cons, ih hl, restart_ne s hx]

/-- A context that has started already stays, also where the list names it again. -/
theorem foldl_restart_idle {s : State} {c : CtxId} (hs : (s.ctx c).state ≠ .faulted) (hp : s.peers c = 0) (l : List CtxId) :
    (l.foldl restart s).ctx c = s.ctx c := by
  induction l generalizing s with
  | nil => rfl
  | cons x l ih =>
    rw [List.foldl_cons]
    by_cases hx : c = x
    · subst hx
      rw [restart_idle hs hp, ih hs hp]
    · have hctx := restart_ne s hx
      rw [ih (by rwa [hctx]) (by rwa [(restart_restarts s x).peers]), hctx]

/-- A context of the list that may restart starts, when its turn comes. -/
theorem foldl_restart_mem {s : State} {l : List CtxId} {c : CtxId} (hm : c ∈ l) (hr : s.restartable c = true)
    (hp : s.PassesIn l c) : (l.foldl restart s).ctx c = { (s.ctx c).started with state := .starting } := by
  induction l generalizing s with
  | nil => cases hm
  | cons x l ih =>
    rw [List.foldl_cons]
    by_cases hx : x = c
    · subst hx
      have hpeers : s.peers x = 0 := by
        simp only [State.restartable, Bool.and_eq_true, decide_eq_true_eq] at hr
        exact hr.1.2
      have hself := enterStarting_self s x
      have hstill : ((enterStarting s x).ctx x).state ≠ .faulted := by
        rw [hself]
        exact CtxState.noConfusion
      have hpeers' : (enterStarting s x).peers x = 0 := by rw [(enterStarting_restarts s x).peers, hpeers]
      rw [restart_starts hr hp.check, foldl_restart_idle hstill hpeers', hself]
    · have hrest := restart_restarts s x
      have hctx := restart_ne s (Ne.symm hx)
      have hm' : c ∈ l := (List.mem_cons.1 hm).resolve_left (Ne.symm hx)
      rw [ih hm' ((hrest.restartable hctx).trans hr) (hp.tail hx hrest), hctx]

/-! ### The command (R372) -/

/-- The device event holds no context any more. -/
def State.unheld (s : State) : State := s.onErr fun e => { e with restart := [] }

theorem exec_deviceEventRestart {s : State} (he : s.err.deviceAt.isSome = true) (hr : s.tly.ready = true)
    (ht : s.tly.restarting = false) (hd : s.dev ≠ .safe) :
    exec .deviceEventRestart s = finish s (s.err.restart.foldl restart s.unheld) := by
  refine congrArg (finish s) (if_pos ?_)
  simp [he, hr, ht, hd]

/-- A FAULTED context without peers that the event alone has held may restart (R361, R382). -/
theorem unheld_restartable {s : State} {c : CtxId} (hb : s.hst.tablesBad = false) (hk : s.hst.lksRefused = false)
    (hd : s.dev = .run ∨ s.dev = .degraded ∨ s.dev = .configured) (hs : (s.ctx c).state = .faulted)
    (ha : s.autoRestart c = true) (hp : s.peers c = 0) (hl : s.canLoad c = true) (hw : s.boot.badWgt.getLsbD c.1 = false) :
    s.unheld.restartable c = true := by
  have hrun : s.unheld.mayRun c = (s.canLoad c && (s.dev = .configured || s.dev = .run || s.dev = .degraded) && s.imageRuns c) := by
    rw [← Bool.and_true (s.canLoad c)]
    rfl
  have hdev : (s.dev = .configured || s.dev = .run || s.dev = .degraded) = true := by
    rcases hd with h | h | h <;> simp [h]
  have himg : s.imageRuns c = true := by simp only [State.imageRuns, hw, hb, hk]; rfl
  have hself : s.unheld.restartable c =
      ((s.ctx c).state = .faulted && s.autoRestart c && decide (s.peers c = 0) && s.unheld.mayRun c) := rfl
  rw [hself, hrun, hdev, himg]
  simp [hs, ha, hp, hl]

end Sys2Proof.Machine

open Sys2Proof Sys2Proof.Machine

/-- Settles O43: the event holds no context any more before the first of its list restarts, and the restart of one context
decides nothing about another one, so each starts when its turn comes. -/
theorem deviceEventRestartsItsContexts : Obligations.DeviceEventRestartsItsContexts := by
  unfold Obligations.DeviceEventRestartsItsContexts
  intro s he hr ht hb hk hd
  have hsafe : s.dev ≠ .safe := by rcases hd with h | h | h <;> simp [h]
  obtain ⟨t, hnext, hq⟩ := finish_next s (s.err.restart.foldl restart s.unheld)
  refine ⟨t, (exec_deviceEventRestart he hr ht hsafe).trans hnext, ?_, fun c hm hs ha hp hl hw hc => ?_, fun c hm => ?_⟩
  · rw [hq.errOf (fun e => e.restart) fun _ => rfl]
    exact (foldl_restart_restarts _ s.unheld).holds.held
  · have hpass : s.unheld.PassesIn s.err.restart c :=
      hc.imp_left fun h => ⟨h.1, (configCheck_congr rfl rfl rfl rfl c).trans h.2⟩
    have hstart := foldl_restart_mem hm (unheld_restartable hb hk hd hs ha hp hl hw) hpass
    rw [hq.ctx, hstart]
    exact ⟨rfl, rfl⟩
  · rw [hq.ctx, foldl_restart_notMem hm]
    rfl
end

section
/-!
PROOFS. The host is lost: by a heartbeat timeout, a link down, a function reset or D3hot (R373, R500). A staging session that
ends with it writes to the host port no more than final statuses.
-/

open Sys2Proof Sys2Proof.Machine

namespace Sys2Proof.Machine

/-! ### The registers of the host port -/

/-- The registers of the host port apart from the pending commands. -/
def HstRegs.settled (h : HstRegs) : HstRegs := { h.still with pend := [] }

/-- The registers of the host port and the rings of the contexts are as before, whatever pending commands have ended. -/
structure State.PortSettled (s t : State) : Prop where
  regs : t.hst.settled = s.hst.settled
  ring : ∀ r : Fin 17, r.1 < 16 → t.ring r = s.ring r

theorem State.PortSettled.refl (s : State) : s.PortSettled s := ⟨rfl, fun _ _ => rfl⟩

theorem State.PortSettled.trans {s t u : State} (h : s.PortSettled t) (h' : t.PortSettled u) : s.PortSettled u :=
  ⟨h'.regs.trans h.regs, fun r hr => (h'.ring r hr).trans (h.ring r hr)⟩

theorem State.Quiet.portSettled {s t : State} (h : s.Quiet t) : s.PortSettled t :=
  ⟨congrArg (fun h : HstRegs => { h with pend := [] }) h.hst, h.2.1⟩

/-- What leaves the host port. -/
theorem State.PortSettled.of_eq {s t : State} (h : t.hst = s.hst) : s.PortSettled t :=
  ⟨congrArg HstRegs.settled h, fun r _ => congrArg (fun h : HstRegs => h.rings.get r) h⟩

/-- A register other than those of the interrupt ring, MSI-X and the pending commands. -/
theorem State.PortSettled.hstOf {s t : State} (h : s.PortSettled t) {β : Type} (g : HstRegs → β)
    (hg : ∀ x, g x.settled = g x) : g t.hst = g s.hst := by rw [← hg t.hst, ← hg s.hst, h.regs]

/-! ### The end of a staging session (R460, R501) -/

theorem mboxFinal_keeps (s : State) (tag : U16) (op status : Nat) : s.keeps [.hst] (mboxFinal s tag op status) :=
  State.keeps_trans (State.keeps_onHst s _) (State.keeps_mono (svpIrq_quiet _ _ _).1 (by simp))

theorem mboxFinal_settles (s : State) (tag : U16) (op status : Nat) : s.PortSettled (mboxFinal s tag op status) := by
  unfold mboxFinal mboxIrq
  refine State.PortSettled.trans ?_ (svpIrq_quiet _ _ _).portSettled
  exact ⟨rfl, fun _ _ => rfl⟩

/-- The pending commands of a session end, one after another. -/
theorem foldl_mboxFinal (l : List PendCmd) (status : Nat) (s : State) :
    let t := l.foldl (fun s e => mboxFinal s e.tag e.op.toNat status) s
    s.keeps [.hst] t ∧ s.PortSettled t := by
  induction l generalizing s with
  | nil => exact ⟨s.keeps_refl _, .refl s⟩
  | cons e l ih =>
    obtain ⟨hk, hp⟩ := ih (mboxFinal s e.tag e.op.toNat status)
    exact ⟨State.keeps_trans (mboxFinal_keeps s _ _ _) hk, (mboxFinal_settles s _ _ _).trans hp⟩

/-- The flash and the boot block as an ended session leaves them, before its commands end. -/
def sessionClosed (s : State) : State :=
  ((flashErase s s.stagedBase 0x1000).onBoot fun b => { b with staging := none, otherValid := false, otherSeq := 0 }).setUpd .idle

theorem sessionClosed_effect (s : State) : (sessionClosed s).boot.staging = none ∧ s.keeps [.boot] (sessionClosed s) ∧
    (sessionClosed s).hst = s.hst := by
  unfold sessionClosed State.setUpd
  split <;> exact ⟨rfl, fun k hk => by cases k <;> first | rfl | simp at hk, rfl⟩

theorem endStaging_idle {s : State} (h : s.boot.staging = none) : endStaging s = s := by
  simp [endStaging, h]

theorem endStaging_open {s : State} (h : s.boot.staging ≠ none) : endStaging s =
    ((sessionClosed s).hst.pend.filter fun e => isStageOp e.op.toNat).foldl
      (fun s e => mboxFinal s e.tag e.op.toNat mbAborted) (sessionClosed s) := by
  rw [endStaging, if_neg (by simpa using h)]
  rfl

/-- No session is open any more; the boot block and the host port alone have changed, and of the port only what is pending. -/
theorem endStaging_effect (s : State) : (endStaging s).boot.staging = none ∧ s.keeps [.hst, .boot] (endStaging s) ∧
    s.PortSettled (endStaging s) := by
  by_cases h : s.boot.staging = none
  · rw [endStaging_idle h]
    exact ⟨h, s.keeps_refl _, .refl s⟩
  · rw [endStaging_open h]
    obtain ⟨hnone, hclosed, hport⟩ := sessionClosed_effect s
    obtain ⟨hk, hp⟩ := foldl_mboxFinal ((sessionClosed s).hst.pend.filter fun e => isStageOp e.op.toNat) mbAborted (sessionClosed s)
    refine ⟨?_, State.keeps_trans (State.keeps_mono hclosed (by simp)) (State.keeps_mono hk (by simp)),
      (State.PortSettled.of_eq hport).trans hp⟩
    exact (congrArg BootRegs.staging (hk .boot (by simp) : BootRegs.still _ = BootRegs.still _) : _ = _).trans hnone

/-! ### Frames in flight (R80) -/

theorem flagAbsent_keeps (s : State) : s.keeps [.ctxs] (flagAbsent s) := foldl_keeps _ (fun s c => setFlag_keeps s c _) _ s

/-- A context whose frame in flight carries HOST_ABSENT. -/
def CtxRt.absentFlagged (x : CtxRt) : CtxRt :=
  { x with frame := { x.frame with flags := x.frame.flags ||| flagBit fHostAbsent true } }

theorem setFlag_absentFlagged (s : State) (c : CtxId) : (setFlag s c fHostAbsent).ctx c = (s.ctx c).absentFlagged :=
  State.ctx_onCtx_self _ _ _

theorem CtxRt.absentFlagged_twice (x : CtxRt) : x.absentFlagged.absentFlagged = x.absentFlagged := by
  simp only [CtxRt.absentFlagged, BitVec.or_assoc, BitVec.or_self]

theorem CtxRt.absentFlagged_flag (x : CtxRt) : x.absentFlagged.frame.flags.getLsbD fHostAbsent = true := by
  have h : (flagBit fHostAbsent true).getLsbD fHostAbsent = true := by decide
  exact (BitVec.getLsbD_or ..).trans (by rw [h, Bool.or_true])

/-- The frames in flight carry the flag; a context without one is as before. -/
theorem flagAbsent_ctx (s : State) (x : CtxId) :
    (flagAbsent s).ctx x = if (s.ctx x).frame.inFlight = true then (s.ctx x).absentFlagged else s.ctx x := by
  have hfold := foldl_update_get (get := State.ctx) (upd := fun s c => setFlag s c fHostAbsent) setFlag_absentFlagged
    (fun s i j h => setFlag_ne s _ h) CtxRt.absentFlagged_twice ((allFin 16).filter fun c => (s.ctx c).frame.inFlight) s x
  simpa [flagAbsent, allFin] using hfold

/-! ### The host is marked absent (R373, R500) -/

/-- The host is lost: it is absent, and no more than the port, the aggregator, the boot block and the flag of the frames in
flight has changed. -/
structure State.HostLost (s t : State) : Prop where
  absent : t.hst.hostAbsent = true
  recorded : t.err.hostAbsent = (!s.hst.hostAbsent || s.err.hostAbsent)
  session : t.boot.staging = none
  again : s.hst.hostAbsent = true → s.keeps [.hst, .boot] t
  ctx : ∀ x, t.ctx x = if (s.ctx x).frame.inFlight = true ∧ s.hst.hostAbsent = false then (s.ctx x).absentFlagged else s.ctx x
  keeps : s.keeps [.hst, .err, .ctxs, .boot] t

/-- The host was absent already: only a session ends. -/
theorem markAbsent_again {s : State} (h : s.hst.hostAbsent = true) : markAbsent s = endStaging s := if_pos h

/-- The absence of a host that was present, in both blocks that hold it. -/
def absentSet (s : State) : State :=
  (s.onHst fun h => { h with hostAbsent := true }).onErr fun e => { e with hostAbsent := true }

/-- The loss of a host that was present is recorded, and frames in flight carry the flag. -/
def hostGone (s : State) : State := flagAbsent (event (absentSet s) srcAgg 0x0C06 none 0)

theorem markAbsent_present {s : State} (h : s.hst.hostAbsent = false) : markAbsent s = endStaging (hostGone s) :=
  if_neg (by simp [h])

theorem absentSet_keeps (s : State) : s.keeps [.hst, .err] (absentSet s) := by
  intro k hk; cases k <;> first | rfl | simp at hk

/-- Nothing but the flags changes after the absence is set, and a record. -/
theorem absentSet_gone (s : State) : (absentSet s).keeps [.err, .ctxs] (hostGone s) :=
  State.keeps_trans (State.keeps_mono (event_keeps_none _ _ _ _) (by simp)) (State.keeps_mono (flagAbsent_keeps _) (by simp))

theorem hostGone_keeps (s : State) : s.keeps [.hst, .err, .ctxs] (hostGone s) :=
  State.keeps_trans (State.keeps_mono (absentSet_keeps s) (by simp)) (State.keeps_mono (absentSet_gone s) (by simp))

/-- HOST_ABSENT is a record of its own, which no window collects. -/
theorem event_hostAbsent (s : State) : ∃ fl, event s srcAgg 0x0C06 none 0 = putRecord s srcAgg 0x0C06 none fl 1 s.now64 0 := by
  have hclass : ¬ codeClass 0x0C06 ≤ 1 := by decide
  simp only [event, if_neg hclass]
  split <;> exact ⟨_, rfl⟩

theorem putRecord_hst (s : State) (src code : U16) (ctx : Option (CtxId × BitVec 12)) (flags count : Nat) (time : U64)
    (detail : Nat) : (putRecord s src code ctx flags count time detail).hst = s.hst := by
  simp only [putRecord]
  split <;> rfl

theorem hostGone_hst (s : State) : (hostGone s).hst = (absentSet s).hst := by
  obtain ⟨fl, hev⟩ := event_hostAbsent (absentSet s)
  have hflags (l : List CtxId) (u : State) : (l.foldl (fun s c => setFlag s c fHostAbsent) u).hst = u.hst := by
    induction l generalizing u with
    | nil => rfl
    | cons c l ih => exact ih (setFlag u c fHostAbsent)
  rw [hostGone, hev]
  exact (hflags _ _).trans (putRecord_hst _ _ _ _ _ _ _ _)

theorem hostGone_recorded (s : State) : (hostGone s).err.hostAbsent = true := by
  have hm := event_modes (absentSet s) srcAgg 0x0C06 none 0
  simp only [ErrRegs.modes, Prod.mk.injEq] at hm
  obtain ⟨-, -, -, -, -, habsent⟩ := hm
  refine (congrArg ErrRegs.hostAbsent (flagAbsent_keeps _ .err (by simp) : ErrRegs.still _ = ErrRegs.still _) : _ = _).trans ?_
  exact habsent

theorem hostGone_ctx (s : State) (x : CtxId) :
    (hostGone s).ctx x = if (s.ctx x).frame.inFlight = true then (s.ctx x).absentFlagged else s.ctx x := by
  have hctx : (event (absentSet s) srcAgg 0x0C06 none 0).ctx x = s.ctx x :=
    congrArg (·.get x) (event_keeps_none (absentSet s) srcAgg 0x0C06 0 .ctxs (by simp))
  rw [hostGone, flagAbsent_ctx, hctx]

/-- The port shows the host absent. -/
def portAbsent (s : State) : State := s.onHst fun h => { h with hostAbsent := true }

theorem portAbsent_again {s : State} (h : s.hst.hostAbsent = true) : (portAbsent s).hst = s.hst := by
  have hset (x : HstRegs) (hx : x.hostAbsent = true) : { x with hostAbsent := true } = x := by
    cases x
    cases hx
    rfl
  exact hset s.hst h

theorem endStaging_hostAbsent (s : State) : (endStaging s).hst.hostAbsent = s.hst.hostAbsent ∧
    (endStaging s).err.hostAbsent = s.err.hostAbsent ∧ ∀ x, (endStaging s).ctx x = s.ctx x := by
  obtain ⟨-, hk, hp⟩ := endStaging_effect s
  exact ⟨hp.hstOf (fun h => h.hostAbsent) fun _ => rfl,
    (congrArg ErrRegs.hostAbsent (hk .err (by simp) : ErrRegs.still _ = ErrRegs.still _) : _ = _),
    fun x => congrArg (·.get x) (hk .ctxs (by simp))⟩

/-- The host is lost, and of its port no more than this and what is pending changes. -/
theorem markAbsent_effect (s : State) : s.HostLost (markAbsent s) ∧ (portAbsent s).PortSettled (markAbsent s) := by
  cases h : s.hst.hostAbsent with
  | true =>
    obtain ⟨hses, hk, hp⟩ := endStaging_effect s
    obtain ⟨habs, herr, hctx⟩ := endStaging_hostAbsent s
    rw [markAbsent_again h]
    exact ⟨⟨habs.trans h, by simpa [h] using herr, hses, fun _ => hk, fun x => by simpa [h] using hctx x,
      State.keeps_mono hk (by simp)⟩, (State.PortSettled.of_eq (portAbsent_again h).symm).trans hp⟩
  | false =>
    obtain ⟨hses, hk, hp⟩ := endStaging_effect (hostGone s)
    obtain ⟨habs, herr, hctx⟩ := endStaging_hostAbsent (hostGone s)
    have hport : (hostGone s).hst = (portAbsent s).hst := hostGone_hst s
    rw [markAbsent_present h]
    refine ⟨⟨?_, ?_, hses, by simp [h], fun x => ?_, ?_⟩, (State.PortSettled.of_eq hport).trans hp⟩
    · rw [habs, hport]; rfl
    · rw [herr, hostGone_recorded, h]; rfl
    · rw [hctx, hostGone_ctx]
      simp [h]
    · exact State.keeps_trans (State.keeps_mono (hostGone_keeps s) (by simp)) (State.keeps_mono hk (by simp))

/-- A command that changes a register of the port first. -/
theorem State.HostLost.of_onHst {s t : State} {f : HstRegs → HstRegs} (h : (s.onHst f).HostLost t)
    (hf : (f s.hst).hostAbsent = s.hst.hostAbsent) : s.HostLost t where
  absent := h.absent
  recorded := by rw [h.recorded, State.hst_onHst, hf]; rfl
  session := h.session
  again ha := State.keeps_trans (State.keeps_mono (State.keeps_onHst s f) (by simp)) (h.again (hf.trans ha))
  ctx x := by rw [h.ctx, State.hst_onHst, hf]; rfl
  keeps := State.keeps_trans (State.keeps_mono (State.keeps_onHst s f) (by simp)) h.keeps

/-- The end of the command. -/
theorem State.HostLost.finish {s u t : State} (h : s.HostLost u) (hq : u.Quiet t) : s.HostLost t where
  absent := (hq.hstOf (fun h => h.hostAbsent) fun _ => rfl).trans h.absent
  recorded := (hq.errOf (fun e => e.hostAbsent) fun _ => rfl).trans h.recorded
  session := (hq.bootOf (fun b => b.staging) fun _ => rfl).trans h.session
  again ha := State.keeps_trans (h.again ha) (State.keeps_mono hq.1 (by simp))
  ctx x := (hq.ctx x).trans (h.ctx x)
  keeps := State.keeps_trans h.keeps (State.keeps_mono hq.1 (by simp))

/-- A command that sets registers of the port, the absence not among them, and marks the host absent. -/
theorem hostLoss {s : State} {c : Instr} {f : HstRegs → HstRegs} (hc : exec c s = finish s (markAbsent (s.onHst f)))
    (hf : (f s.hst).hostAbsent = s.hst.hostAbsent) :
    ∃ t, exec c s = .next t ∧ s.HostLost t ∧ (portAbsent (s.onHst f)).PortSettled t := by
  obtain ⟨hlost, hport⟩ := markAbsent_effect (s.onHst f)
  obtain ⟨t, ht, hq⟩ := finish_next s (markAbsent (s.onHst f))
  exact ⟨t, hc.trans ht, (hlost.of_onHst hf).finish hq, hport.trans hq.portSettled⟩

/-- What a lost host means for every context: HOST_ABSENT in the frame that is in flight, and nothing else. -/
theorem State.HostLost.frames {s t : State} (h : s.HostLost t) :
    (∀ x, t.ctx x = if (s.ctx x).frame.inFlight = true ∧ s.hst.hostAbsent = false
      then (setFlag s x fHostAbsent).ctx x else s.ctx x) ∧
    ∀ x, (s.ctx x).frame.inFlight = true → s.hst.hostAbsent = false →
      (t.ctx x).frame.flags.getLsbD fHostAbsent = true := by
  refine ⟨fun x => by rw [setFlag_absentFlagged]; exact h.ctx x, fun x hx hs => ?_⟩
  rw [h.ctx, if_pos ⟨hx, hs⟩]
  exact CtxRt.absentFlagged_flag _

end Sys2Proof.Machine

open Sys2Proof Sys2Proof.Machine

/-- Settles O34: the four commands set registers of the port and mark the host absent, which leaves every other register of it. -/
theorem hostLossKeepsTheDataPath : Obligations.HostLossKeepsTheDataPath := by
  unfold Obligations.HostLossKeepsTheDataPath
  intro s c hc
  rcases hc with rfl | rfl | rfl | rfl
  · obtain ⟨t, ht, hl, hp⟩ := hostLoss (s := s) (c := .hostHeartbeatTimeout) (f := id) rfl rfl
    exact ⟨t, ht, hl.absent, hl.recorded, hl.session, hl.again, Instr.noConfusion, Instr.noConfusion, Instr.noConfusion,
      hl.frames.1, hl.frames.2, hl.keeps⟩
  · obtain ⟨t, ht, hl, hp⟩ := hostLoss (s := s) (c := .pcieLinkDown) (f := fun h => { h with linkUp := false }) rfl rfl
    exact ⟨t, ht, hl.absent, hl.recorded, hl.session, hl.again, fun _ => hp.hstOf (fun h => h.linkUp) fun _ => rfl,
      Instr.noConfusion, Instr.noConfusion, hl.frames.1, hl.frames.2, hl.keeps⟩
  · obtain ⟨t, ht, hl, hp⟩ := hostLoss (s := s) (c := .pcieFunctionReset) rfl rfl
    refine ⟨t, ht, hl.absent, hl.recorded, hl.session, hl.again, Instr.noConfusion, Instr.noConfusion, fun _ => ⟨?_, ?_, fun r hr => ?_⟩,
      hl.frames.1, hl.frames.2, hl.keeps⟩
    · exact hp.hstOf (fun h => h.bar2Base) fun _ => rfl
    · exact hp.hstOf (fun h => h.state) fun _ => rfl
    · exact (hp.ring r hr).trans (vget_replicate _ r)
  · obtain ⟨t, ht, hl, hp⟩ := hostLoss (s := s) (c := .d3hotEntry) (f := fun h => { h with d3hot := true }) rfl rfl
    exact ⟨t, ht, hl.absent, hl.recorded, hl.session, hl.again, Instr.noConfusion,
      fun _ => hp.hstOf (fun h => h.d3hot) fun _ => rfl, Instr.noConfusion, hl.frames.1, hl.frames.2, hl.keeps⟩
end

section
/-!
PROOFS. COALESCE_FLUSH: the record of a window in the record store (R354, R355, R360).
-/

open Sys2Proof Sys2Proof.Machine

namespace Sys2Proof.Machine

/-! ### What the end of a command leaves of the aggregator once the records are stored -/

theorem msixSignal_err (s : State) (v : Fin 64) : (msixSignal s v).err = s.err := by
  simp only [msixSignal]
  split <;> rfl

theorem ringWrite_err (s : State) (r : Fin 17) (b : Bytes) : (ringWrite s r b).err = s.err := by
  have hdrop : (ringDrop s r).err = s.err := by
    simp only [ringDrop]
    split <;> rfl
  have hdata : (ringData s r b).err = s.err := by
    simp only [ringData]
    split <;> rfl
  have hsignal (u : State) : (ringSignal u r).err = u.err := by
    simp only [ringSignal]
    split
    · exact msixSignal_err _ _
    · rfl
  simp only [ringWrite]
  split
  · exact hdrop
  · exact (hsignal _).trans hdata

theorem logAppend_err (s : State) (ty : Nat) (b : Bytes) : (logAppend s ty b).err = s.err := by
  simp only [logAppend]
  split <;> rfl

/-- Interrupt and log apart, a stored record is a record in the store. -/
theorem storeRecord_err (s : State) (r : ErrRec) : (storeRecord s r).err = (keepRecord s r).err := by
  have hirq : (aggIrq (keepRecord s r) (errBytes r)).err = (keepRecord s r).err := ringWrite_err _ 16 _
  simp only [storeRecord]
  split
  · exact (logAppend_err _ _ _).trans hirq
  · exact hirq

theorem mem_keepRecord (s : State) (r : ErrRec) : r ∈ (keepRecord s r).err.store := List.mem_cons_self

/-- The pins and the clock of BOOT_OK are no part of the aggregator. -/
theorem finish_err {old s t : State} (h : finish old s = .next t) : t.err = (drainRecords s).err := by
  have htrack (u : State) : (trackRun u).err = u.err := by
    unfold trackRun
    split <;> rfl
  have hdrive (u : State) : (drivePins old u).err = u.err := by
    simp only [drivePins]
    split
    · exact msixSignal_err _ 18
    · rfl
  cases h
  exact (hdrive _).trans (htrack _)

/-- A record that waits alone is in the record store at the end of the command. -/
theorem finish_stores {old s t : State} {r : ErrRec} (h : finish old s = .next t) (hf : s.err.fifo = [r]) :
    r ∈ t.err.store := by
  have hdrain : drainRecords s = storeRecord (s.onErr fun e => { e with fifo := [] }) r := by
    simp only [drainRecords, hf, List.foldl_cons, List.foldl_nil]
  rw [finish_err h, hdrain, storeRecord_err]
  exact mem_keepRecord _ r

/-! ### The record of a window (R355) -/

/-- Into empty FIFOs the record of a window goes as it is: source, code, count and the time of the first event. -/
theorem writeCoal_record {s : State} (h : s.err.fifo = []) (w : Coal) : ∃ r : ErrRec, (writeCoal s w).err.fifo = [r] ∧
    r.src = w.src ∧ r.code = w.code ∧ r.count = BitVec.ofNat 16 w.count ∧ r.time = w.time := by
  have hroom : ¬ 8 ≤ (s.err.fifo.filter fun r => r.src = w.src).length := by simp [h]
  rw [writeCoal, putRecord, if_neg hroom]
  exact ⟨_, congrArg (· ++ [_]) h, rfl, rfl, rfl, rfl⟩

theorem writeCoal_coal (s : State) (w : Coal) : (writeCoal s w).err.coal = s.err.coal := by
  simp only [writeCoal, putRecord]
  split <;> rfl

/-- The window is closed: it is no more among those that are open. -/
def windowClosed (s : State) (w : Coal) : State :=
  s.onErr fun e => { e with coal := e.coal.filter fun x => decide (x ≠ w) }

theorem windowClosed_keeps (s : State) (w : Coal) : s.keeps [.err] (windowClosed s w) := by
  intro k hk; cases k <;> first | rfl | simp at hk

theorem notMem_windowClosed (s : State) (w : Coal) : w ∉ (windowClosed s w).err.coal := fun h => by
  simpa using (List.mem_filter.1 h).2

/-- COALESCE_FLUSH of an open window. -/
theorem exec_coalesceFlush {s : State} {w : Coal} {src code : U16} {ctx : Option CtxId}
    (h : s.err.coal.find? (fun x => x.src = src && x.code = code && decide ((x.ctx.map (·.1)) = ctx)) = some w) :
    exec (.coalesceFlush src code ctx) s = finish s (writeCoal (windowClosed s w) w) := by
  have hrun : exec (.coalesceFlush src code ctx) s = execCoalesceFlush src code ctx s := rfl
  rw [hrun]
  simp only [execCoalesceFlush, h]
  rfl

end Sys2Proof.Machine

open Sys2Proof Sys2Proof.Machine

/-- Settles O40: the window closes, and its record goes alone through its FIFO into the record store. -/
theorem coalescedRecordReachesTheStore : Obligations.CoalescedRecordReachesTheStore := by
  unfold Obligations.CoalescedRecordReachesTheStore
  intro s w hw hf
  obtain ⟨r, hfifo, hrecord⟩ := writeCoal_record (s := windowClosed s w) hf w
  obtain ⟨t, ht, hk, hq⟩ := finish_keeps (old := s) (State.keeps_trans (windowClosed_keeps s w) (writeCoal_keeps _ w))
  refine ⟨t, (exec_coalesceFlush hw).trans ht, ?_, ⟨r, finish_stores ht hfifo, hrecord⟩, hk⟩
  rw [hq.errOf (fun e => e.coal) fun _ => rfl, writeCoal_coal]
  exact notMem_windowClosed s w
end

section
/-!
PROOFS. The mailbox: a busy one only counts, a refused command only shows its status (R501, R503), and what a command that ends at
once leaves of the host port; NOP, HOST_ATTACH and HOST_DETACH (R489, R500).
-/

namespace Sys2Proof.Machine

/-! ### The end of a command -/

/-- The state that a command ends in is the state it has reached, but for what the end of every command may change. -/
theorem finish_quiet {old s t : State} (h : finish old s = .next t) : s.Quiet t := by
  obtain ⟨u, hu, hq⟩ := finish_next old s
  cases h.symm.trans hu
  exact hq

/-- A field that every update of a list leaves. -/
theorem foldl_field {α β : Type} (g : State → β) {f : State → α → State} (hf : ∀ s a, g (f s a) = g s) (l : List α) (s : State) :
    g (l.foldl f s) = g s := by
  induction l generalizing s with
  | nil => rfl
  | cons a l ih => exact (ih _).trans (hf s a)

/-! ### Commands that end at once (R501) -/

/-- The registers that hold the answer of a command (R501, R502). -/
def HstRegs.answerSet (h : HstRegs) (tag : U16) (k : Nat) (r : Bytes) : HstRegs := { h with
  tag := tag, state := 2, status := BitVec.ofNat 8 k, rspLen := BitVec.ofNat 13 r.length, mbData := mbPut h.mbData 0 r }

/-- A command that has reached `u` ends with its answer: the host port holds it, and all else is quiet. -/
theorem mboxDone_ends {old u t : State} {tag : U16} {op k : Nat} {r : Bytes} (h : finish old (mboxDone u tag op k r) = .next t) :
    (u.onHst fun x => x.answerSet tag k r).Quiet t :=
  (mboxDone_quiet u tag op k r).trans (finish_quiet h)

theorem mboxOf_lt {c : Instr} {op : Nat} {tag : U16} {a : Bytes} (h : mboxOf c = some (op, tag, a)) : op < 256 := by
  cases c <;> cases h <;> first | decide | exact BitVec.isLt _

/-- The doorbell of a busy mailbox is ignored and counted; the host's writes before it are ignored too (R501). -/
theorem submit_busy {s : State} (hl : s.hostLive) (hb : s.hst.state = 1) (tag : U16) (op : Nat) (a : Bytes) :
    submit s tag op a = s.accessed.onHst fun h => { h with mboxIgn := sat32 h.mboxIgn } := by
  have hb' : s.accessed.hst.state = 1 := hb
  rw [submit, hostAccess_live s _ hl, if_pos hb', doorbell, if_pos hb']

/-- A command that shares a refusal of R503 shows its status, and has no other effect. -/
theorem exec_refused {c : Instr} {op k : Nat} {tag : U16} {a : Bytes} {s : State} (hc : mboxOf c = some (op, tag, a))
    (hl : s.hostLive) (hs : s.hst.state ≠ 1) (hr : s.hst.ready = true)
    (hp : s.boot.recovery = true ∨ (s.proc .svp).state = .running) (hn : a.length ≤ 4096) (hk : s.mbRefusal op a = some k) :
    ∃ t, exec c s = .next t ∧ t.answered tag k [] ∧ s.keeps [.hst] t := by
  have hserve : serve (s.written tag op a) tag op a = mboxDone (s.written tag op a) tag op k [] := by
    rw [serve, (mbRefusal_written s tag op a).trans hk]
  obtain ⟨t, ht, hkeep, hq⟩ := finish_keeps (old := s)
    (State.keeps_trans (written_keeps s tag op a) (mboxDone_keeps (s.written tag op a) tag op k []))
  refine ⟨t, ?_, hq.answered (mboxDone_answered _ tag op k []), hkeep⟩
  rw [exec_mbox hc, submit_serve s tag op a hl hs hr hp hn (mboxOf_lt hc), hserve, ht]

theorem mbRefusal_unnamed {s : State} {op : Nat} (h : argBytes op = none) (a : Bytes) : s.mbRefusal op a = some mbBadCmd := by
  rw [State.mbRefusal, h]

/-! ### The host attaches (R500) -/

theorem event_none_hst (s : State) (src code : U16) (detail : Nat) : (event s src code none detail).hst = s.hst := by
  unfold event
  simp only
  split
  · exact putRecord_hst _ _ _ _ _ _ _ _
  · split
    · unfold coalesce
      split
      · rfl
      · simp only
        split
        · exact putRecord_hst _ _ _ _ _ _ _ _
        · rfl
    · exact putRecord_hst _ _ _ _ _ _ _ _

theorem bringOn_hst (s : State) : (bringOn s).hst = s.hst := by
  unfold bringOn
  split
  · rfl
  · refine foldl_field State.hst (fun s n => ?_) _ _
    split
    · rw [domUp_eq]
      unfold domTrained State.onDom
      split <;> split <;> rfl
    · rfl

/-- A ring of an attaching host: an enabled one starts empty. -/
def RingRegs.started (r : RingRegs) : RingRegs := if r.en then { r with tail := r.head } else r

/-- The host's presence in the port, and the rings it finds. -/
def HstRegs.present (h : HstRegs) : HstRegs := { h with hostAbsent := false, rings := h.rings.map RingRegs.started }

theorem markPresent_hst (s : State) : (markPresent s).hst = s.hst.present := event_none_hst _ _ _ _

theorem markPresent_keeps (s : State) : s.keeps [.hst, .err] (markPresent s) := by
  refine State.keeps_trans (t := (s.onHst HstRegs.present).onErr fun e => { e with hostAbsent := false }) ?_
    (State.keeps_mono (event_keeps_none _ _ _ _) (by simp))
  intro k hk
  cases k <;> first | rfl | simp at hk

theorem markPresent_recorded (s : State) : (markPresent s).err.hostAbsent = false := by
  have hm := event_modes ((s.onHst HstRegs.present).onErr fun e => { e with hostAbsent := false }) srcAgg 0x0C07 none 0
  simp only [ErrRegs.modes, Prod.mk.injEq] at hm
  obtain ⟨-, -, -, -, -, habsent⟩ := hm
  exact habsent

end Sys2Proof.Machine

open Sys2Proof Sys2Proof.Machine

/-- Settles O22: a busy mailbox counts, and a refusal ends the command before it is looked at; an opcode without arguments in the
table is such a refusal. -/
theorem mailboxRefusalsOnlyAnswer : Obligations.MailboxRefusalsOnlyAnswer := by
  unfold Obligations.MailboxRefusalsOnlyAnswer
  refine ⟨fun c op tag a s hc hl hb => ?_, fun c op tag a s k hc hl hs hr hp hn hk => exec_refused hc hl hs hr hp hn hk,
    fun s op tag a hl hs hr hp hn ho => exec_refused rfl hl hs hr hp hn (mbRefusal_unnamed ho a)⟩
  obtain ⟨t, ht, hk, hq⟩ := finish_keeps (old := s)
    (State.keeps_trans (accessed_keeps s) (State.keeps_onHst s.accessed fun h => { h with mboxIgn := sat32 h.mboxIgn }))
  refine ⟨t, ?_, hq.hstOf (fun h => h.mboxIgn) fun _ => rfl, (hq.hstOf (fun h => h.state) fun _ => rfl).trans hb,
    hq.hstOf (fun h => h.cmdTag) fun _ => rfl, hq.hstOf (fun h => h.mbData) fun _ => rfl, hk⟩
  rw [exec_mbox hc, submit_busy hl hb, ht]

/-- Settles O23: NOP has two answers; presence is set in the port and in the aggregator, and the domains that come into use with
it leave both. -/
theorem nopAttachDetach : Obligations.NopAttachDetach := by
  unfold Obligations.NopAttachDetach
  refine fun s tag => ⟨fun hs href htold => ?_, fun hs htold => ?_, fun hs => ?_, fun hs => ?_⟩
  · have hans : mbAnswer 0x00 (s.written tag 0x00 []) [] =
        ((s.written tag 0x00 []).onHst fun h => { h with lksTold := true }, mbBadArg, []) := by
      show (if s.hst.lksRefused && !s.hst.lksTold then _ else _) = _
      rw [href, htold]
      rfl
    obtain ⟨t, ht, ha, hk, -, hfin⟩ := exec_served (c := .mboxNop tag []) rfl hs (by decide) (by decide) (by decide) hans
      (by decide) (State.keeps_onHst _ _) (by simp)
    have hq := mboxDone_ends hfin
    exact ⟨t, ht, ha, hq.hstOf (fun h => h.lksTold) fun _ => rfl, (hq.hstOf (fun h => h.lksRefused) fun _ => rfl).trans href, hk⟩
  · have hans : mbAnswer 0x00 (s.written tag 0x00 []) [] =
        (s.written tag 0x00 [], mbOk, le 4 s.boot.seq.toNat ++ slice (s.boot.fw.get 0) 0 32) := by
      show (if s.hst.lksRefused && !s.hst.lksTold then _ else _) = _
      rw [if_neg (by rcases htold with h | h <;> simp [h])]
      rfl
    obtain ⟨t, ht, ha, hk, -, -⟩ := exec_served (c := .mboxNop tag []) rfl hs (by decide) (by decide) (by decide) hans
      (by decide) (State.keeps_refl _ [.hst]) (by simp)
    exact ⟨t, ht, ha, hk⟩
  · obtain ⟨t, ht, ha, hk, -, hfin⟩ := exec_served (c := .hostAttach tag []) (l := [.hst, .err, .mcs, .pwr]) rfl hs (by decide)
      (by decide) (by decide) (u := bringOn (markPresent (s.written tag 0x01 []))) rfl (by decide)
      (State.keeps_trans (State.keeps_mono (markPresent_keeps _) (by simp)) (State.keeps_mono (bringOn_keeps _) (by simp))) (by simp)
    have hq := mboxDone_ends hfin
    have hport : (bringOn (markPresent (s.written tag 0x01 []))).hst = (s.written tag 0x01 []).hst.present :=
      (bringOn_hst _).trans (markPresent_hst _)
    refine ⟨t, ht, ha, ?_, ?_, fun r hr hen => ?_, hk⟩
    · exact (hq.hstOf (fun h => h.hostAbsent) fun _ => rfl).trans (congrArg HstRegs.hostAbsent hport)
    · refine (hq.errOf (fun e => e.hostAbsent) fun _ => rfl).trans ?_
      exact (congrArg ErrRegs.hostAbsent (bringOn_keeps _ .err (by simp) : ErrRegs.still _ = ErrRegs.still _) : _ = _).trans
        (markPresent_recorded _)
    · have hring : t.ring r = (s.ring r).started := (hq.2.1 r hr).trans
        ((congrArg (fun h : HstRegs => h.rings.get r) hport).trans (vget_map _ _ _))
      rw [hring, RingRegs.started, if_pos hen]
  · obtain ⟨hlost, -⟩ := markAbsent_effect (s.written tag 0x02 [])
    obtain ⟨t, ht, ha, hk, -, hfin⟩ := exec_served (c := .hostDetach tag []) (l := [.hst, .err, .ctxs, .boot]) rfl hs (by decide)
      (by decide) (by decide) (u := markAbsent (s.written tag 0x02 [])) rfl (by decide) hlost.keeps (by simp)
    have hq := mboxDone_ends hfin
    refine ⟨t, ht, ha, (hq.hstOf (fun h => h.hostAbsent) fun _ => rfl).trans hlost.absent, fun hp => ?_, hk .mem (by simp),
      hk .cores (by simp), hk .parts (by simp)⟩
    refine (hq.errOf (fun e => e.hostAbsent) fun _ => rfl).trans (hlost.recorded.trans ?_)
    have hp' : (s.written tag 0x02 []).hst.hostAbsent = false := hp
    rw [hp']
    rfl
end

section
/-!
PROOFS. The mailbox commands of identity and log (R458, R464, R465), and those that end with PENDING: how one is put among the
pending commands (R501), and the staging session with the flash that it programs (R433, R460, R463).
-/

namespace Sys2Proof.Machine

theorem onBoot_keeps (s : State) (f : BootRegs → BootRegs) : s.keeps [.boot] (s.onBoot f) := by
  intro k hk; cases k <;> first | rfl | simp at hk

/-! ### Answers of identity and log -/

/-- A signature has the length of the modulus (R465). -/
theorem pssSign_length (msg salt : Bytes) (n d : Nat) : (pssSign msg salt n d).length = 384 := by
  rw [pssSign, be, List.length_reverse, le_length]

/-- `n` bytes from an offset, erased flash where the bytes end. -/
def tailFF (b : Bytes) (o n : Nat) : Bytes := (b.drop o).take n ++ List.replicate (n - ((b.drop o).take n).length) 0xFF

theorem tailFF_length (b : Bytes) (o n : Nat) : (tailFF b o n).length = n := by
  simp only [tailFF, List.length_append, List.length_replicate, List.length_take]
  omega

theorem tailFF_getD (b : Bytes) (o : Nat) {n i : Nat} (h : i < n) : (tailFF b o n).getD i 0 = b.getD (o + i) 0xFF := by
  have hi : i < (tailFF b o n).length := by rwa [tailFF_length]
  rw [List.getD_eq_getElem _ _ hi]
  by_cases hb : o + i < b.length
  · have hlen : i < ((b.drop o).take n).length := by
      rw [List.length_take, List.length_drop]
      omega
    rw [List.getD_eq_getElem _ _ hb]
    simp [tailFF, List.getElem_append_left hlen]
  · have hlen : ((b.drop o).take n).length ≤ i := by
      rw [List.length_take, List.length_drop]
      omega
    rw [List.getD_eq_default _ _ (by omega)]
    simp [tailFF, List.getElem_append_right hlen]

/-- LOG_READ inside a log bank (R458). -/
theorem mbLogRead_ok {s : State} {a : Bytes} {b : Fin 2} (hb : byteAt a 0 = b.1) (h0 : 0 < fld a 8 2) (h1 : fld a 8 2 ≤ 4088)
    (h2 : fld a 4 4 + fld a 8 2 ≤ logCap) :
    mbLogRead s a = (s, mbOk, tailFF (logBankBytes (s.boot.logs.get b)) (fld a 4 4) (fld a 8 2)) := by
  have hbank : (⟨byteAt a 0 % 2, Nat.mod_lt _ (by decide)⟩ : Fin 2) = b := Fin.ext (by
    show byteAt a 0 % 2 = b.1
    omega)
  have hok : ¬ (1 < byteAt a 0 ∨ fld a 8 2 = 0 ∨ 4088 < fld a 8 2 ∨ logCap < fld a 4 4 + fld a 8 2) := by omega
  simp only [mbLogRead, if_neg hok, hbank]
  rfl

/-! ### Commands that end with PENDING (R501) -/

/-- A command is put among the pending ones. -/
def State.pended (s : State) (tag : U16) (op : Nat) (a : Bytes) : State :=
  s.onHst fun h => { h with pend := h.pend ++ [⟨tag, BitVec.ofNat 8 op, a⟩] }

/-- A command that no shared refusal meets and whose effect goes on is pending; ACTIVATE then begins as far as it may. -/
theorem serve_pends {s u : State} {tag : U16} {op : Nat} {a r : Bytes} (hr : s.mbRefusal op a = none) (h1 : op ≠ 0x11)
    (h2 : op ≠ 0x36) (ha : mbAnswer op s a = (u, mbPending, r)) :
    serve s tag op a = if op = 0x34 then startLive (mboxPend u tag op r) else mboxPend u tag op r := by
  simp [serve, hr, h1, h2, ha, mbEnd]

/-- A command that ends with PENDING stands last among the pending ones, and its frame is that of what it does beside the host
port. -/
theorem exec_pends {c : Instr} {op : Nat} {tag : U16} {a r : Bytes} {s u : State} {l : List Kind}
    (hc : mboxOf c = some (op, tag, a)) (hs : s.serves op a) (ho : op < 256) (h1 : op ≠ 0x11) (h2 : op ≠ 0x36) (h3 : op ≠ 0x34)
    (ha : mbAnswer op (s.written tag op a) a = (u, mbPending, r)) (hkeep : (s.written tag op a).keeps l u)
    (hl : Kind.hst ∈ l) (hp : u.hst.pend = s.hst.pend) :
    ∃ t, exec c s = .next t ∧ t.answered tag mbPending [] ∧ t.hst.pend = s.hst.pend ++ [⟨tag, BitVec.ofNat 8 op, r⟩] ∧
      s.keeps l t ∧ u.keeps [.hst] t := by
  have hrun := hs
  obtain ⟨_, _, _, _, _, href⟩ := hrun
  have hr : (s.written tag op a).mbRefusal op a = none := (mbRefusal_written s tag op a).trans href
  obtain ⟨t, ht, hkt, -⟩ := finish_keeps (old := s)
    (State.keeps_trans (State.keeps_onHst u _) (mboxDone_keeps (u.pended tag op r) tag op mbPending []))
  have hq := mboxDone_ends ht
  have hans := (finish_quiet ht).answered (mboxDone_answered (u.pended tag op r) tag op mbPending [])
  refine ⟨t, ?_, hans, ?_, State.keeps_trans (State.keeps_mono (written_keeps s tag op a) (by simpa using hl))
    (State.keeps_trans hkeep (State.keeps_mono hkt (by simpa using hl))), hkt⟩
  · rw [exec_mbox hc, submit_of_serves hs ho, serve_pends hr h1 h2 ha, if_neg h3]
    exact ht
  · refine (hq.hstOf (fun h => h.pend) fun _ => rfl).trans ?_
    exact congrArg (· ++ [(⟨tag, BitVec.ofNat 8 op, r⟩ : PendCmd)]) hp

/-! ### The staging session (R460) -/

/-- A session that STAGE_OPEN opens. -/
def State.stageOpened (s : State) (len : Nat) (seq : U32) : State :=
  (s.onBoot fun b => { b with staging := some ⟨len, seq, List.replicate 0x400 0xFF, 0⟩, updBytes := 0 }).setUpd .staging

theorem setUpd_keeps (s : State) (v : UpdState) : s.keeps [.boot] (s.setUpd v) := by
  unfold State.setUpd
  split
  · exact s.keeps_refl _
  · exact onBoot_keeps s _

theorem setUpd_hst (s : State) (v : UpdState) : (s.setUpd v).hst = s.hst := by
  unfold State.setUpd
  split <;> rfl

/-- The staging session shows in `UPD_STATUS.STATE` where no live activation does. -/
theorem setUpd_boot (s : State) (v : UpdState) :
    (s.setUpd v).boot = { s.boot with updState := if s.activation then s.boot.updState else v } := by
  unfold State.setUpd
  split <;> rfl

/-- STAGE_OPEN of a newer image that the bank holds (R460, R463). -/
theorem mbStageOpen_ok {s : State} {a : Bytes} (h0 : s.boot.staging = none) (hp : s.stagePending = false)
    (hd : s.dev ≠ .boot ∨ s.boot.recovery = true)
    (hn : s.boot.recovery = true ∨ newer (BitVec.ofNat 32 (fld a 4 4)) s.boot.seq = true) (hc : fld a 0 4 ≤ s.bankCap) :
    mbStageOpen s a = (s.stageOpened (fld a 0 4) (BitVec.ofNat 32 (fld a 4 4)), mbPending, a) := by
  have hstate : ¬ (s.boot.staging.isSome ∨ s.stagePending ∨ (s.dev = .boot ∧ !s.boot.recovery)) := by
    rcases hd with h | h <;> simp [h0, hp, h]
  have hseq : ¬ (!s.boot.recovery ∧ !newer (BitVec.ofNat 32 (fld a 4 4)) s.boot.seq) := by
    rcases hn with h | h <;> simp [h]
  simp only [mbStageOpen, if_neg hstate, if_neg hseq, if_neg (Nat.not_lt.2 hc)]
  rfl

/-- STAGE_WRITE that goes on where the one before ended (R460). -/
theorem mbStageWrite_ok {s : State} {a : Bytes} {g : Staging} (h0 : s.boot.staging = some g) (hp : s.stagePending = false)
    (ho : fld a 0 4 = g.next) (hb : fld a 4 4 ≤ s.stageBuf.2) (hc : fld a 0 4 + fld a 4 4 ≤ s.bankCap) :
    mbStageWrite s a = (s, mbPending, a ++ s.peek s.stageBuf.1 (fld a 4 4)) := by
  have harg : ¬ (fld a 0 4 ≠ g.next ∨ s.stageBuf.2 < fld a 4 4 ∨ s.bankCap < fld a 0 4 + fld a 4 4) := by omega
  simp only [mbStageWrite, h0, hp, if_neg harg, Bool.false_eq_true, if_false]

/-- The flash and the registers of a session that ends. -/
theorem sessionClosed_boot (s : State) : (sessionClosed s).boot = { s.boot with
    flash := memErase s.boot.flash s.stagedBase 0x1000, staging := none, otherValid := false, otherSeq := 0
    updState := if s.activation then s.boot.updState else .idle } := by
  rw [sessionClosed, setUpd_boot]
  rfl

/-- What a session that ends leaves of the boot block: only the log and BOOT_OK's clock may have moved on. -/
theorem endStaging_boot {s : State} (h : s.boot.staging ≠ none) : (endStaging s).boot.still = (sessionClosed s).boot.still := by
  rw [endStaging_open h]
  exact (foldl_mboxFinal _ _ _).1 .boot (by simp)

/-! ### A STAGE_WRITE that ends well (R433, R460) -/

/-- Programming erased flash leaves the data. -/
theorem zipWith_and_erased (d : Bytes) : List.zipWith (· &&& ·) (List.replicate d.length (0xFF : Byte)) d = d := by
  induction d with
  | nil => rfl
  | cons x d ih =>
    have hx : (0xFF : Byte) &&& x = x := BitVec.allOnes_and
    rw [List.length_cons, List.replicate_succ, List.zipWith_cons_cons, ih, hx]

/-- Flash and session after the data of a write past the held header were programmed. -/
def wroteHigh (s : State) (g : Staging) (off : Nat) (d : Bytes) : State :=
  (flashProgram s (s.stagedBase + off) d).onBoot fun b => { b with
    staging := some { g with next := off + d.length }, updBytes := b.updBytes + BitVec.ofNat 32 d.length }

/-- A write past the header that the SVP holds is programmed as a whole. -/
theorem endWrite_high {s : State} {e : PendCmd} {g : Staging} (hg : s.boot.staging = some g) (ho : 0x400 ≤ fld e.args 0 4) :
    endWrite s e true = mboxFinal (wroteHigh s g (fld e.args 0 4) (e.args.drop 8)) e.tag 0x31 mbOk := by
  have hlow : 0x400 - fld e.args 0 4 = 0 := by omega
  have hmax : max (fld e.args 0 4) 0x400 = fld e.args 0 4 := by omega
  have hheld : ¬ fld e.args 0 4 < 0x400 := by omega
  simp only [endWrite, hg, Bool.not_true, Bool.false_eq_true, if_false, hlow, hmax, hheld, List.drop_zero]
  rfl

theorem wroteHigh_flash {s : State} {g : Staging} {off : Nat} {d : Bytes}
    (he : memRead 0xFF s.boot.flash (s.stagedBase + off) d.length = List.replicate d.length 0xFF) :
    (wroteHigh s g off d).boot.flash = memPut 0xFF s.boot.flash (s.stagedBase + off) d := by
  show memPut 0xFF s.boot.flash _ (List.zipWith (· &&& ·) (memRead 0xFF s.boot.flash _ d.length) d) = _
  rw [he, zipWith_and_erased]

theorem wroteHigh_keeps (s : State) (g : Staging) (off : Nat) (d : Bytes) : s.keeps [.boot] (wroteHigh s g off d) :=
  State.keeps_trans (onBoot_keeps s _) (onBoot_keeps _ _)

/-- A final status ends the command among the pending ones. -/
theorem mboxFinal_pend (s : State) (tag : U16) (op status : Nat) : (mboxFinal s tag op status).hst.pend =
    s.hst.pend.filter fun e => decide (e.tag ≠ tag ∨ e.op.toNat ≠ op) :=
  (svpIrq_quiet _ _ _).hstOf (fun h => h.pend) fun _ => rfl

theorem mboxFinal_boot (s : State) (tag : U16) (op status : Nat) : (mboxFinal s tag op status).boot.still = s.boot.still :=
  mboxFinal_keeps s tag op status .boot (by simp)

/-- MBOX_PENDING_COMPLETE of a command that is pending, while its server runs. -/
theorem exec_mboxPendingComplete {s : State} {tag : U16} {e : PendCmd} (ok : Bool)
    (hp : s.boot.recovery = true ∨ (s.proc .svp).state = .running)
    (he : s.hst.pend.find? (fun x => x.tag = tag) = some e) :
    exec (.mboxPendingComplete tag ok) s = finish s (pendDone s e ok) := by
  have hrun : exec (.mboxPendingComplete tag ok) s = execMboxPendingComplete tag ok s := rfl
  rw [hrun, execMboxPendingComplete, if_pos (by simpa using hp), he]

end Sys2Proof.Machine

open Sys2Proof Sys2Proof.Machine

/-- Settles O27: the three commands answer bytes that are in the device already, and ATTEST a signature under a salt of free
values. -/
theorem identityAndLogCommandsAnswer : Obligations.IdentityAndLogCommandsAnswer := by
  unfold Obligations.IdentityAndLogCommandsAnswer
  refine fun s tag a => ⟨fun hs => ?_, fun hs => ?_, fun b hs hb h0 h1 h2 => ?_⟩
  · obtain ⟨t, ht, ha, hk, -, -⟩ := exec_served (c := .attest tag a) (l := [.hst, .free])
      (u := { s.written tag 0x38 a with free := s.free + 32 }) rfl hs (by decide) (by decide) (by decide) rfl (by decide)
      (by intro k hk; cases k <;> first | rfl | simp at hk) (by simp)
    exact ⟨t, _, ht, pssSign_length _ _ _ _, ha, hk⟩
  · obtain ⟨t, ht, ha, hk, -, -⟩ := exec_served (c := .getCert tag []) rfl hs (by decide) (by decide) (by decide)
      rfl (by decide) (State.keeps_refl _ [.hst]) (by simp)
    exact ⟨t, ht, ha, hk⟩
  · obtain ⟨t, ht, ha, hk, -, -⟩ := exec_served (c := .logRead tag a) rfl hs (by decide) (by decide) (by decide)
      (mbLogRead_ok (s := s.written tag 0x3A a) hb h0 h1 h2) (by decide) (State.keeps_refl _ [.hst]) (by simp)
    exact ⟨t, _, ht, tailFF_length _ _ _, ha, fun i hi => tailFF_getD _ _ hi, hk⟩

/-- Settles O28: three commands are put among the pending ones, STAGE_ABORT erases the header sector, and a write that ends
programs flash that reads erased, where programming leaves the data. -/
theorem stagingSessionProgramsFlash : Obligations.StagingSessionProgramsFlash := by
  unfold Obligations.StagingSessionProgramsFlash
  refine ⟨fun s tag a => ⟨fun hs h0 hp hd hn hc => ?_, fun g hs h0 hp ho hb hc => ?_, fun hs h0 hp => ?_, fun hs h0 => ?_⟩,
    fun s tag e g hp hfind hop hg hoff herased => ?_⟩
  · obtain ⟨t, ht, ha, hpend, hk, hut⟩ := exec_pends (c := .stageOpen tag a) (l := [.hst, .boot]) rfl hs (by decide) (by decide)
      (by decide) (by decide) (mbStageOpen_ok (s := s.written tag 0x30 a) h0 hp hd hn hc)
      (State.keeps_mono (State.keeps_trans (onBoot_keeps _ _) (setUpd_keeps _ _)) (by simp)) (by simp)
      (by rw [State.stageOpened, setUpd_hst]; rfl)
    have hboot : t.boot.still = ((s.written tag 0x30 a).stageOpened (fld a 0 4) (BitVec.ofNat 32 (fld a 4 4))).boot.still :=
      hut .boot (by simp)
    rw [State.stageOpened, setUpd_boot] at hboot
    exact ⟨t, ht, ha, congrArg BootRegs.staging hboot, congrArg BootRegs.updState hboot, hpend, hk⟩
  · obtain ⟨t, ht, ha, hpend, hk, -⟩ := exec_pends (c := .stageWrite tag a) rfl hs (by decide) (by decide) (by decide) (by decide)
      (mbStageWrite_ok (s := s.written tag 0x31 a) h0 hp ho hb hc) (State.keeps_refl _ [.hst]) (by simp) rfl
    exact ⟨t, ht, ha, hpend, hk⟩
  · have hans : mbAnswer 0x32 (s.written tag 0x32 []) [] = (s.written tag 0x32 [], mbPending, []) :=
      if_neg (c := (s.written tag 0x32 []).boot.staging.isNone ∨ (s.written tag 0x32 []).stagePending) (by
        rintro (h | h)
        · rw [Option.isNone_iff_eq_none] at h
          rw [show s.boot.staging = none from h] at h0
          cases h0
        · cases hp.symm.trans h)
    obtain ⟨t, ht, ha, hpend, hk, -⟩ := exec_pends (c := .stageClose tag []) rfl hs (by decide) (by decide) (by decide)
      (by decide) hans (State.keeps_refl _ [.hst]) (by simp) rfl
    exact ⟨t, ht, ha, hpend, hk⟩
  · have hopen : (s.written tag 0x33 []).boot.staging ≠ none := fun h => by
      rw [show s.boot.staging = none from h] at h0
      cases h0
    have hans : mbAnswer 0x33 (s.written tag 0x33 []) [] = (endStaging (s.written tag 0x33 []), mbOk, []) :=
      if_neg (c := (s.written tag 0x33 []).boot.staging.isNone) (by simpa using hopen)
    obtain ⟨t, ht, ha, hk, hut, -⟩ := exec_served (c := .stageAbort tag []) (l := [.hst, .boot]) rfl hs (by decide) (by decide)
      (by decide) hans (by decide) (endStaging_effect _).2.1 (by simp)
    have hboot : t.boot.still = (sessionClosed (s.written tag 0x33 [])).boot.still :=
      (hut .boot (by simp)).trans (endStaging_boot hopen)
    rw [sessionClosed_boot] at hboot
    have hflash : t.boot.flash = memErase s.boot.flash s.stagedBase 0x1000 := congrArg BootRegs.flash hboot
    refine ⟨t, ht, ha, congrArg BootRegs.staging hboot, congrArg BootRegs.updState hboot, congrArg BootRegs.otherValid hboot,
      fun i h h' => ?_, fun i h => ?_, hk⟩
    · rw [hflash, memGet_memErase_in _ _ h h']
    · rw [hflash, memGet_memErase_out _ _ h]
  · have htag : e.tag = tag := by simpa using List.find?_some hfind
    have hdone : pendDone s e true = mboxFinal (wroteHigh s g (fld e.args 0 4) (e.args.drop 8)) e.tag 0x31 mbOk := by
      simp only [pendDone, hop]
      exact endWrite_high hg hoff
    obtain ⟨t, ht, hk, hq⟩ := finish_keeps (old := s) (State.keeps_trans (l := [.hst, .boot])
      (State.keeps_mono (wroteHigh_keeps s g (fld e.args 0 4) (e.args.drop 8)) (by simp))
      (State.keeps_mono (mboxFinal_keeps _ e.tag 0x31 mbOk) (by simp)))
    have hboot : t.boot.still = (wroteHigh s g (fld e.args 0 4) (e.args.drop 8)).boot.still :=
      hq.boot.trans (mboxFinal_boot _ _ _ _)
    have hflash : t.boot.flash = memPut 0xFF s.boot.flash (s.stagedBase + fld e.args 0 4) (e.args.drop 8) :=
      (congrArg BootRegs.flash hboot : _ = _).trans (wroteHigh_flash (g := g) herased)
    have hpend : t.hst.pend = _ := (hq.hstOf (fun h => h.pend) fun _ => rfl).trans (mboxFinal_pend _ _ _ _)
    refine ⟨t, (exec_mboxPendingComplete true hp hfind).trans (hdone ▸ ht), fun i hi => ?_, ?_, fun x hx => ?_, hk⟩
    · rw [hflash, memGet_memPut_in _ _ _ _ hi, List.getD_eq_getElem _ _ hi, List.getD_eq_getElem _ _ hi]
    · exact congrArg (Option.map (·.next)) (congrArg BootRegs.staging hboot : _ = _)
    · rw [hpend, List.mem_filter, htag] at hx
      rintro ⟨h1, h2⟩
      simpa [h1, h2] using hx.2
end

section
/-!
PROOFS. ACTIVATE, COMMIT and RESET (R440, R461, R503), and the whole device in reset (R510, R511).
-/

namespace Sys2Proof.Machine

/-! ### Pending commands that end together (R501) -/

theorem State.PortSettled.answered {s t : State} (h : s.PortSettled t) {tag : U16} {k : Nat} {r : Bytes}
    (ha : s.answered tag k r) : t.answered tag k r := by
  have e := h.regs
  simp only [HstRegs.settled, HstRegs.still, HstRegs.mk.injEq] at e
  simp only [State.answered] at ha ⊢
  simp_all

/-- Each command of a list gets its final status under an opcode of its own. -/
def finals (op : PendCmd → Nat) (status : Nat) (l : List PendCmd) (s : State) : State :=
  l.foldl (fun s e => mboxFinal s e.tag (op e) status) s

theorem finals_keeps (op : PendCmd → Nat) (status : Nat) (l : List PendCmd) (s : State) :
    s.keeps [.hst] (finals op status l s) := by
  induction l generalizing s with
  | nil => exact s.keeps_refl _
  | cons e l ih => exact State.keeps_trans (mboxFinal_keeps s e.tag (op e) status) (ih _)

theorem finals_settles (op : PendCmd → Nat) (status : Nat) (l : List PendCmd) (s : State) :
    s.PortSettled (finals op status l s) := by
  induction l generalizing s with
  | nil => exact .refl s
  | cons e l ih => exact (mboxFinal_settles s e.tag (op e) status).trans (ih _)

/-- The commands of the list are pending no more; no command joins. -/
theorem mem_finals_pend {op : PendCmd → Nat} {status : Nat} {l : List PendCmd} {s : State} {x : PendCmd}
    (h : x ∈ (finals op status l s).hst.pend) : x ∈ s.hst.pend ∧ ∀ e ∈ l, x.tag ≠ e.tag ∨ x.op.toNat ≠ op e := by
  induction l generalizing s with
  | nil => exact ⟨h, fun _ he => absurd he List.not_mem_nil⟩
  | cons e l ih =>
    obtain ⟨hx, hl⟩ := ih h
    rw [mboxFinal_pend, List.mem_filter] at hx
    obtain ⟨hx, he⟩ := hx
    refine ⟨hx, fun y hy => ?_⟩
    rcases List.mem_cons.1 hy with rfl | hy
    · simpa using he
    · exact hl y hy

/-! ### The bank that is not active (R461) -/

/-- The boot block and the pins of a state, without the log and SAFE_ST. -/
def State.bootView (s : State) : State := { ({} : State) with boot := s.boot.still, pins := s.pins.still }

theorem stagedImage_bootView (s : State) : s.bootView.stagedImage = s.stagedImage := rfl

/-- What the staged bank holds is a matter of the boot block and the straps. -/
theorem stagedImage_congr {s t : State} (hb : t.boot.still = s.boot.still) (hp : t.pins.still = s.pins.still) :
    t.stagedImage = s.stagedImage := by
  rw [← stagedImage_bootView t, ← stagedImage_bootView s, State.bootView, State.bootView, hb, hp]

/-! ### The beginning of a live activation (R461) -/

/-- What a live activation has done when it begins, whatever processors are left to restart. -/
structure State.LiveBegun (s t : State) (img : List Section) : Prop where
  keeps : s.keeps [.hst, .fwp, .img, .boot] t
  port : s.PortSettled t
  img : t.img = img
  bank : t.boot.bank = otherBank s.boot.bank
  live : t.boot.live = true

theorem State.keeps_onFwp (s : State) (i : Fin 7) (f : FwpRegs → FwpRegs) : s.keeps [.fwp] (s.onFwp i f) := by
  intro k hk; cases k <;> first | rfl | simp at hk

theorem onProc_keeps (s : State) (p : Proc) (f : FwpRegs → FwpRegs) : s.keeps [.fwp] (s.onProc p f) := State.keeps_onFwp s _ f

/-- The boot block of a live activation that is over. -/
def BootRegs.liveOver (b : BootRegs) : BootRegs := { b with
  updState := if b.staging.isSome then .staging else .idle, nextProc := 0xF, actLeft := [] }

/-- A live activation is over: its registers, and the final status of every ACTIVATE. -/
theorem endLive_eq (s : State) (status : Nat) : endLive s status =
    finals (fun _ => 0x34) status (s.hst.pend.filter fun e => decide (e.op = 0x34)) (s.onBoot BootRegs.liveOver) := rfl

theorem endLive_begun {s t : State} {img : List Section} (h : s.LiveBegun t img) (status : Nat) :
    s.LiveBegun (endLive t status) img := by
  rw [endLive_eq]
  generalize t.hst.pend.filter (fun e => decide (e.op = 0x34)) = l
  have hk := finals_keeps (fun _ => 0x34) status l (t.onBoot BootRegs.liveOver)
  have hb : BootRegs.still _ = BootRegs.still _ := hk .boot (by simp)
  have ht : t.PortSettled (t.onBoot BootRegs.liveOver) := .of_eq rfl
  exact ⟨State.keeps_trans h.keeps (State.keeps_trans (State.keeps_mono (onBoot_keeps _ _) (by simp)) (State.keeps_mono hk (by simp))),
    h.port.trans (ht.trans (finals_settles _ status l _)), (hk .img (by simp)).trans h.img,
    (congrArg BootRegs.bank hb).trans h.bank, (congrArg BootRegs.live hb).trans h.live⟩

/-- A processor has not yet taken the firmware of the active bank. -/
def oldFw (s : State) (p : Proc) : State := s.onProc p fun x => { x with newFw := false }

/-- The processors whose firmware differs in an image (R461). -/
def State.actLeftOf (s : State) (img : List Section) : List Proc :=
  actOrder.filter fun p =>
    decide (((img.find? fun x => x.ty.toNat = (fwSlot p).1 + 1).map (·.digest)).getD [] ≠ s.boot.fw.get (fwSlot p)) &&
      decide ((s.proc p).state = .running)

/-- The registers that name the other bank as the active one, with processors left to restart (R461). -/
def BootRegs.liveSet (b : BootRegs) (l : List Proc) (h : Bytes) : BootRegs := { b with
  bank := otherBank b.bank, keySlot := BitVec.ofNat 2 (hdrSlot h), seq := hdrSeq h, otherSeq := b.seq, otherValid := true
  header := h, live := true, updState := .live, actLeft := l, nextProc := nextNum l, runFrom := none }

/-- The image and the registers of a live activation that has begun. -/
def State.liveSet (s : State) (img : List Section) (l : List Proc) : State :=
  { l.foldl oldFw s with img := img, boot := s.boot.liveSet l (s.bankHeader (otherBank s.boot.bank)) }

theorem foldl_oldFw_keeps (l : List Proc) (s : State) : s.keeps [.fwp] (l.foldl oldFw s) :=
  foldl_keeps _ (fun s p => onProc_keeps s p _) l s

theorem foldl_oldFw_hst (l : List Proc) (s : State) : (l.foldl oldFw s).hst = s.hst :=
  foldl_field State.hst (f := oldFw) (fun _ _ => rfl) l s

theorem foldl_oldFw_boot (l : List Proc) (s : State) : (l.foldl oldFw s).boot = s.boot :=
  foldl_field State.boot (f := oldFw) (fun _ _ => rfl) l s

theorem liveSet_begun (s : State) (img : List Section) (l : List Proc) : s.LiveBegun (s.liveSet img l) img where
  keeps := by
    refine State.keeps_trans (State.keeps_mono (foldl_oldFw_keeps l s) (by simp)) (t := l.foldl oldFw s) fun k hk => ?_
    cases k <;> first | rfl | simp at hk
  port := .of_eq (foldl_oldFw_hst l s)
  img := rfl
  bank := rfl
  live := rfl

theorem beginLive_eq (s : State) (img : List Section) : beginLive s img =
    if (s.actLeftOf img).isEmpty then endLive (s.liveSet img (s.actLeftOf img)) mbOk else s.liveSet img (s.actLeftOf img) := by
  have hset (l : List Proc) : s.liveSet img l =
      State.onBoot { l.foldl oldFw s with img := img } fun b => { b with
        bank := otherBank s.boot.bank, keySlot := BitVec.ofNat 2 (hdrSlot (s.bankHeader (otherBank s.boot.bank)))
        seq := hdrSeq (s.bankHeader (otherBank s.boot.bank)), otherSeq := b.seq, otherValid := true
        header := s.bankHeader (otherBank s.boot.bank), live := true, updState := .live, actLeft := l
        nextProc := nextNum l, runFrom := none } := by
    simp only [State.liveSet, State.onBoot, BootRegs.liveSet, foldl_oldFw_boot]
  have hleft : s.actLeftOf img = actOrder.filter fun p =>
    decide (((img.find? fun x => x.ty.toNat = (fwSlot p).1 + 1).map (·.digest)).getD [] ≠ s.boot.fw.get (fwSlot p)) &&
      decide ((s.proc p).state = .running) := rfl
  unfold beginLive
  simp only [← hleft, hset]
  rfl

theorem beginLive_begun (s : State) (img : List Section) : s.LiveBegun (beginLive s img) img := by
  have hset := liveSet_begun s img (s.actLeftOf img)
  rw [beginLive_eq]
  split
  · exact endLive_begun hset mbOk
  · exact hset

/-- A live activation of a staged image begins, unless an emergency or a partition reset holds it up (R462, R463). -/
theorem startLive_staged {s : State} {img : List Section} (hi : s.stagedImage = some img) : startLive s =
    if s.emergency then s.onBoot fun b => { b with updState := .deferredEmergency }
    else if s.anyReset then s.onBoot fun b => { b with updState := .deferredReset } else beginLive s img := by
  unfold startLive
  rw [hi]

theorem startLive_begins {s : State} {img : List Section} (hi : s.stagedImage = some img) (he : s.emergency = false)
    (hr : s.anyReset = false) : startLive s = beginLive s img := by
  rw [startLive_staged hi, he, hr]
  rfl

/-! ### ACTIVATE, COMMIT and RESET -/

/-- ACTIVATE of a valid newer bank in mode NEXT. -/
theorem mbActivate_next {s : State} {a : Bytes} {img : List Section} (hb : byteAt a 0 = 0) (hi : s.stagedImage = some img) :
    mbActivate s a = (s, mbOk, []) := by
  simp [mbActivate, hb, hi, ans]

/-- ACTIVATE in mode LIVE of a bank that may be activated live. -/
theorem mbActivate_live {s : State} {a : Bytes} {img : List Section} (hb : byteAt a 0 = 1) (hi : s.stagedImage = some img)
    (hl : s.liveOk img = true) : mbActivate s a = (s, mbPending, a) := by
  have hd : s.dev ≠ .replay := fun h => by simp [State.liveOk, h] at hl
  simp [mbActivate, hb, hi, hl, hd]

/-- COMMIT after every context has run for 60 s (R440). -/
theorem mbCommit_ok {s : State} {r : Nat} (hr : s.boot.runFrom = some r) (ht : r + 60 * ticksPerSec ≤ s.ticks)
    (he : s.emergency = false) : mbCommit s [] = (s, mbPending, []) := by
  simp [mbCommit, hr, ht, he]

/-- A command that is pending: the host port alone has changed. -/
theorem mboxPend_keeps (s : State) (tag : U16) (op : Nat) (a : Bytes) : s.keeps [.hst] (mboxPend s tag op a) :=
  State.keeps_trans (State.keeps_onHst s _) (mboxDone_keeps _ tag op mbPending [])

/-- The reset of a partition is a matter of the partitions. -/
theorem anyReset_congr {s t : State} (h : t.parts = s.parts) : t.anyReset = s.anyReset := by
  have hp : t.inReset = s.inReset := funext fun p => by
    simp only [State.inReset, State.prt, h]
  simp only [State.anyReset, hp]

/-- An emergency is a matter of the power block. -/
theorem emergency_congr {s t : State} (h : t.pwr = s.pwr) : t.emergency = s.emergency := by
  simp only [State.emergency, h]

/-- The mailbox as ACTIVATE LIVE leaves it before the activation begins. -/
def liveAsked (s : State) (tag : U16) : State := mboxPend (s.written tag 0x34 [1]) tag 0x34 [1]

theorem liveAsked_keeps (s : State) (tag : U16) : s.keeps [.hst] (liveAsked s tag) :=
  State.keeps_trans (written_keeps s tag 0x34 [1]) (mboxPend_keeps _ tag 0x34 [1])

/-- ACTIVATE LIVE of a staged image that may begin at once is pending, and the activation begins. -/
theorem submit_activateLive {s : State} {tag : U16} {img : List Section} (hs : s.serves 0x34 [1]) (hi : s.stagedImage = some img)
    (hl : s.liveOk img = true) (he : s.emergency = false) (hr : s.anyReset = false) :
    submit s tag 0x34 [1] = beginLive (liveAsked s tag) img := by
  obtain ⟨_, _, _, _, _, href⟩ := id hs
  have hk := liveAsked_keeps s tag
  have hstaged : (liveAsked s tag).stagedImage = some img :=
    (stagedImage_congr (hk .boot (by simp)) (hk .pins (by simp))).trans hi
  rw [submit_of_serves hs (by decide), serve_pends ((mbRefusal_written s tag 0x34 [1]).trans href) (by decide) (by decide)
    (mbActivate_live (s := s.written tag 0x34 [1]) (a := [1]) rfl hi hl), if_pos rfl]
  exact startLive_begins hstaged ((emergency_congr (hk .pwr (by simp))).trans he)
    ((anyReset_congr (hk .parts (by simp))).trans hr)

/-- RESET that may take place is a reset of the whole device at once (R503). -/
theorem submit_reset {s : State} (tag : U16) (hs : s.serves 0x36 []) (hm : s.mayReset = true) :
    submit s tag 0x36 [] = resetDevice s := by
  obtain ⟨_, _, _, _, _, href⟩ := id hs
  have hr := (mbRefusal_written s tag 0x36 []).trans href
  have hm' : (s.written tag 0x36 []).mayReset = true := hm
  rw [submit_of_serves hs (by decide)]
  simp only [serve, hr, mbReset, hm']
  rfl

end Sys2Proof.Machine

open Sys2Proof Sys2Proof.Machine

/-- Settles O29: NEXT only answers, LIVE begins after the mailbox has shown PENDING, COMMIT is put among the pending commands, and
RESET is the reset of the whole device. -/
theorem activateCommitReset : Obligations.ActivateCommitReset := by
  unfold Obligations.ActivateCommitReset
  refine fun s tag img => ⟨fun hs hi => ?_, fun hs hi hl he hr => ?_, fun r hs hr ht he => ?_, fun hs hm => ?_⟩
  · obtain ⟨t, ht, ha, hk, -, -⟩ := exec_served (c := .activate tag [0]) rfl hs (by decide) (by decide) (by decide)
      (mbActivate_next (s := s.written tag 0x34 [0]) (a := [0]) rfl hi) (by decide) (State.keeps_refl _ [.hst]) (by simp)
    exact ⟨t, ht, ha, hk⟩
  · have hk := liveAsked_keeps s tag
    have hbegun := beginLive_begun (liveAsked s tag) img
    have hans : (liveAsked s tag).answered tag mbPending [] := mboxDone_answered _ _ _ _ _
    obtain ⟨t, ht, hkt, hq⟩ := finish_keeps (old := s)
      (State.keeps_trans (l := [.hst, .fwp, .img, .boot]) (State.keeps_mono hk (by simp)) hbegun.keeps)
    have hboot : (liveAsked s tag).boot.still = s.boot.still := hk .boot (by simp)
    have hbank : (liveAsked s tag).boot.bank = s.boot.bank := (congrArg BootRegs.bank hboot : _ = _)
    refine ⟨t, ?_, hq.answered (hbegun.port.answered hans), hq.img.trans hbegun.img, ?_, ?_, hkt .ctxs (by simp),
      hkt .mem (by simp), hkt .dev (by simp)⟩
    · rw [exec_mbox rfl, submit_activateLive hs hi hl he hr, ht]
    · rw [hq.bootOf (fun b => b.bank) fun _ => rfl, hbegun.bank, hbank]
    · exact (hq.bootOf (fun b => b.live) fun _ => rfl).trans hbegun.live
  · obtain ⟨t, ht', ha, hpend, hk, -⟩ := exec_pends (c := .commit tag []) rfl hs (by decide) (by decide) (by decide) (by decide)
      (mbCommit_ok (s := s.written tag 0x35 []) hr ht he) (State.keeps_refl _ [.hst]) (by simp) rfl
    exact ⟨t, ht', ha, hpend, hk⟩
  · obtain ⟨t, ht, hq⟩ := finish_next s (resetDevice s)
    have hdev : t.dev = .boot := hq.dev
    refine ⟨t, ?_, hdev, hq.mem, fun c => (hq.ctx c).trans (vget_replicate _ c), hq.bootOf (fun b => b.flash) fun _ => rfl,
      hq.bootOf (fun b => b.fuses) fun _ => rfl, (finish_pinsOk ht).trans (safeStOf_boot hdev)⟩
    rw [exec_mbox rfl, submit_reset tag hs hm, ht]

/-- Settles O1: both are the reset of the whole device, the loss of VDD_AON with the pads without supply besides. -/
theorem resetPulseLeavesTheResetState : Obligations.ResetPulseLeavesTheResetState := by
  unfold Obligations.ResetPulseLeavesTheResetState
  rintro s c (⟨n, hn, rfl⟩ | ⟨mv, hmv, rfl⟩)
  · refine ⟨resetDevice s, if_pos hn, rfl, rfl, rfl, fun x => vget_replicate _ x, fun i => vget_replicate _ i,
      fun p => vget_replicate _ p, rfl, rfl, rfl, rfl, rfl, rfl, rfl, rfl, rfl, rfl, rfl, rfl, rfl, rfl, rfl, rfl⟩
  · refine ⟨(resetDevice s).onPins fun p => { p with pads := .aonLost }, if_pos hmv, rfl, rfl, rfl, fun x => vget_replicate _ x,
      fun i => vget_replicate _ i, fun p => vget_replicate _ p, rfl, rfl, rfl, rfl, rfl, rfl, rfl, rfl, rfl, rfl, rfl, rfl, rfl,
      rfl, rfl, rfl⟩
end

section
/-!
PROOFS. The firmware processors: faults and restarts, the restart of a sequencer at its frame boundary, the odometer entry (R24,
R454 to R457, R459), and the steps of a live activation with what an emergency does to them (R461, R462).
-/

namespace Sys2Proof.Machine

/-! ### The registers of a processor -/

theorem seqPart_seqOf (p : PartId) : seqPart (seqOf p) = some p := by
  revert p; decide

@[simp] theorem proc_onProc_self (s : State) (p : Proc) (f : FwpRegs → FwpRegs) : (s.onProc p f).proc p = f (s.proc p) :=
  State.fwp_onFwp_self _ _ _

/-- A register of the processors that an update of one processor leaves. -/
theorem onFwp_field {β : Type} (g : FwpRegs → β) (s : State) (i : Fin 7) {f : FwpRegs → FwpRegs} (hf : ∀ x, g (f x) = g x)
    (j : Fin 7) : g ((s.onFwp i f).fwp.get j) = g (s.fwp.get j) := by
  by_cases h : j = i
  · subst h
    rw [State.fwp_onFwp_self, hf]
  · rw [State.fwp_onFwp_ne _ _ _ _ h]

/-! ### Crash dumps (R457) -/

/-- A dump that is overwritten before its copy counts for its processor. -/
def dumpCounted (s : State) (n : Nat) : State :=
  if s.boot.uncopied.contains n then s.onFwp (s.dumpOwner n) fun x => { x with dumpLost := sat32 x.dumpLost } else s

/-- The dump in memory, the processor's registers of it, and its place among the dumps to copy. -/
def dumpKept (s : State) (p : Proc) (code : U16) (n : Nat) (free : Nat) (d : Bytes) : State :=
  let s := { s with mem := memPut 0 s.mem (dumpBase n) d, free := free }
  (s.onProc p fun x => { x with slot := decide (n = 7), code := code }).onBoot fun b =>
    { b with nextDump := decide (n = 6), uncopied := b.uncopied.filter (· ≠ n) ++ [n] }

theorem crashDump_eq (s : State) (p : Proc) (code : U16) : ∃ n free d,
    crashDump s p code = dumpKept (dumpCounted s n) p code n free d := ⟨_, _, _, rfl⟩

/-- A processor's registers without those of its crash dumps. -/
def FwpRegs.undumped (x : FwpRegs) : FwpRegs := { x with slot := false, code := 0, dumpLost := 0 }

theorem dumpCounted_keeps (s : State) (n : Nat) : s.keeps [.fwp] (dumpCounted s n) := by
  unfold dumpCounted
  split
  · exact State.keeps_onFwp s _ _
  · exact s.keeps_refl _

theorem dumpCounted_proc (s : State) (n : Nat) (q : Proc) : ((dumpCounted s n).proc q).undumped = (s.proc q).undumped := by
  unfold dumpCounted
  split
  · exact onFwp_field FwpRegs.undumped s _ (f := fun x => { x with dumpLost := sat32 x.dumpLost }) (fun _ => rfl) _
  · rfl

/-- A crash dump is memory, free values, and registers that say nothing of whether a processor runs. -/
theorem crashDump_effect (s : State) (p : Proc) (code : U16) : s.keeps [.fwp, .mem, .free, .boot] (crashDump s p code) ∧
    ∀ q, ((crashDump s p code).proc q).undumped = (s.proc q).undumped := by
  obtain ⟨n, free, d, he⟩ := crashDump_eq s p code
  rw [he]
  refine ⟨State.keeps_trans (State.keeps_mono (dumpCounted_keeps s n) (by simp)) fun k hk => ?_, fun q => ?_⟩
  · cases k <;> first | rfl | simp at hk
  · exact (onFwp_field FwpRegs.undumped _ _ (f := fun x => { x with slot := decide (n = 7), code := code }) (fun _ => rfl)
      (procNum q)).trans (dumpCounted_proc s n q)

/-! ### Faults (R455) -/

/-- The times of a processor's faults; a live activation passes over it. -/
def FwpRegs.faultedAt (x : FwpRegs) (times : List Nat) : FwpRegs := { x with faults := times, activating := false }

/-- A live activation has a processor left no more. -/
def BootRegs.without (b : BootRegs) (p : Proc) : BootRegs := { b with actLeft := b.actLeft.filter fun q => decide (q ≠ p) }

/-- Crash dump and record of a fault. -/
def faultSeen (s : State) (p : Proc) (code : U16) : State := event (crashDump s p code) (srcProc p) code none 0

/-- A fault of a processor as it stands before its restart: crash dump, record, and the times of its faults. -/
def faultNoted (s : State) (p : Proc) (code : U16) : State :=
  ((faultSeen s p code).onProc p fun x => x.faultedAt (((s.proc p).faults.filter fun t => s.within t 60) ++ [s.ticks])).onBoot
    fun b => b.without p

theorem faultSeen_keeps (s : State) (p : Proc) (code : U16) : s.keeps [.fwp, .mem, .free, .boot, .err] (faultSeen s p code) :=
  State.keeps_trans (State.keeps_mono (crashDump_effect s p code).1 (by simp)) (State.keeps_mono (event_keeps_none _ _ _ _) (by simp))

theorem faultSeen_restarts (s : State) (p : Proc) (code : U16) : ((faultSeen s p code).proc p).restarts = (s.proc p).restarts := by
  have hfwp : (faultSeen s p code).proc p = (crashDump s p code).proc p :=
    congrArg (·.get (procNum p)) (event_keeps_none (crashDump s p code) (srcProc p) code 0 .fwp (by simp))
  have hdump := (crashDump_effect s p code).2 p
  rw [hfwp]
  exact (congrArg FwpRegs.restarts hdump : _ = _)

/-- The fault of a processor that is no sequencer: it restarts, or with the third fault within 60 s it does not. -/
theorem faultProc_eq {s : State} {p : Proc} (code : U16) (hp : seqPart p = none) (hr : (s.proc p).state = .running) :
    faultProc s p code = if 2 ≤ ((s.proc p).faults.filter fun t => s.within t 60).length
      then thirdFault (faultNoted s p code) p else restartProc (faultNoted s p code) p true := by
  have hlen : (3 ≤ (((s.proc p).faults.filter fun t => s.within t 60) ++ [s.ticks]).length) =
      (2 ≤ ((s.proc p).faults.filter fun t => s.within t 60).length) := by
    rw [List.length_append, List.length_singleton, Nat.succ_le_succ_iff]
  simp only [faultProc, hr, ne_eq, not_true_eq_false, if_false, hp, Option.map_none, Option.getD_none, Bool.false_eq_true, hlen]
  rfl

theorem faultNoted_keeps (s : State) (p : Proc) (code : U16) : s.keeps [.fwp, .mem, .free, .boot, .err] (faultNoted s p code) := by
  unfold faultNoted
  exact State.keeps_trans (faultSeen_keeps s p code)
    (State.keeps_trans (State.keeps_mono (onProc_keeps _ p _) (by simp)) (State.keeps_mono (onBoot_keeps _ _) (by simp)))

theorem faultNoted_restarts (s : State) (p : Proc) (code : U16) :
    ((faultNoted s p code).proc p).restarts = (s.proc p).restarts := by
  have hproc := proc_onProc_self (faultSeen s p code) p fun x =>
    x.faultedAt (((s.proc p).faults.filter fun t => s.within t 60) ++ [s.ticks])
  exact (congrArg FwpRegs.restarts hproc).trans (faultSeen_restarts s p code)

/-- A processor that is no sequencer and no SVP restarts, where no emergency defers it. -/
def restarted (s : State) (p : Proc) : State := s.onProc p fun x => { x with state := .restarting, restarts := sat32 x.restarts }

theorem restarted_keeps (s : State) (p : Proc) : s.keeps [.fwp] (restarted s p) := onProc_keeps s p _

theorem restarted_proc (s : State) (p : Proc) :
    (restarted s p).proc p = { s.proc p with state := .restarting, restarts := sat32 (s.proc p).restarts } := proc_onProc_self _ _ _

theorem restartProc_pwp {s : State} (he : s.emergency = false) (fault : Bool) : restartProc s .pwp fault = restarted s .pwp := by
  simp only [restartProc, he, Bool.false_eq_true, and_false, if_false]
  rfl

/-- The restart of the PWP waits (R462). -/
def deferred (s : State) : State := s.onProc .pwp fun x => { x with state := .deferred }

theorem deferred_proc (s : State) : (deferred s).proc .pwp = { s.proc .pwp with state := .deferred } := proc_onProc_self s .pwp _

/-- The PWP in an emergency: its restart waits (R462). -/
theorem restartProc_pwp_deferred {s : State} (he : s.emergency = true) (fault : Bool) :
    restartProc s .pwp fault = deferred s := by
  simp only [restartProc, he, and_true, if_true]
  rfl

/-- The restart of a sequencer that the SVP or an activation asked for. -/
theorem restartProc_seq (s : State) (p : PartId) : restartProc s (seqOf p) false = restarted s (seqOf p) := by
  have h : seqOf p ≠ .pwp := by revert p; decide
  simp only [restartProc, h, false_and, if_false]
  match p with
  | 0 | 1 | 2 | 3 => rfl

/-- A processor that does not restart. -/
def FwpRegs.off (x : FwpRegs) : FwpRegs := { x with state := .disabled }

/-- The third fault of a processor that is no sequencer: SAFE state (R455). -/
theorem thirdFault_safe (s : State) {p : Proc} (hp : seqPart p = none) :
    (thirdFault s p).dev = .safe ∧ ((thirdFault s p).proc p).state = .disabled ∧ s.keeps [.fwp, .dev, .tly] (thirdFault s p) := by
  have hstate : ((s.onProc p FwpRegs.off).proc p).state = .disabled := by rw [proc_onProc_self]; rfl
  simp only [thirdFault, hp]
  split
  · refine ⟨rfl, hstate, fun k hk => ?_⟩
    cases k <;> first | rfl | simp at hk
  · refine ⟨rfl, hstate, fun k hk => ?_⟩
    cases k <;> first | rfl | simp at hk

/-- Both faults of a processor are one operation under two codes. -/
theorem exec_procFault {c : Instr} {p : Proc} (h : c = .procWdg p ∨ c = .procFault p) (s : State) :
    ∃ code, exec c s = finish s (faultProc s p code) := by
  rcases h with rfl | rfl
  · exact ⟨cProcWdg, rfl⟩
  · exact ⟨cProcFault, rfl⟩

theorem safeStOf_safe {s : State} (h : s.dev = .safe) : safeStOf s = 0 := if_pos (.inr (.inr (.inl h)))

/-- A fault before the third within 60 s: the processor restarts (R455). -/
theorem faultProc_restarts {s : State} {p : Proc} (code : U16) (hp : p = .tally ∨ p = .pwp) (hr : (s.proc p).state = .running)
    (he : s.emergency = false) (hf : ((s.proc p).faults.filter fun t => s.within t 60).length < 2) :
    ((faultProc s p code).proc p).state = .restarting ∧ ((faultProc s p code).proc p).restarts = sat32 (s.proc p).restarts ∧
      s.keeps [.fwp, .mem, .free, .boot, .err, .tly] (faultProc s p code) ∧
      (p = .tally → (faultProc s p code).tly = { s.tly with restarting := true, ready := false }) := by
  have hnoted := faultNoted_keeps s p code
  have hrestarts := faultNoted_restarts s p code
  have hnone : seqPart p = none := by rcases hp with rfl | rfl <;> rfl
  rw [faultProc_eq code hnone hr, if_neg (Nat.not_le.2 hf)]
  rcases hp with rfl | rfl
  · rw [restartProc_tally]
    refine ⟨tallyRestarts_proc _, ?_, State.keeps_trans (State.keeps_mono hnoted (by simp))
      (State.keeps_mono (tallyRestarts_keeps _) (by simp)), fun _ => ?_⟩
    · rw [← hrestarts]
      exact congrArg FwpRegs.restarts (restarted_proc (faultNoted s .tally code) .tally)
    · rw [tallyRestarts_tly, show (faultNoted s .tally code).tly = s.tly from hnoted .tly (by simp)]
  · rw [restartProc_pwp ((emergency_congr (hnoted .pwr (by simp))).trans he), restarted_proc, hrestarts]
    exact ⟨rfl, rfl, State.keeps_trans (State.keeps_mono hnoted (by simp)) (State.keeps_mono (restarted_keeps _ _) (by simp)),
      fun h => by cases h⟩

/-! ### A processor runs again (R455) -/

theorem noteFw_eq (s : State) (p : Proc) : ∃ v, noteFw s p = s.onBoot fun b => { b with fw := v } := by
  unfold noteFw
  split
  · exact ⟨_, rfl⟩
  · exact ⟨s.boot.fw, rfl⟩

/-- A processor runs the firmware of the active bank. -/
def FwpRegs.runs (x : FwpRegs) : FwpRegs := { x with state := .running, newFw := true, activating := false }

/-- The Tally is ready again. -/
def TlyRegs.runs (t : TlyRegs) : TlyRegs := { t with restarting := false, ready := true }

/-- The Tally is restarted, outside a live activation. -/
theorem procDone_tally {s : State} (hu : s.boot.updState ≠ .live) : ∃ f : BootRegs → BootRegs,
    procDone s .tally = ((s.onProc .tally FwpRegs.runs).onBoot f).onTly TlyRegs.runs := by
  obtain ⟨v, hv⟩ := noteFw_eq ((s.onProc .tally FwpRegs.runs).onBoot fun b => b.without .tally) .tally
  refine ⟨fun b => { b.without .tally with fw := v }, ?_⟩
  have hrun : resumeDuty (noteFw ((s.onProc .tally FwpRegs.runs).onBoot fun b => b.without .tally) .tally) .tally =
      ((s.onProc .tally FwpRegs.runs).onBoot fun b => { b.without .tally with fw := v }).onTly TlyRegs.runs := by
    rw [hv]
    rfl
  have hstate := congrArg (fun u : State => u.boot.updState) hrun
  exact (if_neg fun h => hu (hstate.symm.trans h.1)).trans hrun

/-! ### The restart of a sequencer (R24, R456) -/

/-- A sequencer's restart is asked for, or not. -/
def PartRt.asked (x : PartRt) (v : Bool) : PartRt := { x with seqWait := v }

/-- The request for a sequencer's restart. -/
def seqAsked (s : State) (p : PartId) (v : Bool) : State := s.onPart p fun x => x.asked v

theorem seqAsked_prt (s : State) (p : PartId) (v : Bool) : (seqAsked s p v).prt p = (s.prt p).asked v := State.prt_onPart_self s p _

theorem seqAsked_ne (s : State) {p q : PartId} (v : Bool) (h : q ≠ p) : (seqAsked s p v).prt q = s.prt q :=
  State.prt_onPart_ne s p q _ h

theorem seqAsked_keeps (s : State) (p : PartId) (v : Bool) : s.keeps [.parts] (seqAsked s p v) := onPart_keeps s p _

theorem seqAsked_queue (s : State) (p : PartId) (v : Bool) (q : QueueId) : (seqAsked s p v).queue q = s.queue q := by
  cases q with
  | core i k => rfl
  | dq r =>
    by_cases h : r = p
    · subst h
      exact (congrArg PartRt.dq (seqAsked_prt s r v) : _ = ((s.prt r).asked v).dq)
    · exact congrArg PartRt.dq (seqAsked_ne s v h)

theorem seqAsked_inReset (s : State) (p : PartId) (v : Bool) : (seqAsked s p v).inReset p = s.inReset p := by
  simp only [State.inReset, seqAsked_prt]
  rfl

/-- What holds a sequencer's restart up: no frame boundary, a partition reset, or descriptors that have not run. -/
def State.seqHeldUp (s : State) (p : PartId) : Prop :=
  s.atBoundary p = false ∨ s.inReset p = true ∨ ∃ q ∈ partQueues p, (s.queue q).entries ≠ []

theorem seqHeldUp_iff (s : State) (p : PartId) : s.seqHeldUp p ↔
    (!s.atBoundary p || s.inReset p || (partQueues p).any (fun k => !((seqAsked s p true).queue k).entries.isEmpty)) = true := by
  simp only [State.seqHeldUp, seqAsked_queue, Bool.or_eq_true, Bool.not_eq_true', List.any_eq_true, List.isEmpty_eq_false_iff, or_assoc]

/-- A sequencer's restart that is held up stays requested. -/
theorem seqRestart_waits {s : State} {p : PartId} (hr : (s.proc (seqOf p)).state = .running) (hw : s.seqHeldUp p) :
    seqRestart s p = seqAsked s p true := by
  have hw' := (seqHeldUp_iff s p).1 hw
  rw [← seqAsked_inReset s p true] at hw'
  simp only [seqRestart, hr, ne_eq, not_true_eq_false, if_false]
  exact if_pos hw'

/-- A sequencer's restart takes place, where an emergency does not hold up the activation that asked for it. -/
theorem seqRestart_restarts {s : State} {p : PartId} (hr : (s.proc (seqOf p)).state = .running) (hw : ¬ s.seqHeldUp p)
    (he : (s.proc (seqOf p)).activating = false ∨ s.emergency = false) :
    seqRestart s p = restarted (seqAsked (seqAsked s p true) p false) (seqOf p) := by
  have hw' : ¬ _ := fun h => hw ((seqHeldUp_iff s p).2 h)
  rw [← seqAsked_inReset s p true] at hw'
  have he' : ¬ ((s.proc (seqOf p)).activating && s.emergency) = true := by rcases he with h | h <;> simp [h]
  rw [← restartProc_seq]
  simp only [seqRestart, hr, ne_eq, not_true_eq_false, if_false]
  exact (if_neg hw').trans (if_neg he')

theorem seqRestart_idle {s : State} {p : PartId} (hr : (s.proc (seqOf p)).state ≠ .running) : seqRestart s p = s := if_pos hr

/-! ### Live activation (R461, R462) -/

theorem noneActivating {s : State} (h : ∀ q, (s.proc q).activating = false) : allProcs.any (fun p => (s.proc p).activating) = false := by
  rw [List.any_eq_false]
  exact fun q _ => by simp [h q]

/-- A step of a live activation, with no emergency: the next processor restarts. -/
theorem liveStep_next {s : State} {p : Proc} {r : List Proc} (hu : s.boot.updState = .live) (hl : s.boot.actLeft = p :: r)
    (ha : ∀ q, (s.proc q).activating = false) (he : s.emergency = false) : liveStep s = actStep s p := by
  simp only [liveStep, hu, noneActivating ha, hl, he, Bool.false_eq_true, if_false]

/-- A step of a live activation in an emergency: the activation is deferred (R462). -/
theorem liveStep_defers {s : State} {p : Proc} {r : List Proc} (hu : s.boot.updState = .live) (hl : s.boot.actLeft = p :: r)
    (ha : ∀ q, (s.proc q).activating = false) (he : s.emergency = true) : liveStep s =
      (if p = .pwp then actStep s p else s).onBoot fun b => { b with updState := .deferredEmergency } := by
  simp only [liveStep, hu, noneActivating ha, hl, he, Bool.false_eq_true, if_false, if_true]

/-- The activation of one processor begins: the next one is named. -/
def actBegun (s : State) (p : Proc) : State :=
  (s.onBoot fun b => { b with nextProc := nextNum (b.actLeft.drop 1) }).onProc p fun x => { x with activating := true }

theorem actBegun_proc (s : State) (p : Proc) : (actBegun s p).proc p = { s.proc p with activating := true } :=
  proc_onProc_self (s.onBoot _) p fun x => { x with activating := true }

theorem actBegun_keeps (s : State) (p : Proc) : s.keeps [.fwp, .boot] (actBegun s p) :=
  State.keeps_trans (State.keeps_mono (onBoot_keeps s _) (by simp)) (State.keeps_mono (onProc_keeps _ p _) (by simp))

/-- A sequencer is asked to restart (R456, R461). -/
theorem actStep_seq (s : State) (p : PartId) : actStep s (seqOf p) = seqAsked (actBegun s (seqOf p)) p true := by
  simp only [actStep, seqPart_seqOf]
  rfl

/-- The PWP's restart that falls due in an emergency is deferred with the activation (R462). -/
theorem actStep_pwp {s : State} (he : s.emergency = true) :
    actStep s .pwp = deferred (actBegun s .pwp) :=
  restartProc_pwp_deferred (s := actBegun s .pwp) he false

/-- A deferred restart of the PWP takes place once the emergency is over (R462). -/
theorem deferResume_pwp {s : State} (he : s.emergency = false) (hp : (s.proc .pwp).state = .deferred)
    (hu : s.boot.updState ≠ .deferredEmergency) : deferResume s = restarted s .pwp := by
  have hu' : ¬ (restarted s .pwp).boot.updState = .deferredEmergency := hu
  simp only [deferResume, he, hp, Bool.false_eq_true, if_false, if_true, restartProc_pwp he, if_neg hu']

/-- A deferred activation goes on once the emergency is over (R462). -/
theorem deferResume_live {s : State} {p : Proc} {r : List Proc} (he : s.emergency = false)
    (hu : s.boot.updState = .deferredEmergency) (hl : s.boot.actLeft = p :: r) (hp : (s.proc .pwp).state ≠ .deferred) :
    deferResume s = s.onBoot fun b => { b with updState := .live } := by
  simp only [deferResume, he, Bool.false_eq_true, if_false, if_neg hp, hu, if_true, hl, List.isEmpty_cons]

/-- An activation that had not begun is given up after 10 s of the emergency (R462). -/
def unbegunEnded (s : State) : State :=
  finals (fun _ => 0x34) mbEmergency (s.hst.pend.filter fun e => decide (e.op = 0x34)) (s.onBoot BootRegs.unbegun)

theorem deferCancel_unbegun {s : State} (he : s.emergency = true) (hu : s.boot.updState = .deferredEmergency)
    (hl : s.boot.actLeft = []) : deferCancel s =
      finals (fun _ => 0x36) mbEmergency ((unbegunEnded s).hst.pend.filter fun e => decide (e.op = 0x36)) (unbegunEnded s) := by
  simp only [deferCancel, he, Bool.not_true, Bool.false_eq_true, if_false, hu, ne_eq, not_true_eq_false, hl, List.isEmpty_nil, if_true]
  rfl

theorem unbegunEnded_keeps (s : State) : s.keeps [.hst, .boot] (unbegunEnded s) :=
  State.keeps_trans (State.keeps_mono (onBoot_keeps s _) (by simp)) (State.keeps_mono (finals_keeps _ _ _ _) (by simp))

theorem unbegunEnded_boot (s : State) : (unbegunEnded s).boot.still = s.boot.unbegun.still :=
  finals_keeps (fun _ => 0x34) mbEmergency _ _ .boot (by simp)

/-- No command of an opcode is pending after every one of them has its final status. -/
theorem finals_op_ne {s : State} {o : Byte} {status : Nat} {e : PendCmd}
    (h : e ∈ (finals (fun _ => o.toNat) status (s.hst.pend.filter fun e => decide (e.op = o)) s).hst.pend) : e.op ≠ o := by
  obtain ⟨hmem, hall⟩ := mem_finals_pend h
  intro ho
  rcases hall e (List.mem_filter.2 ⟨hmem, by simpa using ho⟩) with h | h
  · exact h rfl
  · exact h (congrArg BitVec.toNat ho)

end Sys2Proof.Machine

open Sys2Proof Sys2Proof.Machine

/-- Settles O30: a fault of the Tally or the PWP is a crash dump and a record before the restart or SAFE state, and a sequencer's
restart takes place where nothing holds it up. -/
theorem processorsFaultAndRestart : Obligations.ProcessorsFaultAndRestart := by
  unfold Obligations.ProcessorsFaultAndRestart
  refine ⟨fun s c p hp hc hr he => ⟨fun hf => ?_, fun hf => ?_⟩, fun s hr hu => ?_, fun s p hr => ⟨fun hb hi hq he => ?_, fun hw => ?_⟩,
    fun s p hr => ?_, fun s hr hf => ?_⟩
  · obtain ⟨code, hrun⟩ := exec_procFault hc s
    obtain ⟨hstate, hcount, hk, htly⟩ := faultProc_restarts code hp hr he hf
    obtain ⟨t, ht, hkt, hq⟩ := finish_keeps (old := s) hk
    have hproc : t.proc p = (faultProc s p code).proc p := congrArg (·.get (procNum p)) (hq.1 .fwp (by simp))
    refine ⟨t, hrun.trans ht, by rw [hproc, hstate], by rw [hproc, hcount], hkt .dev (by simp), hkt .ctxs (by simp), fun hp => ?_⟩
    have hT := hq.tly.trans (htly hp)
    exact ⟨congrArg TlyRegs.restarting hT, congrArg TlyRegs.ready hT,
      (finish_pinsOk ht).trans (safeStOf_restarting (congrArg TlyRegs.restarting hT))⟩
  · obtain ⟨code, hrun⟩ := exec_procFault hc s
    have hnone : seqPart p = none := by rcases hp with rfl | rfl <;> rfl
    rw [faultProc_eq code hnone hr, if_pos hf] at hrun
    obtain ⟨hdev, hstate, hk⟩ := thirdFault_safe (faultNoted s p code) hnone
    obtain ⟨t, ht, hkt, hq⟩ := finish_keeps (old := s) (State.keeps_trans (l := [.fwp, .mem, .free, .boot, .err, .dev, .tly])
      (State.keeps_mono (faultNoted_keeps s p code) (by simp)) (State.keeps_mono hk (by simp)))
    have hproc : t.proc p = (thirdFault (faultNoted s p code) p).proc p := congrArg (·.get (procNum p)) (hq.1 .fwp (by simp))
    exact ⟨t, hrun.trans ht, by rw [hproc, hstate], hq.dev.trans hdev,
      (finish_pinsOk ht).trans (safeStOf_safe (hq.dev.trans hdev)), hkt .ctxs (by simp)⟩
  · have hrun : exec (.procRestartDone .tally) s = finish s (procDone s .tally) := by
      have h : exec (.procRestartDone .tally) s = execProcRestartDone .tally s := rfl
      rw [h, execProcRestartDone, if_pos hr]
    obtain ⟨f, hf⟩ := procDone_tally hu
    rw [hf] at hrun
    obtain ⟨t, ht, hkt, hq⟩ := finish_keeps (old := s) (State.keeps_trans (l := [.fwp, .boot, .tly])
      (State.keeps_mono (onProc_keeps s .tally FwpRegs.runs) (by simp))
      (State.keeps_trans (State.keeps_mono (onBoot_keeps _ f) (by simp))
        (State.keeps_mono (onTly_keeps _ TlyRegs.runs) (by simp))))
    have hproc : t.proc .tally = (s.proc .tally).runs :=
      (congrArg (·.get (procNum .tally)) (hq.1 .fwp (by simp)) : _ = _).trans (proc_onProc_self s .tally _)
    exact ⟨t, hrun.trans ht, by rw [hproc]; rfl, by rw [hproc]; rfl, congrArg TlyRegs.ready hq.tly, congrArg TlyRegs.restarting hq.tly, hkt⟩
  · have hheld : ¬ s.seqHeldUp p := by
      rintro (h | h | ⟨q, hm, h⟩)
      · simp [hb] at h
      · simp [hi] at h
      · exact h (hq q hm)
    have hrun : exec (.sequencerRestart p) s = finish s (seqRestart s p) := rfl
    rw [seqRestart_restarts hr hheld he] at hrun
    obtain ⟨t, ht, hkt, hqt⟩ := finish_keeps (old := s) (State.keeps_trans (l := [.fwp, .parts])
      (State.keeps_mono (State.keeps_trans (seqAsked_keeps s p true) (seqAsked_keeps _ p false)) (by simp))
      (State.keeps_mono (restarted_keeps _ (seqOf p)) (by simp)))
    have hproc := (congrArg (·.get (procNum (seqOf p))) (hqt.1 .fwp (by simp)) :
      t.proc (seqOf p) = _).trans (restarted_proc _ (seqOf p))
    refine ⟨t, hrun.trans ht, by rw [hproc], ?_, by rw [hproc]; rfl, fun q hne => ?_, hkt⟩
    · rw [hqt.prt]
      exact congrArg PartRt.seqWait (seqAsked_prt (seqAsked s p true) p false)
    · rw [hqt.prt]
      exact (seqAsked_ne (seqAsked s p true) false hne).trans (seqAsked_ne s true hne)
  · have hrun : exec (.sequencerRestart p) s = finish s (seqRestart s p) := rfl
    rw [seqRestart_waits hr hw] at hrun
    obtain ⟨t, ht, hkt, hqt⟩ := finish_keeps (old := s) (seqAsked_keeps s p true)
    refine ⟨t, hrun.trans ht, ?_, fun q hne => ?_, hkt⟩
    · rw [hqt.prt]
      exact congrArg PartRt.seqWait (seqAsked_prt s p true)
    · rw [hqt.prt]
      exact seqAsked_ne s true hne
  · have hrun : exec (.sequencerRestart p) s = finish s (seqRestart s p) := rfl
    rw [seqRestart_idle hr] at hrun
    obtain ⟨t, ht, hkt⟩ := finish_same s
    exact ⟨t, hrun.trans ht, hkt⟩
  · have hrun : exec .odometerAppend s = finish s (logAppend s 5 (odoBytes s)) := by
      have h : exec .odometerAppend s = execOdometerAppend s := rfl
      rw [h, execOdometerAppend, if_pos hr]
    obtain ⟨t, ht, hkt, -⟩ := finish_keeps (old := s) (logAppend_quiet s 5 (odoBytes s)).1
    exact ⟨t, hrun.trans ht, (lastLogged_congr (finish_logs ht ((logAppend_fifo s 5 _).trans hf))).trans (logAppend_last s 5 _), hkt⟩

/-- Settles O31: a step names the next processor and restarts or asks one; what an emergency defers is a state of the PWP and of
`UPD_STATUS`. -/
theorem liveActivationStepsAndDefers : Obligations.LiveActivationStepsAndDefers := by
  unfold Obligations.LiveActivationStepsAndDefers
  refine ⟨fun s p r hu hl ha he => ?_, fun s p r hu hl ha he => ?_, fun s he hp hu => ?_, fun s p r hu hl he hp => ?_,
    fun s he hu hl => ?_⟩
  · have hrun : exec .liveActivationStep s = finish s (liveStep s) := rfl
    rw [liveStep_next hu hl ha he, actStep_seq] at hrun
    obtain ⟨t, ht, hkt, hq⟩ := finish_keeps (old := s) (State.keeps_trans (l := [.fwp, .parts, .boot])
      (State.keeps_mono (actBegun_keeps s (seqOf p)) (by simp))
      (State.keeps_mono (seqAsked_keeps _ p true) (by simp)))
    have hproc : t.proc (seqOf p) = { s.proc (seqOf p) with activating := true } :=
      (congrArg (·.get (procNum (seqOf p))) (hq.1 .fwp (by simp)) : _ = _).trans (actBegun_proc s (seqOf p))
    refine ⟨t, hrun.trans ht, by rw [hproc], ?_, ?_, hkt⟩
    · rw [hq.prt]
      exact congrArg PartRt.seqWait (seqAsked_prt (actBegun s (seqOf p)) p true)
    · refine (hq.bootOf (fun b => b.nextProc) fun _ => rfl).trans ?_
      show nextNum (s.boot.actLeft.drop 1) = nextNum r
      rw [hl]
      rfl
  · have hrun : exec .liveActivationStep s = finish s (liveStep s) := rfl
    rw [liveStep_defers hu hl ha he] at hrun
    by_cases hp : p = .pwp
    · subst hp
      rw [if_pos rfl, actStep_pwp he] at hrun
      obtain ⟨t, ht, hkt, hq⟩ := finish_keeps (old := s) (State.keeps_trans (l := [.fwp, .boot]) (actBegun_keeps s .pwp)
        (State.keeps_trans (State.keeps_mono (onProc_keeps _ .pwp _) (by simp) : (actBegun s .pwp).keeps _ (deferred (actBegun s .pwp)))
          (State.keeps_mono (onBoot_keeps _ fun b => { b with updState := .deferredEmergency }) (by simp))))
      have hproc : t.proc .pwp = { (actBegun s .pwp).proc .pwp with state := .deferred } :=
        (congrArg (·.get (procNum .pwp)) (hq.1 .fwp (by simp)) : _ = _).trans (deferred_proc (actBegun s .pwp))
      exact ⟨t, hrun.trans ht, hq.bootOf (fun b => b.updState) fun _ => rfl,
        (hq.bootOf (fun b => b.actLeft) fun _ => rfl).trans hl, fun _ => by rw [hproc], fun h => absurd rfl h, hkt⟩
    · rw [if_neg hp] at hrun
      obtain ⟨t, ht, hkt, hq⟩ := finish_keeps (old := s) (onBoot_keeps s fun b => { b with updState := .deferredEmergency })
      exact ⟨t, hrun.trans ht, hq.bootOf (fun b => b.updState) fun _ => rfl,
        (hq.bootOf (fun b => b.actLeft) fun _ => rfl).trans hl, fun h => absurd h hp, fun _ => hkt .fwp (by simp),
        State.keeps_mono hkt (by simp)⟩
  · have hrun : exec .emergencyDeferResume s = finish s (deferResume s) := rfl
    rw [deferResume_pwp he hp hu] at hrun
    obtain ⟨t, ht, hkt, hq⟩ := finish_keeps (old := s) (restarted_keeps s .pwp)
    have hproc := (congrArg (·.get (procNum .pwp)) (hq.1 .fwp (by simp)) : t.proc .pwp = _).trans (restarted_proc s .pwp)
    exact ⟨t, hrun.trans ht, by rw [hproc], by rw [hproc], hkt⟩
  · have hrun : exec .emergencyDeferResume s = finish s (deferResume s) := rfl
    rw [deferResume_live he hu hl hp] at hrun
    obtain ⟨t, ht, hkt, hq⟩ := finish_keeps (old := s) (onBoot_keeps s fun b => { b with updState := .live })
    exact ⟨t, hrun.trans ht, hq.bootOf (fun b => b.updState) fun _ => rfl,
      (hq.bootOf (fun b => b.actLeft) fun _ => rfl).trans hl, hkt⟩
  · have hrun : exec .emergencyDeferCancel s = finish s (deferCancel s) := rfl
    rw [deferCancel_unbegun he hu hl] at hrun
    have hk := finals_keeps (fun _ => 0x36) mbEmergency ((unbegunEnded s).hst.pend.filter fun e => decide (e.op = 0x36)) (unbegunEnded s)
    obtain ⟨t, ht, hkt, hq⟩ := finish_keeps (old := s) (State.keeps_trans (l := [.hst, .boot]) (unbegunEnded_keeps s)
      (State.keeps_mono hk (by simp)))
    have hboot : t.boot.still = s.boot.unbegun.still := hq.boot.trans (Eq.trans (hk .boot (by simp)) (unbegunEnded_boot s))
    refine ⟨t, hrun.trans ht, congrArg BootRegs.updState hboot, fun e hm => ?_, hkt⟩
    rw [hq.hstOf (fun h => h.pend) fun _ => rfl] at hm
    exact ⟨finals_op_ne (s := s.onBoot BootRegs.unbegun) (o := 0x34) (mem_finals_pend hm).1, finals_op_ne (o := 0x36) hm⟩
end

section
/-!
PROOFS. The rail and clock of one partition: droop stretch, AVS readings and the divider that the PWP asks for (R470 to R473).
-/

namespace Sys2Proof.Machine

/-! ### The rail of a partition -/

theorem onRail_keeps (s : State) (p : PartId) (f : PwrPart → PwrPart) : s.keeps [.parts] (s.onRail p f) := onPart_keeps s p _

@[simp] theorem rail_onRail_self (s : State) (p : PartId) (f : PwrPart → PwrPart) : (s.onRail p f).rail p = f (s.rail p) := by
  simp only [State.rail, State.onRail, State.prt_onPart_self]

theorem prt_onRail_ne (s : State) {p q : PartId} (f : PwrPart → PwrPart) (h : q ≠ p) : (s.onRail p f).prt q = s.prt q :=
  State.prt_onPart_ne s p q _ h

theorem State.Quiet.rail {s t : State} (h : s.Quiet t) (p : PartId) : t.rail p = s.rail p := congrArg PartRt.pwr (h.prt p)

/-- A command that ends with one rail updated: the rail, the other partitions, and what else stays. -/
theorem finish_onRail (s : State) (p : PartId) (f : PwrPart → PwrPart) : ∃ t, finish s (s.onRail p f) = .next t ∧
    t.rail p = f (s.rail p) ∧ (∀ q, q ≠ p → t.prt q = s.prt q) ∧ s.keeps [.parts] t := by
  obtain ⟨t, ht, hk, hq⟩ := finish_keeps (old := s) (onRail_keeps s p f)
  exact ⟨t, ht, (hq.rail p).trans (rail_onRail_self s p f), fun q hne => (hq.prt q).trans (prt_onRail_ne s f hne), hk⟩

/-! ### Droop stretch (R473) -/

/-- A droop episode: counted once. -/
def PwrPart.stretched (x : PwrPart) : PwrPart := if x.stretch then x else { x with stretch := true, stretchCnt := sat32 x.stretchCnt }

theorem PwrPart.stretched_stretch (x : PwrPart) : x.stretched.stretch = true := by
  unfold PwrPart.stretched
  split
  · assumption
  · rfl

theorem PwrPart.stretched_cnt (x : PwrPart) : x.stretched.stretchCnt = if x.stretch then x.stretchCnt else sat32 x.stretchCnt := by
  unfold PwrPart.stretched
  split <;> rfl

theorem exec_droopDetect (p : PartId) (s : State) : exec (.droopDetect p) s = finish s (s.onRail p PwrPart.stretched) := rfl

theorem exec_droopStretchEnd (p : PartId) (s : State) :
    exec (.droopStretchEnd p) s = finish s (s.onRail p fun x => { x with stretch := false }) := rfl

/-! ### AVS (R472) -/

/-- A faster divider that is taken changes the divider alone. -/
theorem PwrPart.settle_div (x : PwrPart) : ∃ d, x.settle = { x with div := d } := by
  unfold PwrPart.settle
  split
  · split
    · exact ⟨_, rfl⟩
    · exact ⟨x.div, rfl⟩
  · exact ⟨x.div, rfl⟩

/-- The rail after a reading of its margin monitors. -/
def State.avsRead (s : State) (p : PartId) (margin : Nat) : PwrPart :=
  let x := avsStep (s.rail p) margin
  if s.pwpRuns && !x.forced then x.settle else x

theorem avsRead_step (s : State) (p : PartId) (margin : Nat) : ∃ d, s.avsRead p margin = { avsStep (s.rail p) margin with div := d } := by
  simp only [State.avsRead]
  split
  · exact PwrPart.settle_div _
  · exact ⟨_, rfl⟩

theorem exec_avsLoopUpdate (p : PartId) (margin : Nat) (s : State) : exec (.avsLoopUpdate p margin) s =
    finish s (if (s.avsRead p margin).avsMv = (s.rail p).avsMv then s.onRail p fun _ => s.avsRead p margin
      else (s.onRail p fun _ => s.avsRead p margin).emit (.avs p (s.avsRead p margin).avsMv)) := rfl

/-- A reading that leaves the limits alone sets the rail, and tells the PMIC of a new target. -/
theorem avsLoopUpdate_effect (s : State) (p : PartId) (margin : Nat) : ∃ t, exec (.avsLoopUpdate p margin) s = .next t ∧
    (t.rail p).margin = (avsStep (s.rail p) margin).margin ∧ (t.rail p).avsMv = (avsStep (s.rail p) margin).avsMv ∧
    (∀ q, q ≠ p → t.prt q = s.prt q) ∧ s.keeps [.parts] t := by
  obtain ⟨d, hd⟩ := avsRead_step s p margin
  have hquiet : (s.onRail p fun _ => s.avsRead p margin).Quiet
      (if (s.avsRead p margin).avsMv = (s.rail p).avsMv then s.onRail p fun _ => s.avsRead p margin
        else (s.onRail p fun _ => s.avsRead p margin).emit (.avs p (s.avsRead p margin).avsMv)) := by
    split
    · exact .refl _
    · exact emit_quiet _ _
  obtain ⟨t, ht, hq⟩ := finish_next s (if (s.avsRead p margin).avsMv = (s.rail p).avsMv then s.onRail p fun _ => s.avsRead p margin
      else (s.onRail p fun _ => s.avsRead p margin).emit (.avs p (s.avsRead p margin).avsMv))
  have hrail : t.rail p = s.avsRead p margin := ((hquiet.trans hq).rail p).trans (rail_onRail_self s p _)
  refine ⟨t, (exec_avsLoopUpdate p margin s).trans ht, by rw [hrail, hd], by rw [hrail, hd], fun q hne => ?_, ?_⟩
  · exact ((hquiet.trans hq).prt q).trans (prt_onRail_ne s _ hne)
  · exact State.keeps_trans (onRail_keeps s p _) (State.keeps_mono (hquiet.trans hq).1 (by simp))

theorem avsStep_margin (x : PwrPart) {m : Nat} (hm : m ≤ 255) : (avsStep x m).margin = BitVec.ofNat 8 m := by
  have hmin : min 255 m = m := Nat.min_eq_right hm
  simp only [avsStep, hmin, apply_ite PwrPart.margin, ite_self]

/-- A short margin raises the target by 10 mV, up to the ceiling. -/
theorem avsStep_raises {x : PwrPart} {m : Nat} (hfc : x.floorMv ≤ x.ceilMv) (hf : x.floorMv ≤ x.avsMv) (hc : x.avsMv ≤ x.ceilMv)
    (hm : m < 4) : (avsStep x m).avsMv.toNat = min x.ceilMv.toNat (x.avsMv.toNat + 10) := by
  have hfc' : x.floorMv.toNat ≤ x.ceilMv.toNat := hfc
  have hf' : x.floorMv.toNat ≤ x.avsMv.toNat := hf
  have hc' : x.avsMv.toNat ≤ x.ceilMv.toNat := hc
  have hlt : x.ceilMv.toNat < 2 ^ 10 := x.ceilMv.isLt
  simp only [avsStep, Nat.not_lt.2 hc', if_false, hm, if_true, BitVec.toNat_ofNat]
  omega

/-- A margin that is neither short nor ample leaves the target. -/
theorem avsStep_rests {x : PwrPart} {m : Nat} (hf : x.floorMv ≤ x.avsMv) (hc : x.avsMv ≤ x.ceilMv) (h4 : 4 ≤ m) (h10 : m < 10) :
    (avsStep x m).avsMv = x.avsMv := by
  have hf' : x.floorMv.toNat ≤ x.avsMv.toNat := hf
  have hc' : x.avsMv.toNat ≤ x.ceilMv.toNat := hc
  have hmax : max x.floorMv.toNat x.avsMv.toNat = x.avsMv.toNat := Nat.max_eq_right hf'
  simp [avsStep, Nat.not_lt.2 hc', Nat.not_lt.2 h4, Nat.not_le.2 h10, hmax]

/-! ### The divider that the PWP asks for (R470, R471) -/

theorem PwrPart.ask_want (x : PwrPart) (d : Divider) : (x.ask d).want = d ∧ (x.ask d).floorMv = BitVec.ofNat 10 (avsRange d).1 ∧
    (x.ask d).ceilMv = BitVec.ofNat 10 (avsRange d).2 := by
  simp only [PwrPart.ask]
  split
  · split
    · exact ⟨rfl, rfl, rfl⟩
    · obtain ⟨e, he⟩ := PwrPart.settle_div { x with
        want := d, floorMv := BitVec.ofNat 10 (avsRange d).1, ceilMv := BitVec.ofNat 10 (avsRange d).2, overRun := 0 }
      rw [he]
      exact ⟨rfl, rfl, rfl⟩
  · exact ⟨rfl, rfl, rfl⟩

/-- The divider after a request, when there is one: a slower one at once, a faster one when the voltage has settled. -/
theorem PwrPart.ask_div (x : PwrPart) (d : Divider) : (x.ask d).div = x.div.map fun c =>
    if divRank c ≤ divRank d ∨ (x.ask d).settled = true then d else c := by
  cases hx : x.div with
  | none => simp [PwrPart.ask, hx]
  | some c =>
    by_cases hle : divRank c ≤ divRank d
    · simp [PwrPart.ask, hx, hle]
    · have hlt : divRank d < divRank c := Nat.lt_of_not_le hle
      simp only [PwrPart.ask, hx, hle, if_false, PwrPart.settle, hlt, decide_true, Bool.true_and, Option.map_some, false_or]
      split
      · rename_i hset
        have : ({ x with want := d, floorMv := BitVec.ofNat 10 (avsRange d).1, ceilMv := BitVec.ofNat 10 (avsRange d).2
                         overRun := 0, div := some d } : PwrPart).settled = true := hset
        simp [this]
      · simp_all

theorem exec_arrDividerChange (p : PartId) (d : Divider) (s : State) :
    exec (.arrDividerChange p d) s = finish s (if d = s.pickDiv p then askDiv s p d else s) := rfl

theorem askDiv_asks {s : State} {p : PartId} (hr : s.pwpRuns = true) (hf : (s.rail p).forced = false) (d : Divider) :
    askDiv s p d = s.onRail p fun x => x.ask d := by
  simp [askDiv, hr, hf]

end Sys2Proof.Machine

open Sys2Proof Sys2Proof.Machine

/-- Settles O3: each command is one update of the partition's rail; the AVS arithmetic stays within floor and ceiling, and the
divider after a request is that of `PwrPart.ask_div`. -/
theorem railCommandsSetOnePartition : Obligations.RailCommandsSetOnePartition := by
  intro s p
  refine ⟨?_, ?_, fun m hfc hf hc hm => ?_, fun m hf hc h4 h10 => ?_, fun d hd hr hfo => ?_, fun d hd => ?_⟩
  · obtain ⟨t, ht, hrail, hne, hk⟩ := finish_onRail s p PwrPart.stretched
    exact ⟨t, ht, by rw [hrail, PwrPart.stretched_stretch], by rw [hrail, PwrPart.stretched_cnt], hne, hk⟩
  · exact finish_onRail s p fun x => { x with stretch := false }
  · obtain ⟨t, ht, hmar, hmv, hne, hk⟩ := avsLoopUpdate_effect s p m
    exact ⟨t, ht, by rw [hmar, avsStep_margin _ (by omega)], by rw [hmv, avsStep_raises hfc hf hc hm], hne, hk⟩
  · obtain ⟨t, ht, hmar, hmv, hne, hk⟩ := avsLoopUpdate_effect s p m
    exact ⟨t, ht, by rw [hmar, avsStep_margin _ (by omega)], by rw [hmv, avsStep_rests hf hc h4 h10], hne, hk⟩
  · obtain ⟨t, ht, hrail, hne, hk⟩ := finish_onRail s p fun x => x.ask d
    obtain ⟨hwant, hflo, hceil⟩ := PwrPart.ask_want (s.rail p) d
    rw [← askDiv_asks hr hfo, ← if_pos (c := d = s.pickDiv p) (t := askDiv s p d) (e := s) hd, ← exec_arrDividerChange] at ht
    refine ⟨t, ht, by rw [hrail, hwant], by rw [hrail, hflo], by rw [hrail, hceil], ?_, hne, hk⟩
    rw [hrail, PwrPart.ask_div]
    cases (s.rail p).div <;> rfl
  · obtain ⟨t, ht, hk, -⟩ := finish_keeps (old := s) (s.keeps_refl [])
    exact ⟨t, by rw [exec_arrDividerChange, if_neg hd, ht], hk⟩

end

section
/-!
PROOFS. Heat and power: the thermal emergency, what its sample keeps through the events of the sensors, the thermal loop and the
power cap (R462, R480 to R482).
-/

namespace Sys2Proof.Machine

/-! ### The divider that the loops choose (R470, R480, R481) -/

/-- The limits that the loops put on a divider. -/
def PwrPart.loops (x : PwrPart) : Divider × Divider × Divider := (x.heat, x.capped, x.cooling)

theorem slower_left (a b : Divider) : divRank a ≤ divRank (slower a b) := by
  unfold slower
  split
  · omega
  · exact Nat.le_refl _

theorem slower_right (a b : Divider) : divRank b ≤ divRank (slower a b) := by
  unfold slower
  split
  · exact Nat.le_refl _
  · omega

theorem pickDiv_congr {s t : State} {p : PartId} (hc : t.ctxs = s.ctxs) (hi : t.img = s.img)
    (hl : (t.rail p).loops = (s.rail p).loops) : t.pickDiv p = s.pickDiv p := by
  simp only [PwrPart.loops, Prod.mk.injEq] at hl
  obtain ⟨hheat, hcap, hcool⟩ := hl
  have hwant : t.wantDiv p = s.wantDiv p := by
    simp only [State.wantDiv, State.active, State.ctx, State.hasWork, State.lists, hc, hi]
    rfl
  simp only [State.pickDiv, hwant, hheat, hcap, hcool]

theorem pickDiv_keeps {s t : State} {l : List Kind} {p : PartId} (h : s.keeps l t) (hc : Kind.ctxs ∉ l) (hi : Kind.img ∉ l)
    (hl : (t.rail p).loops = (s.rail p).loops) : t.pickDiv p = s.pickDiv p :=
  pickDiv_congr (h .ctxs hc) (h .img hi) hl

theorem heat_le_pickDiv (s : State) (p : PartId) : divRank (s.rail p).heat ≤ divRank (s.pickDiv p) :=
  (slower_left _ _).trans (slower_right _ _)

theorem capped_le_pickDiv (s : State) (p : PartId) : divRank (s.rail p).capped ≤ divRank (s.pickDiv p) :=
  ((slower_left _ _).trans (slower_right _ _)).trans (slower_right _ _)

theorem divDown_ne_d5 (c : Divider) : divDown c ≠ .d5 := by cases c <;> decide

/-- A divider as slow as one step below another, and no slower than that one, is divider 10. -/
theorem divRank_pinned {c w : Divider} (h : divRank (divDown c) ≤ divRank w) (hw : divRank w ≤ divRank c) : w = c := by
  cases c <;> cases w <;> simp_all [divRank, divDown]

theorem PwrPart.ask_loops (x : PwrPart) (d : Divider) : (x.ask d).loops = x.loops := by
  simp only [PwrPart.ask]
  split
  · split
    · rfl
    · obtain ⟨e, he⟩ := PwrPart.settle_div { x with
        want := d, floorMv := BitVec.ofNat 10 (avsRange d).1, ceilMv := BitVec.ofNat 10 (avsRange d).2, overRun := 0 }
      rw [he]
      rfl
  · rfl

theorem askDiv_prt_ne (s : State) {p q : PartId} (d : Divider) (h : q ≠ p) : (askDiv s p d).prt q = s.prt q := by
  unfold askDiv
  split
  · rfl
  · exact prt_onRail_ne s _ h

theorem askDiv_loops (s : State) (p : PartId) (d : Divider) : ((askDiv s p d).rail p).loops = (s.rail p).loops := by
  unfold askDiv
  split
  · rfl
  · rw [rail_onRail_self, PwrPart.ask_loops]

theorem chooseDiv_keeps (s : State) (p : PartId) : s.keeps [.parts] (chooseDiv s p) := by
  unfold chooseDiv
  split
  · exact s.keeps_refl _
  · exact askDiv_keeps _ _ _

theorem chooseDiv_prt_ne (s : State) {p q : PartId} (h : q ≠ p) : (chooseDiv s p).prt q = s.prt q := by
  unfold chooseDiv
  split
  · rfl
  · exact askDiv_prt_ne s _ h

theorem chooseDiv_loops (s : State) (p : PartId) : ((chooseDiv s p).rail p).loops = (s.rail p).loops := by
  unfold chooseDiv
  split
  · rfl
  · exact askDiv_loops s p _

/-- A partition whose limit has gone one step below its divider takes the divider that the loops choose at once. -/
theorem chooseDiv_slows {s : State} {p : PartId} {c : Divider} (hr : s.pwpRuns = true) (hf : (s.rail p).forced = false)
    (hd : (s.rail p).div = some c) (hw : divRank (s.rail p).want ≤ divRank c) (hlow : divRank (divDown c) ≤ divRank (s.pickDiv p)) :
    ((chooseDiv s p).rail p).div = some (s.pickDiv p) := by
  unfold chooseDiv
  split
  · rename_i hwant
    rw [hd, ← hwant, divRank_pinned (hwant ▸ hlow) hw]
  · have hle : divRank c ≤ divRank (s.pickDiv p) := by
      by_contra hgt
      have hpick := divRank_pinned hlow (by omega)
      rw [hpick] at hgt
      exact hgt (Nat.le_refl _)
    rw [askDiv_asks hr hf, rail_onRail_self, PwrPart.ask_div, hd, Option.map_some, if_pos (.inl hle)]

/-! ### The thermal loop (R480) -/

/-- A partition on its way back from a thermal emergency goes one step (R482). -/
def coolStep (s : State) (p : PartId) (x : PwrPart) : PwrPart :=
  if s.pwr.emerg then x else { x with cooling := backUp x.cooling (s.wantDiv p) }

/-- The thermal loop holds one partition a step slower. -/
def heatAt (a : PartId) (s : State) (p : PartId) (x : PwrPart) : PwrPart := if p = a then { x with heat := divDown (s.divOf p) } else x

/-- One partition in a step of the loop that throttles `a`. -/
def loopMove (a : PartId) (s : State) (p : PartId) : State := chooseDiv (s.onRail p fun x => heatAt a s p (coolStep s p x)) p

/-- Whether the loop holds a partition. -/
def loopNoted (s : State) : State := s.onPwr fun x => { x with loop := (allFin 4).any fun p => decide ((s.rail p).heat ≠ .d5) }

theorem exec_pwpThermalStep_hot {s : State} {d : Fin 2} (hr : s.pwpRuns = true) (hhot : 2160 < s.hottest (32 * d.1) 16)
    (hle : s.hottest (32 * d.1 + 16) 16 ≤ s.hottest (32 * d.1) 16) : exec (.pwpThermalStep d) s =
      finish s (loopNoted (loopMove (partOf (2 * d.1)) (loopMove (partOf (2 * d.1)) s (partOf (2 * d.1))) (partOf (2 * d.1 + 1)))) := by
  have ha : 16 * (partOf (2 * d.1)).1 = 32 * d.1 := by simp only [partOf]; omega
  have hb : 16 * (partOf (2 * d.1 + 1)).1 = 32 * d.1 + 16 := by simp only [partOf]; omega
  show execPwpThermalStep d s = _
  simp only [execPwpThermalStep, hr, Bool.not_true, Bool.false_eq_true, if_false, ha, hb, max_eq_left hle, hhot, if_true,
    Int.not_lt.2 hle]
  rfl

/-- The two partitions of a die. -/
theorem halves_ne (d : Fin 2) : partOf (2 * d.1) ≠ partOf (2 * d.1 + 1) := by revert d; decide

theorem loopMove_keeps (a : PartId) (s : State) (p : PartId) : s.keeps [.parts] (loopMove a s p) :=
  State.keeps_trans (onRail_keeps s p _) (chooseDiv_keeps _ p)

theorem loopMove_prt_ne (a : PartId) (s : State) {p q : PartId} (h : q ≠ p) : (loopMove a s p).prt q = s.prt q :=
  (chooseDiv_prt_ne _ h).trans (prt_onRail_ne s _ h)

/-- The rail of the partition that is throttled, but for the limit of the way back: as before, with the new limit. -/
theorem heatAt_self (s : State) (a : PartId) (x : PwrPart) : ∃ d, heatAt a s a (coolStep s a x) =
    { x with heat := divDown (s.divOf a), cooling := d } := by
  simp only [heatAt, if_true, coolStep]
  split <;> exact ⟨_, rfl⟩

/-- The partition that the loop throttles: its limit is a step slower, and its divider is the one to choose. -/
theorem loopMove_throttles {s : State} {a : PartId} {c : Divider} (hr : s.pwpRuns = true) (hf : (s.rail a).forced = false)
    (hd : (s.rail a).div = some c) (hw : divRank (s.rail a).want ≤ divRank c) :
    ((loopMove a s a).rail a).heat = divDown c ∧ ((loopMove a s a).rail a).div = some ((loopMove a s a).pickDiv a) := by
  obtain ⟨e, he⟩ := heatAt_self s a (s.rail a)
  have hdiv : s.divOf a = c := by rw [State.divOf, hd]; rfl
  rw [hdiv] at he
  have hrail := (rail_onRail_self s a fun x => heatAt a s a (coolStep s a x)).trans he
  have hloops := chooseDiv_loops (s.onRail a fun x => heatAt a s a (coolStep s a x)) a
  have hpick := pickDiv_keeps (chooseDiv_keeps (s.onRail a fun x => heatAt a s a (coolStep s a x)) a) (by simp) (by simp) hloops
  have hlow := heat_le_pickDiv (s.onRail a fun x => heatAt a s a (coolStep s a x)) a
  refine ⟨?_, ?_⟩
  · exact (congrArg Prod.fst hloops : _ = PwrPart.heat _).trans (by rw [hrail]; rfl)
  · rw [loopMove, hpick]
    exact chooseDiv_slows hr (by rw [hrail]; exact hf) (by rw [hrail]; exact hd) (by rw [hrail]; exact hw) (by rw [hrail] at hlow; exact hlow)

theorem loopNoted_keeps (s : State) : s.keeps [.pwr] (loopNoted s) := onPwr_keeps s _

theorem loopNoted_loop {s : State} {p : PartId} (h : (s.rail p).heat ≠ .d5) : (loopNoted s).pwr.loop = true :=
  List.any_eq_true.2 ⟨p, List.mem_finRange p, by simp only [decide_eq_true_eq]; exact h⟩

/-! ### The power cap (R481, R462) -/

/-- The power that was read. -/
def powerRead (s : State) (w : U16) : State := s.onPwr fun p => { p with now := w }

/-- A power emergency holds from now on. -/
def powerHeld (s : State) : State := (beginPower s).onPwr fun p => { p with powerEmerg := true }

/-- The power cap holds a partition one step slower. -/
def capMove (s : State) (p : PartId) : State :=
  chooseDiv (s.onRail p fun x => { x with capped := divDown (s.divOf p) }) p

theorem powerHeld_keeps (s : State) : s.keeps [.pwr] (powerHeld s) := by
  have hbegin : s.keeps [.pwr] (beginPower s) := by
    unfold beginPower
    split <;> exact onPwr_keeps s _
  exact State.keeps_trans hbegin (onPwr_keeps _ _)

theorem powerHeld_now (s : State) : (powerHeld s).pwr.now = s.pwr.now := by
  simp only [powerHeld, beginPower]
  split <;> rfl

/-- A power above the cap begins an emergency. -/
def powerSeen (s : State) (w : U16) : State := if s.capNow < w.toNat then powerHeld s else s

/-- While an emergency holds, the PWP throttles a partition. -/
def powerStep (s : State) (p : PartId) : State := if (s.pwr.powerEmerg || s.pwr.voltCond) && s.pwpRuns then capMove s p else s

theorem exec_powerEmergency (w : U16) (p : PartId) (s : State) :
    exec (.powerEmergency w p) s = finish (powerSeen (powerRead s w) w) (powerStep (powerSeen (powerRead s w) w) p) := rfl

theorem powerStep_moves {s : State} (he : s.pwr.powerEmerg = true) (hr : s.pwpRuns = true) (p : PartId) :
    powerStep s p = capMove s p := by
  rw [powerStep, he, hr]
  rfl

theorem exec_powerEmergency_over {s : State} {w : U16} (p : PartId) (hw : s.capNow < w.toNat) (hr : s.pwpRuns = true) :
    exec (.powerEmergency w p) s = finish (powerHeld (powerRead s w)) (capMove (powerHeld (powerRead s w)) p) := by
  have hcap : (powerRead s w).capNow < w.toNat := hw
  have hruns : (powerHeld (powerRead s w)).pwpRuns = true := by
    rw [State.pwpRuns, State.proc, (powerHeld_keeps (powerRead s w)) .fwp (by simp)]
    exact hr
  rw [exec_powerEmergency, powerSeen, if_pos hcap, powerStep_moves rfl hruns]

theorem capMove_keeps (s : State) (p : PartId) : s.keeps [.parts] (capMove s p) :=
  State.keeps_trans (onRail_keeps s p _) (chooseDiv_keeps _ p)

theorem capMove_prt_ne (s : State) {p q : PartId} (h : q ≠ p) : (capMove s p).prt q = s.prt q :=
  (chooseDiv_prt_ne _ h).trans (prt_onRail_ne s _ h)

/-- The partition that the cap throttles: its limit is a step slower, and its divider is the one to choose. -/
theorem capMove_throttles {s : State} {p : PartId} {c : Divider} (hr : s.pwpRuns = true) (hf : (s.rail p).forced = false)
    (hd : (s.rail p).div = some c) (hw : divRank (s.rail p).want ≤ divRank c) :
    ((capMove s p).rail p).capped = divDown c ∧ ((capMove s p).rail p).div = some ((capMove s p).pickDiv p) := by
  have hdiv : s.divOf p = c := by rw [State.divOf, hd]; rfl
  have hrail := rail_onRail_self s p fun x => { x with capped := divDown (s.divOf p) }
  have hloops := chooseDiv_loops (s.onRail p fun x => { x with capped := divDown (s.divOf p) }) p
  have hpick := pickDiv_keeps (chooseDiv_keeps (s.onRail p fun x => { x with capped := divDown (s.divOf p) }) p)
    (by simp) (by simp) hloops
  have hlow := capped_le_pickDiv (s.onRail p fun x => { x with capped := divDown (s.divOf p) }) p
  rw [hdiv] at hrail hloops hpick hlow
  rw [capMove, hdiv]
  refine ⟨?_, ?_⟩
  · exact (congrArg (fun l : Divider × Divider × Divider => l.2.1) hloops : _ = PwrPart.capped _).trans (by rw [hrail]; rfl)
  · rw [hpick]
    exact chooseDiv_slows hr (by rw [hrail]; exact hf) (by rw [hrail]; exact hd) (by rw [hrail]; exact hw) (by rw [hrail] at hlow; exact hlow)

/-! ### The end of the emergencies (R462, R481, R482) -/

theorem noteClear_pwr (s : State) : ∃ x, noteClear s = s.onPwr fun p => { p with clearAt := x } := by
  unfold noteClear
  split
  · exact ⟨s.pwr.clearAt, rfl⟩
  · exact ⟨_, rfl⟩

/-- No power emergency and no voltage condition hold any more. -/
def powerEnded (s : State) : State := s.onPwr fun p => { p with powerEmerg := false, voltCond := false }

theorem exec_powerEmergencyClear_below {s : State} {w : U16} (he : s.pwr.powerEmerg = true) (hw : 100 * w.toNat < 95 * s.capNow) :
    exec (.powerEmergencyClear w true) s = finish (powerRead s w) (noteClear (powerEnded (powerRead s w))) := by
  have hheld : (powerRead s w).pwr.powerEmerg = true := he
  have hcap : 100 * w.toNat < 95 * (powerRead s w).capNow := hw
  show finish (powerRead s w) (if ((powerRead s w).pwr.powerEmerg || (powerRead s w).pwr.voltCond) && true &&
    decide (100 * w.toNat < 95 * (powerRead s w).capNow) then noteClear (powerEnded (powerRead s w)) else _) = _
  rw [hheld, decide_eq_true hcap]
  rfl

/-- The highest of numbers that stay within a limit stays within it. -/
theorem foldl_max_le {l : List Int} {b k : Int} (hb : b ≤ k) (hl : ∀ v ∈ l, v ≤ k) : l.foldl max b ≤ k := by
  induction l generalizing b with
  | nil => exact hb
  | cons v l ih => exact ih (max_le hb (hl v (by simp))) fun w hw => hl w (by simp [hw])

theorem hottest_le {s : State} {lo n : Nat} {k : Int} (h0 : 0 ≤ k) (h : ∀ i, s.pwr.sensors.get i ≤ k) : s.hottest lo n ≤ k := by
  have hall : ∀ v ∈ ((allFin 64).filter fun i => decide (lo ≤ i.1) && decide (i.1 < lo + n)).map fun i => s.pwr.sensors.get i,
      v ≤ k := by
    intro v hv
    obtain ⟨i, -, rfl⟩ := List.mem_map.1 hv
    exact h i
  refine foldl_max_le ?_ hall
  revert hall
  cases ((allFin 64).filter fun i => decide (lo ≤ i.1) && decide (i.1 < lo + n)).map fun i => s.pwr.sensors.get i with
  | nil => exact fun _ => h0
  | cons v l => exact fun hall => hall v (by simp)

/-- The emergency and its alert are over. -/
def heatEnded (s : State) : State :=
  (s.onPwr fun p => { p with emerg := false, alert := false }).onPins fun p => { p with thermAlertN := true }

/-- Every rail updated in the same way. -/
def eachRail (f : PwrPart → PwrPart) (s : State) : State := (allFin 4).foldl (fun s p => s.onRail p f) s

theorem eachRail_keeps (f : PwrPart → PwrPart) (s : State) : s.keeps [.parts] (eachRail f s) :=
  foldl_keeps _ (fun s p => onRail_keeps s p f) _ s

theorem eachRail_rail (f : PwrPart → PwrPart) (s : State) (p : PartId) : (eachRail f s).rail p = f (s.rail p) := by
  have key (l : List PartId) (hl : l.Nodup) (u : State) :
      (l.foldl (fun s p => s.onRail p f) u).rail p = if p ∈ l then f (u.rail p) else u.rail p := by
    induction l generalizing u with
    | nil => simp
    | cons q l ih =>
      obtain ⟨hq, hl⟩ := List.nodup_cons.1 hl
      rw [List.foldl_cons, ih hl]
      by_cases e : p = q
      · subst e
        rw [if_neg hq, rail_onRail_self, if_pos (by simp)]
      · rw [State.rail, prt_onRail_ne _ _ e]
        simp [e, State.rail]
  exact (key (allFin 4) (List.nodup_finRange 4) s).trans (if_pos (List.mem_finRange p))

theorem eachRail_pins (f : PwrPart → PwrPart) (s : State) : (eachRail f s).pins = s.pins :=
  foldl_pins (fun s p => s.onRail p f) (fun _ _ => rfl) _ s

theorem refreshDev_pins (s : State) : (refreshDev s).pins = s.pins := by
  unfold refreshDev
  split <;> rfl

theorem exec_thermalEmergencyClear_cool {s : State} (he : s.pwr.emerg = true) (hc : ∀ i, s.pwr.sensors.get i ≤ 2080) :
    exec .thermalEmergencyClear s = finish s (refreshDev (noteClear (eachRail (fun x => { x with forced := false }) (heatEnded s)))) := by
  show finish s (if s.pwr.emerg && decide (s.hottest 0 64 ≤ 2080) then
    refreshDev (noteClear (eachRail (fun x => { x with forced := false }) (heatEnded s))) else s) = _
  rw [he, decide_eq_true (hottest_le (by decide) hc)]
  rfl

/-! ### A sample of the sensors (R335, R482) -/

/-- No sensor reads more than the hottest. -/
theorem le_hotSensor (r : Vector Int 64) (i : Fin 64) : r.get i ≤ r.get (hotSensor r) := by
  have key (l : List (Fin 64)) (b : Fin 64) :
      r.get b ≤ r.get (l.foldl (fun b i => if r.get b < r.get i then i else b) b) ∧
      ∀ j ∈ l, r.get j ≤ r.get (l.foldl (fun b i => if r.get b < r.get i then i else b) b) := by
    induction l generalizing b with
    | nil => exact ⟨le_refl _, by simp⟩
    | cons k l ih =>
      obtain ⟨hb, hl⟩ := ih (if r.get b < r.get k then k else b)
      have hstep : r.get b ≤ r.get (if r.get b < r.get k then k else b) ∧
          r.get k ≤ r.get (if r.get b < r.get k then k else b) := by
        split <;> omega
      refine ⟨hstep.1.trans hb, fun j hj => ?_⟩
      rcases List.mem_cons.1 hj with rfl | hj
      · exact hstep.2.trans hb
      · exact hl j hj
  exact (key (allFin 64) 0).2 i (List.mem_finRange i)

/-- The readings, with the hottest of them. -/
def sampleRead (s : State) (r : Vector Int 64) : State :=
  (s.onPwr fun p => { p with
    sensors := r, tjMax := BitVec.ofInt 16 (r.get (hotSensor r)), hotSensor := BitVec.ofNat 6 (hotSensor r).1 }).onBoot fun b =>
    { b with odo := { b.odo with
      maxTj := if b.odo.maxTj.toInt < r.get (hotSensor r) then BitVec.ofInt 16 (r.get (hotSensor r)) else b.odo.maxTj } }

/-- The event of a sensor that reads out of range. -/
def sensorEvent (r : Vector Int 64) (s : State) (i : Fin 64) : State :=
  raiseCode s (srcId (i.1 / 32) 0x25 (i.1 % 32)) cTempMon none (monDetail (i.1 % 32) (twos 32 (r.get i)))

/-- The sensors that leave their range with a sample. -/
def sensorsLeft (s : State) (r : Vector Int 64) : List (Fin 64) :=
  (allFin 64).filter fun i => sensorBad r i && !sensorBad s.pwr.sensors i

theorem takeSample_eq (s : State) (r : Vector Int 64) : takeSample s r = (sensorsLeft s r).foldl (sensorEvent r)
    (if 2240 ≤ r.get (hotSensor r) ∧ !s.pwr.emerg then thermalTrip (sampleRead s r) else sampleRead s r) := rfl

theorem sampleRead_keeps (s : State) (r : Vector Int 64) : s.keeps [.pwr, .boot] (sampleRead s r) :=
  State.keeps_trans (State.keeps_mono (onPwr_keeps s _) (by simp)) (State.keeps_mono (onBoot_keeps _ _) (by simp))

/-! What a thermal emergency has set stays through the events of the sensors. -/

/-- The power block, the rails, the alert pin, the odometer, the clock and the commands to come are as before. -/
structure State.HeatHeld (s t : State) : Prop where
  pwr : t.pwr = s.pwr
  rail : ∀ p, t.rail p = s.rail p
  alert : t.pins.thermAlertN = s.pins.thermAlertN
  odo : t.boot.odo = s.boot.odo
  ticks : t.ticks = s.ticks
  pending : t.pending = s.pending

theorem State.HeatHeld.refl (s : State) : s.HeatHeld s := ⟨rfl, fun _ => rfl, rfl, rfl, rfl, rfl⟩

theorem State.HeatHeld.trans {s t u : State} (h : s.HeatHeld t) (h' : t.HeatHeld u) : s.HeatHeld u :=
  ⟨h'.pwr.trans h.pwr, fun p => (h'.rail p).trans (h.rail p), h'.alert.trans h.alert, h'.odo.trans h.odo, h'.ticks.trans h.ticks,
    h'.pending.trans h.pending⟩

theorem State.HeatHeld.foldl {α : Type} (f : State → α → State) (hf : ∀ (s : State) x, s.HeatHeld (f s x)) (l : List α) (s : State) :
    s.HeatHeld (l.foldl f s) := by
  induction l generalizing s with
  | nil => exact .refl s
  | cons x l ih => exact (hf s x).trans (ih _)

/-- The kinds of state in which the heat is held. -/
def heatKinds : List Kind := [.parts, .pwr, .pins, .boot, .ticks, .pending]

theorem State.HeatHeld.of_keeps {s t : State} {l : List Kind} (hk : s.keeps l t) (hl : ∀ k ∈ heatKinds, k ∉ l) : s.HeatHeld t :=
  ⟨hk .pwr (hl _ (by simp [heatKinds])), fun p => congrArg PartRt.pwr (keeps_prt hk (hl _ (by simp [heatKinds])) p),
    (congrArg Pins.thermAlertN (hk .pins (hl _ (by simp [heatKinds])) : t.pins.still = s.pins.still) : _),
    keeps_odo hk (hl _ (by simp [heatKinds])), hk .ticks (hl _ (by simp [heatKinds])), hk .pending (hl _ (by simp [heatKinds]))⟩

/-- Queues and hand-overs are no rail. -/
theorem rail_queueBlind : QueueBlind (fun _ : CoreRt => ()) PartRt.pwr := ⟨fun _ _ _ => rfl, fun _ _ => rfl, fun _ => rfl⟩

theorem faultCtx_heatHeld (s : State) (c : CtxId) (code : U16) : s.HeatHeld (faultCtx s c code true) := by
  have hk := faultCtx_keeps s c code true
  exact ⟨hk .pwr (by simp), (faultCtx_shows rail_queueBlind s c code true).prt,
    (congrArg Pins.thermAlertN (hk .pins (by simp) : _ = s.pins.still) : _), keeps_odo hk (by simp), hk .ticks (by simp),
    hk .pending (by simp)⟩

theorem reactDevice_heatHeld (s : State) : s.HeatHeld (reactDevice s) := ⟨rfl, fun _ => rfl, rfl, rfl, rfl, rfl⟩

theorem deviceFault_heatHeld (s : State) (code : U16) : s.HeatHeld (deviceFault s code) := by
  have htorn : s.HeatHeld (deviceTorn s code) :=
    ((reactDevice_heatHeld s).trans (.foldl _ (fun u c => faultCtx_heatHeld u c code) _ _)).trans
      (.of_keeps (deviceNoted_keeps _ _) (by simp [heatKinds]))
  rw [deviceFault_eq]
  split
  · exact htorn.trans (.of_keeps (enterSafe_keeps _) (by simp [heatKinds]))
  · exact htorn

theorem event_heatHeld (s : State) (src code : U16) (detail : Nat) : s.HeatHeld (event s src code none detail) :=
  .of_keeps (event_keeps_none s src code detail) (by simp [heatKinds])

theorem sensorEvent_heatHeld (r : Vector Int 64) (s : State) (i : Fin 64) : s.HeatHeld (sensorEvent r s i) := by
  have he := event_heatHeld s (srcId (i.1 / 32) 0x25 (i.1 % 32)) cTempMon (monDetail (i.1 % 32) (twos 32 (r.get i)))
  by_cases hx : s.err.expect = true
  · simpa only [sensorEvent, raiseCode, raiseFlt, hx, if_true, countIso, show cTempMon ≠ cIsolated by decide, if_false] using he
  · rw [sensorEvent, raiseCode_device s _ _ (by decide) (by decide) (by simpa using hx)]
    exact he.trans (deviceFault_heatHeld _ _)

/-! The trip itself: registers and pin, rails, frames under way, record and odometer. -/

/-- The registers and the pin of the emergency. -/
def heatBegun (s : State) : State :=
  (s.onPwr fun p => { p with emerg := true, alert := true, thermCnt := sat32 p.thermCnt, clearAt := none }).onPins fun p =>
    { p with thermAlertN := false }

/-- Divider 10, which the emergency forces. -/
def PwrPart.forceSlow (x : PwrPart) : PwrPart := { x.ask .d10 with forced := true, cooling := .d10 }

/-- The frames under way and those that wait for a verdict are marked. -/
def heatMarked (s : State) : State :=
  let mark : CtxRt → CtxRt := fun x => { x with
    frame := if x.frame.inFlight then { x.frame with thermal := true } else x.frame
    latched := x.latched.map fun l => { l with thermal := true } }
  let wait : TallyItem → TallyItem := fun i => { i with thermal := true }
  let s : State := { s with ctxs := s.ctxs.map mark }
  s.onTly fun t => { t with queue := t.queue.map wait }

/-- The odometer counts the emergency. -/
def heatCounted (s : State) : State := s.onBoot fun b => { b with odo := { b.odo with thermals := b.odo.thermals + 1 } }

theorem thermalTrip_eq (s : State) : thermalTrip s =
    refreshDev (heatCounted (event (heatMarked (eachRail PwrPart.forceSlow (heatBegun s))) srcAgg 0x0C08 none 0)) := rfl

theorem heatMarked_heatHeld (s : State) : s.HeatHeld (heatMarked s) := ⟨rfl, fun _ => rfl, rfl, rfl, rfl, rfl⟩

theorem PwrPart.forceSlow_div (x : PwrPart) : x.forceSlow.div = x.div.map fun _ => .d10 := by
  show (x.ask .d10).div = _
  rw [PwrPart.ask_div]
  congr 1
  funext c
  cases c <;> simp [divRank]

/-- What a sample leaves that begins an emergency. -/
structure State.HeatTripped (s t : State) : Prop where
  emerg : t.pwr.emerg = true
  alert : t.pwr.alert = true
  pin : t.pins.thermAlertN = false
  sensors : t.pwr.sensors = s.pwr.sensors
  count : t.pwr.thermCnt = sat32 s.pwr.thermCnt
  rail : ∀ p, t.rail p = (s.rail p).forceSlow
  odo : t.boot.odo.thermals = s.boot.odo.thermals + 1
  ticks : t.ticks = s.ticks
  pending : t.pending = s.pending

theorem State.HeatTripped.held {s t u : State} (h : s.HeatTripped t) (hh : t.HeatHeld u) : s.HeatTripped u :=
  ⟨by rw [hh.pwr, h.emerg], by rw [hh.pwr, h.alert], hh.alert.trans h.pin, by rw [hh.pwr, h.sensors], by rw [hh.pwr, h.count],
    fun p => (hh.rail p).trans (h.rail p), (congrArg Odo.thermals hh.odo).trans h.odo, hh.ticks.trans h.ticks,
    hh.pending.trans h.pending⟩

theorem heatCounted_tripped {s t : State} (hp : t.pwr = (heatBegun s).pwr) (hr : ∀ p, t.rail p = (s.rail p).forceSlow)
    (ha : t.pins.thermAlertN = false) (ho : t.boot.odo = s.boot.odo) (htk : t.ticks = s.ticks) (hpe : t.pending = s.pending) :
    s.HeatTripped (heatCounted t) := by
  refine ⟨?_, ?_, ha, ?_, ?_, hr, ?_, htk, hpe⟩
  · exact (congrArg PwrRegs.emerg hp : _ = (heatBegun s).pwr.emerg)
  · exact (congrArg PwrRegs.alert hp : _ = (heatBegun s).pwr.alert)
  · exact (congrArg PwrRegs.sensors hp : _ = (heatBegun s).pwr.sensors)
  · exact (congrArg PwrRegs.thermCnt hp : _ = (heatBegun s).pwr.thermCnt)
  · exact congrArg (fun o : Odo => o.thermals + 1) ho

theorem thermalTrip_tripped (s : State) : s.HeatTripped (thermalTrip s) := by
  have hrails := eachRail_keeps PwrPart.forceSlow (heatBegun s)
  have hheld := (heatMarked_heatHeld (eachRail PwrPart.forceSlow (heatBegun s))).trans (event_heatHeld _ srcAgg 0x0C08 0)
  rw [thermalTrip_eq]
  refine State.HeatTripped.held (heatCounted_tripped (hheld.pwr.trans (hrails .pwr (by simp))) (fun p => ?_) ?_
    (hheld.odo.trans (keeps_odo hrails (by simp) : _ = (heatBegun s).boot.odo)) (hheld.ticks.trans (hrails .ticks (by simp)))
    (hheld.pending.trans (hrails .pending (by simp)))) (.of_keeps (refreshDev_keeps _) (by simp [heatKinds]))
  · exact (hheld.rail p).trans (eachRail_rail _ _ p)
  · exact hheld.alert.trans (congrArg Pins.thermAlertN (eachRail_pins PwrPart.forceSlow (heatBegun s)))

theorem exec_tempSample (r : Vector Int 64) (s : State) : exec (.tempSample r) s = finish s (takeSample s r) := rfl

/-- A sample that no sensor leaves its range with, and that begins no emergency, is only kept. -/
theorem takeSample_quiet {s : State} {r : Vector Int 64} (h : s.pwr.emerg = true ∨ ∀ i, r.get i < 2240)
    (hbad : ∀ i, sensorBad r i = true → sensorBad s.pwr.sensors i = true) : takeSample s r = sampleRead s r := by
  have hnone : sensorsLeft s r = [] := by
    refine List.filter_eq_nil_iff.2 fun i _ hi => ?_
    rw [Bool.and_eq_true] at hi
    obtain ⟨hr, hs⟩ := hi
    rw [hbad i hr] at hs
    cases hs
  have hno : ¬ (2240 ≤ r.get (hotSensor r) ∧ !s.pwr.emerg) := by
    rintro ⟨hhot, he⟩
    rcases h with h | h
    · rw [h] at he
      cases he
    · exact absurd (h (hotSensor r)) (Int.not_lt.2 hhot)
  rw [takeSample_eq, hnone, if_neg hno]
  rfl

end Sys2Proof.Machine

open Sys2Proof Sys2Proof.Machine

/-- Settles O4: the trip sets every rail at once and the events of the sensors leave it (`State.HeatHeld`); the loop and the cap
lower one limit by a step, which the partition's divider follows at once (`chooseDiv_slows`). -/
theorem heatAndPowerThrottleTheClocks : Obligations.HeatAndPowerThrottleTheClocks := by
  refine ⟨fun s r he hhot => ?_, fun s r h hbad => ?_, fun s he hc => ?_, fun s d hr hhot hle a c ha hf hd hw => ?_,
    fun s w p c hcap hr hf hd hw => ?_, fun s w he hw => ?_⟩
  · obtain ⟨i, hi⟩ := hhot
    have htrip := (thermalTrip_tripped (sampleRead s r)).held (.foldl (sensorEvent r) (sensorEvent_heatHeld r) (sensorsLeft s r) _)
    have htake : takeSample s r = (sensorsLeft s r).foldl (sensorEvent r) (thermalTrip (sampleRead s r)) := by
      rw [takeSample_eq, if_pos ⟨hi.trans (le_hotSensor r i), by rw [he]; rfl⟩]
    obtain ⟨t, ht, hq⟩ := finish_next s (takeSample s r)
    rw [← htake] at htrip
    have h := htrip.held (.of_keeps hq.1 (by simp))
    exact ⟨t, (exec_tempSample r s).trans ht, h.emerg, h.alert, h.pin, h.sensors, h.count,
      fun p => ⟨by rw [h.rail]; rfl, by rw [h.rail, PwrPart.forceSlow_div]; rfl⟩, h.odo, h.ticks, h.pending⟩
  · obtain ⟨t, ht, hk, hq⟩ := finish_keeps (old := s) (sampleRead_keeps s r)
    have hpwr : t.pwr = (sampleRead s r).pwr := hq.1 .pwr (by simp)
    exact ⟨t, by rw [exec_tempSample, takeSample_quiet h hbad, ht], by rw [hpwr]; rfl, by rw [hpwr]; rfl, hk⟩
  · obtain ⟨x, hx⟩ := noteClear_pwr (eachRail (fun x => { x with forced := false }) (heatEnded s))
    have hrails := eachRail_keeps (fun x => { x with forced := false }) (heatEnded s)
    have hrefresh := refreshDev_keeps (noteClear (eachRail (fun x => { x with forced := false }) (heatEnded s)))
    have hended : s.keeps [.pwr, .pins] (heatEnded s) := by intro k hk; cases k <;> first | rfl | simp at hk
    have hnote := onPwr_keeps (eachRail (fun x => { x with forced := false }) (heatEnded s)) fun p => { p with clearAt := x }
    rw [← hx] at hnote
    obtain ⟨t, ht, hk, hq⟩ := finish_keeps (old := s) (l := [.parts, .pwr, .pins, .dev])
      (State.keeps_trans (State.keeps_mono hended (by simp)) (State.keeps_trans (State.keeps_mono hrails (by simp))
        (State.keeps_trans (State.keeps_mono hnote (by simp)) (State.keeps_mono hrefresh (by simp)))))
    have hpwr : t.pwr = { (heatEnded s).pwr with clearAt := x } := by
      rw [hq.1 .pwr (by simp), hrefresh .pwr (by simp), hx]
      exact congrArg (fun p : PwrRegs => { p with clearAt := x }) (hrails .pwr (by simp))
    refine ⟨t, (exec_thermalEmergencyClear_cool he hc).trans ht, by rw [hpwr]; rfl, by rw [hpwr]; rfl, ?_, fun p => ?_, hk⟩
    · refine (hq.pinsOf (·.thermAlertN) fun _ => rfl).trans ?_
      rw [refreshDev_pins, hx]
      exact congrArg Pins.thermAlertN (eachRail_pins (fun x => { x with forced := false }) (heatEnded s))
    · have hrail : t.rail p = (eachRail (fun x => { x with forced := false }) (heatEnded s)).rail p :=
        (hq.rail p).trans (congrArg PartRt.pwr ((keeps_prt hrefresh (by simp) p).trans (keeps_prt hnote (by simp) p)))
      rw [hrail, eachRail_rail]
  · subst ha
    obtain ⟨hheat, hdiv⟩ := loopMove_throttles hr hf hd hw
    have hab : partOf (2 * d.1) ≠ partOf (2 * d.1 + 1) := halves_ne d
    set a := partOf (2 * d.1)
    set b := partOf (2 * d.1 + 1)
    have hmoves := State.keeps_trans (loopMove_keeps a s a) (loopMove_keeps a (loopMove a s a) b)
    have hnote := loopNoted_keeps (loopMove a (loopMove a s a) b)
    obtain ⟨t, ht, hk, hq⟩ := finish_keeps (old := s) (l := [.parts, .pwr])
      (State.keeps_trans (State.keeps_mono hmoves (by simp)) (State.keeps_mono hnote (by simp)))
    have hsecond : (loopMove a (loopMove a s a) b).rail a = (loopMove a s a).rail a :=
      congrArg PartRt.pwr (loopMove_prt_ne a (loopMove a s a) hab)
    have hrail : t.rail a = (loopMove a s a).rail a :=
      (hq.rail a).trans ((congrArg PartRt.pwr (keeps_prt hnote (by simp) a)).trans hsecond)
    have hpick : t.pickDiv a = (loopMove a s a).pickDiv a :=
      pickDiv_keeps (State.keeps_trans (l := [.parts, .pwr]) (State.keeps_mono (loopMove_keeps a (loopMove a s a) b) (by simp))
        (State.keeps_trans (State.keeps_mono hnote (by simp)) (State.keeps_mono hq.1 (by simp)))) (by simp) (by simp)
        (congrArg PwrPart.loops hrail)
    have hlow := heat_le_pickDiv t a
    rw [hrail, hheat] at hlow
    refine ⟨t, (exec_pwpThermalStep_hot hr hhot hle).trans ht, ?_, by rw [hrail, hheat], by rw [hrail, hdiv, hpick], hlow,
      fun q hqa hqb => ?_, hk⟩
    · rw [hq.1 .pwr (by simp)]
      exact loopNoted_loop (p := a) (by rw [hsecond, hheat]; exact divDown_ne_d5 c)
    · rw [hq.prt, keeps_prt hnote (by simp), loopMove_prt_ne _ _ hqb, loopMove_prt_ne _ _ hqa]
  · have hheld : s.keeps [.pwr] (powerHeld (powerRead s w)) :=
      State.keeps_trans (onPwr_keeps s _) (powerHeld_keeps (powerRead s w))
    have hprt (q) : (powerHeld (powerRead s w)).prt q = s.prt q := keeps_prt hheld (by simp) q
    have hrail0 : (powerHeld (powerRead s w)).rail p = s.rail p := congrArg PartRt.pwr (hprt p)
    have hruns : (powerHeld (powerRead s w)).pwpRuns = true := by
      rw [State.pwpRuns, State.proc, hheld .fwp (by simp)]
      exact hr
    obtain ⟨hcapped, hdiv⟩ := capMove_throttles (p := p) (c := c) hruns (by rw [hrail0, hf]) (by rw [hrail0, hd]) (by rw [hrail0]; exact hw)
    obtain ⟨t, ht, hk, hq⟩ := finish_keeps (old := powerHeld (powerRead s w)) (l := [.parts, .pwr])
      (State.keeps_trans (State.keeps_mono hheld (by simp)) (State.keeps_mono (capMove_keeps (powerHeld (powerRead s w)) p) (by simp)))
    have hpwr : t.pwr = (powerHeld (powerRead s w)).pwr :=
      (hq.1 .pwr (by simp)).trans (capMove_keeps (powerHeld (powerRead s w)) p .pwr (by simp))
    have hpick : t.pickDiv p = (capMove (powerHeld (powerRead s w)) p).pickDiv p :=
      pickDiv_keeps hq.1 (by simp) (by simp) (congrArg PwrPart.loops (hq.rail p))
    have hlow := capped_le_pickDiv t p
    rw [hq.rail, hcapped] at hlow
    refine ⟨t, (exec_powerEmergency_over p hcap hr).trans ht, by rw [hpwr]; rfl, ?_, by rw [hq.rail, hcapped],
      by rw [hq.rail, hdiv, hpick], hlow, fun q hne => ?_, hk⟩
    · rw [hpwr, powerHeld_now]
      rfl
    · rw [hq.prt, capMove_prt_ne _ hne, hprt]
  · obtain ⟨x, hx⟩ := noteClear_pwr (powerEnded (powerRead s w))
    have hread : s.keeps [.pwr] (powerEnded (powerRead s w)) := State.keeps_trans (onPwr_keeps s _) (onPwr_keeps _ _)
    obtain ⟨t, ht, hk, hq⟩ := finish_keeps (old := powerRead s w) (l := [.pwr])
      (State.keeps_trans hread (onPwr_keeps (powerEnded (powerRead s w)) fun p => { p with clearAt := x }))
    have hpwr : t.pwr = { (powerEnded (powerRead s w)).pwr with clearAt := x } := hq.1 .pwr (by simp)
    exact ⟨t, by rw [exec_powerEmergencyClear_below he hw, hx, ht], by rw [hpwr]; rfl, by rw [hpwr]; rfl, by rw [hpwr]; rfl, hk⟩

end

section
/-!
PROOFS. The power domains: the idle entry into RET, the wake sources and the switch to the PLL-derived clock (R476 to R479, R528).
-/

namespace Sys2Proof.Machine

/-! ### Domains that a source wakes (R478) -/

theorem domPresent_below {part : Part} {n : Nat} (h : domPresent part n = true) : n < 64 := by
  by_contra hn
  simp [domPresent, domOf_absent (Nat.le_of_not_lt hn)] at h

/-- The memory interfaces are the IDs from 0x28 on, eight of them (R475). -/
theorem domOf_mem {n : Nat} {k : StackId} (h : domOf n = .mem k) : 0x28 ≤ n ∧ n < 0x30 := by
  by_contra hn
  have hno : ¬ (0x28 ≤ n ∧ n - 0x28 < 8) := by omega
  simp only [domOf, hno, dif_neg, not_false_eq_true] at h
  split_ifs at h
  split at h <;> cases h

/-- No stack is trained with a domain that is no memory interface. -/
theorem domTrained_other {n : Nat} (h : n < 0x28 ∨ 0x30 ≤ n) (s : State) : domTrained s n = s := by
  unfold domTrained
  split
  · next hk =>
    have := domOf_mem hk
    omega
  · rfl

/-- A wake source finds the domain: present, not fenced, in RET or OFF. -/
def State.wakes (s : State) (n : Nat) : Bool := domPresent s.part n && !s.domFenced n && s.domIsDown n

theorem wakeDom_up {s : State} {n : Nat} (src : Nat) (hp : s.pins.pads = .run) (h : s.wakes n = true) :
    wakeDom src s n = domUp s n src false := by
  simp only [State.wakes] at h
  simp only [wakeDom, hp, decide_true, Bool.true_and, h, if_true]

theorem wakeDom_stays {s : State} {n : Nat} (src : Nat) (h : s.pins.pads ≠ .run ∨ s.wakes n = false) : wakeDom src s n = s := by
  rcases h with h | h
  · simp [wakeDom, h]
  · simp only [State.wakes] at h
    simp [wakeDom, Bool.and_assoc, h]

theorem wakeDom_keeps (src : Nat) (s : State) (n : Nat) : s.keeps [.pwr, .mcs] (wakeDom src s n) := by
  unfold wakeDom
  split
  · exact domUp_keeps _ _ _ _
  · exact s.keeps_refl _

theorem wakeDom_keeps_other (src : Nat) {n : Nat} (h : n < 0x28 ∨ 0x30 ≤ n) (s : State) : s.keeps [.pwr] (wakeDom src s n) := by
  unfold wakeDom
  split
  · rw [domUp_eq, domTrained_other h]
    exact onDom_keeps s n _
  · exact s.keeps_refl _

theorem domUp_dom_self (s : State) {n : Nat} (hn : n < 64) (src : Nat) (pll : Bool) :
    (domUp s n src pll).dom n = (s.dom n).up src pll := by
  rw [domUp_eq, dom_onDom_self _ _ hn, dom_congr (domTrained_keeps s n .pwr (by simp))]

theorem domUp_dom_ne (s : State) {n m : Nat} (h : m ≠ n) (src : Nat) (pll : Bool) : (domUp s n src pll).dom m = s.dom m := by
  rw [domUp_eq, dom_onDom_ne _ _ h, dom_congr (domTrained_keeps s n .pwr (by simp))]

theorem wakeDom_dom_ne (src : Nat) (s : State) {n m : Nat} (h : m ≠ n) : (wakeDom src s n).dom m = s.dom m := by
  unfold wakeDom
  split
  · exact domUp_dom_ne s h src false
  · rfl

/-- A domain that is not down stays as it is, whichever domain a source wakes. -/
theorem wakeDom_dom_on (src : Nat) (s : State) (n : Nat) {m : Nat} (h : s.domIsDown m = false) :
    (wakeDom src s n).dom m = s.dom m := by
  by_cases hm : m = n
  · subst hm
    rw [wakeDom_stays src (.inr (by simp [State.wakes, h]))]
  · exact wakeDom_dom_ne src s hm

theorem domIsDown_congr {s t : State} {n : Nat} (h : t.dom n = s.dom n) : t.domIsDown n = s.domIsDown n := by
  simp only [State.domIsDown, h]

theorem keeps_pads {s t : State} {l : List Kind} (h : s.keeps l t) (hl : Kind.pins ∉ l) : t.pins.pads = s.pins.pads :=
  (congrArg Pins.pads (h .pins hl : t.pins.still = s.pins.still) : _)

theorem wakes_congr {s t : State} {l : List Kind} {n : Nat} (h : s.keeps l t) (hp : Kind.part ∉ l) (hc : Kind.cores ∉ l)
    (hd : t.dom n = s.dom n) : t.wakes n = s.wakes n := by
  have hpart : t.part = s.part := h .part hp
  simp only [State.wakes, hpart, domFenced_congr (h .cores hc), domIsDown_congr hd]

/-! ### The domains of a source, one after another (R479) -/

/-- The domains of a source. -/
def wakeAll (src : Nat) (l : List Nat) (s : State) : State := l.foldl (wakeDom src) s

theorem wakeAll_keeps (src : Nat) (l : List Nat) (s : State) : s.keeps [.pwr, .mcs] (wakeAll src l s) :=
  foldl_keeps _ (wakeDom_keeps src) l s

theorem wakeAll_keeps_other (src : Nat) {l : List Nat} (h : ∀ n ∈ l, n < 0x28 ∨ 0x30 ≤ n) (s : State) :
    s.keeps [.pwr] (wakeAll src l s) := by
  induction l generalizing s with
  | nil => exact s.keeps_refl _
  | cons n l ih =>
    exact State.keeps_trans (wakeDom_keeps_other src (h n (by simp)) s) (ih (fun m hm => h m (by simp [hm])) _)

theorem wakeAll_still (src : Nat) (l : List Nat) {s : State} (h : s.pins.pads ≠ .run) : wakeAll src l s = s := by
  induction l with
  | nil => rfl
  | cons n l ih =>
    rw [wakeAll, List.foldl_cons, wakeDom_stays src (.inl h)]
    exact ih

theorem wakeAll_dom_out (src : Nat) {l : List Nat} (s : State) {m : Nat} (h : m ∉ l) : (wakeAll src l s).dom m = s.dom m := by
  induction l generalizing s with
  | nil => rfl
  | cons n l ih =>
    obtain ⟨hn, hl⟩ := not_or.1 (mt List.mem_cons.2 h)
    exact (ih (wakeDom src s n) hl).trans (wakeDom_dom_ne src s hn)

theorem wakeAll_dom_on (src : Nat) (l : List Nat) (s : State) {m : Nat} (h : s.domIsDown m = false) :
    (wakeAll src l s).dom m = s.dom m := by
  induction l generalizing s with
  | nil => rfl
  | cons n l ih =>
    have hdom := wakeDom_dom_on src s n h
    exact (ih (wakeDom src s n) ((domIsDown_congr hdom).trans h)).trans hdom

/-- Each domain of the list that the source finds is up. -/
theorem wakeAll_dom_up (src : Nat) {l : List Nat} (hl : l.Nodup) (s : State) {m : Nat} (hp : s.pins.pads = .run) (hm : m ∈ l)
    (h : s.wakes m = true) : (wakeAll src l s).dom m = (s.dom m).up src false := by
  induction l generalizing s with
  | nil => cases hm
  | cons n l ih =>
    obtain ⟨hn, hl⟩ := List.nodup_cons.1 hl
    by_cases e : m = n
    · subst e
      have hlt : m < 64 := domPresent_below ((Bool.and_eq_true _ _ ▸ (Bool.and_eq_true _ _ ▸ h).1).1)
      refine (wakeAll_dom_out src (wakeDom src s m) hn).trans ?_
      rw [wakeDom_up src hp h, domUp_dom_self s hlt]
    · have hdom := wakeDom_dom_ne src s e
      have hk := wakeDom_keeps src s n
      refine (ih hl (wakeDom src s n) ((keeps_pads hk (by simp)).trans hp) ((List.mem_cons.1 hm).resolve_left e)
        ((wakes_congr hk (by simp) (by simp) hdom).trans h)).trans ?_
      rw [hdom]

theorem DomRt.up_woken {d : DomRt} (h : (d.state = .ret || d.state = .off) = true) (k : Nat) :
    (d.up k false).state = .onFio ∧ (d.up k false).lastWake = BitVec.ofNat 3 k ∧ (d.up k false).wakes = sat16 d.wakes := by
  simp only [DomRt.up, h, if_true, Bool.false_eq_true, if_false, and_self]

/-- What a source that finds the domains of a list leaves, from the state in which it wakes them. -/
theorem wakeAll_woken (src : Nat) {l : List Nat} (hl : l.Nodup) {s u t : State} (hp : u.pins.pads = .run) (hpart : u.part = s.part)
    (hcores : u.cores = s.cores) (hpwr : u.pwr = s.pwr) (ht : t.pwr = (wakeAll src l u).pwr) :
    (∀ n, n ∈ l → domPresent s.part n = true → s.domFenced n = false → s.domIsDown n = true →
      (t.dom n).state = .onFio ∧ (t.dom n).lastWake = BitVec.ofNat 3 src ∧ (t.dom n).wakes = sat16 (s.dom n).wakes) ∧
    (∀ n, (n ∉ l ∨ s.domIsDown n = false) → t.dom n = s.dom n) := by
  refine ⟨fun n hn hpres hf hd => ?_, fun n h => ?_⟩
  · have hwakes : u.wakes n = true := by
      simp only [State.wakes, hpart, domFenced_congr hcores, domIsDown_congr (dom_congr hpwr n), hpres, hf, hd, Bool.not_false,
        Bool.and_self]
    rw [dom_congr ht, wakeAll_dom_up src hl u hp hn hwakes, dom_congr hpwr]
    exact DomRt.up_woken hd src
  · rw [dom_congr ht, ← dom_congr hpwr n]
    rcases h with h | h
    · exact wakeAll_dom_out src u h
    · exact wakeAll_dom_on src l u ((domIsDown_congr (dom_congr hpwr n)).trans h)

theorem exec_domainWake (w : WakeSrc) (s : State) : exec (.domainWake w) s = finish s (wakeBy s w) := rfl

/-- WAKE_N driven. -/
def wakeDriven (low : Bool) (s : State) : State := s.onPins fun p => { p with wakeN := !low }

theorem wakeDriven_keeps (low : Bool) (s : State) : s.keeps [.pins] (wakeDriven low s) := by
  intro k hk; cases k <;> first | rfl | simp at hk

theorem wakeBy_wakeN (low : Bool) (s : State) :
    wakeBy s (.wakeN low) = if low then wakeAll 6 wakeOrder (wakeDriven low s) else wakeDriven low s := rfl

theorem wakeBy_csi (s : State) (d : DieId) (p : Fin 8) : wakeBy s (.csi d p) = wakeAll 1 [camDom d p.1, cruDom d] s := rfl

theorem wakeBy_ring_all (s : State) : wakeBy s .ring = wakeAll 4 [0x35, 0x36] s := rfl

theorem wakeBy_pcie (s : State) : wakeBy s .pcie = wakeAll 5 [0x34] s := rfl

theorem wakeBy_ethernet {s : State} {d : DieId} {m : MacId} {f : Bytes} {k : Nat} (h : s.ethWakes d m f = some k) :
    wakeBy s (.ethernet d m f) = wakeAll k [ethDom d] s := by
  simp only [wakeBy, h, wakeAll, List.foldl_cons, List.foldl_nil]

theorem wakeBy_ethernet_none {s : State} {d : DieId} {m : MacId} {f : Bytes} (h : s.ethWakes d m f = none) :
    wakeBy s (.ethernet d m f) = s := by
  simp only [wakeBy, h]

theorem camDom_above (d : DieId) (p : Nat) : 0x30 ≤ camDom d p := by unfold camDom; omega

theorem cruDom_above (d : DieId) : 0x30 ≤ cruDom d := by unfold cruDom; omega

theorem ethDom_above (d : DieId) : 0x30 ≤ ethDom d := by unfold ethDom; omega

theorem camDom_ne_cruDom (d : DieId) (p : Nat) : camDom d p ≠ cruDom d := by
  unfold camDom cruDom
  split <;> omega

theorem wakeOrder_nodup : wakeOrder.Nodup := by decide

/-- A source that wakes domains which are no memory interfaces: the effect of the command. -/
theorem domainWake_effect {s : State} {w : WakeSrc} {l : List Nat} {k : Nat} (hw : wakeBy s w = wakeAll k l s) (hl : l.Nodup)
    (ho : ∀ n ∈ l, n < 0x28 ∨ 0x30 ≤ n) (hp : s.pins.pads = .run) : ∃ t, exec (.domainWake w) s = .next t ∧
      (∀ n, n ∈ l → domPresent s.part n = true → s.domFenced n = false → s.domIsDown n = true →
        (t.dom n).state = .onFio ∧ (t.dom n).lastWake = BitVec.ofNat 3 k ∧ (t.dom n).wakes = sat16 (s.dom n).wakes) ∧
      (∀ n, (n ∉ l ∨ s.domIsDown n = false) → t.dom n = s.dom n) ∧ s.keeps [.pwr] t := by
  obtain ⟨t, ht, hk, hq⟩ := finish_keeps (old := s) (wakeAll_keeps_other k ho s)
  obtain ⟨hup, hrest⟩ := wakeAll_woken (s := s) k hl hp rfl rfl rfl (hq.1 .pwr (by simp))
  exact ⟨t, by rw [exec_domainWake, hw, ht], hup, hrest, hk⟩

/-- A device in reset wakes nothing. -/
theorem wakeBy_reset {s : State} (w : WakeSrc) (h : s.pins.pads ≠ .run) :
    wakeBy s w = match w with
      | .wakeN low => wakeDriven low s
      | _ => s := by
  cases w with
  | wakeN low =>
    have hd : (wakeDriven low s).pins.pads ≠ .run := h
    cases low
    · rfl
    · exact (wakeBy_wakeN true s).trans (wakeAll_still 6 wakeOrder hd)
  | ethernet d m f =>
    cases he : s.ethWakes d m f with
    | none => exact wakeBy_ethernet_none he
    | some k => exact (wakeBy_ethernet he).trans (wakeAll_still k _ h)
  | csi d p => exact (wakeBy_csi s d p).trans (wakeAll_still 1 _ h)
  | ring => exact (wakeBy_ring_all s).trans (wakeAll_still 4 _ h)
  | pcie => exact (wakeBy_pcie s).trans (wakeAll_still 5 _ h)

/-! ### Idle entry and clock switch (R476, R477, R479) -/

theorem exec_domainIdleTimeout_idle {s : State} {id : BitVec 6} (hp : domPresent s.part id.toNat = true)
    (hx : domFixed id.toNat = false) (hu : s.domInUse id.toNat = false) (hf : s.domFenced id.toNat = false)
    (hd : s.domIsDown id.toNat = false) (hr : s.pwpRuns = true) (hw : s.pins.wakeN = true) :
    exec (.domainIdleTimeout id) s = finish s (domDown s id.toNat true false) := by
  show execDomainIdleTimeout id s = _
  simp only [execDomainIdleTimeout, hp, hx, hu, hf, hd, hr, Bool.not_false, Bool.and_self, if_true, enterDom_stays hw]

theorem domDown_keeps (s : State) (n : Nat) (ret host : Bool) : s.keeps (.pwr :: domKinds) (domDown s n ret host) :=
  State.keeps_trans (State.keeps_mono (domLose_keeps s n ret) fun _ hk => List.mem_cons_of_mem _ hk)
    (State.keeps_mono (onDom_keeps _ n _) (by simp))

theorem domDown_dom_self (s : State) {n : Nat} (hn : n < 64) (ret host : Bool) :
    ((domDown s n ret host).dom n).state = if ret then .ret else .off := by
  rw [domDown, dom_onDom_self _ _ hn]

theorem domDown_dom_ne (s : State) {n m : Nat} (h : m ≠ n) (ret host : Bool) : (domDown s n ret host).dom m = s.dom m :=
  (dom_onDom_ne _ _ h).trans (dom_congr (domLose_keeps s n ret .pwr (by decide)) m)

theorem domDown_ret_mem (s : State) (n : Nat) (host : Bool) : (domDown s n true host).mem = s.mem :=
  (onDom_keeps _ n _ .mem (by simp)).trans (domLose_ret_mem s n)

/-- A woken domain runs on its PLL-derived clock. -/
def pllOn (s : State) (n : Nat) : State := s.onDom n fun d => { d with state := .onPll }

theorem clockSwitch_on {s : State} {n : Nat} (hd : (s.dom n).state = .onFio) (hp : s.pwr.pll = true) (hr : s.pwpRuns = true) :
    clockSwitch s n = pllOn s n := by
  simp only [clockSwitch, hd, hp, hr, decide_true, Bool.and_self, if_true]
  rfl

theorem exec_wakeClockSwitch (id : BitVec 6) (s : State) : exec (.wakeClockSwitch id) s = finish s (clockSwitch s id.toNat) := rfl

end Sys2Proof.Machine

open Sys2Proof Sys2Proof.Machine

/-- Settles O6: a wake takes the domains of its source one after another (`wakeAll_woken`); the idle entry and the clock switch
update one domain. -/
theorem domainsSleepAndWake : Obligations.DomainsSleepAndWake := by
  refine ⟨fun s id hp hx hu hf hd hr hw => ?_, fun s w l k hp hw => ?_, fun s => ?_, fun s w hp => ?_, fun s d m f h => ?_,
    fun s id hd hp hr => ?_⟩
  · obtain ⟨t, ht, hk, hq⟩ := finish_keeps (old := s) (domDown_keeps s id.toNat true false)
    have hdom (n) : t.dom n = (domDown s id.toNat true false).dom n := dom_congr (hq.1 .pwr (by simp)) n
    refine ⟨t, by rw [exec_domainIdleTimeout_idle hp hx hu hf hd hr hw, ht], ?_, fun n hn => ?_, ?_, hk .ctxs (by decide),
      hk .pending (by decide)⟩
    · rw [hdom, domDown_dom_self s id.isLt]
      rfl
    · rw [hdom, domDown_dom_ne s hn]
    · rw [hq.mem, domDown_ret_mem]
  · rcases hw with ⟨rfl, rfl, rfl⟩ | ⟨rfl, rfl, rfl⟩ | ⟨d, p, rfl, rfl, rfl⟩ | ⟨d, m, f, rfl, he, rfl⟩ | ⟨rfl, rfl, rfl⟩
    · exact domainWake_effect (wakeBy_pcie s) (by decide) (by decide) hp
    · exact domainWake_effect (wakeBy_ring_all s) (by decide) (by decide) hp
    · exact domainWake_effect (wakeBy_csi s d p) (by simp [camDom_ne_cruDom])
        (by simp [camDom_above, cruDom_above]) hp
    · exact domainWake_effect (wakeBy_ethernet he) (by simp) (by simp [ethDom_above]) hp
    · obtain ⟨t, ht, hk, hq⟩ := finish_keeps (old := s) (l := [.pwr, .mcs, .pins])
        (State.keeps_trans (State.keeps_mono (wakeDriven_keeps true s) (by simp))
          (State.keeps_mono (wakeAll_keeps 6 wakeOrder (wakeDriven true s)) (by simp)))
      obtain ⟨hup, hrest⟩ := wakeAll_woken (s := s) (u := wakeDriven true s) 6 wakeOrder_nodup hp rfl rfl rfl
        (hq.1 .pwr (by simp))
      exact ⟨t, by rw [exec_domainWake, wakeBy_wakeN, if_pos rfl, ht], hup, hrest, by rw [if_pos rfl]; exact hk⟩
  · obtain ⟨t, ht, hk, hq⟩ := finish_keeps (old := s) (wakeDriven_keeps false s)
    exact ⟨t, ht, (hq.pinsOf (·.wakeN) fun _ => rfl).trans rfl, hk⟩
  · rw [exec_domainWake, wakeBy_reset w hp]
    cases w with
    | wakeN low =>
      obtain ⟨t, ht, hk, -⟩ := finish_keeps (old := s) (wakeDriven_keeps low s)
      exact ⟨t, ht, hk⟩
    | csi | ethernet | ring | pcie =>
      obtain ⟨t, ht, hk, -⟩ := finish_keeps (old := s) (s.keeps_refl [])
      exact ⟨t, ht, hk⟩
  · obtain ⟨t, ht, hk, -⟩ := finish_keeps (old := s) (s.keeps_refl [])
    exact ⟨t, by rw [exec_domainWake, wakeBy_ethernet_none h, ht], hk⟩
  · obtain ⟨t, ht, hk, hq⟩ := finish_keeps (old := s) (onDom_keeps s id.toNat fun d => { d with state := .onPll })
    have hdom (n) : t.dom n = (pllOn s id.toNat).dom n := dom_congr (hq.1 .pwr (by simp)) n
    refine ⟨t, by rw [exec_wakeClockSwitch, clockSwitch_on hd hp hr]; exact ht, ?_, fun n hn => ?_, hk⟩
    · rw [hdom, pllOn, dom_onDom_self _ _ id.isLt]
    · rw [hdom, pllOn, dom_onDom_ne _ _ hn]

end

section
/-!
PROOFS. The host port: accesses that find PCIE down or off its clock, the heartbeat, the ring heads, `RING_CTRL` and the
interrupt that a ring owes (R478, R479, R494 to R500, R511).
-/

namespace Sys2Proof.Machine

/-! ### PCIE wakes for an access (R478, R479) -/

theorem pcieUp_keeps (s : State) : s.keeps [.pwr] (pcieUp s) := by
  unfold pcieUp clockSwitch
  split
  · exact State.keeps_trans (wakeDom_keeps_other 5 (by decide) s) (onDom_keeps _ _ _)
  · exact wakeDom_keeps_other 5 (by decide) s

theorem pcieUp_live {s : State} (h : s.domLive 0x34 = true) : pcieUp s = s := clockSwitch_live s _ _ h

theorem domLive_onPll {s : State} {n : Nat} (h : (s.dom n).state = .onPll) : s.domLive n = true := by
  simp [State.domLive, h]

theorem domLive_onFio {s : State} {n : Nat} (h : (s.dom n).state = .onFio) (hp : s.pwr.pll = false) : s.domLive n = true := by
  simp [State.domLive, h, hp]

/-- PCIE in RET or OFF is live once it is woken and the PWP has switched its clock, where the clocks of the device have switched. -/
theorem pcieUp_wakes {s : State} (hp : s.pins.pads = .run) (hd : s.domIsDown 0x34 = true) (hr : s.pwpRuns = true) :
    (pcieUp s).domLive 0x34 = true ∧ ((pcieUp s).dom 0x34).lastWake = 5 := by
  have hwakes : s.wakes 0x34 = true := by
    simp only [State.wakes, hd, Bool.and_true, Bool.and_eq_true, Bool.not_eq_true']
    exact ⟨rfl, rfl⟩
  have hw : wakeDom 5 s 0x34 = domUp s 0x34 5 false := wakeDom_up 5 hp hwakes
  have hdom := domUp_dom_self s (n := 0x34) (by decide) 5 false
  obtain ⟨hstate, hlast, -⟩ := DomRt.up_woken hd 5
  rw [← hdom] at hstate hlast
  cases hpll : (domUp s 0x34 5 false).pwr.pll with
  | true =>
    have hruns : (domUp s 0x34 5 false).pwpRuns = true := by
      rw [State.pwpRuns, State.proc, domUp_keeps s 0x34 5 false .fwp (by simp)]
      exact hr
    have hon : pcieUp s = pllOn (domUp s 0x34 5 false) 0x34 := by
      rw [pcieUp, hw, clockSwitch_on hstate hpll hruns]
    have hself : (pcieUp s).dom 0x34 = { (domUp s 0x34 5 false).dom 0x34 with state := .onPll } := by
      rw [hon]
      exact dom_onDom_self _ _ (by decide)
    exact ⟨domLive_onPll (by rw [hself]), by rw [hself]; exact hlast⟩
  | false =>
    have hsame : pcieUp s = domUp s 0x34 5 false := by
      rw [pcieUp, hw, clockSwitch, hpll, Bool.and_false, Bool.false_and, if_neg Bool.false_ne_true]
    rw [hsame]
    exact ⟨domLive_onFio hstate hpll, hlast⟩

/-- An access that reaches the device, once PCIE is live for it. -/
theorem hostAccess_up {s : State} (f : State → State) (hp : s.pins.pads = .run) (hl : (pcieUp s).domLive 0x34 = true) :
    hostAccess s f = f (pcieUp s).accessed := by
  have hpads := (keeps_pads (pcieUp_keeps s) (by simp)).trans hp
  simp only [hostAccess, hpads, hl, decide_true, Bool.and_self, if_true]
  rfl

/-- An access that does not reach the device leaves what the wake of PCIE leaves. -/
theorem hostAccess_lost {s : State} (f : State → State) (h : s.pins.pads ≠ .run ∨ (pcieUp s).domLive 0x34 = false) :
    hostAccess s f = pcieUp s := by
  have hpads := keeps_pads (pcieUp_keeps s) (by simp)
  simp only [hostAccess, hpads]
  rcases h with h | h
  · simp [h]
  · simp [h]

/-- The host's accesses. -/
theorem exec_access (s : State) {c : Instr} (h : (∃ v, c = .dbHeartbeat v) ∨ (∃ r v, c = .dbRingHead r v) ∨
    (∃ r v, c = .ringCtrlWrite r v) ∨ (∃ o n, c = .bar2Read o n) ∨ (∃ o d, c = .bar2Write o d) ∨ (∃ p, c = .pcieRejectedTlp p) ∨
    (∃ b o d, c = .registerWrite b o d) ∨ (mboxOf c).isSome = true) : ∃ f, exec c s = finish s (hostAccess s f) := by
  rcases h with ⟨v, rfl⟩ | ⟨r, v, rfl⟩ | ⟨r, v, rfl⟩ | ⟨o, n, rfl⟩ | ⟨o, d, rfl⟩ | ⟨p, rfl⟩ | ⟨b, o, d, rfl⟩ | hm
  · exact ⟨_, rfl⟩
  · exact ⟨_, rfl⟩
  · exact ⟨_, rfl⟩
  · exact ⟨_, rfl⟩
  · exact ⟨_, rfl⟩
  · exact ⟨_, rfl⟩
  · exact ⟨_, rfl⟩
  · obtain ⟨⟨op, tag, a⟩, hc⟩ := Option.isSome_iff_exists.1 hm
    exact ⟨_, exec_mbox hc s⟩

/-! ### The heartbeat (R500) -/

/-- The age of the heartbeat starts again. -/
def heartbeat (now : Nat) (s : State) : State := s.onHst fun h => { h with hbFrom := now }

theorem exec_dbHeartbeat (v : U32) (s : State) : exec (.dbHeartbeat v) s = finish s (hostAccess s (heartbeat s.ticks)) := rfl

theorem heartbeat_keeps (now : Nat) (s : State) : s.keeps [.hst] (heartbeat now s) := s.keeps_onHst _

/-- A heartbeat that reaches the device. -/
theorem dbHeartbeat_effect {s : State} (v : U32) (hp : s.pins.pads = .run) (hl : (pcieUp s).domLive 0x34 = true) :
    ∃ t, exec (.dbHeartbeat v) s = .next t ∧ t.hst.hbFrom = s.ticks ∧ t.hst.hostAbsent = s.hst.hostAbsent ∧
      (∀ n, t.dom n = (pcieUp s).dom n) ∧ t.domLive 0x34 = true ∧ (pcieUp s).keeps [.hst] t := by
  have hbeat := State.keeps_trans (accessed_keeps (pcieUp s)) (heartbeat_keeps s.ticks (pcieUp s).accessed)
  obtain ⟨t, ht, hk, hq⟩ := finish_keeps (old := s) hbeat
  have habsent : (pcieUp s).hst.hostAbsent = s.hst.hostAbsent :=
    keeps_hstOf (pcieUp_keeps s) (by simp) HstRegs.hostAbsent fun _ => rfl
  refine ⟨t, by rw [exec_dbHeartbeat, hostAccess_up _ hp hl, ht], hq.hstOf (fun h => h.hbFrom) fun _ => rfl,
    (hq.hstOf (fun h => h.hostAbsent) fun _ => rfl).trans habsent, fun n => dom_congr (hk .pwr (by simp)) n, ?_, hk⟩
  rw [domLive_congr (hk .pwr (by simp)), hl]

/-! ### Rings (R494 to R496, R499) -/

theorem onRing_keeps (s : State) (r : Fin 17) (f : RingRegs → RingRegs) : s.keeps [.hst] (s.onRing r f) := s.keeps_onHst _

theorem ring_onRing_ne (s : State) {r q : Fin 17} (f : RingRegs → RingRegs) (h : q ≠ r) : (s.onRing r f).ring q = s.ring q :=
  vget_set_ne _ _ _ _ r.2 h

/-- An access that updates one ring: that ring, the others, and the frame. -/
theorem hostAccess_onRing {s : State} {c : Instr} {r : Fin 17} {f : RingRegs → RingRegs} (hl : s.hostLive) (hr : r.1 < 16)
    (hc : exec c s = finish s (hostAccess s fun t => t.onRing r f)) : ∃ t, exec c s = .next t ∧ t.ring r = f (s.ring r) ∧
      (∀ q : Fin 17, q.1 < 16 → q ≠ r → t.ring q = s.ring q) ∧ s.keeps [.hst] t := by
  obtain ⟨t, ht, hk, hq⟩ := hostAccess_finish (f := fun t => t.onRing r f) hl hc (onRing_keeps s.accessed r f) (by simp)
  exact ⟨t, ht, (hq.2.1 r hr).trans (ring_onRing_self s.accessed r f),
    fun q hlt hne => (hq.2.1 q hlt).trans (ring_onRing_ne s.accessed f hne), hk⟩

theorem ringCtrl_enabled {r : RingRegs} (v : U32) (h : r.en = true) :
    (ringCtrl r v).sizeLog2 = r.sizeLog2 ∧ (ringCtrl r v).tail = r.tail := by
  simp [ringCtrl, h]

theorem ringCtrl_disabled {r : RingRegs} (v : U32) (h : r.en = false) :
    (ringCtrl r v).sizeLog2 = BitVec.ofNat 5 v.toNat ∧ (v.getLsbD 8 = true → (ringCtrl r v).tail = r.head) := by
  refine ⟨by simp [ringCtrl, h], fun he => ?_⟩
  simp only [ringCtrl, h, he, Bool.not_false, Bool.and_self, if_true]

/-- A vector that is enabled and not masked signals at once (R498). -/
theorem msixSignal_sends {s : State} {v : Fin 64} (he : s.hst.msixEn = true) (hm : (s.hst.msix.get v).2.2.getLsbD 0 = false) :
    msixSignal s v = s.emit (.msix (BitVec.ofNat 6 v.1) (s.hst.msix.get v).1 (s.hst.msix.get v).2.1) := by
  simp only [msixSignal, he, hm, Bool.not_true, Bool.or_self, Bool.false_eq_true, if_false]

/-- The records that a ring owes a signal for are signalled. -/
def ringSignalled (s : State) (r : Fin 17) : State := s.onRing r fun x => { x with unsignalled := 0 }

theorem exec_ringIrqTimeout_owed {s : State} {r : Fin 17} (hi : (s.ring r).irqEn = true) (hu : 0 < (s.ring r).unsignalled) :
    exec (.ringIrqTimeout r) s = finish s (msixSignal (ringSignalled s r) ⟨r.1, by omega⟩) := by
  show execRingIrqTimeout r s = _
  simp only [execRingIrqTimeout, hi, hu, decide_true, Bool.and_self, if_true]
  rfl

end Sys2Proof.Machine

open Sys2Proof Sys2Proof.Machine

/-- Settles O33: an access is its effect where PCIE is live for it (`hostAccess_up`) and the wake of PCIE alone where it is not
(`hostAccess_lost`); the ring registers are one update of one ring. -/
theorem doorbellsAndRingControl : Obligations.DoorbellsAndRingControl := by
  refine ⟨fun s v hp h => ?_, fun s c hc h => ?_, fun s r hr hi hu he hm => ?_, fun s v r hl hr => ⟨?_, ?_⟩⟩
  · rcases h with hl | ⟨hd, hruns⟩
    · have hup := pcieUp_live hl
      obtain ⟨t, ht, hfrom, habs, -, hlive, hk⟩ := dbHeartbeat_effect v hp (by rw [hup]; exact hl)
      rw [hup] at hk
      refine ⟨t, ht, hfrom, habs, hlive, fun hd => ?_, by rw [if_pos hl]; exact hk⟩
      rw [domIsDown_of_live hl] at hd
      cases hd
    · obtain ⟨hl, hlast⟩ := pcieUp_wakes hp hd hruns
      obtain ⟨t, ht, hfrom, habs, hdom, hlive, hk⟩ := dbHeartbeat_effect v hp hl
      have hnot : ¬ s.domLive 0x34 = true := fun hl' => by
        rw [domIsDown_of_live hl'] at hd
        cases hd
      exact ⟨t, ht, hfrom, habs, hlive, fun _ => by rw [hdom]; exact hlast, by
        rw [if_neg hnot]
        exact State.keeps_trans (State.keeps_mono (pcieUp_keeps s) (by simp)) (State.keeps_mono hk (by simp))⟩
  · obtain ⟨f, hf⟩ := exec_access s hc
    obtain ⟨t, ht, hk, -⟩ := finish_keeps (old := s) (pcieUp_keeps s)
    exact ⟨t, by rw [hf, hostAccess_lost f h, ht], hk⟩
  · have hsend := msixSignal_sends (s := ringSignalled s r) (v := ⟨r.1, by omega⟩) he hm
    have hquiet := emit_quiet (ringSignalled s r) (.msix (BitVec.ofNat 6 r.1) (s.hst.msix.get ⟨r.1, by omega⟩).1
      (s.hst.msix.get ⟨r.1, by omega⟩).2.1)
    obtain ⟨t, ht, hk, hq⟩ := finish_keeps (old := s) (State.keeps_trans (onRing_keeps s r fun x => { x with unsignalled := 0 })
      (State.keeps_mono hquiet.1 (by simp)))
    refine ⟨t, by rw [exec_ringIrqTimeout_owed hi hu, hsend]; exact ht, ?_, hq.2.2.1 _ (List.mem_cons_self ..), hk⟩
    rw [(hquiet.trans hq).2.1 r hr, ringSignalled, ring_onRing_self]
  · exact hostAccess_onRing (c := .dbRingHead r v) (f := fun x => { x with head := v }) hl hr rfl
  · obtain ⟨t, ht, hring, hne, hk⟩ := hostAccess_onRing (c := .ringCtrlWrite r v) (f := fun x => ringCtrl x v) hl hr rfl
    exact ⟨t, ht, by rw [hring]; rfl, by rw [hring]; rfl, by rw [hring]; rfl,
      fun he => by rw [hring]; exact ringCtrl_enabled v he, fun he => by rw [hring]; exact ringCtrl_disabled v he, hne, hk⟩

end

section
/-!
PROOFS. The feeder's rewrite of GEN: the layout of a descriptor, the linearity of CRC-16, and the verdict of the CRC (R49, R51, R450).
-/

namespace Sys2Proof.Machine

/-! ### Fields in a list of bytes -/

theorem slice_mid (x y z : Bytes) : slice (x ++ y ++ z) x.length y.length = y := by
  simp [slice]

theorem fld_mid (x y z : Bytes) : fld (x ++ y ++ z) x.length y.length = unle y := by
  simp [fld]

theorem unle_append (x y : Bytes) : unle (x ++ y) = unle x + 256 ^ x.length * unle y := by
  induction x with
  | nil => simp [unle]
  | cons b x ih =>
    simp only [List.cons_append, unle, ih, List.length_cons, Nat.pow_succ]
    ring

theorem unle_lt (x : Bytes) : unle x < 256 ^ x.length := by
  induction x with
  | nil => simp [unle]
  | cons b x ih =>
    have hb : b.toNat < 256 := b.isLt
    simp only [unle, List.length_cons, Nat.pow_succ]
    omega

/-- A byte that lies outside a replaced field. -/
theorem byteAt_replace (x z : Bytes) {y y' : Bytes} {i : Nat} (hl : y.length = y'.length)
    (hi : i < x.length ∨ x.length + y.length ≤ i) : byteAt (x ++ y ++ z) i = byteAt (x ++ y' ++ z) i := by
  simp only [byteAt, List.headD_eq_head?_getD, List.head?_drop]
  rcases hi with hi | hi
  · simp [List.getElem?_append, hi]
  · have hx : ¬ i < x.length := by omega
    have hy : ¬ i - x.length < y.length := by omega
    simp only [List.append_assoc, List.getElem?_append, hx, hl ▸ hy, if_false, hl]

/-! ### CRC-16 is linear (R51) -/

/-- One shift of CRC-16. -/
def crcShift (c : BitVec 16) : BitVec 16 := if c.msb then (c <<< 1) ^^^ 0x1021#16 else c <<< 1

theorem crcShift_xor (c e : BitVec 16) : crcShift (c ^^^ e) = crcShift c ^^^ crcShift e := by
  simp only [crcShift, BitVec.msb_xor, BitVec.shiftLeft_xor_distrib]
  cases c.msb <;> cases e.msb
  · rfl
  · exact BitVec.xor_assoc _ _ _
  · simp only [Bool.true_xor, Bool.not_false, if_true, Bool.false_eq_true, if_false]
    rw [BitVec.xor_assoc, BitVec.xor_comm (e <<< 1), BitVec.xor_assoc]
  · simp only [bne_self_eq_false, Bool.false_eq_true, if_false, if_true]
    rw [BitVec.xor_assoc, ← BitVec.xor_assoc 0x1021#16, BitVec.xor_comm 0x1021#16, BitVec.xor_assoc (e <<< 1), BitVec.xor_self,
      BitVec.xor_zero]

theorem crcShifts_xor (l : List Nat) (c e : BitVec 16) : l.foldl (fun c _ => crcShift c) (c ^^^ e) =
    l.foldl (fun c _ => crcShift c) c ^^^ l.foldl (fun c _ => crcShift c) e := by
  induction l generalizing c e with
  | nil => rfl
  | cons _ l ih => rw [List.foldl_cons, crcShift_xor, ih]; rfl

theorem crc16Step_xor (c e : BitVec 16) (b d : Byte) : crc16Step (c ^^^ e) (b ^^^ d) = crc16Step c b ^^^ crc16Step e d := by
  have hin : c ^^^ e ^^^ ((b ^^^ d).setWidth 16 <<< 8) = (c ^^^ (b.setWidth 16 <<< 8)) ^^^ (e ^^^ (d.setWidth 16 <<< 8)) := by
    rw [BitVec.setWidth_xor, BitVec.shiftLeft_xor_distrib]
    ac_rfl
  rw [crc16Step, hin]
  exact crcShifts_xor (List.range 8) _ _

theorem crc16Step_zero : crc16Step 0#16 0 = 0#16 := by decide

theorem crcFold_xor (l : Bytes) (x y : BitVec 16) :
    l.foldl crc16Step (x ^^^ y) = l.foldl crc16Step x ^^^ (zeros l.length).foldl crc16Step y := by
  induction l generalizing x y with
  | nil => rfl
  | cons b l ih =>
    have hstep := crc16Step_xor x y b 0
    rw [show b ^^^ (0 : Byte) = b from BitVec.xor_zero] at hstep
    rw [List.foldl_cons, hstep, ih]
    rfl

/-- Two bytes of a text change: its CRC changes by the linear CRC of their difference. -/
theorem crc16_replace (x z : Bytes) (a b a' b' : Byte) : crc16 (x ++ [a', b'] ++ z) =
    crc16 (x ++ [a, b] ++ z) ^^^ crcLin (zeros x.length ++ [a ^^^ a', b ^^^ b'] ++ zeros z.length) := by
  have hzeros (n : Nat) : (zeros n).foldl crc16Step 0#16 = 0#16 := by
    induction n with
    | zero => rfl
    | succ n ih => exact (congrArg (List.foldl crc16Step · (zeros n)) crc16Step_zero).trans ih
  have hself (p q : Byte) : p ^^^ (p ^^^ q) = q := by rw [← BitVec.xor_assoc, BitVec.xor_self, BitVec.zero_xor]
  have hpair (c : BitVec 16) : [a', b'].foldl crc16Step c =
      [a, b].foldl crc16Step c ^^^ [a ^^^ a', b ^^^ b'].foldl crc16Step 0#16 := by
    have h1 := crc16Step_xor c 0#16 a (a ^^^ a')
    have h2 := crc16Step_xor (crc16Step c a) (crc16Step 0#16 (a ^^^ a')) b (b ^^^ b')
    rw [BitVec.xor_zero, hself] at h1
    rw [hself, ← h1] at h2
    exact h2
  simp only [crc16, crcLin, List.foldl_append, hzeros]
  rw [hpair, crcFold_xor]

/-! ### The layout of a descriptor (R49) -/

/-- The low byte of GEN. -/
def genLow (g : BitVec 12) : Byte := g.setWidth 8

/-- The byte of SIG_INC and of the high bits of GEN. -/
def genHigh (b : Byte) (g : BitVec 12) : Byte := (b &&& 0xF0#8) ||| ((g >>> 8).setWidth 8)

/-- What the change of GEN changes in the CRC. -/
def genDiff (b : Bytes) (g : BitVec 12) : BitVec 16 :=
  crcLin (zeros 2 ++ [b.getD 2 0 ^^^ genLow g, b.getD 3 0 ^^^ genHigh (b.getD 3 0) g] ++ zeros 58)

/-- A descriptor with bytes 2 and 3, GEN, and bytes 14 and 15, CRC, replaced. -/
def descWith (b : Bytes) (gen crc : Bytes) : Bytes :=
  slice b 0 2 ++ gen ++ (slice b 4 8 ++ slice b 12 2) ++ crc ++ slice b 16 48

theorem slice_4_10 {b : Bytes} (h : b.length = 64) : slice b 4 10 = slice b 4 8 ++ slice b 12 2 := by
  rw [slice_inside (by omega), slice_inside (by omega), slice_inside (by omega), show (10 : Nat) = 8 + 2 from rfl, List.take_add,
    List.drop_drop]

theorem withGen_eq {b : Bytes} (h : b.length = 64) (g : BitVec 12) : withGen b g =
    descWith b [genLow g, genHigh (b.getD 3 0) g]
      [b.getD 14 0 ^^^ (genDiff b g).setWidth 8, b.getD 15 0 ^^^ (genDiff b g >>> 8).setWidth 8] := by
  rw [descWith, ← slice_4_10 h]
  rfl

theorem getD_pair {b : Bytes} {o : Nat} (h : o + 2 ≤ b.length) : [b.getD o 0, b.getD (o + 1) 0] = (b.drop o).take 2 := by
  apply List.ext_getElem?
  intro i
  rcases i with _ | _ | i
  · simp [List.getElem?_eq_getElem (show o < b.length by omega)]
  · simp [List.getElem?_eq_getElem (show o + 1 < b.length by omega)]
  · simp

theorem descWith_self {b : Bytes} (h : b.length = 64) :
    b = descWith b [b.getD 2 0, b.getD 3 0] [b.getD 14 0, b.getD 15 0] := by
  have hcut (n k : Nat) : b.drop n = (b.drop n).take k ++ b.drop (n + k) := by
    rw [← List.drop_drop, List.take_append_drop]
  rw [descWith, ← slice_4_10 h, getD_pair (by omega), getD_pair (by omega), slice_inside (by omega), slice_inside (by omega),
    slice_inside (by omega), List.append_assoc, List.append_assoc, List.append_assoc]
  rw [List.take_of_length_le (l := b.drop 16) (by simp [h]), ← hcut 14 2, ← hcut 4 10, ← hcut 2 2, ← hcut 0 2]
  rfl

theorem fld_descWith_word0 (b crc : Bytes) {gen : Bytes} (hg : gen.length = 2) : fld (descWith b gen crc) 0 4 = unle (slice b 0 2) + 65536 * unle gen := by
  have h := fld_mid [] (slice b 0 2 ++ gen) (slice b 4 8 ++ slice b 12 2 ++ crc ++ slice b 16 48)
  simp only [List.nil_append, List.length_append, slice_length, hg, List.length_nil, ← List.append_assoc, unle_append] at h
  rw [descWith]
  simp only [← List.append_assoc]
  exact h

section
variable (b : Bytes) {gen crc : Bytes} (hg : gen.length = 2) (hc : crc.length = 2)
include hg hc

/-- The CRC of a descriptor does not read its own field. -/
theorem descCrc_descWith : descCrc (descWith b gen crc) =
    crc16 (slice b 0 2 ++ gen ++ (slice b 4 8 ++ slice b 12 2 ++ slice b 16 48)) := by
  have hfirst := slice_mid [] (slice b 0 2 ++ gen ++ (slice b 4 8 ++ slice b 12 2)) (crc ++ slice b 16 48)
  have hlast := slice_mid (slice b 0 2 ++ gen ++ (slice b 4 8 ++ slice b 12 2) ++ crc) (slice b 16 48) []
  simp only [List.nil_append, List.append_nil, List.length_append, slice_length, hg, hc, List.length_nil, ← List.append_assoc]
    at hfirst hlast
  rw [descCrc, descWith]
  simp only [← List.append_assoc]
  rw [hfirst, hlast]

theorem fld_descWith_word3 : fld (descWith b gen crc) 12 4 = unle (slice b 12 2) + 65536 * unle crc := by
  have h := fld_mid (slice b 0 2 ++ gen ++ slice b 4 8) (slice b 12 2 ++ crc) (slice b 16 48)
  simp only [List.length_append, slice_length, hg, hc, ← List.append_assoc, unle_append] at h
  rw [descWith]
  simp only [← List.append_assoc]
  exact h

/-- A byte that is of neither field. -/
theorem byteAt_descWith {gen' crc' : Bytes} (hg' : gen'.length = 2) (hc' : crc'.length = 2) {i : Nat}
    (hi : i ≠ 2 ∧ i ≠ 3 ∧ i ≠ 14 ∧ i ≠ 15) : byteAt (descWith b gen crc) i = byteAt (descWith b gen' crc') i := by
  have hgen := byteAt_replace (slice b 0 2) (slice b 4 8 ++ slice b 12 2 ++ crc ++ slice b 16 48) (hg.trans hg'.symm) (i := i)
    (by rw [slice_length, hg]; omega)
  have hcrc := byteAt_replace (slice b 0 2 ++ gen' ++ (slice b 4 8 ++ slice b 12 2)) (slice b 16 48) (hc.trans hc'.symm) (i := i)
    (by simp only [List.length_append, slice_length, hg', hc]; omega)
  simp only [← List.append_assoc] at hgen hcrc
  simp only [descWith, ← List.append_assoc]
  exact hgen.trans hcrc

end

theorem unle_pair (x y : Byte) : unle [x, y] = x.toNat + 256 * y.toNat := by
  simp [unle]

/-- GEN and SIG_INC of a descriptor are read from its bytes 2 and 3. -/
theorem hdrOf_gen_sigInc (b : Bytes) (x y : Byte) (crc : Bytes) :
    (hdrOf (descWith b [x, y] crc)).gen = BitVec.ofNat 12 (x.toNat + 256 * (y.toNat % 16)) ∧
    (hdrOf (descWith b [x, y] crc)).sigInc = y.toNat / 16 := by
  have hw := fld_descWith_word0 b crc (gen := [x, y]) rfl
  have hlo : unle (slice b 0 2) < 256 ^ 2 := by simpa using unle_lt (slice b 0 2)
  have hx : x.toNat < 256 := x.isLt
  have hy : y.toNat < 256 := y.isLt
  rw [unle_pair] at hw
  simp only [hdrOf, bits, hw, Nat.shiftRight_eq_div_pow]
  refine ⟨congrArg (BitVec.ofNat 12) ?_, ?_⟩
  · omega
  · omega

/-- The CRC field of a descriptor is read from its bytes 14 and 15. -/
theorem hdrOf_crc (b : Bytes) {gen : Bytes} (hg : gen.length = 2) (x y : Byte) :
    (hdrOf (descWith b gen [x, y])).crc = y ++ x := by
  have hw := fld_descWith_word3 b hg (crc := [x, y]) rfl
  have hlo : unle (slice b 12 2) < 256 ^ 2 := by simpa using unle_lt (slice b 12 2)
  have hx : x.toNat < 256 := x.isLt
  have hy : y.toNat < 256 := y.isLt
  rw [unle_pair] at hw
  apply BitVec.eq_of_toNat_eq
  simp only [hdrOf, bits, hw, Nat.shiftRight_eq_div_pow, BitVec.toNat_ofNat, BitVec.toNat_append]
  rw [← Nat.shiftLeft_add_eq_or_of_lt hx, Nat.shiftLeft_eq]
  omega

theorem append_xor (x y : Byte) (d : BitVec 16) :
    (y ^^^ (d >>> 8).setWidth 8) ++ (x ^^^ d.setWidth 8) = (y ++ x) ^^^ d := by
  ext i hi
  simp only [BitVec.getElem_append, BitVec.getElem_xor, BitVec.getElem_setWidth, BitVec.getLsbD_ushiftRight]
  split
  · simp [BitVec.getLsbD_eq_getElem hi]
  · rw [show 8 + (i - 8) = i by omega, BitVec.getLsbD_eq_getElem hi]

/-- The high byte keeps SIG_INC and takes the four high bits of GEN. -/
theorem genHigh_toNat (b : Byte) (g : BitVec 12) : (genHigh b g).toNat = b.toNat / 16 * 16 + g.toNat / 256 := by
  have hmask : ∀ b : Byte, (b &&& 0xF0#8).toNat = 2 ^ 4 * (b.toNat / 16) := by decide
  have hg : g.toNat < 4096 := g.isLt
  have hlow : ((g >>> 8).setWidth 8).toNat = g.toNat / 256 := by
    rw [BitVec.toNat_setWidth, BitVec.toNat_ushiftRight, Nat.shiftRight_eq_div_pow]
    omega
  rw [genHigh, BitVec.toNat_or, hmask, hlow, ← Nat.two_pow_add_eq_or_of_lt (by omega)]
  omega

theorem genLow_toNat (g : BitVec 12) : (genLow g).toNat = g.toNat % 256 := by
  rw [genLow, BitVec.toNat_setWidth]

end Sys2Proof.Machine

open Sys2Proof Sys2Proof.Machine

/-- Settles O20: the rewritten bytes change the CRC by `genDiff`, and the CRC field by the same (`append_xor`), for CRC-16 is linear
(`crc16_replace`). -/
theorem genRewriteKeepsTheCrcVerdict : Obligations.GenRewriteKeepsTheCrcVerdict := by
  intro b g h
  have hnew := withGen_eq h g
  have hold := descWith_self h
  have hg : g.toNat < 4096 := g.isLt
  have hhigh := genHigh_toNat (b.getD 3 0) g
  have hlow := genLow_toNat g
  have hb3 : (b.getD 3 0).toNat < 256 := (b.getD 3 0).isLt
  refine ⟨?_, ?_, fun i hi h2 h3 h14 h15 => ?_, ?_⟩
  · rw [hnew, (hdrOf_gen_sigInc b _ _ _).1, hhigh, hlow]
    apply BitVec.eq_of_toNat_eq
    rw [BitVec.toNat_ofNat]
    omega
  · have hcrc : descCrc (withGen b g) = descCrc b ^^^ genDiff b g := by
      rw [hnew, descCrc_descWith b rfl rfl, crc16_replace _ _ (b.getD 2 0) (b.getD 3 0),
        ← descCrc_descWith b (crc := [b.getD 14 0, b.getD 15 0]) rfl rfl, ← hold]
      simp only [List.length_append, slice_length]
      rfl
    have hfield : (hdrOf (withGen b g)).crc = (hdrOf b).crc ^^^ genDiff b g := by
      have hcrcOld := hdrOf_crc b (gen := [b.getD 2 0, b.getD 3 0]) rfl (b.getD 14 0) (b.getD 15 0)
      rw [← hold] at hcrcOld
      rw [hnew, hdrOf_crc b rfl, append_xor, hcrcOld]
    rw [hcrc, hfield, BitVec.xor_left_inj]
  · have hbyte := byteAt_descWith b (gen := [genLow g, genHigh (b.getD 3 0) g]) (gen' := [b.getD 2 0, b.getD 3 0])
      (crc := [b.getD 14 0 ^^^ (genDiff b g).setWidth 8, b.getD 15 0 ^^^ (genDiff b g >>> 8).setWidth 8])
      (crc' := [b.getD 14 0, b.getD 15 0]) rfl rfl rfl rfl ⟨h2, h3, h14, h15⟩
    rwa [← hold, ← hnew] at hbyte
  · have hsig := (hdrOf_gen_sigInc b (b.getD 2 0) (b.getD 3 0) [b.getD 14 0, b.getD 15 0]).2
    rw [← hold] at hsig
    rw [hnew, (hdrOf_gen_sigInc b _ _ _).2, hsig, hhigh]
    omega

end

section
/-!
PROOFS. The recorder's freeze and release (R394, R404), and the comparison of lock-step messages with the re-arming of a slot (R402,
R405).
-/

namespace Sys2Proof.Machine

/-! ### A change of the recorder's state (R386, R394) -/

/-- The recorder's registers in a new state, at the time of the change. -/
def RecRegs.entered (r : RecRegs) (v : RecState) (now : U64) : RecRegs :=
  if v = .frozen then { r with state := v, tFreeze := now } else { r with state := v }

theorem onRec_keeps (s : State) (f : RecRegs → RecRegs) : s.keeps [.recd] (s.onRec f) := by
  intro k hk; cases k <;> first | rfl | simp at hk

theorem writeRecHeader_effect (s : State) : s.keeps [.mem, .bad] (writeRecHeader s) ∧ (writeRecHeader s).recd = s.recd := by
  unfold writeRecHeader
  split
  · exact ⟨s.keeps_refl _, rfl⟩
  · exact ⟨fun k hk => by cases k <;> first | rfl | simp at hk, rfl⟩

/-- The state with its registers set, before the header is written. -/
def recEntered (s : State) (v : RecState) : State := s.onRec fun r => r.entered v s.now64

theorem setRecState_eq (s : State) (v : RecState) : setRecState s v = if v = .frozen
    then svpIrq (writeRecHeader (recEntered s v)) 4 ((recHeader (writeRecHeader (recEntered s v))).take 32)
    else writeRecHeader (recEntered s v) := by
  cases v <;> rfl

/-- A change of state sets the recorder's registers and rewrites its header. -/
theorem setRecState_effect (s : State) (v : RecState) : s.keeps [.recd, .mem, .bad] (setRecState s v) ∧
    (setRecState s v).recd = s.recd.entered v s.now64 := by
  obtain ⟨hk, hr⟩ := writeRecHeader_effect (recEntered s v)
  have hkeeps : s.keeps [.recd, .mem, .bad] (writeRecHeader (recEntered s v)) :=
    State.keeps_trans (State.keeps_mono (onRec_keeps s _) (by simp)) (State.keeps_mono hk (by simp))
  rw [setRecState_eq]
  split
  · have hq := svpIrq_quiet (writeRecHeader (recEntered s v)) 4 ((recHeader (writeRecHeader (recEntered s v))).take 32)
    exact ⟨State.keeps_trans hkeeps (State.keeps_mono hq.1 (by simp)), (hq.1 .recd (by simp)).trans hr⟩
  · exact ⟨hkeeps, hr⟩

/-- Where the post window is cut short, the recorder is frozen with POST_CUT. -/
theorem earlyFreeze_effect (s : State) : s.keeps [.recd, .mem, .bad] (earlyFreeze s) ∧
    ((earlyFreeze s).recd = s.recd ∨ (earlyFreeze s).recd = ({ s.recd with postCut := true }).entered .frozen s.now64) := by
  unfold earlyFreeze
  split
  · obtain ⟨hk, hr⟩ := setRecState_effect (s.onRec fun r => { r with postCut := true }) .frozen
    exact ⟨State.keeps_trans (State.keeps_mono (onRec_keeps s _) (by simp)) hk, .inr hr⟩
  · exact ⟨s.keeps_refl _, .inl rfl⟩

/-- A region without blocks holds none that is retained. -/
theorem earlyFreeze_without_blocks {s : State} (h : s.recd.nblk = 0) : earlyFreeze s = s := by
  simp [earlyFreeze, h, nextBlocks]

/-! ### Trigger and release (R394, R404) -/

/-- The registers of a host trigger. -/
def hostTriggered (s : State) : State :=
  s.onRec fun r => { r with
    tTrig := s.now64, cause := 3, causeId := 0, keep := (keepOf s).1, preShort := (keepOf s).2, postCut := false, extra := 0 }

theorem hostFreeze_recording {s : State} (hh : s.hostRec = true) (hr : s.recd.state = .recording) :
    hostFreeze s = earlyFreeze (setRecState (hostTriggered s) .postWindow) := by
  simp only [hostFreeze, hh, if_true, recTrigger, hr]
  rfl

/-- The host's trigger: its registers, and the post window or a freeze at once. -/
theorem hostFreeze_effect {s : State} (hh : s.hostRec = true) (hr : s.recd.state = .recording) :
    s.keeps [.recd, .mem, .bad] (hostFreeze s) ∧
    ((hostFreeze s).recd.state = .postWindow ∨ (hostFreeze s).recd.state = .frozen ∧ (hostFreeze s).recd.postCut = true) ∧
    (s.recd.nblk = 0 → (hostFreeze s).recd.state = .postWindow) ∧ (hostFreeze s).recd.cause = 3 ∧
    (hostFreeze s).recd.tTrig = s.now64 ∧ (hostFreeze s).recd.extra = 0 := by
  obtain ⟨hk, hw⟩ := setRecState_effect (hostTriggered s) .postWindow
  obtain ⟨hk', hw'⟩ := earlyFreeze_effect (setRecState (hostTriggered s) .postWindow)
  have hkeeps := State.keeps_trans (State.keeps_mono (onRec_keeps s _) (by simp)) (State.keeps_trans hk hk')
  rw [hostFreeze_recording hh hr]
  refine ⟨hkeeps, ?_, fun hn => ?_, ?_⟩
  · rcases hw' with h | h
    · exact .inl (by rw [h, hw]; rfl)
    · exact .inr ⟨by rw [h]; rfl, by rw [h]; rfl⟩
  · rw [earlyFreeze_without_blocks (by rw [hw]; exact hn), hw]
    rfl
  · rcases hw' with h | h
    · rw [h, hw]
      exact ⟨rfl, rfl, rfl⟩
    · rw [h, hw]
      exact ⟨rfl, rfl, rfl⟩

/-- The taps leave their blocks. -/
def tapsLeave (s : State) : State := { s with io := s.io.map fun d => { d with tapBlock := none } }

theorem tapsLeave_die (s : State) (d : DieId) : ((tapsLeave s).die d).tapBlock = none := by
  simp [tapsLeave, State.die]

theorem tapsLeave_keeps (s : State) : s.keeps [.io] (tapsLeave s) := by
  intro k hk; cases k <;> first | rfl | simp at hk

/-- The registers after a release, before the state changes. -/
def recReleased (s : State) : State := (tapsLeave s).onRec fun r => { r with cause := 0, ckptBlock := none }

theorem hostRelease_frozen {s : State} (hh : s.hostRec = true) (hr : s.recd.state = .frozen) :
    hostRelease s = setRecState (recReleased s) .recording := by
  simp only [hostRelease, hh, hr, decide_true, Bool.and_self, if_true]
  rfl

theorem exec_recCmdFreeze (s : State) : exec .recCmdFreeze s = finish s (hostFreeze s) := rfl

theorem exec_recCmdRelease (s : State) : exec .recCmdRelease s = finish s (hostRelease s) := rfl

theorem exec_recorderPostWindowEnd {s : State} (h : s.recd.state = .postWindow) :
    exec .recorderPostWindowEnd s = finish s (setRecState s .frozen) := by
  show execRecorderPostWindowEnd s = _
  simp only [execRecorderPostWindowEnd, postEnds, h, if_true]

/-! ### Lock-step slots (R402, R405) -/

theorem onLks_keeps (s : State) (i : Fin 4) (f : LksRegs → LksRegs) : s.keeps [.lks] (s.onLks i f) := by
  intro k hk; cases k <;> first | rfl | simp at hk

theorem lks_onLks_self (s : State) (i : Fin 4) (f : LksRegs → LksRegs) : (s.onLks i f).lks.get i = f (s.lks.get i) :=
  vget_set_self _ _ _ i.2

theorem lks_onLks_ne (s : State) {i k : Fin 4} (f : LksRegs → LksRegs) (h : k ≠ i) : (s.onLks i f).lks.get k = s.lks.get k :=
  vget_set_ne _ _ _ _ i.2 h

/-- A command that ends with one slot updated: the slot, the others, and what else stays. -/
theorem finish_onLks (s : State) (i : Fin 4) (f : LksRegs → LksRegs) : ∃ t, finish s (s.onLks i f) = .next t ∧
    t.lks.get i = f (s.lks.get i) ∧ (∀ k, k ≠ i → t.lks.get k = s.lks.get k) ∧ s.keeps [.lks] t := by
  obtain ⟨t, ht, hk, hq⟩ := finish_keeps (old := s) (onLks_keeps s i f)
  have hlks : t.lks = (s.onLks i f).lks := hq.1 .lks (by simp)
  exact ⟨t, ht, by rw [hlks, lks_onLks_self], fun k hne => by rw [hlks, lks_onLks_ne s f hne], hk⟩

/-- A slot takes a message of the partner. -/
def LksRegs.taken (m : LksMsg) (r : LksRegs) : LksRegs := lksTake r false m

theorem exec_lksMessage {s : State} {c : CtxId} {i : Fin 4} (h : s.lksSlot c = some i) (m : Bytes) :
    exec (.lksMessage c m) s = finish s (s.onLks i (LksRegs.taken (lksOf m))) := by
  show execLksMessage c m s = _
  simp only [execLksMessage, h]
  rfl

theorem taken_waits {r : LksRegs} {m : LksMsg} (ha : r.state = .armed) (hs : r.suspended ≠ some m.1)
    (hf : r.mine.find? (sameKey m) = none) (hn : r.mine.length + r.theirs.length < 8192) :
    r.taken m = { r with theirs := r.theirs ++ [m] } := by
  simp [LksRegs.taken, lksTake, ha, hs, hf, Nat.not_le.2 hn]

/-- A slot whose message store no longer holds the messages that one was compared with. -/
def LksRegs.matched (r : LksRegs) (m : LksMsg) : LksRegs := { r with mine := r.mine.filter fun x => !sameKey m x }

theorem taken_compares {r : LksRegs} {m o : LksMsg} (ha : r.state = .armed) (hs : r.suspended ≠ some m.1)
    (hf : r.mine.find? (sameKey m) = some o) : r.taken m = lksCompare (r.matched m) m o := by
  simp [LksRegs.taken, lksTake, ha, hs, hf, LksRegs.matched]

theorem lksCompare_cmp (r : LksRegs) (a b : LksMsg) : (lksCompare r a b).cmp = r.cmp + 1 := by
  simp only [lksCompare]
  split
  · rfl
  · split <;> rfl

theorem lksCompare_equal {r : LksRegs} {a b : LksMsg} (h : a.2.2.2 = b.2.2.2) :
    (lksCompare r a b).state = r.state ∧ (lksCompare r a b).mismatch = r.mismatch := by
  simp only [lksCompare, h, if_true, and_self]

/-- The first difference of an armed slot is latched. -/
theorem lksCompare_differs {r : LksRegs} {a b : LksMsg} (ha : r.state = .armed) (h : a.2.2.2 ≠ b.2.2.2) :
    (lksCompare r a b).state = .mismatch ∧ (lksCompare r a b).mismatch = sat32 r.mismatch ∧
    (lksCompare r a b).firstQseq = a.2.2.1 ∧ (lksCompare r a b).firstKey = a.2.1.setWidth 7 ∧
    (lksCompare r a b).firstNs = BitVec.ofNat 32 (a.1.toNat % 2 ^ 30) := by
  simp only [lksCompare, h, if_false, ha, ne_eq, not_true_eq_false, and_self]

/-- A slot armed anew. -/
def LksRegs.armedAs (v : LksState) (r : LksRegs) : LksRegs :=
  { r with state := v, mine := [], theirs := [], stopAfter := none, suspended := none }

theorem exec_lksCtrlRearm {s : State} {c : CtxId} {i : Fin 4} (hi : s.lksSlot c = some i) (hc : (s.lks.get i).ctx = some c)
    (h : (s.lks.get i).state = .mismatch ∨ (s.lks.get i).state = .peerLost) :
    exec (.lksCtrlRearm i) s = finish s (s.onLks i (LksRegs.armedAs (lksArm s c))) := by
  have hcond : (s.lks.get i).state = .mismatch ∨ (s.lks.get i).state = .peerLost ∨ (s.lks.get i).suspended.isSome :=
    h.imp_right .inl
  show finish s (lksRearm s i) = _
  simp only [lksRearm, hc, lksStart, hi]
  rw [if_pos hcond]
  rfl

end Sys2Proof.Machine

open Sys2Proof Sys2Proof.Machine

/-- Settles O50: trigger, window end and release are each one change of the recorder's state (`setRecState_effect`), the trigger
with the cut of its window (`earlyFreeze_effect`). -/
theorem recorderFreezesAndIsReleased : Obligations.RecorderFreezesAndIsReleased := by
  intro s
  refine ⟨fun hh hr => ?_, fun hr => ?_, fun hh hr => ?_⟩
  · obtain ⟨hkeeps, hstate, hnone, hcause, htrig, hextra⟩ := hostFreeze_effect hh hr
    obtain ⟨t, ht, hk, hq⟩ := finish_keeps (old := s) hkeeps
    have hrecd : t.recd = (hostFreeze s).recd := hq.1 .recd (by simp)
    rw [← hrecd] at hstate hnone hcause htrig hextra
    exact ⟨t, (exec_recCmdFreeze s).trans ht, hstate, hnone, hcause, htrig, hextra, hk⟩
  · obtain ⟨hkeeps, hrecd⟩ := setRecState_effect s .frozen
    obtain ⟨t, ht, hk, hq⟩ := finish_keeps (old := s) hkeeps
    have hrec : t.recd = s.recd.entered .frozen s.now64 := (hq.1 .recd (by simp)).trans hrecd
    exact ⟨t, (exec_recorderPostWindowEnd hr).trans ht, by rw [hrec]; rfl, by rw [hrec]; rfl, by rw [hrec]; rfl, hk⟩
  · obtain ⟨hkeeps, hrecd⟩ := setRecState_effect (recReleased s) .recording
    have hleft := State.keeps_trans (l := [.recd, .io]) (State.keeps_mono (tapsLeave_keeps s) (by simp))
      (State.keeps_mono (onRec_keeps (tapsLeave s) fun r => { r with cause := 0, ckptBlock := none }) (by simp))
    obtain ⟨t, ht, hk, hq⟩ := finish_keeps (old := s) (l := [.recd, .mem, .bad, .io])
      (State.keeps_trans (State.keeps_mono hleft (by simp)) (State.keeps_mono hkeeps (by simp)))
    have hrec : t.recd = (recReleased s).recd.entered .recording (recReleased s).now64 := (hq.1 .recd (by simp)).trans hrecd
    refine ⟨t, by rw [exec_recCmdRelease, hostRelease_frozen hh hr, ht], by rw [hrec]; rfl, by rw [hrec]; rfl, fun d => ?_,
      by rw [hrec]; rfl, hk⟩
    have hio : t.io = (tapsLeave s).io := (hq.1 .io (by simp)).trans (hkeeps .io (by simp))
    exact (congrArg (fun v => (v.get d).tapBlock) hio).trans (tapsLeave_die s d)

/-- Settles O51: each command updates one slot, by `taken_waits`, `taken_compares` or `LksRegs.armedAs`. -/
theorem lockstepComparesAndRearms : Obligations.LockstepComparesAndRearms := by
  intro s c m i hi
  refine ⟨fun ha hs hf hn => ?_, fun o ha hs hf => ?_, fun hc h => ?_⟩
  · obtain ⟨t, ht, hself, hne, hk⟩ := finish_onLks s i (LksRegs.taken (lksOf m))
    exact ⟨t, (exec_lksMessage hi m).trans ht, hself.trans (taken_waits ha hs hf hn), hne, hk⟩
  · obtain ⟨t, ht, hself, hne, hk⟩ := finish_onLks s i (LksRegs.taken (lksOf m))
    rw [taken_compares ha hs hf] at hself
    refine ⟨t, (exec_lksMessage hi m).trans ht, by rw [hself, lksCompare_cmp]; rfl, fun he => ?_, fun hd => ?_, hne, hk⟩
    · rw [hself]
      obtain ⟨hstate, hmis⟩ := lksCompare_equal (r := (s.lks.get i).matched (lksOf m)) he
      exact ⟨hstate.trans ha, hmis⟩
    · rw [hself]
      exact lksCompare_differs (r := (s.lks.get i).matched (lksOf m)) ha hd
  · obtain ⟨t, ht, hself, hne, hk⟩ := finish_onLks s i (LksRegs.armedAs (lksArm s c))
    exact ⟨t, (exec_lksCtrlRearm hi hc h).trans ht, by rw [hself]; rfl, by rw [hself]; rfl, by rw [hself]; rfl, by rw [hself]; rfl,
      hne, hk⟩

end

section
/-!
PROOFS. Replay: its start and end, with the contexts that they stop and start, and the feeder's steps (R396, R397, R399, R403).
-/

namespace Sys2Proof.Machine

/-! ### No context comes to run (R397, R399) -/

/-- No context comes to RUN or FAULTED from `s` to `t`. -/
def State.NoneUp (s t : State) : Prop :=
  ∀ x v, (v = CtxState.run ∨ v = .faulted) → (t.ctx x).state = v → (s.ctx x).state = v

/-- A context is neither in RUN nor FAULTED. -/
def CtxRt.Down (x : CtxRt) : Prop := x.state ≠ .run ∧ x.state ≠ .faulted

theorem State.NoneUp.refl (s : State) : s.NoneUp s := fun _ _ _ h => h

theorem State.NoneUp.trans {s t u : State} (h : s.NoneUp t) (h' : t.NoneUp u) : s.NoneUp u :=
  fun x v hv hu => h x v hv (h' x v hv hu)

theorem State.NoneUp.foldl {α : Type} {f : State → α → State} (hf : ∀ (s : State) a, s.NoneUp (f s a)) (xs : List α) (s : State) :
    s.NoneUp (xs.foldl f s) := by
  induction xs generalizing s with
  | nil => exact .refl s
  | cons a xs ih => exact (hf s a).trans (ih _)

theorem State.NoneUp.of_keeps {s t : State} {l : List Kind} (h : s.keeps l t) (hl : Kind.ctxs ∉ l) : s.NoneUp t :=
  fun x _ _ hx => (congrArg (fun v => (v.get x).state) (h .ctxs hl)).symm.trans hx

theorem State.NoneUp.of_state {s t : State} (h : ∀ x, (t.ctx x).state = (s.ctx x).state) : s.NoneUp t :=
  fun x _ _ hx => (h x).symm.trans hx

theorem State.NoneUp.ite {s t u : State} {c : Prop} [Decidable c] (h : s.NoneUp t) (h' : s.NoneUp u) :
    s.NoneUp (if c then t else u) := by
  split
  · exact h
  · exact h'

/-- One context changes, and is down then. -/
theorem State.NoneUp.of_one {s t : State} {c : CtxId} (hd : (t.ctx c).Down) (hne : ∀ x, x ≠ c → t.ctx x = s.ctx x) : s.NoneUp t := by
  intro x v hv hx
  by_cases h : x = c
  · subst h
    rcases hv with rfl | rfl
    · exact absurd hx hd.1
    · exact absurd hx hd.2
  · rw [← hne x h]
    exact hx

theorem State.NoneUp.down {s t : State} (h : s.NoneUp t) {x : CtxId} (hx : (s.ctx x).Down) : (t.ctx x).Down :=
  ⟨fun e => hx.1 (h x _ (.inl rfl) e), fun e => hx.2 (h x _ (.inr rfl) e)⟩

/-- An update of a context that leaves its state. -/
theorem State.NoneUp.onCtx (s : State) (c : CtxId) {f : CtxRt → CtxRt} (hf : ∀ x, (f x).state = x.state) : s.NoneUp (s.onCtx c f) :=
  .of_state fun x => by
    by_cases h : x = c
    · subst h; rw [State.ctx_onCtx_self, hf]
    · rw [State.ctx_onCtx_ne _ _ _ _ h]

theorem CtxRt.down_of {x : CtxRt} {v : CtxState} (h : x.state = v) (hr : v ≠ .run) (hf : v ≠ .faulted) : x.Down :=
  ⟨fun e => hr (h.symm.trans e), fun e => hf (h.symm.trans e)⟩

/-! ### The start of a context leaves the others, and the replay (R34, R427) -/

theorem toIdle_down (s : State) (c : CtxId) : ((toIdle s c).ctx c).Down := by
  rw [toIdle_ctx]
  exact CtxRt.down_of (v := .idle) (by rw [setCtxState_self]) (by decide) (by decide)

theorem event_state (s : State) (src code : U16) (c : CtxId) (g : BitVec 12) (detail : Nat) (x : CtxId) :
    ((event s src code (some (c, g)) detail).ctx x).state = (s.ctx x).state := by
  have hn := event_noted s src code c g detail
  by_cases h : x = c
  · subst h
    exact (congrArg CtxRt.state hn.self : (CtxRt.uncounted _).state = (CtxRt.uncounted _).state)
  · rw [event_ctx_ne s src code (c, g) detail h]

theorem enterStarting_noneUp (s : State) (c : CtxId) : s.NoneUp (enterStarting s c) := by
  have hstate : ((enterStarting s c).ctx c).state = .starting := by rw [enterStarting_self]
  exact .of_one (CtxRt.down_of hstate (by decide) (by decide)) fun x hx => enterStarting_ne s hx

theorem tryStart_noneUp (s : State) (c : CtxId) : s.NoneUp (tryStart s c).2 := by
  unfold tryStart
  split
  · have he (code : U16) (detail : Nat) : s.NoneUp (event s srcSvp code (some (s.cg c)) detail) :=
      .of_state (event_state s srcSvp code c (s.ctx c).gen detail)
    have hidle (u : State) : u.NoneUp (toIdle u c) :=
      .of_one (toIdle_down u c) fun x hx => by rw [toIdle_ctx, setCtxState_ne _ _ hx]
    exact .ite (he _ _) ((he _ _).trans (hidle _))
  · dsimp only
    exact enterStarting_noneUp s c

theorem peerStart_noneUp (s : State) (c : CtxId) (g : BitVec 12) : s.NoneUp (peerStart s c g) := by
  have hgen : s.NoneUp (s.onRng fun r => { r with gens := r.gens.set c.1 g }) := .of_keeps (State.keeps_onRng s _) (by simp)
  have hset (u : State) (n : BitVec 12) : u.NoneUp (u.onCtx c fun x => { x with gen := n }) := .onCtx u c fun _ => rfl
  unfold peerStart
  exact .ite ((hgen.trans (hset _ _)).trans (tryStart_noneUp _ c)) hgen

theorem jointStart_noneUp (s : State) (c : CtxId) : s.NoneUp (jointStart s c) := by
  have hrng (u : State) (f : RngRegs → RngRegs) : u.NoneUp (u.onRng f) := .of_keeps (State.keeps_onRng u f) (by simp)
  unfold jointStart
  exact .ite (.refl s) (.ite (hrng s _) ((State.NoneUp.of_keeps (mgmtSend_keeps s _ _ _) (by simp)).trans
    (.ite (peerStart_noneUp _ c _) (hrng _ _))))

theorem bootStart_noneUp (s : State) (c : CtxId) : s.NoneUp (bootStart s c) :=
  .ite (.refl s) (.ite (tryStart_noneUp s c) (jointStart_noneUp s c))

theorem bootStart_keeps (s : State) (c : CtxId) : s.keeps restartKinds (bootStart s c) :=
  State.keeps_ite (s.keeps_refl _) (State.keeps_ite (tryStart_restarts s c).keeps (jointStart_restarts s c).keeps)

/-- The regions of a save are written back. -/
def regionsRestored (s : State) (c : CtxId) (x : RecItem) : State :=
  (ckptRegions (byteAt x.payload 7) (x.payload.drop 64)).foldl (fun s e =>
    match (s.regions c).find? fun r => r.idx = e.1 with
    | some r => s.poke (s.cg c) r.base (e.2.take r.size)
    | none => s) s

theorem regionsRestored_keeps (s : State) (c : CtxId) (x : RecItem) : s.keeps [.mem, .bad, .lineOwner] (regionsRestored s c x) := by
  refine foldl_keeps _ (fun s e => ?_) _ s
  split
  · exact poke_keeps s _ _ _
  · exact s.keeps_refl _

theorem ckptRestore_eq (s : State) (c : CtxId) : ckptRestore s c = match s.rep.saves.find? fun e => e.1 = c with
    | none => s
    | some (_, x) => (regionsRestored s c x).onCtx c fun y => { y with ckptDigest := slice x.payload 32 32 } := rfl

theorem ckptRestore_effect (s : State) (c : CtxId) : s.keeps restartKinds (ckptRestore s c) ∧ s.NoneUp (ckptRestore s c) := by
  rw [ckptRestore_eq]
  split
  · exact ⟨s.keeps_refl _, .refl s⟩
  · next x _ =>
    have hk := regionsRestored_keeps s c x
    exact ⟨State.keeps_trans (State.keeps_mono hk (by decide)) (State.keeps_mono (State.keeps_onCtx _ _ _) (by decide)),
      (State.NoneUp.of_keeps hk (by simp)).trans (.onCtx _ c fun _ => rfl)⟩

/-- One step of the start of the replayed contexts. -/
def replayedStep (s : State) (e : CtxId × RecItem) : State :=
  if (s.ctx e.1).state = .idle then
    let r := if s.imageRuns e.1 then tryStart s e.1 else (false, s)
    if r.1 then ckptRestore r.2 e.1 else r.2
  else s

theorem startReplayed_eq (s : State) : startReplayed s =
    if s.dev = .replay && s.rep.active && s.rep.stopping.isEmpty then s.rep.saves.foldl replayedStep s else s := rfl

theorem replayedStep_effect (s : State) (e : CtxId × RecItem) : s.keeps restartKinds (replayedStep s e) ∧ s.NoneUp (replayedStep s e) := by
  have hr : s.keeps restartKinds (if s.imageRuns e.1 then tryStart s e.1 else (false, s)).2 ∧
      s.NoneUp (if s.imageRuns e.1 then tryStart s e.1 else (false, s)).2 := by
    split
    · exact ⟨(tryStart_restarts s e.1).keeps, tryStart_noneUp s e.1⟩
    · exact ⟨s.keeps_refl _, .refl s⟩
  obtain ⟨hc, hn⟩ := ckptRestore_effect (if s.imageRuns e.1 then tryStart s e.1 else (false, s)).2 e.1
  exact ⟨State.keeps_ite (State.keeps_ite (State.keeps_trans hr.1 hc) hr.1) (s.keeps_refl _),
    .ite (.ite (hr.2.trans hn) hr.2) (.refl s)⟩

theorem startReplayed_keeps (s : State) : s.keeps restartKinds (startReplayed s) := by
  rw [startReplayed_eq]
  exact State.keeps_ite (foldl_keeps _ (fun s e => (replayedStep_effect s e).1) _ s) (s.keeps_refl _)

theorem startReplayed_noneUp (s : State) : s.NoneUp (startReplayed s) := by
  rw [startReplayed_eq]
  exact .ite (.foldl (fun s e => (replayedStep_effect s e).2) _ s) (.refl s)

/-! ### The contexts are stopped (R397) -/

/-- The replay's registers without the list of the contexts that it stops. -/
def RepRegs.unlisted (r : RepRegs) : RepRegs := { r with stopping := [] }

/-- A context joins the list of those that are being stopped. -/
def stopListed (s : State) (c : CtxId) : State := s.onRep fun r => { r with stopping := r.stopping ++ [c] }

theorem stopListed_keeps (s : State) (c : CtxId) : s.keeps [.rep] (stopListed s c) := by
  intro k hk; cases k <;> first | rfl | simp at hk

/-- The teardown of a context that a replay stops: nobody is answered. -/
def stopTorn (s : State) (c : CtxId) : State := (teardown s c (some 0) 0).onCtx c fun y => { y with stopTag := none }

theorem stopForReplay_eq (s : State) (c : CtxId) : stopForReplay s c = match (s.ctx c).state with
    | .idle => s
    | .faulted => setCtxState s c .idle
    | .draining => if (s.ctx c).stopTag.isNone && !s.rep.stopping.contains c then stopListed s c else s
    | .starting | .run => stopListed (stopTorn s c) c := rfl

theorem stopTorn_keeps (s : State) (c : CtxId) : s.keeps [.cores, .parts, .ctxs, .rng] (stopTorn s c) :=
  State.keeps_trans (teardown_keeps s c _ _) (State.keeps_mono (State.keeps_onCtx _ c _) (by simp))

theorem stopTorn_down (s : State) (c : CtxId) : ((stopTorn s c).ctx c).Down := by
  refine CtxRt.down_of (v := .draining) ?_ (by decide) (by decide)
  rw [stopTorn, State.ctx_onCtx_self, teardown_self]
  rfl

theorem stopTorn_ne (s : State) {c x : CtxId} (h : x ≠ c) : (stopTorn s c).ctx x = s.ctx x := by
  rw [stopTorn, State.ctx_onCtx_ne _ _ _ _ h, teardown_ne _ _ _ h]

theorem stopTorn_noneUp (s : State) (c : CtxId) : s.NoneUp (stopTorn s c) := .of_one (stopTorn_down s c) fun _ hx => stopTorn_ne s hx

/-- What the stop of one context leaves: the context is down, no other one comes up, and the replay's registers but its list
stand. -/
theorem stopForReplay_effect (s : State) (c : CtxId) : ((stopForReplay s c).ctx c).Down ∧ s.NoneUp (stopForReplay s c) ∧
    s.keeps [.cores, .parts, .ctxs, .rng, .rep] (stopForReplay s c) ∧ (stopForReplay s c).rep.unlisted = s.rep.unlisted := by
  have hlist (u : State) : (stopListed u c).rep.unlisted = u.rep.unlisted := rfl
  rw [stopForReplay_eq]
  cases hs : (s.ctx c).state with
  | idle => exact ⟨CtxRt.down_of hs (by decide) (by decide), .refl s, s.keeps_refl _, rfl⟩
  | faulted =>
    have hd : ((setCtxState s c .idle).ctx c).Down :=
      CtxRt.down_of (v := .idle) (by rw [setCtxState_self]) (by decide) (by decide)
    have hk := setCtxState_keeps s c .idle
    exact ⟨hd, .of_one hd fun x hx => setCtxState_ne s _ hx, State.keeps_mono hk (by simp),
      congrArg RepRegs.unlisted (hk .rep (by simp))⟩
  | draining =>
    have hd : (s.ctx c).Down := CtxRt.down_of hs (by decide) (by decide)
    dsimp only
    split
    · exact ⟨hd, .of_keeps (stopListed_keeps s c) (by simp), State.keeps_mono (stopListed_keeps s c) (by simp), hlist s⟩
    · exact ⟨hd, .refl s, s.keeps_refl _, rfl⟩
  | starting | run =>
    dsimp only
    have hk := stopTorn_keeps s c
    have hl := stopListed_keeps (stopTorn s c) c
    exact ⟨(State.NoneUp.of_keeps hl (by simp)).down (stopTorn_down s c), (stopTorn_noneUp s c).trans (.of_keeps hl (by simp)),
      State.keeps_trans (State.keeps_mono hk (by simp)) (State.keeps_mono hl (by simp)),
      (hlist (stopTorn s c)).trans (congrArg RepRegs.unlisted (hk .rep (by simp)))⟩

theorem stopAll_keeps (s : State) : s.keeps [.cores, .parts, .ctxs, .rng, .rep] (stopAll s) :=
  foldl_keeps _ (fun s c => (stopForReplay_effect s c).2.2.1) _ s

theorem stopAll_rep (s : State) : (stopAll s).rep.unlisted = s.rep.unlisted :=
  foldl_field (fun s => s.rep.unlisted) (fun s c => (stopForReplay_effect s c).2.2.2) _ s

theorem stopAll_down (s : State) (x : CtxId) : ((stopAll s).ctx x).Down := by
  have key (l : List CtxId) (u : State) (h : x ∈ l) : ((l.foldl stopForReplay u).ctx x).Down := by
    induction l generalizing u with
    | nil => cases h
    | cons c l ih =>
      obtain ⟨hd, -⟩ := stopForReplay_effect u c
      by_cases hx : x = c
      · subst hx
        exact (State.NoneUp.foldl (fun s c => (stopForReplay_effect s c).2.1) l _).down hd
      · exact ih _ ((List.mem_cons.1 h).resolve_left hx)
  exact key (allFin 16) s (List.mem_finRange x)

/-! ### The start (R396, R397) -/

/-- The registers of a replay that starts: what it takes from the control block and the region. -/
def repStarted (s : State) : State :=
  let cb := s.replayCb
  let items := s.replayItems
  let saves := s.replaySel.filterMap fun c => (chosenSave items (fld cb 0x0C 4) c).map fun x => (c, x)
  let marks := marksOf items saves (fld cb 0x10 4)
  let feed := mergeAll (items.length + 1) (ingressOf items marks saves ++ marks)
  s.onRep fun x => { x with
    error := 0, finished := false, active := true, hasFirst := false, stopped := false
    mask := BitVec.ofNat 16 (fld cb 8 2), rflags := BitVec.ofNat 8 (byteAt cb 0x0A), endFrame := BitVec.ofNat 32 (fld cb 0x10 4)
    feed := feed, marks := marks, results := items.filter (·.kind = 8), saves := saves
    spoiled := spoiledFrames items marks }

/-- The servo is held, or released. -/
def servoHold (b : Bool) (s : State) : State := s.onTb fun x => { x with hold := b }

/-- The device enters another state. -/
def devSet (v : DevState) (s : State) : State := { s with dev := v }

theorem devSet_servoHold_keeps (v : DevState) (b : Bool) (s : State) : s.keeps [.tb, .dev] (devSet v (servoHold b s)) := by
  intro k hk; cases k <;> first | rfl | simp at hk

theorem devSet_servoHold_hold (v : DevState) (b : Bool) (s : State) : (devSet v (servoHold b s)).tb.hold = b := rfl

/-- The state in which a replay starts its contexts. -/
def replayEntered (s : State) : State := devSet .replay (servoHold true (stopAll (repStarted s)))

theorem exec_repCtrlStart (s : State) : exec .repCtrlStart s = finish s (replayStart s) := rfl

theorem replayStart_accepted {s : State} (ha : s.rep.active = false) (he : s.startError = none) :
    replayStart s = startReplayed (replayEntered s) := by
  simp only [replayStart, ha, Bool.false_eq_true, if_false, he]
  rfl

theorem replayStart_refused {s : State} {e : BitVec 4} (ha : s.rep.active = false) (he : s.startError = some e) :
    replayStart s = s.onRep fun x => { x with error := e } := by
  simp only [replayStart, ha, Bool.false_eq_true, if_false, he]

theorem replayStart_active {s : State} (ha : s.rep.active = true) : replayStart s = s := by
  simp only [replayStart, ha, if_true]

theorem replayEntered_rep (s : State) : (replayEntered s).rep.unlisted = (repStarted s).rep.unlisted :=
  (congrArg RepRegs.unlisted (devSet_servoHold_keeps .replay true (stopAll (repStarted s)) .rep (by simp))).trans
    (stopAll_rep (repStarted s))

theorem replayEntered_down (s : State) (x : CtxId) : ((replayEntered s).ctx x).Down :=
  (State.NoneUp.of_keeps (devSet_servoHold_keeps .replay true (stopAll (repStarted s))) (by simp)).down (stopAll_down _ x)

theorem safeStOf_replay {s : State} (h : s.dev = .replay) : safeStOf s = 0 := by
  rw [safeStOf, if_pos (.inr (.inr (.inr h)))]

theorem safeStOf_configured {s : State} (h : s.dev = .configured) : safeStOf s = 0 := by
  simp [safeStOf, h]

theorem onRep_keeps (s : State) (f : RepRegs → RepRegs) : s.keeps [.rep] (s.onRep f) := by
  intro k hk; cases k <;> first | rfl | simp at hk

/-! ### The end (R399) -/

/-- The registers of a replay that is over. -/
def repOver (s : State) : State := s.onRep fun r => { r with active := false, finished := true }

theorem replayEnds_quiet (s : State) : (repOver s).Quiet (replayEnds s) := svpIrq_quiet _ _ _

theorem replayEnds_rep (s : State) : (replayEnds s).rep = { s.rep with active := false, finished := true } :=
  (replayEnds_quiet s).1 .rep (by simp)

theorem replayEnds_keeps (s : State) : s.keeps [.rep] (replayEnds s) :=
  State.keeps_trans (onRep_keeps s _) (State.keeps_mono (replayEnds_quiet s).1 (by simp))

/-- A replay that runs ends. -/
def replayOver (s : State) : State := if s.rep.active then replayEnds s else s

theorem replayOver_rep (s : State) : (replayOver s).rep.active = false ∧ (s.rep.active = true → (replayOver s).rep.finished = true) := by
  unfold replayOver
  split
  · rw [replayEnds_rep]
    exact ⟨rfl, fun _ => rfl⟩
  · next h => exact ⟨by simpa using h, fun ha => absurd ha h⟩

/-- The device is CONFIGURED again, its contexts down. -/
def replayLeft (s : State) : State := devSet .configured (servoHold false (stopAll (replayOver s)))

/-- The contexts that are IDLE start as at boot. -/
def bootStarts (s : State) : State := ((allFin 16).filter fun c => (s.ctx c).state = .idle).foldl bootStart s

theorem exec_repCtrlEnd (s : State) : exec .repCtrlEnd s = finish s (replayEnd s) := rfl

theorem replayEnd_replay {s : State} (h : s.dev = .replay) : replayEnd s = bootStarts (replayLeft s) := by
  simp only [replayEnd, h, ne_eq, not_true_eq_false, if_false]
  rfl

theorem replayEnd_other {s : State} (h : s.dev ≠ .replay) : replayEnd s = s := by
  simp only [replayEnd, h, ne_eq, not_false_eq_true, if_true]

theorem bootStarts_keeps (s : State) : s.keeps restartKinds (bootStarts s) := foldl_keeps _ bootStart_keeps _ s

theorem bootStarts_noneUp (s : State) : s.NoneUp (bootStarts s) := .foldl bootStart_noneUp _ s

theorem replayLeft_rep (s : State) : (replayLeft s).rep.unlisted = (replayOver s).rep.unlisted :=
  (congrArg RepRegs.unlisted (devSet_servoHold_keeps .configured false (stopAll (replayOver s)) .rep (by simp))).trans
    (stopAll_rep (replayOver s))

theorem replayLeft_down (s : State) (x : CtxId) : ((replayLeft s).ctx x).Down :=
  (State.NoneUp.of_keeps (devSet_servoHold_keeps .configured false (stopAll (replayOver s))) (by simp)).down (stopAll_down _ x)

/-! ### The feeder (R397, R403) -/

theorem exec_replayInject (s : State) : exec .replayInject s = finish s (feederStep s) := rfl

/-- The feeder is at work. -/
def State.feeds (s : State) : Prop := s.rep.active = true ∧ s.rep.stopped = false ∧ s.rep.stopping = []

theorem feederStep_over {s : State} (h : s.feeds) (hw : s.windowOver = true) : feederStep s = replayEnds s := by
  obtain ⟨ha, hs, hl⟩ := h
  simp [feederStep, ha, hs, hl, hw]

theorem feederStep_rests {s : State} (h : s.rep.active = false ∨ s.rep.stopped = true) : feederStep s = s := by
  rcases h with h | h <;> simp [feederStep, h]

/-- What the feeder is left with once the record at the head is injected. -/
def feedLeft (s : State) (l : List RecItem) : State := s.onRep fun q => { q with feed := l }

theorem feedLeft_effect (s : State) (l : List RecItem) : (feedLeft s l).rep.feed = l ∧ ∀ c, (feedLeft s l).ctx c = s.ctx c :=
  ⟨rfl, fun _ => rfl⟩

theorem feedLeft_rep (s : State) (l : List RecItem) : (feedLeft s l).rep = { s.rep with feed := l } := rfl

theorem feedLeft_keeps (s : State) (l : List RecItem) : s.keeps [.rep] (feedLeft s l) := onRep_keeps s _

theorem feederStep_injects {s t : State} {x : RecItem} {l : List RecItem} (h : s.feeds) (hw : s.windowOver = false)
    (hf : s.rep.feed = x :: l) (hi : injectItem s x = some (t, none)) : feederStep s = feedLeft t l := by
  obtain ⟨ha, hs, hl⟩ := h
  simp [feederStep, ha, hs, hl, hw, hf, hi, feedLeft]

/-- The time base stands at the TIME of a record. -/
def recordTime (s : State) (x : RecItem) : State := s.setFine (tsNs x.time * 2 ^ 32 : Nat)

theorem setFine_ctx (s : State) (n : Int) (c : CtxId) : (s.setFine n).ctx c = s.ctx c := rfl

theorem setFine_seqHeld (s : State) (n : Int) (c : CtxId) : (s.setFine n).seqHeld c = s.seqHeld c := rfl

theorem recordTime_ctx (s : State) (x : RecItem) (c : CtxId) : (recordTime s x).ctx c = s.ctx c := setFine_ctx s _ c

theorem recordTime_seqHeld (s : State) (x : RecItem) (c : CtxId) : (recordTime s x).seqHeld c = s.seqHeld c := setFine_seqHeld s _ c

theorem recordTime_keeps (s : State) (x : RecItem) : s.keeps [.tb] (recordTime s x) := setFine_keeps s _

theorem injectItem_eq (s : State) (x : RecItem) : injectItem s x = if !x.ok then some (recordTime s x, none)
    else match x.kind.toNat with
      | 7 => (applyMark (recordTime s x) x).map fun s => (s, none)
      | 5 => replayFlow (recordTime s x) x
      | 9 => some (recordTime s x, none)
      | _ => replayCam (recordTime s x) x := rfl

theorem injectItem_empty {s : State} {x : RecItem} (h : x.ok = false ∨ x.kind = 9) :
    injectItem s x = some (recordTime s x, none) := by
  rw [injectItem_eq]
  by_cases ho : x.ok = false
  · simp [ho]
  · simp [ho, h.resolve_left ho]

/-- A context that takes its next number from a mark. -/
def markNumbered (s : State) (x : RecItem) : State := s.onCtx (ctxOf x.markCtx) fun y => { y with
  nextFrame := BitVec.ofNat 32 x.markFrame, missedSince := BitVec.ofNat 32 (fld x.payload 20 4) }

/-- The frame that a mark starts. -/
def markStarted (s : State) (x : RecItem) : State :=
  frameStart (markNumbered s x) (ctxOf x.markCtx) (markTrigger (markNumbered s x) (ctxOf x.markCtx) x) (bit (fld x.payload 16 4) 0)

theorem applyMark_run {s : State} {x : RecItem} (hr : (s.ctx (ctxOf x.markCtx)).state = .run)
    (hf : (s.ctx (ctxOf x.markCtx)).frame.inFlight = false) (hh : s.seqHeld (ctxOf x.markCtx) = false) :
    applyMark s x = some (markStarted s x) := by
  simp only [applyMark, hr, hf, hh, Bool.or_self, Bool.false_eq_true, if_false]
  rfl

theorem injectItem_mark {s : State} {x : RecItem} (hk : x.kind = 7) (ho : x.ok = true)
    (hr : (s.ctx (ctxOf x.markCtx)).state = .run) (hfl : (s.ctx (ctxOf x.markCtx)).frame.inFlight = false)
    (hh : s.seqHeld (ctxOf x.markCtx) = false) : injectItem s x = some (markStarted (recordTime s x) x, none) := by
  have happly : applyMark (recordTime s x) x = some (markStarted (recordTime s x) x) :=
    applyMark_run (by rw [recordTime_ctx, hr]) (by rw [recordTime_ctx, hfl]) (by rw [recordTime_seqHeld, hh])
  rw [injectItem_eq]
  simp [ho, hk, happly]

theorem markStarted_self (s : State) (x : RecItem) :
    ((markStarted s x).ctx (ctxOf x.markCtx)).frameNum = BitVec.ofNat 32 x.markFrame := by
  obtain ⟨b, hb⟩ := frameStart_self (markNumbered s x) (ctxOf x.markCtx)
    (markTrigger (markNumbered s x) (ctxOf x.markCtx) x) (bit (fld x.payload 16 4) 0)
  rw [markStarted, hb]
  show ((markNumbered s x).ctx (ctxOf x.markCtx)).nextFrame = _
  rw [markNumbered, State.ctx_onCtx_self]

theorem markStarted_ne (s : State) (x : RecItem) {c : CtxId} (h : c ≠ ctxOf x.markCtx) : (markStarted s x).ctx c = s.ctx c := by
  rw [markStarted, frameStart_ne _ _ _ h, markNumbered, State.ctx_onCtx_ne _ _ _ _ h]

end Sys2Proof.Machine

open Sys2Proof Sys2Proof.Machine

/-- Settles O52: a start and an end stop every context (`stopAll_down`) and let none come to run (`State.NoneUp`); the feeder's step
is the record's own effect (`feederStep_injects`). -/
theorem replayStartsInjectsAndEnds : Obligations.ReplayStartsInjectsAndEnds := by
  refine ⟨fun s ha he => ?_, fun s e ha he => ?_, fun s ha => ?_, fun s x l ha hs hl hw hf => ⟨fun hk ho hr hfl hh => ?_, fun h => ?_⟩,
    fun s ha hs hl hw => ?_, fun s h => ?_, fun s hd => ?_, fun s hd => ?_⟩
  · have hstart := startReplayed_keeps (replayEntered s)
    obtain ⟨t, ht, hk, hq⟩ := finish_keeps (old := s) hstart
    have hrep : t.rep.unlisted = (repStarted s).rep.unlisted :=
      (congrArg RepRegs.unlisted (hk .rep (by decide))).trans (replayEntered_rep s)
    have hdev : t.dev = .replay := hk .dev (by decide)
    have hdown (x) : (t.ctx x).Down :=
      ((startReplayed_noneUp (replayEntered s)).trans (.of_keeps hq.1 (by simp))).down (replayEntered_down s x)
    exact ⟨t, by rw [exec_repCtrlStart, replayStart_accepted ha he, ht], hdev, (congrArg RepRegs.active hrep :),
      (congrArg RepRegs.error hrep :), (congrArg RepRegs.finished hrep :), (congrArg TbRegs.hold (hk .tb (by decide)) :),
      (congrArg RepRegs.mask hrep :), hdown, (finish_pinsOk ht).trans (safeStOf_replay hdev)⟩
  · obtain ⟨t, ht, hk, hq⟩ := finish_keeps (old := s) (onRep_keeps s fun x => { x with error := e })
    exact ⟨t, by rw [exec_repCtrlStart, replayStart_refused ha he, ht], hq.1 .rep (by simp), hk⟩
  · obtain ⟨t, ht, hk, -⟩ := finish_keeps (old := s) (s.keeps_refl [])
    exact ⟨t, by rw [exec_repCtrlStart, replayStart_active ha, ht], hk⟩
  · have hstep := feederStep_injects ⟨ha, hs, hl⟩ hw hf (injectItem_mark hk ho hr hfl hh)
    obtain ⟨hfed, hctx⟩ := feedLeft_effect (markStarted (recordTime s x) x) l
    obtain ⟨t, ht, hq⟩ := finish_next s (feedLeft (markStarted (recordTime s x) x) l)
    refine ⟨t, by rw [exec_replayInject, hstep, ht], ?_, ?_, fun c hc => ?_⟩
    · rw [hq.1 .rep (by simp), hfed]
    · rw [hq.ctx, hctx, markStarted_self]
    · rw [hq.ctx, hctx, markStarted_ne _ _ hc, recordTime_ctx]
  · have hstep := feederStep_injects ⟨ha, hs, hl⟩ hw hf (injectItem_empty h)
    have htime := recordTime_keeps s x
    obtain ⟨t, ht, hkeeps, hq⟩ := finish_keeps (old := s) (l := [.rep, .tb]) (State.keeps_trans
      (State.keeps_mono htime (by simp)) (State.keeps_mono (feedLeft_keeps (recordTime s x) l) (by simp)))
    exact ⟨t, by rw [exec_replayInject, hstep, ht], by rw [hq.1 .rep (by simp), feedLeft_rep, htime .rep (by simp)], hkeeps⟩
  · obtain ⟨t, ht, hk, hq⟩ := finish_keeps (old := s) (replayEnds_keeps s)
    exact ⟨t, by rw [exec_replayInject, feederStep_over ⟨ha, hs, hl⟩ hw, ht], (hq.1 .rep (by simp)).trans (replayEnds_rep s), hk⟩
  · obtain ⟨t, ht, hk, -⟩ := finish_keeps (old := s) (s.keeps_refl [])
    exact ⟨t, by rw [exec_replayInject, feederStep_rests h, ht], hk⟩
  · obtain ⟨hactive, hfin⟩ := replayOver_rep s
    obtain ⟨t, ht, hk, hq⟩ := finish_keeps (old := s) (bootStarts_keeps (replayLeft s))
    have hrep : t.rep.unlisted = (replayOver s).rep.unlisted :=
      (congrArg RepRegs.unlisted (hk .rep (by decide))).trans (replayLeft_rep s)
    have hdev : t.dev = .configured := hk .dev (by decide)
    have hdown (x) : (t.ctx x).Down :=
      ((bootStarts_noneUp (replayLeft s)).trans (.of_keeps hq.1 (by simp))).down (replayLeft_down s x)
    exact ⟨t, by rw [exec_repCtrlEnd, replayEnd_replay hd, ht], hdev, (congrArg RepRegs.active hrep :).trans hactive,
      (congrArg TbRegs.hold (hk .tb (by decide)) :), fun ha => (congrArg RepRegs.finished hrep :).trans (hfin ha),
      fun x => (hdown x).1, (finish_pinsOk ht).trans (safeStOf_configured hdev)⟩
  · obtain ⟨t, ht, hk, -⟩ := finish_keeps (old := s) (s.keeps_refl [])
    exact ⟨t, by rw [exec_repCtrlEnd, replayEnd_other hd, ht], hk⟩

end

section
/-!
PROOFS. A MEMBERSHIP takes effect and stays: what follows from it sends messages, faults and starts contexts, and leaves what it said
(R423, R427, R428).
-/

open Sys2Proof Sys2Proof.Machine

namespace Sys2Proof.Machine

/-! ### What a membership says -/

/-- The ring without what messages, drains and starts move: sequence numbers, waiting messages and writes, generations, running contexts
of others, acknowledgements and the digest error. -/
def RngRegs.told (r : RngRegs) : RngRegs :=
  { r with seq := 0, held := [], unacked := [], gens := default, live := 0, digestErr := false, acks := [] }

/-- The image and what the ring was told stay. -/
def State.ToldSame (s t : State) : Prop := t.rng.told = s.rng.told ∧ t.img = s.img

theorem State.ToldSame.refl (s : State) : s.ToldSame s := ⟨rfl, rfl⟩

theorem State.ToldSame.trans {s t u : State} (h : s.ToldSame t) (h' : t.ToldSame u) : s.ToldSame u :=
  ⟨h'.1.trans h.1, h'.2.trans h.2⟩

theorem State.ToldSame.of_keeps {s t : State} {l : List Kind} (h : s.keeps l t) (hr : Kind.rng ∉ l) (hi : Kind.img ∉ l) :
    s.ToldSame t := ⟨congrArg RngRegs.told (h .rng hr : t.rng = s.rng), h .img hi⟩

theorem State.ToldSame.onRng (s : State) {f : RngRegs → RngRegs} (hf : ∀ r, (f r).told = r.told) : s.ToldSame (s.onRng f) :=
  ⟨hf _, rfl⟩

theorem State.ToldSame.ite {s t u : State} {c : Prop} [Decidable c] (h : s.ToldSame t) (h' : s.ToldSame u) :
    s.ToldSame (if c then t else u) := by
  split
  · exact h
  · exact h'

theorem foldl_toldSame {α : Type} {f : State → α → State} (hf : ∀ (s : State) a, s.ToldSame (f s a)) (l : List α) (s : State) :
    s.ToldSame (l.foldl f s) := by
  induction l generalizing s with
  | nil => exact .refl s
  | cons a l ih => exact (hf s a).trans (ih _)

/-- What a membership says stands in what is told. -/
theorem State.ToldSame.field {s t : State} (h : s.ToldSame t) {α : Type} (g : RngRegs → α) (hg : ∀ r, g r.told = g r) :
    g t.rng = g s.rng := by
  rw [← hg t.rng, h.1, hg]

/-! ### Messages (R422, R425) -/

theorem portSend_toldSame (s : State) (p : RingPort) (t : RingOut) : s.ToldSame (portSend s p t) :=
  .of_keeps (portPass_keeps s p _ _ t) (by simp) (by simp)

theorem mgmtNow_toldSame (s : State) (ty : Nat) (dst : Option (BitVec 2)) (body : Bytes) : s.ToldSame (mgmtNow s ty dst body) := by
  have h : s.ToldSame { s with rng := { s.rng with seq := s.rng.seq + 1 } } := ⟨rfl, rfl⟩
  cases dst with
  | none => exact (h.trans (portSend_toldSame _ .e _)).trans (portSend_toldSame _ .w _)
  | some d => exact h.trans (portSend_toldSame _ _ _)

theorem mgmtSend_toldSame (s : State) (ty : Nat) (dst : Option (BitVec 2)) (body : Bytes) : s.ToldSame (mgmtSend s ty dst body) := by
  unfold mgmtSend
  exact .ite ⟨rfl, rfl⟩ (mgmtNow_toldSame s ty dst body)

theorem sendHeld_toldSame (s : State) : s.ToldSame (sendHeld s) := by
  have h : s.ToldSame { s with rng := { s.rng with held := [] } } := ⟨rfl, rfl⟩
  exact h.trans (foldl_toldSame (fun s (m : Nat × Option (BitVec 2) × Bytes) => mgmtNow_toldSame s m.1 m.2.1 m.2.2) _ _)

theorem sendDigests_toldSame (s : State) : s.ToldSame (sendDigests s) := foldl_toldSame (fun s _ => mgmtSend_toldSame s _ _ _) _ s

/-! ### Faults (R361, R423) -/

theorem teardown_toldSame (s : State) (c : CtxId) (stop : Option U16) (code : U16) : s.ToldSame (teardown s c stop code) := by
  have hpurge (u : State) : u.ToldSame (purge u c) :=
    ((State.ToldSame.of_keeps (purgeQueues_keeps u c) (by simp) (by simp)).trans
      (.of_keeps (purgeHubs_keeps _ c) (by simp) (by simp))).trans (.onRng _ fun _ => rfl)
  have h : s.ToldSame (tornState s c stop) := ((State.ToldSame.of_keeps (setCtxState_keeps s c .draining) (by simp) (by simp)).trans
    (hpurge _)).trans (.of_keeps (State.keeps_onCtx _ c _) (by simp) (by simp))
  exact .ite (h.trans (mgmtSend_toldSame _ _ _ _)) h

theorem faultCtx_toldSame (s : State) (c : CtxId) (code : U16) (dev : Bool) : s.ToldSame (faultCtx s c code dev) := by
  simp only [faultCtx]
  split
  · have hpush (u : State) (i : TallyItem) (hu : s.ToldSame u) : s.ToldSame (tallyPush u i) :=
      hu.trans (.of_keeps (tallyPush_keeps u i) (by simp) (by simp))
    refine State.ToldSame.trans (.ite (hpush _ _ ?_) ?_) (teardown_toldSame _ c none code) <;> exact ⟨rfl, rfl⟩
  · exact ⟨rfl, rfl⟩

/-- A fault without cores and reset says nothing new of the ring. -/
theorem raiseFlt_toldSame (s : State) (f : Flt) (ctx : Option (CtxId × BitVec 12)) (hc : f.cores = []) (hr : f.reset = none)
    (hd : isDevice f.code = false) : s.ToldSame (raiseFlt s f ctx) := by
  have he : s.ToldSame (event (countIso s f) f.src f.code ctx f.detail) :=
    (State.ToldSame.of_keeps (countIso_keeps s f) (by simp) (by simp)).trans (.of_keeps (event_keeps _ _ _ _ _) (by simp) (by simp))
  simp only [raiseFlt, hd, hc, hr, List.foldl_nil, Bool.false_eq_true, if_false]
  split
  · exact he
  split
  · split
    · exact .ite ((he.trans (.of_keeps (reactCtx_keeps _ _) (by simp) (by simp))).trans (faultCtx_toldSame _ _ _ _)) he
    · exact he
  · exact he

theorem faultPeered_toldSame (s : State) (p : RingPort) : s.ToldSame (faultPeered s p) :=
  foldl_toldSame (fun s _ => raiseFlt_toldSame s _ _ rfl rfl (by decide : isDevice cLinkFault = false)) _ s

/-! ### Starts and drains (R427, R428) -/

theorem tryStart_toldSame (s : State) (c : CtxId) : s.ToldSame (tryStart s c).2 := by
  unfold tryStart
  split
  · have he (f : U16 × Nat) : s.ToldSame (event s srcSvp f.1 (some (s.cg c)) f.2) := .of_keeps (event_keeps _ _ _ _ _) (by simp) (by simp)
    exact .ite (he _) ((he _).trans (.of_keeps (toIdle_keeps _ c) (by simp) (by simp)))
  · dsimp only
    exact .of_keeps (enterStarting_keeps s c) (by decide) (by decide)

theorem peerStart_toldSame (s : State) (c : CtxId) (gen : BitVec 12) : s.ToldSame (peerStart s c gen) := by
  have h : s.ToldSame (s.onRng fun r => { r with gens := r.gens.set c.1 gen }) := .onRng s fun _ => rfl
  exact .ite ((h.trans (.of_keeps (State.keeps_onCtx _ c _) (by simp) (by simp))).trans (tryStart_toldSame _ c)) h

theorem jointStart_toldSame (s : State) (c : CtxId) : s.ToldSame (jointStart s c) := by
  simp only [jointStart]
  exact .ite (.refl s) (.ite (.onRng s fun _ => rfl)
    ((mgmtSend_toldSame s _ _ _).trans (.ite (peerStart_toldSame _ c _) (.onRng _ fun _ => rfl))))

theorem drainedIf_toldSame (s : State) (c : CtxId) : s.ToldSame (drainedIf s c) := by
  simp only [drainedIf]
  split
  · exact .refl s
  · refine .ite ?_ (.refl s)
    refine State.ToldSame.trans ?_ (jointStart_toldSame _ c)
    refine State.ToldSame.trans ?_ (.of_keeps (State.keeps_onCtx _ c _) (by simp) (by simp))
    refine State.ToldSame.trans ?_ (mgmtSend_toldSame _ _ _ _)
    exact .onRng s fun _ => rfl

theorem takeGens_toldSame (s : State) : s.ToldSame (takeGens s) := ⟨rfl, rfl⟩

/-! ### A membership takes effect (R423) -/

/-- The ring as a membership has it. -/
def RngRegs.joined (r : RngRegs) (m : BitVec 4) (mgr : Option (BitVec 2)) (chain : Bool) (down : BitVec 2) (epoch : U32) : RngRegs :=
  { r with
    members := m, hasMgr := mgr.isSome, mgrId := mgr.getD r.mgrId, chain := chain, downAt := down, epoch := epoch
    digests := [], idle := false, idleAcks := 0, unacked := [] }

/-- What the membership says stands in the ring's registers, whatever it brings about. -/
theorem applyMembership_toldSame (s : State) (m : BitVec 4) (mgr : Option (BitVec 2)) (chain : Bool) (down : BitVec 2)
    (epoch : U32) :
    (s.onRng fun r => r.joined m mgr chain down epoch).ToldSame (applyMembership s m mgr chain down epoch) := by
  have hlast (u : State) : u.ToldSame (u.peered.foldl (fun s c => jointStart (drainedIf s c) c) u) :=
    foldl_toldSame (fun s c => (drainedIf_toldSame s c).trans (jointStart_toldSame _ c)) _ u
  unfold applyMembership
  extract_lets own changed alone s1 s2 s3 s4 s5 s6 s7 s8
  set j := s.onRng fun r => r.joined m mgr chain down epoch with hj
  have h1 : s.ToldSame s1 := faultPeered_toldSame s .e
  have hjoin (r r' : RngRegs) (h : r.told = r'.told) :
      (r.joined m mgr chain down epoch).told = (r'.joined m mgr chain down epoch).told :=
    (congrArg (fun r => (RngRegs.joined r m mgr chain down epoch).told) h :)
  have h2 : j.ToldSame s2 := ⟨hjoin _ _ h1.1, h1.2⟩
  have h3 : j.ToldSame s3 := (h2.trans (.of_keeps (lksLost_keeps s2 m) (by simp) (by simp))).trans
    (.of_keeps (releaseHolds_keeps _ m) (by simp) (by simp))
  have h4 : j.ToldSame s4 := .ite (h3.trans (.of_keeps (servoFreeze_keeps s3) (by simp) (by simp))) h3
  have h5 : j.ToldSame s5 := h4.trans ⟨rfl, rfl⟩
  have h6 : j.ToldSame s6 := .ite (h5.trans (takeGens_toldSame s5)) h5
  have h7 : j.ToldSame s7 := h6.trans (sendHeld_toldSame s6)
  have h8 : j.ToldSame s8 := .ite (h7.trans (sendDigests_toldSame s7)) h7
  exact .ite (h8.trans (hlast s8)) h8

theorem mgrCapable_congr {s t : State} (hi : t.img = s.img) : t.mgrCapable = s.mgrCapable := by
  simp only [State.mgrCapable, State.dflag, State.devCfg, secD_congr hi]

/-- A MEMBERSHIP is in force. -/
def RngRegs.InForce (r : RngRegs) (m : BitVec 4) (mgr : BitVec 2) (chain : Bool) (down : BitVec 2) (epoch : U32) : Prop :=
  r.members = m ∧ r.hasMgr = true ∧ r.mgrId = mgr ∧ r.chain = chain ∧ r.downAt = down ∧ r.epoch = epoch ∧ r.idle = false

theorem published_eq {s : State} {m : BitVec 4} {mgr : BitVec 2} {chain : Bool} {down : BitVec 2}
    (h : s.published = (m, some mgr, chain, down)) :
    s.rng.members = m ∧ s.rng.hasMgr = true ∧ s.rng.mgrId = mgr ∧ s.rng.chain = chain ∧ s.rng.downAt = down := by
  simp only [State.published, Prod.mk.injEq, Option.ite_none_right_eq_some, Option.some.injEq] at h
  obtain ⟨hm, ⟨hhas, hmgr⟩, hchain, hdown⟩ := h
  exact ⟨hm, hhas, hmgr, hchain, hdown⟩

/-- A MEMBERSHIP of a manager that this device does not outrank takes effect (R421, R423). -/
theorem takeMembership_inForce (s : State) (h : MgmtHdr) (m : BitVec 4) {mgr : BitVec 2} (chain : Bool) (down : BitVec 2)
    (hr : s.mgrCapable = false ∨ mgr.toNat ≤ s.rng.id.toNat) :
    (takeMembership s h m mgr chain down).rng.InForce m mgr chain down h.epoch := by
  unfold takeMembership
  split
  · rename_i hsame
    obtain ⟨hpub, hepoch, hidle⟩ := hsame
    obtain ⟨hm, hhas, hmgr, hchain, hdown⟩ := published_eq hpub
    exact ⟨hm, hhas, hmgr, hchain, hdown, hepoch, hidle⟩
  · have ht := applyMembership_toldSame s m (some mgr) chain down h.epoch
    set u := applyMembership s m (some mgr) chain down h.epoch with hu
    have hid : u.rng.id = s.rng.id := ht.field RngRegs.id fun _ => rfl
    have hno : (u.mgrCapable && decide (u.rng.id.toNat < mgr.toNat)) = false := by
      rw [mgrCapable_congr (s := s) ht.2, hid]
      rcases hr with hr | hr
      · rw [hr]; rfl
      · rw [decide_eq_false (Nat.not_lt.2 hr), Bool.and_false]
    dsimp only
    rw [if_neg (by simp [hno])]
    exact ⟨ht.field RngRegs.members fun _ => rfl, ht.field RngRegs.hasMgr fun _ => rfl, ht.field RngRegs.mgrId fun _ => rfl,
      ht.field RngRegs.chain fun _ => rfl, ht.field RngRegs.downAt fun _ => rfl, ht.field RngRegs.epoch fun _ => rfl,
      ht.field RngRegs.idle fun _ => rfl⟩

end Sys2Proof.Machine
end

section
/-!
PROOFS. The management messages of the Seam ring: what is dropped, what goes on, and what each type does here (R414, R422 to R425, R427,
R428).
-/

open Sys2Proof Sys2Proof.Machine

namespace Sys2Proof.Machine

/-! ### Where a message goes (R414, R422) -/

/-- The state with other outputs. -/
def State.sent (s : State) (o : List OutEvent) : State := { s with out := o }

theorem sent_keeps (s : State) (o : List OutEvent) (l : List Kind) : s.keeps l (s.sent o) := by
  intro k _
  cases k <;> rfl

theorem portPass_sent (s : State) (p : RingPort) (ch : Option RingChannel) (inB : Bool) (t : RingOut) :
    ∃ o, portPass s p ch inB t = s.sent o := by
  unfold portPass
  split
  · exact ⟨_, rfl⟩
  · exact ⟨s.out, rfl⟩

theorem passOn_sent (s : State) (h : MgmtHdr) (ty : Nat) (body : Bytes) : ∃ o, passOn s h ty body = s.sent o := by
  simp only [passOn]
  split
  · exact ⟨s.out, rfl⟩
  · exact portPass_sent s _ _ _ _

/-- The message is for the member: a broadcast of another one, or its own. -/
def mgmtReaches (h : MgmtHdr) (i : BitVec 2) : Prop := (h.broadcast = true ∧ h.src ≠ i) ∨ (h.broadcast = false ∧ h.dst = i)

section
variable {s : State} {h : MgmtHdr} {ty : Nat} {body : Bytes} {f : State → State} {c : Instr}
variable (hexec : exec c s = finish s (onMgmt s h ty body f)) (hon : s.ringOn = true)
include hexec hon

/-- A bad CRC is counted, and that is all. -/
theorem mgmt_dropped (hcrc : h.crcOk = false) :
    ∃ t, exec c s = .next t ∧ t.rng = { s.rng with mgmtDrop := sat32 s.rng.mgmtDrop } ∧ s.keeps [.rng] t := by
  have hdrop : onMgmt s h ty body f = s.onRng fun r => { r with mgmtDrop := sat32 r.mgmtDrop } := by
    simp [onMgmt, hon, hcrc]
  obtain ⟨t, ht, hk, hq⟩ := finish_keeps (old := s) (State.keeps_onRng s fun r => { r with mgmtDrop := sat32 r.mgmtDrop })
  exact ⟨t, by rw [hexec, hdrop, ht], hq.1 .rng (by simp), hk⟩

/-- A message for another member goes on through the other port. -/
theorem mgmt_transit (hcrc : h.crcOk = true) (hb : h.broadcast = false) (hd : h.dst ≠ s.rng.id) :
    ∃ t, exec c s = .next t ∧ s.keeps [] t ∧ (s.isPortUp (otherPort h.via) = true →
      ∃ b, OutEvent.ring (otherPort h.via) ⟨some .req, h.inB || hopCrosses s.rng (otherPort h.via)⟩ (.mgmt b) ∈ t.out) := by
  have hpass : onMgmt s h ty body f = portPass s (otherPort h.via) (some .req) h.inB
      (.mgmt (mgmtMsg ty h.src h.dst h.broadcast h.epoch h.seq body)) := by
    simp [onMgmt, passOn, hon, hcrc, hb, hd]
  obtain ⟨t, ht, hk, hq⟩ := finish_keeps (old := s) (portPass_keeps s (otherPort h.via) (some .req) h.inB
    (.mgmt (mgmtMsg ty h.src h.dst h.broadcast h.epoch h.seq body)))
  exact ⟨t, by rw [hexec, hpass, ht], hk, fun hup => ⟨_, hq.out (portPass_out hup _ _ _)⟩⟩

/-- A message for this device takes effect, whatever else goes on from here. -/
theorem mgmt_taken (hcrc : h.crcOk = true) (hto : mgmtReaches h s.rng.id) :
    ∃ o t, exec c s = .next t ∧ (f (s.sent o)).Quiet t := by
  have heff : ∃ o, onMgmt s h ty body f = f (s.sent o) := by
    obtain ⟨hb, hsrc⟩ | ⟨hb, hdst⟩ := hto
    · obtain ⟨o, ho⟩ := passOn_sent s h ty body
      exact ⟨o, by simp [onMgmt, hon, hcrc, hb, hsrc, ho]⟩
    · exact ⟨s.out, by simp [onMgmt, hon, hcrc, hb, hdst]; rfl⟩
  obtain ⟨o, ho⟩ := heff
  obtain ⟨t, ht, hq⟩ := finish_next s (f (s.sent o))
  exact ⟨o, t, by rw [hexec, ho, ht], hq⟩

end

/-- What an effect keeps is kept by the message. -/
theorem State.Quiet.keepsSent {s t u : State} {o : List OutEvent} {l : List Kind} (hq : u.Quiet t) (hk : (s.sent o).keeps l u) :
    s.keeps l t :=
  State.keeps_trans (State.keeps_trans (sent_keeps s o l) hk) (State.keeps_mono hq.1 (by simp))

theorem State.Quiet.rng {s t : State} (h : s.Quiet t) : t.rng = s.rng := h.1 .rng (by simp)

/-! ### HELLO (R422) -/

/-- The ring after a HELLO of a member that was seen before. -/
def RngRegs.greeted (r : RngRegs) (p : RingPort) (id : BitVec 2) (mc ie : Bool) : RngRegs :=
  { r with seen := r.seen.filter (fun e => decide (e.1 ≠ id)) ++ [(id, mc, ie)], hears := hear r.hears id p }

theorem recheck_same {s : State} (h : s.topology = s.published) : recheck s = s := by rw [recheck, if_pos h]

/-- HELLO of a member that was seen before is noted, where the ring is the one in force. -/
theorem takeHello_known {s : State} {p : RingPort} {id : BitVec 2} {mc ie : Bool} (hid : id ≠ s.rng.id)
    (hseen : ∃ e ∈ s.rng.seen, e.1 = id)
    (htop : (s.onRng fun r => r.greeted p id mc ie).topology = (s.onRng fun r => r.greeted p id mc ie).published) :
    takeHello s p id mc ie = s.onRng fun r => r.greeted p id mc ie := by
  have hany : (s.rng.seen.any fun e => decide (e.1 = id)) = true := by simpa using hseen
  simp only [takeHello, if_neg hid, hany, Bool.not_true, Bool.false_and, Bool.false_eq_true, if_false]
  exact recheck_same htop

/-! ### HELLO_INTERVAL (R422, R423) -/

/-- One HELLO interval passes for every ID that was heard. -/
def aged (l : List (BitVec 2 × RingPort × Nat)) : List (BitVec 2 × RingPort × Nat) := l.map fun h => (h.1, h.2.1, h.2.2 + 1)

/-- The ring one interval later, with every ID still reached. -/
def State.hearsAged (s : State) : State := s.onRng fun r => { r with hears := aged r.hears }

theorem hearsAged_keeps (s : State) : s.keeps [.rng] s.hearsAged := State.keeps_onRng s _

theorem aged_any (l : List (BitVec 2 × RingPort × Nat)) (f : BitVec 2 → RingPort → Bool) :
    ((aged l).any fun h => f h.1 h.2.1) = l.any fun h => f h.1 h.2.1 := by
  rw [aged, List.any_map]
  rfl

theorem hearsAged_heardBy (s : State) : s.hearsAged.heardBy = s.heardBy := by
  funext p i
  exact aged_any s.rng.hears fun j q => j = i && q = p

/-- The membership does not depend on how long ago an ID was heard. -/
theorem hearsAged_topology (s : State) : s.hearsAged.topology = s.topology := by
  have hchain : s.hearsAged.isChain = s.isChain := by
    simp only [State.isChain, hearsAged_heardBy]
    rfl
  have hend (m : BitVec 4) : s.hearsAged.chainEnd m = s.chainEnd m := by
    simp only [State.chainEnd, hearsAged_heardBy]
    rfl
  simp only [State.topology, hchain, hend]
  rfl

/-- An interval in which every ID was heard only counts: nobody leaves the ring. -/
theorem expire_counts {s : State} (hh : ∀ x ∈ s.rng.hears, x.2.2 < 3) (hs : ∀ e ∈ s.rng.seen, ∃ x ∈ s.rng.hears, x.1 = e.1)
    (ht : s.topology = s.published) : expire s = s ∨ expire s = s.hearsAged := by
  have hkept : (aged s.rng.hears).filter (fun h => decide (h.2.2 < 4)) = aged s.rng.hears := by
    refine List.filter_eq_self.2 fun x hx => ?_
    obtain ⟨y, hy, rfl⟩ := List.mem_map.1 hx
    have := hh y hy
    exact decide_eq_true (by dsimp only; omega)
  have hseen (near : BitVec 2 → Bool) :
      s.rng.seen.filter (fun e => near e.1 || (aged s.rng.hears).any fun h => decide (h.1 = e.1)) = s.rng.seen := by
    refine List.filter_eq_self.2 fun e he => ?_
    obtain ⟨x, hx, hxe⟩ := hs e he
    have hany : ((aged s.rng.hears).any fun h => decide (h.1 = e.1)) = true := by
      rw [aged_any s.rng.hears fun j _ => decide (j = e.1)]
      exact List.any_eq_true.2 ⟨x, hx, decide_eq_true hxe⟩
    rw [hany, Bool.or_true]
  have hafter (near : BitVec 2 → Bool) : (s.onRng fun r => { r with
      hears := (aged s.rng.hears).filter fun h => decide (h.2.2 < 4)
      seen := r.seen.filter fun e => near e.1 || ((aged s.rng.hears).filter fun h => decide (h.2.2 < 4)).any fun h =>
        decide (h.1 = e.1) }) = s.hearsAged := by
    simp only [hkept, State.onRng, hseen]
    rfl
  unfold expire
  split
  · exact .inl rfl
  · refine .inr ((congrArg recheck (hafter fun i => [RingPort.e, .w].any fun p =>
      s.isPortUp p && decide ((s.port p).peerId = i))).trans (recheck_same ?_))
    rw [hearsAged_topology, ht]
    rfl

theorem wakeIfNeeded_not {s : State} (hm : s.isMgr = false) (h : s.rng.idle = false ∨ s.rng.held = []) : wakeIfNeeded s = s := by
  have hj : (allFin 16).any s.jointWanted = false := by
    refine List.any_eq_false.2 fun c _ => ?_
    simp [State.jointWanted, hm]
  rcases h with h | h <;> simp [wakeIfNeeded, h, hj]

theorem maybeIdle_not {s : State} (hm : s.isMgr = false) : maybeIdle s = s := by simp [maybeIdle, hm]

theorem isMgr_congr {s t : State} (hi : t.img = s.img) (hb : t.rng.bypass = s.rng.bypass) (hh : t.rng.hasMgr = s.rng.hasMgr)
    (hm : t.rng.mgrId = s.rng.mgrId) (hid : t.rng.id = s.rng.id) : t.isMgr = s.isMgr := by
  simp only [State.isMgr, ringOn_congr hi hb, hh, hm, hid]

theorem State.ToldSame.isMgr {s t : State} (h : s.ToldSame t) : t.isMgr = s.isMgr :=
  isMgr_congr h.2 (h.field RngRegs.bypass fun _ => rfl) (h.field RngRegs.hasMgr fun _ => rfl)
    (h.field RngRegs.mgrId fun _ => rfl) (h.field RngRegs.id fun _ => rfl)

/-- A message to all leaves on each port whose link is up. -/
theorem mgmtNow_out (s : State) (ty : Nat) (body : Bytes) {p : RingPort} (hup : s.isPortUp p = true) :
    ∃ b, OutEvent.ring p ⟨some .req, hopCrosses s.rng p⟩ (.mgmt b) ∈ (mgmtNow s ty none body).out := by
  set b := mgmtBytes s ty 0 true body with hb
  set v : State := { s with rng := { s.rng with seq := s.rng.seq + 1 } } with hv
  have heq : mgmtNow s ty none body = portSend (portSend v .e (.mgmt b)) .w (.mgmt b) := rfl
  have hout (u : State) (hu : u.rng = v.rng) : OutEvent.ring p ⟨some .req, hopCrosses s.rng p⟩ (.mgmt b) ∈
      (portSend u p (.mgmt b)).out := by
    have hport : u.isPortUp p = true := (isPortUp_of_port (congrArg RingPortRt.state (port_of_rng hu p))).trans hup
    have := portPass_out hport (some .req) false (.mgmt b)
    rwa [Bool.false_or, hu] at this
  refine ⟨b, ?_⟩
  rw [heq]
  cases p with
  | w => exact hout _ (portPass_keeps v .e _ _ _ .rng (by simp))
  | e =>
    have he := hout v rfl
    have hmore (u : State) (e : OutEvent) (h : e ∈ u.out) : e ∈ (portSend u .w (.mgmt b)).out := by
      unfold portSend portPass
      split
      · exact List.mem_cons_of_mem _ h
      · exact h
    exact hmore _ _ he

theorem mgmtNow_rng (s : State) (ty : Nat) (body : Bytes) : (mgmtNow s ty none body).rng = { s.rng with seq := s.rng.seq + 1 } := by
  have hsend (u : State) (p : RingPort) (t : RingOut) : (portSend u p t).rng = u.rng := portPass_keeps u p _ _ t .rng (by simp)
  simp only [mgmtNow, hsend]

/-- HELLO goes out and the ring stays, on a device that is no manager and hears every member. -/
theorem helloInterval_sends {s : State} (hon : s.ringOn = true) (hm : s.isMgr = false)
    (hi : s.rng.idle = false ∨ s.rng.held = []) (hh : ∀ x ∈ s.rng.hears, x.2.2 < 3)
    (hs : ∀ e ∈ s.rng.seen, ∃ x ∈ s.rng.hears, x.1 = e.1) (ht : s.topology = s.published) :
    ∃ t, exec .helloInterval s = .next t ∧ t.rng.seq = s.rng.seq + 1 ∧ t.rng.seen = s.rng.seen ∧
      t.rng.members = s.rng.members ∧
      (∀ p, s.isPortUp p = true → ∃ b, OutEvent.ring p ⟨some .req, hopCrosses s.rng p⟩ (.mgmt b) ∈ t.out) ∧ s.keeps [.rng] t := by
  have hcase (u : State) (hu : u = s ∨ u = s.hearsAged) : maybeIdle (sendHello (wakeIfNeeded u)) = sendHello u := by
    have hmu : u.isMgr = false := by rcases hu with rfl | rfl <;> exact hm
    have hiu : u.rng.idle = false ∨ u.rng.held = [] := by rcases hu with rfl | rfl <;> exact hi
    rw [wakeIfNeeded_not hmu hiu, maybeIdle_not (s := sendHello u) ((mgmtNow_toldSame u _ _ _).isMgr.trans hmu)]
  obtain ⟨u, hu, heq⟩ : ∃ u, (u = s ∨ u = s.hearsAged) ∧ expire s = u := ⟨_, expire_counts hh hs ht, rfl⟩
  have hexec : exec .helloInterval s = finish s (sendHello u) := by
    show finish s (if s.ringOn then maybeIdle (sendHello (wakeIfNeeded (expire s))) else s) = _
    rw [if_pos hon, heq, hcase u hu]
  have hk : s.keeps [.rng] u := by
    rcases hu with rfl | rfl
    · exact u.keeps_refl _
    · exact hearsAged_keeps s
  have hfield {α : Type} (g : RngRegs → α) (hg : ∀ r l, g { r with hears := l } = g r) : g u.rng = g s.rng := by
    rcases hu with rfl | rfl
    · rfl
    · exact hg _ _
  obtain ⟨t, ht, hkt, hq⟩ := finish_keeps (old := s) (State.keeps_trans hk (mgmtNow_keeps u 1 none (helloBody u.rng.id u.mgrCapable u.idleEn)))
  have hrng : t.rng = { u.rng with seq := u.rng.seq + 1 } := hq.rng.trans (mgmtNow_rng u 1 _)
  refine ⟨t, hexec.trans ht, ?_, ?_, ?_, fun p hup => ?_, hkt⟩
  · rw [hrng, ← hfield RngRegs.seq fun _ _ => rfl]
  · rw [hrng, ← hfield RngRegs.seen fun _ _ => rfl]
  · rw [hrng, ← hfield RngRegs.members fun _ _ => rfl]
  · have hup' : u.isPortUp p = true := (hfield (fun r => decide ((r.ports.get (portNum p)).state = .up)) fun _ _ => rfl).trans hup
    obtain ⟨b, hb⟩ := mgmtNow_out u 1 (helloBody u.rng.id u.mgrCapable u.idleEn) hup'
    rw [hfield (fun r => hopCrosses r p) fun _ _ => rfl] at hb
    exact ⟨b, hq.out hb⟩

/-! ### START of the manager (R427) -/

/-- The generation of a START is noted. -/
def State.noteGen (s : State) (c : CtxId) (g : BitVec 12) : State := s.onRng fun r => { r with gens := r.gens.set c.1 g }

theorem noteGen_keeps (s : State) (c : CtxId) (g : BitVec 12) : s.keeps [.rng] (s.noteGen c g) := State.keeps_onRng s _

theorem noteGen_self (s : State) (c : CtxId) (g : BitVec 12) : (s.noteGen c g).rng.gens.get c = g := vget_set_self _ _ _ c.2

theorem noteGen_ne (s : State) {c x : CtxId} (g : BitVec 12) (h : x ≠ c) :
    (s.noteGen c g).rng.gens.get x = s.rng.gens.get x := vget_set_ne _ _ _ _ c.2 h

theorem takeStart_noted {s : State} {src : BitVec 2} {c : CtxId} {g : BitVec 12} {m : BitVec 4} (hm : s.rng.hasMgr = true)
    (hs : src = s.rng.mgrId) (h : s.runsPeered c = false ∨ s.jointMask c &&& m ≠ s.jointMask c) :
    takeStart s src c g m = s.noteGen c g := by
  have hn : (s.runsPeered c && decide (s.jointMask c &&& m = s.jointMask c)) = false := by
    rcases h with h | h
    · rw [h, Bool.false_and]
    · rw [decide_eq_false h, Bool.and_false]
  rw [takeStart, if_neg (by simp [hm, hs]), if_neg (by simp [hn])]
  rfl

theorem takeStart_other {s : State} {src : BitVec 2} (c : CtxId) (g : BitVec 12) (m : BitVec 4)
    (h : s.rng.hasMgr = false ∨ src ≠ s.rng.mgrId) : takeStart s src c g m = s := by
  rcases h with h | h <;> simp [takeStart, h]

/-- The context that a START names, with the generation before the one it starts with. -/
def State.readied (s : State) (c : CtxId) (g : BitVec 12) : State := (s.noteGen c g).onCtx c fun x => { x with gen := g - 1 }

/-- START of the manager starts the context that it names, where it may run and its configuration passes. -/
theorem takeStart_starts {s : State} {src : BitVec 2} {c : CtxId} {g : BitVec 12} {m : BitVec 4} (hm : s.rng.hasMgr = true)
    (hs : src = s.rng.mgrId) (hp : s.runsPeered c = true) (hj : s.jointMask c &&& m = s.jointMask c) (hr : s.mayRun c = true)
    (hh : (s.ctx c).peerHold = false) (hi : (s.ctx c).state = .idle) (hc : configCheck s c = none) :
    takeStart s src c g m = enterStarting (s.readied c g) c := by
  have hgo : ((s.noteGen c g).mayRun c && !((s.noteGen c g).ctx c).peerHold &&
      (((s.noteGen c g).ctx c).state = .idle || (((s.noteGen c g).ctx c).state = .faulted && (s.noteGen c g).autoRestart c))) =
        true := by
    show (s.mayRun c && !(s.ctx c).peerHold && ((s.ctx c).state = .idle || ((s.ctx c).state = .faulted && s.autoRestart c))) = true
    simp [hr, hh, hi]
  have hcheck : configCheck (s.readied c g) c = none := (configCheck_congr (s := s) rfl rfl rfl rfl c).trans hc
  rw [takeStart, if_neg (by simp [hm, hs]), if_pos (by simp [hp, hj]), ← tryStart_passes hcheck]
  exact if_pos hgo

theorem readied_started (s : State) (c : CtxId) (g : BitVec 12) :
    ((enterStarting (s.readied c g) c).ctx c).state = .starting ∧ ((enterStarting (s.readied c g) c).ctx c).gen = g ∧
      (enterStarting (s.readied c g) c).rng.gens.get c = g ∧
      ∀ x, x ≠ c → (enterStarting (s.readied c g) c).ctx x = s.ctx x := by
  have hself := enterStarting_self (s.readied c g) c
  have hctx : (s.readied c g).ctx c = { s.ctx c with gen := g - 1 } := State.ctx_onCtx_self _ _ _
  have hrng : (enterStarting (s.readied c g) c).rng = (s.noteGen c g).rng := enterStarting_keeps (s.readied c g) c .rng (by decide)
  refine ⟨by rw [hself], ?_, by rw [hrng, noteGen_self], fun x hx => ?_⟩
  · rw [hself, hctx]
    exact BitVec.sub_add_cancel g 1
  · rw [enterStarting_ne _ hx]
    exact State.ctx_onCtx_ne _ _ _ _ hx

/-! ### CTX_FAIL and the drain of peers (R362, R428) -/

/-- CTX_FAIL of the present generation tears a running context down, and no message goes back. -/
theorem takeFail_quiet {s : State} {c : CtxId} (d : BitVec 2) (k : U16) (hm : s.isMgr = false) (hp : s.runsPeered c = true)
    (hs : (s.ctx c).state = .run) : takeFail s c (s.ctx c).gen d k = failQuiet s c k := by
  simp [takeFail, State.peerGen, State.isUp, hm, hp, hs]

/-- The state in which the context is torn down: its egress is stopped, and no message leaves. -/
def State.muted (s : State) (c : CtxId) : State := reactCtx (s.onRng fun r => { r with bypass := true }) c

theorem failQuiet_drains {s : State} {c : CtxId} (k : U16) (hs : (s.ctx c).state = .run) :
    ((failQuiet s c k).ctx c).state = .draining ∧ ((failQuiet s c k).ctx c).stopLatch = true ∧
      (∀ x, x ≠ c → (failQuiet s c k).ctx x = s.ctx x) ∧ (failQuiet s c k).mem = s.mem ∧
      (failQuiet s c k).tly.holdOver = false ∧ (failQuiet s c k).pins.errOutN = false := by
  have hrun : ((s.muted c).ctx c).state = .run := by
    rw [State.muted, reactCtx_self]
    exact hs
  obtain ⟨hdrain, hstop, -, -, -, -⟩ := faultCtx_run (s.muted c) c k false (.inl hrun)
  obtain ⟨hhold, hpin⟩ := faultCtx_hold (s.muted c) c k false (reactCtx_hold _ c)
  refine ⟨hdrain, hstop, fun x hx => ?_, faultCtx_keeps (s.muted c) c k false .mem (by simp), hhold, hpin.trans (reactCtx_pin _ c)⟩
  exact (faultCtx_ne (s.muted c) k false hx).trans (reactCtx_ne _ hx)

/-- The first acknowledgement of a drain is noted while others are awaited. -/
theorem takeAck_first {s : State} {c : CtxId} {src : BitVec 2} (hm : s.isMgr = true) (ha : s.rng.acks = [])
    (hw : s.jointMask c &&& s.rng.members &&& idBit src ≠ s.jointMask c &&& s.rng.members) :
    takeAck s c (s.peerGen c) src = s.onRng fun r => { r with acks := [(c, idBit src)] } := by
  have hwait : drainedIf (s.onRng fun r => { r with acks := [(c, idBit src)] }) c =
      s.onRng fun r => { r with acks := [(c, idBit src)] } := by
    have hfind : ((s.onRng fun r => { r with acks := [(c, idBit src)] }).rng.acks.find? fun e => decide (e.1 = c)) =
        some (c, idBit src) := by simp
    simp only [drainedIf, hfind]
    refine if_neg ?_
    rw [Bool.and_eq_true, decide_eq_true_eq]
    exact fun hall => hw hall.2
  rw [takeAck, if_neg (by simp [hm])]
  have hacks : (c, (((s.rng.acks.find? fun e => decide (e.1 = c)).map (·.2)).getD 0) ||| idBit src) ::
      s.rng.acks.filter (fun a => decide (a.1 ≠ c)) = [(c, idBit src)] := by simp [ha]
  dsimp only
  simp only [State.onRng, hacks] at hwait ⊢
  exact hwait

theorem takeDrained_releases (s : State) (c : CtxId) :
    takeDrained s c (s.ctx c).gen = s.onCtx c fun x => { x with peerHold := false } := by rw [takeDrained, if_pos rfl]

/-! ### DIGEST (R400, R427) -/

/-- A DIGEST of a member is kept; a start that waited for it leaves it there. -/
theorem takeDigest_kept (s : State) (src : BitVec 2) (c : CtxId) (pd wd : Bytes) :
    (c, src, pd, wd) ∈ (takeDigest s src c pd wd).rng.digests := by
  unfold takeDigest
  rw [(jointStart_toldSame _ c).field RngRegs.digests fun _ => rfl]
  exact List.mem_cons_self

/-! ### Ring idle (R425) -/

/-- A port whose link was up is in electrical idle. -/
def RingPortRt.rested (x : RingPortRt) : RingPortRt := if x.state = .up then { x with state := .idle } else x

theorem rested_state (x : RingPortRt) : x.rested.state = if x.state = .up then .idle else x.state := by
  unfold RingPortRt.rested
  split <;> rfl

/-- The ring rests. -/
def State.ringRests (s : State) : State := s.onRng fun r => { r with idle := true, idleAcks := 0, ports := r.ports.map RingPortRt.rested }

theorem idleIf_eq (s : State) : idleIf s = if s.rng.members &&& s.rng.idleAcks = s.rng.members then s.ringRests else s := rfl

theorem ringRests_port (s : State) (p : RingPort) :
    (s.ringRests.port p).state = if (s.port p).state = .up then .idle else (s.port p).state := by
  have h : s.ringRests.port p = (s.port p).rested := vget_map _ _ _
  rw [h, rested_state]

theorem ringRests_keeps (s : State) : s.keeps [.rng] s.ringRests := State.keeps_onRng s _

theorem idleIf_keeps (s : State) : s.keeps [.rng] (idleIf s) := by
  rw [idleIf_eq]
  exact State.keeps_ite (ringRests_keeps s) (s.keeps_refl _)

/-- Acknowledgements of ring idle. -/
def State.ackedBy (s : State) (a : BitVec 4) : State := s.onRng fun r => { r with idleAcks := a }

theorem idleIf_ackedBy (s : State) (a : BitVec 4) :
    idleIf (s.ackedBy a) = if s.rng.members &&& a = s.rng.members then (s.ackedBy a).ringRests else s.ackedBy a := rfl

theorem takeIdle_ack (s : State) (src : BitVec 2) :
    takeIdle s src true = idleIf (s.ackedBy (s.rng.idleAcks ||| idBit src)) := rfl

/-- This device's own acknowledgement of ring idle leaves. -/
def State.idleSent (s : State) : State := mgmtSend s 8 none (idleBody true)

theorem idleSent_told (s : State) : s.ToldSame s.idleSent := mgmtSend_toldSame s _ _ _

theorem idleSent_rng {s : State} (hi : s.rng.idle = false) (hh : s.rng.held = []) : s.idleSent.rng = { s.rng with seq := s.rng.seq + 1 } := by
  have hsend (u : State) (p : RingPort) (t : RingOut) : (portSend u p t).rng = u.rng := portPass_keeps u p _ _ t .rng (by simp)
  rw [State.idleSent, mgmtSend, if_neg (by simp [hi, hh])]
  simp only [mgmtNow, hsend]

theorem takeIdle_asked {s : State} {src : BitVec 2} (he : s.idleEn = true) (hm : s.rng.hasMgr = true) (hs : src = s.rng.mgrId) :
    takeIdle s src false = idleIf (s.idleSent.ackedBy (idBit s.rng.id ||| idBit src)) := by
  have hid : s.idleSent.rng.id = s.rng.id := (idleSent_told s).field RngRegs.id fun _ => rfl
  have hgo : (s.idleEn && s.rng.hasMgr && decide (src = s.rng.mgrId)) = true := by simp [he, hm, hs]
  rw [takeIdle, if_neg Bool.false_ne_true, if_pos hgo, ← hid]
  rfl

theorem takeIdle_ignored {s : State} {src : BitVec 2} (h : ¬ (s.idleEn = true ∧ s.rng.hasMgr = true ∧ src = s.rng.mgrId)) :
    takeIdle s src false = s := by
  have hno : ¬ (s.idleEn && s.rng.hasMgr && decide (src = s.rng.mgrId)) = true := by
    simpa only [Bool.and_eq_true, decide_eq_true_eq, and_assoc] using h
  rw [takeIdle, if_neg Bool.false_ne_true, if_neg hno]

theorem takeIdle_keeps (s : State) (src : BitVec 2) (ack : Bool) : s.keeps [.rng] (takeIdle s src ack) := by
  unfold takeIdle
  exact State.keeps_ite (State.keeps_trans (State.keeps_onRng s _) (idleIf_keeps _))
    (State.keeps_ite (State.keeps_trans (State.keeps_trans (mgmtSend_keeps s _ _ _) (State.keeps_onRng _ _)) (idleIf_keeps _))
      (s.keeps_refl _))

/-! ### Ring time (R285, R424) -/

theorem takeSync_up {s : State} {p : RingPort} (hup : s.isPortUp p = true) :
    takeSync s p = s.onPort p fun x => { x with t4 := s.ringRx, synced := true } := by rw [takeSync, if_pos hup]

/-- The time base follows the ring. -/
def State.ringLed (s : State) : State := s.onTb fun b => { b with source := 2, en := true }

/-- A complete exchange on the link toward the manager feeds the servo. -/
theorem takeFollow_feeds {s : State} {p : RingPort} {a b : U64} (hup : s.isPortUp p = true) (hs : (s.port p).synced = true)
    (ht : (s.port p).t1 ≠ 0) (hb : b ≠ 0) (hm : s.rng.hasMgr = true) (hi : s.rng.mgrId ≠ s.rng.id)
    (hr : routePort s.rng s.rng.mgrId = p) : takeFollow s p a b =
      servoOffset s.ringLed (BitVec.ofInt 48 ((tsDiff (s.port p).t4 a - tsDiff b (s.port p).t1) * 32768)) := by
  have hgo : (!s.isPortUp p || !(s.port p).synced || decide ((s.port p).t1 = 0) || decide (b = 0) || !s.rng.hasMgr ||
      decide (s.rng.mgrId = s.rng.id) || decide (routePort s.rng s.rng.mgrId ≠ p)) = false := by
    simpa [hup, hs, hm, hi, hr] using ⟨ht, hb⟩
  simp only [takeFollow]
  rw [if_neg (by simpa using hgo)]
  rfl

/-- The servo keeps its source and its enable, and stores the offset. -/
def TbRegs.Fed (b : TbRegs) (θ : BitVec 48) (b' : TbRegs) : Prop := b'.source = b.source ∧ b'.en = b.en ∧ b'.theta = θ

theorem servoUpdate_keepsSource (b : TbRegs) (t : Int) :
    (servoUpdate b t).source = b.source ∧ (servoUpdate b t).en = b.en ∧ (servoUpdate b t).theta = b.theta := by
  unfold servoUpdate
  split <;> exact ⟨rfl, rfl, rfl⟩

theorem timeStep_fed (s : State) (θ : BitVec 48) (t : Int) (h : s.tb.theta = θ) : s.tb.Fed θ (timeStep s t).tb :=
  ⟨rfl, rfl, h⟩

theorem servoOffset_fed (s : State) (θ : BitVec 48) : s.tb.Fed θ (servoOffset s θ).tb ∧ s.keeps [.tb, .ctxs] (servoOffset s θ) := by
  have htb (f : TbRegs → TbRegs) : s.keeps [.tb, .ctxs] (s.onTb f) := State.keeps_mono (onTb_keeps s f) (by simp)
  by_cases hoff : s.tb.en = false ∨ s.tb.hold = true ∧ s.tb.holdover = false
  · rw [servoOffset_off hoff]
    exact ⟨⟨rfl, rfl, rfl⟩, htb _⟩
  · obtain ⟨hen, hhold⟩ := not_or.1 hoff
    have hen : s.tb.en = true := by simpa using hen
    cases ho : s.tb.holdover with
    | true =>
      rw [servoOffset_holdover hen ho]
      refine ⟨?_, htb _⟩
      rw [State.tb_onTb]
      split <;> exact ⟨rfl, rfl, rfl⟩
    | false =>
      have hhold : s.tb.hold = false := by simpa [ho] using hhold
      rw [servoOffset_follows hen hhold ho]
      split
      · exact ⟨timeStep_fed (s.onTb fun b => b.taken θ) θ _ rfl,
          State.keeps_trans (htb _) (timeStep_keeps _ _)⟩
      · refine ⟨?_, htb _⟩
        rw [State.tb_onTb]
        exact servoUpdate_keepsSource (s.tb.taken θ) _

/-! ### The commands -/

theorem exec_hello (h : MgmtHdr) (p : RingPort) (id : BitVec 2) (mc ie : Bool) (s : State) :
    exec (.hello h p id mc ie) s = finish s (onMgmt s { h with via := p } 1 (helloBody id mc ie) fun s =>
      if s.isPortUp p then takeHello s p id mc ie else s) := rfl

theorem exec_membership (h : MgmtHdr) (m : BitVec 4) (mgr : BitVec 2) (chain : Bool) (down : BitVec 2) (s : State) :
    exec (.membership h m mgr chain down) s =
      finish s (onMgmt s h 2 (memberBody m mgr chain down) fun s => takeMembership s h m mgr chain down) := rfl

theorem exec_ringStart (h : MgmtHdr) (c : CtxId) (g : BitVec 12) (m : BitVec 4) (s : State) :
    exec (.ringStart h c g m) s = finish s (onMgmt s h 3 (startBody c g m) fun s => takeStart s h.src c g m) := rfl

theorem exec_ctxFail (h : MgmtHdr) (c : CtxId) (g : BitVec 12) (d : BitVec 2) (k : U16) (s : State) :
    exec (.ctxFail h c g d k) s = finish s (onMgmt s h 4 (failBody c g d k) fun s => takeFail s c g d k) := rfl

theorem exec_drainAck (h : MgmtHdr) (c : CtxId) (g : BitVec 12) (s : State) :
    exec (.drainAck h c g) s = finish s (onMgmt s h 5 (ackBody c g) fun s => takeAck s c g h.src) := rfl

theorem exec_ctxDrained (h : MgmtHdr) (c : CtxId) (g : BitVec 12) (m : BitVec 4) (s : State) :
    exec (.ctxDrained h c g m) s = finish s (onMgmt s h 6 (drainedBody c g m) fun s => takeDrained s c g) := rfl

theorem exec_ringDigest (h : MgmtHdr) (c : CtxId) (pd wd : Bytes) (s : State) :
    exec (.ringDigest h c pd wd) s = finish s (onMgmt s h 7 (digestBody c pd wd) fun s => takeDigest s h.src c pd wd) := rfl

theorem exec_ringIdle (h : MgmtHdr) (ack : Bool) (s : State) :
    exec (.ringIdle h ack) s = finish s (onMgmt s h 8 (idleBody ack) fun s => takeIdle s h.src ack) := rfl

theorem exec_tSync (h : MgmtHdr) (p : RingPort) (s : State) :
    exec (.tSync h p) s = finish s (onMgmt s { h with via := p } 9 [] fun s => takeSync s p) := rfl

theorem exec_tFollow (h : MgmtHdr) (p : RingPort) (a b : U64) (s : State) :
    exec (.tFollow h p a b) s = finish s (onMgmt s { h with via := p } 10 (followBody a b) fun s => takeFollow s p a b) := rfl

/-- Where a management message came in: HELLO and the time messages by the port they name, the others by that of their header. -/
def cameBy (h : MgmtHdr) : Instr → RingPort
  | .hello _ p .. | .tSync _ p | .tFollow _ p .. => p
  | _ => h.via

/-- Every management message is a body and an effect at the gate of its header. -/
theorem mgmt_exec {s : State} {h : MgmtHdr} {c : Instr} (hc : mgmtOf c = some h) :
    ∃ ty body f, exec c s = finish s (onMgmt s { h with via := cameBy h c } ty body f) := by
  cases c <;> cases hc
  case hello => exact ⟨_, _, _, exec_hello ..⟩
  case membership => exact ⟨_, _, _, exec_membership ..⟩
  case ringStart => exact ⟨_, _, _, exec_ringStart ..⟩
  case ctxFail => exact ⟨_, _, _, exec_ctxFail ..⟩
  case drainAck => exact ⟨_, _, _, exec_drainAck ..⟩
  case ctxDrained => exact ⟨_, _, _, exec_ctxDrained ..⟩
  case ringDigest => exact ⟨_, _, _, exec_ringDigest ..⟩
  case ringIdle => exact ⟨_, _, _, exec_ringIdle ..⟩
  case tSync => exact ⟨_, _, _, exec_tSync ..⟩
  case tFollow => exact ⟨_, _, _, exec_tFollow ..⟩

section
variable {s : State} {h : MgmtHdr} (hon : s.ringOn = true) (hcrc : h.crcOk = true) (hto : mgmtReaches h s.rng.id)
include hon hcrc hto

theorem hello_noted {p : RingPort} {id : BitVec 2} {mc ie : Bool} (hup : s.isPortUp p = true) (hid : id ≠ s.rng.id)
    (hseen : ∃ e ∈ s.rng.seen, e.1 = id)
    (htop : (s.onRng fun r => r.greeted p id mc ie).topology = (s.onRng fun r => r.greeted p id mc ie).published) :
    ∃ t, exec (.hello h p id mc ie) s = .next t ∧ t.rng = s.rng.greeted p id mc ie ∧ s.keeps [.rng] t := by
  obtain ⟨o, t, ht, hq⟩ := mgmt_taken (exec_hello h p id mc ie s) hon hcrc hto
  have hup' : (s.sent o).isPortUp p = true := hup
  have hnoted := takeHello_known (s := s.sent o) (p := p) (mc := mc) (ie := ie) hid hseen htop
  rw [if_pos hup', hnoted] at hq
  exact ⟨t, ht, hq.rng, hq.keepsSent (State.keeps_onRng (s.sent o) _)⟩

theorem membership_inForce (m : BitVec 4) {mgr : BitVec 2} (chain : Bool) (down : BitVec 2)
    (hr : s.mgrCapable = false ∨ mgr.toNat ≤ s.rng.id.toNat) :
    ∃ t, exec (.membership h m mgr chain down) s = .next t ∧ t.rng.InForce m mgr chain down h.epoch := by
  obtain ⟨o, t, ht, hq⟩ := mgmt_taken (exec_membership h m mgr chain down s) hon hcrc hto
  refine ⟨t, ht, ?_⟩
  rw [hq.rng]
  exact takeMembership_inForce (s.sent o) h m chain down hr

theorem ringStart_starts {c : CtxId} (g : BitVec 12) {m : BitVec 4} (hm : s.rng.hasMgr = true) (hs : h.src = s.rng.mgrId)
    (hp : s.runsPeered c = true) (hj : s.jointMask c &&& m = s.jointMask c) (hr : s.mayRun c = true)
    (hh : (s.ctx c).peerHold = false) (hi : (s.ctx c).state = .idle) (hc : configCheck s c = none) :
    ∃ t, exec (.ringStart h c g m) s = .next t ∧ (t.ctx c).state = .starting ∧ (t.ctx c).gen = g ∧
      t.rng.gens.get c = g ∧ ∀ x, x ≠ c → t.ctx x = s.ctx x := by
  obtain ⟨o, t, ht, hq⟩ := mgmt_taken (exec_ringStart h c g m s) hon hcrc hto
  have hcheck : configCheck (s.sent o) c = none := (configCheck_congr (s := s) rfl rfl rfl rfl c).trans hc
  rw [takeStart_starts (s := s.sent o) hm hs hp hj hr hh hi hcheck] at hq
  obtain ⟨hst, hgen, hgens, hne⟩ := readied_started (s.sent o) c g
  exact ⟨t, ht, by rw [hq.ctx, hst], by rw [hq.ctx, hgen], by rw [hq.rng, hgens], fun x hx => (hq.ctx x).trans (hne x hx)⟩

theorem ringStart_noted {c : CtxId} (g : BitVec 12) {m : BitVec 4} (hm : s.rng.hasMgr = true) (hs : h.src = s.rng.mgrId)
    (hn : s.runsPeered c = false ∨ s.jointMask c &&& m ≠ s.jointMask c) :
    ∃ t, exec (.ringStart h c g m) s = .next t ∧ t.rng.gens.get c = g ∧
      (∀ x, x ≠ c → t.rng.gens.get x = s.rng.gens.get x) ∧ s.keeps [.rng] t := by
  obtain ⟨o, t, ht, hq⟩ := mgmt_taken (exec_ringStart h c g m s) hon hcrc hto
  rw [takeStart_noted (s := s.sent o) hm hs hn] at hq
  refine ⟨t, ht, by rw [hq.rng, noteGen_self], fun x hx => ?_, hq.keepsSent (noteGen_keeps (s.sent o) c g)⟩
  rw [hq.rng]
  exact noteGen_ne (s.sent o) g hx

theorem ringStart_ignored (c : CtxId) (g : BitVec 12) (m : BitVec 4) (hn : s.rng.hasMgr = false ∨ h.src ≠ s.rng.mgrId) :
    ∃ t, exec (.ringStart h c g m) s = .next t ∧ s.keeps [] t := by
  obtain ⟨o, t, ht, hq⟩ := mgmt_taken (exec_ringStart h c g m s) hon hcrc hto
  rw [takeStart_other (s := s.sent o) c g m hn] at hq
  exact ⟨t, ht, hq.keepsSent ((s.sent o).keeps_refl [])⟩

theorem ctxFail_drains {c : CtxId} (d : BitVec 2) (k : U16) (hm : s.isMgr = false) (hp : s.runsPeered c = true)
    (hs : (s.ctx c).state = .run) :
    ∃ t, exec (.ctxFail h c (s.ctx c).gen d k) s = .next t ∧ (t.ctx c).state = .draining ∧ (t.ctx c).stopLatch = true ∧
      t.pins.errOutN = false ∧ (∀ x, x ≠ c → t.ctx x = s.ctx x) ∧ t.mem = s.mem := by
  obtain ⟨o, t, ht, hq⟩ := mgmt_taken (exec_ctxFail h c (s.ctx c).gen d k s) hon hcrc hto
  have hquiet : takeFail (s.sent o) c (s.ctx c).gen d k = failQuiet (s.sent o) c k := takeFail_quiet (s := s.sent o) d k hm hp hs
  rw [hquiet] at hq
  obtain ⟨hdrain, hstop, hne, hmem, hhold, hpin⟩ := failQuiet_drains (s := s.sent o) k hs
  exact ⟨t, ht, by rw [hq.ctx, hdrain], by rw [hq.ctx, hstop], (hq.errOut hhold).trans hpin, fun x hx => (hq.ctx x).trans (hne x hx),
    hq.mem.trans hmem⟩

theorem drainAck_gathered {c : CtxId} (hm : s.isMgr = true) (ha : s.rng.acks = [])
    (hw : s.jointMask c &&& s.rng.members &&& idBit h.src ≠ s.jointMask c &&& s.rng.members) :
    ∃ t, exec (.drainAck h c (s.peerGen c)) s = .next t ∧ t.rng.acks = [(c, idBit h.src)] ∧ s.keeps [.rng] t := by
  obtain ⟨o, t, ht, hq⟩ := mgmt_taken (exec_drainAck h c (s.peerGen c) s) hon hcrc hto
  have hfirst : takeAck (s.sent o) c (s.peerGen c) h.src = (s.sent o).onRng fun r => { r with acks := [(c, idBit h.src)] } :=
    takeAck_first (s := s.sent o) hm ha hw
  rw [hfirst] at hq
  exact ⟨t, ht, by rw [hq.rng]; rfl, hq.keepsSent (State.keeps_onRng (s.sent o) _)⟩

theorem ctxDrained_releases (c : CtxId) (m : BitVec 4) :
    ∃ t, exec (.ctxDrained h c (s.ctx c).gen m) s = .next t ∧ t.ctx c = { s.ctx c with peerHold := false } ∧
      (∀ x, x ≠ c → t.ctx x = s.ctx x) ∧ s.keeps [.ctxs] t := by
  obtain ⟨o, t, ht, hq⟩ := mgmt_taken (exec_ctxDrained h c (s.ctx c).gen m s) hon hcrc hto
  have hrel : takeDrained (s.sent o) c (s.ctx c).gen = (s.sent o).onCtx c fun x => { x with peerHold := false } :=
    takeDrained_releases (s.sent o) c
  rw [hrel] at hq
  exact ⟨t, ht, (hq.ctx c).trans (State.ctx_onCtx_self _ _ _), fun x hx => (hq.ctx x).trans (State.ctx_onCtx_ne _ _ _ _ hx),
    hq.keepsSent (State.keeps_onCtx _ c _)⟩

theorem ringDigest_kept (c : CtxId) (pd wd : Bytes) :
    ∃ t, exec (.ringDigest h c pd wd) s = .next t ∧ (c, h.src, pd, wd) ∈ t.rng.digests := by
  obtain ⟨o, t, ht, hq⟩ := mgmt_taken (exec_ringDigest h c pd wd s) hon hcrc hto
  refine ⟨t, ht, ?_⟩
  rw [hq.rng]
  exact takeDigest_kept (s.sent o) h.src c pd wd

/-- The ring rests, with every link that was up in electrical idle. -/
def State.Rests (s t : State) : Prop :=
  t.rng.idle = true ∧ ∀ p, (t.port p).state = if (s.port p).state = .up then .idle else (s.port p).state

omit hon hcrc hto in
theorem State.Quiet.rests {s u t : State} (hq : u.ringRests.Quiet t) (hu : s.PortsHeld u) : s.Rests t := by
  refine ⟨by rw [hq.rng]; rfl, fun p => ?_⟩
  rw [hq.port, ringRests_port, hu.port]

theorem ringIdle_acknowledged :
    ∃ t, exec (.ringIdle h true) s = .next t ∧
      (s.rng.members &&& (s.rng.idleAcks ||| idBit h.src) = s.rng.members → s.Rests t) ∧
      (s.rng.members &&& (s.rng.idleAcks ||| idBit h.src) ≠ s.rng.members →
        t.rng = { s.rng with idleAcks := s.rng.idleAcks ||| idBit h.src }) ∧ s.keeps [.rng] t := by
  obtain ⟨o, t, ht, hq⟩ := mgmt_taken (exec_ringIdle h true s) hon hcrc hto
  have hk := hq.keepsSent (takeIdle_keeps (s.sent o) h.src true)
  rw [takeIdle_ack, idleIf_ackedBy] at hq
  refine ⟨t, ht, fun hall => ?_, fun hnot => ?_, hk⟩
  · rw [if_pos (show (s.sent o).rng.members &&& ((s.sent o).rng.idleAcks ||| idBit h.src) = (s.sent o).rng.members from hall)] at hq
    exact hq.rests rfl
  · rw [if_neg (show ¬ (s.sent o).rng.members &&& ((s.sent o).rng.idleAcks ||| idBit h.src) = (s.sent o).rng.members from hnot)] at hq
    exact hq.rng

theorem ringIdle_requested :
    ∃ t, exec (.ringIdle h false) s = .next t ∧
      (s.idleEn = true → s.rng.hasMgr = true → h.src = s.rng.mgrId →
        (s.rng.members &&& (idBit s.rng.id ||| idBit h.src) = s.rng.members → s.Rests t) ∧
        (s.rng.members &&& (idBit s.rng.id ||| idBit h.src) ≠ s.rng.members → s.rng.idle = false → s.rng.held = [] →
          t.rng = { s.rng with seq := s.rng.seq + 1, idleAcks := idBit s.rng.id ||| idBit h.src })) ∧
      (¬ (s.idleEn = true ∧ s.rng.hasMgr = true ∧ h.src = s.rng.mgrId) → t.rng = s.rng) ∧ s.keeps [.rng] t := by
  obtain ⟨o, t, ht, hq⟩ := mgmt_taken (exec_ringIdle h false s) hon hcrc hto
  have hk := hq.keepsSent (takeIdle_keeps (s.sent o) h.src false)
  refine ⟨t, ht, fun he hm hs => ?_, fun hn => ?_, hk⟩
  · have hmem : (s.sent o).idleSent.rng.members = s.rng.members := (idleSent_told (s.sent o)).field RngRegs.members fun _ => rfl
    have hid : (s.sent o).rng.id = s.rng.id := rfl
    rw [takeIdle_asked (s := s.sent o) he hm hs, idleIf_ackedBy, hmem, hid] at hq
    refine ⟨fun hall => ?_, fun hnot hi hh => ?_⟩
    · rw [if_pos hall] at hq
      exact hq.rests (State.PortsHeld.trans (mgmtSend_portsHeld (s.sent o) 8 none (idleBody true)) rfl)
    · rw [if_neg hnot] at hq
      have hrng : ((s.sent o).idleSent.ackedBy (idBit s.rng.id ||| idBit h.src)).rng =
          { (s.sent o).idleSent.rng with idleAcks := idBit s.rng.id ||| idBit h.src } := rfl
      rw [hq.rng, hrng, idleSent_rng (s := s.sent o) hi hh]
      rfl
  · rw [takeIdle_ignored (s := s.sent o) hn] at hq
    exact hq.rng

theorem tSync_stamps {p : RingPort} (hup : s.isPortUp p = true) :
    ∃ t, exec (.tSync h p) s = .next t ∧ t.port p = { s.port p with t4 := s.ringRx, synced := true } ∧
      t.port (otherPort p) = s.port (otherPort p) ∧ s.keeps [.rng] t := by
  obtain ⟨o, t, ht, hq⟩ := mgmt_taken (exec_tSync h p s) hon hcrc hto
  rw [takeSync_up (s := s.sent o) hup] at hq
  exact ⟨t, ht, (hq.port p).trans (port_onPort_self _ p _), (hq.port _).trans (port_onPort_ne _ _ (otherPort_ne p)),
    hq.keepsSent (onPort_keeps _ p _)⟩

theorem tFollow_feeds {p : RingPort} {a b : U64} (hup : s.isPortUp p = true) (hs : (s.port p).synced = true)
    (h1 : (s.port p).t1 ≠ 0) (hb : b ≠ 0) (hm : s.rng.hasMgr = true) (hi : s.rng.mgrId ≠ s.rng.id)
    (hr : routePort s.rng s.rng.mgrId = p) :
    ∃ t, exec (.tFollow h p a b) s = .next t ∧ t.tb.source = 2 ∧ t.tb.en = true ∧
      t.tb.theta = BitVec.ofInt 48 ((tsDiff (s.port p).t4 a - tsDiff b (s.port p).t1) * 32768) ∧ s.keeps [.tb, .ctxs] t := by
  obtain ⟨o, t, ht, hq⟩ := mgmt_taken (exec_tFollow h p a b s) hon hcrc hto
  rw [takeFollow_feeds (s := s.sent o) hup hs h1 hb hm hi hr] at hq
  obtain ⟨⟨hsrc, hen, htheta⟩, hk⟩ := servoOffset_fed (s.sent o).ringLed
    (BitVec.ofInt 48 ((tsDiff ((s.sent o).port p).t4 a - tsDiff b ((s.sent o).port p).t1) * 32768))
  have hled : (s.sent o).keeps [.tb, .ctxs] (s.sent o).ringLed := State.keeps_mono (onTb_keeps (s.sent o) _) (by simp)
  exact ⟨t, ht, by rw [hq.tb, hsrc]; rfl, by rw [hq.tb, hen]; rfl, by rw [hq.tb, htheta]; rfl,
    hq.keepsSent (State.keeps_trans hled hk)⟩

end

end Sys2Proof.Machine

/-- Settles O54: every message is a body and an effect behind the gate of its header, and the effect of each type is that of its
lemma. -/
theorem ringMessagesTakeEffect : Obligations.RingMessagesTakeEffect := by
  unfold Obligations.RingMessagesTakeEffect
  intro s h hon
  refine ⟨fun c hc hcrc => ?_, fun c hc hcrc hb hd => ?_, fun hm hi hh hs ht => helloInterval_sends hon hm hi hh hs ht,
    fun hcrc hto => ⟨fun p id mc ie hup hid hseen htop => hello_noted hon hcrc hto hup hid hseen htop,
      fun m mgr chain down hr => membership_inForce hon hcrc hto m chain down hr,
      fun c g m hm hs hp hj hr hh hi hc => ringStart_starts hon hcrc hto g hm hs hp hj hr hh hi hc,
      fun c g m hm hs hn => ringStart_noted hon hcrc hto g hm hs hn,
      fun c g m hn => ringStart_ignored hon hcrc hto c g m hn,
      fun c d k hm hp hs => ctxFail_drains hon hcrc hto d k hm hp hs,
      fun c hm ha hw => drainAck_gathered hon hcrc hto hm ha hw,
      fun c m => ctxDrained_releases hon hcrc hto c m,
      fun c pd wd => ringDigest_kept hon hcrc hto c pd wd,
      ringIdle_acknowledged hon hcrc hto, ringIdle_requested hon hcrc hto,
      fun p hup => tSync_stamps hon hcrc hto hup,
      fun p a b hup hs h1 hb hm hi hr => tFollow_feeds hon hcrc hto hup hs h1 hb hm hi hr⟩⟩
  · obtain ⟨ty, body, f, hexec⟩ := mgmt_exec (s := s) hc
    exact mgmt_dropped hexec hon hcrc
  · obtain ⟨ty, body, f, hexec⟩ := mgmt_exec (s := s) hc
    have htrans := mgmt_transit hexec hon hcrc hb hd
    cases c <;> exact htrans
end

section
/-!
PROOFS. POWER_GOOD: the banks that the boot ROM checks, the start from a bank, the start-up test and the recovery mailbox (R342, R437, R438,
R452).
-/

open Sys2Proof Sys2Proof.Machine

namespace Sys2Proof.Machine

/-! ### The banks (R434 to R437, R441) -/

/-- What the choice and the checks of a bank read of the boot block, and the recovery mode. -/
def BootRegs.source (b : BootRegs) : BootRegs :=
  { ({} : BootRegs) with flash := b.flash, flashSize := b.flashSize, fuses := b.fuses, failed := b.failed, recovery := b.recovery }

/-- The flash, what is known of it, and its split are the same. -/
def State.SameFlash (s t : State) : Prop := t.boot.source = s.boot.source ∧ t.pins.xspiSplit = s.pins.xspiSplit

section
variable {s t : State} (h : s.SameFlash t)
include h

theorem State.SameFlash.recovery : t.boot.recovery = s.boot.recovery := (congrArg BootRegs.recovery h.1 : _)

theorem State.SameFlash.failed : t.boot.failed = s.boot.failed := (congrArg BootRegs.failed h.1 : _)

theorem bankRead_congr : t.bankRead = s.bankRead := by
  obtain ⟨hb, hp⟩ := h
  have hflash : t.boot.flash = s.boot.flash := (congrArg BootRegs.flash hb : _)
  have hsize : t.boot.flashSize = s.boot.flashSize := (congrArg BootRegs.flashSize hb : _)
  funext b o n
  simp only [State.bankRead, State.flashRead, State.bankBase, State.flashH, hp, hflash, hsize]

theorem bankHeader_congr : t.bankHeader = s.bankHeader := by
  funext b
  rw [State.bankHeader, State.bankHeader, bankRead_congr h]

theorem bankValid_congr : t.bankValid = s.bankValid := by
  have hbank := bankHeader_congr h
  obtain ⟨hb, hp⟩ := h
  have hfuses : t.boot.fuses = s.boot.fuses := (congrArg BootRegs.fuses hb : _)
  have hsize : t.boot.flashSize = s.boot.flashSize := (congrArg BootRegs.flashSize hb : _)
  have hcap : t.bankCap = s.bankCap := by simp only [State.bankCap, State.flashH, hp, hsize]
  funext b
  unfold State.bankValid State.headerOk
  rw [hbank, hcap, hfuses]

theorem chooseBank_congr : t.chooseBank = s.chooseBank := by
  unfold State.chooseBank
  rw [bankValid_congr h, bankHeader_congr h, h.failed]

theorem loadSections_congr : t.loadSections = s.loadSections := by
  funext b hd
  simp only [State.loadSections, State.sectTable, State.readSections, State.entryOk, bankRead_congr h]
  rfl

end

/-- Where all sections of a bank pass, its firmware does (R437, R452). -/
theorem loadFirmware_of_loadSections {s : State} {b : Fin 2} {h : Bytes} {img : List Section} (hall : s.loadSections b h = some img) :
    ∃ fw, s.loadFirmware b h = some fw := by
  unfold State.loadSections at hall
  unfold State.loadFirmware
  split at hall
  · cases hall
  · next es _ =>
    simp only [State.readSections] at hall ⊢
    split at hall
    · cases hall
    · next hno =>
      rw [if_neg]
      · exact ⟨_, rfl⟩
      · simp only [List.contains_iff_mem, List.mem_map, List.mem_filter] at hno ⊢
        rintro ⟨e, ⟨he, -⟩, hbad⟩
        exact hno ⟨e, he, hbad⟩

theorem countStart_failed (s : State) (b c : Fin 2) :
    (countStart s b).boot.failed.get c = if c = b then s.boot.failed.get b + 1 else s.boot.failed.get c := by
  split
  · next h => subst h; exact vget_set_self _ _ _ c.2
  · next h => exact vget_set_ne _ _ _ _ b.2 h

theorem otherBank_ne (b : Fin 2) : b ≠ otherBank b := by decide +revert

/-- A bank with fewer than two failed starts is chosen again after one more. -/
theorem chooseBank_countStart {s : State} {b : Fin 2} (hb : s.chooseBank = some b) (hf : s.boot.failed.get b < 2) :
    (countStart s b).chooseBank = some b := by
  have hv : (countStart s b).bankValid = s.bankValid := rfl
  have hh : (countStart s b).bankHeader = s.bankHeader := rfl
  unfold State.chooseBank at hb ⊢
  rw [hv, hh]
  cases h0 : s.bankValid 0 <;> cases h1 : s.bankValid 1 <;> simp only [h0, h1] at hb ⊢
  case false.false => exact hb
  case true.false => exact hb
  case false.true => exact hb
  case true.true =>
    generalize (if newer (hdrSeq (s.bankHeader 1)) (hdrSeq (s.bankHeader 0)) then 1 else 0 : Fin 2) = n at hb ⊢
    rw [countStart_failed]
    by_cases h3 : 3 ≤ s.boot.failed.get n
    · rw [if_pos h3, Option.some.injEq] at hb
      have hn : n ≠ b := by
        rw [← hb]
        exact otherBank_ne n
      rw [if_neg hn, if_pos h3, hb]
    · rw [if_neg h3, Option.some.injEq] at hb
      subst hb
      rw [if_pos rfl, if_neg (by omega)]

/-! ### What the first steps of a start leave (R452) -/

/-- A start goes on from `s` to `t`: contexts, ring, flash and strap stay, ERR_OUT_N stays low, and the Tally is not tested yet. -/
structure State.Boots (s t : State) : Prop where
  ctxs : t.ctxs = s.ctxs
  rng : t.rng = s.rng
  flash : s.SameFlash t
  hold : t.tly.holdOver = s.tly.holdOver
  errOut : s.tly.holdOver = false → t.pins.errOutN = s.pins.errOutN
  untested : s.tly.selftestOk = false → t.tly.selftestOk = false

theorem State.Boots.refl (s : State) : s.Boots s := ⟨rfl, rfl, ⟨rfl, rfl⟩, rfl, fun _ => rfl, fun h => h⟩

theorem State.Boots.trans {s t u : State} (h : s.Boots t) (h' : t.Boots u) : s.Boots u :=
  ⟨h'.ctxs.trans h.ctxs, h'.rng.trans h.rng, ⟨h'.flash.1.trans h.flash.1, h'.flash.2.trans h.flash.2⟩, h'.hold.trans h.hold,
    fun hh => (h'.errOut (h.hold.trans hh)).trans (h.errOut hh), fun hu => h'.untested (h.untested hu)⟩

theorem foldl_boots {α : Type} {f : State → α → State} (hf : ∀ (s : State) a, s.Boots (f s a)) (l : List α) (s : State) :
    s.Boots (l.foldl f s) := by
  induction l generalizing s with
  | nil => exact .refl s
  | cons a l ih => exact (hf s a).trans (ih _)

/-- The kinds of state that the first steps of a start leave. -/
def bootKinds : List Kind := [.ctxs, .rng, .pins, .boot, .tly]

theorem State.Boots.of_keeps {s t : State} {l : List Kind} (h : s.keeps l t) (hl : ∀ k ∈ bootKinds, k ∉ l) (hp : t.pins = s.pins) :
    s.Boots t := by
  have htly : t.tly = s.tly := h .tly (hl _ (by decide))
  have hboot : t.boot.still = s.boot.still := h .boot (hl _ (by decide))
  exact ⟨h .ctxs (hl _ (by decide)), h .rng (hl _ (by decide)), ⟨(congrArg BootRegs.source hboot :), by rw [hp]⟩, by rw [htly],
    fun _ => by rw [hp], fun hu => by rw [htly, hu]⟩

theorem State.Boots.of_quiet {s t : State} (h : s.Quiet t) : s.Boots t :=
  ⟨h.1 .ctxs (by simp), h.rng, ⟨(congrArg BootRegs.source h.boot :), h.pinsOf (fun p => p.xspiSplit) fun _ => rfl⟩, by rw [h.tly], h.errOut,
    fun hu => by rw [h.tly, hu]⟩

theorem State.Boots.onBoot (s : State) {f : BootRegs → BootRegs} (hf : ∀ b, (f b).source = b.source) : s.Boots (s.onBoot f) :=
  ⟨rfl, rfl, ⟨hf _, rfl⟩, rfl, fun _ => rfl, fun h => h⟩

/-! ### Firmware (R452 steps 2 and 3) -/

theorem onDom_pins (s : State) (n : Nat) (f : DomRt → DomRt) : (s.onDom n f).pins = s.pins := by
  unfold State.onDom
  split <;> rfl

theorem powerDomains_keeps (s : State) (v : DomState) : s.keeps [.pwr] (powerDomains s v) :=
  foldl_keeps _ (fun s n => State.keeps_ite (onDom_keeps s n _) (s.keeps_refl _)) _ s

theorem powerDomains_boots (s : State) (v : DomState) : s.Boots (powerDomains s v) := by
  refine .of_keeps (powerDomains_keeps s v) (by decide) (foldl_field State.pins (fun s n => ?_) _ s)
  split
  · exact onDom_pins s n _
  · rfl

/-- A core of the log is fenced again. -/
def fencedAgain (es : List LogEntry) (s : State) (i : CoreId) : State :=
  s.onCore i fun x => { x with cfh := { x.cfh with fenced := true, lastCode := fenceCode es i } }

/-- The queues of a core of the log go to its adopter. -/
def adopted (s : State) (i : CoreId) : State :=
  match adopterOf s i with
  | some a => (s.onCore i fun x => { x with cfh := { x.cfh with adopter := BitVec.ofNat 2 a.1 } }).onPart (partOfCore i) fun x =>
      { x with slotMap := x.slotMap.map fun k => if k = slotOfCore i then a else k }
  | none => s

theorem loadFences_eq (s : State) : ∃ es l, loadFences s = List.foldl adopted (List.foldl (fencedAgain es) s l) l := ⟨_, _, rfl⟩

theorem adopted_keeps (s : State) (i : CoreId) : s.keeps [.cores, .parts] (adopted s i) ∧ (adopted s i).pins = s.pins := by
  unfold adopted
  split
  · exact ⟨State.keeps_trans (State.keeps_mono (onCore_keeps s i _) (by simp)) (State.keeps_mono (onPart_keeps _ _ _) (by simp)), rfl⟩
  · exact ⟨s.keeps_refl _, rfl⟩

theorem loadFences_keeps (s : State) : s.keeps [.cores, .parts] (loadFences s) ∧ (loadFences s).pins = s.pins := by
  obtain ⟨es, l, he⟩ := loadFences_eq s
  rw [he]
  exact ⟨State.keeps_trans (foldl_keeps _ (fun s i => State.keeps_mono (onCore_keeps s i _) (by simp)) l s)
      (foldl_keeps _ (fun s i => (adopted_keeps s i).1) l _),
    (foldl_field State.pins (fun s i => (adopted_keeps s i).2) l _).trans (foldl_field State.pins (f := fencedAgain es) (fun _ _ => rfl) l s)⟩

/-- The processors run and the mailbox is served. -/
theorem startProcs_effect (s : State) : s.Boots (startProcs s) ∧ (startProcs s).boot = s.boot ∧ (startProcs s).hst.ready = true ∧
    ∀ p, ((startProcs s).proc p).state = .running := by
  refine ⟨.of_keeps (l := [.fwp, .hst]) (fun k hk => ?_) (by decide) rfl, rfl, rfl, fun p => ?_⟩
  · cases k <;> first | rfl | simp at hk
  · have hmap : (startProcs s).proc p = { s.proc p with state := .running, newFw := true } := vget_map _ _ _
    rw [hmap]

theorem still_bank (b : BootRegs) : b.still.bank = b.bank := rfl

/-- The device as a bank starts: BOOT registers, fenced cores and clocks. -/
def firmwareReady (s : State) (b : Fin 2) (fw : List Section) : State :=
  powerDomains (loadFences (bootEntry (bootRegs s b fw) b 0)) .onFio

theorem startFirmware_eq (s : State) (b : Fin 2) (fw : List Section) : startFirmware s b fw = startProcs (firmwareReady s b fw) := rfl

theorem firmwareReady_effect (s : State) (b : Fin 2) (fw : List Section) :
    s.Boots (firmwareReady s b fw) ∧ (firmwareReady s b fw).boot.bank = b := by
  have hregs : s.Boots (bootRegs s b fw) := ⟨rfl, rfl, ⟨rfl, rfl⟩, rfl, fun _ => rfl, fun h => h⟩
  have hentry : (bootRegs s b fw).Quiet (bootEntry (bootRegs s b fw) b 0) := logAppend_quiet _ _ _
  obtain ⟨hf, hfp⟩ := loadFences_keeps (bootEntry (bootRegs s b fw) b 0)
  have hboot : (firmwareReady s b fw).boot.still = (bootRegs s b fw).boot.still :=
    (powerDomains_keeps _ _ .boot (by simp)).trans ((hf .boot (by simp)).trans hentry.boot)
  refine ⟨((hregs.trans (.of_quiet hentry)).trans (.of_keeps hf (by decide) hfp)).trans (powerDomains_boots _ _), ?_⟩
  have hbank := congrArg BootRegs.bank hboot
  rwa [still_bank, still_bank] at hbank

/-! ### A processor fault before step 8 (R452, R457) -/

theorem crashDump_boots (s : State) (p : Proc) (code : U16) : s.Boots (crashDump s p code) := by
  obtain ⟨n, free, d, he⟩ := crashDump_eq s p code
  rw [he]
  have hcount : s.Boots (dumpCounted s n) := by
    refine .of_keeps (dumpCounted_keeps s n) (by decide) ?_
    unfold dumpCounted
    split <;> rfl
  exact hcount.trans ⟨rfl, rfl, ⟨rfl, rfl⟩, rfl, fun _ => rfl, fun h => h⟩

theorem startAgain_boots (s : State) : s.Boots (startAgain s) := ⟨rfl, rfl, ⟨rfl, rfl⟩, rfl, fun _ => rfl, fun _ => rfl⟩

theorem procStops_boots (s : State) (p : Proc) : s.Boots (procStops s p) :=
  ((crashDump_boots s p cProcFault).trans (.of_keeps (event_keeps_none _ _ _ _) (by decide) (event_pins _ _ _ _ _))).trans
    (startAgain_boots _)

/-! ### The start-up test (R341, R342) -/

theorem injected_boots (s : State) (e : U16 × U16) : s.Boots (injected s e) :=
  (State.Boots.of_keeps (event_keeps_none s e.1 e.2 0) (by decide) (event_pins _ _ _ _ _)).trans (.of_quiet (drainRecords_quiet _))

theorem startStep_state (t : StartTest) (r : StartRun) (k : Nat) :
    r.s.keeps [.err] (startStep t r k).s ∧ r.s.Boots (startStep t r k).s := by
  unfold startStep
  split
  · exact ⟨r.s.keeps_refl _, .refl _⟩
  · exact ⟨foldl_keeps _ injected_keeps _ _, foldl_boots injected_boots _ _⟩

/-- A step fails where the test is told to fail there, and only there. -/
theorem startStep_failed (t : StartTest) (r : StartRun) (k : Nat) :
    (startStep t r k).failed = (r.failed || decide (t.failStep.1 = k)) := by
  have hpins : pinTestOk true = true := by decide
  unfold startStep
  split
  · next h => rw [h, Bool.true_or]
  · next h =>
    rw [Bool.not_eq_true] at h
    by_cases hd : t.failStep.1 = k
    · simp [h, hd]
    · simp [h, hd, hpins]

theorem foldl_startStep (t : StartTest) (l : List Nat) (r : StartRun) :
    (l.foldl (startStep t) r).failed = (r.failed || l.any fun k => decide (t.failStep.1 = k)) ∧
      r.s.keeps [.err] (l.foldl (startStep t) r).s ∧ r.s.Boots (l.foldl (startStep t) r).s := by
  induction l generalizing r with
  | nil => exact ⟨by simp, r.s.keeps_refl _, .refl _⟩
  | cons k l ih =>
    obtain ⟨hf, hk, hb⟩ := ih (startStep t r k)
    obtain ⟨hk', hb'⟩ := startStep_state t r k
    refine ⟨?_, State.keeps_trans hk' hk, hb'.trans hb⟩
    rw [List.foldl_cons, hf, startStep_failed, List.any_cons, Bool.or_assoc]

theorem someStep_iff (k : Fin 13) : (((List.range 12).map (· + 1)).any fun i => decide (k.1 = i)) = decide (k.1 ≠ 0) := by
  decide +revert

/-- The device as the test begins. -/
def testBegun (s : State) : State := ({ s with dev := .selftest } : State).onErr fun e => { e with expect := true }

/-- The test as its last step leaves it. -/
def testSteps (s : State) (t : StartTest) : StartRun := ((List.range 12).map (· + 1)).foldl (startStep t) { s := testBegun s }

theorem testBegun_keeps (s : State) : s.keeps [.dev, .err] (testBegun s) := by
  intro k hk; cases k <;> first | rfl | simp at hk

/-- The report is written and its copy is in the log. -/
def testReported (s : State) (t : StartTest) : State :=
  let r := startRun s t
  let report := startReport r t (Config.moreCheckers r.s.free)
  logAppend (({ r.s with free := r.s.free + 1 } : State).onBoot fun b => { b with report := report }) 4 report

/-- The cores take the age of their self-test from this start. -/
def testAged (s : State) : State :=
  let age : CoreRt → CoreRt := fun x => { x with lst := { x.lst with ageFrom := s.boot.odo.runTicks } }
  { s with cores := s.cores.map age }

/-- The Tally has passed its test. -/
def tallyTested (s : State) : State := s.onTly fun y => { y with selftestOk := true, ready := true }

theorem startTest_eq (s : State) (t : StartTest) : startTest s t = if t.failStep.1 ≠ 0 then enterSafe (testAged (testReported s t))
    else tallyTested (testAged (testReported s t)) := by
  have hfail : (startRun s t).failed = decide (t.failStep.1 ≠ 0) := by
    have := (foldl_startStep t ((List.range 12).map (· + 1)) { s := testBegun s }).1
    rw [someStep_iff, Bool.false_or] at this
    exact this
  have heq : startTest s t = if (startRun s t).failed then enterSafe (testAged (testReported s t))
    else tallyTested (testAged (testReported s t)) := rfl
  rw [heq, hfail]
  simp only [decide_eq_true_eq]

theorem testReported_keeps (s : State) (t : StartTest) : s.keeps [.dev, .err, .free, .boot] (testReported s t) ∧
    s.Boots (testReported s t) ∧ (testReported s t).dev = .selftest ∧ (testReported s t).boot.bank = s.boot.bank := by
  obtain ⟨-, hk, hb⟩ := foldl_startStep t ((List.range 12).map (· + 1)) { s := testBegun s }
  have hrun : (testSteps s t).s.keeps [.err] (startRun s t).s := by
    intro k hk; cases k <;> first | rfl | simp at hk
  have hrunBoots : (testSteps s t).s.Boots (startRun s t).s := ⟨rfl, rfl, ⟨rfl, rfl⟩, rfl, fun _ => rfl, fun h => h⟩
  set v := ({ (startRun s t).s with free := (startRun s t).s.free + 1 } : State).onBoot fun b =>
    { b with report := startReport (startRun s t) t (Config.moreCheckers (startRun s t).s.free) } with hv
  have hkv : (startRun s t).s.keeps [.free, .boot] v := by
    intro k hk; cases k <;> first | rfl | simp at hk
  have hbv : (startRun s t).s.Boots v := ⟨rfl, rfl, ⟨rfl, rfl⟩, rfl, fun _ => rfl, fun h => h⟩
  have hlog : v.Quiet (testReported s t) := logAppend_quiet _ _ _
  have hsteps : s.keeps [.dev, .err] (startRun s t).s :=
    State.keeps_trans (testBegun_keeps s) (State.keeps_mono (State.keeps_trans hk hrun) (by simp))
  have hbegun : s.Boots (testBegun s) := ⟨rfl, rfl, ⟨rfl, rfl⟩, rfl, fun _ => rfl, fun h => h⟩
  refine ⟨State.keeps_trans (State.keeps_trans (State.keeps_mono hsteps (by simp)) (State.keeps_mono hkv (by simp)))
      (State.keeps_mono hlog.1 (by simp)),
    ((((hbegun.trans hb).trans hrunBoots).trans hbv).trans (.of_quiet hlog)), ?_, ?_⟩
  · exact hlog.dev.trans ((hkv .dev (by simp)).trans ((hrun .dev (by simp)).trans (hk .dev (by simp))))
  · have hbank : v.boot.bank = (startRun s t).s.boot.bank := rfl
    have hsame : (startRun s t).s.boot.still = s.boot.still := hsteps .boot (by simp)
    exact (hlog.bootOf (fun b => b.bank) fun _ => rfl).trans (hbank.trans (congrArg BootRegs.bank hsame :))

end Sys2Proof.Machine
end

section
/-!
PROOFS. The start after the start-up test: power, stacks, the sections of the image and its contexts; and the recovery mailbox (R437, R438,
R452).
-/

open Sys2Proof Sys2Proof.Machine

namespace Sys2Proof.Machine

/-! ### What a start has brought up -/

/-- What a start shows at its end: ring ID, strap, bank, mailbox, processors and the Tally's test. -/
structure StartView where
  /-- The ring ID. -/
  id : BitVec 2
  /-- The flash strap. -/
  split : Bool
  /-- The bank. -/
  bank : Fin 2
  /-- Recovery mode. -/
  recovery : Bool
  /-- The mailbox is served. -/
  ready : Bool
  /-- The processors. -/
  procs : Vector FwpRegs 7
  /-- The Tally is ready. -/
  tally : Bool
  /-- The Tally has passed its test. -/
  tested : Bool

/-- The view of a state. -/
def State.startView (s : State) : StartView where
  id := s.rng.id
  split := s.pins.xspiSplit
  bank := s.boot.bank
  recovery := s.boot.recovery
  ready := s.hst.ready
  procs := s.fwp
  tally := s.tly.ready
  tested := s.tly.selftestOk

/-- The kinds of state that the view reads. -/
def startViewKinds : List Kind := [.rng, .pins, .boot, .hst, .fwp, .tly]

theorem startView_of_keeps {s t : State} {l : List Kind} (h : s.keeps l t) (hl : ∀ k ∈ startViewKinds, k ∉ l) :
    t.startView = s.startView := by
  have hrng : t.rng = s.rng := h .rng (hl _ (by decide))
  have hfwp : t.fwp = s.fwp := h .fwp (hl _ (by decide))
  have htly : t.tly = s.tly := h .tly (hl _ (by decide))
  have hpins : t.pins.still = s.pins.still := h .pins (hl _ (by decide))
  have hboot : t.boot.still = s.boot.still := h .boot (hl _ (by decide))
  have hhst : t.hst.still = s.hst.still := h .hst (hl _ (by decide))
  have hsplit : t.pins.xspiSplit = s.pins.xspiSplit := (congrArg Pins.xspiSplit hpins :)
  have hbank : t.boot.bank = s.boot.bank := (congrArg BootRegs.bank hboot :)
  have hrec : t.boot.recovery = s.boot.recovery := (congrArg BootRegs.recovery hboot :)
  have hready : t.hst.ready = s.hst.ready := (congrArg HstRegs.ready hhst :)
  simp only [State.startView, hrng, hfwp, htly, hsplit, hbank, hrec, hready]

/-- What the view of a start whose test has passed says of its state. -/
theorem startView_shows {s t : State} (h : t.startView = { s.startView with tally := true, tested := true }) :
    t.rng.id = s.rng.id ∧ t.pins.xspiSplit = s.pins.xspiSplit ∧ t.boot.bank = s.boot.bank ∧ t.boot.recovery = s.boot.recovery ∧
      t.hst.ready = s.hst.ready ∧ (∀ p, t.proc p = s.proc p) ∧ t.tly.ready = true ∧ t.tly.selftestOk = true :=
  ⟨(congrArg StartView.id h :), (congrArg StartView.split h :), (congrArg StartView.bank h :), (congrArg StartView.recovery h :),
    (congrArg StartView.ready h :), fun p => (congrArg (fun v => v.procs.get (procNum p)) h :), (congrArg StartView.tally h :),
    (congrArg StartView.tested h :)⟩

/-! ### Clocks, rails and stacks (R246, R452 steps 5 and 6) -/

/-- The operating point of a partition is set. -/
def railStarted (s : State) (p : PartId) : State :=
  let d := s.pickDiv p
  let r := avsRange d
  let mv := r.1 + Config.avsStart s.free % (r.2 - r.1 + 1)
  let s := { s with free := s.free + 1 }
  (s.onRail p fun x => { x with
    div := some d, want := d, floorMv := BitVec.ofNat 10 r.1, ceilMv := BitVec.ofNat 10 r.2, avsMv := BitVec.ofNat 10 mv }).emit
    (.avs p (BitVec.ofNat 10 mv))

theorem railStarted_keeps (s : State) (p : PartId) : s.keeps [.parts, .free] (railStarted s p) := by
  intro k hk; cases k <;> first | rfl | simp at hk

theorem startPower_keeps (s : State) : s.keeps [.parts, .free] (startPower s) :=
  foldl_keeps railStarted railStarted_keeps _ s

theorem trainAll_keeps (s : State) : s.keeps [.mcs] (trainAll s) :=
  foldl_keeps _ (fun s _ => foldl_keeps _ (fun s k => State.keeps_ite (onMc_keeps s k _) (s.keeps_refl _)) _ s) _ s

/-- The clocks have switched to the PLLs. -/
def pllsLocked (s : State) : State := { s with pwr := { s.pwr with pll := true } }

/-- Steps 5 and 6 of a start. -/
def powered (s : State) : State := trainAll (powerDomains (pllsLocked (startPower s)) .onPll)

theorem powered_keeps (s : State) : s.keeps [.parts, .free, .pwr, .mcs] (powered s) := by
  have hpll (u : State) : u.keeps [.pwr] (pllsLocked u) := by
    intro k hk; cases k <;> first | rfl | simp at hk
  exact State.keeps_trans (State.keeps_trans (State.keeps_trans (State.keeps_mono (startPower_keeps s) (by simp))
    (State.keeps_mono (hpll _) (by simp))) (State.keeps_mono (powerDomains_keeps _ _) (by simp)))
    (State.keeps_mono (trainAll_keeps _) (by simp))

theorem startDevice_eq (s : State) (t : StartTest) :
    startDevice s t = if (startTest s t).dev = .safe then startTest s t else powered (startTest s t) := rfl

/-! ### The sections of the image (R446 to R452, step 7) -/

theorem loadRegions_keeps (s : State) : s.keeps startKinds (loadRegions s) := by
  refine foldl_keeps _ (fun s r => ?_) _ s
  have hzero : s.keeps startKinds (if r.zeroInit then dropWindow s r.base r.size else s) :=
    State.keeps_ite (State.keeps_mono (dropWindow_keeps s _ _) (by decide)) (s.keeps_refl _)
  exact State.keeps_ite (State.keeps_trans hzero (State.keeps_mono (svpWrite_keeps _ _ _) (by decide))) hzero

/-- What step 7 of a start touches: memory and the errors found there, mirrors, digests, I/O dies, time base, Tally, ring, lock-step and
recorder. -/
def sectionKinds : List Kind := [.mirrors, .boot, .tb, .tly, .rng, .lks, .recd, .dev] ++ startKinds

theorem copyMirrors_keeps (s : State) (q : PartId) : s.keeps [.mirrors] (copyMirrors s q) := by
  intro k hk; cases k <;> first | rfl | simp at hk

/-- The regions stand in memory, with their mirrors. -/
def regionsLoaded (s : State) : State := (allFin 4).foldl copyMirrors (loadRegions s)

theorem regionsLoaded_keeps (s : State) : s.keeps (.mirrors :: startKinds) (regionsLoaded s) :=
  State.keeps_trans (State.keeps_mono (loadRegions_keeps s) (by decide))
    (State.keeps_mono (foldl_keeps _ copyMirrors_keeps _ _) (by decide))

/-- The digests of the image are known. -/
def digested (s : State) : State := s.onBoot fun b => { b with
  prog := Vector.ofFn s.progDigest, wgt := Vector.ofFn s.wgtDigest, badWgt := s.badWeights }

theorem digested_effect (s : State) : s.keeps [.boot] (digested s) ∧ (digested s).startView = s.startView := ⟨onBoot_keeps s _, rfl⟩

theorem loadNet_keeps (s : State) : s.keeps [.io] (loadNet s) := by
  intro k hk; cases k <;> first | rfl | simp at hk

theorem loadLks_keeps (s : State) : s.keeps [.lks] (loadLks s) := by
  intro k hk; cases k <;> first | rfl | simp at hk

/-- The servo's shifts and ERR_HOLD are set. -/
def holdSet (s : State) (f : TbRegs → TbRegs) (n : BitVec 10) : State := (s.onTb f).onTly fun t => { t with errHold := n }

/-- The ring of one that the device is on before it knows another member. -/
def ringOfOne (s : State) (f : TbRegs → TbRegs) (mgr : Bool) : State :=
  (s.onRng fun r => { r with members := idBit r.id, mgrId := r.id, hasMgr := mgr }).onTb f

theorem loadDevice_eq (s : State) : ∃ f n g mgr, loadDevice s =
    if s.ringEn then ringOfOne (holdSet s f n) g mgr else holdSet s f n := ⟨_, _, _, _, rfl⟩

theorem holdSet_effect (s : State) (f : TbRegs → TbRegs) (n : BitVec 10) :
    s.keeps [.tb, .tly, .rng] (holdSet s f n) ∧ (holdSet s f n).startView = s.startView :=
  ⟨fun k hk => by cases k <;> first | rfl | simp at hk, rfl⟩

theorem ringOfOne_effect (s : State) (f : TbRegs → TbRegs) (mgr : Bool) :
    s.keeps [.tb, .tly, .rng] (ringOfOne s f mgr) ∧ (ringOfOne s f mgr).startView = s.startView :=
  ⟨fun k hk => by cases k <;> first | rfl | simp at hk, rfl⟩

/-- DEVICE_CONFIG leaves the ring's ID and what the Tally has shown. -/
theorem loadDevice_effect (s : State) : s.keeps [.tb, .tly, .rng] (loadDevice s) ∧ (loadDevice s).startView = s.startView := by
  obtain ⟨f, n, g, mgr, he⟩ := loadDevice_eq s
  obtain ⟨hk, hv⟩ := holdSet_effect s f n
  obtain ⟨hk', hv'⟩ := ringOfOne_effect (holdSet s f n) g mgr
  rw [he]
  split
  · exact ⟨State.keeps_trans hk hk', hv'.trans hv⟩
  · exact ⟨hk, hv⟩

theorem startRecorder_keeps (s : State) : s.keeps [.recd, .mem, .bad] (startRecorder s) := by
  unfold startRecorder
  exact State.keeps_ite (s.keeps_refl _)
    (State.keeps_trans (State.keeps_mono (onRec_keeps s _) (by simp)) (setRecState_effect _ _).1)

/-- The registers that the image fills, before the recorder starts. -/
def registersLoaded (s : State) : State := loadLks (loadDevice (loadNet (digested (regionsLoaded s))))

/-- The device is CONFIGURED. -/
def nowConfigured (s : State) : State := { s with dev := .configured }

theorem nowConfigured_keeps (s : State) : s.keeps [.dev] (nowConfigured s) := by
  intro k hk; cases k <;> first | rfl | simp at hk

theorem configure_eq (s : State) : configure s = nowConfigured (startRecorder (registersLoaded s)) := rfl

theorem registersLoaded_effect (s : State) :
    s.keeps sectionKinds (registersLoaded s) ∧ (registersLoaded s).startView = s.startView := by
  have h1 := regionsLoaded_keeps s
  obtain ⟨h2, hv2⟩ := digested_effect (regionsLoaded s)
  have h3 := loadNet_keeps (digested (regionsLoaded s))
  obtain ⟨h4, hv4⟩ := loadDevice_effect (loadNet (digested (regionsLoaded s)))
  have h5 := loadLks_keeps (loadDevice (loadNet (digested (regionsLoaded s))))
  refine ⟨State.keeps_trans (State.keeps_trans (State.keeps_trans (State.keeps_trans (State.keeps_mono h1 (by decide))
    (State.keeps_mono h2 (by decide))) (State.keeps_mono h3 (by decide))) (State.keeps_mono h4 (by decide)))
    (State.keeps_mono h5 (by decide)), ?_⟩
  calc (registersLoaded s).startView
      = (loadDevice (loadNet (digested (regionsLoaded s)))).startView := startView_of_keeps h5 (by decide)
    _ = (loadNet (digested (regionsLoaded s))).startView := hv4
    _ = (digested (regionsLoaded s)).startView := startView_of_keeps h3 (by decide)
    _ = (regionsLoaded s).startView := hv2
    _ = s.startView := startView_of_keeps h1 (by decide)

/-- Step 7 leaves the image and what the start has brought up; the device is CONFIGURED. -/
theorem configure_effect (s : State) :
    (configure s).img = s.img ∧ (configure s).startView = s.startView ∧ (configure s).dev = .configured := by
  obtain ⟨hk, hv⟩ := registersLoaded_effect s
  have hrec := startRecorder_keeps (registersLoaded s)
  have hdev := nowConfigured_keeps (startRecorder (registersLoaded s))
  rw [configure_eq]
  exact ⟨(hdev .img (by simp)).trans ((hrec .img (by simp)).trans (hk .img (by decide))),
    (startView_of_keeps hdev (by decide)).trans ((startView_of_keeps hrec (by decide)).trans hv), rfl⟩

/-! ### The contexts of the image (R452 step 8) -/

theorem startContexts_keeps (s : State) : s.keeps restartKinds (startContexts s) ∧ (startContexts s).startView = s.startView := by
  have hstep (u : State) (c : CtxId) : u.keeps restartKinds (if (u.ctx c).state = .idle then (tryStart u c).2 else u) :=
    State.keeps_ite (tryStart_restarts u c).keeps (u.keeps_refl _)
  have htold (u : State) (c : CtxId) : u.ToldSame (if (u.ctx c).state = .idle then (tryStart u c).2 else u) :=
    .ite (tryStart_toldSame u c) (.refl u)
  have hk : s.keeps restartKinds (startContexts s) := foldl_keeps _ hstep _ s
  have hid : (startContexts s).rng.id = s.rng.id := (foldl_toldSame htold _ s).field RngRegs.id fun _ => rfl
  have hhst : (startContexts s).hst.still = s.hst.still := hk .hst (by decide)
  have hboot : (startContexts s).boot.still = s.boot.still := hk .boot (by decide)
  have hpins : (startContexts s).pins.still = s.pins.still := hk .pins (by decide)
  have htly : (startContexts s).tly = s.tly := hk .tly (by decide)
  have hfwp : (startContexts s).fwp = s.fwp := hk .fwp (by decide)
  have hsplit : (startContexts s).pins.xspiSplit = s.pins.xspiSplit := (congrArg Pins.xspiSplit hpins :)
  have hbank : (startContexts s).boot.bank = s.boot.bank := (congrArg BootRegs.bank hboot :)
  have hrec : (startContexts s).boot.recovery = s.boot.recovery := (congrArg BootRegs.recovery hboot :)
  have hready : (startContexts s).hst.ready = s.hst.ready := (congrArg HstRegs.ready hhst :)
  refine ⟨hk, ?_⟩
  simp only [State.startView, hid, hfwp, htly, hsplit, hbank, hrec, hready]

theorem bootOk_view (s : State) : (bootOk s).startView = s.startView := by
  unfold bootOk
  split
  · rfl
  · have hlog := logAppend_quiet s 9 (le 1 s.boot.bank.1 ++ zeros 3 ++ le 4 s.boot.seq.toNat)
    exact Eq.trans (by rfl) (startView_of_keeps hlog.1 (by decide))

/-- The ring's bypass opens where the ring is enabled. -/
def ringOpened (s : State) : State := if s.ringEn then s.onRng fun r => { r with bypass := false } else s

theorem ringOpened_effect (s : State) : s.keeps [.rng] (ringOpened s) ∧ (ringOpened s).startView = s.startView := by
  unfold ringOpened
  split
  · exact ⟨State.keeps_onRng s _, rfl⟩
  · exact ⟨s.keeps_refl _, rfl⟩

theorem startImage_effect (s : State) :
    (startImage s).img = s.img ∧ (startImage s).startView = s.startView ∧ (startImage s).dev = s.dev := by
  have heq : startImage s = if 4 < s.lksCtxs.length then s.onHst fun h => { h with lksRefused := true }
      else if !s.tablesOk then s.onHst fun h => { h with tablesBad := true } else bootOk (startContexts (ringOpened s)) := rfl
  rw [heq]
  split
  · exact ⟨rfl, rfl, rfl⟩
  · split
    · exact ⟨rfl, rfl, rfl⟩
    · obtain ⟨hr, hrv⟩ := ringOpened_effect s
      obtain ⟨hc, hcv⟩ := startContexts_keeps (ringOpened s)
      have hb := bootOk_keeps (startContexts (ringOpened s))
      exact ⟨(hb .img (by simp)).trans ((hc .img (by decide)).trans (hr .img (by simp))),
        (bootOk_view _).trans (hcv.trans hrv),
        (hb .dev (by simp)).trans ((hc .dev (by decide)).trans (hr .dev (by simp)))⟩

theorem startSections_effect (s : State) (img : List Section) : (startSections s img).img = img ∧
    (startSections s img).startView = s.startView ∧ (startSections s img).dev = .configured := by
  obtain ⟨hi, hv, hd⟩ := configure_effect { s with img := img }
  obtain ⟨hi', hv', hd'⟩ := startImage_effect (configure { s with img := img })
  exact ⟨hi'.trans hi, hv'.trans hv, hd'.trans hd⟩

/-! ### The start from a bank (R437, R452) -/

/-- A bank that is ready to start: its sections pass, and nothing of the device has run since its reset. -/
structure State.Startable (r s : State) (b : Fin 2) (img : List Section) : Prop where
  chosen : s.chooseBank = some b
  sections : s.loadSections b (s.bankHeader b) = some img
  same : r.ctxs = s.ctxs ∧ s.rng = r.rng ∧ s.pins.xspiSplit = r.pins.xspiSplit
  plain : s.boot.recovery = false ∧ s.tly.holdOver = false ∧ s.pins.errOutN = false ∧ s.tly.selftestOk = false

theorem countStart_recovery (s : State) (b : Fin 2) : (countStart s b).boot.recovery = s.boot.recovery := rfl

theorem countStart_rng (s : State) (b : Fin 2) : (countStart s b).rng = s.rng := rfl

theorem countStart_pins (s : State) (b : Fin 2) : (countStart s b).pins = s.pins := rfl

/-- A start that counts as failed leaves its bank ready to start, unless it has failed too often. -/
theorem State.Startable.counted {r s : State} {b : Fin 2} {img : List Section} (h : r.Startable s b img)
    (hf : s.boot.failed.get b < 2) : r.Startable (countStart s b) b img :=
  ⟨chooseBank_countStart h.chosen hf, h.sections, h.same, h.plain⟩

/-- The first steps of a start leave its bank ready to start. -/
theorem State.Startable.onward {r s t : State} {b : Fin 2} {img : List Section} (hs : r.Startable s b img) (h : s.Boots t) :
    r.Startable t b img := by
  obtain ⟨hctxs, hrng, hsplit⟩ := hs.same
  obtain ⟨hrec, hhold, herr, hok⟩ := hs.plain
  exact ⟨by rw [chooseBank_congr h.flash, hs.chosen], by rw [loadSections_congr h.flash, bankHeader_congr h.flash, hs.sections],
    ⟨hctxs.trans h.ctxs.symm, h.rng.trans hrng, h.flash.2.trans hsplit⟩,
    h.flash.recovery.trans hrec, h.hold.trans hhold, (h.errOut hhold).trans herr, h.untested hok⟩

/-- Steps 2 and 3 of the start from a bank. -/
def launched (s : State) (b : Fin 2) (fw : List Section) : State := startFirmware (countStart s b) b fw

theorem launched_effect (s : State) (b : Fin 2) (fw : List Section) : (countStart s b).Boots (launched s b fw) ∧
    (launched s b fw).boot.bank = b ∧ (launched s b fw).hst.ready = true ∧ ∀ p, ((launched s b fw).proc p).state = .running := by
  obtain ⟨hboots, hbank⟩ := firmwareReady_effect (countStart s b) b fw
  obtain ⟨hb, hsame, hready, hprocs⟩ := startProcs_effect (firmwareReady (countStart s b) b fw)
  refine ⟨hboots.trans hb, ?_, hready, hprocs⟩
  rw [launched, startFirmware_eq, hsame, hbank]

theorem startBank_eq {s : State} {b : Fin 2} {t : StartTest} {img fw : List Section}
    (hall : s.loadSections b (s.bankHeader b) = some img) (hfw : s.loadFirmware b (s.bankHeader b) = some fw) :
    startBank s b t = if (startDevice (launched s b fw) t).dev = .safe then (startDevice (launched s b fw) t, true)
      else (startSections (startDevice (launched s b fw) t) img, true) := by
  have hfw' : (countStart s b).loadFirmware b (s.bankHeader b) = some fw := hfw
  simp only [startBank, hall, hfw']
  rfl

/-- The test passes: the device goes on to the sections of its image. -/
theorem startDevice_passed {s : State} {t : StartTest} (h : t.failStep.1 = 0) :
    (startDevice s t).dev = .selftest ∧
      (startDevice s t).startView = { s.startView with tally := true, tested := true } := by
  obtain ⟨hk, hb, hd, hbank⟩ := testReported_keeps s t
  have htest : startTest s t = tallyTested (testAged (testReported s t)) := by rw [startTest_eq, if_neg (by simp [h])]
  have hdev : (startTest s t).dev = .selftest := by rw [htest]; exact hd
  have hpow := powered_keeps (startTest s t)
  rw [startDevice_eq, if_neg (by simp [hdev])]
  refine ⟨(hpow .dev (by simp)).trans hdev, (startView_of_keeps hpow (by decide)).trans ?_⟩
  have hrng : (testReported s t).rng = s.rng := hb.rng
  have hfwp : (testReported s t).fwp = s.fwp := hk .fwp (by simp)
  have hhst : (testReported s t).hst.still = s.hst.still := hk .hst (by simp)
  have hready : (testReported s t).hst.ready = s.hst.ready := (congrArg HstRegs.ready hhst :)
  have hrec : (testReported s t).boot.recovery = s.boot.recovery := (congrArg BootRegs.recovery hb.flash.1 :)
  rw [htest]
  show StartView.mk (testReported s t).rng.id (testReported s t).pins.xspiSplit (testReported s t).boot.bank
    (testReported s t).boot.recovery (testReported s t).hst.ready (testReported s t).fwp true true = _
  rw [hrng, hb.flash.2, hbank, hrec, hready, hfwp]
  rfl

/-- The test fails: the device is in SAFE state, as the processors left it. -/
theorem startDevice_failed {s : State} {t : StartTest} (h : t.failStep.1 ≠ 0) :
    (startDevice s t).dev = .safe ∧ s.Boots (startDevice s t) ∧ (startDevice s t).boot.bank = s.boot.bank := by
  obtain ⟨-, hb, -, hbank⟩ := testReported_keeps s t
  have htest : startTest s t = enterSafe (testAged (testReported s t)) := by rw [startTest_eq, if_pos h]
  have hsafe : (testReported s t).Boots (enterSafe (testAged (testReported s t))) :=
    ⟨rfl, rfl, ⟨rfl, rfl⟩, rfl, fun _ => rfl, fun h => h⟩
  have hdev : (startTest s t).dev = .safe := by rw [htest]; rfl
  rw [startDevice_eq, if_pos hdev, htest]
  exact ⟨rfl, hb.trans hsafe, hbank⟩

theorem startChosen_eq {s : State} {b : Fin 2} {t : StartTest} (hc : s.chooseBank = some b) (h : (startBank s b t).2 = true) :
    startChosen s t = (startBank s b t).1 := by
  unfold startChosen
  rw [hc]
  exact if_pos h

theorem startChosen_none {s : State} (hc : s.chooseBank = none) (t : StartTest) : startChosen s t = recovery s := by
  unfold startChosen
  rw [hc]

theorem chooseBank_none {s : State} (h0 : s.bankValid 0 = false) (h1 : s.bankValid 1 = false) : s.chooseBank = none := by
  unfold State.chooseBank
  rw [h0, h1]

theorem startChosen_passed {r s : State} {b : Fin 2} {img : List Section} {t : StartTest} (hs : r.Startable s b img)
    (h : t.failStep.1 = 0) : (startChosen s t).dev = .configured ∧ (startChosen s t).img = img ∧
      (startChosen s t).boot.bank = b ∧ (startChosen s t).rng.id = r.rng.id ∧
      (startChosen s t).pins.xspiSplit = r.pins.xspiSplit ∧ (startChosen s t).tly.ready = true ∧
      (startChosen s t).tly.selftestOk = true ∧ (startChosen s t).hst.ready = true ∧
      (∀ p, ((startChosen s t).proc p).state = .running) ∧ (startChosen s t).boot.recovery = false := by
  obtain ⟨fw, hfw⟩ := loadFirmware_of_loadSections hs.sections
  obtain ⟨hboots, hbank, hready, hprocs⟩ := launched_effect s b fw
  obtain ⟨hdev, hview⟩ := startDevice_passed (s := launched s b fw) h
  have hstart : startBank s b t = (startSections (startDevice (launched s b fw) t) img, true) := by
    rw [startBank_eq hs.sections hfw, if_neg (by simp [hdev])]
  have hend : startChosen s t = startSections (startDevice (launched s b fw) t) img := by
    rw [startChosen_eq hs.chosen (by rw [hstart]), hstart]
  rw [hend]
  obtain ⟨hi, hv, hd⟩ := startSections_effect (startDevice (launched s b fw) t) img
  obtain ⟨hid, hsplit, hbank', hrec, hready', hproc, htr, hto⟩ := startView_shows (hv.trans hview)
  obtain ⟨-, hrng, hsplit'⟩ := hs.same
  obtain ⟨hplain, -, -, -⟩ := hs.plain
  exact ⟨hd, hi, hbank'.trans hbank, by rw [hid, hboots.rng, countStart_rng, hrng],
    by rw [hsplit, hboots.flash.2, countStart_pins, hsplit'], htr, hto, hready'.trans hready, fun p => by rw [hproc, hprocs],
    by rw [hrec, hboots.flash.recovery, countStart_recovery, hplain]⟩

theorem startChosen_failed {r s : State} {b : Fin 2} {img : List Section} {t : StartTest} (hs : r.Startable s b img)
    (h : t.failStep.1 ≠ 0) : (startChosen s t).dev = .safe ∧ (startChosen s t).boot.bank = b ∧
      (startChosen s t).tly.selftestOk = false ∧ (startChosen s t).tly.holdOver = false ∧
      (startChosen s t).pins.errOutN = false ∧ (startChosen s t).ctxs = r.ctxs := by
  obtain ⟨fw, hfw⟩ := loadFirmware_of_loadSections hs.sections
  obtain ⟨hboots, hbank, -, -⟩ := launched_effect s b fw
  obtain ⟨hdev, hfail, hbank'⟩ := startDevice_failed (s := launched s b fw) h
  have hstart : startBank s b t = (startDevice (launched s b fw) t, true) := by
    rw [startBank_eq hs.sections hfw, if_pos hdev]
  have hend : startChosen s t = startDevice (launched s b fw) t := by rw [startChosen_eq hs.chosen (by rw [hstart]), hstart]
  rw [hend]
  have hall := hboots.trans hfail
  obtain ⟨hctxs, -, -⟩ := hs.same
  obtain ⟨-, hhold, herr, hok⟩ := hs.plain
  exact ⟨hdev, hbank'.trans hbank, hall.untested hok, hall.hold.trans hhold, (hall.errOut hhold).trans herr,
    hall.ctxs.trans hctxs.symm⟩

/-! ### POWER_GOOD (R437, R452, R512) -/

/-- The device at the release of its reset, with the straps sampled. -/
def strapped (s : State) (id : BitVec 2) (split : Bool) : State :=
  { resetDevice s with
    pins := { (resetDevice s).pins with xspiSplit := split }, rng := { (resetDevice s).rng with id := id } }

theorem exec_powerGood (id : BitVec 2) (split : Bool) (t : StartTest) (s : State) :
    exec (.powerGood id split t) s = finish s (startUp (strapped s id split) t) := rfl

/-- The pads of the device in use: the start's first act. -/
def padsUp (s : State) : State := loadOdo (s.onPins fun p => { p with xspiRstN := true, pads := .run })

theorem padsUp_effect (s : State) : s.Boots (padsUp s) ∧ s.keeps [.pins, .boot] (padsUp s) := by
  have hpads : s.Boots (s.onPins fun p => { p with xspiRstN := true, pads := .run }) :=
    ⟨rfl, rfl, ⟨rfl, rfl⟩, rfl, fun _ => rfl, fun h => h⟩
  have hk : s.keeps [.pins, .boot] (s.onPins fun p => { p with xspiRstN := true, pads := .run }) := by
    intro k hk; cases k <;> first | rfl | simp at hk
  unfold padsUp loadOdo
  split
  · exact ⟨hpads.trans (.onBoot _ fun _ => rfl), State.keeps_trans hk (State.keeps_mono (onBoot_keeps _ _) (by simp))⟩
  · exact ⟨hpads.trans (.onBoot _ fun _ => rfl), State.keeps_trans hk (State.keeps_mono (onBoot_keeps _ _) (by simp))⟩

theorem startUp_chosen {s : State} {t : StartTest} (h : t.proc = none ∨ (padsUp s).chooseBank = none) :
    startUp s t = startChosen (padsUp s) t := by
  unfold startUp
  show (match t.proc, (padsUp s).chooseBank with
    | some p, some b => match (padsUp s).loadFirmware b ((padsUp s).bankHeader b) with
      | some fw => startChosen (procStops (startFirmware (countStart (padsUp s) b) b fw) p) t
      | none => startChosen (padsUp s) t
    | _, _ => startChosen (padsUp s) t) = _
  rcases h with h | h
  · rw [h]
  · rw [h]
    cases t.proc <;> rfl

theorem startUp_again {s : State} {t : StartTest} {p : Proc} {b : Fin 2} {fw : List Section} (hp : t.proc = some p)
    (hc : (padsUp s).chooseBank = some b) (hf : (padsUp s).loadFirmware b ((padsUp s).bankHeader b) = some fw) :
    startUp s t = startChosen (procStops (launched (padsUp s) b fw) p) t := by
  unfold startUp
  show (match t.proc, (padsUp s).chooseBank with
    | some p, some b => match (padsUp s).loadFirmware b ((padsUp s).bankHeader b) with
      | some fw => startChosen (procStops (launched (padsUp s) b fw) p) t
      | none => startChosen (padsUp s) t
    | _, _ => startChosen (padsUp s) t) = _
  rw [hp, hc]
  dsimp only
  rw [hf]

/-- A processor fault before step 8 or none, the start goes through the bank that the ROM chooses. -/
theorem startUp_startable {r : State} {t : StartTest} {b : Fin 2} {img : List Section} (h : r.Startable r b img)
    (hp : t.proc = none ∨ r.boot.failed.get b < 2) : ∃ u, startUp r t = startChosen u t ∧ r.Startable u b img := by
  have hpads := (padsUp_effect r).1
  have hready := h.onward hpads
  cases hproc : t.proc with
  | none => exact ⟨padsUp r, startUp_chosen (.inl hproc), hready⟩
  | some p =>
    obtain ⟨fw, hfw⟩ := loadFirmware_of_loadSections hready.sections
    have hfail : (padsUp r).boot.failed.get b < 2 := by
      rw [hpads.flash.failed]
      exact hp.resolve_left (by simp [hproc])
    exact ⟨procStops (launched (padsUp r) b fw) p, startUp_again hproc hready.chosen hfw,
      (hready.counted hfail).onward ((launched_effect (padsUp r) b fw).1.trans (procStops_boots _ p))⟩

theorem strapped_startable {s : State} {id : BitVec 2} {split : Bool} {b : Fin 2} {img : List Section}
    (hc : (strapped s id split).chooseBank = some b)
    (hl : (strapped s id split).loadSections b ((strapped s id split).bankHeader b) = some img) :
    (strapped s id split).Startable (strapped s id split) b img :=
  ⟨hc, hl, ⟨rfl, rfl, rfl⟩, ⟨rfl, rfl, rfl, rfl⟩⟩

/-! ### The recovery mailbox (R438) -/

/-- The mailbox serves the recovery of the device. -/
def recoveryServed (s : State) : State := (s.onBoot fun b => { b with recovery := true }).onHst fun h => { h with ready := true }

theorem recovery_eq (s : State) : recovery s = recoveryServed (powerDomains s .onFio) := rfl

theorem recoveryServed_effect (s : State) : s.keeps [.boot, .hst] (recoveryServed s) ∧ (recoveryServed s).boot.recovery = true ∧
    (recoveryServed s).hst.ready = true :=
  ⟨fun k hk => by cases k <;> first | rfl | simp at hk, rfl, rfl⟩

theorem recovery_effect (s : State) : s.keeps [.pwr, .boot, .hst] (recovery s) ∧ (recovery s).boot.recovery = true ∧
    (recovery s).hst.ready = true := by
  obtain ⟨hk, hrec, hready⟩ := recoveryServed_effect (powerDomains s .onFio)
  rw [recovery_eq]
  exact ⟨State.keeps_trans (State.keeps_mono (powerDomains_keeps s .onFio) (by simp)) (State.keeps_mono hk (by simp)), hrec, hready⟩

theorem startUp_recovers {s : State} (t : StartTest) (h0 : s.bankValid 0 = false) (h1 : s.bankValid 1 = false) :
    startUp s t = recovery (padsUp s) := by
  have hnone : (padsUp s).chooseBank = none := by
    rw [chooseBank_congr (padsUp_effect s).1.flash, chooseBank_none h0 h1]
  rw [startUp_chosen (.inr hnone), startChosen_none hnone]

/-- What POWER_GOOD keeps of a device in reset with its straps. -/
theorem strapped_facts (s : State) (id : BitVec 2) (split : Bool) : (strapped s id split).ctxs = (resetDevice s).ctxs ∧
    (strapped s id split).rng.id = id ∧ (strapped s id split).pins.xspiSplit = split ∧ (strapped s id split).dev = .boot ∧
    (strapped s id split).img = [] ∧ (strapped s id split).mem = [] ∧ (strapped s id split).boot.failed = s.boot.failed :=
  ⟨rfl, rfl, rfl, rfl, rfl, rfl, rfl⟩

end Sys2Proof.Machine

/-- Settles O2: the bank that the ROM chooses stays the chosen one through the first steps (`State.Boots`), the test is the split
(`startTest_eq`), and the later steps leave what the start shows (`StartView`). -/
theorem powerGoodStartsABankOrRecovers : Obligations.PowerGoodStartsABankOrRecovers := by
  have hstart (s : State) (id : BitVec 2) (split : Bool) (tst : StartTest) (b : Fin 2) (img : List Section)
      (hc : (strapped s id split).chooseBank = some b)
      (hl : (strapped s id split).loadSections b ((strapped s id split).bankHeader b) = some img)
      (hp : tst.proc = none ∨ s.boot.failed.get b < 2) :
      ∃ u, startUp (strapped s id split) tst = startChosen u tst ∧ (strapped s id split).Startable u b img :=
    startUp_startable (strapped_startable hc hl) hp
  refine ⟨fun s id split tst b img ⟨hc, hl⟩ hp h0 => ?_, fun s id split tst b img ⟨hc, hl⟩ hp h0 => ?_,
    fun s id split tst ⟨h0, h1⟩ => ?_⟩
  · obtain ⟨u, hu, hs⟩ := hstart s id split tst b img hc hl hp
    obtain ⟨-, hid', hsplit', -⟩ := strapped_facts s id split
    obtain ⟨hdev, himg, hbank, hid, hsplit, htr, hto, hready, hprocs, hrec⟩ := startChosen_passed hs h0
    obtain ⟨t, ht, hq⟩ := finish_next s (startChosen u tst)
    have hproc (p : Proc) : t.proc p = (startChosen u tst).proc p := by
      rw [State.proc, State.proc, (hq.1 .fwp (by simp) : t.fwp = _)]
    exact ⟨t, by rw [exec_powerGood, hu, ht], hq.dev.trans hdev, (hq.bootOf (fun b => b.bank) fun _ => rfl).trans hbank,
      hq.img.trans himg, (congrArg RngRegs.id hq.rng).trans (hid.trans hid'),
      (hq.pinsOf (fun p => p.xspiSplit) fun _ => rfl).trans (hsplit.trans hsplit'),
      by rw [hq.tly, htr], by rw [hq.tly, hto], (hq.hstOf (fun h => h.ready) fun _ => rfl).trans hready,
      fun p => by rw [hproc, hprocs], (hq.bootOf (fun b => b.recovery) fun _ => rfl).trans hrec⟩
  · obtain ⟨u, hu, hs⟩ := hstart s id split tst b img hc hl hp
    obtain ⟨hctxs', -⟩ := strapped_facts s id split
    obtain ⟨hdev, hbank, hok, hhold, herr, hctxs⟩ := startChosen_failed hs h0
    obtain ⟨t, ht, hq⟩ := finish_next s (startChosen u tst)
    have hsafe : t.dev = .safe := hq.dev.trans hdev
    exact ⟨t, by rw [exec_powerGood, hu, ht], hsafe, (hq.bootOf (fun b => b.bank) fun _ => rfl).trans hbank, by rw [hq.tly, hok],
      (finish_pinsOk ht).trans (safeStOf_safe hsafe), (hq.errOut hhold).trans herr,
      (hq.1 .ctxs (by simp) : t.ctxs = _).trans (hctxs.trans hctxs')⟩
  · have hup : startUp (strapped s id split) tst = recovery (padsUp (strapped s id split)) := startUp_recovers tst h0 h1
    obtain ⟨-, -, -, hdev', himg, hmem, -⟩ := strapped_facts s id split
    obtain ⟨hk, hrec, hready⟩ := recovery_effect (padsUp (strapped s id split))
    have hpads := (padsUp_effect (strapped s id split)).2
    obtain ⟨t, ht, hkt, hq⟩ := finish_keeps (old := s) (State.keeps_trans (l := [.pins, .pwr, .boot, .hst])
      (State.keeps_mono hpads (by simp)) (State.keeps_mono hk (by simp)))
    have hdev : t.dev = .boot := (hkt .dev (by simp)).trans hdev'
    exact ⟨t, by rw [exec_powerGood, hup, ht], hdev,
      (hq.bootOf (fun b => b.recovery) fun _ => rfl).trans hrec, (hq.hstOf (fun h => h.ready) fun _ => rfl).trans hready,
      (hkt .img (by simp)).trans himg, (hkt .mem (by simp)).trans hmem, (finish_pinsOk ht).trans (safeStOf_boot hdev)⟩
end
